-- ==== Sys2Proof/Word.lean ====
section
/-!
DEFINITION. The words of the HK-4 and the sparse tables that hold its numbered state.
Sizes: 00 R7. Unit numbers: 01 R16, R18, R23, R33.
-/

namespace Sys2Proof

/-- A double: the width of a general register and of a token's PAYLOAD. -/
abbrev Word := BitVec 64
/-- One byte of memory. -/
abbrev Byte := BitVec 8
/-- A thread-form or graph-form instruction word. -/
abbrev Inst := BitVec 32
/-- A register number of Table 6-5. -/
abbrev Reg := BitVec 6
/-- Logical die number. -/
abbrev Die := BitVec 6
/-- Shuttle core number on a die. -/
abbrev CoreNo := BitVec 11
/-- Barrel slot number on a core. -/
abbrev SlotNo := BitVec 4
/-- Shed number on a die, or loom-relative index. -/
abbrev ShedNo := BitVec 9
/-- Bobbin hart number on a die. -/
abbrev HartNo := BitVec 6
/-- Hardware queue number on a die. -/
abbrev HqNo := BitVec 12
/-- Loom number on a die. -/
abbrev LoomNo := BitVec 7

/-- A table by number: ascending keys, and no entry that equals the table's default. -/
abbrev Tbl (α : Type) := List (Nat × α)

/-- One bit from a truth value. -/
abbrev bit (b : Bool) : BitVec 1 := BitVec.ofBool b

end Sys2Proof
end

