-- ==== Sys2Proof/Config.lean ====
section
/-!
DEFINITION. What the manual leaves open: the free values, each an opaque constant applied to a counter of the state or
to the operands, and the sizes an implementation fixes. No proof can see a value of one.
-/

namespace Sys2Proof.Config

/-- Which of the agents that could move does so next (log entry 1). -/
opaque pick : Nat → Nat
/-- How many aclk pass with one move (log entry 2). -/
opaque elapsed : Nat → Sys2Proof.Word
/-- Whether a line or entry a cache was given is still in it (log entry 8). -/
opaque cacheHolds : Nat → Bool
/-- Whether a walk that reads a CONTIG leaf forms an entry for the whole group (log entry 8). -/
opaque formsGroup : Nat → Bool
/-- The FP32 bits an SFU gives, before they are held to the bound of Table 7-9 (log entry 11). -/
opaque sfuBits : Nat → BitVec 32 → BitVec 32
/-- Whether the second of a route entry's two normal paths has more free credits (log entry 12). -/
opaque secondPath : Nat → Bool
/-- Whether a network register's link has room for a word (log entry 12). -/
opaque linkRoom : Nat → Bool
/-- The 4 KiB units a journal record takes, by the doubles it holds (log entry 12). -/
opaque journalPages : Nat → Nat
/-- What an operand record or register read returns where the manual defines no value (log entry 4). -/
opaque freeWord : Nat → Sys2Proof.Word

/-- The SHA-384 digests of the vendor's public keys that the boot ROM holds: Ed25519, then ML-DSA-65 (11 R340; log entry 13). -/
opaque romDigests : List Sys2Proof.Byte × List Sys2Proof.Byte
/-- Whether an Ed25519 signature of a message verifies under a public key (11 R340). -/
opaque ed25519Verifies : List Sys2Proof.Byte → List Sys2Proof.Byte → List Sys2Proof.Byte → Bool
/-- Whether an ML-DSA-65 signature of a message verifies under a public key (11 R340). -/
opaque mldsaVerifies : List Sys2Proof.Byte → List Sys2Proof.Byte → List Sys2Proof.Byte → Bool
/-- The device secret: what the uninitialised SRAM of a die's core 0 gives, corrected with the helper data; none where it can not be
corrected (11 R341). -/
opaque pufSecret : BitVec 6 → List Sys2Proof.Byte → Option (BitVec 256)
/-- The Ed25519 and ML-DSA-65 public keys derived from a device secret (11 R341). -/
opaque deviceKeys : BitVec 256 → List Sys2Proof.Byte × List Sys2Proof.Byte
/-- The two signatures of a message under the keys derived from a device secret (11 R341, R342). -/
opaque deviceSigns : BitVec 256 → List Sys2Proof.Byte → List Sys2Proof.Byte

end Sys2Proof.Config
end

