-- ==== Sys2Proof/Machine/Tbl.lean ====
section
/-!
DEFINITION. The sparse tables: reading and writing one entry, and sets of numbers. Written entries are kept in
ascending order of their keys, with no entry that equals the default.
-/

namespace Sys2Proof

/-- The entry of key k; the default d when none is listed. -/
def tblGet {α : Type} (d : α) (k : Nat) : Tbl α → α
  | [] => d
  | (i, x) :: r => if i = k then x else tblGet d k r

/-- Inserts an entry before the first greater key. -/
def tblInsert {α : Type} (k : Nat) (v : α) : Tbl α → Tbl α
  | [] => [(k, v)]
  | (i, x) :: r => if k < i then (k, v) :: (i, x) :: r else (i, x) :: tblInsert k v r

/-- Removes every entry of key k. -/
def tblDel {α : Type} (k : Nat) : Tbl α → Tbl α
  | [] => []
  | (i, x) :: r => if i = k then tblDel k r else (i, x) :: tblDel k r

/-- Writes the entry of key k: an entry equal to the default is not listed. -/
def tblSet {α : Type} [DecidableEq α] (d : α) (k : Nat) (v : α) (t : Tbl α) : Tbl α :=
  if v = d then tblDel k t else tblInsert k v (tblDel k t)

/-- A table of n entries. -/
def tblOf {α : Type} [DecidableEq α] (dflt : α) (n : Nat) (f : Nat → α) : Tbl α :=
  (List.range n).foldl (fun t j => tblSet dflt j (f j) t) []

/-- The canonical form: keys strictly rising, and no entry equal to the default. -/
def tblWf {α : Type} [DecidableEq α] (d : α) : Tbl α → Bool
  | [] => true
  | [(_, x)] => x != d
  | (i, x) :: (j, y) :: r => x != d && i < j && tblWf d ((j, y) :: r)

/-- Adds a number to a rising list of numbers. -/
def setAdd (k : Nat) : List Nat → List Nat
  | [] => [k]
  | i :: r => if k < i then k :: i :: r else if k = i then i :: r else i :: setAdd k r

/-- Removes a number from a list of numbers. -/
def setDel (k : Nat) (l : List Nat) : List Nat := l.filter (· != k)

/-- A rising list of numbers. -/
def setWf : List Nat → Bool
  | [] => true
  | [_] => true
  | i :: j :: r => i < j && setWf (j :: r)

end Sys2Proof
end

