-- ==== Sys2Proof/Syntax.lean ====
section
/-!
DEFINITION. The syntax: one constructor of Instr per row of the opcode table, and the types of its operands.
Thread forms: 06 R174 to R193. Graph forms: 06 R176, R190, 08 R239. Events: the rows without an encoding, each with
what the unit, the host or the outside world brings to it.
-/

namespace Sys2Proof

/-- Scopes of Table 5-1. -/
inductive Scope where
  | s | c | k | d | p | h
  deriving DecidableEq, Repr

/-- The three-bit code of a scope (Table 5-1). -/
def Scope.code : Scope → BitVec 3
  | .s => 0 | .c => 1 | .k => 2 | .d => 3 | .p => 4 | .h => 5

/-- FP format fields (Table 6-11): `tw` stands for the PE's twill format, in graph form only. -/
inductive Fmt3 where
  | f64 | f32 | f16 | bf16 | e4m3 | e5m2 | tw
  deriving DecidableEq, Repr

/-- The code of an FP format field. -/
def Fmt3.code : Fmt3 → BitVec 3
  | .f64 => 0 | .f32 => 1 | .f16 => 2 | .bf16 => 3 | .e4m3 => 4 | .e5m2 => 5 | .tw => 6

/-- Matrix format fields (Table 6-11). -/
inductive Mf3 where
  | int8 | e4m3 | e5m2 | tw8 | tw6 | tw3 | bf16 | fp16
  deriving DecidableEq, Repr

/-- The code of a matrix format field. -/
def Mf3.code : Mf3 → BitVec 3
  | .int8 => 0 | .e4m3 => 1 | .e5m2 => 2 | .tw8 => 3 | .tw6 => 4 | .tw3 => 5 | .bf16 => 6 | .fp16 => 7

/-- Twill format fields (Table 6-11). -/
inductive Twf where
  | tw3 | tw6 | tw8
  deriving DecidableEq, Repr

/-- The code of a twill format field. -/
def Twf.code : Twf → BitVec 3
  | .tw3 => 0 | .tw6 => 1 | .tw8 => 2

/-- Integer destinations of ICVT (R219). -/
inductive IntFmt where
  | i64 | i32 | i16 | i8
  deriving DecidableEq, Repr

/-- The code of an ICVT integer format. -/
def IntFmt.code : IntFmt → BitVec 2
  | .i64 => 0 | .i32 => 1 | .i16 => 2 | .i8 => 3

/-- How SOLICIT combines responses (R292). -/
inductive Combine where
  | none | sum | min | max
  deriving DecidableEq, Repr

/-- The code of a combine. -/
def Combine.code : Combine → BitVec 3
  | .none => 0 | .sum => 1 | .min => 2 | .max => 3

/-- ALU operations (Table 7-2). -/
inductive AluOp where
  | add | sub | and | or | xor | andn | orn | xnor | shl | shr | sra | rol | ror
  | slt | sltu | min | max | minu | maxu
  deriving DecidableEq, Repr

/-- MULDIV operations (Table 7-3). -/
inductive MulOp where
  | mul | mulh | mulhu | mulhsu | div | divu | rem | remu
  deriving DecidableEq, Repr

/-- BITS operations (Table 7-4). -/
inductive BitsOp where
  | clz | ctz | popc | brev | bswap | sextb | sexth | sextw | zextw
  deriving DecidableEq, Repr

/-- FP arithmetic (Table 7-5). -/
inductive FpOp where
  | fadd | fsub | fmul | fdiv | fmin | fmax | fsqrt
  deriving DecidableEq, Repr

/-- Fused multiply-add family (Table 7-6). -/
inductive FmaOp where
  | fma | fms | fnma | fnms
  deriving DecidableEq, Repr

/-- FP comparisons (Table 7-7). -/
inductive CmpOp where
  | feq | flt | fle | funord
  deriving DecidableEq, Repr

/-- SFU functions (Table 7-9). -/
inductive SfuOp where
  | exp2 | log2 | rcp | rsq | sin | cos | tanh
  deriving DecidableEq, Repr

/-- Loads (Table 7-10). -/
inductive LoadOp where
  | b | h | w | d | bu | hu | wu
  deriving DecidableEq, Repr

/-- Stores (R227). -/
inductive StoreOp where
  | b | h | w | d
  deriving DecidableEq, Repr

/-- Full/empty operations (Table 7-11). -/
inductive FeOp where
  | lde | take | put | fill | purge | festat | waitf | trytake
  deriving DecidableEq, Repr

/-- Amo operations (Table 7-12). -/
inductive AmoOp where
  | swap | add | and | or | xor | min | max | maxu
  deriving DecidableEq, Repr

/-- Update-unit operations (R252). -/
inductive UpdOp where
  | int (op : AmoOp) | fadd | fmin | fmax
  deriving DecidableEq, Repr

/-- The operation of an element-wise node: the graph reading of OP 0x01 to 0x03 and 0x10 to 0x16 (R191). -/
inductive ElemOp where
  | alu (op : AluOp)
  | mul (op : MulOp)
  | bits (op : BitsOp)
  | fp (op : FpOp) (f : Fmt3)
  | fma (op : FmaOp) (f : Fmt3)
  | cmp (op : CmpOp) (f : Fmt3)
  | fcvt (dst src : Fmt3)
  | fclass (f : Fmt3)
  | icvtTo (k : IntFmt) (f : Fmt3)
  | icvtFrom (f : Fmt3)
  | sfu (op : SfuOp) (f : Fmt3)
  deriving DecidableEq, Repr

/-- The port of a slot that a target names (Table 6-3). -/
inductive NodePort where
  | l | r | p | s | o
  deriving DecidableEq, Repr

/-- A target of a graph-form word (R177): none, a port of a slot, or a port of the shed (F0 to F7 are 0 to 7, C0 to C7
are 8 to 15). -/
inductive Target where
  | none
  | node (slot : BitVec 6) (port : NodePort)
  | shed (port : BitVec 4)
  deriving DecidableEq, Repr

/-- A barrel slot of the panel. -/
structure SlotId where
  die : Die
  core : CoreNo
  slot : SlotNo
  deriving DecidableEq, Repr

/-- A unit with an error log (R377). -/
inductive LogUnit where
  | dieControl | heddle | hostPort | queues
  | link (n : BitVec 2) | hbm (n : BitVec 4) | hart (n : HartNo) | l2 (n : BitVec 10)
  | shed (n : ShedNo) | core (n : CoreNo)
  deriving DecidableEq, Repr

/-- One entry of the repair map (R342): kind 1 slot, 2 register-file bank, 3 core, 4 shed, 5 CIM macro, 6 hart. -/
structure RepairEntry where
  kind : BitVec 4
  unit : BitVec 11
  sub : BitVec 4
  deriving DecidableEq, Repr

/-- One path of a route table entry (R38). -/
structure Path where
  esc : Bool
  hops : BitVec 5
  turns : BitVec 36
  deriving DecidableEq, Repr

/-- A route table entry: two normal slots and the escape slot, each present or absent (R38). -/
structure RouteEntry where
  norm0 : Option Path
  norm1 : Option Path
  esc : Option Path
  deriving DecidableEq, Repr

/-- The route table of a die's cores, or of one of them, one entry per logical die in order. -/
structure RouteTable where
  die : Die
  entries : List RouteEntry
  core : Option CoreNo := none
  deriving DecidableEq, Repr

/-- What firmware writes at the end of the probe window (R343): the route table of a die, and those of the cores for which it
writes another. -/
structure Probe where
  routes : List RouteEntry
  coreRoutes : List (CoreNo × List RouteEntry) := []
  deriving DecidableEq, Repr

/-- One launch ring as stage 7 leaves it (R344): its place and its parked dispatch thread. -/
structure RingInit where
  base : BitVec 48
  slots : BitVec 16
  core : CoreNo
  pc : Word
  deriving DecidableEq, Repr

/-- An address context as stage 7 writes it (R337, Tables 4-10, 4-11): its number and its two doubles. -/
structure CtxInit where
  ctx : BitVec 12
  table : Word
  mode : Word
  deriving DecidableEq, Repr

/-- What the dispatch thread of a level completes (R345): the level and ring slot of the launch, the loom that a graph task had,
and the STATUS it reports. -/
structure LaunchDone where
  level : BitVec 2
  ringSlot : BitVec 16
  loom : BitVec 7
  status : BitVec 32
  deriving DecidableEq, Repr

/-- The 1 ms averages of Table 11-8. -/
structure PowerMeas where
  rows : List (BitVec 16)
  die : BitVec 16
  hbm : BitVec 16
  vcore : BitVec 16
  tmax : BitVec 8
  deriving DecidableEq, Repr

/-- A flit as it arrives on an Ilulen link (R429, R431). -/
structure LinkFlit where
  source : Die
  gen : BitVec 8
  seq : BitVec 12
  crcOk : Bool
  packet : Nat
  deriving DecidableEq, Repr

/-- What the outside world brings with an event, or what a register write carries besides its value. -/
inductive Payload where
  | none
  /-- SELF_TEST: the units that failed. -/
  | repairs (l : List RepairEntry)
  /-- HBM_TRAINING_DONE: the stacks that trained. -/
  | stacks (ok : BitVec 12)
  /-- LINK_TRAINING_DONE: the links that are up, those whose training failed, and whether the host port trained. -/
  | links (up failed : BitVec 4) (pcie : Bool)
  | probe (p : Probe)
  /-- LAUNCH_RINGS_READY: the rings, the address contexts and the entries of draft version 0 that firmware writes. -/
  | rings (l : List RingInit) (ctxs : List CtxInit) (draft : List (BitVec 12 × Word))
  /-- A host write at offset o of window win. -/
  | hostWrite (win : BitVec 4) (o : BitVec 32) (data : List Byte)
  /-- A host read of n bytes at offset o of window win. -/
  | hostRead (win : BitVec 4) (o : BitVec 32) (n : Nat)
  /-- A host register read (none) or write through BAR0. -/
  | bar0 (o : BitVec 30) (data : Option Word)
  | launch (l : LaunchDone)
  | power (p : PowerMeas)
  /-- A register write: the offset in the die's device register space, and whether privileged code made it. -/
  | register (o : BitVec 40) (priv : Bool)
  /-- A held access of the held-fault table, with its generation. -/
  | fault (fid gen : BitVec 8)
  /-- A unit with an error log. -/
  | logUnit (u : LogUnit)
  | routes (l : List RouteTable)
  | flit (f : LinkFlit)
  /-- SHEDFAIL: whether the shed's self-test then passes. -/
  | passed (ok : Bool)
  deriving DecidableEq, Repr

/-- What an event is about: the unit that acts, by die and number, the numbered access or message, and what comes with
it. An event reads the fields its row's docstring names. -/
structure EvArg where
  die : Die := 0
  core : CoreNo := 0
  slot : SlotNo := 0
  shed : ShedNo := 0
  /-- A port, macro, trigger, link, loom, hart, queue, skein, bank, graph slot or heddle entry number. -/
  unit : Nat := 0
  /-- The token context of a graph node. -/
  ctx : BitVec 2 := 0
  /-- The number of an access, message, token or census record. -/
  id : Nat := 0
  val : Word := 0
  load : Payload := .none
  deriving DecidableEq, Repr

/-- One step of the machine: the rows of the opcode table. Rows without operands stand last; an event's row has no
operands, since what it is about stands in the state (EvArg). -/
inductive Instr where
  /-- ADD (R204). -/
  | add (w : Bool) (d : Reg) (a : Reg) (b : Reg)
  /-- SUB (R204). -/
  | sub (w : Bool) (d : Reg) (a : Reg) (b : Reg)
  /-- AND (R204). -/
  | and (w : Bool) (d : Reg) (a : Reg) (b : Reg)
  /-- OR (R204). -/
  | or (w : Bool) (d : Reg) (a : Reg) (b : Reg)
  /-- XOR (R204). -/
  | xor (w : Bool) (d : Reg) (a : Reg) (b : Reg)
  /-- ANDN (R204). -/
  | andn (w : Bool) (d : Reg) (a : Reg) (b : Reg)
  /-- ORN (R204). -/
  | orn (w : Bool) (d : Reg) (a : Reg) (b : Reg)
  /-- XNOR (R204). -/
  | xnor (w : Bool) (d : Reg) (a : Reg) (b : Reg)
  /-- SHL (R204). -/
  | shl (w : Bool) (d : Reg) (a : Reg) (b : Reg)
  /-- SHR (R204). -/
  | shr (w : Bool) (d : Reg) (a : Reg) (b : Reg)
  /-- SRA (R204). -/
  | sra (w : Bool) (d : Reg) (a : Reg) (b : Reg)
  /-- ROL (R204). -/
  | rol (w : Bool) (d : Reg) (a : Reg) (b : Reg)
  /-- ROR (R204). -/
  | ror (w : Bool) (d : Reg) (a : Reg) (b : Reg)
  /-- SLT (R204). -/
  | slt (w : Bool) (d : Reg) (a : Reg) (b : Reg)
  /-- SLTU (R204). -/
  | sltu (w : Bool) (d : Reg) (a : Reg) (b : Reg)
  /-- MIN (R204). -/
  | min (w : Bool) (d : Reg) (a : Reg) (b : Reg)
  /-- MAX (R204). -/
  | max (w : Bool) (d : Reg) (a : Reg) (b : Reg)
  /-- MINU (R204). -/
  | minu (w : Bool) (d : Reg) (a : Reg) (b : Reg)
  /-- MAXU (R204). -/
  | maxu (w : Bool) (d : Reg) (a : Reg) (b : Reg)
  /-- MUL (R205). -/
  | mul (w : Bool) (d : Reg) (a : Reg) (b : Reg)
  /-- MULH (R205). -/
  | mulh (d : Reg) (a : Reg) (b : Reg)
  /-- MULHU (R205). -/
  | mulhu (d : Reg) (a : Reg) (b : Reg)
  /-- MULHSU (R205). -/
  | mulhsu (d : Reg) (a : Reg) (b : Reg)
  /-- DIV (R205). -/
  | div (w : Bool) (d : Reg) (a : Reg) (b : Reg)
  /-- DIVU (R205). -/
  | divu (w : Bool) (d : Reg) (a : Reg) (b : Reg)
  /-- REM (R205). -/
  | rem (w : Bool) (d : Reg) (a : Reg) (b : Reg)
  /-- REMU (R205). -/
  | remu (w : Bool) (d : Reg) (a : Reg) (b : Reg)
  /-- CLZ (R206). -/
  | clz (w : Bool) (d : Reg) (a : Reg)
  /-- CTZ (R206). -/
  | ctz (w : Bool) (d : Reg) (a : Reg)
  /-- POPC (R206). -/
  | popc (w : Bool) (d : Reg) (a : Reg)
  /-- BREV (R206). -/
  | brev (w : Bool) (d : Reg) (a : Reg)
  /-- BSWAP (R206). -/
  | bswap (w : Bool) (d : Reg) (a : Reg)
  /-- SEXTB (R206). -/
  | sextb (d : Reg) (a : Reg)
  /-- SEXTH (R206). -/
  | sexth (d : Reg) (a : Reg)
  /-- SEXTW (R206). -/
  | sextw (d : Reg) (a : Reg)
  /-- ZEXTW (R206). -/
  | zextw (d : Reg) (a : Reg)
  /-- ADDI (R208). -/
  | addi (d : Reg) (a : Reg) (i13 : BitVec 13)
  /-- ANDI (R208). -/
  | andi (d : Reg) (a : Reg) (i13 : BitVec 13)
  /-- ORI (R208). -/
  | ori (d : Reg) (a : Reg) (i13 : BitVec 13)
  /-- XORI (R208). -/
  | xori (d : Reg) (a : Reg) (i13 : BitVec 13)
  /-- SHLI (R209). -/
  | shli (w : Bool) (d : Reg) (a : Reg) (n6 : BitVec 6)
  /-- SHRI (R209). -/
  | shri (w : Bool) (d : Reg) (a : Reg) (n6 : BitVec 6)
  /-- SRAI (R209). -/
  | srai (w : Bool) (d : Reg) (a : Reg) (n6 : BitVec 6)
  /-- ROLI (R209). -/
  | roli (w : Bool) (d : Reg) (a : Reg) (n6 : BitVec 6)
  /-- RORI (R209). -/
  | rori (w : Bool) (d : Reg) (a : Reg) (n6 : BitVec 6)
  /-- SLTI (R208). -/
  | slti (d : Reg) (a : Reg) (i13 : BitVec 13)
  /-- SLTIU (R208). -/
  | sltiu (d : Reg) (a : Reg) (i13 : BitVec 13)
  /-- LUI (R210). -/
  | lui (d : Reg) (i19 : BitVec 19)
  /-- AUIPC (R210). -/
  | auipc (d : Reg) (i19 : BitVec 19)
  /-- ADDX (R211). -/
  | addx (w : Bool) (d : Reg) (a : Reg) (b : Reg)
  /-- SUBX (R211). -/
  | subx (w : Bool) (d : Reg) (a : Reg) (b : Reg)
  /-- MULX (R211). -/
  | mulx (w : Bool) (d : Reg) (a : Reg) (b : Reg)
  /-- CSEL_NZ (R212). -/
  | cselNz (d : Reg) (a : Reg) (b : Reg) (c : Reg)
  /-- CSEL_Z (R212). -/
  | cselZ (d : Reg) (a : Reg) (b : Reg) (c : Reg)
  /-- FADD (R214). -/
  | fadd (f : Fmt3) (d : Reg) (a : Reg) (b : Reg)
  /-- FSUB (R214). -/
  | fsub (f : Fmt3) (d : Reg) (a : Reg) (b : Reg)
  /-- FMUL (R214). -/
  | fmul (f : Fmt3) (d : Reg) (a : Reg) (b : Reg)
  /-- FDIV (R214). -/
  | fdiv (f : Fmt3) (d : Reg) (a : Reg) (b : Reg)
  /-- FMIN (R214). -/
  | fmin (f : Fmt3) (d : Reg) (a : Reg) (b : Reg)
  /-- FMAX (R214). -/
  | fmax (f : Fmt3) (d : Reg) (a : Reg) (b : Reg)
  /-- FSQRT (R214). -/
  | fsqrt (f : Fmt3) (d : Reg) (a : Reg)
  /-- FMA (R215). -/
  | fma (f : Fmt3) (d : Reg) (a : Reg) (b : Reg)
  /-- FMS (R215). -/
  | fms (f : Fmt3) (d : Reg) (a : Reg) (b : Reg)
  /-- FNMA (R215). -/
  | fnma (f : Fmt3) (d : Reg) (a : Reg) (b : Reg)
  /-- FNMS (R215). -/
  | fnms (f : Fmt3) (d : Reg) (a : Reg) (b : Reg)
  /-- FEQ (R216). -/
  | feq (f : Fmt3) (d : Reg) (a : Reg) (b : Reg)
  /-- FLT (R216). -/
  | flt (f : Fmt3) (d : Reg) (a : Reg) (b : Reg)
  /-- FLE (R216). -/
  | fle (f : Fmt3) (d : Reg) (a : Reg) (b : Reg)
  /-- FUNORD (R216). -/
  | funord (f : Fmt3) (d : Reg) (a : Reg) (b : Reg)
  /-- FCVT (R217). -/
  | fcvt (f : Fmt3) (g : Fmt3) (d : Reg) (a : Reg)
  /-- FCLASS (R218). -/
  | fclass (f : Fmt3) (d : Reg) (a : Reg)
  /-- ICVT_TO_INT (R219). -/
  | icvtToInt (k : IntFmt) (f : Fmt3) (d : Reg) (a : Reg)
  /-- ICVT_FROM_INT (R219). -/
  | icvtFromInt (f : Fmt3) (d : Reg) (a : Reg)
  /-- EXP2 (R220). -/
  | exp2 (f : Fmt3) (d : Reg) (a : Reg)
  /-- LOG2 (R220). -/
  | log2 (f : Fmt3) (d : Reg) (a : Reg)
  /-- RCP (R220). -/
  | rcp (f : Fmt3) (d : Reg) (a : Reg)
  /-- RSQ (R220). -/
  | rsq (f : Fmt3) (d : Reg) (a : Reg)
  /-- SIN (R220). -/
  | sin (f : Fmt3) (d : Reg) (a : Reg)
  /-- COS (R220). -/
  | cos (f : Fmt3) (d : Reg) (a : Reg)
  /-- TANH (R220). -/
  | tanh (f : Fmt3) (d : Reg) (a : Reg)
  /-- LD_B (R226). -/
  | ldB (d : Reg) (a : Reg) (i13 : BitVec 13)
  /-- LD_H (R226). -/
  | ldH (d : Reg) (a : Reg) (i13 : BitVec 13)
  /-- LD_W (R226). -/
  | ldW (d : Reg) (a : Reg) (i13 : BitVec 13)
  /-- LD_D (R226). -/
  | ldD (d : Reg) (a : Reg) (i13 : BitVec 13)
  /-- LD_BU (R226). -/
  | ldBu (d : Reg) (a : Reg) (i13 : BitVec 13)
  /-- LD_HU (R226). -/
  | ldHu (d : Reg) (a : Reg) (i13 : BitVec 13)
  /-- LD_WU (R226). -/
  | ldWu (d : Reg) (a : Reg) (i13 : BitVec 13)
  /-- ST_B (R227). -/
  | stB (b : Reg) (a : Reg) (i13 : BitVec 13)
  /-- ST_H (R227). -/
  | stH (b : Reg) (a : Reg) (i13 : BitVec 13)
  /-- ST_W (R227). -/
  | stW (b : Reg) (a : Reg) (i13 : BitVec 13)
  /-- ST_D (R227). -/
  | stD (b : Reg) (a : Reg) (i13 : BitVec 13)
  /-- LDE (R231). -/
  | lde (sc : Scope) (d : Reg) (a : Reg)
  /-- TAKE (R231). -/
  | take (sc : Scope) (d : Reg) (a : Reg)
  /-- PUT (R231). -/
  | put (sc : Scope) (b : Reg) (a : Reg)
  /-- FILL (R231). -/
  | fill (sc : Scope) (b : Reg) (a : Reg)
  /-- PURGE (R231). -/
  | purge (a : Reg)
  /-- FESTAT (R231). -/
  | festat (d : Reg) (a : Reg)
  /-- WAITF (R231). -/
  | waitf (sc : Scope) (a : Reg)
  /-- TRYTAKE (R231). -/
  | trytake (sc : Scope) (d : Reg) (b : Reg) (a : Reg)
  /-- AMO_SWAP (R233). -/
  | amoSwap (w : Bool) (d : Reg) (b : Reg) (a : Reg)
  /-- AMO_ADD (R233). -/
  | amoAdd (w : Bool) (d : Reg) (b : Reg) (a : Reg)
  /-- AMO_AND (R233). -/
  | amoAnd (w : Bool) (d : Reg) (b : Reg) (a : Reg)
  /-- AMO_OR (R233). -/
  | amoOr (w : Bool) (d : Reg) (b : Reg) (a : Reg)
  /-- AMO_XOR (R233). -/
  | amoXor (w : Bool) (d : Reg) (b : Reg) (a : Reg)
  /-- AMO_MIN (R233). -/
  | amoMin (w : Bool) (d : Reg) (b : Reg) (a : Reg)
  /-- AMO_MAX (R233). -/
  | amoMax (w : Bool) (d : Reg) (b : Reg) (a : Reg)
  /-- AMO_MAXU (R233). -/
  | amoMaxu (w : Bool) (d : Reg) (b : Reg) (a : Reg)
  /-- AMO_SWAP_SCOPED (R233). -/
  | amoSwapScoped (w : Bool) (sc : Scope) (d : Reg) (b : Reg) (a : Reg)
  /-- AMO_ADD_SCOPED (R233). -/
  | amoAddScoped (w : Bool) (sc : Scope) (d : Reg) (b : Reg) (a : Reg)
  /-- AMO_AND_SCOPED (R233). -/
  | amoAndScoped (w : Bool) (sc : Scope) (d : Reg) (b : Reg) (a : Reg)
  /-- AMO_OR_SCOPED (R233). -/
  | amoOrScoped (w : Bool) (sc : Scope) (d : Reg) (b : Reg) (a : Reg)
  /-- AMO_XOR_SCOPED (R233). -/
  | amoXorScoped (w : Bool) (sc : Scope) (d : Reg) (b : Reg) (a : Reg)
  /-- AMO_MIN_SCOPED (R233). -/
  | amoMinScoped (w : Bool) (sc : Scope) (d : Reg) (b : Reg) (a : Reg)
  /-- AMO_MAX_SCOPED (R233). -/
  | amoMaxScoped (w : Bool) (sc : Scope) (d : Reg) (b : Reg) (a : Reg)
  /-- AMO_MAXU_SCOPED (R233). -/
  | amoMaxuScoped (w : Bool) (sc : Scope) (d : Reg) (b : Reg) (a : Reg)
  /-- CAS (R234). -/
  | cas (w : Bool) (sc : Scope) (d : Reg) (b : Reg) (a : Reg)
  /-- FENCE_FULL (R236). -/
  | fenceFull (sc : Scope)
  /-- FENCE_ACQ (R236). -/
  | fenceAcq (sc : Scope)
  /-- FENCE_REL (R236). -/
  | fenceRel (sc : Scope)
  /-- FENCE_SYNCWIN (R237). -/
  | fenceSyncwin (sc : Scope) (a : Reg) (b : Reg)
  /-- FENCE_IFENCE (R236). -/
  | fenceIfence (sc : Scope)
  /-- BEQ (R223). -/
  | beq (a : Reg) (b : Reg) (i13 : BitVec 13)
  /-- BNE (R223). -/
  | bne (a : Reg) (b : Reg) (i13 : BitVec 13)
  /-- BLT (R223). -/
  | blt (a : Reg) (b : Reg) (i13 : BitVec 13)
  /-- BGE (R223). -/
  | bge (a : Reg) (b : Reg) (i13 : BitVec 13)
  /-- BLTU (R223). -/
  | bltu (a : Reg) (b : Reg) (i13 : BitVec 13)
  /-- BGEU (R223). -/
  | bgeu (a : Reg) (b : Reg) (i13 : BitVec 13)
  /-- JAL (R224). -/
  | jal (d : Reg) (i19 : BitVec 19)
  /-- JALR (R224). -/
  | jalr (d : Reg) (a : Reg) (i13 : BitVec 13)
  /-- BNZD (R225). -/
  | bnzd (a : Reg) (i13 : BitVec 13)
  /-- SEND (R279). -/
  | send (sc : Scope) (a : Reg) (b : Reg) (l : BitVec 3)
  /-- SENDM (R279). -/
  | sendm (sc : Scope) (a : Reg) (b : Reg) (l : BitVec 3)
  /-- RECV (R280). -/
  | recv (d : Reg) (a : Reg)
  /-- TRYRECV (R280). -/
  | tryrecv (d : Reg) (a : Reg)
  /-- PEEK (R280). -/
  | peek (d : Reg) (a : Reg)
  /-- WAITMSG (R280). -/
  | waitmsg (d : Reg)
  /-- SPAWN (R285). -/
  | spawn (d : Reg) (a : Reg) (b : Reg)
  /-- FORK (R286). -/
  | fork (d : Reg) (a : Reg) (b : Reg)
  /-- SELF (R287). -/
  | self (d : Reg)
  /-- JOINWAIT (R283). -/
  | joinwait (d : Reg) (a : Reg)
  /-- ARRIVE_RLX (R290). -/
  | arriveRlx (d : Reg) (a : Reg)
  /-- ARRIVE_REL (R290). -/
  | arriveRel (sc : Scope) (d : Reg) (a : Reg)
  /-- WAITPH (R290). -/
  | waitph (sc : Scope) (a : Reg) (b : Reg)
  /-- ARRWAIT (R290). -/
  | arrwait (sc : Scope) (d : Reg) (a : Reg)
  /-- SOLICIT (R292). -/
  | solicit (sc : Scope) (cm : Combine) (d : Reg) (a : Reg) (b : Reg)
  /-- CWAIT (R293). -/
  | cwait (d : Reg) (a : Reg)
  /-- CPOLL (R293). -/
  | cpoll (d : Reg) (a : Reg)
  /-- CRESULT (R293). -/
  | cresult (d : Reg) (a : Reg)
  /-- DIRADD (R291). -/
  | diradd (d : Reg) (a : Reg) (b : Reg)
  /-- DIRDEL (R291). -/
  | dirdel (d : Reg) (a : Reg)
  /-- DIRMOVE (R294). -/
  | dirmove (d : Reg) (a : Reg) (b : Reg)
  /-- DIRFIND (R291). -/
  | dirfind (d : Reg) (a : Reg)
  /-- TRSET (R281). -/
  | trset (a : Reg)
  /-- TRCLR (R281). -/
  | trclr (a : Reg)
  /-- TREN (R281). -/
  | tren (a : Reg) (b : Reg)
  /-- MXLD (R305). -/
  | mxld (mf : Mf3) (a : Reg)
  /-- MXMUL (R305). -/
  | mxmul (mf : Mf3) (d : Reg) (a : Reg) (b : Reg)
  /-- REPLY (R288). -/
  | reply (a : Reg)
  /-- LEASE (R295). -/
  | lease (pre : Bool) (lvl : BitVec 2) (d : Reg) (a : Reg) (b : Reg)
  /-- RELEASE (R295). -/
  | release (a : Reg)
  /-- LOADCFG (R297). -/
  | loadcfg (a : Reg) (b : Reg)
  /-- LOADCFG_FORCE (R297). -/
  | loadcfgForce (a : Reg) (b : Reg)
  /-- SBIND (R298). -/
  | sbind (a : Reg) (b : Reg)
  /-- SGO (R298). -/
  | sgo (a : Reg)
  /-- SBAR (R298). -/
  | sbar (a : Reg)
  /-- DRAIN (R299). -/
  | drain (a : Reg)
  /-- CKPT (R299). -/
  | ckpt (a : Reg)
  /-- RESUME (R299). -/
  | resume (a : Reg)
  /-- TRIG (R298). -/
  | trig (a : Reg) (b : Reg)
  /-- TQ (R298). -/
  | tq (a : Reg) (b : Reg)
  /-- VCFG (R300). -/
  | vcfg (a : Reg)
  /-- VRUN (R302). -/
  | vrun (d : Reg) (a : Reg) (b : Reg)
  /-- VSEQ (R304). -/
  | vseq (a : Reg) (b : Reg)
  /-- VLDS (R303). -/
  | vlds (a : Reg) (b : Reg)
  /-- VSTS (R303). -/
  | vsts (a : Reg) (b : Reg)
  /-- VRED_SUM (R304). -/
  | vredSum (f : Fmt3) (d : Reg) (a : Reg)
  /-- VRED_MIN (R304). -/
  | vredMin (f : Fmt3) (d : Reg) (a : Reg)
  /-- VRED_MAX (R304). -/
  | vredMax (f : Fmt3) (d : Reg) (a : Reg)
  /-- BADDQ (R306). -/
  | baddq (tw : Twf) (d : Reg) (a : Reg) (b : Reg)
  /-- QTW (R306). -/
  | qtw (tw : Twf) (d : Reg) (a : Reg) (b : Reg)
  /-- DQTW (R306). -/
  | dqtw (tw : Twf) (d : Reg) (a : Reg) (b : Reg)
  /-- CPARM (R310). -/
  | cparm (a : Reg) (b : Reg)
  /-- CPDISARM (R310). -/
  | cpdisarm (a : Reg)
  /-- HQPUSH (R310). -/
  | hqpush (a : Reg) (b : Reg)
  /-- SYSR (R313). -/
  | sysr (d : Reg) (n12 : BitVec 12)
  /-- SYSW (R313). -/
  | sysw (n12 : BitVec 12) (a : Reg)
  /-- TRAP (R314). -/
  | trap (a : Reg)
  /-- ERET (R374). -/
  | eret (a : Reg)
  /-- WFI (R314). -/
  | wfi (a : Reg)
  /-- SPILL (R315). -/
  | spill (a : Reg) (b : Reg)
  /-- FILLSLOT (R315). -/
  | fillslot (d : Reg) (a : Reg)
  /-- SLOTREG_R (R315). -/
  | slotregR (d : Reg) (a : Reg) (b : Reg)
  /-- SLOTREG_W (R315). -/
  | slotregW (d : Reg) (a : Reg) (b : Reg)
  /-- TLBINV_ASID (R316). -/
  | tlbinvAsid (a : Reg)
  /-- TLBINV_PAGE (R316). -/
  | tlbinvPage (a : Reg) (b : Reg)
  /-- DRAFTGET (R329). -/
  | draftget (d : Reg) (a : Reg) (b : Reg)
  /-- DRAFTPIN (R329). -/
  | draftpin (d : Reg)
  /-- DRAFTUNPIN (R329). -/
  | draftunpin (a : Reg)
  /-- HEDDLE_REP (R330). -/
  | heddleRep (d : Reg) (a : Reg) (b : Reg)
  /-- HEDDLE_RET (R330). -/
  | heddleRet (d : Reg) (a : Reg) (b : Reg)
  /-- HEDDLE_PUB (R326). -/
  | heddlePub (d : Reg) (a : Reg) (b : Reg)
  /-- HEDDLE_SW (R327). -/
  | heddleSw (a : Reg)
  /-- HEDDLE_RD (R330). -/
  | heddleRd (d : Reg) (a : Reg)
  /-- ROUTE (R312). -/
  | route (d : Reg) (a : Reg) (b : Reg)
  /-- ROUTE_ESC (R312). -/
  | routeEsc (d : Reg) (a : Reg) (b : Reg)
  /-- STEER_T (R244). -/
  | steerT (t : Target) (u : Target)
  /-- STEER_F (R244). -/
  | steerF (t : Target) (u : Target)
  /-- MERGE_P (R245). -/
  | mergeP (t : Target) (u : Target)
  /-- MERGE_A (R245). -/
  | mergeA (t : Target) (u : Target)
  /-- CARRY (R246). -/
  | carry (k : BitVec 6) (t : Target) (u : Target)
  /-- INV (R247). -/
  | inv (t : Target) (u : Target)
  /-- CONST (R248). -/
  | const (k : BitVec 6) (t : Target) (u : Target)
  /-- CONST_C (R248). -/
  | constC (k : BitVec 6) (t : Target) (u : Target)
  /-- GATE (R249). -/
  | gate (t : Target) (u : Target)
  /-- ROWCTL_STRIP (R250). -/
  | rowctlStrip (t : Target) (u : Target)
  /-- ROWCTL_SPLIT (R250). -/
  | rowctlSplit (t : Target) (u : Target)
  /-- ROWCTL_EOR (R250). -/
  | rowctlEor (t : Target) (u : Target)
  /-- ROWCTL_EOG (R250). -/
  | rowctlEog (t : Target) (u : Target)
  /-- ROWCTL_EOS (R250). -/
  | rowctlEos (t : Target) (u : Target)
  /-- WIDEN (R251). -/
  | widen (sc : Scope) (t : Target) (u : Target)
  /-- MMA (R258). -/
  | mma (q : Bool) (mf : Mf3) (m : BitVec 3) (t : Target) (u : Target)
  /-- BLOAD (R255). -/
  | bload (mf : Mf3) (m : BitVec 3) (t : Target) (u : Target)
  /-- ACC_RD (R260). -/
  | accRd (m : BitVec 3) (t : Target) (u : Target)
  /-- ACC_RDCLR (R260). -/
  | accRdclr (m : BitVec 3) (t : Target) (u : Target)
  /-- ACC_CLR (R260). -/
  | accClr (m : BitVec 3) (t : Target) (u : Target)
  /-- RMAX (R263). -/
  | rmax (fb : Bool) (f : Fmt3) (t : Target) (u : Target)
  /-- ESC_ORD (R265). -/
  | escOrd (k : BitVec 6) (t : Target) (u : Target)
  /-- ESC_UNORD (R265). -/
  | escUnord (k : BitVec 6) (t : Target) (u : Target)
  /-- DELAY (R268). -/
  | delay (k : BitVec 6) (t : Target) (u : Target)
  /-- RACE (R269). -/
  | race (n : BitVec 6) (t : Target) (u : Target)
  /-- FRAME (R274). -/
  | frame (k : BitVec 6) (t : Target) (u : Target)
  /-- UNFRAME (R275). -/
  | unframe (k : BitVec 6) (t : Target) (u : Target)
  /-- UPD (R252). -/
  | upd (o : UpdOp) (t : Target) (u : Target)
  /-- CNT_D (R264). -/
  | cntD (t : Target) (u : Target)
  /-- CNT_R (R264). -/
  | cntR (t : Target) (u : Target)
  /-- LRED_SUM (R261). -/
  | lredSum (m : BitVec 3) (t : Target) (u : Target)
  /-- LRED_MAX (R261). -/
  | lredMax (m : BitVec 3) (t : Target) (u : Target)
  /-- LRED_MIN (R261). -/
  | lredMin (m : BitVec 3) (t : Target) (u : Target)
  /-- SCALE (R262). -/
  | scale (t : Target) (u : Target)
  /-- EXPLK (R271). -/
  | explk (k : BitVec 6) (t : Target) (u : Target)
  /-- ELEMENTWISE_NODE (R240). -/
  | elementwiseNode (o : ElemOp) (t : Target) (u : Target)
  /-- GRAPH_LOAD_NODE (R229). -/
  | graphLoadNode (o : LoadOp) (t : Target) (u : Target)
  /-- GRAPH_STORE_NODE (R229). -/
  | graphStoreNode (o : StoreOp) (t : Target) (u : Target)
  /-- GRAPH_FE_NODE (R232). -/
  | graphFeNode (sc : Scope) (o : FeOp) (t : Target) (u : Target)
  /-- ILL (R222). -/
  | ill
  /-- JOIN (R286). -/
  | join
  /-- EXIT (R287). -/
  | exit
  /-- YIELD (R287). -/
  | yield
  /-- TLBINV (R316). -/
  | tlbinv
  /-- HALT (R316). -/
  | halt
  /-- MODULE_RESET (R336): panel reset input or power-on. -/
  | moduleReset
  /-- PERST (R336): PERST# at the host port of a die; EvArg: die. -/
  | perst
  /-- IMAGE_VERIFY (R340): which of the two vendor signatures verified; EvArg: die, ed, mldsa. -/
  | imageVerify
  /-- IDENTITY_DERIVE (R341): whether the PUF secret was derived, and the identity; EvArg: die, ok, devid. -/
  | identityDerive
  /-- SELF_TEST (R342): the units that failed self-test; EvArg: die, failed. -/
  | selfTest
  /-- HBM_TRAINING_DONE (R337): which stacks trained; EvArg: die, ok. -/
  | hbmTrainingDone
  /-- LINK_TRAINING_DONE (R337): which links and whether the host port trained; EvArg: die, up, pcie. -/
  | linkTrainingDone
  /-- PROBE_WINDOW_END (R343): what the flood of the probe window gave, and the route tables firmware writes; EvArg: die, probe. -/
  | probeWindowEnd
  /-- LAUNCH_RINGS_READY (R344): the rings firmware writes and their dispatch cores; EvArg: die, rings. -/
  | launchRingsReady
  /-- HOST_DIRECT_WRITE (R42): a host write through direct window win; EvArg: die, win, o, data. -/
  | hostDirectWrite
  /-- HOST_DIRECT_READ (R42): a host read of n bytes through direct window win; EvArg: die, win, o, n. -/
  | hostDirectRead
  /-- FILL_ALIAS_WRITE (R43): a host write through the fill alias of window win; EvArg: die, win, o, data. -/
  | fillAliasWrite
  /-- FILL_ALIAS_READ (R43): a host read through the fill alias of window win; EvArg: die, win, o, n. -/
  | fillAliasRead
  /-- BAR0_ACCESS (R41): a host register read (none) or write through BAR0; EvArg: die, o, data. -/
  | bar0Access
  /-- LAUNCH_COMPLETION (R345): the completion a dispatch thread writes; EvArg: die, fin. -/
  | launchCompletion
  /-- POWER_DUTY_UPDATE (R347): the 1 ms averages measured; EvArg: die, meas. -/
  | powerDutyUpdate
  /-- DEQUE_POP (R66): EvArg: die, core. -/
  | dequePop
  /-- STEAL (R67): die and core of the thief; EvArg: die, core. -/
  | steal
  /-- MIGRATION_CHECK (R71): EvArg: die, core. -/
  | migrationCheck
  /-- SLOT_PACKET (R71): the packet, by its number; EvArg: id. -/
  | slotPacket
  /-- MIGRATION_ANSWER (R71): the answer, by its number; EvArg: id. -/
  | migrationAnswer
  /-- SPAWN_REQUEST (R69): the request, by its number; EvArg: id. -/
  | spawnRequest
  /-- SPAWN_ANSWER (R285): the answer, by its number; EvArg: id. -/
  | spawnAnswer
  /-- JOIN_NOTICE (R286): the notice, by its number; EvArg: id. -/
  | joinNotice
  /-- MESSAGE_ARRIVAL (R381): the message, by its number; EvArg: id. -/
  | messageArrival
  /-- MESSAGE_RETURN (R381): the returned message, by its number; EvArg: id. -/
  | messageReturn
  /-- HELD_MESSAGE_REOFFER (R382): the held message, by its number; EvArg: id. -/
  | heldMessageReoffer
  /-- TREADLE_EVALUATE (R282): EvArg: die, core. -/
  | treadleEvaluate
  /-- REMOTE_FE_COMPLETION (R118): the completion message, by its number; EvArg: id. -/
  | remoteFeCompletion
  /-- WAIT_LIMIT_EXPIRY (R385): EvArg: die, core, slot. -/
  | waitLimitExpiry
  /-- WAIT_CANCEL_ANSWER (R385): the answer, by its number; EvArg: id. -/
  | waitCancelAnswer
  /-- POLLING_PARK_RETRY (R405): the access that polls; EvArg: id. -/
  | pollingParkRetry
  /-- ACCESS_RESULT (R202): the access; EvArg: id. -/
  | accessResult
  /-- PAGE_WALK (R137): the access whose address is walked; EvArg: id. -/
  | pageWalk
  /-- SFU_GRANT (R221): EvArg: die, skein. -/
  | sfuGrant
  /-- SFU_RESULT (R221): EvArg: die, skein; val 1: the SFU begins to service a request. -/
  | sfuResult
  /-- VECTOR_COMPLETE (R300): EvArg: die, core. -/
  | vectorComplete
  /-- MX_PRODUCT_COMPLETE (R305): EvArg: die, core. -/
  | mxProductComplete
  /-- LEASE_GRANT (R46): EvArg: die. -/
  | leaseGrant
  /-- RESUME_GRANT (R299): EvArg: die. -/
  | resumeGrant
  /-- CONFIGURATION_LOAD (R297): EvArg: die, loom. -/
  | configurationLoad
  /-- DRAIN_COMPLETE (R47): EvArg: die, loom. -/
  | drainComplete
  /-- CHECKPOINT_WRITTEN (R78): EvArg: die, shed. -/
  | checkpointWritten
  /-- FIXED_RATE_STEP (R55): EvArg: die, shed. -/
  | fixedRateStep
  /-- FREE_PORT_PASS (R56): EvArg: die, shed, port. -/
  | freePortPass
  /-- CHANNEL_TOKEN_ARRIVAL (R54): the token in flight, by its number; EvArg: id. -/
  | channelTokenArrival
  /-- CREDIT_RETURN (R54): the credit in flight, by its number; EvArg: id. -/
  | creditReturn
  /-- TRIGGER_FIRE (R57): EvArg: die, shed, unit. -/
  | triggerFire
  /-- TRIGGER_HELD_PUSH (R57): EvArg: die, shed, unit. -/
  | triggerHeldPush
  /-- SBIND_PERFORM (R298): EvArg: die, shed. -/
  | sbindPerform
  /-- SGO_PERFORM (R298): EvArg: die, shed. -/
  | sgoPerform
  /-- SBAR_PERFORM (R60): EvArg: die, shed. -/
  | sbarPerform
  /-- TRIG_PERFORM (R298): EvArg: die, shed. -/
  | trigPerform
  /-- TQ_PERFORM (R298): EvArg: die, shed. -/
  | tqPerform
  /-- STREAM_ELEMENT (R127): EvArg: die, shed, fp. -/
  | streamElement
  /-- WINDOW_WRITEBACK_DONE (R161): EvArg: die, shed, fp. -/
  | windowWritebackDone
  /-- FCB_MISS_FILL (R121): the missing sector; EvArg: die, shed, pa. -/
  | fcbMissFill
  /-- PASS_ISSUE (R258): EvArg: die, shed. -/
  | passIssue
  /-- PASS_COMPLETE (R258): EvArg: die, shed, mac. -/
  | passComplete
  /-- ESCAPE_START (R75): EvArg: die, shed, gslot. -/
  | escapeStart
  /-- ESC_REPLY_ARRIVAL (R266): the reply, by its number; EvArg: id. -/
  | escReplyArrival
  /-- CONTEXT_FILL_COMPLETE (R272): the completion message, by its number; EvArg: id. -/
  | contextFillComplete
  /-- DELAY_EMIT (R268): EvArg: die, shed, gslot, ctx. -/
  | delayEmit
  /-- FRAME_TIMER_EXPIRY (R274): EvArg: die, shed, gslot. -/
  | frameTimerExpiry
  /-- FRAME_SEND (R274): EvArg: die, shed, gslot. -/
  | frameSend
  /-- FRAME_ARRIVAL (R275): the frame, by its number; EvArg: id. -/
  | frameArrival
  /-- FRAME_CREDIT_RETURN (R275): the credit, by its number; EvArg: id. -/
  | frameCreditReturn
  /-- BHKICK (R307): the store to BHKICK and the slot that made it; EvArg: die, hart, val, who. -/
  | bhkick
  /-- KICK_HELD_PERFORM (R402): EvArg: die, hart. -/
  | kickHeldPerform
  /-- COPY_START (R129): EvArg: die, hart. -/
  | copyStart
  /-- COPY_ELEMENT (R130): EvArg: die, hart; val 1: the first of its writes still to be performed (05 R163). -/
  | copyElement
  /-- HQ_TOKEN_FIRE (R310): EvArg: die, hq. -/
  | hqTokenFire
  /-- HEDDLE_WINDOW_END (R321): EvArg: die. -/
  | heddleWindowEnd
  /-- LOAD_VECTOR_BROADCAST (R323): EvArg: die. -/
  | loadVectorBroadcast
  /-- PUB_ARRIVAL (R326): EvArg: die. -/
  | pubArrival
  /-- PUB_ACKS_COMPLETE (R326). -/
  | pubAcksComplete
  /-- SWITCH_ARRIVAL (R327): EvArg: die. -/
  | switchArrival
  /-- SWITCH_ACKS_COMPLETE (R327). -/
  | switchAcksComplete
  /-- DRAINED_REPORT (R328): EvArg: die. -/
  | drainedReport
  /-- RETIRE_BROADCAST (R328). -/
  | retireBroadcast
  /-- HDCUR_WRITE (R320): EvArg: die, e, val, priv. -/
  | hdcurWrite
  /-- HDSTAT_CLEAR (R330): EvArg: die, val. -/
  | hdstatClear
  /-- SOLICIT_ARRIVAL (R292): the solicit, and the core it reaches; EvArg: id, die, core. -/
  | solicitArrival
  /-- RESPONDER_START (R292): EvArg: die, core. -/
  | responderStart
  /-- CENSUS_COMPLETE (R292): the census, by its core and index; EvArg: die, core, idx. -/
  | censusComplete
  /-- MOVE_ARRIVAL (R294): the Move, by its number; EvArg: id. -/
  | moveArrival
  /-- ACK_ARRIVAL (R294): the Ack, by its number; EvArg: id. -/
  | ackArrival
  /-- REFUSE_ARRIVAL (R294): the refusal, by its number; EvArg: id. -/
  | refuseArrival
  /-- FORWARD_ARRIVAL (R294): the Forward, by its number; EvArg: id. -/
  | forwardArrival
  /-- REMOTE_ARRIVAL (R290): the arrival or wake-up, by its number; EvArg: id. -/
  | remoteArrival
  /-- RDCTL_WRITE (R333): EvArg: die, skein, val. -/
  | rdctlWrite
  /-- RDNEXT_READ (R333): the access that reads; EvArg: die, skein, id. -/
  | rdnextRead
  /-- RDFIN_WRITE (R333): EvArg: die, skein. -/
  | rdfinWrite
  /-- XKCTL_GO (R142): EvArg: die, val. -/
  | xkctlGo
  /-- KEY_LOAD_COMPLETE (R142): EvArg: die. -/
  | keyLoadComplete
  /-- XFRESUME_RETRY (R396): EvArg: die, fid, gen. -/
  | xfresumeRetry
  /-- XFRESUME_FAIL (R396): EvArg: die, fid, gen. -/
  | xfresumeFail
  /-- TQSTAT_POP (R374): EvArg: die, core. -/
  | tqstatPop
  /-- ELOGCLR (R377): EvArg: die, unit. -/
  | elogclr
  /-- ERRSUM_CLEAR (R376): EvArg: die, val. -/
  | errsumClear
  /-- SFFLAGS_CLEAR (R103): EvArg: die, shed, val. -/
  | sfflagsClear
  /-- SXFAULT_CLEAR (R397): EvArg: die, shed, val. -/
  | sxfaultClear
  /-- SFFAULT_CLEAR (R411): EvArg: die, shed, val. -/
  | sffaultClear
  /-- RETREQ (R423): EvArg: die, core. -/
  | retreq
  /-- REGISTER_WRITE (R11): EvArg: die, off, val, priv. -/
  | registerWrite
  /-- ECC_CORRECTABLE (R406): the unit that corrected an error; EvArg: die, unit. -/
  | eccCorrectable
  /-- ECC_UNCORRECTABLE (R406): the double that cannot be corrected; EvArg: pa. -/
  | eccUncorrectable
  /-- CORESUSP (R423): EvArg: die, core. -/
  | coresusp
  /-- CORERET (R423): EvArg: die, core. -/
  | coreret
  /-- CORE_FAIL (R419): EvArg: die, core. -/
  | coreFail
  /-- CORE_HEARTBEAT_LOSS (R419): EvArg: die, core. -/
  | coreHeartbeatLoss
  /-- BANK_FAIL (R419): EvArg: die, core, bank. -/
  | bankFail
  /-- SHEDFAIL (R416): the shed, and whether its self-test passes; EvArg: die, shed, pass. -/
  | shedfail
  /-- JOURNAL_PERFORM (R421): EvArg: die. -/
  | journalPerform
  /-- LINKRETRY (R429): EvArg: die, link. -/
  | linkretry
  /-- LINK_RETRAIN (R429): EvArg: die, link. -/
  | linkRetrain
  /-- LINKDOWN (R429): EvArg: die, link. -/
  | linkdown
  /-- SPANNING_TREE_REBUILD (R430): the route tables the dies write; EvArg: routes. -/
  | spanningTreeRebuild
  /-- GENERATION_ADVANCE (R431): EvArg: die. -/
  | generationAdvance
  /-- FLIT_ARRIVAL (R431): what arrives on the link; EvArg: die, link, flit. -/
  | flitArrival
  /-- DIE_HEARTBEAT_LOSS (R433): EvArg: die. -/
  | dieHeartbeatLoss
  /-- NETWORK_WORD_ARRIVAL (R184): the word in flight, by its number; EvArg: id. -/
  | networkWordArrival
  /-- HOME_BANK_OPERATION (R117): the access; EvArg: id. -/
  | homeBankOperation
  /-- MEMORY_NODE_COMPLETION (R229): the access; EvArg: id. -/
  | memoryNodeCompletion
  /-- LINK_RETRAINED (R429): EvArg: die, link. -/
  | linkRetrained
  /-- MXLD_COMPLETE (R305): EvArg: die, core. -/
  | mxldComplete
  /-- MESSAGE_ACCEPTANCE (R380): the acceptance, by its number; EvArg: id. -/
  | messageAcceptance
  deriving DecidableEq, Repr

end Sys2Proof
end

