-- ==== Sys2Proof/Machine/State.lean ====
section
/-!
DEFINITION. The state of the panel: plain data, holding every piece of state the manual names, and State.reset. Units
that are at their reset value are not listed in the tables. Registers: Table 6-5 and the register tables of each
chapter; memory: 04 R112 to R120; what is on its way between units: lists of numbered items.
-/

namespace Sys2Proof.Machine

/-! Slots -/

/-- The slot states (Table 2-4), in the table's order. -/
inductive SlotState where
  | free | ready | waitData | mx | parkWord | parkMsg | parkJoin | parkPhase | parkCensus | parkLease | trapped
  deriving DecidableEq, Repr

/-- What a slot that is not READY waits for besides what its state says: nothing (its instruction is tried again), a
numbered access, a held access, an SFU queue entry, the answer to a numbered packet, a loom, or the acceptance of its
slot packet. -/
inductive Await where
  | retry | access (id : Nat) | held | sfu | answer (id : Nat) | loom (n : LoomNo) | departure
  deriving DecidableEq, Repr

/-- What REPLY does for a thread (Table 2-7, offset 0x158): the ESC node with its ticket, or the census identifier,
and whether REPLY has been executed. -/
inductive Role where
  | plain
  | escape (die : Die) (shed : ShedNo) (slot : BitVec 6) (ticket : BitVec 32) (replied : Bool)
  | responder (census : Word) (replied : Bool)
  deriving DecidableEq, Repr

/-- The parent a join notice goes to (Table 2-7, offset 0x114). -/
structure JoinRef where
  die : Die
  core : CoreNo
  slot : SlotNo
  inc : Byte
  deriving DecidableEq, Repr

/-- A failed access or a message return that a slot has yet to trap on: cause, sub-cause, TVAL, TAUX (R397). -/
structure Failure where
  cause : Byte
  sub : Byte
  val : Word
  aux : Word
  deriving DecidableEq, Repr

/-- A stream register (R308): bound, ended, the elements held ahead, the number delivered, and the cause with which a
copy failed. -/
structure StreamReg where
  bound : Bool := false
  ended : Bool := false
  items : List Word := []
  count : Word := 0
  fail : Option Byte := none
  deriving DecidableEq, Repr

/-- Who sent a message: a slot's thread, or a numbered engine of a die, whose messages are never returned (R382). -/
inductive Sender where
  | thread (id : SlotId) (inc : Byte)
  | engine (die : Die) (unit : Nat)
  deriving DecidableEq, Repr

/-- A message (R278, R279). -/
structure Mail where
  src : Sender
  die : Die
  core : CoreNo
  box : BitVec 5
  words : List Word
  scope : Scope
  /-- The scope of the widest release fence before the send (R150). -/
  fence : Scope := .s
  chk : Option (SlotNo × Byte)
  multi : Bool
  /-- The route handle and destination word of the send. -/
  handle : Word
  destWord : Word
  deriving DecidableEq, Repr

/-- What a store log entry does at the commit (R420): a store of some bytes, a message, a FILL or a PURGE. -/
inductive LogOp where
  | store (size : Nat)
  | mail (m : Mail)
  | fill (x : Scope)
  | purge
  deriving DecidableEq, Repr

/-- An entry of a slot's store log (R420), translated at issue. -/
structure LogEntry where
  op : LogOp
  va : Word := 0
  pa : Nat := 0
  key : Byte := 0
  data : Word := 0
  pc : Word := 0
  deriving DecidableEq, Repr

/-- A release by a thread (R150, R164): the thread, the scope, and the number before which its accesses are covered. -/
structure Release where
  src : SlotId
  inc : Byte
  scope : Scope
  id : Nat
  deriving DecidableEq, Repr

/-- A slot (R61 to R72, R183, Table 2-7). -/
structure SlotSt where
  regs : Tbl Word := []
  pc : Word := 0
  state : SlotState := .free
  await : Await := .retry
  /-- The aclk in which the slot entered its state. -/
  since : Word := 0
  /-- WLIM as it was when the slot entered its state (R313). -/
  limit : BitVec 32 := 0
  /-- The aclk of its last issue. -/
  lastIssue : Option Word := none
  fflags : BitVec 5 := 0
  frm : BitVec 3 := 0
  wlim : BitVec 32 := 0
  dom : BitVec 3 := 0
  jnl : Bool := false
  pre : Bool := true
  pin : Bool := false
  inc : Byte := 0
  lfsr : BitVec 32 := 1
  /-- mw0 to mw5. -/
  win : Tbl Word := []
  mbBox : BitVec 5 := 0
  mbLen : BitVec 3 := 0
  lastBox : BitVec 5 := 31
  role : Role := .plain
  pinned : Option (BitVec 16) := none
  jcnt : BitVec 16 := 0
  join : Option JoinRef := none
  exitTo : Option (Die × CoreNo) := none
  svstat : BitVec 4 := 0
  streams : Tbl StreamReg := []
  log : List LogEntry := []
  fails : List Failure := []
  /-- The mask a parked RECV waits on, or the pattern of a JOINWAIT, or the census of a CWAIT. -/
  parkKey : Word := 0
  /-- The register that a parked receipt or JOINWAIT writes; none for WFI. -/
  parkDst : Option Reg := none
  /-- Slots that YIELD lets issue first (R287). -/
  yielding : List Nat := []
  /-- A journaled thread's present record, how many FORKs and SPAWNs it has made since, and its parent's record with
  the ordinal and the result of the FORK or SPAWN that made it (R421, R422). -/
  jrec : Option Word := none
  jord : Nat := 0
  jparent : Option (Word × Nat) := none
  jresult : Word := 0
  /-- The widest scope of the release fences that the thread has executed: its later messages act as releases at it (R150). -/
  relScope : Scope := .s
  /-- The slot that a SPILL of this slot waits to empty; it does not issue while this slot is in WAIT-DATA (R80). -/
  spills : Option SlotId := none
  deriving DecidableEq, Repr

/-! Accesses -/

/-- Who makes an access. -/
inductive Agent where
  | slot (id : SlotId) (inc : Byte)
  | node (die : Die) (shed : ShedNo) (slot : BitVec 6) (ctx : BitVec 2)
  deriving DecidableEq, Repr

/-- What an access does at its home (07 R226 to R235, 09 R290, 08 R252). -/
inductive MemOp where
  | load (o : LoadOp)
  | store (o : StoreOp)
  | fe (o : FeOp)
  | amo (o : AmoOp) (w : Bool)
  | cas (w : Bool)
  | arrive
  | waitPhase
  | arriveWait
  | upd (o : UpdOp) (bytes : Nat)
  /-- A release fence: performed when every earlier access of the thread is (R150, R236). -/
  | fence
  deriving DecidableEq, Repr

/-- How far an access has come. -/
inductive Stage where
  /-- Its address is to be translated (R137). -/
  | walk
  /-- It is on its way to, or held before, its home. -/
  | home
  /-- It has a wait entry at its home (R118). -/
  | parked
  /-- It found its wait table full and polls (R405). -/
  | polling
  /-- It was performed and its result is on its way. -/
  | done
  /-- It is in the held-fault table (R394). -/
  | held
  /-- It has failed; what is held behind it is released when its slot is TRAPPED (R397). -/
  | failed
  deriving DecidableEq, Repr

/-- An access in progress. Accesses of one agent stand in program order. -/
structure Access where
  id : Nat
  agent : Agent
  op : MemOp
  scope : Scope
  acq : Bool
  rel : Bool
  /-- The address as the program gave it. -/
  va : Word
  ctx : BitVec 12
  /-- The address is panel physical (R133). -/
  phys : Bool
  priv : Bool
  pa : Nat := 0
  key : Byte := 0
  data : Word := 0
  expect : Word := 0
  dst : Reg := 0
  dst2 : Reg := 0
  pc : Word
  stage : Stage := .walk
  result : Word := 0
  ok : Bool := true
  /-- A retry walks without the caches (R396). -/
  fresh : Bool := false
  /-- Its slot issued on while the access was held (R395). -/
  detached : Bool := false
  /-- It observed the full state that a host's fill-alias write has set (R44). -/
  host : Bool := false
  /-- Its place among the accesses held at units that are not ready (11 R339). -/
  queued : Option Nat := none
  since : Word := 0
  /-- The firing count of a graph node's access (Table 15-2). -/
  firing : BitVec 32 := 0
  deriving DecidableEq, Repr

/-- A wait table: a skein's or an L2 slice's (R118). -/
inductive HomeTable where
  | skein (die : Die) (n : BitVec 7)
  | slice (die : Die) (n : BitVec 10)
  deriving DecidableEq, Repr

/-- A wait entry (R118). -/
structure WaitEntry where
  table : HomeTable
  pa : Nat
  op : MemOp
  agent : Agent
  dst : Reg
  data : Word
  access : Nat
  deriving DecidableEq, Repr

/-- A take-table entry (R403). -/
structure TakeEntry where
  table : HomeTable
  pa : Nat
  who : Agent
  orph : Bool
  /-- The journal record of the taker, and whether a re-run of it has still to take again (R422). -/
  record : Option Word := none
  redo : Bool := false
  deriving DecidableEq, Repr

/-- Who a held-fault entry holds: an access, a fetch, the operand record of a slot's instruction, a vector instruction, a
stream element, the stream descriptor of a feeder port (8: a trigger record), a bobbin hart's element or template. -/
inductive HeldWho where
  | access (id : Nat)
  | fetch (s : SlotId)
  | operand (s : SlotId)
  | vector (s : SlotId)
  | stream (die : Die) (shed : ShedNo) (fp : Nat)
  | descriptor (die : Die) (shed : ShedNo) (fp : Nat)
  | hart (die : Die) (n : HartNo)
  deriving DecidableEq, Repr

/-- An entry of the held-fault table in use (R394), and whether the access is being tried again (R396), or has been failed
and its finder has still to act on it. -/
structure HeldEntry where
  fid : Byte
  gen : Byte
  who : HeldWho
  cause : Byte
  sub : Byte
  va : Word
  retry : Bool := false
  fail : Bool := false
  deriving DecidableEq, Repr

/-! Messages -/

/-- A message in a mailbox with the scope of its release, and the slot that has claimed it (R282). -/
structure BoxMsg where
  words : List Word
  scope : Scope
  claim : Option SlotNo
  deriving DecidableEq, Repr

/-- The image of a migrating slot: its thread's part of the slot state (R71, Table 2-7). -/
structure SlotPacket where
  frm : SlotId
  dest : SlotId
  image : SlotSt
  deriving DecidableEq, Repr

/-- A spawn request (R69, R285). -/
structure SpawnReq where
  frm : SlotId
  inc : Byte
  die : Die
  core : CoreNo
  pc : Word
  arg : Word
  dom : BitVec 3
  frmode : BitVec 3
  wlim : BitVec 32
  jnl : Bool
  notice : Bool
  jparent : Option (Word × Nat)
  deriving DecidableEq, Repr

/-- A token (Table 2-3), and whether it is a version token that a route-mode EXPLK node has emitted and that its die counts
until it is closed (10 R328). -/
structure Token where
  payload : Word
  kind : BitVec 2
  ctx : BitVec 2
  held : Bool := false
  deriving DecidableEq, Repr

/-- A frame (R273): the die and shed that send it, the port it goes to, its sequence number, its draft version, whether
the sender's loom still counts it as a hold (R328), and its 3,072 bytes. -/
structure Frame where
  src : Die
  sender : ShedNo
  dst : Die
  shed : ShedNo
  port : BitVec 3
  seq : BitVec 32
  version : BitVec 16
  counted : Bool := true
  bytes : List Byte
  deriving DecidableEq, Repr

/-- What travels on the mesh and the links. -/
inductive Packet where
  | mail (m : Mail)
  | returned (m : Mail) (cause sub : Byte)
  | accepted (dest : SlotId)
  | slotPacket (p : SlotPacket)
  | slotAnswer (p : SlotPacket) (ok : Bool)
  | spawn (r : SpawnReq)
  | spawned (r : SpawnReq) (result : Word)
  | joined (dest : JoinRef)
  /-- The completion of a waiter parked on another skein or die (R118). -/
  | feDone (access : Nat)
  /-- The answer to a cancelled wait: whether the entry was still there (R385). -/
  | cancelled (access : Nat) (s : SlotId) (was : Bool)
  | netWord (dest : SlotId) (port : BitVec 3) (w : Word)
  | reply (die : Die) (shed : ShedNo) (slot : BitVec 6) (ticket : BitVec 32) (payload : Word) (frm : SlotId)
  | fillDone (die : Die) (shed : ShedNo) (tag : Word) (status : Byte)
  | token (die : Die) (shed : ShedNo) (port : BitVec 4) (t : Token)
  | credit (die : Die) (shed : ShedNo) (port : BitVec 4)
  | frame (f : Frame)
  | frameCredit (src dst : Die) (shed : ShedNo) (seq : BitVec 32)
  deriving DecidableEq, Repr

/-- A numbered packet. A message that met a full mailbox is held by its sender until the given aclk (R382). A release
names the thread whose earlier accesses are performed before it is observed (R147). -/
structure InFlight where
  id : Nat
  packet : Packet
  heldUntil : Option Word := none
  src : Option (SlotId × Byte) := none
  deriving DecidableEq, Repr

/-- What a responder is started with: the census, the key and tile address, and the handler's PC and modes (R292). -/
structure Pending where
  census : Word
  key : Word
  addr : Word
  pc : Word
  frm : BitVec 3
  wlim : BitVec 32
  dom : BitVec 3
  jnl : Bool
  deriving DecidableEq, Repr

/-- What travels on the reed (R30, R290, R292, R294). -/
inductive ReedMsg where
  | solicit (p : Pending) (dom : Scope)
  | move (frm : SlotId) (key addr : Word) (answered : List Word)
  | ack (dest : SlotId) (key : Word)
  | refuse (dest : SlotId) (key : Word) (code : Word)
  /-- A forward of a solicit from the core that owes the answer, and whether it is on its way back to it. -/
  | forward (source : Die × CoreNo) (p : Pending) (back : Bool)
  /-- A barrier access on its way to an object on another die, or its wake-up on the way back (R290). -/
  | barrier (access : Nat) (back : Bool)
  deriving DecidableEq, Repr

/-- A node of the reed (R30): the leaves, which are cores and sheds, and the nodes of a skein, of a stripe and segment (its number
is stripe x 4 + segment), of a segment and of a die. -/
inductive ReedNode where
  | core (d : Die) (c : CoreNo)
  | shed (d : Die) (h : ShedNo)
  | skein (d : Die) (k : BitVec 7)
  | quad (d : Die) (n : BitVec 5)
  | segment (d : Die) (g : BitVec 2)
  | die (d : Die)
  deriving DecidableEq, Repr

/-- A numbered reed message (R294): the node it has passed, the nodes it has still to reach, and the thread that a broadcast
releases. The messages of a link stand in the order in which it received them. -/
structure ReedItem where
  id : Nat
  msg : ReedMsg
  here : ReedNode
  path : List ReedNode
  src : Option (SlotId × Byte) := none
  deriving DecidableEq, Repr

/-! Cores -/

/-- A trap record (Table 14-2). -/
structure TrapRec where
  cause : Byte
  sub : Byte
  slot : SlotNo
  inc : Byte
  gone : Bool
  parks : Bool
  pc : Word
  word : Inst
  val : Word
  aux : Word
  len : BitVec 3
  scope : BitVec 3
  multi : Bool
  msg : List Word
  deriving DecidableEq, Repr

/-- A treadle pattern (R281, Table 6-16). -/
structure Treadle where
  mask : BitVec 32 := 0
  en : Bool := false
  wake : Bool := false
  handler : Word := 0
  frm : BitVec 3 := 0
  wlim : BitVec 32 := 0
  dom : BitVec 3 := 0
  jnl : Bool := false
  deriving DecidableEq, Repr

/-- The state of a tile directory entry (R291): INFLIGHT names its destination. -/
inductive TileState where
  | valid
  | inflight (die : Die) (core : CoreNo)
  | incoming
  deriving DecidableEq, Repr

/-- A tile directory entry (R291); while INFLIGHT, the address that the move will give it. -/
structure DirEntry where
  key : Word
  addr : Word
  state : TileState
  answered : List Word
  deriving DecidableEq, Repr

/-- A fork deque entry (R66, R286). -/
structure ForkEntry where
  pc : Word
  arg : Word
  dom : BitVec 3
  frm : BitVec 3
  wlim : BitVec 32
  jnl : Bool
  parent : JoinRef
  jparent : Option (Word × Nat)
  id : Nat
  deriving DecidableEq, Repr

/-- An open census at its soliciting core (R292, R428): the cores and sheds that have still to report are those of the
domain not in reported. -/
structure Census where
  idx : BitVec 3
  ident : Word
  dom : Scope
  combine : Combine
  key : Word
  notify : Option (BitVec 5)
  reported : List Nat
  owed : Nat
  answered : Nat
  lost : Nat
  value : Option Word
  complete : Bool
  deriving DecidableEq, Repr

/-- A vector instruction (R300): VCFG, VRUN, VLDS, VSTS or VRED with its operands, its destination and, for VRED, the rounding
mode of its issue. -/
inductive VecOp where
  | cfg (addr : Word)
  | run (n : Nat) (scalar : Word) (dst : Reg)
  | lds (addr : Word) (xfer : Word)
  | sts (addr : Word) (xfer : Word)
  | red (op : FpOp) (f : Fmt3) (lane : Nat) (count : Nat) (dst : Reg) (rm : BitVec 3)
  deriving DecidableEq, Repr

/-- An entry of the sequencer: the instructions it runs in order, in repetitions rep to last (VSEQ, R304; a plain
instruction is one in repetition 0), the place of the next one and of its next double, the PC that queued it, and the
number that the next access of the thread then had. -/
structure VecItem where
  ops : List VecOp
  pc : Word
  mark : Nat
  rep : Nat := 0
  last : Nat := 0
  idx : Nat := 0
  pos : Nat := 0
  deriving DecidableEq, Repr

/-- The row unit (R300 to R304): lane descriptors, cursors, slices by lane × 1024 + byte, the sequencer, and the
vector instructions queued since the last VCFG. -/
structure RowUnit where
  owner : Option SlotNo := none
  lanes : Tbl Word := []
  cursors : Tbl Nat := []
  slices : Tbl Byte := []
  queue : List VecItem := []
  since : List VecOp := []
  deriving DecidableEq, Repr

/-- A product under way on a side macro (R305): the A row with its scales, the output address, the control bits, and
the doubles of the output whose store has failed. -/
structure MxJob where
  slot : SlotNo
  mf : Mf3
  row : List Byte
  scales : List (BitVec 16)
  out : Word
  ctl : BitVec 5
  pc : Word
  skip : List Nat := []
  deriving DecidableEq, Repr

/-- The side macro (R305): the loaded format, the 8 KiB image, the accumulators by row-slot × 32 + column, the image
being loaded, and the products under way. -/
structure SideMacro where
  fmt : Mf3 := .int8
  image : Tbl Byte := []
  acc : Tbl (BitVec 32) := []
  loading : Option (Mf3 × List Byte) := none
  queue : List MxJob := []
  deriving DecidableEq, Repr

/-- A TLB entry (R138, R139): the mapped pages, the leaf it was formed from and its ASID. -/
structure TlbEntry where
  asid : BitVec 16
  vbase : Nat
  pbase : Nat
  size : Nat
  leaf : Word
  deriving DecidableEq, Repr

/-- A walk cache entry: the table entry read at a level, by ASID and the address bits above the level's span (R139). -/
structure WalkEntry where
  asid : BitVec 16
  level : Nat
  tag : Nat
  pte : Word
  deriving DecidableEq, Repr

/-- An error log (Table 14-6). -/
structure ErrLog where
  cause : Byte := 0
  count : BitVec 32 := 0
  deriving DecidableEq, Repr

/-- What a core keeps of a thread it has spilled, beside the image at an address and its words: its draft pin, its store log
and its journal records (R80, R420, R421), and its failed accesses that have still to be reported (R397). -/
structure Spilled where
  addr : Word
  words : List Word
  pinned : Option (BitVec 16)
  log : List LogEntry
  jrec : Option Word
  jord : Nat
  jparent : Option (Word × Nat)
  jresult : Word
  fails : List Failure := []
  deriving DecidableEq, Repr

/-- A shuttle core. -/
structure CoreSt where
  ctx : BitVec 12 := 0
  phys : Bool := true
  pkey : Byte := 0
  thresh : BitVec 5 := 8
  suspect : Bool := false
  retired : Bool := false
  retreq : Bool := false
  rslot : BitVec 16 := 0
  elog : ErrLog := {}
  /-- The aclk of the last 16 correctable errors (R423). -/
  errs : List Word := []
  traps : List TrapRec := []
  resv : Nat := 0
  boxes : Tbl (List BoxMsg) := []
  treadles : Tbl Treadle := []
  dir : List DirEntry := []
  deque : List ForkEntry := []
  censuses : List Census := []
  censusSeq : BitVec 16 := 0
  pending : List Pending := []
  row : RowUnit := {}
  side : SideMacro := {}
  /-- L1D lines by the physical address of the line: its 24 doubles, none for a poisoned one (15 R406). -/
  l1d : Tbl (List (Option Word)) := []
  /-- L1I words by physical address, as they were when fetched. -/
  l1i : Tbl (Option Inst) := []
  tlb : List TlbEntry := []
  lastSlot : SlotNo := 15
  halted : Bool := false
  spilled : List Spilled := []
  netIn : Tbl (List Word) := []
  /-- The 1,024-aclk period of the last migration check (R71). -/
  checked : Nat := 0
  failed : Bool := false
  /-- The aclk in which the core last evaluated its patterns (R282). -/
  evaluated : Option Word := none
  /-- The aclk that the core has skipped as a suspect one so far (16 R423). -/
  skipped : Word := 0
  /-- The core's route table where it differs from the one that firmware gives every core of its die (R38). -/
  routes : Option (List RouteEntry) := none
  deriving DecidableEq, Repr

/-- A request to the SFU of a skein (R221). -/
structure SfuReq where
  agent : Agent
  fn : SfuOp
  fmt : Fmt3
  x : Word
  dst : Reg
  /-- The register that a waiting slot's request reads when it is granted an entry (14 R386). -/
  src : Option Reg := none
  deriving DecidableEq, Repr

/-- The shared units of a skein: the SFU queue, the requests in service, the aclk of the last acceptance and of the last
beginning of service, requesters that wait for an entry by their place in the rotation, the last core and slots granted
(R221), and the reduction dispatcher (R333). -/
structure SkeinSt where
  queue : List SfuReq := []
  serving : List SfuReq := []
  accepted : Option Word := none
  begun : Option Word := none
  waiting : List (Nat × SfuReq) := []
  lastCore : Nat := 0
  lastSlot : Tbl Nat := []
  nblk : BitVec 32 := 0
  doneBlk : BitVec 32 := 0
  next : BitVec 32 := 0
  deriving DecidableEq, Repr

/-! Values -/

/-- A value read from a floating-point format: (−1)^neg × m × 2^e for a finite one. -/
inductive FVal where
  | nan (signalling : Bool)
  | inf (neg : Bool)
  | fin (neg : Bool) (m : Nat) (e : Int)
  deriving DecidableEq, Repr

/-! Sheds -/

/-- The shed states (Table 2-2). -/
inductive ShedState where
  | free | leased | loading | running | draining | saved
  deriving DecidableEq, Repr

/-- The context states (Table 2-8). -/
inductive CtxState where
  | active | miss | done
  deriving DecidableEq, Repr

/-- A port entry of the configuration (Table 9-11). -/
structure PortCfg where
  en : Bool := false
  out : Bool := false
  free : Bool := false
  rate : Nat := 0
  depth : Nat := 0
  frameIn : Bool := false
  ta : Target := .none
  tb : Target := .none
  peer : ShedNo := 0
  pport : BitVec 3 := 0
  deriving DecidableEq, Repr

/-- A port in a period: its FIFO, the tokens that a step has moved and no slot has taken yet, the credits an output holds
and those a step has reserved, its arrival counts (all, data, EOR, EOG), and the contexts whose EOS has passed an output
(R54 to R57). -/
structure PortSt where
  fifo : List Token := []
  staged : List Token := []
  credits : Nat := 0
  reserved : Nat := 0
  total : BitVec 32 := 0
  data : BitVec 32 := 0
  eor : BitVec 32 := 0
  eog : BitVec 32 := 0
  eos : BitVec 4 := 0
  deriving DecidableEq, Repr

/-- A stream of a feeder port (R126 to R128): the bound descriptor as its eight doubles, whether it runs or has ended, the
context of its tokens, the element it stands at (in an indirect stream, of the row of its index), the counts of the row,
group and stream so far, the scale and elements that a twill write stream holds, the tokens to inject before the next
element, the virtual range addressed since its last window point, the ranges whose write-back is to be done (R161), and
the contexts of starts by triggers that wait (R57); and of the last token that the port has injected the context and whether
it ended a group (R76). -/
structure StreamSt where
  desc : List Word := []
  running : Bool := false
  ended : Bool := false
  ctx : BitVec 2 := 0
  pos : Nat := 0
  index : Option Word := none
  row : BitVec 32 := 0
  group : BitVec 32 := 0
  all : BitVec 32 := 0
  scale : Option (BitVec 16) := none
  block : List Word := []
  inject : List Token := []
  range : Option (Nat × Nat) := none
  wins : List (Nat × Nat) := []
  starts : List (BitVec 2) := []
  last : Option (BitVec 2 × Bool) := none
  /-- Its next element is held (15 R395). -/
  held : Bool := false
  deriving DecidableEq, Repr

/-- A trigger (Table 9-14): its record, NEXT, whether it is armed, whether its count has been reached, and a held push. -/
structure Trigger where
  port : BitVec 4 := 0
  what : BitVec 2 := 0
  push : Bool := false
  amask : BitVec 8 := 0
  actx : BitVec 2 := 0
  hq : HqNo := 0
  next : BitVec 32 := 0
  period : BitVec 32 := 0
  token : Word := 0
  armed : Bool := false
  due : Bool := false
  heldPush : Bool := false
  deriving DecidableEq, Repr

/-- A stream command in the scoreboard (R60, R298). The address context is that of the issuing core. -/
inductive StreamCmd where
  | sbind (fp : Nat) (va : Word)
  | sgo (mask : BitVec 8) (ctx : BitVec 2)
  | sbar (mask : BitVec 8)
  | trig (va : Word)
  | tq (q : Bool) (w : Word)
  deriving DecidableEq, Repr

/-- A queued stream command: its number, the thread that issued it, the address context of that thread's core, and of a TRIG
the words of its record once the scoreboard has read them. -/
structure QueuedCmd where
  id : Nat
  cmd : StreamCmd
  src : SlotId × Byte
  ctx : BitVec 12
  words : List Word := []
  deriving DecidableEq, Repr

/-- An entry of a tile queue (R58, Table 9-15): macros as a bit mask, the row-slot of the macro and the passes left. -/
structure TileEntry where
  macros : BitVec 8
  row : Nat
  ctx : BitVec 2
  passes : Nat
  deriving DecidableEq, Repr

/-- A tile queue with its priority bit. -/
structure TileQueue where
  entries : List TileEntry := []
  prio : Bool := false
  deriving DecidableEq, Repr

/-- A pass that has issued and not completed (R258): its row-slot, context and queue, whether it is the last of its entry,
and the A row with its scales. -/
structure Pass where
  row : Nat
  ctx : BitVec 2
  q : Bool
  last : Bool
  elems : List Word
  scales : List Word
  deriving DecidableEq, Repr

/-- A CIM macro (R253): its format, the 32 KiB image, row-slots × 128 FP32 accumulators, the pass that runs and the loads
in progress; it is IDLE with neither. -/
structure MacroSt where
  fmt : Mf3 := .int8
  image : Tbl Byte := []
  acc : Tbl (BitVec 32) := []
  pass : Option Pass := none
  loads : Nat := 0
  deriving DecidableEq, Repr

/-- The state of a node, per slot and context (R243): the fields each instruction uses are named in its meaning. -/
structure NodeSt where
  primed : Bool := false
  latch : Option Token := none
  count : BitVec 32 := 0
  count2 : BitVec 32 := 0
  vals : Tbl Word := []
  toks : List Token := []
  /-- Tokens with the aclk before which they do not leave. -/
  late : List (Word × Token) := []
  extra : List (Nat × Word) := []
  /-- Results of a twill node that wait for their block, and their kinds of place. -/
  pend : List FVal := []
  deriving DecidableEq, Repr

/-- A token that a slot has produced and not yet delivered. -/
structure OutTok where
  target : Target
  tok : Token
  deriving DecidableEq, Repr

/-- An open frame of a FRAME node (R274): its destination and version, its experts in order of first appearance, its rows
as index double and bytes, the aclk of its first row, and whether the loom still counts it as a hold (R328). -/
structure OpenFrame where
  dest : Die
  version : BitVec 16
  experts : List (BitVec 12)
  rows : List (Word × List Byte)
  since : Word
  counted : Bool := true
  deriving DecidableEq, Repr

/-- A sector of a fabric cache bank (R121): 48 bytes, whether it is dirty, its key, the virtual address of its start, and the
offsets of its poisoned doubles (15 R406). -/
structure Sector where
  bytes : List Byte
  dirty : Bool
  key : Byte
  va : Nat
  bad : List Nat := []
  deriving DecidableEq, Repr

/-- A latched fault of a shed (Tables 15-4, 16-3). -/
structure ShedFault where
  cause : Byte := 0
  sub : Byte := 0
  item : BitVec 7 := 0
  more : Bool := false
  deriving DecidableEq, Repr

/-- A shed. -/
structure ShedSt where
  state : ShedState := .free
  retired : Bool := false
  retiredMacros : BitVec 8 := 0
  loom : LoomNo := 0
  rel : ShedNo := 0
  ctx : BitVec 12 := 0
  sfflags : BitVec 5 := 0
  /-- The aclk of the last set of SFFLAGS, and the flags set in it: a clear in that aclk leaves them set (R103). -/
  flagAclk : Word := 0
  flagSet : BitVec 5 := 0
  swincnt : BitVec 32 := 0
  sxfault : ShedFault := {}
  sffault : ShedFault := {}
  sdisc : BitVec 32 := 0
  elog : ErrLog := {}
  words : Tbl Inst := []
  consts : List Word := []
  scopeK : Bool := false
  fmts : Tbl (BitVec 4) := []
  rms : Tbl (BitVec 3) := []
  cfg : Tbl PortCfg := []
  updReordered : Bool := false
  bbase : Word := 0
  blen : Word := 0
  nctx : Nat := 1
  ctxState : Tbl CtxState := []
  /-- Operand tokens by (slot × 8 + port) × 4 + context. -/
  operands : Tbl (Option Token) := []
  /-- Latched scales, likewise, with the data tokens that have arrived since; the scale and the place with which the
  operand token arrived; and the aclk of its arrival. -/
  scales : Tbl (Option Word × Nat) := []
  captured : Tbl (Option Word × Nat) := []
  stamps : Tbl Word := []
  nodes : Tbl NodeSt := []
  /-- Tokens a slot has produced and not yet delivered, by slot. -/
  outq : Tbl (List OutTok) := []
  lastCtx : Tbl Nat := []
  lfsr : Tbl (BitVec 32) := []
  /-- What has stopped (R413, Table 16-3): 0 to 63 a slot, 64 and 65 the tile queues, 66 + p port p. -/
  stops : List Nat := []
  ports : Tbl PortSt := []
  streams : Tbl StreamSt := []
  trigs : Tbl Trigger := []
  cmds : List QueuedCmd := []
  tqa : TileQueue := {}
  tqb : TileQueue := {}
  turnB : Bool := false
  highRun : Nat := 0
  /-- A-row FIFOs by queue × 4 + context: complete rows of elements with their scales, and the row under construction. -/
  rows : Tbl (List (List Word × List Word)) := []
  building : Tbl (List Word × List Word) := []
  macros : Tbl MacroSt := []
  fcb : Tbl (Option Sector) := []
  tlb : List TlbEntry := []
  opened : List OpenFrame := []
  closed : List Frame := []
  frames : List Frame := []
  failed : Bool := false
  /-- The lane-private slices of the compute PEs, by PE × 1,024 + byte (R17). -/
  slices : Tbl Byte := []
  /-- The feeder ports that complete a row for a row FIFO after CKPT (08 R276). -/
  finishing : List Nat := []
  /-- The normal-class path that its FRAME node took at LOADCFG for each die (10 R318). -/
  paths : List (Option Path) := []
  /-- The checkpoint buffer, as doubles (R17, R78). -/
  ckptBuf : List Word := []
  deriving DecidableEq, Repr

/-! Looms -/

/-- The states of a loom number. -/
inductive LoomState where
  | free | leased | loading | running | draining | saving | saved | resuming
  deriving DecidableEq, Repr

/-- A loom (R46, R295): its lease, the slot that waits in LOADCFG, DRAIN, CKPT or RESUME with the word it waits at, the
record it was configured from, and the images CKPT saved. -/
structure Loom where
  state : LoomState := .free
  sheds : List ShedNo := []
  level : BitVec 2 := 0
  pre : Bool := false
  save : Word := 0
  ctx : BitVec 12 := 0
  owner : Option SlotId := none
  word : Inst := 0
  nctx : Nat := 1
  record : Word := 0
  seed : BitVec 32 := 0
  resumes : BitVec 32 := 0
  count : Nat := 0
  forced : Bool := false
  /-- What CKPT saved, one shed after another. -/
  images : List ShedSt := []
  /-- A failed shed that the control thread has still to be told of: its index, and whether the period is replayable. -/
  failed : Option (Nat × Bool) := none
  /-- Its sheds still drain after the failure of one (R416). -/
  settling : Bool := false
  /-- What makes the period not replayable (R417), and the address hulls of its streams: whether written, from, to. -/
  noReplay : Bool := false
  hulls : List (Bool × Nat × Nat) := []
  started : Word := 0
  /-- The version tokens that are not yet closed, by draft version (R328). -/
  holds : Tbl Nat := []
  deriving DecidableEq, Repr

/-- What a request at the arbiter asks for (R46, R79, R416): a new loom, the sheds of a SAVED one, or the substitute of a
failed shed at a loom-relative index. -/
inductive LeaseKind where
  | fresh
  | resume (n : LoomNo)
  | substitute (n : LoomNo) (i : Nat)
  deriving DecidableEq, Repr

/-- A request that waits at the arbiter. -/
structure LeaseReq where
  kind : LeaseKind
  who : Option (SlotId × Byte)
  level : BitVec 2
  count : Nat
  named : List ShedNo := []
  pre : Bool := false
  save : Word := 0
  ctx : BitVec 12 := 0
  dst : Reg := 0
  deriving DecidableEq, Repr

/-! Copies -/

/-- A kick in a hart's queue: the template, the core it came from and the slot it binds, whether it was privileged, the
bound stream register, the token and its use, whether the register was bound already, and for a held one the store. -/
structure Kick where
  tmpl : Word
  die : Die
  core : CoreNo
  slot : Option (SlotId × Byte)
  priv : Bool
  qb : BitVec 4
  busy : Bool := false
  token : Word := 0
  tuse : BitVec 2 := 0
  hq : Option HqNo := none
  access : Option Nat := none
  deriving DecidableEq, Repr

/-- A write of a copy element that has not been performed (R163): its number, the address, the key, the bytes, and whether it
fills. -/
structure PostedWrite where
  id : Nat
  pa : Nat
  key : Byte
  bytes : List Byte
  fills : Bool
  deriving DecidableEq, Repr

/-- A bobbin hart: queued kicks, held kick stores, the kick that runs with its template and the next element, and the element
writes still to be performed. -/
structure HartSt where
  retired : Bool := false
  queue : List Kick := []
  held : List Kick := []
  running : Option Kick := none
  tmpl : List Word := []
  elem : Nat := 0
  posted : List PostedWrite := []
  /-- Its microcode, where it is not the shipped one, and of its run the address, and g1 to g31 and the window by number (R182). -/
  micro : List Inst := []
  pc : Word := 0
  regs : Tbl Word := []
  elog : ErrLog := {}
  deriving DecidableEq, Repr

/-- A hardware queue (R310): its tokens, its arming, and until when the delivery of its head to a full mailbox waits. -/
structure HqSt where
  tokens : List Word := []
  armed : Bool := false
  mb : Bool := false
  mbox : BitVec 5 := 0
  hart : HartNo := 0
  tuse : BitVec 2 := 0
  tmpl : Word := 0
  core : CoreNo := 0
  priv : Bool := false
  heldUntil : Option Word := none
  deriving DecidableEq, Repr

/-! Heddle -/

/-- The heddle engine of a die (R319); entry is the changed entry of version OTHER, drained says that the die has
reported. -/
structure HeddleSt where
  en : Bool := false
  win : BitVec 32 := 0x400
  hot : BitVec 32 := 0xffffffff
  cold : BitVec 32 := 0
  cur : BitVec 16 := 0
  other : BitVec 16 := 0
  ost : BitVec 2 := 0
  placeCore : BitVec 11 := 0
  placeBox : BitVec 5 := 0
  busy : Bool := false
  exp : BitVec 12 := 0
  /-- The sum of the rows of the last window, and the loads of all dies as last broadcast. -/
  load : BitVec 32 := 0
  loads : Tbl (BitVec 32) := []
  cnts : Tbl (BitVec 32 × BitVec 32) := []
  curs : Tbl Word := []
  oths : Tbl Word := []
  drained : Bool := false
  entry : BitVec 12 := 0
  windowStart : Word := 0
  elog : ErrLog := {}
  deriving DecidableEq, Repr

/-! Dies -/

/-- The states of an Ilulen link (R429, R430): down since boot, in training, up, lost with its flits held until the
spanning tree is rebuilt, and lost with its flits on the detour. -/
inductive LinkState where
  | down | training | up | lost | detour
  deriving DecidableEq, Repr

/-- An Ilulen link. -/
structure LinkSt where
  state : LinkState := .down
  sendSeq : BitVec 12 := 0
  recvSeq : BitVec 12 := 0
  replays : Nat := 0
  replay : List LinkFlit := []
  elog : ErrLog := {}
  deriving DecidableEq, Repr

/-- A journal record (R421): its sequence number, the thread it belongs to, the state a re-run starts from, whether it is
sealed, the entries the engine performs, the REPLY value and the EXIT it then effects, whether it is DONE, its space, and the parent's record with the ordinal and result of the FORK or SPAWN (R422). -/
structure JournalRec where
  seq : Word
  owner : Agent
  image : SlotSt
  closed : Bool
  stores : List LogEntry := []
  reply : Option Word := none
  exit : Bool := false
  done : Bool := false
  pages : Nat
  parent : Option (Word × Nat)
  result : Word
  deriving DecidableEq, Repr

/-- A failed journaled thread that has still to be re-run (R422): the state it starts from, the core and slot it was in, and
the address context of that core. -/
structure Rerun where
  image : SlotSt
  old : SlotId
  inc : Byte
  ctx : BitVec 12
  deriving DecidableEq, Repr

/-- A row of the power table (Table 11-8), and the aclk in which it has been gated so far (R347). -/
structure PowerRow where
  pwr : BitVec 16 := 0
  cap : BitVec 16 := 0xffff
  duty : BitVec 5 := 16
  gated : Word := 0
  deriving DecidableEq, Repr

/-- A launch ring (Table 11-5). -/
structure Ring where
  base : BitVec 48 := 0
  slots : BitVec 16 := 0
  core : CoreNo := 0
  deriving DecidableEq, Repr

/-- A host window (Table 1-11). -/
structure HostWin where
  base : BitVec 16 := 0
  key : Byte := 0
  en : Bool := false
  deriving DecidableEq, Repr

/-- An address context (Tables 4-10, 4-11). -/
structure CtxReg where
  root : BitVec 36 := 0
  tkey : Byte := 0
  asid : BitVec 16 := 0
  en : Bool := false
  deriving DecidableEq, Repr

/-- A host access that its port has checked (R393): its place, the bytes it writes, or how many it reads; or the answer of a
read that reaches no unit, which keeps the order of the port's reads (R166). -/
structure HostReq where
  pa : Nat
  key : Byte
  fill : Bool
  data : Option (List Byte)
  n : Nat
  fixed : Option (Option (List Byte)) := none
  deriving DecidableEq, Repr

/-- A key slot (R140): bypass, or the data and tweak keys. -/
structure KeySlot where
  xts : Bool := false
  data : BitVec 256 := 0
  tweak : BitVec 256 := 0
  deriving DecidableEq, Repr

/-- A launch that its dispatch thread has accepted and not completed (02 R73; 11 R345): its ring and slot, the 24 doubles of its
record, the aclk of its acceptance, and the exit notices that have reached the dispatch thread's core since then. -/
structure Launch where
  level : BitVec 2
  slot : BitVec 16
  words : List Word
  since : Word
  notices : Nat := 0
  deriving DecidableEq, Repr

/-- Identity and boot of a die (11 R336 to R343). -/
structure BootSt where
  /-- The flash image (R340), which no reset changes. -/
  flash : List Byte := []
  /-- The last of the stages 1 to 3 completed, and whether stages 4 and 5 are (R337). -/
  stage : Nat := 0
  trained : Bool := false
  linked : Bool := false
  ready : BitVec 27 := 0
  devid : BitVec 128 := 0
  px : BitVec 3 := 0
  py : BitVec 3 := 0
  die : BitVec 6 := 0
  root : Bool := false
  solo : Bool := false
  good : BitVec 64 := 0
  err : BitVec 16 := 0
  present : Bool := false
  hostPort : Bool := false
  rings : Tbl Ring := []
  /-- The repair map in the flash image and the signatures behind it (R342). -/
  repairs : List RepairEntry := []
  repairSigs : List Byte := []
  deriving DecidableEq, Repr

/-- A die. -/
structure DieSt where
  boot : BootSt := {}
  power : Tbl PowerRow := []
  diePower : BitVec 16 := 0
  hbmPower : BitVec 16 := 0
  pkgcap : BitVec 16 := 0x0708
  vcore : BitVec 16 := 0
  tmax : BitVec 8 := 0
  faultCore : CoreNo := 0
  faultBox : BitVec 5 := 0
  faultEn : Bool := false
  errsum : BitVec 9 := 0
  errVector : BitVec 8 := 0
  errEn : Bool := false
  xfCore : CoreNo := 0
  xfBox : BitVec 5 := 0
  xfEn : Bool := false
  held : List HeldEntry := []
  /-- The accesses that have found a fault and wait for an entry of the full held-fault table (R394). -/
  finders : List HeldWho := []
  gens : Tbl Byte := []
  jnlBase : BitVec 48 := 0
  jnlSize : BitVec 32 := 0
  jnlNext : Word := 0
  journal : List JournalRec := []
  reruns : List Rerun := []
  ctxs : Tbl CtxReg := []
  xksel : Byte := 0
  xkdata : Tbl Word := []
  xkXts : Bool := false
  xkBusy : Bool := false
  keys : Tbl KeySlot := []
  dieLog : ErrLog := {}
  hqLog : ErrLog := {}
  hostLog : ErrLog := {}
  hbmLogs : Tbl ErrLog := []
  l2Logs : Tbl ErrLog := []
  walks : List WalkEntry := []
  /-- The route table that every core of the die holds for which CoreSt.routes gives no other (R38). -/
  routes : List RouteEntry := []
  leases : List LeaseReq := []
  /-- The launches accepted and not completed, oldest first (R345). -/
  launches : List Launch := []
  wins : Tbl HostWin := []
  /-- Accesses of the host port that wait for a unit (R339), in the order in which the port received them. -/
  hostQueue : List HostReq := []
  heddle : HeddleSt := {}
  frameSeq : Tbl (BitVec 32) := []
  frameSeen : Tbl (List (BitVec 32)) := []
  framesKept : List Frame := []
  gen : Byte := 0
  peerGens : Tbl Byte := []
  links : Tbl LinkSt := []
  deriving DecidableEq, Repr

/-- A record that left through a host port: its die, and an MSI-X vector, a completion record or a read's answer. -/
inductive HostOut where
  | msix (die : Die) (vector : BitVec 8)
  | record (die : Die) (addr : Word) (words : List Word)
  | answer (die : Die) (data : Option (List Byte))
  deriving DecidableEq, Repr

/-- What the root of the panel holds of the draft protocol (R326 to R328). -/
structure RootSt where
  publishing : Option (BitVec 16 × BitVec 12 × Word) := none
  switching : Option (BitVec 16) := none
  retiring : Option (BitVec 16) := none
  acks : List Nat := []
  drained : List Nat := []
  waiter : Option SlotId := none
  deriving DecidableEq, Repr

/-! The machine -/

/-- A graph node: a slot of a shed, for a context. -/
structure NodeId where
  die : Die := 0
  shed : ShedNo := 0
  slot : BitVec 6 := 0
  ctx : BitVec 2 := 0
  deriving DecidableEq, Repr

/-- Who moves: a slot issues, a graph node fires, or a unit or the outside world performs an event. -/
inductive Turn where
  | slot (s : SlotId)
  | node (n : NodeId)
  | event (i : Instr) (x : EvArg)
  | idle
  deriving DecidableEq, Repr

/-- What a byte of memory that nothing has written reads as (log entry 3). -/
def unlistedByte : Byte := 0

/-- The canonical form of memory: addresses strictly rising, and no entry equal to what an unlisted address reads as. -/
def Memory.wf (m : Tbl Byte) : Bool := tblWf unlistedByte m

/-- The panel. -/
structure State where
  /-- The form of the module: an HK-4S (R1). No step changes it. -/
  standalone : Bool := false
  /-- The positions py x 8 + px that the carrier straps give the dies (11 R343); of a die not listed, the position of its own
  number (log entry 7). No step changes them. -/
  straps : Tbl (Option (BitVec 6)) := []
  /-- Whose move is next (log entry 1). -/
  turn : Turn
  /-- The moves already fixed: what the outside world does, and the order in which agents move where it is given. -/
  inputs : List Turn := []
  /-- The counter that free values are applied to. -/
  tick : Nat := 0
  aclk : Word := 0
  /-- The slot whose instruction executes. -/
  cur : SlotId
  /-- The word of that instruction (TINST). -/
  word : Inst := 0
  /-- The node that fires. -/
  node : NodeId := {}
  /-- What the event is about. -/
  ev : EvArg := {}
  /-- Bytes by panel physical address, in the form of Memory.wf. -/
  mem : Tbl Byte := []
  full : List Nat := []
  poison : List Nat := []
  /-- The full doubles whose full state a host's fill-alias write has set (R44). -/
  hostFull : List Nat := []
  /-- Full fences, and arrivals with their objects and phases, whose threads have earlier accesses still to be performed
  (R150, R164). -/
  fences : List Release := []
  arrivals : List (Nat × BitVec 32 × Release) := []
  accs : List Access := []
  waits : List WaitEntry := []
  takes : List TakeEntry := []
  net : List InFlight := []
  reed : List ReedItem := []
  hostOut : List HostOut := []
  nextId : Nat := 0
  dies : Tbl DieSt := []
  cores : Tbl CoreSt := []
  skeins : Tbl SkeinSt := []
  slots : Tbl SlotSt := []
  sheds : Tbl ShedSt := []
  looms : Tbl Loom := []
  harts : Tbl HartSt := []
  hqs : Tbl HqSt := []
  root : RootSt := {}
  deriving DecidableEq, Repr

/-! Outcomes -/

/-- Why the machine stops with a fault. -/
inductive Fault where
  /-- Raised by no step of this model: every fault of the manual is a trap, a message, a status or a log entry, and
  the machine goes on. It stands so that the type has a member. Safe. -/
  | unreachable
  deriving DecidableEq, Repr

/-- Why an instruction has no meaning. -/
inductive Refusal where
  /-- Raised by an arm of exec whose instruction has no meaning yet. Safe: nothing can be proved of it. -/
  | notModelled (mnemonic : String)
  deriving DecidableEq, Repr

/-- The PC at which the boot ROM's thread starts: the start of core 0's scratchpad (log entry 5). -/
def bootPc (die : Die) : Word := 0#16 ++ die ++ 1#2 ++ 0#40

/-- The seed of a slot's stochastic-rounding LFSR when a thread starts (R99). -/
def lfsrSeed (i : SlotId) (inc : Byte) : BitVec 32 := i.core ++ i.slot ++ inc ++ 0b101010001#9

/-- Slot 15 of core 0 of a die after module reset: READY, at the boot ROM (log entry 5), whose thread is the first in its
slot (R62). -/
def bootSlot (die : Die) : SlotSt := { state := .ready, pc := bootPc die, inc := 1, lfsr := lfsrSeed ⟨die, 0, 15⟩ 1 }

/-- The slots after module reset: the boot slot of every die. -/
def bootSlots : Nat → Tbl SlotSt
  | 0 => []
  | n + 1 => bootSlots n ++ [(n * 32768 + 15, bootSlot (BitVec.ofNat 6 n))]

/-- A panel right after reset (11 R336, R337), of one die if it is an HK-4S: every slot of every core FREE but the boot slots,
every unit at the reset values of its registers, memory as log entry 3 says. -/
def State.resetOf (standalone : Bool) (straps : Tbl (Option (BitVec 6))) : State :=
  { standalone, straps, turn := .slot ⟨0, 0, 15⟩, cur := ⟨0, 0, 15⟩, slots := bootSlots (if standalone then 1 else 64) }

/-- The machine right after reset: a panel of HK-4M modules, strapped as their numbers say (log entry 7). -/
def State.reset : State := State.resetOf false []

end Sys2Proof.Machine
end

