-- ==== Sys2Proof/Machine/Ops.lean ====
section
/-!
DEFINITION. The named operations over the state: the units by number, the registers of a slot, waking and parking a
slot, sending messages, the error logs, and taking a trap and returning from one (14 R370 to R377).
-/

namespace Sys2Proof.Machine

/-! Units by number -/

/-- The key of a core. -/
def coreKey (d : Die) (c : CoreNo) : Nat := d.toNat * 2048 + c.toNat

/-- The core of a key. -/
def keyCore (k : Nat) : Die × CoreNo := (BitVec.ofNat 6 (k / 2048), BitVec.ofNat 11 (k % 2048))

/-- The key of a slot. -/
def slotKey (i : SlotId) : Nat := coreKey i.die i.core * 16 + i.slot.toNat

/-- The key of a shed. -/
def shedKey (d : Die) (h : ShedNo) : Nat := d.toNat * 512 + h.toNat

/-- The key of a loom. -/
def loomKey (d : Die) (l : LoomNo) : Nat := d.toNat * 128 + l.toNat

/-- The key of a skein. -/
def skeinKey (d : Die) (k : BitVec 7) : Nat := d.toNat * 128 + k.toNat

/-- The key of a bobbin hart. -/
def hartKey (d : Die) (h : HartNo) : Nat := d.toNat * 64 + h.toNat

/-- The key of a hardware queue. -/
def hqKey (d : Die) (q : HqNo) : Nat := d.toNat * 4096 + q.toNat

/-- The skein of a core (R18). -/
def skeinOf (c : CoreNo) : BitVec 7 := c.extractLsb' 4 7

/-- The skein that a shed faces (R21). -/
def skeinFacing (h : ShedNo) : BitVec 7 := h.extractLsb' 2 7

def State.slot (s : State) (i : SlotId) : SlotSt := tblGet {} (slotKey i) s.slots
def State.setSlot (s : State) (i : SlotId) (x : SlotSt) : State := { s with slots := tblSet {} (slotKey i) x s.slots }
def State.modSlot (s : State) (i : SlotId) (f : SlotSt → SlotSt) : State := s.setSlot i (f (s.slot i))

def State.core (s : State) (d : Die) (c : CoreNo) : CoreSt := tblGet {} (coreKey d c) s.cores
def State.setCore (s : State) (d : Die) (c : CoreNo) (x : CoreSt) : State :=
  { s with cores := tblSet {} (coreKey d c) x s.cores }
def State.modCore (s : State) (d : Die) (c : CoreNo) (f : CoreSt → CoreSt) : State := s.setCore d c (f (s.core d c))

def State.die (s : State) (d : Die) : DieSt := tblGet {} d.toNat s.dies
def State.setDie (s : State) (d : Die) (x : DieSt) : State := { s with dies := tblSet {} d.toNat x s.dies }
def State.modDie (s : State) (d : Die) (f : DieSt → DieSt) : State := s.setDie d (f (s.die d))

def State.skein (s : State) (d : Die) (k : BitVec 7) : SkeinSt := tblGet {} (skeinKey d k) s.skeins
def State.setSkein (s : State) (d : Die) (k : BitVec 7) (x : SkeinSt) : State :=
  { s with skeins := tblSet {} (skeinKey d k) x s.skeins }
def State.modSkein (s : State) (d : Die) (k : BitVec 7) (f : SkeinSt → SkeinSt) : State :=
  s.setSkein d k (f (s.skein d k))

def State.shed (s : State) (d : Die) (h : ShedNo) : ShedSt := tblGet {} (shedKey d h) s.sheds
def State.setShed (s : State) (d : Die) (h : ShedNo) (x : ShedSt) : State :=
  { s with sheds := tblSet {} (shedKey d h) x s.sheds }
def State.modShed (s : State) (d : Die) (h : ShedNo) (f : ShedSt → ShedSt) : State := s.setShed d h (f (s.shed d h))

def State.loom (s : State) (d : Die) (l : LoomNo) : Loom := tblGet {} (loomKey d l) s.looms
def State.setLoom (s : State) (d : Die) (l : LoomNo) (x : Loom) : State :=
  { s with looms := tblSet {} (loomKey d l) x s.looms }
def State.modLoom (s : State) (d : Die) (l : LoomNo) (f : Loom → Loom) : State := s.setLoom d l (f (s.loom d l))

def State.hart (s : State) (d : Die) (h : HartNo) : HartSt := tblGet {} (hartKey d h) s.harts
def State.setHart (s : State) (d : Die) (h : HartNo) (x : HartSt) : State :=
  { s with harts := tblSet {} (hartKey d h) x s.harts }
def State.modHart (s : State) (d : Die) (h : HartNo) (f : HartSt → HartSt) : State := s.setHart d h (f (s.hart d h))

def State.hq (s : State) (d : Die) (q : HqNo) : HqSt := tblGet {} (hqKey d q) s.hqs
def State.setHq (s : State) (d : Die) (q : HqNo) (x : HqSt) : State := { s with hqs := tblSet {} (hqKey d q) x s.hqs }
def State.modHq (s : State) (d : Die) (q : HqNo) (f : HqSt → HqSt) : State := s.setHq d q (f (s.hq d q))

/-- The core of the executing slot. -/
def State.curCore (s : State) : CoreSt := s.core s.cur.die s.cur.core

/-- Whether a slot is privileged: slot 15 is, and no other (R70). -/
def isPriv (i : SlotId) : Bool := i.slot == 15

/-! General registers and the window -/

/-- A general register: g0 reads zero (R183). -/
def SlotSt.g (x : SlotSt) (r : Reg) : Word := if r = 0 then 0 else tblGet 0 r.toNat x.regs

/-- Writes a general register: a write of g0 is discarded (R183). -/
def SlotSt.setG (x : SlotSt) (r : Reg) (v : Word) : SlotSt :=
  if r = 0 then x else { x with regs := tblSet 0 r.toNat v x.regs }

/-- A double of the message window (R185). -/
def SlotSt.mw (x : SlotSt) (i : Nat) : Word := tblGet 0 i x.win

/-- Writes a double of the message window (R185). -/
def SlotSt.setMw (x : SlotSt) (i : Nat) (v : Word) : SlotSt := { x with win := tblSet 0 i v x.win }

/-- Writes the whole message window, with zero beyond the words given. -/
def SlotSt.setWindow (x : SlotSt) (ws : List Word) : SlotSt :=
  (List.range 6).foldl (fun y i => y.setMw i (ws.getD i 0)) x

/-- mb (Table 6-6). -/
def SlotSt.mb (x : SlotSt) : Word := 0#53 ++ x.mbLen ++ 0#3 ++ x.mbBox

/-- esct: the ticket of an escape thread, zero in other threads (Table 6-5). -/
def SlotSt.esct (x : SlotSt) : Word :=
  match x.role with
  | .escape _ _ _ t _ => 0#32 ++ t
  | _ => 0

/-- A stream register of the slot. -/
def SlotSt.stream (x : SlotSt) (i : Nat) : StreamReg := tblGet {} i x.streams

def SlotSt.setStream (x : SlotSt) (i : Nat) (q : StreamReg) : SlotSt :=
  { x with streams := tblSet {} i q x.streams }

/-- qst (Table 6-7). -/
def SlotSt.qst (x : SlotSt) : Word :=
  let bits := fun (f : StreamReg → Bool) =>
    (List.range 8).foldl (fun (v : Word) i => if f (x.stream i) then v ||| (1#64 <<< i) else v) 0
  bits (·.bound) ||| (bits (·.ended) <<< 8)

/-- SELF (Table 6-9). -/
def selfWord (i : SlotId) (inc : Byte) : Word := 0#34 ++ i.die ++ inc ++ i.slot ++ 0#1 ++ i.core

/-! Skein neighbours (R18) -/

/-- Whether a core is part of the running die: not retired (R18). -/
def State.coreUsable (s : State) (d : Die) (c : CoreNo) : Bool := !(s.core d c).retired

/-- The partner of network register n0 to n7 of a core: the core at the other end of its link (R18); n0 to n3 N, E, S,
W in the skein, n4 to n7 the same core of the neighbouring skeins. -/
def netPartner (c : CoreNo) (p : Nat) : Option CoreNo :=
  let n := c.toNat
  let x := n % 4
  let y := n / 4 % 4
  let col := n / 16 % 16
  let stripe := n / 256
  let core := fun (k : Nat) => some (BitVec.ofNat 11 k)
  match p with
  | 0 => if 0 < y then core (n - 4) else none
  | 1 => if x < 3 then core (n + 1) else none
  | 2 => if y < 3 then core (n + 4) else none
  | 3 => if 0 < x then core (n - 1) else none
  | 4 => if 0 < stripe then core (n - 256) else none
  | 5 => if col < 15 then core (n + 16) else none
  | 6 => if stripe < 7 then core (n + 256) else none
  | 7 => if 0 < col then core (n - 16) else none
  | _ => none

/-- The register of the partner on which a word sent from register p arrives. -/
def netOpposite (p : Nat) : Nat := if p < 4 then (p + 2) % 4 else 4 + (p - 2) % 4

/-- Whether a network register of a core has a link (R18). -/
def State.hasLink (s : State) (d : Die) (c : CoreNo) (p : Nat) : Bool :=
  match netPartner c p with
  | some c' => s.coreUsable d c'
  | none => false

/-! Numbered items -/

/-- Sends a packet. -/
def State.send (s : State) (p : Packet) : State :=
  { s with net := s.net ++ [{ id := s.nextId, packet := p }], nextId := s.nextId + 1 }

/-- Sends a packet that is a release of a thread (R147): it is observed after the thread's earlier accesses. -/
def State.sendRelease (s : State) (p : Packet) (src : SlotId) : State :=
  let i : InFlight := { id := s.nextId, packet := p, src := some (src, (s.slot src).inc) }
  { s with net := s.net ++ [i], nextId := s.nextId + 1 }

/-- Whether an instruction of the sequencer reaches memory. -/
def VecOp.isMem : VecOp → Bool
  | .lds _ _ | .sts _ _ => true
  | .cfg a => a != 0
  | _ => false

/-- Whether the sequencer still holds a VLDS or VSTS that a slot queued before a numbered item. -/
def State.vecMem (s : State) (i : SlotId) (id : Nat) : Bool :=
  let row := (s.core i.die i.core).row
  row.owner == some i.slot && row.queue.any fun v => v.mark ≤ id && v.ops.any (·.isMem)

/-- Whether an operation waits for a phase: its acquire is complete only when it is (R164). -/
def MemOp.waitsPhase : MemOp → Bool
  | .waitPhase | .arriveWait => true
  | _ => false

/-- Whether a journal record is a sealed one of a thread that the journal engine has still to perform (16 R421). -/
def State.sealedOf (s : State) (i : SlotId) (inc : Byte) (r : JournalRec) : Bool :=
  r.closed && !r.done && (r.owner == .slot i inc || ((s.slot i).inc == inc && (s.slot i).jrec == some r.seq))

/-- Whether a thread has a sealed record that the journal engine has still to perform, of a kind. -/
def State.sealedAny (s : State) (i : SlotId) (inc : Byte) (p : JournalRec → Bool) : Bool :=
  s.dies.any fun e => e.2.journal.any fun r => s.sealedOf i inc r && p r

/-- Whether every access that a thread started before a numbered item has been performed (R147). -/
def State.released (s : State) (src : Option (SlotId × Byte)) (id : Nat) : Bool :=
  match src with
  | none => true
  | some (i, inc) =>
    s.accs.all (fun a => !(a.agent == .slot i inc && a.id < id && (a.stage != .done || a.op.waitsPhase)))
      && !s.sealedAny i inc (fun _ => true)
      && !((s.slot i).inc == inc && s.vecMem i id)

/-- A numbered packet. -/
def State.packet (s : State) (id : Nat) : Option Packet := (s.net.find? (·.id == id)).map (·.packet)

/-- Takes a packet off the net. -/
def State.dropPacket (s : State) (id : Nat) : State := { s with net := s.net.filter (·.id != id) }

/-- A numbered access. -/
def State.access (s : State) (id : Nat) : Option Access := s.accs.find? (·.id == id)

/-- Changes a numbered access. -/
def State.modAccess (s : State) (id : Nat) (f : Access → Access) : State :=
  { s with accs := s.accs.map fun a => if a.id == id then f a else a }

/-- A numbered access has failed: it has no effect and no wait entry, and holds back what follows it until its slot is TRAPPED
(15 R397). -/
def State.markFailed (s : State) (id : Nat) : State :=
  { s.modAccess id fun a => { a with stage := .failed } with waits := s.waits.filter (·.access != id) }

/-- The failed accesses of a thread no longer hold anything back. -/
def State.dropFailed (s : State) (i : SlotId) : State :=
  { s with accs := s.accs.filter fun a => !(a.stage == .failed && a.agent == .slot i (s.slot i).inc) }

/-- Removes a numbered access and its wait entry. -/
def State.dropAccess (s : State) (id : Nat) : State :=
  { s with accs := s.accs.filter (·.id != id), waits := s.waits.filter (·.access != id) }

/-! Error logs and notification -/

/-- Counts an event in an error log (Table 14-6). -/
def ErrLog.note (l : ErrLog) (cause : Byte) : ErrLog :=
  { cause, count := if l.count = 0xffffffff then l.count else l.count + 1 }

/-- The die through whose host port a die's notifications leave: its own when live, else the root's (R377). -/
def State.hostDie (s : State) (d : Die) : Option Die :=
  if (s.die d).boot.hostPort then some d
  else
    match s.dies.find? fun e => e.2.boot.root && e.2.boot.hostPort with
    | some (k, _) => some (BitVec.ofNat 6 k)
    | none => none

/-- Sends an MSI-X vector through the host port that serves a die; none when no host is reachable (R32, R377). -/
def State.msix (s : State) (d : Die) (v : BitVec 8) : State :=
  match s.hostDie d with
  | some h => { s with hostOut := s.hostOut ++ [.msix h v] }
  | none => s

/-- Sets a bit of ERRSUM, and notifies when it was 0 and ERRMSI.EN is 1 (R377). -/
def State.notify (s : State) (d : Die) (b : Nat) : State :=
  let x := s.die d
  if x.errsum.getLsbD b then s
  else
    let s := s.setDie d { x with errsum := x.errsum ||| (1#9 <<< b) }
    if x.errEn then s.msix d x.errVector else s

/-- The bit of ERRSUM of a unit (Table 14-5); die control and the queues have none. -/
def errsumBit : LogUnit → Option Nat
  | .core _ => some 0
  | .shed _ => some 1
  | .l2 _ => some 2
  | .hbm _ => some 3
  | .link _ => some 4
  | .hart _ => some 5
  | .hostPort => some 6
  | .heddle => some 7
  | .dieControl | .queues => none

/-- Changes the error log of a unit (R377). -/
def State.modLog (s : State) (d : Die) (u : LogUnit) (f : ErrLog → ErrLog) : State :=
  match u with
  | .dieControl => s.modDie d fun x => { x with dieLog := f x.dieLog }
  | .heddle => s.modDie d fun x => { x with heddle := { x.heddle with elog := f x.heddle.elog } }
  | .hostPort => s.modDie d fun x => { x with hostLog := f x.hostLog }
  | .queues => s.modDie d fun x => { x with hqLog := f x.hqLog }
  | .link n => s.modDie d fun x =>
    let l := tblGet {} n.toNat x.links
    { x with links := tblSet {} n.toNat { l with elog := f l.elog } x.links }
  | .hbm n => s.modDie d fun x => { x with hbmLogs := tblSet {} n.toNat (f (tblGet {} n.toNat x.hbmLogs)) x.hbmLogs }
  | .l2 n => s.modDie d fun x => { x with l2Logs := tblSet {} n.toNat (f (tblGet {} n.toNat x.l2Logs)) x.l2Logs }
  | .hart n => s.modHart d n fun x => { x with elog := f x.elog }
  | .shed n => s.modShed d n fun x => { x with elog := f x.elog }
  | .core n => s.modCore d n fun x => { x with elog := f x.elog }

/-- The error log of a unit. -/
def State.log (s : State) (d : Die) : LogUnit → ErrLog
  | .dieControl => (s.die d).dieLog
  | .heddle => (s.die d).heddle.elog
  | .hostPort => (s.die d).hostLog
  | .queues => (s.die d).hqLog
  | .link n => (tblGet {} n.toNat (s.die d).links : LinkSt).elog
  | .hbm n => tblGet {} n.toNat (s.die d).hbmLogs
  | .l2 n => tblGet {} n.toNat (s.die d).l2Logs
  | .hart n => (s.hart d n).elog
  | .shed n => (s.shed d n).elog
  | .core n => (s.core d n).elog

/-- Counts a cause in a unit's log, without notification. -/
def State.count (s : State) (d : Die) (u : LogUnit) (cause : Byte) : State := s.modLog d u (·.note cause)

/-- Counts a notifying cause in a unit's log (R377). -/
def State.countNotify (s : State) (d : Die) (u : LogUnit) (cause : Byte) : State :=
  let s := s.count d u cause
  match errsumBit u with
  | some b => s.notify d b
  | none => s

/-! Messages -/

/-- A message of an engine of a die, harts 0 to 63 or another number, to a mailbox of a core (R382). -/
def engineMail (d : Die) (unit : Nat) (die : Die) (core : CoreNo) (box : BitVec 5) (words : List Word) (scope : Scope) :
    Mail :=
  { src := .engine d unit, die, core, box, words, scope, chk := none, multi := false, handle := 0, destWord := 0 }

/-- The engine numbers of senders other than harts: fault messages, notices of cores, the heddle engine, queues. -/
def faultUnit : Nat := 64
def noticeUnit : Nat := 65
def heddleUnit : Nat := 66
def queueUnit (q : HqNo) : Nat := 128 + q.toNat

/-- A fault message of the form of R376 and Table 15-2 to a core of the die, a release at d: of the slot's thread whose fault it
tells, if it is one's. -/
def State.faultMail (s : State) (d : Die) (core : CoreNo) (box : BitVec 5) (words : List Word) (src : Option SlotId := none) :
    State :=
  let p : Packet := .mail (engineMail d faultUnit d core box words .d)
  match src with
  | some i => s.sendRelease p i
  | none => s.send p

/-! Time (11 R347; 16 R423) -/

/-- The physical rows of a core, a shed and a bobbin hart (01 R15, R16, R18, R23). -/
def rowOfCore (c : CoreNo) : Nat := 2 * (c.toNat / 256) + 1
def rowOfShed (h : ShedNo) : Nat := 2 * (h.toNat / 64)
def rowOfHart (b : Nat) : Nat := 2 * (b / 8) + 1

/-- A row of a die's power table. -/
def State.powerRow (s : State) (d : Die) (p : Nat) : PowerRow := tblGet {} p (s.die d).power

/-- Whether a row is gated in an aclk: outside the first DUTY of each 16. -/
def PowerRow.gates (r : PowerRow) (aclk : Word) : Bool := r.duty.toNat ≤ aclk.toNat % 16

/-- Whether a row is gated now. -/
def State.gated (s : State) (d : Die) (p : Nat) : Bool := (s.powerRow d p).gates s.aclk

/-- The aclk in which a row was not gated: what its fill timers count. -/
def State.rowClock (s : State) (d : Die) (p : Nat) : Word := s.aclk - (s.powerRow d p).gated

/-- The aclk in which a core could issue: what the issue spacing and the wait limits count. -/
def State.coreClock (s : State) (d : Die) (c : CoreNo) : Word := s.rowClock d (rowOfCore c) - (s.core d c).skipped

/-- Whether a core issues nothing now: its row is gated, or it is suspect and skips every other aclk. -/
def State.coreRests (s : State) (d : Die) (c : CoreNo) : Bool :=
  s.gated d (rowOfCore c) || ((s.core d c).suspect && s.aclk.getLsbD 0)

/-- How many of the next n aclk have a property. -/
def countAclk (p : Word → Bool) (aclk : Word) (n : Nat) : Word :=
  BitVec.ofNat 64 ((List.range n).filter fun k => p (aclk + BitVec.ofNat 64 k)).length

/-- The aclk that the rows of a die are gated in, and those that suspect cores skip, out of the next n. -/
def DieSt.rest (x : DieSt) (aclk : Word) (n : Nat) : DieSt :=
  { x with power := x.power.map fun e => (e.1, { e.2 with gated := e.2.gated + countAclk e.2.gates aclk n }) }

/-- Time passes. -/
def State.pass (s : State) (n : Nat) : State :=
  let skip := fun (e : Nat × CoreSt) =>
    if !e.2.suspect then e
    else
      let r := s.powerRow (BitVec.ofNat 6 (e.1 / 2048)) (rowOfCore (BitVec.ofNat 11 e.1))
      (e.1, { e.2 with skipped := e.2.skipped + countAclk (fun a => !r.gates a && a.getLsbD 0) s.aclk n })
  { s with
    aclk := s.aclk + BitVec.ofNat 64 n
    dies := s.dies.map fun e => (e.1, e.2.rest s.aclk n)
    cores := s.cores.map skip }

/-! Slots that wait -/

/-- Puts a slot into a state from the present aclk on. -/
def State.enter (s : State) (i : SlotId) (st : SlotState) (aw : Await) : State :=
  s.modSlot i fun x =>
    { x with state := st, await := aw, since := if x.state = st then x.since else s.coreClock i.die i.core
             limit := if x.state = st then x.limit else x.wlim }

/-- Makes a slot READY (Table 2-4). -/
def State.wake (s : State) (i : SlotId) : State := s.enter i .ready .retry

/-- WAIT-DATA: the slot's instruction is tried again at a later turn. -/
def State.waitData (s : State) (i : SlotId) : State := s.enter i .waitData .retry

/-- The lowest FREE user slot of a core (R65). -/
def State.freeSlot (s : State) (d : Die) (c : CoreNo) : Option SlotNo :=
  let x := s.core d c
  if x.retired || x.halted then none
  else (((List.range 15).map (BitVec.ofNat 4)).filter fun n => !x.rslot.getLsbD n.toNat).find?
    fun n => (s.slot ⟨d, c, n⟩).state == .free

/-- The ready-slot count of a core (R20); zero when halted (R316). -/
def State.readyCount (s : State) (d : Die) (c : CoreNo) : Nat :=
  if (s.core d c).halted then 0
  else ((List.range 16).filter fun n => (s.slot ⟨d, c, BitVec.ofNat 4 n⟩).state == .ready).length

/-- What a new thread takes from its creator (R65). -/
structure Inherit where
  frm : BitVec 3
  wlim : BitVec 32
  dom : BitVec 3
  jnl : Bool

/-- The inherited part of a slot's registers (R65). -/
def SlotSt.inherit (x : SlotSt) : Inherit := ⟨x.frm, x.wlim, x.dom, x.jnl⟩

/-- A new thread in a slot (R62, R65): the incarnation rises, and everything else has its start value. -/
def newThread (i : SlotId) (old : SlotSt) (aclk : Word) (pc : Word) (inh : Inherit) : SlotSt :=
  { pc, state := .ready, since := aclk, inc := old.inc + 1, frm := inh.frm, wlim := inh.wlim, dom := inh.dom,
    jnl := inh.jnl, svstat := old.svstat, lastIssue := old.lastIssue, lfsr := lfsrSeed i (old.inc + 1) }

/-- Starts a thread in a slot, with g1 its argument. Its first instruction is an acquire at c or wider (R152), which
invalidates the L1D (R124). -/
def State.startThread (s : State) (i : SlotId) (pc arg : Word) (inh : Inherit) : State :=
  (s.setSlot i ((newThread i (s.slot i) (s.coreClock i.die i.core) pc inh).setG 1 arg)).modCore i.die i.core fun c => { c with l1d := [] }

/-! Traps (14 R370 to R376) -/

/-- The words of the fault message of a trap in slot 15 (R376). -/
def supervisorWords (i : SlotId) (cause sub : Byte) (pc : Word) (word : Inst) (val aux : Word) : List Word :=
  [0#21 ++ i.core ++ 0#10 ++ i.die ++ sub ++ cause, pc, 0#32 ++ word, val, aux, 0]

/-- A fault in slot 15: TRAPPED, and a fault message, or ERRSUM.SUP when none can be sent (R376). -/
def State.supervisorFault (s : State) (i : SlotId) (cause sub : Byte) (pc : Word) (word : Inst) (val aux : Word) :
    State :=
  let s := (s.enter i .trapped .retry).modSlot i fun x => { x with pc }
  let x := s.die i.die
  if !x.faultEn || x.faultCore == i.core then s.notify i.die 8
  else
    (s.faultMail i.die x.faultCore x.faultBox (supervisorWords i cause sub pc word val aux) (some i)).countNotify i.die
      (.core i.core) 0x12

/-- A parked slot's instruction is complete: the PC is at the next word and the slot is READY. -/
def State.wakeNext (s : State) (i : SlotId) : State := (s.modSlot i fun x => { x with pc := x.pc + 4 }).wake i

/-- Ends the WFI of the supervisor of a core when a trap record is queued (R314, R374): an acquire at c (R370), which
invalidates the L1D. -/
def State.wakeSupervisor (s : State) (d : Die) (c : CoreNo) : State :=
  let i : SlotId := ⟨d, c, 15⟩
  if (s.slot i).state == .parkMsg && (s.slot i).parkDst.isNone then (s.modCore d c fun x => { x with l1d := [] }).wakeNext i
  else s

/-- Whether a record with PARKS = 1 of the slot is still queued (R371). -/
def State.parkedRecord (s : State) (i : SlotId) : Bool :=
  (s.core i.die i.core).traps.any fun r => r.parks && r.slot == i.slot

/-- Whether a user slot can not be trapped yet: a record with PARKS = 1 of the slot is queued (R371), or, since the enqueue is a
release at c (R370), an access of its thread is still to be performed (R395); failed ones are none. -/
def State.trapWaits (s : State) (i : SlotId) : Bool :=
  let inc := (s.slot i).inc
  !isPriv i && (s.parkedRecord i || s.sealedAny i inc (fun _ => true) || s.vecMem i s.nextId
    || s.accs.any fun a => a.agent == .slot i inc && a.stage != .done && a.stage != .failed)

/-- A slot becomes TRAPPED at its resume PC, and its record joins its core's trap queue (R370); slot 15 has a supervisor fault
instead (R376). -/
def State.pushTrap (s : State) (i : SlotId) (cause sub : Byte) (pc : Word) (word : Inst) (val aux : Word) : State :=
  if isPriv i then s.supervisorFault i cause sub pc word val aux
  else
    let s := (s.enter i .trapped .retry).modSlot i fun x => { x with pc }
    let r : TrapRec :=
      { cause := cause, sub := sub, slot := i.slot, inc := (s.slot i).inc, gone := false, parks := true, pc := pc,
        word := word, val := val, aux := aux, len := 0, scope := 0, multi := false, msg := [] }
    (s.modCore i.die i.core fun c => { c with traps := c.traps ++ [r] }).wakeSupervisor i.die i.core

/-- Taking a trap: the one operation by which an instruction's slot enters TRAPPED (R370, R371, R376). While it can not be
trapped, the slot is held in WAIT-DATA instead, and its instruction does not issue. -/
def State.takeTrap (s : State) (i : SlotId) (cause sub : Byte) (pc : Word) (word : Inst) (val aux : Word) : State :=
  if s.trapWaits i then s.waitData i else s.pushTrap i cause sub pc word val aux

/-- Returning from a trap: ERET makes a TRAPPED slot READY at its PC (R314, R374). -/
def State.returnFromTrap (s : State) (i : SlotId) : State := s.wake i

end Sys2Proof.Machine
end

