-- ==== Sys2Proof/Machine/Operands.lean ====
section
/-!
DEFINITION. The operand forms of thread instructions: what reading and writing each register of Table 6-5 does (06 R183
to R185), the wait for outstanding results (07 R202), and the issue of an instruction: its operands are read, and it
completes, waits in WAIT-DATA to be tried again, or traps with no effect (R370).
-/

namespace Sys2Proof.Machine

/-! Outstanding results -/

/-- The registers an access still has to write. -/
def accessDsts (a : Access) : List Reg :=
  match a.op with
  | .load _ | .amo _ _ | .cas _ | .arrive | .arriveWait => [a.dst]
  | .fe .lde | .fe .take | .fe .festat => [a.dst]
  | .fe .trytake => [a.dst, a.dst2]
  | _ => []

/-- Whether an access is one of the results that a slot may have four of (R202). -/
def isResult (a : Access) : Bool :=
  match a.op with
  | .load _ | .fe _ | .amo _ _ | .cas _ => true
  | _ => false

/-- The accesses of the thread in a slot, failed ones that have still to be reported among them. -/
def State.threadAccs (s : State) (i : SlotId) : List Access :=
  s.accs.filter fun a => a.agent == .slot i (s.slot i).inc

/-- The accesses in progress of the thread in a slot. -/
def State.slotAccs (s : State) (i : SlotId) : List Access := (s.threadAccs i).filter (·.stage != .failed)

/-- The SFU requests accepted from the thread in a slot. -/
def State.slotSfu (s : State) (i : SlotId) : List SfuReq :=
  let k := s.skein i.die (skeinOf i.core)
  (k.queue ++ k.serving).filter fun r => r.agent == .slot i (s.slot i).inc

/-- The registers that queued vector instructions of a slot still have to write (R64). -/
def State.slotVec (s : State) (i : SlotId) : List Reg :=
  let row := (s.core i.die i.core).row
  if row.owner == some i.slot then
    row.queue.flatMap fun v => v.ops.filterMap fun o => match o with
      | .run _ _ d => some d
      | .red _ _ _ _ d _ => some d
      | _ => none
  else []

/-- The registers that still await a result (R202); g0 awaits nothing. -/
def State.awaited (s : State) (i : SlotId) : List Reg :=
  (((s.slotAccs i).flatMap accessDsts) ++ (s.slotSfu i).map (·.dst) ++ s.slotVec i).filter (· != 0)

/-- How many results of a slot are outstanding (R202). -/
def State.outstanding (s : State) (i : SlotId) : Nat :=
  ((s.slotAccs i).filter isResult).length + (s.slotSfu i).length

/-! Reading and writing registers -/

/-- The outcome of reading an operand: a value with the state in which a network word or stream element has been
consumed; a wait in WAIT-DATA; or a trap, which consumes nothing, with what it changes of the state before the instruction. -/
inductive Read where
  | val (v : Word) (s : State)
  | wait
  | trap (cause sub : Byte) (val : Word) (f : State → State)

/-- Whether a register number names a network register (Table 6-5). -/
def isNet (r : Reg) : Bool := 32 ≤ r && r < 40

/-- Whether a register number names a stream register (Table 6-5). -/
def isStream (r : Reg) : Bool := 40 ≤ r && r < 48

/-- A register read that consumes nothing: g0 to g31, mw0 to mw5, mb, esct, cyc, qst. -/
def State.reg (s : State) (i : SlotId) (r : Reg) : Word :=
  let x := s.slot i
  if r < 32 then x.g r
  else if 48 ≤ r && r < 54 then x.mw (r.toNat - 48)
  else if r = 54 then x.mb
  else if r = 55 then x.esct
  else if r = 56 then s.aclk
  else if r = 57 then x.qst
  else 0

/-- A read of a network register (R184): the next word from the link; NETLINK where there is none. -/
def State.readNet (s : State) (i : SlotId) (r : Reg) : Read :=
  let p := r.toNat - 32
  if !s.hasLink i.die i.core p then .trap 0x0f 0 (r.zeroExtend 64) id
  else
    match tblGet [] p (s.core i.die i.core).netIn with
    | [] => .wait
    | w :: ws => .val w (s.modCore i.die i.core fun c => { c with netIn := tblSet [] p ws c.netIn })

/-- A read of a stream register (R184, R308, R400): the next element of its copy; past a failed copy's elements, a trap
with the copy's cause that clears BOUND, at every such read (log entry 89). -/
def State.readStream (s : State) (i : SlotId) (r : Reg) : Read :=
  let n := r.toNat - 40
  let q := (s.slot i).stream n
  match q.items with
  | v :: rest =>
    .val v (s.modSlot i fun x =>
      x.setStream n { q with items := rest, bound := q.bound && !(q.ended && rest.isEmpty && q.fail.isNone) })
  | [] =>
    match q.fail with
    | some c => .trap c 0 q.count fun u => u.modSlot i fun x => x.setStream n { x.stream n with bound := false }
    | none => .wait

/-- A read of a register. -/
def State.readReg (s : State) (i : SlotId) (r : Reg) : Read :=
  if isNet r then s.readNet i r
  else if isStream r then s.readStream i r
  else .val (s.reg i r) s

/-- Writes a result to rd: g0 discards it, a network register sends it (R184), mw0 to mw5 take it (R185). -/
def State.writeReg (s : State) (i : SlotId) (r : Reg) (v : Word) : State :=
  if r < 32 then s.modSlot i fun x => x.setG r v
  else if isNet r then
    let p := r.toNat - 32
    match netPartner i.core p with
    | some c => s.send (.netWord ⟨i.die, c, 0⟩ (BitVec.ofNat 3 (netOpposite p)) v)
    | none => s
  else if 48 ≤ r && r < 54 then s.modSlot i fun x => x.setMw (r.toNat - 48) v
  else s

/-! Issue -/

/-- What an instruction does at its issue: it completes in a state, it is tried again, it is held with no effect of its
own but a change of the state it found, or it traps: then it has no effect (R370), but for the state that the trap
itself makes to the state before it. -/
inductive Act where
  | go (s : State)
  | wait
  | keep (f : State → State)
  | trap (cause sub : Byte) (val aux : Word)
  | trapIn (f : State → State) (cause sub : Byte) (val : Word)

/-- A step's outcome. -/
abbrev Result := Host.Outcome State Fault Refusal

/-- Performs the issue of the current slot's instruction. -/
def State.perform (s : State) (a : Act) : Result :=
  let pc := (s.slot s.cur).pc
  match a with
  | .go t => .next t
  | .wait => .next (s.waitData s.cur)
  | .keep f => .next (f s)
  | .trap cause sub val aux => .next (s.takeTrap s.cur cause sub pc s.word val aux)
  | .trapIn f cause sub val =>
    if s.trapWaits s.cur then .next (s.waitData s.cur) else .next ((f s).pushTrap s.cur cause sub pc s.word val 0)

/-- The slot's instruction is complete: the PC is at the next word and the slot is READY. -/
def State.advance (s : State) : State := (s.modSlot s.cur fun x => { x with pc := x.pc + 4 }).wake s.cur

/-- The slot's instruction is complete with a result in rd. -/
def State.finish (s : State) (d : Reg) (v : Word) : State := (s.writeReg s.cur d v).advance

/-- Reads operands in order, rs1 before rs2 (R184). -/
def readOperands (i : SlotId) : List Reg → List Word → State → (List Word → State → Act) → Act
  | [], vs, s, k => k vs s
  | r :: rs, vs, s, k =>
    match s.readReg i r with
    | .val v s' => readOperands i rs (vs ++ [v]) s' k
    | .wait => .wait
    | .trap cause sub val f => .trapIn f cause sub val

/-- Whether rd may be written at once: NETLINK for a network register without a link, a wait while its link has no
room (R184). -/
def dstReady (s : State) : List Reg → Option Act
  | [] => none
  | d :: ds =>
    if isNet d then
      if !s.hasLink s.cur.die s.cur.core (d.toNat - 32) then some (.trap 0x0f 0 (d.zeroExtend 64) 0)
      else if !Config.linkRoom s.tick then some .wait
      else dstReady s ds
    else dstReady s ds

/-- Whether an operand or destination still awaits a result (R202). -/
def State.hazard (s : State) (srcs dsts : List Reg) : Bool :=
  (srcs ++ dsts).any fun r => (s.awaited s.cur).contains r

/-- Issues the current slot's instruction with its sources, in order, and its destinations. -/
def State.issue (s : State) (srcs dsts : List Reg) (k : List Word → State → Act) : Result :=
  s.perform <|
    if s.hazard srcs dsts then .wait
    else
      match dstReady s dsts with
      | some a => a
      | none => readOperands s.cur srcs [] s k

/-- Issues an instruction that besides its operands reads or writes registers it does not name: it waits for results outstanding
to them too (R202). -/
def State.issueWith (s : State) (also srcs dsts : List Reg) (k : List Word → State → Act) : Result :=
  if s.hazard also [] then s.perform .wait else s.issue srcs dsts k

/-- The registers of the first n doubles of the message window (R185). -/
def windowRegs (n : Nat) : List Reg := (List.range n).map fun k => BitVec.ofNat 6 (48 + k)

/-- Issue of an instruction of one source and one destination whose result is a function of the source. -/
def State.issue1 (s : State) (d a : Reg) (f : Word → Word) : Result :=
  s.issue [a] [d] fun v t => .go (t.finish d (f (v.getD 0 0)))

/-- Issue of an instruction of two sources and one destination whose result is a function of the sources. -/
def State.issue2 (s : State) (d a b : Reg) (f : Word → Word → Word) : Result :=
  s.issue [a, b] [d] fun v t => .go (t.finish d (f (v.getD 0 0) (v.getD 1 0)))

/-- The operands can be read and the destinations written at once, consuming nothing: no register awaits a result, and
none is a network or stream register. -/
def State.plain (s : State) (srcs dsts : List Reg) : Bool :=
  !s.hazard srcs dsts && srcs.all (fun r => !isNet r && !isStream r) && dsts.all fun r => !isNet r

end Sys2Proof.Machine
end

