-- ==== Sys2Proof/Machine/Alu.lean ====
section
/-!
DEFINITION. Integer instructions of thread form: ALU, MULDIV, BITS, immediates, LUI, AUIPC, ADDX, SUBX, MULX and CSEL
(07 R200 to R212).
-/

namespace Sys2Proof.Machine

/-! Operations on n-bit values -/

/-- Rotation left by an amount. -/
def rotl {n : Nat} (a : BitVec n) (k : Nat) : BitVec n := a.rotateLeft k

/-- Rotation right by an amount. -/
def rotr {n : Nat} (a : BitVec n) (k : Nat) : BitVec n := a.rotateRight k

/-- 1 or 0. -/
def flagBit {n : Nat} (b : Bool) : BitVec n := if b then 1 else 0

/-- F of Table 7-2 with a shift amount. -/
def aluN {n : Nat} (o : AluOp) (a b : BitVec n) (sh : Nat) : BitVec n :=
  match o with
  | .add => a + b
  | .sub => a - b
  | .and => a &&& b
  | .or => a ||| b
  | .xor => a ^^^ b
  | .andn => a &&& ~~~b
  | .orn => a ||| ~~~b
  | .xnor => ~~~(a ^^^ b)
  | .shl => a <<< sh
  | .shr => a >>> sh
  | .sra => a.sshiftRight sh
  | .rol => rotl a sh
  | .ror => rotr a sh
  | .slt => flagBit (a.slt b)
  | .sltu => flagBit (a.ult b)
  | .min => if b.slt a then b else a
  | .max => if a.slt b then b else a
  | .minu => if b.ult a then b else a
  | .maxu => if a.ult b then b else a

/-- The low 32 bits of a source (R201). -/
def low32 (v : Word) : BitVec 32 := v.extractLsb' 0 32

/-- A 32-bit result in a register: rd[63:32] = 0 (R201). -/
def wide32 (v : BitVec 32) : Word := v.zeroExtend 64

/-- An ALU operation of width 64, or 32 with .w (R201, R204). -/
def alu (w : Bool) (o : AluOp) (a b : Word) : Word :=
  if w then wide32 (aluN o (low32 a) (low32 b) (b.toNat % 32)) else aluN o a b (b.toNat % 64)

/-- Signed quotient truncated toward zero, with the results of R205 at the borders. -/
def divS {n : Nat} (a b : BitVec n) : BitVec n := if b = 0 then BitVec.allOnes n else a.sdiv b

/-- Unsigned quotient (R205). -/
def divU {n : Nat} (a b : BitVec n) : BitVec n := if b = 0 then BitVec.allOnes n else a / b

/-- Signed remainder with the sign of the dividend (R205). -/
def remS {n : Nat} (a b : BitVec n) : BitVec n := if b = 0 then a else a.srem b

/-- Unsigned remainder (R205). -/
def remU {n : Nat} (a b : BitVec n) : BitVec n := if b = 0 then a else a % b

/-- Table 7-3 at width n. -/
def mulN {n : Nat} (o : MulOp) (a b : BitVec n) : BitVec n :=
  match o with
  | .mul => a * b
  | .mulh => BitVec.ofInt n (a.toInt * b.toInt / 2 ^ n)
  | .mulhu => BitVec.ofNat n (a.toNat * b.toNat / 2 ^ n)
  | .mulhsu => BitVec.ofInt n (a.toInt * b.toNat / 2 ^ n)
  | .div => divS a b
  | .divu => divU a b
  | .rem => remS a b
  | .remu => remU a b

/-- A MULDIV operation of width 64, or 32 with .w (R201, R205). -/
def mulDiv (w : Bool) (o : MulOp) (a b : Word) : Word :=
  if w then wide32 (mulN o (low32 a) (low32 b)) else mulN o a b

/-- The number of leading zero bits among the lowest k. -/
def leadingZeros {n : Nat} (a : BitVec n) : Nat → Nat
  | 0 => 0
  | k + 1 => if a.getLsbD k then 0 else leadingZeros a k + 1

/-- The number of trailing zero bits from bit i on, of k bits. -/
def trailingZeros {n : Nat} (a : BitVec n) (i : Nat) : Nat → Nat
  | 0 => 0
  | k + 1 => if a.getLsbD i then 0 else trailingZeros a (i + 1) k + 1

/-- The number of one bits among the lowest k. -/
def oneBits {n : Nat} (a : BitVec n) : Nat → Nat
  | 0 => 0
  | k + 1 => oneBits a k + (if a.getLsbD k then 1 else 0)

/-- The bytes of a value in the opposite order. -/
def swapBytes {n : Nat} (a : BitVec n) : BitVec n :=
  BitVec.ofNat n (bytesUp (n / 8) a.toNat 0)
where
  bytesUp : Nat → Nat → Nat → Nat
    | 0, _, acc => acc
    | k + 1, v, acc => bytesUp k (v / 256) (acc * 256 + v % 256)

/-- Table 7-4 at width n for the counts and reversals. -/
def bitsN {n : Nat} (o : BitsOp) (a : BitVec n) : BitVec n :=
  match o with
  | .clz => BitVec.ofNat n (leadingZeros a n)
  | .ctz => BitVec.ofNat n (trailingZeros a 0 n)
  | .popc => BitVec.ofNat n (oneBits a n)
  | .brev => a.reverse
  | .bswap => swapBytes a
  | .sextb => (a.extractLsb' 0 8).signExtend n
  | .sexth => (a.extractLsb' 0 16).signExtend n
  | .sextw => (a.extractLsb' 0 32).signExtend n
  | .zextw => (a.extractLsb' 0 32).zeroExtend n

/-- A BITS operation of width 64, or 32 with .w (R201, R206). -/
def bits (w : Bool) (o : BitsOp) (a : Word) : Word := if w then wide32 (bitsN o (low32 a)) else bitsN o a

/-- An imm13 or imm19 in 64 bits (R175). -/
def imm64 {n : Nat} (i : BitVec n) : Word := i.signExtend 64

/-- An ALU operation on rs1 and a sign-extended immediate (R208). -/
def aluImm (o : AluOp) (i : BitVec 13) (a : Word) : Word := alu false o a (imm64 i)

/-- An ALU shift of rs1 by an immediate amount (R209). -/
def shiftImm (w : Bool) (o : AluOp) (n : BitVec 6) (a : Word) : Word := alu w o a (n.zeroExtend 64)

/-! Meanings -/

def execAdd (w : Bool) (d a b : Reg) (s : State) : Result := s.issue2 d a b (alu w .add)
def execSub (w : Bool) (d a b : Reg) (s : State) : Result := s.issue2 d a b (alu w .sub)
def execAnd (w : Bool) (d a b : Reg) (s : State) : Result := s.issue2 d a b (alu w .and)
def execOr (w : Bool) (d a b : Reg) (s : State) : Result := s.issue2 d a b (alu w .or)
def execXor (w : Bool) (d a b : Reg) (s : State) : Result := s.issue2 d a b (alu w .xor)
def execAndn (w : Bool) (d a b : Reg) (s : State) : Result := s.issue2 d a b (alu w .andn)
def execOrn (w : Bool) (d a b : Reg) (s : State) : Result := s.issue2 d a b (alu w .orn)
def execXnor (w : Bool) (d a b : Reg) (s : State) : Result := s.issue2 d a b (alu w .xnor)
def execShl (w : Bool) (d a b : Reg) (s : State) : Result := s.issue2 d a b (alu w .shl)
def execShr (w : Bool) (d a b : Reg) (s : State) : Result := s.issue2 d a b (alu w .shr)
def execSra (w : Bool) (d a b : Reg) (s : State) : Result := s.issue2 d a b (alu w .sra)
def execRol (w : Bool) (d a b : Reg) (s : State) : Result := s.issue2 d a b (alu w .rol)
def execRor (w : Bool) (d a b : Reg) (s : State) : Result := s.issue2 d a b (alu w .ror)
def execSlt (w : Bool) (d a b : Reg) (s : State) : Result := s.issue2 d a b (alu w .slt)
def execSltu (w : Bool) (d a b : Reg) (s : State) : Result := s.issue2 d a b (alu w .sltu)
def execMin (w : Bool) (d a b : Reg) (s : State) : Result := s.issue2 d a b (alu w .min)
def execMax (w : Bool) (d a b : Reg) (s : State) : Result := s.issue2 d a b (alu w .max)
def execMinu (w : Bool) (d a b : Reg) (s : State) : Result := s.issue2 d a b (alu w .minu)
def execMaxu (w : Bool) (d a b : Reg) (s : State) : Result := s.issue2 d a b (alu w .maxu)

def execMul (w : Bool) (d a b : Reg) (s : State) : Result := s.issue2 d a b (mulDiv w .mul)
def execMulh (d a b : Reg) (s : State) : Result := s.issue2 d a b (mulDiv false .mulh)
def execMulhu (d a b : Reg) (s : State) : Result := s.issue2 d a b (mulDiv false .mulhu)
def execMulhsu (d a b : Reg) (s : State) : Result := s.issue2 d a b (mulDiv false .mulhsu)
def execDiv (w : Bool) (d a b : Reg) (s : State) : Result := s.issue2 d a b (mulDiv w .div)
def execDivu (w : Bool) (d a b : Reg) (s : State) : Result := s.issue2 d a b (mulDiv w .divu)
def execRem (w : Bool) (d a b : Reg) (s : State) : Result := s.issue2 d a b (mulDiv w .rem)
def execRemu (w : Bool) (d a b : Reg) (s : State) : Result := s.issue2 d a b (mulDiv w .remu)

def execClz (w : Bool) (d a : Reg) (s : State) : Result := s.issue1 d a (bits w .clz)
def execCtz (w : Bool) (d a : Reg) (s : State) : Result := s.issue1 d a (bits w .ctz)
def execPopc (w : Bool) (d a : Reg) (s : State) : Result := s.issue1 d a (bits w .popc)
def execBrev (w : Bool) (d a : Reg) (s : State) : Result := s.issue1 d a (bits w .brev)
def execBswap (w : Bool) (d a : Reg) (s : State) : Result := s.issue1 d a (bits w .bswap)
def execSextb (d a : Reg) (s : State) : Result := s.issue1 d a (bits false .sextb)
def execSexth (d a : Reg) (s : State) : Result := s.issue1 d a (bits false .sexth)
def execSextw (d a : Reg) (s : State) : Result := s.issue1 d a (bits false .sextw)
def execZextw (d a : Reg) (s : State) : Result := s.issue1 d a (bits false .zextw)

def execAddi (d a : Reg) (i : BitVec 13) (s : State) : Result := s.issue1 d a (aluImm .add i)
def execAndi (d a : Reg) (i : BitVec 13) (s : State) : Result := s.issue1 d a (aluImm .and i)
def execOri (d a : Reg) (i : BitVec 13) (s : State) : Result := s.issue1 d a (aluImm .or i)
def execXori (d a : Reg) (i : BitVec 13) (s : State) : Result := s.issue1 d a (aluImm .xor i)
def execSlti (d a : Reg) (i : BitVec 13) (s : State) : Result := s.issue1 d a (aluImm .slt i)
def execSltiu (d a : Reg) (i : BitVec 13) (s : State) : Result := s.issue1 d a (aluImm .sltu i)
def execShli (w : Bool) (d a : Reg) (n : BitVec 6) (s : State) : Result := s.issue1 d a (shiftImm w .shl n)
def execShri (w : Bool) (d a : Reg) (n : BitVec 6) (s : State) : Result := s.issue1 d a (shiftImm w .shr n)
def execSrai (w : Bool) (d a : Reg) (n : BitVec 6) (s : State) : Result := s.issue1 d a (shiftImm w .sra n)
def execRoli (w : Bool) (d a : Reg) (n : BitVec 6) (s : State) : Result := s.issue1 d a (shiftImm w .rol n)
def execRori (w : Bool) (d a : Reg) (n : BitVec 6) (s : State) : Result := s.issue1 d a (shiftImm w .ror n)

/-- SignExtend(imm19 × 2^13, 64) (R210). -/
def upper (i : BitVec 19) : Word := imm64 (i ++ 0#13)

/-- LUI (R210). -/
def execLui (d : Reg) (i : BitVec 19) (s : State) : Result := s.issue [] [d] fun _ t => .go (t.finish d (upper i))

/-- AUIPC (R210): the PC is that of the AUIPC. -/
def execAuipc (d : Reg) (i : BitVec 19) (s : State) : Result :=
  s.issue [] [d] fun _ t => .go (t.finish d ((s.slot s.cur).pc + upper i))

/-- The exact signed result of ADDX, SUBX or MULX on n-bit operands. -/
def exactN {n : Nat} (k : Byte) (a b : BitVec n) : Int :=
  if k = 0 then a.toInt + b.toInt else if k = 1 then a.toInt - b.toInt else a.toInt * b.toInt

/-- Whether a value lies in the signed range of n bits. -/
def inRange (n : Nat) (v : Int) : Bool := -(2 ^ (n - 1) : Int) ≤ v && v < 2 ^ (n - 1)

/-- ADDX (0), SUBX (1) and MULX (2): the exact result when it lies in range, otherwise OVERFLOW with rd unwritten
(R211, R379). -/
def execExact (k : Byte) (w : Bool) (d a b : Reg) (s : State) : Result :=
  s.issue [a, b] [d] fun v t =>
    let x := v.getD 0 0
    let y := v.getD 1 0
    let r := if w then exactN k (low32 x) (low32 y) else exactN k x y
    if inRange (if w then 32 else 64) r then
      .go (t.finish d (if w then wide32 (BitVec.ofInt 32 r) else BitVec.ofInt 64 r))
    else .trap 0x04 k x y

def execAddx (w : Bool) (d a b : Reg) (s : State) : Result := execExact 0 w d a b s
def execSubx (w : Bool) (d a b : Reg) (s : State) : Result := execExact 1 w d a b s
def execMulx (w : Bool) (d a b : Reg) (s : State) : Result := execExact 2 w d a b s

/-- CSEL: rs1 when the condition register is zero as asked, rs2 otherwise (R212). -/
def select (z : Bool) (x y c : Word) : Word := if (c == 0) == z then x else y

def execCselNz (d a b c : Reg) (s : State) : Result :=
  s.issue [a, b, c] [d] fun v t => .go (t.finish d (select false (v.getD 0 0) (v.getD 1 0) (v.getD 2 0)))

def execCselZ (d a b c : Reg) (s : State) : Result :=
  s.issue [a, b, c] [d] fun v t => .go (t.finish d (select true (v.getD 0 0) (v.getD 1 0) (v.getD 2 0)))

end Sys2Proof.Machine
end

