-- ==== Sys2Proof/Machine/Cover.lean ====
section
/-!
DEFINITION. Scope instances and which agents an operation covers (05 R144, R145): what decides whether a message, an arrival or a
full fence orders the accesses of another agent.
-/

namespace Sys2Proof.Machine

/-- An agent of Table 5-2: a thread on a core, a unit of a shed, a bobbin hart or heddle engine, or the host. -/
inductive Party where
  | core (die : Die) (core : CoreNo)
  | shed (die : Die) (shed : ShedNo)
  | engine (die : Die) (unit : Nat)
  | host
  deriving DecidableEq, Repr

/-- The sheds of the loom that a shed is in, or the shed alone. -/
def State.shedMates (s : State) (d : Die) (h : ShedNo) : List ShedNo :=
  let l := (s.loom d (s.shed d h).loom).sheds
  if (s.shed d h).state != .free && l.contains h then l else [h]

/-- Whether a shed is in a loom that has a shed facing the skein of a core. -/
def State.loomFaces (s : State) (d : Die) (h : ShedNo) (c : CoreNo) : Bool :=
  (s.shed d h).state != .free && (s.shedMates d h).any fun k => skeinFacing k == skeinOf c

/-- The die of an agent other than the host. -/
def Party.die : Party → Option Die
  | .core d _ | .shed d _ | .engine d _ => some d
  | .host => none

/-- Whether an agent lies in the scope instance of another one (Table 5-2). -/
def State.inScope (s : State) (a : Party) (x : Scope) (b : Party) : Bool :=
  match x with
  | .s => false
  | .c => a == b && match a with
    | .core _ _ | .shed _ _ => true
    | _ => false
  | .k =>
    match a, b with
    | .core d c, .core e k => d == e && skeinOf c == skeinOf k
    | .core d c, .shed e h | .shed e h, .core d c => d == e && s.loomFaces d h c
    | .shed d h, .shed e k => d == e && (s.shedMates d h).contains k
    | _, _ => false
  | .d => a.die.isSome && a.die == b.die
  | .p => a.die.isSome && b.die.isSome
  | .h => true

/-- Whether operations of two agents at their scopes cover each other (R145). -/
def State.covers (s : State) (a : Party) (x : Scope) (b : Party) (y : Scope) : Bool := s.inScope a x b && s.inScope b y a

/-- The wider of two scopes. -/
def widerScope (x y : Scope) : Scope := if x.code.toNat < y.code.toNat then y else x

/-- The thread of a release, as an agent. -/
def Release.party (r : Release) : Party := .core r.src.die r.src.core

/-- Whether every access that a release covers has been performed. -/
def State.relSettled (s : State) (r : Release) : Bool := s.released (some (r.src, r.inc)) r.id

/-- The fences of a thread before a numbered item that still hold, each as a release. -/
def State.openFences (s : State) (i : SlotId) (inc : Byte) (id : Nat) : List Release :=
  (s.accs.filter fun f => f.op == .fence && f.agent == .slot i inc && f.id < id).map fun f => ⟨i, inc, f.scope, f.id⟩

/-- Whether an operation is a full/empty one. -/
def MemOp.isFe : MemOp → Bool
  | .fe _ => true
  | _ => false

/-! Barrier phases (R164) -/

/-- Whether an access is an arrival. -/
def MemOp.arrives : MemOp → Bool
  | .arrive | .arriveWait => true
  | _ => false

/-- Notes an arrival in a phase of an object: the releases as which it acts that have accesses still to be performed. -/
def State.noteArrival (s : State) (a : Access) (ph : BitVec 32) : State :=
  match a.agent with
  | .slot i inc =>
    let rs := (if a.rel then [⟨i, inc, a.scope, a.id⟩] else []) ++ s.openFences i inc a.id
    { s with arrivals := (s.arrivals.filter fun e => !s.relSettled e.2.2)
                ++ (rs.filter fun r => !s.relSettled r).map fun r => (a.pa, ph, r) }
  | .node _ _ _ _ => s

/-- Whether the arrivals of a phase with which a completed wait synchronises cover performed accesses only (R164). -/
def State.phaseSettled (s : State) (a : Access) (v : Word) : Bool :=
  match a.agent with
  | .slot i _ =>
    !a.op.waitsPhase || s.arrivals.all fun e =>
      !(e.1 == a.pa && e.2.1 == v.extractLsb' 0 32 && s.covers e.2.2.party e.2.2.scope (.core i.die i.core) a.scope)
        || s.relSettled e.2.2
  | .node _ _ _ _ => true

/-- Whether a slot waits for a phase that is complete and not yet settled. -/
def State.unsettled (s : State) (i : SlotId) : Bool :=
  match (s.slot i).await with
  | .access id =>
    match s.access id with
    | some a => a.stage == .done && !s.phaseSettled a a.result
    | none => false
  | _ => false

/-! Full fences (R150) -/

/-- Whether a full fence of a thread comes after another thread's that it covers, and whose earlier accesses are still to be
performed. -/
def State.fenceBehind (s : State) (i : SlotId) (inc : Byte) (x : Scope) : Bool :=
  s.fences.any fun r =>
    (r.src, r.inc) != (i, inc) && s.covers r.party r.scope (.core i.die i.core) x && !s.relSettled r

/-- A full fence takes its place in fence order. -/
def State.noteFence (s : State) (i : SlotId) (inc : Byte) (x : Scope) : State :=
  let r : Release := ⟨i, inc, x, s.nextId⟩
  { s with fences := s.fences.filter (fun e => !s.relSettled e) ++ if s.relSettled r then [] else [r] }

end Sys2Proof.Machine
end

