-- ==== Sys2Proof/Machine/Crypto.lean ====
section
/-!
DEFINITION. The sector cipher of the HBM controllers (04 R140): AES-256 in XTS mode on 48-byte sectors. AES and XTS are
the published algorithms (log entry 15).
-/

namespace Sys2Proof

/-- Multiplication by x in GF(2^8) modulo x^8 + x^4 + x^3 + x + 1. -/
def gfDouble (a : Byte) : Byte := (a <<< 1) ^^^ (if a.getLsbD 7 then 0x1b else 0)

/-- Multiplication in GF(2^8), by the lowest n bits of b. -/
def gfMulBits : Nat → Byte → Byte → Byte
  | 0, _, _ => 0
  | n + 1, a, b => (if b.getLsbD 0 then a else 0) ^^^ gfMulBits n (gfDouble a) (b >>> 1)

/-- Multiplication in GF(2^8). -/
def gfMul (a b : Byte) : Byte := gfMulBits 8 a b

/-- The inverse in GF(2^8), as the 254th power; 0 for 0. -/
def gfInv (a : Byte) : Byte :=
  let a2 := gfMul a a
  let a4 := gfMul a2 a2
  let a8 := gfMul a4 a4
  let a16 := gfMul a8 a8
  let a32 := gfMul a16 a16
  let a64 := gfMul a32 a32
  let a128 := gfMul a64 a64
  gfMul a128 (gfMul a64 (gfMul a32 (gfMul a16 (gfMul a8 (gfMul a4 a2)))))

/-- The S-box of AES. -/
def aesSub (a : Byte) : Byte :=
  let b := gfInv a
  b ^^^ b.rotateLeft 1 ^^^ b.rotateLeft 2 ^^^ b.rotateLeft 3 ^^^ b.rotateLeft 4 ^^^ 0x63

/-- The inverse S-box of AES. -/
def aesSubInv (a : Byte) : Byte :=
  let b := a ^^^ 0x63
  gfInv (b.rotateLeft 1 ^^^ b.rotateLeft 3 ^^^ b.rotateLeft 6)

/-- Bytewise exclusive or. -/
def xorBytes (a b : List Byte) : List Byte := a.zipWith (· ^^^ ·) b

/-- The next key words of AES-256 from the last eight: i is the number of the next word. -/
def aesExpand : Nat → Nat → Byte → List (List Byte) → List (List Byte)
  | 0, _, _, ws => ws
  | n + 1, i, rcon, ws =>
    let back := fun k => ws.getD (ws.length - k) []
    let t := back 1
    let t' :=
      if i % 8 = 0 then
        let r := (t.drop 1 ++ t.take 1).map aesSub
        xorBytes r [rcon, 0, 0, 0]
      else if i % 8 = 4 then t.map aesSub else t
    aesExpand n (i + 1) (if i % 8 = 0 then gfDouble rcon else rcon) (ws ++ [xorBytes (back 8) t'])

/-- A list cut into pieces of four. -/
def quads : Nat → List Byte → List (List Byte)
  | 0, _ => []
  | n + 1, l => l.take 4 :: quads n (l.drop 4)

/-- The fifteen round keys of AES-256, each of 16 bytes. -/
def aesKeys (key : List Byte) : List (List Byte) :=
  let ws := aesExpand 52 8 1 (quads 8 key)
  (List.range 15).map fun r => ((ws.drop (4 * r)).take 4).flatten

/-- The bytes of a block taken in another order. -/
def permute (order : List Nat) (l : List Byte) : List Byte := order.map fun i => l.getD i 0

/-- One column through the given row of coefficients, rotated for each byte. -/
def mixColumn (c : List Byte) (col : List Byte) : List Byte :=
  (List.range 4).map fun r =>
    (List.range 4).foldl (fun acc j => acc ^^^ gfMul (c.getD ((j + 4 - r) % 4) 0) (col.getD j 0)) 0

/-- Every column of a block through mixColumn. -/
def mixColumns (c : List Byte) (l : List Byte) : List Byte := ((quads 4 l).map (mixColumn c)).flatten

/-- AES-256 encryption of a block of 16 bytes. -/
def aesEncrypt (key : List Byte) (block : List Byte) : List Byte :=
  let ks := aesKeys key
  let shift := permute [0, 5, 10, 15, 4, 9, 14, 3, 8, 13, 2, 7, 12, 1, 6, 11]
  let start := xorBytes block (ks.getD 0 [])
  let mid := (List.range 13).foldl
    (fun b r => xorBytes (mixColumns [2, 3, 1, 1] (shift (b.map aesSub))) (ks.getD (r + 1) [])) start
  xorBytes (shift (mid.map aesSub)) (ks.getD 14 [])

/-- AES-256 decryption of a block of 16 bytes. -/
def aesDecrypt (key : List Byte) (block : List Byte) : List Byte :=
  let ks := aesKeys key
  let unshift := permute [0, 13, 10, 7, 4, 1, 14, 11, 8, 5, 2, 15, 12, 9, 6, 3]
  let start := (unshift (xorBytes block (ks.getD 14 []))).map aesSubInv
  let mid := (List.range 13).foldl
    (fun b r => (unshift (mixColumns [14, 11, 13, 9] (xorBytes b (ks.getD (13 - r) [])))).map aesSubInv) start
  xorBytes mid (ks.getD 0 [])

/-- The bytes of a value, lowest first. -/
def natBytes : Nat → Nat → List Byte
  | 0, _ => []
  | n + 1, v => BitVec.ofNat 8 v :: natBytes n (v / 256)

/-- The value of bytes, lowest first. -/
def bytesNat : List Byte → Nat
  | [] => 0
  | b :: r => b.toNat + 256 * bytesNat r

/-- The next tweak of XTS: multiplication by x in GF(2^128). -/
def xtsNext (t : List Byte) : List Byte :=
  let v := bytesNat t * 2
  natBytes 16 (if v < 2 ^ 128 then v else (v - 2 ^ 128) ^^^ 0x87)

/-- AES-256-XTS on the three blocks of a 48-byte sector: enc encrypts, otherwise decrypts. -/
def xtsSector (enc : Bool) (data tweak : List Byte) (unit : Nat) (bytes : List Byte) : List Byte :=
  let t0 := aesEncrypt tweak (natBytes 16 unit)
  let t1 := xtsNext t0
  let t2 := xtsNext t1
  let one := fun (t b : List Byte) =>
    xorBytes ((if enc then aesEncrypt else aesDecrypt) data (xorBytes b t)) t
  one t0 (bytes.take 16) ++ one t1 ((bytes.drop 16).take 16) ++ one t2 (bytes.drop 32)

end Sys2Proof
end

