-- ==== Sys2Proof/Machine/Mem.lean ====
section
/-!
DEFINITION. Memory at its homes: panel physical addresses (01 R33 to R35), bytes with the HBM cipher (04 R140, R141),
full/empty bits, poison and the scan of wait entries (04 R114 to R119; 15 R403 to R407), translation (04 R131 to R139)
and the held-fault table (15 R394).
-/

namespace Sys2Proof.Machine

/-! Physical addresses -/

/-- The die of a panel physical address (Table 1-6). -/
def paDie (pa : Nat) : Die := BitVec.ofNat 6 (pa / 2 ^ 42)

/-- The space of a panel physical address: 0 HBM, 1 local SRAM, 2 device registers, 3 reserved (Table 1-6). -/
def paSpace (pa : Nat) : Nat := pa / 2 ^ 40 % 4

/-- The offset of a panel physical address (Table 1-6). -/
def paOffset (pa : Nat) : Nat := pa % 2 ^ 40

/-- A panel physical address. -/
def paOf (d : Die) (space : Nat) (off : Nat) : Nat := d.toNat * 2 ^ 42 + space * 2 ^ 40 + off

/-- Whether an offset of the device register space lies in a block of Table 1-8. -/
def regBlock (o : Nat) : Bool :=
  o < 0x100000 || (0x100000 ≤ o && o < 0x240000) || (0x300000 ≤ o && o < 0x400000)
    || (0x1000000 ≤ o && o < 0x1400000) || (0x2000000 ≤ o && o < 0x2100000) || (0x3000000 ≤ o && o < 0x3c00000)
    || (0x10000000 ≤ o && o < 0x12000000) || (0x20000000 ≤ o && o < 0x28000000) || (0x30000000 ≤ o && o < 0x31000000)

/-- Whether an offset of the local SRAM aperture is listed in Table 1-7. -/
def apertureListed (o : Nat) : Bool :=
  o < 0x10000000 || (0x40000000 ≤ o && o < 0x80000000) || (0x80000000 ≤ o && o < 0x88000000)

/-- Whether a die can be reached: the accessing die itself, or one of the panel map (R32, R433). -/
def State.dieThere (s : State) (own d : Die) : Bool := d == own || (s.die d).boot.present

/-- Whether an entry of a route table holds a path (R38). -/
def entryLeads (e : RouteEntry) : Bool := e.norm0.isSome || e.norm1.isSome || e.esc.isSome

/-- The route table of a core; that of its die where the core has no other, and for an agent that is no core (R38). -/
def State.routesOf (s : State) (d : Die) (via : Option CoreNo) : List RouteEntry :=
  (via.bind fun c => (s.core d c).routes).getD (s.die d).routes

/-- Whether accesses of a core, or another agent, may lead to another die: not once its panel map is known to lack it, or
the route table holds no path to it (R38, R433). While PANEL is 0 they wait (R339). -/
def State.dieReached (s : State) (own : Die) (via : Option CoreNo) (d : Die) : Bool :=
  d == own || !(s.die own).boot.ready.getLsbD 24
    || (s.dieThere own d && ((s.routesOf own via)[d.toNat]?.map entryLeads).getD false)

/-- BADPA: the sub-cause with which an address names nothing (Table 15-1). -/
def State.badPa (s : State) (own : Die) (pa : Nat) (via : Option CoreNo := none) : Option Byte :=
  if 2 ^ 48 ≤ pa then some 0
  else if !s.dieReached own via (paDie pa) then some 0
  else
    match paSpace pa with
    | 0 => if 0xbffffffd00 ≤ paOffset pa then some 1 else none
    | 1 => if apertureListed (paOffset pa) then none else some 2
    | 2 => if regBlock (paOffset pa) then none else some 3
    | _ => some 4

/-- The HBM stack of an HBM offset (R29). -/
def stackOf (o : Nat) : Nat := o / 192 % 12

/-- The L2 slice of an HBM offset (R27). -/
def sliceOf (o : Nat) : Nat :=
  let l := o / 192
  (l ^^^ (l >>> 10) ^^^ (l >>> 20) ^^^ (l >>> 30)) % 1024

/-- The wait and take tables of a double (R118). -/
def homeTable (pa : Nat) : HomeTable :=
  let d := paDie pa
  let o := paOffset pa
  if paSpace pa = 0 then .slice d (BitVec.ofNat 10 (sliceOf o))
  else if o < 0x40000000 then .skein d (BitVec.ofNat 7 (o / 0x20000 / 16))
  else if o < 0x80000000 then .skein d (BitVec.ofNat 7 ((o - 0x40000000) / 0x800000))
  else .slice d (BitVec.ofNat 10 ((o - 0x80000000) / 0x20000))

/-- The entries a table holds (R118, R403). -/
def HomeTable.size : HomeTable → Nat
  | .skein _ _ => 256
  | .slice _ _ => 64

/-- Whether a READY bit of a die is set (R338). -/
def State.unitUp (s : State) (d : Die) (b : Nat) : Bool := (s.die d).boot.ready.getLsbD b

/-- READY bits (Table 11-2): the sheds, the cores, the queues and the heddle engine. -/
def readySheds : Nat := 14
def readySkeins : Nat := 15
def readyHq : Nat := 17
def readyHeddle : Nat := 18

/-- Whether the units on the way to an address are ready (R338, R339): the panel map for another die, the stack and the
L2 for HBM, the die scratchpad; scratchpads and skein memories wait for nothing, and the registers of a unit for the unit. Those of
the die control block, the heddle engine, the links and the host port are what brings the units up, and wait for nothing. -/
def State.unitsReady (s : State) (own : Die) (pa : Nat) : Bool :=
  let r := (s.die (paDie pa)).boot.ready
  let o := paOffset pa
  (paDie pa == own || (s.die own).boot.ready.getLsbD 24) &&
    match paSpace pa with
    | 0 => r.getLsbD (stackOf o) && r.getLsbD 12
    | 1 => if 0x80000000 ≤ o then r.getLsbD 13 else true
    | _ =>
      if 0x1000000 ≤ o && o < 0x1400000 then r.getLsbD 16
      else if 0x2000000 ≤ o && o < 0x2100000 then r.getLsbD 17
      else if 0x10000000 ≤ o && o < 0x12000000 then r.getLsbD readySheds
      else if 0x20000000 ≤ o && o < 0x28000000 then r.getLsbD readySkeins
      else true

/-- The unit whose READY bit an access to an address waits for, as a number. -/
def readyUnit (pa : Nat) : Nat :=
  let o := paOffset pa
  let u := match paSpace pa with
    | 0 => stackOf o
    | 1 => 12
    | _ => 13 + o / 0x1000000
  (paDie pa).toNat * 1024 + u

/-! Bytes -/

/-- The stored bits of n bytes. -/
def State.rawBytes (s : State) (pa n : Nat) : List Byte := (List.range n).map fun i => tblGet unlistedByte (pa + i) s.mem

/-- Stores bits. -/
def writeRaw : Nat → List Byte → Tbl Byte → Tbl Byte
  | _, [], m => m
  | pa, b :: bs, m => writeRaw (pa + 1) bs (tblSet unlistedByte pa b m)

/-- The key slot that an access to an address uses: a bypass slot outside HBM (R140, R141). -/
def State.keySlot (s : State) (key : Byte) (pa : Nat) : KeySlot :=
  if paSpace pa = 0 then tblGet {} key.toNat (s.die (paDie pa)).keys else {}

/-- The bytes of a key, least significant first. -/
def keyBytes (k : BitVec 256) : List Byte := natBytes 32 k.toNat

/-- The XTS tweak of a sector (R140): the sector's index below, DIE from bit 40 on, a place that R140 does not give (PRESUMED,
log entry 15). -/
def sectorUnit (pa : Nat) : Nat := (paDie pa).toNat * 2 ^ 40 + paOffset pa / 48

/-- The plain bytes of the 48-byte sector that begins at an address. -/
def State.sector (s : State) (k : KeySlot) (base : Nat) : List Byte :=
  xtsSector false (keyBytes k.data) (keyBytes k.tweak) (sectorUnit base) (s.rawBytes base 48)

/-- n bytes at their home under a key (R141): the stored bits for a bypass slot, their decryption for a keyed one. -/
def State.readBytes (s : State) (key : Byte) (pa n : Nat) : List Byte :=
  let k := s.keySlot key pa
  if !k.xts then s.rawBytes pa n
  else
    let first := pa - paOffset pa % 48
    let last := (pa + n - 1) - paOffset (pa + n - 1) % 48
    let plain := s.sector k first ++ (if last = first then [] else s.sector k last)
    (plain.drop (pa - first)).take n

/-- Writes bytes within one sector under a keyed slot. -/
def State.writeSector (s : State) (k : KeySlot) (base off : Nat) (bs : List Byte) : State :=
  let old := s.sector k base
  let plain := old.take off ++ bs ++ old.drop (off + bs.length)
  { s with mem := writeRaw base (xtsSector true (keyBytes k.data) (keyBytes k.tweak) (sectorUnit base) plain) s.mem }

/-- Writes bytes at their home under a key (R141). -/
def State.writeBytes (s : State) (key : Byte) (pa : Nat) (bs : List Byte) : State :=
  let k := s.keySlot key pa
  if !k.xts then { s with mem := writeRaw pa bs s.mem }
  else
    let off := paOffset pa % 48
    let n := min bs.length (48 - off)
    let s := s.writeSector k (pa - off) off (bs.take n)
    if n = bs.length then s else s.writeSector k (pa - off + 48) 0 (bs.drop n)

/-- A little-endian value of up to 8 bytes (R7). -/
def wordOfBytes (bs : List Byte) : Word := BitVec.ofNat 64 (bytesNat bs)

/-- The low n bytes of a double, lowest address first (R7). -/
def bytesOfWord (n : Nat) (v : Word) : List Byte := natBytes n v.toNat

/-- A value of n bytes at its home. -/
def State.readHome (s : State) (key : Byte) (pa n : Nat) : Word := wordOfBytes (s.readBytes key pa n)

/-- Stores the low n bytes of a value at their home. -/
def State.writeHome (s : State) (key : Byte) (pa n : Nat) (v : Word) : State :=
  s.writeBytes key pa (bytesOfWord n v)

/-! Full/empty bits and poison -/

/-- The aligned double of an address. -/
def doubleOf (pa : Nat) : Nat := pa - pa % 8

def State.isFull (s : State) (pa : Nat) : Bool := s.full.contains (doubleOf pa)
def State.setFull (s : State) (pa : Nat) : State := { s with full := setAdd (doubleOf pa) s.full }
def State.setEmpty (s : State) (pa : Nat) : State :=
  { s with full := setDel (doubleOf pa) s.full, hostFull := setDel (doubleOf pa) s.hostFull }
def State.isPoisoned (s : State) (pa : Nat) : Bool := s.poison.contains (doubleOf pa)
def State.setPoison (s : State) (pa : Nat) : State := { s with poison := setAdd (doubleOf pa) s.poison }
def State.clearPoison (s : State) (pa : Nat) : State := { s with poison := setDel (doubleOf pa) s.poison }

/-! L1D (R124) -/

/-- The base address of the 192-byte line of an HBM address. -/
def lineOf (pa : Nat) : Nat := pa - paOffset pa % 192

/-- Removes every L1D line of a core (R124). -/
def State.dropL1d (s : State) (d : Die) (c : CoreNo) : State := s.modCore d c fun x => { x with l1d := [] }

/-- The bytes [k, k + n) of a double. -/
def subDouble (v : Word) (k n : Nat) : Word := wordOfBytes (((bytesOfWord 8 v).drop k).take n)

/-- The lines of an L1D of 32 KiB (R19, R124). -/
def l1dLines : Nat := 170

/-- A cache that has room for one more entry: a full one gives up an entry that a free value picks (log entry 8). -/
def makeRoom {α : Type} (size tick : Nat) (t : Tbl α) : Tbl α :=
  if t.length < size then t else t.eraseIdx (Config.pick tick % t.length)

/-- What a load of a core reads (R124, R148): HBM through the L1D, where a line filled earlier may still be held (log
entry 8); a load that misses allocates the line. A poisoned double, which travels with its line, gives no value (15 R406). -/
def State.loadL1d (s : State) (d : Die) (c : CoreNo) (key : Byte) (pa n : Nat) : Option Word × State :=
  let now := if s.isPoisoned pa then none else some (s.readHome key pa n)
  if paSpace pa != 0 then (now, s)
  else
    let base := lineOf pa
    let fill := fun (s : State) =>
      let line := (List.range 24).map fun i =>
        if s.isPoisoned (base + 8 * i) then none else some (s.readHome key (base + 8 * i) 8)
      s.modCore d c fun x => { x with l1d := tblSet [] base line (makeRoom l1dLines s.tick (tblDel base x.l1d)) }
    match tblGet [] base (s.core d c).l1d with
    | [] => (now, fill s)
    | line =>
      let old := (line.getD ((pa - base) / 8) none).map fun v => subDouble v (pa % 8) n
      if old = now then (now, s)
      else if Config.cacheHolds s.tick then (old, s)
      else (now, fill s)

/-- The line of an address leaves the L1D of a core whose thread has changed its double at the home, so that the thread
reads no older value (R146). -/
def State.dropLine (s : State) (d : Die) (c : CoreNo) (pa : Nat) : State :=
  if paSpace pa != 0 then s else s.modCore d c fun x => { x with l1d := tblSet [] (lineOf pa) [] x.l1d }

/-- A store updates the line when it is present, and never allocates (R124); one that covers a poisoned double cleans it. -/
def State.storeL1d (s : State) (d : Die) (c : CoreNo) (pa n : Nat) (v : Word) : State :=
  let base := lineOf pa
  match tblGet [] base (s.core d c).l1d with
  | [] => s
  | line =>
    let i := (pa - base) / 8
    let put := fun (w : Word) =>
      let old := bytesOfWord 8 w
      wordOfBytes (old.take (pa % 8) ++ bytesOfWord n v ++ old.drop (pa % 8 + n))
    let new := if n = 8 then some v else (line.getD i none).map put
    s.modCore d c fun x => { x with l1d := tblSet [] base (line.set i new) x.l1d }

/-! Completion of a waiter -/

/-- Whether an acquire at a scope invalidates the L1D (R124). -/
def atLeastC (x : Scope) : Bool := x != .s

/-- The completion of a slot's access: its results are written, an acquire at c or wider, or one that observed a host's fill
(R44), invalidates the L1D, and a slot that waited for it goes on behind its instruction (R231). -/
def State.completeSlot (s : State) (i : SlotId) (inc : Byte) (a : Access) (v : Word) (ok : Bool) : State :=
  if (s.slot i).inc != inc then s.dropAccess a.id
  else
    let s := match a.op with
      | .fe .trytake =>
        let s := if ok then s.writeReg i a.dst v else s
        s.writeReg i a.dst2 (if ok then 1 else 0)
      | .load _ | .amo _ _ | .cas _ | .arrive | .arriveWait | .fe .lde | .fe .take | .fe .festat =>
        s.writeReg i a.dst v
      | _ => s
    let s := if a.acq && ok && (atLeastC a.scope || a.host) then s.dropL1d i.die i.core else s
    let s :=
      if (s.slot i).await == .access a.id && (s.slot i).state != .trapped then
        let s := if a.detached then s else s.modSlot i fun x => { x with pc := x.pc + 4 }
        s.wake i
      else s
    s.dropAccess a.id

/-- Whether a waiter's completion travels as a message: its core lies in another skein than the home's table, or the
home is an L2 slice (R118). -/
def remoteWaiter (t : HomeTable) (i : SlotId) : Bool :=
  match t with
  | .skein d n => !(d == i.die && n == skeinOf i.core)
  | .slice _ _ => true

/-- A full/empty operation on a double notes whether a host's fill has set it full (R44). -/
def State.noteHost (s : State) (id pa : Nat) : State :=
  if s.hostFull.contains (doubleOf pa) then s.modAccess id fun a => { a with host := a.op.isFe } else s

/-- Completes a wait entry with a value (R118, R119): a waiter of the home's skein at once, unless its phase is not settled
(R164), another by a message, a graph node by its completion. -/
def State.completeWaiter (s : State) (w : WaitEntry) (v : Word) : State :=
  let s := { s with waits := s.waits.filter (·.access != w.access) }
  match w.agent with
  | .slot i inc =>
    let s := s.dropLine i.die i.core w.pa
    if remoteWaiter w.table i then
      (s.modAccess w.access fun a => { a with result := v, stage := .done }).send (.feDone w.access)
    else
      match s.access w.access with
      | some a =>
        if s.phaseSettled a v then s.completeSlot i inc a v true
        else s.modAccess w.access fun a => { a with result := v, stage := .done }
      | none => s
  | .node _ _ _ _ => s.modAccess w.access fun a => { a with result := v, stage := .done }

/-! Take tables (R403) -/

/-- Removes the take entry of a double. -/
def State.untake (s : State) (pa : Nat) : State := { s with takes := s.takes.filter (·.pa != doubleOf pa) }

/-- Whether a double is orphaned (R404). -/
def State.orphaned (s : State) (pa : Nat) : Bool := s.takes.any fun t => t.pa == doubleOf pa && t.orph

/-- The unit that counts a dropped take entry: the L2 slice, or core 0 of the skein (R403). -/
def tableUnit : HomeTable → Die × LogUnit
  | .skein d n => (d, .core (n ++ 0#4))
  | .slice d n => (d, .l2 n)

/-- Installs a take entry for a TAKE or TRYTAKE that took the double; a full table drops its oldest entry (R403). -/
def State.noteTake (s : State) (pa : Nat) (who : Agent) : State :=
  let t := homeTable pa
  let rec' := match who with
    | .slot i _ => (s.slot i).jrec
    | .node _ _ _ _ => none
  let s := s.untake pa
  let mine := s.takes.filter (·.table == t)
  let s :=
    if mine.length < t.size then s
    else
      let s := { s with takes := s.takes.erase (mine.headD ⟨t, 0, who, false, none, false⟩) }
      s.count (tableUnit t).1 (tableUnit t).2 0x2c
  { s with takes := s.takes ++ [⟨t, doubleOf pa, who, false, rec', false⟩] }

/-! The scan of wait entries (R119) -/

/-- Whether a wait entry can complete on its double as it stands. -/
def State.canComplete (s : State) (w : WaitEntry) : Bool :=
  match w.op with
  | .fe .lde | .fe .waitf | .fe .take => s.isFull w.pa
  | .fe .put => !s.isFull w.pa
  | _ => false

/-- Completes one entry that can complete (R119). -/
def State.scanOne (s : State) (key : Byte) (w : WaitEntry) : State :=
  let s := s.noteHost w.access w.pa
  match w.op with
  | .fe .take =>
    let v := s.readHome key w.pa 8
    (((s.setEmpty w.pa).noteTake w.pa w.agent)).completeWaiter w v
  | .fe .put => ((((s.writeHome key w.pa 8 w.data).setFull w.pa).untake w.pa)).completeWaiter w 0
  | _ => s.completeWaiter w (s.readHome key w.pa 8)

/-- One pass over the entries of a double in install order, and whether any completed. -/
def scanPass (key : Byte) : List WaitEntry → State → Bool → State × Bool
  | [], s, p => (s, p)
  | w :: ws, s, p => if s.canComplete w then scanPass key ws (s.scanOne key w) true else scanPass key ws s p

/-- Passes until none completes; n bounds the passes by the entries there are. -/
def scanLoop (key : Byte) (pa : Nat) : Nat → State → State
  | 0, s => s
  | n + 1, s =>
    let r := scanPass key (s.waits.filter (·.pa == doubleOf pa)) s false
    if r.2 then scanLoop key pa n r.1 else r.1

/-- ScanWaiters (R119), after an operation that left the double full or empty. -/
def State.scanWaiters (s : State) (key : Byte) (pa : Nat) : State :=
  scanLoop key pa ((s.waits.filter (·.pa == doubleOf pa)).length + 1) s

/-- A plain write has covered a double: a poisoned one is clean and empty, and its waiters are scanned (R115, R119, R407). -/
def State.cleanDouble (s : State) (key : Byte) (pa : Nat) : State :=
  if s.isPoisoned pa then ((s.clearPoison pa).setEmpty pa).scanWaiters key pa else s

/-- A plain write at the home (R115, R228, R407). -/
def State.plainWrite (s : State) (key : Byte) (pa n : Nat) (v : Word) : State :=
  let s := s.writeHome key pa n v
  if n = 8 then s.cleanDouble key pa else s

/-- A filling write: FILL, a fill-alias write or a DFE fill (R116, R404, R407). -/
def State.fillDouble (s : State) (key : Byte) (pa : Nat) (v : Word) : State :=
  ((((s.writeHome key pa 8 v).clearPoison pa).setFull pa).untake pa).scanWaiters key pa

/-! Translation (R131 to R139) -/

/-- The bits an access requires of its leaf, and of a PERM fault's sub-cause: R 1, W 2, X 4, U 8, FE 16. -/
abbrev Need := Byte

def needR : Need := 1
def needW : Need := 2
def needX : Need := 4
def needU : Need := 8
def needFE : Need := 16

/-- What Table 14-4 of translation, Table 4-14, requires of an operation. -/
def opNeed (o : MemOp) : Need :=
  match o with
  | .load _ => needR
  | .store _ => needW
  | .fe .lde | .fe .waitf | .fe .festat => needR ||| needFE
  | .fe _ => needR ||| needW ||| needFE
  | .amo _ _ | .cas _ | .upd _ _ => needR ||| needW
  | .arrive | .arriveWait => needR ||| needW
  | .waitPhase => needR
  | .fence => 0

/-- Whether an access is store-class (R136). -/
def storeClass (n : Need) : Bool := n.getLsbD 1

/-- The bits of a leaf in the places of Need. -/
def leafGrants (pte : Word) : Need :=
  0#3 ++ bit (pte.getLsbD 10) ++ bit (pte.getLsbD 5) ++ bit (pte.getLsbD 4) ++ bit (pte.getLsbD 3)
    ++ bit (pte.getLsbD 2)

/-- The first case of R135 that an entry read at a level is, 1 to 7. -/
def reservedCase (pte : Word) (level : Nat) : Option Nat :=
  let leaf := pte.getLsbD 1
  let space := pte.extractLsb' 48 2
  if pte.extractLsb' 56 8 != 0 then some 1
  else if leaf && 3 ≤ level then some 2
  else if !leaf && (pte.extractLsb' 2 18 != 0 || space != 0) then some 3
  else if leaf && level == 2 && pte.extractLsb' 20 9 != 0 then some 4
  else if leaf && space == 3 then some 5
  else if leaf && pte.getLsbD 3 && (!pte.getLsbD 2 || pte.getLsbD 9) then some 6
  else if leaf && space == 2 && pte.getLsbD 5 then some 7
  else none

/-- The fault of a leaf that does not grant an access (R136): the bits it lacks, or copy-on-write. -/
def leafFault (pte : Word) (need : Need) : Option (Byte × Byte) :=
  let lacks := need &&& ~~~ leafGrants pte
  let lacks := if pte.getLsbD 9 then lacks &&& ~~~ needW else lacks
  if lacks != 0 then some (0x24, lacks)
  else if pte.getLsbD 9 && storeClass need then some (0x25, 0)
  else none

/-- The outcome of a translation: an address with its key, or a fault with its cause, its sub-cause and the address it is
about, virtual or, for BADPA, panel physical; and the state in which accessed and dirty bits and cached entries stand. -/
inductive Walked where
  | ok (pa : Nat) (key : Byte) (s : State)
  | fault (cause sub : Byte) (addr : Word)
  | notReady

/-- The panel physical address of a table or page that an entry points to. -/
def ptePa (pte : Word) : Nat := (pte.extractLsb' 20 36).toNat * 4096

/-- The address that a TLB entry gives a virtual address. -/
def TlbEntry.pa (e : TlbEntry) (va : Nat) : Nat := (e.pbase + (va - e.vbase)) % 2 ^ 48

/-- Whether a TLB entry translates a virtual address in an address space (R139). -/
def TlbEntry.covers (e : TlbEntry) (asid : BitVec 16) (va : Nat) : Bool :=
  (e.asid == asid || e.leaf.getLsbD 11) && e.vbase ≤ va && va < e.vbase + e.size

/-- Sets the accessed bit, and the dirty bit for a store, of an entry in memory (R137). -/
def State.setAD (s : State) (key : Byte) (ptr : Nat) (store : Bool) : State :=
  let pte := s.readHome key ptr 8
  let new := pte ||| 0x40 ||| (if store then 0x80 else 0)
  if new = pte then s else s.plainWrite key ptr 8 new

/-- Sets the accessed and dirty bits of a leaf, or of all 16 leaves of its group (R137, R138). -/
def State.setLeafAD (s : State) (key : Byte) (ptr : Nat) (group store : Bool) : State :=
  if group then
    let base := ptr - ptr % 128
    (List.range 16).foldl (fun s j => s.setAD key (base + 8 * j) store) s
  else s.setAD key ptr store

/-- The walk from a table at a level (R137), with the walk-cache entries it may use and those it reads. -/
def walkFrom (s : State) (d : Die) (c : CtxReg) (va : Nat) (need : Need) (fresh : Bool) (via : Option CoreNo) :
    Nat → Nat → List WalkEntry → Except (Option (Byte × Byte × Nat)) (Word × Nat × Nat × List WalkEntry)
  | 0, _, _ => .error none
  | level + 1, table, got =>
    let l := level + 1
    let shift := 12 + 9 * level
    let ptr := table + 8 * (va / 2 ^ shift % 512)
    let tag := va / 2 ^ shift
    let cached := (s.die d).walks.find? fun e => e.asid == c.asid && e.level == l && e.tag == tag
    let hit := match cached with
      | some e => if !fresh && 3 ≤ l && Config.cacheHolds (s.tick + l) then some e.pte else none
      | none => none
    match s.badPa d ptr via with
    | some sub => .error (some (0x26, sub, ptr))
    | none =>
      if !s.unitsReady d ptr then .error none
      else if hit.isNone && s.isPoisoned ptr then .error (some (0x29, BitVec.ofNat 8 l, va))
      else
        let pte := hit.getD (s.readHome c.tkey ptr 8)
        if !pte.getLsbD 0 then .error (some (0x22, BitVec.ofNat 8 l, va))
        else
          match reservedCase pte l with
          | some k => .error (some (0x23, BitVec.ofNat 8 (k * 16 + l), va))
          | none =>
            if pte.getLsbD 1 then
              match leafFault pte need with
              | some f => .error (some (f.1, f.2, va))
              | none => .ok (pte, l, ptr, got)
            else
              let got := if 3 ≤ l then ⟨c.asid, l, tag, pte⟩ :: got else got
              walkFrom s d c va need fresh via level (ptePa pte) got

/-- A TLB entry formed from a leaf at a level, for its page or its group of 16 pages (R138); the 48-bit physical address wraps,
since the walker does not check that the group's leaves are aligned. -/
def formTlb (c : CtxReg) (va : Nat) (leaf : Word) (level : Nat) (ptr : Nat) (group : Bool) : TlbEntry :=
  let page := if level = 1 then 4096 else 0x200000
  if group then
    let pos := ptr / 8 % 16
    let vpage := va - va % page
    ⟨c.asid, vpage - pos * page, (ptePa leaf + 2 ^ 48 - pos * page) % 2 ^ 48, 16 * page, leaf⟩
  else ⟨c.asid, va - va % page, ptePa leaf, page, leaf⟩

/-- Translation of a virtual address by an agent of a die in an address context (R131 to R138), given the TLB of the
agent; fresh walks use no cached entry (R396), and no walk starts while every walker is busy. The new TLB is returned with the
address. -/
def State.translate (s : State) (d : Die) (ctx : BitVec 12) (tlb : List TlbEntry) (va : Nat) (need : Need)
    (fresh : Bool) (via : Option CoreNo := none) (busy : Bool := false) : Walked × List TlbEntry :=
  let c := tblGet {} ctx.toNat (s.die d).ctxs
  let tlb := if fresh then tlb.filter (fun e => !e.covers c.asid va) else tlb
  let walk :=
    if !c.en then (.fault 0x22 0 (BitVec.ofNat 64 va), tlb)
    else if busy then (.notReady, tlb)
    else
      match walkFrom s d c va need fresh via 5 (c.root.toNat * 4096) [] with
      | .error (some (cause, sub, addr)) => (.fault cause sub (BitVec.ofNat 64 addr), tlb)
      | .error none => (.notReady, tlb)
      | .ok (leaf, level, ptr, got) =>
        let group := leaf.getLsbD 8 && Config.formsGroup s.tick
        let s := s.setLeafAD c.tkey ptr group (storeClass need)
        let leaf := leaf ||| 0x40 ||| (if storeClass need then 0x80 else 0)
        let e := formTlb c va leaf level ptr group
        let s := s.modDie d fun x => { x with walks := got ++ x.walks.filter fun e => !got.contains e }
        (.ok (e.pa va) (leaf.extractLsb' 12 8) s, e :: tlb.filter fun t => !t.covers c.asid va)
  match tlb.find? (·.covers c.asid va) with
  | some e =>
    if !fresh && c.en && Config.cacheHolds s.tick then
      match leafFault e.leaf need with
      | some (cause, sub) => (.fault cause sub (BitVec.ofNat 64 va), tlb)
      | none =>
        if storeClass need && !e.leaf.getLsbD 7 then walk
        else (.ok (e.pa va) (e.leaf.extractLsb' 12 8) s, tlb)
    else walk
  | none => walk

/-! Held faults (R394 to R397) -/

/-- The pieces of a fault message that name the agent and its access (Table 15-2). -/
structure FaultInfo where
  kind : BitVec 2
  need : Need
  addr : Word
  agent : Word
  pc : Word
  ctx : BitVec 12

/-- The lowest free entry of a die's held-fault table. -/
def DieSt.freeHeld (x : DieSt) : Option Byte :=
  ((List.range 256).map (BitVec.ofNat 8)).find? fun f => !x.held.any (·.fid == f)

/-- The fault message of a held access (Table 15-2). -/
def heldWords (d : Die) (x : DieSt) (i : FaultInfo) (cause sub fid gen : Byte) : List Word :=
  let asid := (tblGet {} i.ctx.toNat x.ctxs).asid
  [0#34 ++ d ++ 0#5 ++ bit (storeClass i.need) ++ i.kind ++ sub ++ cause, i.addr, i.agent, i.pc,
    0#27 ++ i.need.extractLsb' 0 5 ++ 0#4 ++ i.ctx ++ asid, 0#48 ++ gen ++ fid]

/-- The outcome of finding a fault of kind Held: the access is held, it waits at its finder for an entry of the full table, or
it fails at once; in each case the state then. -/
inductive Hold where
  | held (s : State)
  | full (s : State)
  | failNow (s : State)

/-- Frees the held-fault entry of an access that has gone on, and its finder. -/
def State.unhold (s : State) (d : Die) (who : HeldWho) : State :=
  s.modDie d fun x => { x with held := x.held.filter (·.who != who), finders := x.finders.filter (· != who) }

/-- Places an access in the held-fault table and reports it (R394): at once failed while XFDST.EN is 0 or for an exempt
agent, waiting while the table is full. -/
def State.hold (s : State) (d : Die) (who : HeldWho) (exempt : Bool) (cause sub : Byte) (i : FaultInfo) : Hold :=
  let x := s.die d
  if !x.xfEn || exempt then .failNow (s.unhold d who)
  else
    match (x.held.find? (·.who == who)).map (·.fid) |>.orElse fun _ => x.freeHeld with
    | none => .full (s.setDie d { x with finders := x.finders.filter (· != who) ++ [who] })
    | some fid =>
      let gen := tblGet 0 fid.toNat x.gens + 1
      let e : HeldEntry := { fid, gen, who, cause, sub, va := i.addr }
      let s := s.setDie d { x with
        held := x.held.filter (·.fid != fid) ++ [e], gens := tblSet 0 fid.toNat gen x.gens,
        finders := x.finders.filter (· != who) }
      .held (s.faultMail d x.xfCore x.xfBox (heldWords d x i cause sub fid gen))

/-- The walks that a die performs at once (R139). -/
def walkersOfDie : Nat := 192

/-- Whether an access waits at a finder for a slot. -/
def State.findsFor (s : State) (i : SlotId) (who : HeldWho) : Bool :=
  match who with
  | .fetch k | .operand k | .vector k => k == i
  | .access id =>
    match s.access id with
    | some a =>
      match a.agent with
      | .slot k _ => k == i
      | .node _ _ _ _ => false
    | none => false
  | _ => false

/-- Whether every walker of a die is the finder of a fault of somebody else that waits for an entry of the full held-fault
table: no walk starts for the slot then (R394; DEDUCED, log entry 79). -/
def State.walkersBusy (s : State) (i : SlotId) : Bool :=
  walkersOfDie ≤ ((s.die i.die).finders.filter fun w => !s.findsFor i w).length

/-- Whether an access waits at the feeder-row TLB of a shed. -/
def State.findsAt (s : State) (d : Die) (h : ShedNo) (who : HeldWho) : Bool :=
  match who with
  | .stream e k _ | .descriptor e k _ => e == d && k == h
  | .access id =>
    match s.access id with
    | some a =>
      match a.agent with
      | .node e k _ _ => e == d && k == h
      | .slot _ _ => false
    | none => false
  | _ => false

/-- Whether the feeder-row TLB of a shed starts no access for an agent, since a fault of another waits there (R394). -/
def State.feederBusy (s : State) (d : Die) (h : ShedNo) (who : HeldWho) : Bool :=
  (s.die d).finders.any fun w => w != who && s.findsAt d h w

/-- Whether an access is held and not being tried again. -/
def State.heldWaits (s : State) (d : Die) (who : HeldWho) : Bool := (s.die d).held.any fun e => e.who == who && !e.retry && !e.fail

/-- Whether an access is being tried again: its walk uses no cached entry (R396). -/
def State.heldRetries (s : State) (d : Die) (who : HeldWho) : Bool := (s.die d).held.any fun e => e.who == who && e.retry

/-- Whether a held access has been failed and its finder has still to act on it. -/
def State.heldFails (s : State) (d : Die) (who : HeldWho) : Bool := (s.die d).held.any fun e => e.who == who && e.fail

/-- The fault core's own slot 15, and slot 15 in physical mode, are exempt from holding (R394). -/
def State.exempt (s : State) (i : SlotId) : Bool :=
  isPriv i && ((s.core i.die i.core).phys || i.core == (s.die i.die).xfCore)

/-- The agent double of a thread's fault message (Table 15-2). -/
def threadAgent (i : SlotId) (inc : Byte) : Word := 0#40 ++ inc ++ i.slot ++ 0#1 ++ i.core

/-- A thread's access has failed: the slot traps before its next issue (R397). -/
def State.failSlot (s : State) (i : SlotId) (cause sub : Byte) (val aux : Word) : State :=
  s.modSlot i fun x => { x with fails := x.fails ++ [⟨cause, sub, val, aux⟩] }

end Sys2Proof.Machine
end

