-- ==== Sys2Proof/Machine/Log.lean ====
section
/-!
DEFINITION. The store log of a journaled slot (16 R420): its 8 KiB, its entries, and what the thread's own loads read
of it.
-/

namespace Sys2Proof.Machine

/-- SMODE.JNL of a slot as it reads: 0 in slot 15 (Table 2-6), and 0 without a journal (R421). -/
def State.jnlOf (s : State) (i : SlotId) : Bool :=
  (s.slot i).jnl && !isPriv i && (s.die i.die).jnlSize != 0

/-- Whether the thread of the executing slot keeps a store log (R420). -/
def State.journaled (s : State) : Bool := s.jnlOf s.cur

/-- The bytes of the log (R420). -/
def logBytes : Nat := 8192

/-- The bytes an entry takes (R420). -/
def LogOp.size : LogOp → Nat
  | .mail _ => 64
  | _ => 16

/-- The bytes of the log in use. -/
def SlotSt.logUsed (x : SlotSt) : Nat := (x.log.map fun e => e.op.size).sum

/-- Whether an address lies in a core's own scratchpad or its share of the skein memory (01 R34). -/
def ownLocal (i : SlotId) (pa : Nat) : Bool :=
  let o := paOffset pa
  paDie pa == i.die && paSpace pa == 1 &&
    ((o < 0x10000000 && o / 0x20000 == i.core.toNat)
      || (0x40000000 ≤ o && o < 0x80000000 && (o - 0x40000000) / 0x80000 == i.core.toNat))

/-- The bytes a log entry writes, from its physical address on. -/
def LogEntry.bytes (e : LogEntry) : List Byte :=
  match e.op with
  | .store n => bytesOfWord n e.data
  | .fill _ => bytesOfWord 8 e.data
  | _ => []

/-- A byte as the log leaves it: the newest logged byte of the address, otherwise the byte read (R420). -/
def loggedByte (log : List LogEntry) (pa : Nat) (b : Byte) : Byte :=
  log.foldl (fun b e => if e.pa ≤ pa && pa < e.pa + e.bytes.length then e.bytes.getD (pa - e.pa) b else b) b

/-- A value of n bytes as the log leaves it (R420). -/
def loggedValue (log : List LogEntry) (pa n : Nat) (v : Word) : Word :=
  wordOfBytes ((bytesOfWord n v).zipIdx.map fun p => loggedByte log (pa + p.2) p.1)

end Sys2Proof.Machine
end

