-- ==== Sys2Proof/Machine/Access.lean ====
section
/-!
DEFINITION. How a thread reaches memory: the checks of an address at issue (15 R390, R391), its translation and the
checks of the physical address, the start of an access, the operand records an instruction reads, and the order in
which accesses may be performed (05 R146 to R150; 15 R395).
-/

namespace Sys2Proof.Machine

/-! Addresses at issue -/

/-- The trap of a data address at issue: MISALIGN with log2 of the alignment, or VARANGE for a virtual address with bits
above bit 56 (R226, R390), of slot 15 in physical mode too. -/
def State.addressFault (_s : State) (_i : SlotId) (va : Word) (log2 : Nat) : Option Act :=
  if va.toNat % 2 ^ log2 != 0 then some (.trap 0x20 (BitVec.ofNat 8 log2) va 0)
  else if 2 ^ 57 ≤ va.toNat then some (.trap 0x21 0 va 0)
  else none

/-! Translation with the checks of the physical address -/

/-- Where an address leads: a physical address with its key and the state the walk leaves; a fault with the address a
fault message names; such an address at a unit that is not ready yet (R339); or nowhere yet. -/
inductive Reach where
  | ok (pa : Nat) (key : Byte) (s : State)
  | fault (cause sub : Byte) (addr : Word)
  | unready (pa : Nat) (key : Byte) (s : State)
  | notReady

/-- The checks of a panel physical address of an agent of a die (Table 15-1): BADPA, DEVREG, readiness. -/
def State.place (s : State) (own : Die) (pa : Nat) (key : Byte) (reg : Bool) (va : Word)
    (via : Option CoreNo := none) : Reach :=
  match s.badPa own pa via with
  | some sub => .fault 0x26 sub (BitVec.ofNat 64 pa)
  | none =>
    if paSpace pa == 2 && !reg then .fault 0x27 0 va
    else if s.unitsReady own pa then .ok pa key s
    else .unready pa key s

/-- Translates a data or fetch address of a slot (R133, R136). -/
def State.reach (s : State) (i : SlotId) (va : Word) (need : Need) (reg fresh : Bool) : Reach :=
  let c := s.core i.die i.core
  if isPriv i && c.phys then s.place i.die va.toNat c.pkey reg va i.core
  else
    let need := if isPriv i then need else need ||| needU
    match s.translate i.die c.ctx c.tlb va.toNat need fresh i.core (s.walkersBusy i) with
    | (.ok pa key t, tlb) => (t.modCore i.die i.core fun x => { x with tlb }).place i.die pa key reg va i.core
    | (.fault cause sub addr, _) => .fault cause sub addr
    | (.notReady, _) => .notReady

/-- What the fault message of a slot's access says (Table 15-2). -/
def State.slotFault (s : State) (i : SlotId) (kind : BitVec 2) (need : Need) (addr pc : Word) : FaultInfo :=
  { kind, need := if isPriv i then need else need ||| needU, addr, agent := threadAgent i (s.slot i).inc, pc,
    ctx := (s.core i.die i.core).ctx }

/-! The order of accesses -/

/-- Whether an access is a read in the sense of an acquire fence (R150). -/
def isReadOp (o : MemOp) : Bool :=
  match o with
  | .store _ | .fence | .fe .fill | .fe .purge | .fe .put => false
  | _ => true

/-- Whether an access is a write, which a release fence before it makes a release (R150). -/
def isWriteOp (o : MemOp) : Bool :=
  match o with
  | .load _ | .waitPhase | .fe .lde | .fe .waitf | .fe .festat => false
  | _ => true

/-- Whether an access still has to be performed. -/
def Access.open (a : Access) : Bool := a.stage != .done

/-- Whether the physical address of an access is known. -/
def Access.known (a : Access) : Bool := a.stage == .home || a.stage == .parked || a.stage == .polling

/-- Whether two accesses are to one double, as far as their translation has come. -/
def sameDouble (a b : Access) : Bool :=
  if a.known && b.known then doubleOf a.pa == doubleOf b.pa
  else a.va.toNat % 4096 / 8 == b.va.toNat % 4096 / 8

/-- The first offset of the unit that a device register offset lies in (R35, Table 1-8). -/
def unitBase (o : Nat) : Nat :=
  let at0 := fun (base stride : Nat) => base + (o - base) / stride * stride
  if o < 0x100000 then 0
  else if o < 0x200000 then 0x100000
  else if o < 0x240000 then at0 0x200000 0x10000
  else if o < 0x1000000 then 0x300000
  else if o < 0x2000000 then at0 0x1000000 0x10000
  else if o < 0x3000000 then at0 0x2000000 0x100
  else if o < 0x10000000 then at0 0x3000000 0x100000
  else if o < 0x20000000 then at0 0x10000000 0x10000
  else if o < 0x30000000 then at0 0x20000000 0x10000
  else at0 0x30000000 0x4000

/-- Whether an access goes to a device register of the unit that an earlier one goes to, or may go to (R167). -/
def sameUnit (e a : Access) : Bool :=
  paSpace a.pa == 2 && (!e.known || (paSpace e.pa == 2 && paDie a.pa == paDie e.pa
    && unitBase (paOffset a.pa) == unitBase (paOffset e.pa)))

/-- Whether an access, with an earlier one of the same agent still open, has to wait for it (R147, R150, R156, R167). A release
waits for the earlier accesses of its thread (R236, R395) whatever its scope but s, also where no acquire's agent is covered;
of the arrivals, which R164 orders by what they cover, only behind an access that is not translated yet, held or failed
(DESIGN CHOICE, log entry 91). A store to a device register comes after every release fence, of any scope (R163, log entry
91). -/
def mustFollow (e a : Access) : Bool :=
  match a.agent with
  | .slot _ _ =>
    (e.acq && e.op != .fence) || a.op == .fence || (a.rel && a.scope != .s && !(a.op.arrives && e.known))
      || (e.op == .fence && isWriteOp a.op && !a.op.arrives && (e.scope != .s || paSpace a.pa == 2))
      || (a.op != .fence && e.op != .fence && (sameDouble e a || sameUnit e a))
  | .node _ _ _ _ => true

/-- Whether an earlier access of a slot holds back a later one: until it is performed, and an acquire until it is complete
and the L1D invalidated (R124). -/
def holdsBack (e a : Access) : Bool := (e.open || e.acq) && mustFollow e a

/-- Whether a record that the thread has sealed, and that the journal engine has still to perform, comes before an access:
a store of it to the same double, or any of it before a release (R147, 16 R421). -/
def State.sealedBefore (s : State) (i : SlotId) (inc : Byte) (a : Access) : Bool :=
  s.sealedAny i inc fun r => (a.rel && a.scope != .s) || r.stores.any fun l => doubleOf l.pa == doubleOf a.pa

/-- An access of the thread in a slot. -/
def State.newAccess (t : State) (i : SlotId) (op : MemOp) (scope : Scope) (acq rel : Bool) (va : Word) : Access :=
  let c := t.core i.die i.core
  { id := t.nextId, agent := .slot i (t.slot i).inc, op, scope, acq, rel, va, ctx := c.ctx, phys := isPriv i && c.phys,
    priv := isPriv i, pc := (t.slot i).pc, since := t.aclk }

/-- Whether an access to a physical address that an instruction makes at its issue has to wait for an earlier access of
its thread (R147, R150). -/
def State.mustWait (s : State) (i : SlotId) (op : MemOp) (va : Word) (pa : Nat) : Bool :=
  let a : Access := { s.newAccess i op .s false false va with pa := pa, stage := .home }
  (s.threadAccs i).any (holdsBack · a) || s.sealedBefore i (s.slot i).inc a

/-! Operand records -/

/-- The slot is held at an instruction whose operand record faulted, or at its fetch: it waits in WAIT-DATA until the
fault is answered (R395). -/
def State.holdSlot (t : State) (i : SlotId) : State := t.enter i .waitData .held

/-- The act of an operand address that faults: held, waiting for a free entry, or failed at once; a failed one lets the
slot trap before its next issue (R394, R397). -/
def operandFault (s : State) (i : SlotId) (need : Need) (cause sub : Byte) (addr : Word) : Act :=
  let pc := (s.slot i).pc
  .keep fun u =>
    match u.hold i.die (.operand i) (u.exempt i) cause sub (u.slotFault i 0 need addr pc) with
    | .held v => v.holdSlot i
    | .full v => v.waitData i
    | .failNow v => (v.advance).failSlot i cause sub addr pc

/-- A double that a slot's instruction reads at an address: a journaled slot sees its own logged bytes (R420). -/
def State.ownDouble (s : State) (i : SlotId) (key : Byte) (pa : Nat) : Word :=
  loggedValue (s.slot i).log pa 8 (s.readHome key pa 8)

/-- Reads doubles of an operand record at their homes one after another; a poisoned one fails (R407). The thread's later loads
are no older (R146). -/
def readDoubles (i : SlotId) (need : Need) (va : Word) :
    List Nat → List Word → State → (List Word → State → Act) → Act
  | [], ws, s, k => k ws (s.unhold i.die (.operand i))
  | n :: ns, ws, s, k =>
    let a := va + BitVec.ofNat 64 (8 * n)
    match s.addressFault i a 0, s.reach i a need false (s.heldRetries i.die (.operand i)) with
    | some f, _ => f
    | none, .notReady | none, .unready _ _ _ => .wait
    | none, .fault cause sub addr => operandFault s i need cause sub addr
    | none, .ok pa key s =>
      if s.mustWait i (.load .d) a pa then .wait
      else if s.isPoisoned pa then
        let pc := (s.slot i).pc
        .keep fun u => ((u.unhold i.die (.operand i)).advance).failSlot i 0x29 0 a pc
      else readDoubles i need va ns (ws ++ [s.ownDouble i key pa]) (s.dropLine i.die i.core pa) k

/-- An instruction that reads an operand record of n doubles at an address aligned to 2^log2 bytes. -/
def State.withRecord (t : State) (va : Word) (log2 n : Nat) (k : List Word → State → Act) : Act :=
  match t.addressFault t.cur va log2 with
  | some a => a
  | none => readDoubles t.cur needR va (List.range n) [] t k

/-- An instruction that reads n bytes at an address: the doubles they lie in. -/
def State.withBytes (t : State) (va : Word) (n : Nat) (k : List Byte → State → Act) : Act :=
  let off := va.toNat % 8
  readDoubles t.cur needR (va - BitVec.ofNat 64 off) (List.range ((off + n + 7) / 8)) [] t fun ws t =>
    k (((ws.flatMap (bytesOfWord 8)).drop off).take n) t

/-- A plain store of a slot's instruction at a physical address: into the store log of a journaled slot, but for its
own scratchpad and skein-memory share (R420). -/
def State.ownStore (s : State) (i : SlotId) (va : Word) (key : Byte) (pa n : Nat) (w : Word) : State :=
  if s.jnlOf i && !ownLocal i pa then
    let e : LogEntry := { op := .store n, va, pa, key, data := w, pc := (s.slot i).pc }
    s.modSlot i fun x => { x with log := x.log ++ [e] }
  else (s.plainWrite key pa n w).storeL1d i.die i.core pa n w

/-- Stores parts of n bytes at offsets from an operand address one after another, each after its translation. -/
def writeParts (i : SlotId) (va : Word) : List (Nat × Nat × Word) → State → (State → Act) → Act
  | [], s, k => k (s.unhold i.die (.operand i))
  | (off, n, w) :: ps, s, k =>
    let a := va + BitVec.ofNat 64 off
    match s.addressFault i a 0, s.reach i a needW false (s.heldRetries i.die (.operand i)) with
    | some f, _ => f
    | none, .notReady | none, .unready _ _ _ => .wait
    | none, .fault cause sub addr => operandFault s i needW cause sub addr
    | none, .ok pa key s =>
      if s.mustWait i (.store .d) a pa then .wait else writeParts i va ps (s.ownStore i a key pa n w) k

/-- An instruction that stores parts at an address: all of them, or none; JNLFULL when they do not fit the log of a
journaled slot (R420). -/
def State.storeParts (t : State) (va : Word) (ps : List (Nat × Nat × Word)) (k : State → Act) : Act :=
  let x := t.slot t.cur
  if t.journaled && logBytes < x.logUsed + 16 * ps.length then
    .trap 0x46 0 (BitVec.ofNat 64 (16 * ps.length)) (BitVec.ofNat 64 (logBytes - x.logUsed))
  else writeParts t.cur va ps t k

/-- An instruction that stores doubles at an address aligned to 2^log2 bytes. -/
def State.storeRecord (t : State) (va : Word) (log2 : Nat) (ws : List Word) (k : State → Act) : Act :=
  match t.addressFault t.cur va log2 with
  | some a => a
  | none => t.storeParts va (ws.zipIdx.map fun p => (8 * p.2, 8, p.1)) k

/-! Starting an access -/

/-- Whether a slot waits at the instruction of an access until it is performed or parked (log entry 9). -/
def parks (o : MemOp) : Bool :=
  match o with
  | .fe .lde | .fe .take | .fe .put | .fe .waitf | .waitPhase | .arriveWait => true
  | _ => false

/-- Puts an access on its way. -/
def State.putAccess (t : State) (a : Access) : State := { t with accs := t.accs ++ [a], nextId := t.nextId + 1 }

/-- The slot starts an access: it goes on behind its instruction, or waits for one that may park. -/
def State.startAccess (t : State) (a : Access) : State :=
  let t := t.putAccess a
  if parks a.op then t.enter t.cur .waitData (.access a.id) else t.advance

/-- Issue of an instruction that a journaled slot may not issue: JNLOP (R420). -/
def State.issueOpen (s : State) (srcs dsts : List Reg) (k : List Word → State → Act) : Result :=
  if s.journaled then s.perform (.trap 0x45 0 0 0) else s.issue srcs dsts k

/-- Issue of an instruction whose result stays outstanding: a fifth waits (R202). -/
def State.issueResult (s : State) (srcs dsts : List Reg) (k : List Word → State → Act) : Result :=
  if 4 ≤ s.outstanding s.cur then s.perform .wait else s.issue srcs dsts k

/-- The accesses of a list that stand before an access and that a relation ties to it. -/
def earlier (p : Access → Bool) (a : Access) : List Access → List Access
  | [] => []
  | e :: es => if e.id == a.id then [] else if p e then e :: earlier p a es else earlier p a es

/-- Whether an access is an update-unit operation. -/
def isUpd (o : MemOp) : Bool :=
  match o with
  | .upd _ _ => true
  | _ => false

/-- Whether two accesses come from one graph node, whatever their contexts. -/
def sameNode (a b : Access) : Bool :=
  match a.agent, b.agent with
  | .node d h n _, .node d' h' n' _ => d == d' && h == h' && n == n'
  | _, _ => false

/-- Whether an earlier access of a node holds back a later one (R156, R157): the operations of an update-unit node follow
one another under arrival-restored order, and only those to one double under reordered order; another node's follow
one another in each context. -/
def State.nodeFollows (s : State) (d : Die) (h : ShedNo) (e a : Access) : Bool :=
  if isUpd a.op then sameNode e a && (!(s.shed d h).updReordered || sameDouble e a) else e.agent == a.agent

/-- Whether an access may be performed at its home now. -/
def State.mayPerform (s : State) (a : Access) : Bool :=
  match a.agent with
  | .slot i inc =>
    (earlier (·.agent == a.agent) a s.accs).all (fun e => !holdsBack e a)
      && !((s.slot i).inc == inc && s.vecMem i a.id) && !s.sealedBefore i inc a
  | .node d h _ _ => (earlier (s.nodeFollows d h · a) a s.accs).all fun e => !e.open

end Sys2Proof.Machine
end

