-- ==== Sys2Proof/WellFormed.lean ====
section
/-!
DEFINITION. Which instructions have a word: the register classes of R186, and the values that the opcode map and the
instructions' own rules leave unassigned (06 R186 to R192; 07 R209, R212, R217, R220, R225, R230; 09 Tables 9-2 to
9-22). An event has no word, and every event is well formed.
-/

namespace Sys2Proof

/-- A register that may stand in rd: g0 to g31, n0 to n7, mw0 to mw5 (R186). -/
def rdOk (r : Reg) : Bool := r < 40 || (48 ≤ r && r < 54)

/-- A register that may be read: numbers 0 to 57 (R186). -/
def rsOk (r : Reg) : Bool := r < 58

/-- g0 to g31. -/
def isGeneral (r : Reg) : Bool := r < 32

/-- The formats of thread form: FMT3 other than the PE's twill format (R213). -/
def fmtOk (f : Fmt3) : Bool := f != .tw

/-- The formats of RMAX: FP64, FP32, FP16 and BF16 (R239). -/
def rmaxFmtOk (f : Fmt3) : Bool :=
  match f with
  | .f64 | .f32 | .f16 | .bf16 => true
  | .e4m3 | .e5m2 | .tw => false

/-- The formats of an SFU instruction (R220). -/
def sfuFmtOk (f : Fmt3) : Bool := f == .f32 || f == .f16 || f == .bf16

/-- Scopes of SOLICIT and WIDEN: k, d or p. -/
def domainOk (x : Scope) : Bool := x == .k || x == .d || x == .p

/-- Scopes of barrier instructions: c to p (R290). -/
def barrierScopeOk (x : Scope) : Bool := x == .c || x == .k || x == .d || x == .p

/-- Scopes of SEND: s to p (R279). -/
def sendScopeOk (x : Scope) : Bool := x != .h

/-- The two targets of a graph-form word: no first target means no second (R177). -/
def targetsOk (t u : Target) : Bool := t != .none || u == .none

/-- The element-wise operations of graph form: the two formats of FCVT differ (R217) and the SFU takes three formats
(R220). -/
def ElemOp.wf : ElemOp → Bool
  | .alu _ | .mul _ | .bits _ => true
  | .fp _ _ | .fma _ _ | .cmp _ _ | .fclass _ | .icvtTo _ _ | .icvtFrom _ => true
  | .fcvt dst src => dst != src
  | .sfu _ f => sfuFmtOk f

/-- Whether the instruction has a word in the form it belongs to (R186, R192), or is an event. -/
def Instr.wf : Instr → Bool
  | .add _ d a b | .sub _ d a b | .and _ d a b | .or _ d a b | .xor _ d a b | .andn _ d a b | .orn _ d a b
  | .xnor _ d a b | .shl _ d a b | .shr _ d a b | .sra _ d a b | .rol _ d a b | .ror _ d a b | .slt _ d a b
  | .sltu _ d a b | .min _ d a b | .max _ d a b | .minu _ d a b | .maxu _ d a b
  | .mul _ d a b | .div _ d a b | .divu _ d a b | .rem _ d a b | .remu _ d a b
  | .mulh d a b | .mulhu d a b | .mulhsu d a b
  | .addx _ d a b | .subx _ d a b | .mulx _ d a b => rdOk d && rsOk a && rsOk b
  | .clz _ d a | .ctz _ d a | .popc _ d a | .brev _ d a | .bswap _ d a
  | .sextb d a | .sexth d a | .sextw d a | .zextw d a => rdOk d && rsOk a
  | .addi d a _ | .andi d a _ | .ori d a _ | .xori d a _ | .slti d a _ | .sltiu d a _ => rdOk d && rsOk a
  | .shli w d a n | .shri w d a n | .srai w d a n | .roli w d a n | .rori w d a n =>
    rdOk d && rsOk a && (!w || n < 32)
  | .lui d _ | .auipc d _ => rdOk d
  | .cselNz d a b c | .cselZ d a b c => rdOk d && rsOk a && rsOk b && isGeneral c
  | .fadd f d a b | .fsub f d a b | .fmul f d a b | .fdiv f d a b | .fmin f d a b | .fmax f d a b
  | .fma f d a b | .fms f d a b | .fnma f d a b | .fnms f d a b
  | .feq f d a b | .flt f d a b | .fle f d a b | .funord f d a b => fmtOk f && rdOk d && rsOk a && rsOk b
  | .fsqrt f d a | .fclass f d a | .icvtToInt _ f d a | .icvtFromInt f d a => fmtOk f && rdOk d && rsOk a
  | .fcvt f g d a => fmtOk f && fmtOk g && f != g && rdOk d && rsOk a
  | .exp2 f d a | .log2 f d a | .rcp f d a | .rsq f d a | .sin f d a | .cos f d a | .tanh f d a =>
    sfuFmtOk f && rdOk d && rsOk a
  | .ldB d a _ | .ldH d a _ | .ldW d a _ | .ldD d a _ | .ldBu d a _ | .ldHu d a _ | .ldWu d a _ => rdOk d && rsOk a
  | .stB b a _ | .stH b a _ | .stW b a _ | .stD b a _ => rsOk a && rsOk b
  | .lde _ d a | .take _ d a => rdOk d && rsOk a
  | .put _ b a | .fill _ b a => rsOk a && rsOk b
  | .purge a | .waitf _ a => rsOk a
  | .festat d a => rdOk d && rsOk a
  | .trytake _ d b a => rdOk d && rsOk a && isGeneral b && (d != b || d == 0)
  | .amoSwap _ d b a | .amoAdd _ d b a | .amoAnd _ d b a | .amoOr _ d b a | .amoXor _ d b a | .amoMin _ d b a
  | .amoMax _ d b a | .amoMaxu _ d b a => rdOk d && rsOk a && rsOk b
  | .amoSwapScoped _ _ d b a | .amoAddScoped _ _ d b a | .amoAndScoped _ _ d b a | .amoOrScoped _ _ d b a
  | .amoXorScoped _ _ d b a | .amoMinScoped _ _ d b a | .amoMaxScoped _ _ d b a | .amoMaxuScoped _ _ d b a
  | .cas _ _ d b a => rdOk d && rsOk a && rsOk b
  | .fenceFull _ | .fenceAcq _ | .fenceRel _ | .fenceIfence _ => true
  | .fenceSyncwin _ a b => rsOk a && rsOk b
  | .ill => true
  | .beq a b _ | .bne a b _ | .blt a b _ | .bge a b _ | .bltu a b _ | .bgeu a b _ => rsOk a && rsOk b
  | .jal d _ => rdOk d
  | .jalr d a _ => rdOk d && rsOk a
  | .bnzd a _ => isGeneral a && a != 0
  | .send x a b l | .sendm x a b l => sendScopeOk x && rsOk a && rsOk b && l < 6
  | .recv d a | .tryrecv d a | .peek d a => rdOk d && rsOk a
  | .waitmsg d => rdOk d
  | .spawn d a b | .fork d a b => rdOk d && rsOk a && rsOk b
  | .join | .exit | .yield => true
  | .self d => rdOk d
  | .joinwait d a => rdOk d && rsOk a
  | .arriveRlx d a => rdOk d && rsOk a
  | .arriveRel x d a | .arrwait x d a => barrierScopeOk x && rdOk d && rsOk a
  | .waitph x a b => barrierScopeOk x && rsOk a && rsOk b
  | .solicit x _ d a b => domainOk x && rdOk d && rsOk a && rsOk b
  | .cwait d a | .cpoll d a | .cresult d a => rdOk d && rsOk a
  | .diradd d a b | .dirmove d a b => rdOk d && rsOk a && rsOk b
  | .dirdel d a | .dirfind d a => rdOk d && rsOk a
  | .trset a | .trclr a => rsOk a
  | .tren a b => rsOk a && rsOk b
  | .mxld _ a => rsOk a
  | .mxmul _ d a b => rdOk d && rsOk a && rsOk b
  | .reply a => rsOk a
  | .lease _ _ d a b => rdOk d && rsOk a && rsOk b
  | .release a | .sgo a | .sbar a | .drain a | .ckpt a | .resume a | .vcfg a | .cpdisarm a => rsOk a
  | .loadcfg a b | .loadcfgForce a b | .sbind a b | .trig a b | .tq a b | .vseq a b | .vlds a b | .vsts a b
  | .cparm a b | .hqpush a b => rsOk a && rsOk b
  | .vrun d a b => rdOk d && rsOk a && rsOk b
  | .vredSum f d a | .vredMin f d a | .vredMax f d a => fmtOk f && rdOk d && rsOk a
  | .baddq _ d a b | .qtw _ d a b | .dqtw _ d a b => rdOk d && rsOk a && rsOk b
  | .sysr d _ => rdOk d
  | .sysw _ a => rsOk a
  | .trap a | .eret a | .wfi a => rsOk a
  | .spill a b => rsOk a && rsOk b
  | .fillslot d a => rdOk d && rsOk a
  | .slotregR d a b | .slotregW d a b => rdOk d && rsOk a && rsOk b
  | .tlbinv | .halt => true
  | .tlbinvAsid a => rsOk a
  | .tlbinvPage a b => rsOk a && rsOk b
  | .draftget d a b => rdOk d && rsOk a && rsOk b
  | .draftpin d => rdOk d
  | .draftunpin a | .heddleSw a => rsOk a
  | .heddleRep d a b | .heddleRet d a b | .heddlePub d a b | .route d a b | .routeEsc d a b =>
    rdOk d && rsOk a && rsOk b
  | .heddleRd d a => rdOk d && rsOk a
  | .steerT t u | .steerF t u | .mergeP t u | .mergeA t u | .carry _ t u | .inv t u | .const _ t u | .constC _ t u
  | .gate t u | .rowctlStrip t u | .rowctlSplit t u | .rowctlEor t u | .rowctlEog t u | .rowctlEos t u
  | .mma _ _ _ t u | .bload _ _ t u | .accRd _ t u | .accRdclr _ t u | .accClr _ t u
  | .escOrd _ t u | .escUnord _ t u | .delay _ t u | .frame _ t u | .unframe _ t u | .upd _ t u
  | .cntD t u | .cntR t u | .lredSum _ t u | .lredMax _ t u | .lredMin _ t u | .scale t u | .explk _ t u
  | .graphLoadNode _ t u | .graphStoreNode _ t u => targetsOk t u
  | .rmax _ f t u => rmaxFmtOk f && targetsOk t u
  | .widen x t u => domainOk x && targetsOk t u
  | .race n t u => n != 0 && targetsOk t u
  | .elementwiseNode o t u => o.wf && targetsOk t u
  | .graphFeNode x o t u => (match o with | .purge | .festat => x == .s | _ => true) && targetsOk t u
  | _ => true

/-- Whether an opcode stands in the M column of Table 6-12: microcode blocks hold only these (R182). -/
def opInMicro (op : Nat) : Bool :=
  (0x01 ≤ op && op ≤ 0x0e) || (0x20 ≤ op && op ≤ 0x2f) || (0x30 ≤ op && op ≤ 0x38) || op == 0x3a || op == 0x5a
    || op == 0x5c || op == 0x62 || op == 0x66

end Sys2Proof
end

