-- ==== Sys2Proof/Decode.lean ====
section
/-!
DEFINITION. Decoding, total on any bytes, and after it the encoder: the words of 06 R174 to R193 and the block headers
of R178. A word is read in the form of the block that holds it.
-/

namespace Sys2Proof

/-- The fields of a thread-form word, most significant first (Table 6-1). -/
structure Fields where
  op : BitVec 7
  b : BitVec 6
  s : BitVec 1
  d : BitVec 6
  f : BitVec 3
  a : BitVec 6
  g : BitVec 3
  deriving DecidableEq, Repr

/-- The fields of a graph-form word (Table 6-2). -/
structure GFields where
  op : BitVec 7
  flag : BitVec 1
  x : BitVec 6
  ta : BitVec 9
  tb : BitVec 9
  deriving DecidableEq, Repr

/-- The fields of a word read as thread form. -/
def threadForm (w : Inst) : Fields :=
  ⟨w.extractLsb' 25 7, w.extractLsb' 19 6, w.extractLsb' 18 1, w.extractLsb' 12 6, w.extractLsb' 9 3,
    w.extractLsb' 3 6, w.extractLsb' 0 3⟩

/-- The fields of a word read as graph form. -/
def graphForm (w : Inst) : GFields :=
  ⟨w.extractLsb' 25 7, w.extractLsb' 24 1, w.extractLsb' 18 6, w.extractLsb' 9 9, w.extractLsb' 0 9⟩

/-- imm13 of the immediate layout (R174). -/
def Fields.imm13 (x : Fields) : BitVec 13 := x.b ++ x.s ++ x.f ++ x.g

/-- imm13 of the store/branch layout (R174). -/
def Fields.immS (x : Fields) : BitVec 13 := x.s ++ x.d ++ x.f ++ x.g

/-- imm19 of the long layout (R174). -/
def Fields.imm19 (x : Fields) : BitVec 19 := x.b ++ x.s ++ x.f ++ x.a ++ x.g

/-- The bit s read as the choice of 32-bit operation (R201). -/
def Fields.wide (x : Fields) : Bool := x.s.getLsbD 0

/-- The instruction, when the fields its row requires to be zero are zero (R192). -/
def only (c : Bool) (i : Instr) : Option Instr := if c then some i else none

/-- FMT3 of thread form (Table 6-11). -/
def fmt3 (v : BitVec 3) : Option Fmt3 :=
  match v.toNat with
  | 0 => some .f64 | 1 => some .f32 | 2 => some .f16 | 3 => some .bf16 | 4 => some .e4m3 | 5 => some .e5m2
  | _ => none

/-- FMT3 of graph form, where 0b110 is the PE's twill format (Table 6-11). -/
def graphFmt (v : BitVec 3) : Option Fmt3 :=
  match v.toNat with
  | 6 => some .tw
  | _ => fmt3 v

/-- MF3 (Table 6-11). -/
def mf3 (v : BitVec 3) : Option Mf3 :=
  match v.toNat with
  | 0 => some .int8 | 1 => some .e4m3 | 2 => some .e5m2 | 3 => some .tw8 | 4 => some .tw6 | 5 => some .tw3
  | 6 => some .bf16 | 7 => some .fp16
  | _ => none

/-- TWF (Table 6-11). -/
def twf (v : BitVec 3) : Option Twf :=
  match v.toNat with
  | 0 => some .tw3 | 1 => some .tw6 | 2 => some .tw8
  | _ => none

/-- A scope (Table 5-1). -/
def scope (v : BitVec 3) : Option Scope :=
  match v.toNat with
  | 0 => some .s | 1 => some .c | 2 => some .k | 3 => some .d | 4 => some .p | 5 => some .h
  | _ => none

/-- The combine field of SOLICIT (R292). -/
def combine (v : BitVec 3) : Option Combine :=
  match v.toNat with
  | 0 => some .none | 1 => some .sum | 2 => some .min | 3 => some .max
  | _ => none

/-- The integer destination of ICVT (R219). -/
def intFmt (v : BitVec 2) : IntFmt :=
  match v.toNat with
  | 0 => .i64 | 1 => .i32 | 2 => .i16
  | _ => .i8

/-- g of the amo opcodes (Table 7-12). -/
def amoOf (n : Nat) : AmoOp :=
  match n with
  | 0 => .swap | 1 => .add | 2 => .and | 3 => .or | 4 => .xor | 5 => .min | 6 => .max
  | _ => .maxu

/-- g of OP 0x2B (Table 7-11). -/
def feOf (n : Nat) : FeOp :=
  match n with
  | 0 => .lde | 1 => .take | 2 => .put | 3 => .fill | 4 => .purge | 5 => .festat | 6 => .waitf
  | _ => .trytake

/-- A target field (Table 6-3): none for a reserved value. -/
def target (v : BitVec 9) : Option Target :=
  let s := v.extractLsb' 3 6
  match (v.extractLsb' 0 3).toNat with
  | 0 => some (.node s .l)
  | 1 => some (.node s .r)
  | 2 => some (.node s .p)
  | 3 => some (.node s .s)
  | 4 => some (.node s .o)
  | 6 => if s < 16 then some (.shed (s.extractLsb' 0 4)) else none
  | 7 => if s == 63 then some .none else none
  | _ => none

/-- OP 0x01: ADD, SUB, AND, OR, XOR, ANDN, ORN, XNOR, SHL, SHR, SRA, ROL, ROR, SLT, SLTU, MIN, MAX, MINU, MAXU. -/
def parseOp01 (x : Fields) : Option Instr :=
  match (x.f ++ x.g).toNat with
  | 0x00 => some (.add x.wide x.d x.a x.b)
  | 0x01 => some (.sub x.wide x.d x.a x.b)
  | 0x02 => some (.and x.wide x.d x.a x.b)
  | 0x03 => some (.or x.wide x.d x.a x.b)
  | 0x04 => some (.xor x.wide x.d x.a x.b)
  | 0x05 => some (.andn x.wide x.d x.a x.b)
  | 0x06 => some (.orn x.wide x.d x.a x.b)
  | 0x07 => some (.xnor x.wide x.d x.a x.b)
  | 0x08 => some (.shl x.wide x.d x.a x.b)
  | 0x09 => some (.shr x.wide x.d x.a x.b)
  | 0x0a => some (.sra x.wide x.d x.a x.b)
  | 0x0b => some (.rol x.wide x.d x.a x.b)
  | 0x0c => some (.ror x.wide x.d x.a x.b)
  | 0x0d => some (.slt x.wide x.d x.a x.b)
  | 0x0e => some (.sltu x.wide x.d x.a x.b)
  | 0x0f => some (.min x.wide x.d x.a x.b)
  | 0x10 => some (.max x.wide x.d x.a x.b)
  | 0x11 => some (.minu x.wide x.d x.a x.b)
  | 0x12 => some (.maxu x.wide x.d x.a x.b)
  | _ => none

/-- OP 0x02: MUL, MULH, MULHU, MULHSU, DIV, DIVU, REM, REMU. -/
def parseOp02 (x : Fields) : Option Instr :=
  match x.g.toNat with
  | 0 => only (x.f == 0) (.mul x.wide x.d x.a x.b)
  | 1 => only (x.s == 0 && x.f == 0) (.mulh x.d x.a x.b)
  | 2 => only (x.s == 0 && x.f == 0) (.mulhu x.d x.a x.b)
  | 3 => only (x.s == 0 && x.f == 0) (.mulhsu x.d x.a x.b)
  | 4 => only (x.f == 0) (.div x.wide x.d x.a x.b)
  | 5 => only (x.f == 0) (.divu x.wide x.d x.a x.b)
  | 6 => only (x.f == 0) (.rem x.wide x.d x.a x.b)
  | 7 => only (x.f == 0) (.remu x.wide x.d x.a x.b)
  | _ => none

/-- OP 0x03: CLZ, CTZ, POPC, BREV, BSWAP, SEXTB, SEXTH, SEXTW, ZEXTW. -/
def parseOp03 (x : Fields) : Option Instr :=
  match (x.f ++ x.g).toNat with
  | 0x00 => only (x.b == 0) (.clz x.wide x.d x.a)
  | 0x01 => only (x.b == 0) (.ctz x.wide x.d x.a)
  | 0x02 => only (x.b == 0) (.popc x.wide x.d x.a)
  | 0x03 => only (x.b == 0) (.brev x.wide x.d x.a)
  | 0x04 => only (x.b == 0) (.bswap x.wide x.d x.a)
  | 0x05 => only (x.b == 0 && x.s == 0) (.sextb x.d x.a)
  | 0x06 => only (x.b == 0 && x.s == 0) (.sexth x.d x.a)
  | 0x07 => only (x.b == 0 && x.s == 0) (.sextw x.d x.a)
  | 0x08 => only (x.b == 0 && x.s == 0) (.zextw x.d x.a)
  | _ => none

/-- OP 0x04: ADDI. -/
def parseOp04 (x : Fields) : Option Instr :=
  some (.addi x.d x.a x.imm13)

/-- OP 0x05: ANDI. -/
def parseOp05 (x : Fields) : Option Instr :=
  some (.andi x.d x.a x.imm13)

/-- OP 0x06: ORI. -/
def parseOp06 (x : Fields) : Option Instr :=
  some (.ori x.d x.a x.imm13)

/-- OP 0x07: XORI. -/
def parseOp07 (x : Fields) : Option Instr :=
  some (.xori x.d x.a x.imm13)

/-- OP 0x08: SHLI, SHRI, SRAI, ROLI, RORI. -/
def parseOp08 (x : Fields) : Option Instr :=
  let w := x.b.getLsbD 2
  let n := x.f ++ x.g
  match (x.b.extractLsb' 0 2 ++ x.s).toNat with
  | 0 => only (x.b.extractLsb' 3 3 == 0) (.shli w x.d x.a n)
  | 1 => only (x.b.extractLsb' 3 3 == 0) (.shri w x.d x.a n)
  | 2 => only (x.b.extractLsb' 3 3 == 0) (.srai w x.d x.a n)
  | 3 => only (x.b.extractLsb' 3 3 == 0) (.roli w x.d x.a n)
  | 4 => only (x.b.extractLsb' 3 3 == 0) (.rori w x.d x.a n)
  | _ => none

/-- OP 0x09: SLTI. -/
def parseOp09 (x : Fields) : Option Instr :=
  some (.slti x.d x.a x.imm13)

/-- OP 0x0A: SLTIU. -/
def parseOp0a (x : Fields) : Option Instr :=
  some (.sltiu x.d x.a x.imm13)

/-- OP 0x0B: LUI. -/
def parseOp0b (x : Fields) : Option Instr :=
  some (.lui x.d x.imm19)

/-- OP 0x0C: AUIPC. -/
def parseOp0c (x : Fields) : Option Instr :=
  some (.auipc x.d x.imm19)

/-- OP 0x0D: ADDX, SUBX, MULX. -/
def parseOp0d (x : Fields) : Option Instr :=
  match x.g.toNat with
  | 0 => only (x.f == 0) (.addx x.wide x.d x.a x.b)
  | 1 => only (x.f == 0) (.subx x.wide x.d x.a x.b)
  | 2 => only (x.f == 0) (.mulx x.wide x.d x.a x.b)
  | _ => none

/-- OP 0x0E: CSEL_NZ, CSEL_Z. -/
def parseOp0e (x : Fields) : Option Instr :=
  if x.wide then some (.cselZ x.d x.a x.b (x.f ++ x.g)) else some (.cselNz x.d x.a x.b (x.f ++ x.g))

/-- OP 0x10: FADD, FSUB, FMUL, FDIV, FMIN, FMAX, FSQRT. -/
def parseOp10 (x : Fields) : Option Instr :=
  match fmt3 x.f with
  | none => none
  | some f =>
    match x.g.toNat with
    | 0 => only (x.s == 0) (.fadd f x.d x.a x.b)
    | 1 => only (x.s == 0) (.fsub f x.d x.a x.b)
    | 2 => only (x.s == 0) (.fmul f x.d x.a x.b)
    | 3 => only (x.s == 0) (.fdiv f x.d x.a x.b)
    | 4 => only (x.s == 0) (.fmin f x.d x.a x.b)
    | 5 => only (x.s == 0) (.fmax f x.d x.a x.b)
    | 6 => only (x.b == 0 && x.s == 0) (.fsqrt f x.d x.a)
    | _ => none

/-- OP 0x11: FMA, FMS, FNMA, FNMS. -/
def parseOp11 (x : Fields) : Option Instr :=
  match fmt3 x.f with
  | none => none
  | some f =>
    match x.g.toNat with
    | 0 => only (x.s == 0) (.fma f x.d x.a x.b)
    | 1 => only (x.s == 0) (.fms f x.d x.a x.b)
    | 2 => only (x.s == 0) (.fnma f x.d x.a x.b)
    | 3 => only (x.s == 0) (.fnms f x.d x.a x.b)
    | _ => none

/-- OP 0x12: FEQ, FLT, FLE, FUNORD. -/
def parseOp12 (x : Fields) : Option Instr :=
  match fmt3 x.f with
  | none => none
  | some f =>
    match x.g.toNat with
    | 0 => only (x.s == 0) (.feq f x.d x.a x.b)
    | 1 => only (x.s == 0) (.flt f x.d x.a x.b)
    | 2 => only (x.s == 0) (.fle f x.d x.a x.b)
    | 3 => only (x.s == 0) (.funord f x.d x.a x.b)
    | _ => none

/-- OP 0x13: FCVT. -/
def parseOp13 (x : Fields) : Option Instr :=
  match fmt3 x.f, fmt3 x.g with
  | some f, some g => only (x.s == 0 && x.b == 0) (.fcvt f g x.d x.a)
  | _, _ => none

/-- OP 0x14: FCLASS. -/
def parseOp14 (x : Fields) : Option Instr :=
  match fmt3 x.f with
  | none => none
  | some f =>
    only (x.b == 0 && x.s == 0 && x.g == 0) (.fclass f x.d x.a)

/-- OP 0x15: ICVT_TO_INT, ICVT_FROM_INT. -/
def parseOp15 (x : Fields) : Option Instr :=
  match fmt3 x.f with
  | none => none
  | some f =>
    if x.g == 4 then only (x.s == 0 && x.b == 0) (.icvtFromInt f x.d x.a)
    else if x.g.getLsbD 2 then none
    else only (x.s == 0 && x.b == 0) (.icvtToInt (intFmt (x.g.extractLsb' 0 2)) f x.d x.a)

/-- OP 0x16: EXP2, LOG2, RCP, RSQ, SIN, COS, TANH. -/
def parseOp16 (x : Fields) : Option Instr :=
  match fmt3 x.f with
  | none => none
  | some f =>
    match x.g.toNat with
    | 0 => only (x.b == 0 && x.s == 0) (.exp2 f x.d x.a)
    | 1 => only (x.b == 0 && x.s == 0) (.log2 f x.d x.a)
    | 2 => only (x.b == 0 && x.s == 0) (.rcp f x.d x.a)
    | 3 => only (x.b == 0 && x.s == 0) (.rsq f x.d x.a)
    | 4 => only (x.b == 0 && x.s == 0) (.sin f x.d x.a)
    | 5 => only (x.b == 0 && x.s == 0) (.cos f x.d x.a)
    | 6 => only (x.b == 0 && x.s == 0) (.tanh f x.d x.a)
    | _ => none

/-- OP 0x20: LD_B. -/
def parseOp20 (x : Fields) : Option Instr :=
  some (.ldB x.d x.a x.imm13)

/-- OP 0x21: LD_H. -/
def parseOp21 (x : Fields) : Option Instr :=
  some (.ldH x.d x.a x.imm13)

/-- OP 0x22: LD_W. -/
def parseOp22 (x : Fields) : Option Instr :=
  some (.ldW x.d x.a x.imm13)

/-- OP 0x23: LD_D. -/
def parseOp23 (x : Fields) : Option Instr :=
  some (.ldD x.d x.a x.imm13)

/-- OP 0x24: LD_BU. -/
def parseOp24 (x : Fields) : Option Instr :=
  some (.ldBu x.d x.a x.imm13)

/-- OP 0x25: LD_HU. -/
def parseOp25 (x : Fields) : Option Instr :=
  some (.ldHu x.d x.a x.imm13)

/-- OP 0x26: LD_WU. -/
def parseOp26 (x : Fields) : Option Instr :=
  some (.ldWu x.d x.a x.imm13)

/-- OP 0x27: ST_B. -/
def parseOp27 (x : Fields) : Option Instr :=
  some (.stB x.b x.a x.immS)

/-- OP 0x28: ST_H. -/
def parseOp28 (x : Fields) : Option Instr :=
  some (.stH x.b x.a x.immS)

/-- OP 0x29: ST_W. -/
def parseOp29 (x : Fields) : Option Instr :=
  some (.stW x.b x.a x.immS)

/-- OP 0x2A: ST_D. -/
def parseOp2a (x : Fields) : Option Instr :=
  some (.stD x.b x.a x.immS)

/-- OP 0x2B: LDE, TAKE, PUT, FILL, PURGE, FESTAT, WAITF, TRYTAKE. -/
def parseOp2b (x : Fields) : Option Instr :=
  match scope x.f with
  | none => none
  | some sc =>
    match x.g.toNat with
    | 0 => only (x.b == 0 && x.s == 0) (.lde sc x.d x.a)
    | 1 => only (x.b == 0 && x.s == 0) (.take sc x.d x.a)
    | 2 => only (x.s == 0 && x.d == 0) (.put sc x.b x.a)
    | 3 => only (x.s == 0 && x.d == 0) (.fill sc x.b x.a)
    | 4 => only (x.b == 0 && x.s == 0 && x.d == 0 && x.f == 0) (.purge x.a)
    | 5 => only (x.b == 0 && x.s == 0 && x.f == 0) (.festat x.d x.a)
    | 6 => only (x.b == 0 && x.s == 0 && x.d == 0) (.waitf sc x.a)
    | 7 => only (x.s == 0) (.trytake sc x.d x.b x.a)
    | _ => none

/-- OP 0x2C: AMO_SWAP, AMO_ADD, AMO_AND, AMO_OR, AMO_XOR, AMO_MIN, AMO_MAX, AMO_MAXU. -/
def parseOp2c (x : Fields) : Option Instr :=
  match x.g.toNat with
  | 0 => only (x.f == 0) (.amoSwap x.wide x.d x.b x.a)
  | 1 => only (x.f == 0) (.amoAdd x.wide x.d x.b x.a)
  | 2 => only (x.f == 0) (.amoAnd x.wide x.d x.b x.a)
  | 3 => only (x.f == 0) (.amoOr x.wide x.d x.b x.a)
  | 4 => only (x.f == 0) (.amoXor x.wide x.d x.b x.a)
  | 5 => only (x.f == 0) (.amoMin x.wide x.d x.b x.a)
  | 6 => only (x.f == 0) (.amoMax x.wide x.d x.b x.a)
  | 7 => only (x.f == 0) (.amoMaxu x.wide x.d x.b x.a)
  | _ => none

/-- OP 0x2D: AMO_SWAP_SCOPED, AMO_ADD_SCOPED, AMO_AND_SCOPED, AMO_OR_SCOPED, AMO_XOR_SCOPED, AMO_MIN_SCOPED, AMO_MAX_SCOPED, AMO_MAXU_SCOPED. -/
def parseOp2d (x : Fields) : Option Instr :=
  match scope x.f with
  | none => none
  | some sc =>
    match x.g.toNat with
    | 0 => some (.amoSwapScoped x.wide sc x.d x.b x.a)
    | 1 => some (.amoAddScoped x.wide sc x.d x.b x.a)
    | 2 => some (.amoAndScoped x.wide sc x.d x.b x.a)
    | 3 => some (.amoOrScoped x.wide sc x.d x.b x.a)
    | 4 => some (.amoXorScoped x.wide sc x.d x.b x.a)
    | 5 => some (.amoMinScoped x.wide sc x.d x.b x.a)
    | 6 => some (.amoMaxScoped x.wide sc x.d x.b x.a)
    | 7 => some (.amoMaxuScoped x.wide sc x.d x.b x.a)
    | _ => none

/-- OP 0x2E: CAS. -/
def parseOp2e (x : Fields) : Option Instr :=
  match scope x.f with
  | none => none
  | some sc =>
    only (x.g == 0) (.cas x.wide sc x.d x.b x.a)

/-- OP 0x2F: FENCE_FULL, FENCE_ACQ, FENCE_REL, FENCE_SYNCWIN, FENCE_IFENCE. -/
def parseOp2f (x : Fields) : Option Instr :=
  match scope x.f with
  | none => none
  | some sc =>
    match x.g.toNat with
    | 0 => only (x.b == 0 && x.s == 0 && x.d == 0 && x.a == 0) (.fenceFull sc)
    | 1 => only (x.b == 0 && x.s == 0 && x.d == 0 && x.a == 0) (.fenceAcq sc)
    | 2 => only (x.b == 0 && x.s == 0 && x.d == 0 && x.a == 0) (.fenceRel sc)
    | 3 => only (x.s == 0 && x.d == 0) (.fenceSyncwin sc x.a x.b)
    | 4 => only (x.b == 0 && x.s == 0 && x.d == 0 && x.a == 0) (.fenceIfence sc)
    | _ => none

/-- OP 0x00: ILL. -/
def parseOp00 (x : Fields) : Option Instr :=
  only (x.b == 0 && x.s == 0 && x.d == 0 && x.f == 0 && x.a == 0 && x.g == 0) (.ill)

/-- OP 0x30: BEQ. -/
def parseOp30 (x : Fields) : Option Instr :=
  some (.beq x.a x.b x.immS)

/-- OP 0x31: BNE. -/
def parseOp31 (x : Fields) : Option Instr :=
  some (.bne x.a x.b x.immS)

/-- OP 0x32: BLT. -/
def parseOp32 (x : Fields) : Option Instr :=
  some (.blt x.a x.b x.immS)

/-- OP 0x33: BGE. -/
def parseOp33 (x : Fields) : Option Instr :=
  some (.bge x.a x.b x.immS)

/-- OP 0x34: BLTU. -/
def parseOp34 (x : Fields) : Option Instr :=
  some (.bltu x.a x.b x.immS)

/-- OP 0x35: BGEU. -/
def parseOp35 (x : Fields) : Option Instr :=
  some (.bgeu x.a x.b x.immS)

/-- OP 0x36: JAL. -/
def parseOp36 (x : Fields) : Option Instr :=
  some (.jal x.d x.imm19)

/-- OP 0x37: JALR. -/
def parseOp37 (x : Fields) : Option Instr :=
  some (.jalr x.d x.a x.imm13)

/-- OP 0x38: BNZD. -/
def parseOp38 (x : Fields) : Option Instr :=
  only (x.b == 0) (.bnzd x.a x.immS)

/-- OP 0x3A: SEND. -/
def parseOp3a (x : Fields) : Option Instr :=
  match scope x.f with
  | none => none
  | some sc =>
    only (x.s == 0 && x.d == 0) (.send sc x.a x.b x.g)

/-- OP 0x3B: SENDM. -/
def parseOp3b (x : Fields) : Option Instr :=
  match scope x.f with
  | none => none
  | some sc =>
    only (x.s == 0 && x.d == 0) (.sendm sc x.a x.b x.g)

/-- OP 0x3C: RECV, TRYRECV, PEEK, WAITMSG. -/
def parseOp3c (x : Fields) : Option Instr :=
  match x.g.toNat with
  | 0 => only (x.b == 0 && x.s == 0 && x.f == 0) (.recv x.d x.a)
  | 1 => only (x.b == 0 && x.s == 0 && x.f == 0) (.tryrecv x.d x.a)
  | 2 => only (x.b == 0 && x.s == 0 && x.f == 0) (.peek x.d x.a)
  | 3 => only (x.b == 0 && x.s == 0 && x.f == 0 && x.a == 0) (.waitmsg x.d)
  | _ => none

/-- OP 0x3E: SPAWN. -/
def parseOp3e (x : Fields) : Option Instr :=
  only (x.s == 0 && x.f == 0 && x.g == 0) (.spawn x.d x.a x.b)

/-- OP 0x3F: FORK, JOIN, EXIT, YIELD, SELF, JOINWAIT. -/
def parseOp3f (x : Fields) : Option Instr :=
  match x.g.toNat with
  | 0 => only (x.s == 0 && x.f == 0) (.fork x.d x.a x.b)
  | 1 => only (x.b == 0 && x.s == 0 && x.d == 0 && x.f == 0 && x.a == 0) (.join)
  | 2 => only (x.b == 0 && x.s == 0 && x.d == 0 && x.f == 0 && x.a == 0) (.exit)
  | 3 => only (x.b == 0 && x.s == 0 && x.d == 0 && x.f == 0 && x.a == 0) (.yield)
  | 4 => only (x.b == 0 && x.s == 0 && x.f == 0 && x.a == 0) (.self x.d)
  | 5 => only (x.b == 0 && x.s == 0 && x.f == 0) (.joinwait x.d x.a)
  | _ => none

/-- OP 0x40: ARRIVE_RLX, ARRIVE_REL, WAITPH, ARRWAIT. -/
def parseOp40 (x : Fields) : Option Instr :=
  match scope x.f with
  | none => none
  | some sc =>
    match x.g.toNat with
    | 0 => only (x.b == 0 && x.s == 0 && x.f == 0) (.arriveRlx x.d x.a)
    | 1 => only (x.b == 0 && x.s == 0) (.arriveRel sc x.d x.a)
    | 2 => only (x.s == 0 && x.d == 0) (.waitph sc x.a x.b)
    | 3 => only (x.b == 0 && x.s == 0) (.arrwait sc x.d x.a)
    | _ => none

/-- OP 0x41: SOLICIT. -/
def parseOp41 (x : Fields) : Option Instr :=
  match scope x.f, combine x.g with
  | some sc, some cm => only (x.s == 0) (.solicit sc cm x.d x.a x.b)
  | _, _ => none

/-- OP 0x42: CWAIT, CPOLL, CRESULT. -/
def parseOp42 (x : Fields) : Option Instr :=
  match x.g.toNat with
  | 0 => only (x.b == 0 && x.s == 0 && x.f == 0) (.cwait x.d x.a)
  | 1 => only (x.b == 0 && x.s == 0 && x.f == 0) (.cpoll x.d x.a)
  | 2 => only (x.b == 0 && x.s == 0 && x.f == 0) (.cresult x.d x.a)
  | _ => none

/-- OP 0x43: DIRADD, DIRDEL, DIRMOVE, DIRFIND. -/
def parseOp43 (x : Fields) : Option Instr :=
  match x.g.toNat with
  | 0 => only (x.s == 0 && x.f == 0) (.diradd x.d x.a x.b)
  | 1 => only (x.b == 0 && x.s == 0 && x.f == 0) (.dirdel x.d x.a)
  | 2 => only (x.s == 0 && x.f == 0) (.dirmove x.d x.a x.b)
  | 3 => only (x.b == 0 && x.s == 0 && x.f == 0) (.dirfind x.d x.a)
  | _ => none

/-- OP 0x44: TRSET, TRCLR, TREN. -/
def parseOp44 (x : Fields) : Option Instr :=
  match x.g.toNat with
  | 0 => only (x.b == 0 && x.s == 0 && x.d == 0 && x.f == 0) (.trset x.a)
  | 1 => only (x.b == 0 && x.s == 0 && x.d == 0 && x.f == 0) (.trclr x.a)
  | 2 => only (x.s == 0 && x.d == 0 && x.f == 0) (.tren x.a x.b)
  | _ => none

/-- OP 0x46: MXLD, MXMUL. -/
def parseOp46 (x : Fields) : Option Instr :=
  match mf3 x.f with
  | none => none
  | some mf =>
    match x.g.toNat with
    | 0 => only (x.b == 0 && x.s == 0 && x.d == 0) (.mxld mf x.a)
    | 1 => only (x.s == 0) (.mxmul mf x.d x.a x.b)
    | _ => none

/-- OP 0x47: REPLY. -/
def parseOp47 (x : Fields) : Option Instr :=
  only (x.b == 0 && x.s == 0 && x.d == 0 && x.f == 0 && x.g == 0) (.reply x.a)

/-- OP 0x48: LEASE, RELEASE. -/
def parseOp48 (x : Fields) : Option Instr :=
  match x.g.toNat with
  | 0 => only (x.s == 0) (.lease (x.f.getLsbD 2) (x.f.extractLsb' 0 2) x.d x.a x.b)
  | 1 => only (x.s == 0 && x.f == 0 && x.d == 0 && x.b == 0) (.release x.a)
  | _ => none

/-- OP 0x49: LOADCFG, LOADCFG_FORCE. -/
def parseOp49 (x : Fields) : Option Instr :=
  match x.g.toNat with
  | 0 => only (x.s == 0 && x.d == 0 && x.f == 0) (.loadcfg x.a x.b)
  | 1 => only (x.s == 0 && x.d == 0 && x.f == 0) (.loadcfgForce x.a x.b)
  | _ => none

/-- OP 0x4A: SBIND. -/
def parseOp4a (x : Fields) : Option Instr :=
  only (x.s == 0 && x.d == 0 && x.f == 0 && x.g == 0) (.sbind x.a x.b)

/-- OP 0x4B: SGO. -/
def parseOp4b (x : Fields) : Option Instr :=
  only (x.b == 0 && x.s == 0 && x.d == 0 && x.f == 0 && x.g == 0) (.sgo x.a)

/-- OP 0x4C: SBAR. -/
def parseOp4c (x : Fields) : Option Instr :=
  only (x.b == 0 && x.s == 0 && x.d == 0 && x.f == 0 && x.g == 0) (.sbar x.a)

/-- OP 0x4D: DRAIN, CKPT, RESUME. -/
def parseOp4d (x : Fields) : Option Instr :=
  match x.g.toNat with
  | 0 => only (x.b == 0 && x.s == 0 && x.d == 0 && x.f == 0) (.drain x.a)
  | 1 => only (x.b == 0 && x.s == 0 && x.d == 0 && x.f == 0) (.ckpt x.a)
  | 2 => only (x.b == 0 && x.s == 0 && x.d == 0 && x.f == 0) (.resume x.a)
  | _ => none

/-- OP 0x4E: TRIG. -/
def parseOp4e (x : Fields) : Option Instr :=
  only (x.s == 0 && x.d == 0 && x.f == 0 && x.g == 0) (.trig x.a x.b)

/-- OP 0x4F: TQ. -/
def parseOp4f (x : Fields) : Option Instr :=
  only (x.s == 0 && x.d == 0 && x.f == 0 && x.g == 0) (.tq x.a x.b)

/-- OP 0x50: VCFG. -/
def parseOp50 (x : Fields) : Option Instr :=
  only (x.b == 0 && x.s == 0 && x.d == 0 && x.f == 0 && x.g == 0) (.vcfg x.a)

/-- OP 0x51: VRUN. -/
def parseOp51 (x : Fields) : Option Instr :=
  only (x.s == 0 && x.f == 0 && x.g == 0) (.vrun x.d x.a x.b)

/-- OP 0x52: VSEQ. -/
def parseOp52 (x : Fields) : Option Instr :=
  only (x.s == 0 && x.d == 0 && x.f == 0 && x.g == 0) (.vseq x.a x.b)

/-- OP 0x53: VLDS, VSTS. -/
def parseOp53 (x : Fields) : Option Instr :=
  match x.g.toNat with
  | 0 => only (x.s == 0 && x.d == 0 && x.f == 0) (.vlds x.a x.b)
  | 1 => only (x.s == 0 && x.d == 0 && x.f == 0) (.vsts x.a x.b)
  | _ => none

/-- OP 0x54: VRED_SUM, VRED_MIN, VRED_MAX. -/
def parseOp54 (x : Fields) : Option Instr :=
  match fmt3 x.f with
  | none => none
  | some f =>
    match x.g.toNat with
    | 0 => only (x.b == 0 && x.s == 0) (.vredSum f x.d x.a)
    | 1 => only (x.b == 0 && x.s == 0) (.vredMin f x.d x.a)
    | 2 => only (x.b == 0 && x.s == 0) (.vredMax f x.d x.a)
    | _ => none

/-- OP 0x55: BADDQ. -/
def parseOp55 (x : Fields) : Option Instr :=
  match twf x.f with
  | none => none
  | some tw =>
    only (x.s == 0 && x.g == 0) (.baddq tw x.d x.a x.b)

/-- OP 0x56: QTW, DQTW. -/
def parseOp56 (x : Fields) : Option Instr :=
  match twf x.f with
  | none => none
  | some tw =>
    match x.g.toNat with
    | 0 => only (x.s == 0) (.qtw tw x.d x.a x.b)
    | 1 => only (x.s == 0) (.dqtw tw x.d x.a x.b)
    | _ => none

/-- OP 0x58: CPARM. -/
def parseOp58 (x : Fields) : Option Instr :=
  only (x.s == 0 && x.d == 0 && x.f == 0 && x.g == 0) (.cparm x.a x.b)

/-- OP 0x59: CPDISARM. -/
def parseOp59 (x : Fields) : Option Instr :=
  only (x.b == 0 && x.s == 0 && x.d == 0 && x.f == 0 && x.g == 0) (.cpdisarm x.a)

/-- OP 0x5A: HQPUSH. -/
def parseOp5a (x : Fields) : Option Instr :=
  only (x.s == 0 && x.d == 0 && x.f == 0 && x.g == 0) (.hqpush x.a x.b)

/-- OP 0x5C: SYSR, SYSW. -/
def parseOp5c (x : Fields) : Option Instr :=
  let n := x.b.extractLsb' 0 5 ++ x.s ++ x.f ++ x.g
  if x.b.getLsbD 5 then only (x.d == 0) (.sysw n x.a) else only (x.a == 0) (.sysr x.d n)

/-- OP 0x5D: TRAP, ERET, WFI. -/
def parseOp5d (x : Fields) : Option Instr :=
  match x.g.toNat with
  | 0 => only (x.b == 0 && x.s == 0 && x.d == 0 && x.f == 0) (.trap x.a)
  | 1 => only (x.b == 0 && x.s == 0 && x.d == 0 && x.f == 0) (.eret x.a)
  | 2 => only (x.b == 0 && x.s == 0 && x.d == 0 && x.f == 0) (.wfi x.a)
  | _ => none

/-- OP 0x5E: SPILL, FILLSLOT. -/
def parseOp5e (x : Fields) : Option Instr :=
  match x.g.toNat with
  | 0 => only (x.s == 0 && x.d == 0 && x.f == 0) (.spill x.a x.b)
  | 1 => only (x.b == 0 && x.s == 0 && x.f == 0) (.fillslot x.d x.a)
  | _ => none

/-- OP 0x5F: SLOTREG_R, SLOTREG_W. -/
def parseOp5f (x : Fields) : Option Instr :=
  match x.g.toNat with
  | 0 => only (x.s == 0 && x.f == 0) (.slotregR x.d x.a x.b)
  | 1 => only (x.s == 0 && x.f == 0) (.slotregW x.d x.a x.b)
  | _ => none

/-- OP 0x60: TLBINV, TLBINV_ASID, TLBINV_PAGE. -/
def parseOp60 (x : Fields) : Option Instr :=
  match x.g.toNat with
  | 0 => only (x.b == 0 && x.s == 0 && x.d == 0 && x.f == 0 && x.a == 0) (.tlbinv)
  | 1 => only (x.b == 0 && x.s == 0 && x.d == 0 && x.f == 0) (.tlbinvAsid x.a)
  | 2 => only (x.s == 0 && x.d == 0 && x.f == 0) (.tlbinvPage x.a x.b)
  | _ => none

/-- OP 0x62: HALT. -/
def parseOp62 (x : Fields) : Option Instr :=
  only (x.b == 0 && x.s == 0 && x.d == 0 && x.f == 0 && x.a == 0 && x.g == 0) (.halt)

/-- OP 0x63: DRAFTGET, DRAFTPIN, DRAFTUNPIN. -/
def parseOp63 (x : Fields) : Option Instr :=
  match x.g.toNat with
  | 0 => only (x.s == 0 && x.f == 0) (.draftget x.d x.a x.b)
  | 1 => only (x.b == 0 && x.s == 0 && x.f == 0 && x.a == 0) (.draftpin x.d)
  | 2 => only (x.b == 0 && x.s == 0 && x.d == 0 && x.f == 0) (.draftunpin x.a)
  | _ => none

/-- OP 0x64: HEDDLE_REP, HEDDLE_RET, HEDDLE_PUB, HEDDLE_SW, HEDDLE_RD. -/
def parseOp64 (x : Fields) : Option Instr :=
  match x.g.toNat with
  | 0 => only (x.s == 0 && x.f == 0) (.heddleRep x.d x.a x.b)
  | 1 => only (x.s == 0 && x.f == 0) (.heddleRet x.d x.a x.b)
  | 2 => only (x.s == 0 && x.f == 0) (.heddlePub x.d x.a x.b)
  | 3 => only (x.b == 0 && x.s == 0 && x.d == 0 && x.f == 0) (.heddleSw x.a)
  | 4 => only (x.b == 0 && x.s == 0 && x.f == 0) (.heddleRd x.d x.a)
  | _ => none

/-- OP 0x66: ROUTE, ROUTE_ESC. -/
def parseOp66 (x : Fields) : Option Instr :=
  match x.g.toNat with
  | 0 => only (x.s == 0 && x.f == 0) (.route x.d x.a x.b)
  | 1 => only (x.s == 0 && x.f == 0) (.routeEsc x.d x.a x.b)
  | _ => none

/-- The instruction of thread-form fields, register numbers and operand values as they stand. -/
def parseThread (x : Fields) : Option Instr :=
  match x.op.toNat with
  | 0x00 => parseOp00 x
  | 0x01 => parseOp01 x
  | 0x02 => parseOp02 x
  | 0x03 => parseOp03 x
  | 0x04 => parseOp04 x
  | 0x05 => parseOp05 x
  | 0x06 => parseOp06 x
  | 0x07 => parseOp07 x
  | 0x08 => parseOp08 x
  | 0x09 => parseOp09 x
  | 0x0a => parseOp0a x
  | 0x0b => parseOp0b x
  | 0x0c => parseOp0c x
  | 0x0d => parseOp0d x
  | 0x0e => parseOp0e x
  | 0x10 => parseOp10 x
  | 0x11 => parseOp11 x
  | 0x12 => parseOp12 x
  | 0x13 => parseOp13 x
  | 0x14 => parseOp14 x
  | 0x15 => parseOp15 x
  | 0x16 => parseOp16 x
  | 0x20 => parseOp20 x
  | 0x21 => parseOp21 x
  | 0x22 => parseOp22 x
  | 0x23 => parseOp23 x
  | 0x24 => parseOp24 x
  | 0x25 => parseOp25 x
  | 0x26 => parseOp26 x
  | 0x27 => parseOp27 x
  | 0x28 => parseOp28 x
  | 0x29 => parseOp29 x
  | 0x2a => parseOp2a x
  | 0x2b => parseOp2b x
  | 0x2c => parseOp2c x
  | 0x2d => parseOp2d x
  | 0x2e => parseOp2e x
  | 0x2f => parseOp2f x
  | 0x30 => parseOp30 x
  | 0x31 => parseOp31 x
  | 0x32 => parseOp32 x
  | 0x33 => parseOp33 x
  | 0x34 => parseOp34 x
  | 0x35 => parseOp35 x
  | 0x36 => parseOp36 x
  | 0x37 => parseOp37 x
  | 0x38 => parseOp38 x
  | 0x3a => parseOp3a x
  | 0x3b => parseOp3b x
  | 0x3c => parseOp3c x
  | 0x3e => parseOp3e x
  | 0x3f => parseOp3f x
  | 0x40 => parseOp40 x
  | 0x41 => parseOp41 x
  | 0x42 => parseOp42 x
  | 0x43 => parseOp43 x
  | 0x44 => parseOp44 x
  | 0x46 => parseOp46 x
  | 0x47 => parseOp47 x
  | 0x48 => parseOp48 x
  | 0x49 => parseOp49 x
  | 0x4a => parseOp4a x
  | 0x4b => parseOp4b x
  | 0x4c => parseOp4c x
  | 0x4d => parseOp4d x
  | 0x4e => parseOp4e x
  | 0x4f => parseOp4f x
  | 0x50 => parseOp50 x
  | 0x51 => parseOp51 x
  | 0x52 => parseOp52 x
  | 0x53 => parseOp53 x
  | 0x54 => parseOp54 x
  | 0x55 => parseOp55 x
  | 0x56 => parseOp56 x
  | 0x58 => parseOp58 x
  | 0x59 => parseOp59 x
  | 0x5a => parseOp5a x
  | 0x5c => parseOp5c x
  | 0x5d => parseOp5d x
  | 0x5e => parseOp5e x
  | 0x5f => parseOp5f x
  | 0x60 => parseOp60 x
  | 0x62 => parseOp62 x
  | 0x63 => parseOp63 x
  | 0x64 => parseOp64 x
  | 0x66 => parseOp66 x
  | _ => none

/-- OP 0x68 of graph form: STEER_T, STEER_F. -/
def parseGraph68 (x : GFields) (t u : Target) : Option Instr :=
  only (x.x == 0) (if x.flag.getLsbD 0 then .steerF t u else .steerT t u)

/-- OP 0x69 of graph form: MERGE_P, MERGE_A. -/
def parseGraph69 (x : GFields) (t u : Target) : Option Instr :=
  only (x.x == 0) (if x.flag.getLsbD 0 then .mergeA t u else .mergeP t u)

/-- OP 0x6A of graph form: CARRY. -/
def parseGraph6a (x : GFields) (t u : Target) : Option Instr :=
  only (x.flag == 0) (.carry x.x t u)

/-- OP 0x6B of graph form: INV. -/
def parseGraph6b (x : GFields) (t u : Target) : Option Instr :=
  only (x.flag == 0 && x.x == 0) (.inv t u)

/-- OP 0x6C of graph form: CONST, CONST_C. -/
def parseGraph6c (x : GFields) (t u : Target) : Option Instr :=
  some (if x.flag.getLsbD 0 then .constC x.x t u else .const x.x t u)

/-- OP 0x6D of graph form: GATE. -/
def parseGraph6d (x : GFields) (t u : Target) : Option Instr :=
  only (x.flag == 0 && x.x == 0) (.gate t u)

/-- OP 0x6E of graph form: ROWCTL_STRIP, ROWCTL_SPLIT, ROWCTL_EOR, ROWCTL_EOG, ROWCTL_EOS. -/
def parseGraph6e (x : GFields) (t u : Target) : Option Instr :=
  match x.x.toNat with
  | 0 => only (x.flag == 0) (.rowctlStrip t u)
  | 1 => only (x.flag == 0) (.rowctlSplit t u)
  | 2 => only (x.flag == 0) (.rowctlEor t u)
  | 3 => only (x.flag == 0) (.rowctlEog t u)
  | 4 => only (x.flag == 0) (.rowctlEos t u)
  | _ => none

/-- OP 0x6F of graph form: WIDEN. -/
def parseGraph6f (x : GFields) (t u : Target) : Option Instr :=
  match scope (x.x.extractLsb' 3 3) with
  | some sc => only (x.flag == 0 && x.x.extractLsb' 0 3 == 0) (.widen sc t u)
  | none => none

/-- OP 0x70 of graph form: MMA. -/
def parseGraph70 (x : GFields) (t u : Target) : Option Instr :=
  match mf3 (x.x.extractLsb' 3 3) with
  | some mf => some (.mma (x.flag.getLsbD 0) mf (x.x.extractLsb' 0 3) t u)
  | none => none

/-- OP 0x71 of graph form: BLOAD. -/
def parseGraph71 (x : GFields) (t u : Target) : Option Instr :=
  match mf3 (x.x.extractLsb' 3 3) with
  | some mf => only (x.flag == 0) (.bload mf (x.x.extractLsb' 0 3) t u)
  | none => none

/-- OP 0x72 of graph form: ACC_RD, ACC_RDCLR, ACC_CLR. -/
def parseGraph72 (x : GFields) (t u : Target) : Option Instr :=
  match (x.x.extractLsb' 3 3).toNat with
  | 0 => only (x.flag == 0) (.accRd (x.x.extractLsb' 0 3) t u)
  | 1 => only (x.flag == 0) (.accRdclr (x.x.extractLsb' 0 3) t u)
  | 2 => only (x.flag == 0) (.accClr (x.x.extractLsb' 0 3) t u)
  | _ => none

/-- OP 0x73 of graph form: RMAX. -/
def parseGraph73 (x : GFields) (t u : Target) : Option Instr :=
  match graphFmt (x.x.extractLsb' 3 3) with
  | some f => only (x.x.extractLsb' 0 3 == 0) (.rmax (x.flag.getLsbD 0) f t u)
  | none => none

/-- OP 0x74 of graph form: ESC_ORD, ESC_UNORD. -/
def parseGraph74 (x : GFields) (t u : Target) : Option Instr :=
  some (if x.flag.getLsbD 0 then .escUnord x.x t u else .escOrd x.x t u)

/-- OP 0x75 of graph form: DELAY. -/
def parseGraph75 (x : GFields) (t u : Target) : Option Instr :=
  only (x.flag == 0) (.delay x.x t u)

/-- OP 0x76 of graph form: RACE. -/
def parseGraph76 (x : GFields) (t u : Target) : Option Instr :=
  only (x.flag == 0) (.race x.x t u)

/-- OP 0x77 of graph form: FRAME. -/
def parseGraph77 (x : GFields) (t u : Target) : Option Instr :=
  only (x.flag == 0) (.frame x.x t u)

/-- OP 0x78 of graph form: UNFRAME. -/
def parseGraph78 (x : GFields) (t u : Target) : Option Instr :=
  only (x.flag == 0) (.unframe x.x t u)

/-- OP 0x79 of graph form: UPD. -/
def parseGraph79 (x : GFields) (t u : Target) : Option Instr :=
  match (x.x.extractLsb' 3 3).toNat, (x.x.extractLsb' 0 3).toNat with
  | 0, n => only (x.flag == 0) (.upd (.int (amoOf n)) t u)
  | 1, 0 => only (x.flag == 0) (.upd .fadd t u)
  | 1, 1 => only (x.flag == 0) (.upd .fmin t u)
  | 1, 2 => only (x.flag == 0) (.upd .fmax t u)
  | _, _ => none

/-- OP 0x7A of graph form: CNT_D, CNT_R. -/
def parseGraph7a (x : GFields) (t u : Target) : Option Instr :=
  only (x.x == 0) (if x.flag.getLsbD 0 then .cntR t u else .cntD t u)

/-- OP 0x7B of graph form: LRED_SUM, LRED_MAX, LRED_MIN. -/
def parseGraph7b (x : GFields) (t u : Target) : Option Instr :=
  match (x.x.extractLsb' 3 3).toNat with
  | 0 => only (x.flag == 0) (.lredSum (x.x.extractLsb' 0 3) t u)
  | 1 => only (x.flag == 0) (.lredMax (x.x.extractLsb' 0 3) t u)
  | 2 => only (x.flag == 0) (.lredMin (x.x.extractLsb' 0 3) t u)
  | _ => none

/-- OP 0x7C of graph form: SCALE. -/
def parseGraph7c (x : GFields) (t u : Target) : Option Instr :=
  only (x.flag == 0 && x.x == 0) (.scale t u)

/-- OP 0x7D of graph form: EXPLK. -/
def parseGraph7d (x : GFields) (t u : Target) : Option Instr :=
  only (x.flag == 0) (.explk x.x t u)

/-- f:g of OP 0x01. -/
def aluOf (n : Nat) : Option AluOp :=
  match n with
  | 0 => some .add
  | 1 => some .sub
  | 2 => some .and
  | 3 => some .or
  | 4 => some .xor
  | 5 => some .andn
  | 6 => some .orn
  | 7 => some .xnor
  | 8 => some .shl
  | 9 => some .shr
  | 10 => some .sra
  | 11 => some .rol
  | 12 => some .ror
  | 13 => some .slt
  | 14 => some .sltu
  | 15 => some .min
  | 16 => some .max
  | 17 => some .minu
  | 18 => some .maxu
  | _ => none

/-- f:g of OP 0x02. -/
def mulOf (n : Nat) : Option MulOp :=
  match n with
  | 0 => some .mul
  | 1 => some .mulh
  | 2 => some .mulhu
  | 3 => some .mulhsu
  | 4 => some .div
  | 5 => some .divu
  | 6 => some .rem
  | 7 => some .remu
  | _ => none

/-- f:g of OP 0x03. -/
def bitsOf (n : Nat) : Option BitsOp :=
  match n with
  | 0 => some .clz
  | 1 => some .ctz
  | 2 => some .popc
  | 3 => some .brev
  | 4 => some .bswap
  | 5 => some .sextb
  | 6 => some .sexth
  | 7 => some .sextw
  | 8 => some .zextw
  | _ => none

/-- g of OP 0x10. -/
def fpOf (n : Nat) : Option FpOp :=
  match n with
  | 0 => some .fadd
  | 1 => some .fsub
  | 2 => some .fmul
  | 3 => some .fdiv
  | 4 => some .fmin
  | 5 => some .fmax
  | 6 => some .fsqrt
  | _ => none

/-- g of OP 0x11. -/
def fmaOf (n : Nat) : Option FmaOp :=
  match n with
  | 0 => some .fma
  | 1 => some .fms
  | 2 => some .fnma
  | 3 => some .fnms
  | _ => none

/-- g of OP 0x12. -/
def cmpOf (n : Nat) : Option CmpOp :=
  match n with
  | 0 => some .feq
  | 1 => some .flt
  | 2 => some .fle
  | 3 => some .funord
  | _ => none

/-- g of OP 0x16. -/
def sfuOf (n : Nat) : Option SfuOp :=
  match n with
  | 0 => some .exp2
  | 1 => some .log2
  | 2 => some .rcp
  | 3 => some .rsq
  | 4 => some .sin
  | 5 => some .cos
  | 6 => some .tanh
  | _ => none

/-- The element-wise operation of graph-form OP 0x01 to 0x03 and 0x10 to 0x16 (R176, R191). -/
def parseElem (op : Nat) (x : BitVec 6) : Option ElemOp :=
  let f := graphFmt (x.extractLsb' 3 3)
  let g := x.extractLsb' 0 3
  match op with
  | 0x01 => (aluOf x.toNat).map .alu
  | 0x02 => (mulOf x.toNat).map .mul
  | 0x03 => (bitsOf x.toNat).map .bits
  | 0x10 => f.bind fun f => (fpOf g.toNat).map (.fp · f)
  | 0x11 => f.bind fun f => (fmaOf g.toNat).map (.fma · f)
  | 0x12 => f.bind fun f => (cmpOf g.toNat).map (.cmp · f)
  | 0x13 => f.bind fun f => (graphFmt g).map (.fcvt f ·)
  | 0x14 => f.bind fun f => if g == 0 then some (.fclass f) else none
  | 0x15 => f.bind fun f =>
    if g == 4 then some (.icvtFrom f)
    else if g.getLsbD 2 then none else some (.icvtTo (intFmt (g.extractLsb' 0 2)) f)
  | 0x16 => f.bind fun f => (sfuOf g.toNat).map (.sfu · f)
  | _ => none

/-- The instruction of graph-form fields whose targets are read. -/
def parseGraphWith (x : GFields) (t u : Target) : Option Instr :=
  match x.op.toNat with
  | 0x01 => (parseElem 0x01 x.x).bind fun o => only (x.flag == 0) (.elementwiseNode o t u)
  | 0x02 => (parseElem 0x02 x.x).bind fun o => only (x.flag == 0) (.elementwiseNode o t u)
  | 0x03 => (parseElem 0x03 x.x).bind fun o => only (x.flag == 0) (.elementwiseNode o t u)
  | 0x10 => (parseElem 0x10 x.x).bind fun o => only (x.flag == 0) (.elementwiseNode o t u)
  | 0x11 => (parseElem 0x11 x.x).bind fun o => only (x.flag == 0) (.elementwiseNode o t u)
  | 0x12 => (parseElem 0x12 x.x).bind fun o => only (x.flag == 0) (.elementwiseNode o t u)
  | 0x13 => (parseElem 0x13 x.x).bind fun o => only (x.flag == 0) (.elementwiseNode o t u)
  | 0x14 => (parseElem 0x14 x.x).bind fun o => only (x.flag == 0) (.elementwiseNode o t u)
  | 0x15 => (parseElem 0x15 x.x).bind fun o => only (x.flag == 0) (.elementwiseNode o t u)
  | 0x16 => (parseElem 0x16 x.x).bind fun o => only (x.flag == 0) (.elementwiseNode o t u)
  | 0x20 => only (x.flag == 0 && x.x == 0) (.graphLoadNode .b t u)
  | 0x21 => only (x.flag == 0 && x.x == 0) (.graphLoadNode .h t u)
  | 0x22 => only (x.flag == 0 && x.x == 0) (.graphLoadNode .w t u)
  | 0x23 => only (x.flag == 0 && x.x == 0) (.graphLoadNode .d t u)
  | 0x24 => only (x.flag == 0 && x.x == 0) (.graphLoadNode .bu t u)
  | 0x25 => only (x.flag == 0 && x.x == 0) (.graphLoadNode .hu t u)
  | 0x26 => only (x.flag == 0 && x.x == 0) (.graphLoadNode .wu t u)
  | 0x27 => only (x.flag == 0 && x.x == 0) (.graphStoreNode .b t u)
  | 0x28 => only (x.flag == 0 && x.x == 0) (.graphStoreNode .h t u)
  | 0x29 => only (x.flag == 0 && x.x == 0) (.graphStoreNode .w t u)
  | 0x2a => only (x.flag == 0 && x.x == 0) (.graphStoreNode .d t u)
  | 0x2b => (scope (x.x.extractLsb' 3 3)).bind fun sc => only (x.flag == 0) (.graphFeNode sc (feOf (x.x.extractLsb' 0 3).toNat) t u)
  | 0x68 => parseGraph68 x t u
  | 0x69 => parseGraph69 x t u
  | 0x6a => parseGraph6a x t u
  | 0x6b => parseGraph6b x t u
  | 0x6c => parseGraph6c x t u
  | 0x6d => parseGraph6d x t u
  | 0x6e => parseGraph6e x t u
  | 0x6f => parseGraph6f x t u
  | 0x70 => parseGraph70 x t u
  | 0x71 => parseGraph71 x t u
  | 0x72 => parseGraph72 x t u
  | 0x73 => parseGraph73 x t u
  | 0x74 => parseGraph74 x t u
  | 0x75 => parseGraph75 x t u
  | 0x76 => parseGraph76 x t u
  | 0x77 => parseGraph77 x t u
  | 0x78 => parseGraph78 x t u
  | 0x79 => parseGraph79 x t u
  | 0x7a => parseGraph7a x t u
  | 0x7b => parseGraph7b x t u
  | 0x7c => parseGraph7c x t u
  | 0x7d => parseGraph7d x t u
  | _ => none

/-- The instruction of graph-form fields (R190, R191). -/
def parseGraph (x : GFields) : Option Instr :=
  match target x.ta, target x.tb with
  | some t, some u => parseGraphWith x t u
  | _, _ => none

/-- The instruction that a thread-form word stands for; none when the word is unassigned (R186, R192). -/
def decodeThread (w : Inst) : Option Instr := (parseThread (threadForm w)).filter Instr.wf

/-- The instruction that a graph-form word stands for; none when the word is unassigned (R192). The word of an empty
slot, 0x0000_0000, is none of them (R181). -/
def decodeGraph (w : Inst) : Option Instr := (parseGraph (graphForm w)).filter Instr.wf

/-- The instruction that a word of a microcode block stands for (R182): fence.ifence is of thread blocks only. -/
def decodeMicro (w : Inst) : Option Instr :=
  if opInMicro (threadForm w).op.toNat && !((threadForm w).op == 0x2f && (threadForm w).g == 4) then decodeThread w
  else none

/-- The kinds of block (Table 6-4). -/
inductive BlockKind where
  | graph | thread | micro
  deriving DecidableEq, Repr

/-- A block header (Table 6-4): instruction words minus 1, constants, and the release scope k of a graph block. -/
structure Header where
  kind : BlockKind
  count : BitVec 6
  nconst : BitVec 6
  scopeK : Bool
  deriving DecidableEq, Repr

/-- Whether a word's OP is that of a header (R178). -/
def isHeader (w : Inst) : Bool := w.extractLsb' 25 7 == 0x7f

/-- The header that a word stands for; none when its KIND is reserved or a reserved field is not zero (R192). -/
def decodeHeader (w : Inst) : Option Header :=
  if isHeader w && w.extractLsb' 0 10 == 0 then
    let k := w.getLsbD 10
    let h (kind : BlockKind) := some ⟨kind, w.extractLsb' 17 6, w.extractLsb' 11 6, k⟩
    match (w.extractLsb' 23 2).toNat with
    | 0 => h .graph
    | 1 => if k then none else h .thread
    | 2 => if k then none else h .micro
    | _ => none
  else none

/-- Why bytes are no instruction. -/
inductive DecodeError where
  /-- Fewer than four bytes are left. -/
  | truncated
  /-- The word is a block header (R178). -/
  | header
  /-- The word marks an empty slot (R181). -/
  | emptySlot
  /-- The word is unassigned in a block of this kind (R186, R190, R192). -/
  | unassigned (kind : BlockKind) (w : Inst)
  deriving DecidableEq, Repr

/-- The word of four bytes, lowest address first (R7). -/
def wordOf (b0 b1 b2 b3 : Byte) : Inst := b3 ++ b2 ++ b1 ++ b0

/-- The four bytes of a word, lowest address first (R7). -/
def bytesOf (w : Inst) : List Byte :=
  [w.extractLsb' 0 8, w.extractLsb' 8 8, w.extractLsb' 16 8, w.extractLsb' 24 8]

/-- Decoding of the bytes at an address in a block of a kind: the instruction and the bytes after it. -/
def decode (kind : BlockKind) : List Byte → Except DecodeError (Instr × List Byte)
  | b0 :: b1 :: b2 :: b3 :: rest =>
    let w := wordOf b0 b1 b2 b3
    let read : Option Instr := match kind with
      | .thread => decodeThread w
      | .micro => decodeMicro w
      | .graph => decodeGraph w
    if isHeader w then .error .header
    else if kind == .graph && w == 0 then .error .emptySlot
    else match read with
      | some i => .ok (i, rest)
      | none => .error (.unassigned kind w)
  | _ => .error .truncated

/-- The instruction read from a word laid out as spec/opcode_table.json numbers its bits: thread form first, and
graph form for the opcodes that thread form leaves unassigned. -/
def decodeTableWord (nbits w : Nat) : Option Instr :=
  let bytes := bytesOf (BitVec.ofNat 32 (w % 2 ^ nbits))
  match decode .thread bytes with
  | .ok (i, _) => some i
  | .error _ =>
    match decode .graph bytes with
    | .ok (i, _) => some i
    | .error _ => none

/-! The encoder, from the same tables. -/

/-- A target as a field (Table 6-3). -/
def Target.code : Target → BitVec 9
  | .none => 0x1ff
  | .node s .l => s ++ 0#3
  | .node s .r => s ++ 1#3
  | .node s .p => s ++ 2#3
  | .node s .s => s ++ 3#3
  | .node s .o => s ++ 4#3
  | .shed p => 0#2 ++ p ++ 6#3

/-- The code of an operation, as its row of Table 6-12 numbers it. -/
def AluOp.code : AluOp → BitVec 6
  | .add => 0 | .sub => 1 | .and => 2 | .or => 3 | .xor => 4 | .andn => 5 | .orn => 6 | .xnor => 7 | .shl => 8 | .shr => 9 | .sra => 10 | .rol => 11 | .ror => 12 | .slt => 13 | .sltu => 14 | .min => 15 | .max => 16 | .minu => 17 | .maxu => 18

/-- The code of an operation, as its row of Table 6-12 numbers it. -/
def MulOp.code : MulOp → BitVec 6
  | .mul => 0 | .mulh => 1 | .mulhu => 2 | .mulhsu => 3 | .div => 4 | .divu => 5 | .rem => 6 | .remu => 7

/-- The code of an operation, as its row of Table 6-12 numbers it. -/
def BitsOp.code : BitsOp → BitVec 6
  | .clz => 0 | .ctz => 1 | .popc => 2 | .brev => 3 | .bswap => 4 | .sextb => 5 | .sexth => 6 | .sextw => 7 | .zextw => 8

/-- The code of an operation, as its row of Table 6-12 numbers it. -/
def FpOp.code : FpOp → BitVec 3
  | .fadd => 0 | .fsub => 1 | .fmul => 2 | .fdiv => 3 | .fmin => 4 | .fmax => 5 | .fsqrt => 6

/-- The code of an operation, as its row of Table 6-12 numbers it. -/
def FmaOp.code : FmaOp → BitVec 3
  | .fma => 0 | .fms => 1 | .fnma => 2 | .fnms => 3

/-- The code of an operation, as its row of Table 6-12 numbers it. -/
def CmpOp.code : CmpOp → BitVec 3
  | .feq => 0 | .flt => 1 | .fle => 2 | .funord => 3

/-- The code of an operation, as its row of Table 6-12 numbers it. -/
def SfuOp.code : SfuOp → BitVec 3
  | .exp2 => 0 | .log2 => 1 | .rcp => 2 | .rsq => 3 | .sin => 4 | .cos => 5 | .tanh => 6

/-- The code of an operation, as its row of Table 6-12 numbers it. -/
def AmoOp.code : AmoOp → BitVec 3
  | .swap => 0 | .add => 1 | .and => 2 | .or => 3 | .xor => 4 | .min => 5 | .max => 6 | .maxu => 7

/-- The code of an operation, as its row of Table 6-12 numbers it. -/
def FeOp.code : FeOp → BitVec 3
  | .lde => 0 | .take => 1 | .put => 2 | .fill => 3 | .purge => 4 | .festat => 5 | .waitf => 6 | .trytake => 7

/-- The OP and sub-function of an element-wise operation. -/
def ElemOp.code : ElemOp → BitVec 7 × BitVec 6
  | .alu o => (0x01, o.code)
  | .mul o => (0x02, o.code)
  | .bits o => (0x03, o.code)
  | .fp o f => (0x10, f.code ++ o.code)
  | .fma o f => (0x11, f.code ++ o.code)
  | .cmp o f => (0x12, f.code ++ o.code)
  | .fcvt f g => (0x13, f.code ++ g.code)
  | .fclass f => (0x14, f.code ++ 0#3)
  | .icvtTo k f => (0x15, f.code ++ (0#1 ++ k.code))
  | .icvtFrom f => (0x15, f.code ++ 4#3)
  | .sfu o f => (0x16, f.code ++ o.code)

/-- The sub-function of an update-unit operation. -/
def UpdOp.code : UpdOp → BitVec 6
  | .int o => 0#3 ++ o.code
  | .fadd => 8
  | .fmin => 9
  | .fmax => 10

/-- The OP of a load. -/
def LoadOp.code : LoadOp → BitVec 7
  | .b => 0x20 | .h => 0x21 | .w => 0x22 | .d => 0x23 | .bu => 0x24 | .hu => 0x25 | .wu => 0x26

/-- The OP of a store. -/
def StoreOp.code : StoreOp → BitVec 7
  | .b => 0x27 | .h => 0x28 | .w => 0x29 | .d => 0x2a

/-- The fields of a thread-form instruction: none for a graph-form instruction or an event. -/
def threadFields : Instr → Option Fields
  | .add w d a b => some ⟨0x01, b, bit w, d, 0, a, 0⟩
  | .sub w d a b => some ⟨0x01, b, bit w, d, 0, a, 1⟩
  | .and w d a b => some ⟨0x01, b, bit w, d, 0, a, 2⟩
  | .or w d a b => some ⟨0x01, b, bit w, d, 0, a, 3⟩
  | .xor w d a b => some ⟨0x01, b, bit w, d, 0, a, 4⟩
  | .andn w d a b => some ⟨0x01, b, bit w, d, 0, a, 5⟩
  | .orn w d a b => some ⟨0x01, b, bit w, d, 0, a, 6⟩
  | .xnor w d a b => some ⟨0x01, b, bit w, d, 0, a, 7⟩
  | .shl w d a b => some ⟨0x01, b, bit w, d, 1, a, 0⟩
  | .shr w d a b => some ⟨0x01, b, bit w, d, 1, a, 1⟩
  | .sra w d a b => some ⟨0x01, b, bit w, d, 1, a, 2⟩
  | .rol w d a b => some ⟨0x01, b, bit w, d, 1, a, 3⟩
  | .ror w d a b => some ⟨0x01, b, bit w, d, 1, a, 4⟩
  | .slt w d a b => some ⟨0x01, b, bit w, d, 1, a, 5⟩
  | .sltu w d a b => some ⟨0x01, b, bit w, d, 1, a, 6⟩
  | .min w d a b => some ⟨0x01, b, bit w, d, 1, a, 7⟩
  | .max w d a b => some ⟨0x01, b, bit w, d, 2, a, 0⟩
  | .minu w d a b => some ⟨0x01, b, bit w, d, 2, a, 1⟩
  | .maxu w d a b => some ⟨0x01, b, bit w, d, 2, a, 2⟩
  | .mul w d a b => some ⟨0x02, b, bit w, d, 0, a, 0⟩
  | .mulh d a b => some ⟨0x02, b, 0, d, 0, a, 1⟩
  | .mulhu d a b => some ⟨0x02, b, 0, d, 0, a, 2⟩
  | .mulhsu d a b => some ⟨0x02, b, 0, d, 0, a, 3⟩
  | .div w d a b => some ⟨0x02, b, bit w, d, 0, a, 4⟩
  | .divu w d a b => some ⟨0x02, b, bit w, d, 0, a, 5⟩
  | .rem w d a b => some ⟨0x02, b, bit w, d, 0, a, 6⟩
  | .remu w d a b => some ⟨0x02, b, bit w, d, 0, a, 7⟩
  | .clz w d a => some ⟨0x03, 0, bit w, d, 0, a, 0⟩
  | .ctz w d a => some ⟨0x03, 0, bit w, d, 0, a, 1⟩
  | .popc w d a => some ⟨0x03, 0, bit w, d, 0, a, 2⟩
  | .brev w d a => some ⟨0x03, 0, bit w, d, 0, a, 3⟩
  | .bswap w d a => some ⟨0x03, 0, bit w, d, 0, a, 4⟩
  | .sextb d a => some ⟨0x03, 0, 0, d, 0, a, 5⟩
  | .sexth d a => some ⟨0x03, 0, 0, d, 0, a, 6⟩
  | .sextw d a => some ⟨0x03, 0, 0, d, 0, a, 7⟩
  | .zextw d a => some ⟨0x03, 0, 0, d, 1, a, 0⟩
  | .addi d a i13 => some ⟨0x04, i13.extractLsb' 7 6, i13.extractLsb' 6 1, d, i13.extractLsb' 3 3, a, i13.extractLsb' 0 3⟩
  | .andi d a i13 => some ⟨0x05, i13.extractLsb' 7 6, i13.extractLsb' 6 1, d, i13.extractLsb' 3 3, a, i13.extractLsb' 0 3⟩
  | .ori d a i13 => some ⟨0x06, i13.extractLsb' 7 6, i13.extractLsb' 6 1, d, i13.extractLsb' 3 3, a, i13.extractLsb' 0 3⟩
  | .xori d a i13 => some ⟨0x07, i13.extractLsb' 7 6, i13.extractLsb' 6 1, d, i13.extractLsb' 3 3, a, i13.extractLsb' 0 3⟩
  | .shli w d a n6 => some ⟨0x08, 0#3 ++ bit w ++ 0#2, 0, d, n6.extractLsb' 3 3, a, n6.extractLsb' 0 3⟩
  | .shri w d a n6 => some ⟨0x08, 0#3 ++ bit w ++ 0#2, 1, d, n6.extractLsb' 3 3, a, n6.extractLsb' 0 3⟩
  | .srai w d a n6 => some ⟨0x08, 0#3 ++ bit w ++ 1#2, 0, d, n6.extractLsb' 3 3, a, n6.extractLsb' 0 3⟩
  | .roli w d a n6 => some ⟨0x08, 0#3 ++ bit w ++ 1#2, 1, d, n6.extractLsb' 3 3, a, n6.extractLsb' 0 3⟩
  | .rori w d a n6 => some ⟨0x08, 0#3 ++ bit w ++ 2#2, 0, d, n6.extractLsb' 3 3, a, n6.extractLsb' 0 3⟩
  | .slti d a i13 => some ⟨0x09, i13.extractLsb' 7 6, i13.extractLsb' 6 1, d, i13.extractLsb' 3 3, a, i13.extractLsb' 0 3⟩
  | .sltiu d a i13 => some ⟨0x0a, i13.extractLsb' 7 6, i13.extractLsb' 6 1, d, i13.extractLsb' 3 3, a, i13.extractLsb' 0 3⟩
  | .lui d i19 => some ⟨0x0b, i19.extractLsb' 13 6, i19.extractLsb' 12 1, d, i19.extractLsb' 9 3, i19.extractLsb' 3 6, i19.extractLsb' 0 3⟩
  | .auipc d i19 => some ⟨0x0c, i19.extractLsb' 13 6, i19.extractLsb' 12 1, d, i19.extractLsb' 9 3, i19.extractLsb' 3 6, i19.extractLsb' 0 3⟩
  | .addx w d a b => some ⟨0x0d, b, bit w, d, 0, a, 0⟩
  | .subx w d a b => some ⟨0x0d, b, bit w, d, 0, a, 1⟩
  | .mulx w d a b => some ⟨0x0d, b, bit w, d, 0, a, 2⟩
  | .cselNz d a b c => some ⟨0x0e, b, 0, d, c.extractLsb' 3 3, a, c.extractLsb' 0 3⟩
  | .cselZ d a b c => some ⟨0x0e, b, 1, d, c.extractLsb' 3 3, a, c.extractLsb' 0 3⟩
  | .fadd f d a b => some ⟨0x10, b, 0, d, f.code, a, 0⟩
  | .fsub f d a b => some ⟨0x10, b, 0, d, f.code, a, 1⟩
  | .fmul f d a b => some ⟨0x10, b, 0, d, f.code, a, 2⟩
  | .fdiv f d a b => some ⟨0x10, b, 0, d, f.code, a, 3⟩
  | .fmin f d a b => some ⟨0x10, b, 0, d, f.code, a, 4⟩
  | .fmax f d a b => some ⟨0x10, b, 0, d, f.code, a, 5⟩
  | .fsqrt f d a => some ⟨0x10, 0, 0, d, f.code, a, 6⟩
  | .fma f d a b => some ⟨0x11, b, 0, d, f.code, a, 0⟩
  | .fms f d a b => some ⟨0x11, b, 0, d, f.code, a, 1⟩
  | .fnma f d a b => some ⟨0x11, b, 0, d, f.code, a, 2⟩
  | .fnms f d a b => some ⟨0x11, b, 0, d, f.code, a, 3⟩
  | .feq f d a b => some ⟨0x12, b, 0, d, f.code, a, 0⟩
  | .flt f d a b => some ⟨0x12, b, 0, d, f.code, a, 1⟩
  | .fle f d a b => some ⟨0x12, b, 0, d, f.code, a, 2⟩
  | .funord f d a b => some ⟨0x12, b, 0, d, f.code, a, 3⟩
  | .fcvt f g d a => some ⟨0x13, 0, 0, d, f.code, a, g.code⟩
  | .fclass f d a => some ⟨0x14, 0, 0, d, f.code, a, 0⟩
  | .icvtToInt k f d a => some ⟨0x15, 0, 0, d, f.code, a, 0#1 ++ k.code⟩
  | .icvtFromInt f d a => some ⟨0x15, 0, 0, d, f.code, a, 4⟩
  | .exp2 f d a => some ⟨0x16, 0, 0, d, f.code, a, 0⟩
  | .log2 f d a => some ⟨0x16, 0, 0, d, f.code, a, 1⟩
  | .rcp f d a => some ⟨0x16, 0, 0, d, f.code, a, 2⟩
  | .rsq f d a => some ⟨0x16, 0, 0, d, f.code, a, 3⟩
  | .sin f d a => some ⟨0x16, 0, 0, d, f.code, a, 4⟩
  | .cos f d a => some ⟨0x16, 0, 0, d, f.code, a, 5⟩
  | .tanh f d a => some ⟨0x16, 0, 0, d, f.code, a, 6⟩
  | .ldB d a i13 => some ⟨0x20, i13.extractLsb' 7 6, i13.extractLsb' 6 1, d, i13.extractLsb' 3 3, a, i13.extractLsb' 0 3⟩
  | .ldH d a i13 => some ⟨0x21, i13.extractLsb' 7 6, i13.extractLsb' 6 1, d, i13.extractLsb' 3 3, a, i13.extractLsb' 0 3⟩
  | .ldW d a i13 => some ⟨0x22, i13.extractLsb' 7 6, i13.extractLsb' 6 1, d, i13.extractLsb' 3 3, a, i13.extractLsb' 0 3⟩
  | .ldD d a i13 => some ⟨0x23, i13.extractLsb' 7 6, i13.extractLsb' 6 1, d, i13.extractLsb' 3 3, a, i13.extractLsb' 0 3⟩
  | .ldBu d a i13 => some ⟨0x24, i13.extractLsb' 7 6, i13.extractLsb' 6 1, d, i13.extractLsb' 3 3, a, i13.extractLsb' 0 3⟩
  | .ldHu d a i13 => some ⟨0x25, i13.extractLsb' 7 6, i13.extractLsb' 6 1, d, i13.extractLsb' 3 3, a, i13.extractLsb' 0 3⟩
  | .ldWu d a i13 => some ⟨0x26, i13.extractLsb' 7 6, i13.extractLsb' 6 1, d, i13.extractLsb' 3 3, a, i13.extractLsb' 0 3⟩
  | .stB b a i13 => some ⟨0x27, b, i13.extractLsb' 12 1, i13.extractLsb' 6 6, i13.extractLsb' 3 3, a, i13.extractLsb' 0 3⟩
  | .stH b a i13 => some ⟨0x28, b, i13.extractLsb' 12 1, i13.extractLsb' 6 6, i13.extractLsb' 3 3, a, i13.extractLsb' 0 3⟩
  | .stW b a i13 => some ⟨0x29, b, i13.extractLsb' 12 1, i13.extractLsb' 6 6, i13.extractLsb' 3 3, a, i13.extractLsb' 0 3⟩
  | .stD b a i13 => some ⟨0x2a, b, i13.extractLsb' 12 1, i13.extractLsb' 6 6, i13.extractLsb' 3 3, a, i13.extractLsb' 0 3⟩
  | .lde sc d a => some ⟨0x2b, 0, 0, d, sc.code, a, 0⟩
  | .take sc d a => some ⟨0x2b, 0, 0, d, sc.code, a, 1⟩
  | .put sc b a => some ⟨0x2b, b, 0, 0, sc.code, a, 2⟩
  | .fill sc b a => some ⟨0x2b, b, 0, 0, sc.code, a, 3⟩
  | .purge a => some ⟨0x2b, 0, 0, 0, 0, a, 4⟩
  | .festat d a => some ⟨0x2b, 0, 0, d, 0, a, 5⟩
  | .waitf sc a => some ⟨0x2b, 0, 0, 0, sc.code, a, 6⟩
  | .trytake sc d b a => some ⟨0x2b, b, 0, d, sc.code, a, 7⟩
  | .amoSwap w d b a => some ⟨0x2c, b, bit w, d, 0, a, 0⟩
  | .amoAdd w d b a => some ⟨0x2c, b, bit w, d, 0, a, 1⟩
  | .amoAnd w d b a => some ⟨0x2c, b, bit w, d, 0, a, 2⟩
  | .amoOr w d b a => some ⟨0x2c, b, bit w, d, 0, a, 3⟩
  | .amoXor w d b a => some ⟨0x2c, b, bit w, d, 0, a, 4⟩
  | .amoMin w d b a => some ⟨0x2c, b, bit w, d, 0, a, 5⟩
  | .amoMax w d b a => some ⟨0x2c, b, bit w, d, 0, a, 6⟩
  | .amoMaxu w d b a => some ⟨0x2c, b, bit w, d, 0, a, 7⟩
  | .amoSwapScoped w sc d b a => some ⟨0x2d, b, bit w, d, sc.code, a, 0⟩
  | .amoAddScoped w sc d b a => some ⟨0x2d, b, bit w, d, sc.code, a, 1⟩
  | .amoAndScoped w sc d b a => some ⟨0x2d, b, bit w, d, sc.code, a, 2⟩
  | .amoOrScoped w sc d b a => some ⟨0x2d, b, bit w, d, sc.code, a, 3⟩
  | .amoXorScoped w sc d b a => some ⟨0x2d, b, bit w, d, sc.code, a, 4⟩
  | .amoMinScoped w sc d b a => some ⟨0x2d, b, bit w, d, sc.code, a, 5⟩
  | .amoMaxScoped w sc d b a => some ⟨0x2d, b, bit w, d, sc.code, a, 6⟩
  | .amoMaxuScoped w sc d b a => some ⟨0x2d, b, bit w, d, sc.code, a, 7⟩
  | .cas w sc d b a => some ⟨0x2e, b, bit w, d, sc.code, a, 0⟩
  | .fenceFull sc => some ⟨0x2f, 0, 0, 0, sc.code, 0, 0⟩
  | .fenceAcq sc => some ⟨0x2f, 0, 0, 0, sc.code, 0, 1⟩
  | .fenceRel sc => some ⟨0x2f, 0, 0, 0, sc.code, 0, 2⟩
  | .fenceSyncwin sc a b => some ⟨0x2f, b, 0, 0, sc.code, a, 3⟩
  | .fenceIfence sc => some ⟨0x2f, 0, 0, 0, sc.code, 0, 4⟩
  | .ill => some ⟨0x00, 0, 0, 0, 0, 0, 0⟩
  | .beq a b i13 => some ⟨0x30, b, i13.extractLsb' 12 1, i13.extractLsb' 6 6, i13.extractLsb' 3 3, a, i13.extractLsb' 0 3⟩
  | .bne a b i13 => some ⟨0x31, b, i13.extractLsb' 12 1, i13.extractLsb' 6 6, i13.extractLsb' 3 3, a, i13.extractLsb' 0 3⟩
  | .blt a b i13 => some ⟨0x32, b, i13.extractLsb' 12 1, i13.extractLsb' 6 6, i13.extractLsb' 3 3, a, i13.extractLsb' 0 3⟩
  | .bge a b i13 => some ⟨0x33, b, i13.extractLsb' 12 1, i13.extractLsb' 6 6, i13.extractLsb' 3 3, a, i13.extractLsb' 0 3⟩
  | .bltu a b i13 => some ⟨0x34, b, i13.extractLsb' 12 1, i13.extractLsb' 6 6, i13.extractLsb' 3 3, a, i13.extractLsb' 0 3⟩
  | .bgeu a b i13 => some ⟨0x35, b, i13.extractLsb' 12 1, i13.extractLsb' 6 6, i13.extractLsb' 3 3, a, i13.extractLsb' 0 3⟩
  | .jal d i19 => some ⟨0x36, i19.extractLsb' 13 6, i19.extractLsb' 12 1, d, i19.extractLsb' 9 3, i19.extractLsb' 3 6, i19.extractLsb' 0 3⟩
  | .jalr d a i13 => some ⟨0x37, i13.extractLsb' 7 6, i13.extractLsb' 6 1, d, i13.extractLsb' 3 3, a, i13.extractLsb' 0 3⟩
  | .bnzd a i13 => some ⟨0x38, 0, i13.extractLsb' 12 1, i13.extractLsb' 6 6, i13.extractLsb' 3 3, a, i13.extractLsb' 0 3⟩
  | .send sc a b l => some ⟨0x3a, b, 0, 0, sc.code, a, l⟩
  | .sendm sc a b l => some ⟨0x3b, b, 0, 0, sc.code, a, l⟩
  | .recv d a => some ⟨0x3c, 0, 0, d, 0, a, 0⟩
  | .tryrecv d a => some ⟨0x3c, 0, 0, d, 0, a, 1⟩
  | .peek d a => some ⟨0x3c, 0, 0, d, 0, a, 2⟩
  | .waitmsg d => some ⟨0x3c, 0, 0, d, 0, 0, 3⟩
  | .spawn d a b => some ⟨0x3e, b, 0, d, 0, a, 0⟩
  | .fork d a b => some ⟨0x3f, b, 0, d, 0, a, 0⟩
  | .join => some ⟨0x3f, 0, 0, 0, 0, 0, 1⟩
  | .exit => some ⟨0x3f, 0, 0, 0, 0, 0, 2⟩
  | .yield => some ⟨0x3f, 0, 0, 0, 0, 0, 3⟩
  | .self d => some ⟨0x3f, 0, 0, d, 0, 0, 4⟩
  | .joinwait d a => some ⟨0x3f, 0, 0, d, 0, a, 5⟩
  | .arriveRlx d a => some ⟨0x40, 0, 0, d, 0, a, 0⟩
  | .arriveRel sc d a => some ⟨0x40, 0, 0, d, sc.code, a, 1⟩
  | .waitph sc a b => some ⟨0x40, b, 0, 0, sc.code, a, 2⟩
  | .arrwait sc d a => some ⟨0x40, 0, 0, d, sc.code, a, 3⟩
  | .solicit sc cm d a b => some ⟨0x41, b, 0, d, sc.code, a, cm.code⟩
  | .cwait d a => some ⟨0x42, 0, 0, d, 0, a, 0⟩
  | .cpoll d a => some ⟨0x42, 0, 0, d, 0, a, 1⟩
  | .cresult d a => some ⟨0x42, 0, 0, d, 0, a, 2⟩
  | .diradd d a b => some ⟨0x43, b, 0, d, 0, a, 0⟩
  | .dirdel d a => some ⟨0x43, 0, 0, d, 0, a, 1⟩
  | .dirmove d a b => some ⟨0x43, b, 0, d, 0, a, 2⟩
  | .dirfind d a => some ⟨0x43, 0, 0, d, 0, a, 3⟩
  | .trset a => some ⟨0x44, 0, 0, 0, 0, a, 0⟩
  | .trclr a => some ⟨0x44, 0, 0, 0, 0, a, 1⟩
  | .tren a b => some ⟨0x44, b, 0, 0, 0, a, 2⟩
  | .mxld mf a => some ⟨0x46, 0, 0, 0, mf.code, a, 0⟩
  | .mxmul mf d a b => some ⟨0x46, b, 0, d, mf.code, a, 1⟩
  | .reply a => some ⟨0x47, 0, 0, 0, 0, a, 0⟩
  | .lease pre lvl d a b => some ⟨0x48, b, 0, d, bit pre ++ lvl, a, 0⟩
  | .release a => some ⟨0x48, 0, 0, 0, 0, a, 1⟩
  | .loadcfg a b => some ⟨0x49, b, 0, 0, 0, a, 0⟩
  | .loadcfgForce a b => some ⟨0x49, b, 0, 0, 0, a, 1⟩
  | .sbind a b => some ⟨0x4a, b, 0, 0, 0, a, 0⟩
  | .sgo a => some ⟨0x4b, 0, 0, 0, 0, a, 0⟩
  | .sbar a => some ⟨0x4c, 0, 0, 0, 0, a, 0⟩
  | .drain a => some ⟨0x4d, 0, 0, 0, 0, a, 0⟩
  | .ckpt a => some ⟨0x4d, 0, 0, 0, 0, a, 1⟩
  | .resume a => some ⟨0x4d, 0, 0, 0, 0, a, 2⟩
  | .trig a b => some ⟨0x4e, b, 0, 0, 0, a, 0⟩
  | .tq a b => some ⟨0x4f, b, 0, 0, 0, a, 0⟩
  | .vcfg a => some ⟨0x50, 0, 0, 0, 0, a, 0⟩
  | .vrun d a b => some ⟨0x51, b, 0, d, 0, a, 0⟩
  | .vseq a b => some ⟨0x52, b, 0, 0, 0, a, 0⟩
  | .vlds a b => some ⟨0x53, b, 0, 0, 0, a, 0⟩
  | .vsts a b => some ⟨0x53, b, 0, 0, 0, a, 1⟩
  | .vredSum f d a => some ⟨0x54, 0, 0, d, f.code, a, 0⟩
  | .vredMin f d a => some ⟨0x54, 0, 0, d, f.code, a, 1⟩
  | .vredMax f d a => some ⟨0x54, 0, 0, d, f.code, a, 2⟩
  | .baddq tw d a b => some ⟨0x55, b, 0, d, tw.code, a, 0⟩
  | .qtw tw d a b => some ⟨0x56, b, 0, d, tw.code, a, 0⟩
  | .dqtw tw d a b => some ⟨0x56, b, 0, d, tw.code, a, 1⟩
  | .cparm a b => some ⟨0x58, b, 0, 0, 0, a, 0⟩
  | .cpdisarm a => some ⟨0x59, 0, 0, 0, 0, a, 0⟩
  | .hqpush a b => some ⟨0x5a, b, 0, 0, 0, a, 0⟩
  | .sysr d n12 => some ⟨0x5c, 0#1 ++ n12.extractLsb' 7 5, n12.extractLsb' 6 1, d, n12.extractLsb' 3 3, 0, n12.extractLsb' 0 3⟩
  | .sysw n12 a => some ⟨0x5c, 1#1 ++ n12.extractLsb' 7 5, n12.extractLsb' 6 1, 0, n12.extractLsb' 3 3, a, n12.extractLsb' 0 3⟩
  | .trap a => some ⟨0x5d, 0, 0, 0, 0, a, 0⟩
  | .eret a => some ⟨0x5d, 0, 0, 0, 0, a, 1⟩
  | .wfi a => some ⟨0x5d, 0, 0, 0, 0, a, 2⟩
  | .spill a b => some ⟨0x5e, b, 0, 0, 0, a, 0⟩
  | .fillslot d a => some ⟨0x5e, 0, 0, d, 0, a, 1⟩
  | .slotregR d a b => some ⟨0x5f, b, 0, d, 0, a, 0⟩
  | .slotregW d a b => some ⟨0x5f, b, 0, d, 0, a, 1⟩
  | .tlbinv => some ⟨0x60, 0, 0, 0, 0, 0, 0⟩
  | .tlbinvAsid a => some ⟨0x60, 0, 0, 0, 0, a, 1⟩
  | .tlbinvPage a b => some ⟨0x60, b, 0, 0, 0, a, 2⟩
  | .halt => some ⟨0x62, 0, 0, 0, 0, 0, 0⟩
  | .draftget d a b => some ⟨0x63, b, 0, d, 0, a, 0⟩
  | .draftpin d => some ⟨0x63, 0, 0, d, 0, 0, 1⟩
  | .draftunpin a => some ⟨0x63, 0, 0, 0, 0, a, 2⟩
  | .heddleRep d a b => some ⟨0x64, b, 0, d, 0, a, 0⟩
  | .heddleRet d a b => some ⟨0x64, b, 0, d, 0, a, 1⟩
  | .heddlePub d a b => some ⟨0x64, b, 0, d, 0, a, 2⟩
  | .heddleSw a => some ⟨0x64, 0, 0, 0, 0, a, 3⟩
  | .heddleRd d a => some ⟨0x64, 0, 0, d, 0, a, 4⟩
  | .route d a b => some ⟨0x66, b, 0, d, 0, a, 0⟩
  | .routeEsc d a b => some ⟨0x66, b, 0, d, 0, a, 1⟩
  | _ => none

/-- The fields of a graph-form instruction: none for a thread-form instruction or an event. -/
def graphFields : Instr → Option GFields
  | .elementwiseNode o t u => some ⟨o.code.1, 0, o.code.2, t.code, u.code⟩
  | .graphLoadNode o t u => some ⟨o.code, 0, 0, t.code, u.code⟩
  | .graphStoreNode o t u => some ⟨o.code, 0, 0, t.code, u.code⟩
  | .graphFeNode x o t u => some ⟨0x2b, 0, x.code ++ o.code, t.code, u.code⟩
  | .steerT t u => some ⟨0x68, 0, 0, t.code, u.code⟩
  | .steerF t u => some ⟨0x68, 1, 0, t.code, u.code⟩
  | .mergeP t u => some ⟨0x69, 0, 0, t.code, u.code⟩
  | .mergeA t u => some ⟨0x69, 1, 0, t.code, u.code⟩
  | .carry k t u => some ⟨0x6a, 0, k, t.code, u.code⟩
  | .inv t u => some ⟨0x6b, 0, 0, t.code, u.code⟩
  | .const k t u => some ⟨0x6c, 0, k, t.code, u.code⟩
  | .constC k t u => some ⟨0x6c, 1, k, t.code, u.code⟩
  | .gate t u => some ⟨0x6d, 0, 0, t.code, u.code⟩
  | .rowctlStrip t u => some ⟨0x6e, 0, 0, t.code, u.code⟩
  | .rowctlSplit t u => some ⟨0x6e, 0, 1, t.code, u.code⟩
  | .rowctlEor t u => some ⟨0x6e, 0, 2, t.code, u.code⟩
  | .rowctlEog t u => some ⟨0x6e, 0, 3, t.code, u.code⟩
  | .rowctlEos t u => some ⟨0x6e, 0, 4, t.code, u.code⟩
  | .widen sc t u => some ⟨0x6f, 0, sc.code ++ 0#3, t.code, u.code⟩
  | .mma q mf m t u => some ⟨0x70, bit q, mf.code ++ m, t.code, u.code⟩
  | .bload mf m t u => some ⟨0x71, 0, mf.code ++ m, t.code, u.code⟩
  | .accRd m t u => some ⟨0x72, 0, 0#3 ++ m, t.code, u.code⟩
  | .accRdclr m t u => some ⟨0x72, 0, 1#3 ++ m, t.code, u.code⟩
  | .accClr m t u => some ⟨0x72, 0, 2#3 ++ m, t.code, u.code⟩
  | .rmax fb f t u => some ⟨0x73, bit fb, f.code ++ 0#3, t.code, u.code⟩
  | .escOrd k t u => some ⟨0x74, 0, k, t.code, u.code⟩
  | .escUnord k t u => some ⟨0x74, 1, k, t.code, u.code⟩
  | .delay k t u => some ⟨0x75, 0, k, t.code, u.code⟩
  | .race n t u => some ⟨0x76, 0, n, t.code, u.code⟩
  | .frame k t u => some ⟨0x77, 0, k, t.code, u.code⟩
  | .unframe k t u => some ⟨0x78, 0, k, t.code, u.code⟩
  | .upd o t u => some ⟨0x79, 0, o.code, t.code, u.code⟩
  | .cntD t u => some ⟨0x7a, 0, 0, t.code, u.code⟩
  | .cntR t u => some ⟨0x7a, 1, 0, t.code, u.code⟩
  | .lredSum m t u => some ⟨0x7b, 0, 0#3 ++ m, t.code, u.code⟩
  | .lredMax m t u => some ⟨0x7b, 0, 1#3 ++ m, t.code, u.code⟩
  | .lredMin m t u => some ⟨0x7b, 0, 2#3 ++ m, t.code, u.code⟩
  | .scale t u => some ⟨0x7c, 0, 0, t.code, u.code⟩
  | .explk k t u => some ⟨0x7d, 0, k, t.code, u.code⟩
  | _ => none

/-- A thread-form word from its fields. -/
def Fields.word (x : Fields) : Inst := x.op ++ x.b ++ x.s ++ x.d ++ x.f ++ x.a ++ x.g

/-- A graph-form word from its fields. -/
def GFields.word (x : GFields) : Inst := x.op ++ x.flag ++ x.x ++ x.ta ++ x.tb

/-- The word of an instruction; none for an event. -/
def encode (i : Instr) : Option Inst :=
  match threadFields i with
  | some x => some x.word
  | none => (graphFields i).map GFields.word

/-- A block header's word (Table 6-4). -/
def Header.word (h : Header) : Inst :=
  let kind : BitVec 2 := match h.kind with | .graph => 0 | .thread => 1 | .micro => 2
  0x7f#7 ++ kind ++ h.count ++ h.nconst ++ bit h.scopeK ++ 0#10

end Sys2Proof
end

