-- ==== Sys2Proof/Machine/Numbers.lean ====
section
/-!
DEFINITION. Number formats and arithmetic (03 R84 to R107): values are exact, and a result is rounded once, in one of the
five modes of Table 3-5.
-/

namespace Sys2Proof.Machine

/-! Formats -/

/-- The format codes of Table 3-1. -/
inductive Fmt where
  | int8 | int16 | int32 | int64 | fp64 | fp32 | fp16 | bf16 | e4m3 | e5m2 | tw3 | tw6 | tw8
  deriving DecidableEq, Repr

/-- A format code of four bits (Table 3-1); none for a reserved code. -/
def fmtOf (c : BitVec 4) : Option Fmt :=
  match c.toNat with
  | 0 => some .int8 | 1 => some .int16 | 2 => some .int32 | 3 => some .int64 | 4 => some .fp64 | 5 => some .fp32
  | 6 => some .fp16 | 7 => some .bf16 | 8 => some .e4m3 | 9 => some .e5m2 | 10 => some .tw3 | 11 => some .tw6
  | 12 => some .tw8
  | _ => none

/-- The element width in bits (Table 3-1). -/
def Fmt.width : Fmt → Nat
  | .int8 => 8 | .int16 => 16 | .int32 => 32 | .int64 => 64 | .fp64 => 64 | .fp32 => 32 | .fp16 => 16 | .bf16 => 16
  | .e4m3 => 8 | .e5m2 => 8 | .tw3 => 3 | .tw6 => 6 | .tw8 => 8

/-- The width of a twill format's magnitude (R93); 0 for another format. -/
def Fmt.mag : Fmt → Nat
  | .tw3 => 2 | .tw6 => 5 | .tw8 => 7 | _ => 0

def Fmt.isTwill (f : Fmt) : Bool := f.mag != 0

def Fmt.isInt (f : Fmt) : Bool := f == .int8 || f == .int16 || f == .int32 || f == .int64

/-- The format an FMT3 field of thread form names; its twill code is replaced by the PE's format. -/
def fmt3Fmt (pe : Fmt) : Fmt3 → Fmt
  | .f64 => .fp64 | .f32 => .fp32 | .f16 => .fp16 | .bf16 => .bf16 | .e4m3 => .e4m3 | .e5m2 => .e5m2 | .tw => pe

/-- The layout of a binary floating-point format: exponent bits, fraction bits and bias (Table 3-2, R90, R91). -/
structure Layout where
  ebits : Nat
  fbits : Nat
  bias : Nat
  /-- E4M3: no infinities. -/
  noInf : Bool := false
  deriving DecidableEq, Repr

/-- The layout of a format; FP32's for a format that is not binary floating point. -/
def Fmt.layout : Fmt → Layout
  | .fp64 => ⟨11, 52, 1023, false⟩
  | .fp16 => ⟨5, 10, 15, false⟩
  | .bf16 => ⟨8, 7, 127, false⟩
  | .e4m3 => ⟨4, 3, 7, true⟩
  | .e5m2 => ⟨5, 2, 15, false⟩
  | _ => ⟨8, 23, 127, false⟩

/-- Whether operations go through an FP32 step (R107, R213). -/
def Fmt.isFp8 (f : Fmt) : Bool := f == .e4m3 || f == .e5m2

/-! Values -/

/-- The value of an encoding (R87, R90). -/
def decodeFp (l : Layout) (v : Word) : FVal :=
  let n := v.toNat
  let frac := n % 2 ^ l.fbits
  let ex := n / 2 ^ l.fbits % 2 ^ l.ebits
  let neg := v.getLsbD (l.fbits + l.ebits)
  let top := ex == 2 ^ l.ebits - 1
  if l.noInf && top && frac == 2 ^ l.fbits - 1 then .nan false
  else if !l.noInf && top then
    if frac == 0 then .inf neg else .nan (frac < 2 ^ (l.fbits - 1))
  else if ex == 0 then .fin neg frac (1 - (l.bias : Int) - l.fbits)
  else .fin neg (2 ^ l.fbits + frac) ((ex : Int) - l.bias - l.fbits)

/-- The sign bit of a format. -/
def signBit (l : Layout) (neg : Bool) : Nat := if neg then 2 ^ (l.fbits + l.ebits) else 0

/-- The canonical NaN (R89). -/
def canonNan (l : Layout) : Word :=
  if l.noInf then BitVec.ofNat 64 (2 ^ (l.fbits + l.ebits) - 1)
  else BitVec.ofNat 64 ((2 ^ l.ebits - 1) * 2 ^ l.fbits + 2 ^ (l.fbits - 1))

/-- The largest finite magnitude as an encoding. -/
def maxFinite (l : Layout) : Nat :=
  if l.noInf then 2 ^ (l.fbits + l.ebits) - 2 else (2 ^ l.ebits - 1) * 2 ^ l.fbits - 1

/-- The encoding of an infinity. -/
def infinity (l : Layout) : Nat := (2 ^ l.ebits - 1) * 2 ^ l.fbits

/-! Flags -/

/-- The flags of Table 3-6. -/
abbrev FpFlags := BitVec 5
def flagNX : FpFlags := 1
def flagUF : FpFlags := 2
def flagOF : FpFlags := 4
def flagDZ : FpFlags := 8
def flagNV : FpFlags := 16

/-- A flag when a condition holds. -/
def flagIf (b : Bool) (f : FpFlags) : FpFlags := if b then f else 0

/-! Rounding (R98 to R102) -/

/-- The rounding modes (Table 3-4). -/
inductive RMode where
  | rne | rtz | rdn | rup | sr
  deriving DecidableEq, Repr

/-- The mode of an RM field; none for a reserved value. -/
def rmode (v : BitVec 3) : Option RMode :=
  match v.toNat with
  | 0 => some .rne | 1 => some .rtz | 2 => some .rdn | 3 => some .rup | 4 => some .sr
  | _ => none

/-- One step of the stochastic-rounding LFSR (R99). -/
def lfsrStep (st : BitVec 32) : BitVec 32 :=
  if st.getLsbD 0 then (st >>> 1) ^^^ 0x80200003 else st >>> 1

/-- A mode with the stepped LFSR state that SR draws on. -/
structure Rounding where
  mode : RMode
  draw : Nat := 0

/-- The whole magnitude that num ÷ den rounds to (Tables 3-5, R100). -/
def roundNat (r : Rounding) (neg : Bool) (num den : Nat) : Nat :=
  let fl := num / den
  let rem := num % den
  let up := match r.mode with
    | .rne => den < 2 * rem || (2 * rem == den && fl % 2 == 1)
    | .rtz => false
    | .rdn => neg && rem != 0
    | .rup => !neg && rem != 0
    | .sr => 2 ^ 32 ≤ rem * 2 ^ 32 / den + r.draw
  if up then fl + 1 else fl

/-- num ÷ den × 2^k as a fraction of naturals. -/
def scaleFrac (num den : Nat) (k : Int) : Nat × Nat :=
  if 0 ≤ k then (num * 2 ^ k.toNat, den) else (num, den * 2 ^ (-k).toNat)

/-- floor(log2 (num ÷ den)) for positive num and den. -/
def log2Frac (num den : Nat) : Int :=
  let l : Int := (Nat.log2 num : Int) - Nat.log2 den
  let p := scaleFrac num den (-l)
  if p.1 < p.2 then l - 1 else l

/-- What an overflowing magnitude becomes (Table 3-5). -/
def overflowTo (l : Layout) (r : Rounding) (neg : Bool) : Nat :=
  let toInf := match r.mode with
    | .rne | .sr => true
    | .rtz => false
    | .rdn => neg
    | .rup => !neg
  if toInf && !l.noInf then infinity l else maxFinite l

/-- Rounds the positive magnitude num ÷ den × 2^e into a format: the encoding and the flags (R98, R101, R102). -/
def roundFp (l : Layout) (r : Rounding) (neg : Bool) (num den : Nat) (e : Int) : Word × FpFlags :=
  if num = 0 then (BitVec.ofNat 64 (signBit l neg), 0)
  else
    let lg := log2Frac num den + e
    let least : Int := 1 - (l.bias : Int) - l.fbits
    let qe := max (lg - l.fbits) least
    let p := scaleFrac num den (e - qe)
    let m := roundNat r neg p.1 p.2
    let inexact := m * p.2 != p.1
    let mag := ((qe - least + 1).toNat) * 2 ^ l.fbits + m - 2 ^ l.fbits
    if maxFinite l < mag then
      (BitVec.ofNat 64 (signBit l neg + overflowTo l r neg), flagOF ||| flagNX)
    else
      let u := scaleFrac num den (e - (lg - l.fbits))
      let mu := roundNat r neg u.1 u.2
      let tiny := lg < 1 - (l.bias : Int) && !(lg = -(l.bias : Int) && mu == 2 ^ (l.fbits + 1))
      (BitVec.ofNat 64 (signBit l neg + mag), flagIf inexact flagNX ||| flagIf (tiny && inexact) flagUF)

/-! Exact results -/

/-- An exact result before rounding: (−1)^neg × num ÷ den × 2^e. -/
inductive Exact where
  | nan (nv : Bool)
  | inf (neg : Bool) (flags : FpFlags)
  | num (neg : Bool) (n d : Nat) (e : Int)

/-- Writes an exact result into a format (R89, R98, Table 3-8). -/
def Exact.into (x : Exact) (l : Layout) (r : Rounding) : Word × FpFlags :=
  match x with
  | .nan nv => (canonNan l, flagIf nv flagNV)
  | .inf neg fl =>
    if l.noInf then (canonNan l, fl ||| flagNV) else (BitVec.ofNat 64 (signBit l neg + infinity l), fl)
  | .num neg n d e => roundFp l r neg n d e

/-- Whether an operand is a signalling NaN. -/
def FVal.isSnan : FVal → Bool
  | .nan s => s
  | _ => false

def FVal.isNan : FVal → Bool
  | .nan _ => true
  | _ => false

/-- The value with its sign turned. -/
def FVal.neg : FVal → FVal
  | .nan s => .nan s
  | .inf n => .inf !n
  | .fin n m e => .fin (!n) m e

/-- m × 2^e as a whole number of units 2^k, for k at most e. -/
def unitsOf (neg : Bool) (m : Nat) (e k : Int) : Int :=
  let v : Int := (m * 2 ^ (e - k).toNat : Nat)
  if neg then -v else v

/-- A sum of whole units; an exactly zero sum is +0, or −0 when rounding down (R214). -/
def sumUnits (r : Rounding) (v : Int) (k : Int) : Exact :=
  if v = 0 then .num (r.mode == .rdn) 0 1 0 else .num (v < 0) v.natAbs 1 k

/-- a + b (Table 7-5). -/
def exactAdd (r : Rounding) (a b : FVal) : Exact :=
  match a, b with
  | .nan s, y => .nan (s || y.isSnan)
  | _, .nan s => .nan s
  | .inf m, .inf n => if m = n then .inf m 0 else .nan true
  | .inf m, _ => .inf m 0
  | _, .inf n => .inf n 0
  | .fin m x e, .fin n y f =>
    if x = 0 && y = 0 && m = n then .num m 0 1 0
    else
      let k := min e f
      sumUnits r (unitsOf m x e k + unitsOf n y f k) k

/-- a × b (Table 7-5). -/
def exactMul (a b : FVal) : Exact :=
  match a, b with
  | .nan s, y => .nan (s || y.isSnan)
  | _, .nan s => .nan s
  | .inf m, .inf n => .inf (m != n) 0
  | .inf m, .fin n y _ => if y = 0 then .nan true else .inf (m != n) 0
  | .fin m x _, .inf n => if x = 0 then .nan true else .inf (m != n) 0
  | .fin m x e, .fin n y f => .num (m != n) (x * y) 1 (e + f)

/-- a ÷ b (Table 7-5). -/
def exactDiv (a b : FVal) : Exact :=
  match a, b with
  | .nan s, y => .nan (s || y.isSnan)
  | _, .nan s => .nan s
  | .inf _, .inf _ => .nan true
  | .inf m, .fin n _ _ => .inf (m != n) 0
  | .fin m _ _, .inf n => .num (m != n) 0 1 0
  | .fin m x e, .fin n y f =>
    if y = 0 then (if x = 0 then .nan true else .inf (m != n) flagDZ)
    else .num (m != n) x y (e - f)

/-- The whole square root by bits, from bit n − 1 down. -/
def sqrtBits : Nat → Nat → Nat → Nat
  | 0, _, acc => acc
  | n + 1, v, acc =>
    let t := acc + 2 ^ n
    sqrtBits n v (if t * t ≤ v then t else acc)

/-- √a, as a fraction with more than 200 bits and a half unit beyond them when it is not exact (Table 7-5). -/
def exactSqrt (a : FVal) : Exact :=
  match a with
  | .nan s => .nan s
  | .inf n => if n then .nan true else .inf false 0
  | .fin n m e =>
    if m = 0 then .num n 0 1 0
    else if n then .nan true
    else
      let odd := e % 2 != 0
      let v := m * 2 ^ (if odd then 401 else 400)
      let h := (e - (if odd then 1 else 0)) / 2 - 200
      let q := sqrtBits 260 v 0
      if q * q = v then .num false q 1 h else .num false (2 * q + 1) 2 h

/-- a × b + c with c's sign as given (Table 7-6); 0 × ∞ is invalid even beside a quiet NaN (R215). -/
def exactFma (r : Rounding) (a b c : FVal) : Exact :=
  let invalid := match a, b with
    | .inf _, .fin _ y _ => y == 0
    | .fin _ x _, .inf _ => x == 0
    | _, _ => false
  if invalid then .nan true
  else if a.isNan || b.isNan || c.isNan then .nan (a.isSnan || b.isSnan || c.isSnan)
  else
    match exactMul a b with
    | .nan nv => .nan nv
    | .inf m _ => match c with
      | .inf n => if m = n then .inf m 0 else .nan true
      | _ => .inf m 0
    | .num m x _ e => exactAdd r (.fin m x e) c

/-! Operations of thread and graph form -/

/-- A rounded operation in a format of IEEE kind, or by the FP32 step of R107 in an FP8 format. -/
def viaStep (f : Fmt) (r : Rounding) (op : Rounding → Exact) : Word × FpFlags :=
  if f.isFp8 then
    let w := (op ⟨.rne, 0⟩).into Fmt.fp32.layout ⟨.rne, 0⟩
    let x : Exact := match decodeFp Fmt.fp32.layout w.1 with
      | .nan _ => .nan false
      | .inf n => .inf n 0
      | .fin n m e => .num n m 1 e
    let y := x.into f.layout r
    (y.1, w.2 ||| y.2)
  else (op r).into f.layout r

/-- Whether a is below b, with −0 below +0; neither is a NaN. -/
def FVal.below (a b : FVal) : Bool :=
  match a, b with
  | .inf m, .inf n => m && !n
  | .inf m, _ => m
  | _, .inf n => !n
  | .fin m x e, .fin n y f =>
    if x = 0 && y = 0 then m && !n
    else
      let k := min e f
      unitsOf m x e k < unitsOf n y f k
  | _, _ => false

/-- Whether a and b are equal numbers; −0 and +0 are (R216). -/
def FVal.equal (a b : FVal) : Bool :=
  match a, b with
  | .inf m, .inf n => m == n
  | .fin m x e, .fin n y f => let k := min e f; unitsOf m x e k == unitsOf n y f k
  | _, _ => false

/-- fmin and fmax: the chosen operand unchanged, the other operand beside a NaN (R214). -/
def fpMinMax (f : Fmt) (isMax : Bool) (a b : Word) : Word × FpFlags :=
  let l := f.layout
  let x := decodeFp l a
  let y := decodeFp l b
  let fl := flagIf (x.isSnan || y.isSnan) flagNV
  let mask : Word := BitVec.ofNat 64 (2 ^ f.width - 1)
  if x.isNan && y.isNan then (canonNan l, fl)
  else if x.isNan then (b &&& mask, fl)
  else if y.isNan then (a &&& mask, fl)
  else if isMax then ((if x.below y then b else a) &&& mask, fl)
  else ((if y.below x then b else a) &&& mask, fl)

/-- FP arithmetic in a format (R213, R214). -/
def fpOp (f : Fmt) (r : Rounding) (o : FpOp) (a b : Word) : Word × FpFlags :=
  let x := decodeFp f.layout a
  let y := decodeFp f.layout b
  match o with
  | .fadd => viaStep f r fun r => exactAdd r x y
  | .fsub => viaStep f r fun r => exactAdd r x y.neg
  | .fmul => viaStep f r fun _ => exactMul x y
  | .fdiv => viaStep f r fun _ => exactDiv x y
  | .fmin => fpMinMax f false a b
  | .fmax => fpMinMax f true a b
  | .fsqrt => viaStep f r fun _ => exactSqrt x

/-- The fused multiply-add family (R215). -/
def fmaOp (f : Fmt) (r : Rounding) (o : FmaOp) (a b c : Word) : Word × FpFlags :=
  let x := decodeFp f.layout a
  let y := decodeFp f.layout b
  let z := decodeFp f.layout c
  match o with
  | .fma => viaStep f r fun r => exactFma r x y z
  | .fms => viaStep f r fun r => exactFma r x y z.neg
  | .fnma => viaStep f r fun r => exactFma r x.neg y z.neg
  | .fnms => viaStep f r fun r => exactFma r x.neg y z

/-- The comparison of two values (Table 7-7): the truth value and the flags. -/
def cmpVals (o : CmpOp) (x y : FVal) : Bool × FpFlags :=
  let anyNan := x.isNan || y.isNan
  let snan := flagIf (x.isSnan || y.isSnan) flagNV
  match o with
  | .feq => (!anyNan && x.equal y, snan)
  | .flt => (!anyNan && x.below y && !x.equal y, flagIf anyNan flagNV)
  | .fle => (!anyNan && (x.below y || x.equal y), flagIf anyNan flagNV)
  | .funord => (anyNan, snan)

/-- A comparison in a format (R216). -/
def cmpOp (f : Fmt) (o : CmpOp) (a b : Word) : Word × FpFlags :=
  let r := cmpVals o (decodeFp f.layout a) (decodeFp f.layout b)
  (if r.1 then 1 else 0, r.2)

/-- The exact value of an operand as a result to be rounded; a signalling NaN is invalid. -/
def FVal.exact : FVal → Exact
  | .nan s => .nan s
  | .inf n => .inf n 0
  | .fin n m e => .num n m 1 e

/-- FCVT between two floating-point formats (R217, Table 3-8). -/
def fcvtOp (dst src : Fmt) (r : Rounding) (a : Word) : Word × FpFlags :=
  (decodeFp src.layout a).exact.into dst.layout r

/-- A value's class (Table 7-8): smallest is the exponent of the smallest normal of the format. -/
def classOf (smallest : Int) (x : FVal) : Nat :=
  match x with
  | .nan s => if s then 8 else 9
  | .inf n => if n then 0 else 7
  | .fin n m e =>
    if m = 0 then (if n then 3 else 4)
    else
      let sub := (Nat.log2 m : Int) + e < smallest
      if n then (if sub then 2 else 1) else (if sub then 5 else 6)

/-- FCLASS (R218). -/
def fclassOp (f : Fmt) (a : Word) : Word :=
  1#64 <<< classOf (1 - (f.layout.bias : Int)) (decodeFp f.layout a)

/-- Float to a signed integer of n bits (R219, Table 3-8). -/
def toIntOp (n : Nat) (r : Rounding) (x : FVal) : Word × FpFlags :=
  let lo : Int := -(2 ^ (n - 1) : Int)
  let hi : Int := 2 ^ (n - 1) - 1
  let put := fun (v : Int) => BitVec.ofNat 64 (BitVec.ofInt n v).toNat
  match x with
  | .nan _ => (0, flagNV)
  | .inf s => (put (if s then lo else hi), flagNV)
  | .fin s m e =>
    let p := scaleFrac m 1 e
    let q := roundNat r s p.1 p.2
    let v : Int := if s then -(q : Int) else q
    if v < lo then (put lo, flagNV)
    else if hi < v then (put hi, flagNV)
    else (put v, flagIf (q * p.2 != p.1) flagNX)

/-- INT64 to float (R219, Table 3-8). -/
def fromIntOp (f : Fmt) (r : Rounding) (v : Int) : Word × FpFlags :=
  (Exact.num (v < 0) v.natAbs 1 0).into f.layout r

/-- The width of an ICVT integer format. -/
def intFmtWidth : IntFmt → Nat
  | .i64 => 64 | .i32 => 32 | .i16 => 16 | .i8 => 8

/-! Twill (R92 to R96, R105, R106) -/

/-- The value of a twill element under its scale token: NaN in a void block (R94, R95). -/
def twillVal (m : Nat) (scale : BitVec 16) (j : Nat) (elem : Word) : FVal :=
  let e := (scale.extractLsb' 8 8).toNat
  let mag := elem.toNat % 2 ^ m
  if e = 255 then .nan false
  else .fin (elem.getLsbD m) mag ((e : Int) - 127 - (if scale.getLsbD (j / 2) then 1 else 0) - (m - 1 : Nat))

/-- |a| as a fraction; 0 for a value that is not finite. -/
def absFrac : FVal → Nat × Nat
  | .fin _ m e => scaleFrac m 1 e
  | _ => (0, 1)

/-- Whether one fraction is below another. -/
def fracLt (p q : Nat × Nat) : Bool := p.1 * q.2 < q.1 * p.2

/-- The sign bit of a value. -/
def FVal.sign : FVal → Bool
  | .nan _ => false
  | .inf n => n
  | .fin n _ _ => n

/-- The rounded magnitudes of a block's elements, one LFSR step each under SR (R105). -/
def twillElems (m : Nat) (mode : RMode) (e : Nat) (micro : Nat → Bool) :
    List (FVal × Nat) → BitVec 32 → List Word → FpFlags → List Word × FpFlags × BitVec 32
  | [], st, acc, fl => (acc, fl, st)
  | (a, j) :: rest, st, acc, fl =>
    let st := if mode == .sr then lfsrStep st else st
    let p := absFrac a
    let k : Int := (m - 1 : Nat) - ((e : Int) - 127 - (if micro j then 1 else 0))
    let q := scaleFrac p.1 p.2 k
    let r := roundNat ⟨mode, st.toNat⟩ a.sign q.1 q.2
    let r := min r (2 ^ m - 1)
    let w := BitVec.ofNat 64 (r + (if a.sign then 2 ^ m else 0))
    twillElems m mode e micro rest st (acc ++ [w]) (fl ||| flagIf (r * q.2 != q.1) flagNX)

/-- Quantise (R105): the scale token, the sixteen elements, the flags, and the LFSR after its steps. The steps are those of the
pseudocode, one for each element it rounds: in a twill PE a void, zero or flushed block takes none and a block of FMIN or FMAX
results takes sixteen, where R213 speaks of one for each result of an instruction (DEDUCED, log entry 88). -/
def quantise (m : Nat) (mode : RMode) (st : BitVec 32) (a : List FVal) :
    BitVec 16 × List Word × FpFlags × BitVec 32 :=
  let zeros := List.replicate 16 (0 : Word)
  let finite := fun (v : FVal) => match v with | .fin _ _ _ => true | _ => false
  if !a.all finite then (0xff00, zeros, flagNV, st)
  else
    let amax := (a.map absFrac).foldl (fun p q => if fracLt p q then q else p) (0, 1)
    if amax.1 = 0 then (0, zeros, 0, st)
    else
      let e := log2Frac amax.1 amax.2 + 127
      if e < 0 then (0, zeros, flagUF ||| flagNX, st)
      else
        let ee := (min e 254).toNat
        let half := scaleFrac 1 1 ((ee : Int) - 127)
        let micro := fun (j : Nat) =>
          let x := absFrac (a.getD (j / 2 * 2) (.nan false))
          let y := absFrac (a.getD (j / 2 * 2 + 1) (.nan false))
          fracLt x half && fracLt y half
        let r := twillElems m mode ee micro a.zipIdx st [] (flagIf (254 < e) (flagOF ||| flagNX))
        let bits := (List.range 8).foldl (fun v i => if micro (2 * i) then v + 2 ^ i else v) 0
        (BitVec.ofNat 16 (ee * 256 + bits), r)

/-- Integers of a PE (R207): a result saturated to INTw, with NV when it saturates. -/
def saturate (w : Nat) (v : Int) : Word × FpFlags :=
  let lo : Int := -(2 ^ (w - 1) : Int)
  let hi : Int := 2 ^ (w - 1) - 1
  let put := fun (v : Int) => BitVec.ofNat 64 (BitVec.ofInt w v).toNat
  if v < lo then (put lo, flagNV) else if hi < v then (put hi, flagNV) else (put v, 0)

end Sys2Proof.Machine
end

