-- ==== Sys2Proof/Machine/Sfu.lean ====
section
/-!
DEFINITION. The functions of the SFU (07 R220, Table 7-9): FP16 and BF16 results are the exact value rounded once; an
FP32 result is a free value held to the bound of the table (log entry 11). Values are formed in fixed point of 512
fraction bits, far beyond what any rounding of these formats distinguishes.
-/

namespace Sys2Proof.Machine

/-- π × 2^512, rounded down. -/
def piFixed : Int := 
  0x3243f6a8885a308d313198a2e03707344a4093822299f31d0082efa98ec4e6c89452821e638d01377be5466cf34e90c6cc0ac29b7c97c50dd3f84d5b5b5470917

/-- ln 2 × 2^512, rounded down. -/
def ln2Fixed : Int := 
  0xb17217f7d1cf79abc9e3b39803f2f6af40f343267298b62d8a0d175b8baafa2be7b876206debac98559552fb4afa1b10ed2eae35c138214427573b291169b825

/-- 1.0 in fixed point. -/
def oneFixed : Int := 2 ^ 512

/-- The product of two fixed-point values. -/
def mulFixed (a b : Int) : Int := a * b / oneFixed

/-- m × 2^e in fixed point. -/
def toFixed (m : Int) (e : Int) : Int :=
  if -512 ≤ e then m * 2 ^ (e + 512).toNat else m / 2 ^ (-512 - e).toNat

/-- n terms of Σ t^k ÷ k! from term k on. -/
def expTerms (t : Int) : Nat → Nat → Int → Int → Int
  | 0, _, _, acc => acc
  | n + 1, k, term, acc => expTerms t n (k + 1) (mulFixed term t / (k + 1 : Nat)) (acc + term)

/-- e^t for 0 ≤ t < 1. -/
def expFixed (t : Int) : Int := expTerms t 110 0 oneFixed 0

/-- n terms of Σ z^k ÷ k over odd k from k on. -/
def atanhTerms (z2 : Int) : Nat → Nat → Int → Int → Int
  | 0, _, _, acc => acc
  | n + 1, k, pow, acc => atanhTerms z2 n (k + 2) (mulFixed pow z2) (acc + pow / (k : Nat))

/-- ln y for 1 ≤ y < 2. -/
def lnFixed (y : Int) : Int :=
  let z := (y - oneFixed) * oneFixed / (y + oneFixed)
  2 * atanhTerms (mulFixed z z) 170 1 z 0

/-- n terms of the series of sine (from k = 1) or cosine (from k = 0). -/
def sinTerms (x2 : Int) : Nat → Nat → Int → Int → Int
  | 0, _, _, acc => acc
  | n + 1, k, term, acc => sinTerms x2 n (k + 2) (-(mulFixed term x2) / ((k + 1) * (k + 2) : Nat)) (acc + term)

def sinFixed (x : Int) : Int := sinTerms (mulFixed x x) 60 1 x 0
def cosFixed (x : Int) : Int := sinTerms (mulFixed x x) 60 0 oneFixed 0

/-- An inexact fixed-point value as a result to be rounded: a half unit stands for what lies beyond. -/
def fixedExact (v : Int) : Exact := .num (v < 0) (2 * v.natAbs + 1) 1 (-513)

/-- 2^x for a finite x. -/
def sfuExp2 (neg : Bool) (m : Nat) (e : Int) : Exact :=
  let big := 0 < m && 12 ≤ (Nat.log2 m : Int) + e
  if big then .num false 1 1 (if neg then -4096 else 4096)
  else if 0 ≤ e then
    let k : Int := (m * 2 ^ e.toNat : Nat)
    .num false 1 1 (if neg then -k else k)
  else
    let x := toFixed (if neg then -(m : Int) else m) e
    let n := x / oneFixed
    if m % 2 ^ (-e).toNat = 0 then .num false 1 1 n
    else .num false (2 * (expFixed (mulFixed (x - n * oneFixed) ln2Fixed)).natAbs + 1) 1 (n - 513)

/-- log2 x for a positive x. -/
def sfuLog2 (m : Nat) (e : Int) : Exact :=
  let l := Nat.log2 m
  let k := (l : Int) + e
  if m = 2 ^ l then .num (k < 0) k.natAbs 1 0
  else fixedExact (k * oneFixed + lnFixed (toFixed m (-(l : Int))) * oneFixed / ln2Fixed)

/-- sin x or cos x for a finite x that is not zero. -/
def sfuSinCos (cosine : Bool) (neg : Bool) (m : Nat) (e : Int) : Exact :=
  let x := toFixed m e
  let half := piFixed / 2
  let q := (2 * x + half) / (2 * half)
  let r := x - q * half
  let quad := ((if cosine then q + 1 else q) % 4).toNat
  let v := match quad with
    | 0 => sinFixed r
    | 1 => cosFixed r
    | 2 => -sinFixed r
    | _ => -cosFixed r
  fixedExact (if neg && !cosine then -v else v)

/-- tanh x for a finite x that is not zero. -/
def sfuTanh (neg : Bool) (m : Nat) (e : Int) : Exact :=
  let big := 8 ≤ (Nat.log2 m : Int) + e
  if big then .num neg (2 ^ 300 - 1) 1 (-300)
  else
    let x2 := toFixed (2 * m) e
    let n := (x2 / ln2Fixed).toNat
    let ee := expFixed (x2 - n * ln2Fixed) * 2 ^ n
    let v := (ee - oneFixed) * oneFixed / (ee + oneFixed)
    fixedExact (if neg then -v else v)

/-- The exact result of an SFU function, and whether it is one of the exact cases (Table 7-9). -/
def sfuExact (fn : SfuOp) (x : FVal) : Exact × Bool :=
  match x with
  | .nan s => (.nan s, true)
  | .inf n =>
    match fn with
    | .exp2 => (if n then .num false 0 1 0 else .inf false 0, true)
    | .log2 => (if n then .nan true else .inf false 0, true)
    | .rcp => (.num n 0 1 0, true)
    | .rsq => (if n then .nan true else .num false 0 1 0, true)
    | .sin | .cos => (.nan true, true)
    | .tanh => (.num n 1 1 0, true)
  | .fin n m e =>
    if m = 0 then
      match fn with
      | .exp2 | .cos => (.num false 1 1 0, true)
      | .log2 => (.inf true flagDZ, true)
      | .rcp | .rsq => (.inf n flagDZ, true)
      | .sin | .tanh => (.num n 0 1 0, true)
    else
      let pow := m = 2 ^ Nat.log2 m
      match fn with
      | .exp2 => (sfuExp2 n m e, 0 ≤ e || m % 2 ^ (-e).toNat = 0)
      | .log2 => if n then (.nan true, true) else (sfuLog2 m e, pow)
      | .rcp => (.num n 1 m (-e), pow)
      | .rsq =>
        if n then (.nan true, true)
        else
          match exactSqrt (.fin false m e) with
          | .num _ p q k => (.num false q p (-k), pow && ((Nat.log2 m : Int) + e) % 2 = 0)
          | o => (o, true)
      | .sin => (sfuSinCos false n m e, false)
      | .cos => (sfuSinCos true n m e, false)
      | .tanh => (sfuTanh n m e, false)

/-- Whether an FP32 encoding lies within the bound of an exact value (Table 7-9): 1 ulp for rcp and rsq, otherwise
2 ulp, and no less than 2^−24 for sin and cos. -/
def withinBound (fn : SfuOp) (neg : Bool) (n d : Nat) (e : Int) (c : Word) : Bool :=
  match decodeFp Fmt.fp32.layout c with
  | .fin s m k =>
    let ulp := max (log2Frac n d + e) (-126) - 23
    let lim := match fn with
      | .rcp | .rsq => ulp
      | .sin | .cos => max (ulp + 1) (-24)
      | _ => ulp + 1
    let base := min k (min e lim)
    let x := unitsOf s m k base * d
    let y := unitsOf neg n e base
    (x - y).natAbs ≤ 2 ^ (lim - base).toNat * d
  | _ => false

/-- An SFU result: the encoding and the flags (R220). -/
def sfuOp (fn : SfuOp) (f : Fmt) (a : Word) : Word × FpFlags :=
  let r := sfuExact fn (decodeFp f.layout a)
  let w := r.1.into f.layout ⟨.rne, 0⟩
  if f != .fp32 || r.2 then w
  else
    match r.1 with
    | .num neg n d e =>
      let c : Word := (Config.sfuBits fn.code.toNat (a.extractLsb' 0 32)).zeroExtend 64
      if w.1.extractLsb' 0 31 != BitVec.ofNat 31 (infinity Fmt.fp32.layout) && withinBound fn neg n d e c then
        (c, w.2 ||| flagNX)
      else w
    | _ => w

end Sys2Proof.Machine
end

