-- ==== Sys2Proof/Machine/Element.lean ====
section
/-!
DEFINITION. Element-wise arithmetic of the fabric and of the row unit (03 R107; 07 R207, R213 to R220): one result of one
node in its configured format.
-/

namespace Sys2Proof.Machine

/-! Integer formats (R207) -/

/-- The low w bits of a value as a signed integer. -/
def signedW (w : Nat) (v : Word) : Int := (BitVec.ofNat w v.toNat).toInt

/-- The low w bits of a value as an unsigned integer. -/
def unsignedW (w : Nat) (v : Word) : Int := (BitVec.ofNat w v.toNat).toNat

/-- The low w bits of a pattern, zeros above (R85). -/
def patternW (w : Nat) (v : Nat) : Word := BitVec.ofNat 64 (v % 2 ^ w)

/-- An ALU node of an INTw format. -/
def aluElem (w : Nat) (o : AluOp) (a b : Word) : Word × FpFlags :=
  let x := signedW w a
  let y := signedW w b
  let u := unsignedW w a
  let v := unsignedW w b
  let p := a.toNat % 2 ^ w
  let q := b.toNat % 2 ^ w
  let ones := 2 ^ w - 1
  let sh := b.toNat % 64
  let raw := fun (n : Nat) => (patternW w n, (0 : FpFlags))
  match o with
  | .add => saturate w (x + y)
  | .sub => saturate w (x - y)
  | .and => raw (p &&& q)
  | .or => raw (p ||| q)
  | .xor => raw (p ^^^ q)
  | .andn => raw (p &&& (q ^^^ ones))
  | .orn => raw (p ||| (q ^^^ ones))
  | .xnor => raw ((p ^^^ q) ^^^ ones)
  | .shl => raw (p <<< sh)
  | .shr => raw (p >>> sh)
  | .sra => raw (BitVec.ofInt w (x >>> sh)).toNat
  | .rol => raw ((p <<< (sh % w)) ||| (p >>> (w - sh % w)))
  | .ror => raw ((p >>> (sh % w)) ||| (p <<< (w - sh % w)))
  | .slt => raw (if x < y then 1 else 0)
  | .sltu => raw (if u < v then 1 else 0)
  | .min => saturate w (min x y)
  | .max => saturate w (max x y)
  | .minu => saturate w (min u v)
  | .maxu => saturate w (max u v)

/-- A MULDIV node of an INTw format: the border results of R205 are taken at width w. -/
def mulElem (w : Nat) (o : MulOp) (a b : Word) : Word × FpFlags :=
  let x := signedW w a
  let y := signedW w b
  let u := unsignedW w a
  let v := unsignedW w b
  let high := fun (p : Int) => (patternW w (BitVec.ofInt w (p / 2 ^ w)).toNat, (0 : FpFlags))
  match o with
  | .mul => saturate w (x * y)
  | .mulh => high (x * y)
  | .mulhu => high (u * v)
  | .mulhsu => high (x * v)
  | .div => if y = 0 then saturate w (-1) else if x = -(2 ^ (w - 1) : Int) && y = -1 then saturate w x else saturate w (x.tdiv y)
  | .divu => if v = 0 then saturate w (2 ^ w - 1) else saturate w (u / v)
  | .rem => if y = 0 then saturate w x else saturate w (x.tmod y)
  | .remu => if v = 0 then saturate w u else saturate w (u % v)

/-- A BITS node of an INTw format. -/
def bitsElem (w : Nat) (o : BitsOp) (a : Word) : Word × FpFlags :=
  let p : BitVec w := BitVec.ofNat w a.toNat
  let raw := fun (n : Nat) => (patternW w n, (0 : FpFlags))
  match o with
  | .clz | .ctz | .popc | .brev | .bswap => raw (bitsN o p).toNat
  | .sextb | .sexth | .sextw | .zextw => saturate w (bitsN o (patternW w p.toNat)).toInt

/-! Values -/

/-- An operand of a node: its bits, and for a twill element its latched scale and its place in the block (R51, R94). -/
structure Operand where
  bits : Word
  scale : BitVec 16 := 0
  pos : Nat := 0

/-- The exact value of an operand in a format. -/
def Operand.val (x : Operand) (f : Fmt) : FVal :=
  if f.isTwill then twillVal f.mag x.scale x.pos x.bits else decodeFp f.layout x.bits

/-- The exact value of a twill operand as FP32 bits (R107 step 1). -/
def Operand.fp32 (x : Operand) (f : Fmt) : Word := ((x.val f).exact.into Fmt.fp32.layout ⟨.rne, 0⟩).1

/-! One result -/

/-- A result of a node: bits in the node's format with flags, or, of a twill node, the exact value that is quantised
with fifteen others (R105, R107). -/
inductive ElemResult where
  | bits (v : Word) (fl : FpFlags)
  | twill (v : FVal) (fl : FpFlags)

/-- The FP32 result of the step of R107, exact from then on. -/
def stepResult (r : Word × FpFlags) : ElemResult := .twill (decodeFp Fmt.fp32.layout r.1) r.2

/-- One rounded operation of FP arithmetic, in twill by the FP32 step. -/
def fpElem (f : Fmt) (r : Rounding) (o : FpOp) (a b : Operand) : ElemResult :=
  if f.isTwill then stepResult (fpOp .fp32 ⟨.rne, 0⟩ o (a.fp32 f) (b.fp32 f))
  else
    let x := fpOp f r o a.bits b.bits
    .bits x.1 x.2

/-- One fused multiply-add. -/
def fmaElem (f : Fmt) (r : Rounding) (o : FmaOp) (a b c : Operand) : ElemResult :=
  if f.isTwill then stepResult (fmaOp .fp32 ⟨.rne, 0⟩ o (a.fp32 f) (b.fp32 f) (c.fp32 f))
  else
    let x := fmaOp f r o a.bits b.bits c.bits
    .bits x.1 x.2

/-- The result of an element-wise operation with its operands in left, right, predicate order; pe is the format that the
twill code of an FMT3 field stands for, w the width of an integer format. -/
def elemResult (pe : Fmt) (r : Rounding) (o : ElemOp) (a b c : Operand) : ElemResult :=
  let two := fun (p : Word × FpFlags) => ElemResult.bits p.1 p.2
  match o with
  | .alu o => two (aluElem pe.width o a.bits b.bits)
  | .mul o => two (mulElem pe.width o a.bits b.bits)
  | .bits o => two (bitsElem pe.width o a.bits)
  | .fp o f => fpElem (fmt3Fmt pe f) r o a b
  | .fma o f => fmaElem (fmt3Fmt pe f) r o a b c
  | .cmp o f =>
    let g := fmt3Fmt pe f
    let p := cmpVals o (a.val g) (b.val g)
    .bits (if p.1 then 1 else 0) p.2
  | .fcvt d s =>
    let v := a.val (fmt3Fmt pe s)
    let g := fmt3Fmt pe d
    if g.isTwill then .twill v (flagIf v.isSnan flagNV) else two (v.exact.into g.layout r)
  | .fclass f =>
    let g := fmt3Fmt pe f
    let smallest : Int := if g.isTwill then -126 else 1 - (g.layout.bias : Int)
    .bits (1#64 <<< classOf smallest (a.val g)) 0
  | .icvtTo k f => two (toIntOp (intFmtWidth k) r (a.val (fmt3Fmt pe f)))
  | .icvtFrom f =>
    let g := fmt3Fmt pe f
    let v := a.bits.toInt
    if g.isTwill then .twill (.fin (v < 0) v.natAbs 0) 0 else two (fromIntOp g r v)
  | .sfu o f => two (sfuOp o (fmt3Fmt pe f) a.bits)

/-- Whether the result of a rounding operation goes into a twill block, where the quantiser rounds it (R105). -/
def elemBlocks (pe : Fmt) : ElemOp → Bool
  | .fp _ f | .fma _ f | .fcvt f _ | .icvtFrom f => (fmt3Fmt pe f).isTwill
  | _ => false

/-- Whether an operation takes a rounding, so that SR steps the LFSR once (R213). -/
def elemRounds : ElemOp → Bool
  | .fp o _ => o != .fmin && o != .fmax
  | .fma _ _ | .fcvt _ _ | .icvtTo _ _ | .icvtFrom _ => true
  | _ => false

/-- How many of the left, right and predicate operands an operation reads. -/
def elemArity : ElemOp → Nat
  | .alu _ | .mul _ | .cmp _ _ => 2
  | .fp o _ => if o == .fsqrt then 1 else 2
  | .fma _ _ => 3
  | .bits _ | .fcvt _ _ | .fclass _ | .icvtTo _ _ | .icvtFrom _ | .sfu _ _ => 1

end Sys2Proof.Machine
end

