-- ==== Sys2Proof/Machine/Flags.lean ====
section
/-!
DEFINITION. The flags of thread instructions and of sheds: FFLAGS and SFFLAGS are sticky (03 R101 to R103), the rounding
mode of a slot and the one LFSR step of each rounded result under SR (03 R97, R99, R100; 07 R213).
-/

namespace Sys2Proof.Machine

/-- ORs flags into FFLAGS of a slot (R101). -/
def State.orFlags (s : State) (i : SlotId) (f : FpFlags) : State :=
  s.modSlot i fun x => { x with fflags := x.fflags ||| f }

/-- ORs flags into SFFLAGS of a shed (R103). -/
def State.orShedFlags (s : State) (d : Die) (h : ShedNo) (f : FpFlags) : State :=
  s.modShed d h fun x =>
    { x with sfflags := x.sfflags ||| f, flagAclk := s.aclk, flagSet := if x.flagAclk = s.aclk then x.flagSet ||| f else f }

/-- The LFSR of a slot as the next rounded result finds it: stepped under SR (R100). -/
def nextLfsr (m : RMode) (st : BitVec 32) : BitVec 32 := if m == .sr then lfsrStep st else st

/-- The rounding of one result from an LFSR already stepped. -/
def roundingOf (m : RMode) (st : BitVec 32) : Rounding := ⟨m, st.toNat⟩

/-- A rounding instruction's result: RMRSV while FRM.RM is reserved (R213, 14 Table 14-3), otherwise the value and
flags of one rounding, with one LFSR step under SR. -/
def State.rounded (t : State) (d : Reg) (f : Rounding → Word × FpFlags) : Act :=
  let x := t.slot t.cur
  match rmode x.frm with
  | none => .trap 0x03 0 (x.frm.zeroExtend 64) 0
  | some m =>
    let st := nextLfsr m x.lfsr
    let r := f (roundingOf m st)
    let t := (t.modSlot t.cur fun x => { x with lfsr := st }).orFlags t.cur r.2
    .go (t.finish d r.1)

/-- The result of an instruction that never rounds, with its flags. -/
def State.unrounded (t : State) (d : Reg) (r : Word × FpFlags) : Act :=
  .go ((t.orFlags t.cur r.2).finish d r.1)

end Sys2Proof.Machine
end

