-- ==== Sys2Proof/Machine/Fabric.lean ====
section
/-!
DEFINITION. The fabric of a shed (02 R49 to R57; 06 R177; 08 R239 to R243): operand ports, ports of the shed with their
credits and counters, delivery of tokens, the firing of a node, and what stops (16 R413; 15 R397).
-/

namespace Sys2Proof.Machine

set_option linter.constructorNameAsVariable false

/-! Tokens -/

def kindData : BitVec 2 := 0
def kindScale : BitVec 2 := 1
def kindControl : BitVec 2 := 2
def kindOrder : BitVec 2 := 3

/-- Whether a token counts as a data token at a port of a node that is not a memory node (R240 item 3). -/
def Token.isData (k : Token) : Bool := k.kind == kindData || k.kind == kindOrder
def Token.isScale (k : Token) : Bool := k.kind == kindScale
def Token.isControl (k : Token) : Bool := k.kind == kindControl

/-- The code of a control token (R50). -/
def Token.code (k : Token) : BitVec 4 := k.payload.extractLsb' 0 4
def Token.isPlain (k : Token) : Bool := k.isControl && k.code == 0
def Token.isEor (k : Token) : Bool := k.isControl && k.code == 1
def Token.isEog (k : Token) : Bool := k.isControl && k.code == 2
def Token.isEos (k : Token) : Bool := k.isControl && k.code == 3

/-- EOG or EOS. -/
def Token.endsGroup (k : Token) : Bool := k.isEog || k.isEos

/-- EOR, EOG or EOS. -/
def Token.endsRow (k : Token) : Bool := k.isEor || k.endsGroup

def dataTok (c : BitVec 2) (v : Word) : Token := { payload := v, kind := kindData, ctx := c }
def scaleTok (c : BitVec 2) (v : BitVec 16) : Token :=
  { payload := v.zeroExtend 64, kind := kindScale, ctx := c }
def orderTok (c : BitVec 2) (v : Word) : Token := { payload := v, kind := kindOrder, ctx := c }

/-- A shape token: its code and count (R50). -/
def shapeTok (c : BitVec 2) (code : BitVec 4) (count : BitVec 32) : Token :=
  { payload := count ++ 0#28 ++ code, kind := kindControl, ctx := c }

def codeEor : BitVec 4 := 1
def codeEog : BitVec 4 := 2
def codeEos : BitVec 4 := 3

/-! Operand ports -/

/-- The number of an operand port (Table 6-3). -/
def portNum : NodePort → Nat
  | .l => 0 | .r => 1 | .p => 2 | .s => 3 | .o => 4

/-- The key of an operand port of a slot for a context. -/
def opKey (slot : Nat) (p : NodePort) (c : Nat) : Nat := (slot * 8 + portNum p) * 4 + c

/-- The key of the state of a node for a context. -/
def nodeIx (slot c : Nat) : Nat := slot * 4 + c

/-- The token at an operand port (R52). -/
def ShedSt.operand (x : ShedSt) (slot : Nat) (p : NodePort) (c : Nat) : Option Token :=
  tblGet none (opKey slot p c) x.operands

/-- Sets or clears an operand port. -/
def ShedSt.setOperand (x : ShedSt) (slot : Nat) (p : NodePort) (c : Nat) (k : Option Token) : ShedSt :=
  { x with operands := tblSet none (opKey slot p c) k x.operands }

/-- The scale latched for an operand port, and the data tokens that have arrived since. -/
def ShedSt.scaleAt (x : ShedSt) (slot : Nat) (p : NodePort) (c : Nat) : Option Word × Nat :=
  tblGet (none, 0) (opKey slot p c) x.scales

/-- Latches a scale for an operand port. -/
def ShedSt.latchScale (x : ShedSt) (slot : Nat) (p : NodePort) (c : Nat) (v : Word) : ShedSt :=
  { x with scales := tblSet (none, 0) (opKey slot p c) (some v, 0) x.scales }

/-- The targets of a graph-form word; an empty slot has none (R181). -/
def wordTargets (w : Inst) : List Target :=
  if w = 0 then [] else (target (w.extractLsb' 9 9)).toList ++ (target (w.extractLsb' 0 9)).toList

/-- A port entry of a shed, and its state. -/
def ShedSt.port (x : ShedSt) (p : Nat) : PortCfg := tblGet {} p x.cfg
def ShedSt.portSt (x : ShedSt) (p : Nat) : PortSt := tblGet {} p x.ports
def ShedSt.modPort (x : ShedSt) (p : Nat) (f : PortSt → PortSt) : ShedSt :=
  { x with ports := tblSet {} p (f (x.portSt p)) x.ports }

/-- Whether an operand port is wired: a word or an input port of the shed targets it. -/
def ShedSt.wired (x : ShedSt) (slot : Nat) (p : NodePort) : Bool :=
  let t : Target := .node (BitVec.ofNat 6 slot) p
  (x.words.any fun e => (wordTargets e.2).contains t)
    || x.cfg.any fun e => e.2.en && !e.2.out && (e.2.ta == t || e.2.tb == t)

/-- The format of a slot (Table 9-10). -/
def ShedSt.fmt (x : ShedSt) (slot : Nat) : Fmt := (fmtOf (tblGet 0 slot x.fmts)).getD .int8

/-- The rounding mode of a slot (Table 9-10). -/
def ShedSt.rmOf (x : ShedSt) (slot : Nat) : RMode := (rmode (tblGet 0 slot x.rms)).getD .rne

/-- A constant of the shed's block (R242). -/
def ShedSt.const (x : ShedSt) (k : Nat) : Word := x.consts.getD k 0

/-- Whether slots may fire: the shed is RUNNING or DRAINING and has not failed (Table 2-2, R416). -/
def ShedSt.fires (x : ShedSt) : Bool := (x.state == .running || x.state == .draining) && !x.failed

/-- Whether feeder ports inject (R47, R413). -/
def ShedSt.injects (x : ShedSt) : Bool := x.state == .running && !x.failed

def portItem (p : Nat) : Nat := 66 + p
def queueItem (q : Bool) : Nat := if q then 65 else 64

def ShedSt.stopped (x : ShedSt) (item : Nat) : Bool := x.stops.contains item

/-- Whether the stream of a port has stopped, with its port (R413; 15 R397): the port passes and takes no further token (log
entry 54). -/
def ShedSt.streamStopped (x : ShedSt) (p : Nat) : Bool := x.stopped (portItem p)

/-! What stops (R413, R397) -/

/-- Records a node fault in SFFAULT and ELOG (Table 16-3). -/
def State.nodeFault (s : State) (d : Die) (h : ShedNo) (item : Nat) (sub : Byte) : State :=
  (s.modShed d h fun x =>
    { x with sffault :=
        if x.sffault.cause = 0 then { cause := 0x42, sub, item := BitVec.ofNat 7 item }
        else { x.sffault with more := true } }).countNotify d (.shed h) 0x42

/-- Stops a node, port or queue for the period (R413). -/
def State.stopItem (s : State) (d : Die) (h : ShedNo) (item : Nat) (sub : Byte) : State :=
  (s.nodeFault d h item sub).modShed d h fun x => { x with stops := setAdd item x.stops }

/-- A feeder access has failed: its stream or node stops, and SXFAULT and ELOG record it (R397, Table 15-4). -/
def State.feederFault (s : State) (d : Die) (h : ShedNo) (item fp : Nat) (cause : Byte) : State :=
  (s.modShed d h fun x =>
    { x with
      stops := setAdd item x.stops
      sxfault :=
        if x.sxfault.cause = 0 then { cause, item := BitVec.ofNat 7 fp }
        else { x.sxfault with more := true } }).countNotify d (.shed h) cause

/-! Room -/

/-- Whether a trigger whose count has been reached or that holds a push keeps a port from passing (R57). -/
def ShedSt.portHeld (x : ShedSt) (p : Nat) : Bool :=
  (List.range 8).any fun u =>
    let g := tblGet {} u x.trigs
    g.port.toNat == p && (g.due || g.heldPush)

/-- A stream of a feeder port. -/
def ShedSt.stream (x : ShedSt) (p : Nat) : StreamSt := tblGet {} p x.streams
def ShedSt.setStream (x : ShedSt) (p : Nat) (t : StreamSt) : ShedSt := { x with streams := tblSet {} p t x.streams }

/-- Whether an output port may send a token now (R54 to R57): one whose write stream is held accepts none (15 R395). -/
def ShedSt.portRoom (x : ShedSt) (p : Nat) : Bool :=
  let c := x.port p
  let q := x.portSt p
  c.en && c.out && !x.stopped (portItem p) && !x.portHeld p && !(p < 8 && (x.stream p).held)
    && (if c.free then 0 < q.credits else 0 < c.rate && 0 < q.reserved)

/-- Whether a target has room for a token of a context (R52). -/
def ShedSt.targetRoom (x : ShedSt) (t : Target) (c : Nat) : Bool :=
  match t with
  | .none => true
  | .node _ .s => true
  | .node n p => (x.operand n.toNat p c).isNone
  | .shed p => x.portRoom p.toNat

/-! Counting -/

/-- The count of a port that a trigger's WHAT names (Table 9-14). -/
def PortSt.counted (q : PortSt) (what : BitVec 2) : BitVec 32 :=
  match what.toNat with
  | 0 => q.data
  | 1 => q.eor
  | _ => q.eog

/-- Whether a token raises the count that WHAT names. -/
def countsToken (what : BitVec 2) (k : Token) : Bool :=
  match what.toNat with
  | 0 => k.kind == kindData
  | 1 => k.isEor
  | _ => k.isEog

/-- A token passes a port: its counters rise, and a trigger whose count reaches NEXT is due (R57). -/
def ShedSt.countPass (x : ShedSt) (p : Nat) (k : Token) : ShedSt :=
  let up := fun (b : Bool) (n : BitVec 32) => if b then n + 1 else n
  let x := x.modPort p fun q =>
    { q with total := q.total + 1, data := up (k.kind == kindData) q.data, eor := up k.isEor q.eor,
             eog := up k.isEog q.eog }
  (List.range 8).foldl (fun x u =>
    let g := tblGet {} u x.trigs
    if g.armed && g.port.toNat == p && countsToken g.what k && (x.portSt p).counted g.what == g.next then
      { x with trigs := tblSet {} u { g with due := true } x.trigs }
    else x) x

/-! Contexts -/

/-- The sheds of a loom that are still its own: a failed one has left it (16 R416). -/
def State.loomSheds (s : State) (d : Die) (l : LoomNo) : List ShedNo :=
  (s.loom d l).sheds.filter fun h => (s.shed d h).loom == l && (s.shed d h).state != .free

/-- The sheds of the loom of a shed. -/
def State.loomOf (s : State) (d : Die) (h : ShedNo) : List ShedNo := s.loomSheds d (s.shed d h).loom

/-- Sets the state of a context in every shed of a loom (Table 2-8). -/
def State.setCtx (s : State) (d : Die) (l : LoomNo) (c : Nat) (st : CtxState) : State :=
  (s.loomSheds d l).foldl (fun s h =>
    s.modShed d h fun x => { x with ctxState := tblSet .active c st x.ctxState }) s

/-- The state of a context in a shed. -/
def ShedSt.ctxAt (x : ShedSt) (c : Nat) : CtxState := tblGet .active c x.ctxState

/-- Whether the EOS of a context has passed every output port of a shed. -/
def ShedSt.eosPassed (x : ShedSt) (c : Nat) : Bool :=
  x.cfg.all fun e => !(e.2.en && e.2.out) || (x.portSt e.1).eos.getLsbD c

/-- The EOS of a context passes an output port; when it has passed every one of the loom, the context is DONE. -/
def State.passEos (s : State) (d : Die) (h : ShedNo) (p c : Nat) : State :=
  let s := s.modShed d h fun x => x.modPort p fun q => { q with eos := q.eos ||| (1#4 <<< c) }
  if (s.loomOf d h).all fun g => (s.shed d g).eosPassed c then s.setCtx d (s.shed d h).loom c .done else s

/-! Delivery -/

/-- A token leaves an output port: F0 to F7 into the port's FIFO for its write stream, C0 to C7 onto the channel. -/
def State.sendPort (s : State) (d : Die) (h : ShedNo) (p : Nat) (k : Token) : State :=
  let c := (s.shed d h).port p
  let s := s.modShed d h fun x =>
    (x.modPort p fun q =>
      if c.free then { q with credits := q.credits - 1 } else { q with reserved := q.reserved - 1 }).countPass p k
  let s := if k.isEos then s.passEos d h p k.ctx.toNat else s
  if p < 8 then s.modShed d h fun x => x.modPort p fun q => { q with fifo := q.fifo ++ [k] }
  else s.send (.token d c.peer (0b1#1 ++ c.pport) k)

/-- A token reaches an operand port. A scale at the scale port is latched for left and right operand; another token
there has no effect (log entry 40). A data token takes the scale latched then, and its place in the block. -/
def ShedSt.receive (x : ShedSt) (slot : Nat) (p : NodePort) (k : Token) (now : Word) : ShedSt :=
  let c := k.ctx.toNat
  match p with
  | .s =>
    if k.isScale then
      ((x.latchScale slot .l c k.payload).latchScale slot .r c k.payload).latchScale slot .s c k.payload
    else x
  | _ =>
    let key := opKey slot p c
    let q := x.scaleAt slot p c
    let x := { x.setOperand slot p c (some k) with stamps := tblSet 0 key now x.stamps }
    if k.isData then
      { x with captured := tblSet (none, 0) key q x.captured, scales := tblSet (none, 0) key (q.1, q.2 + 1) x.scales }
    else x

/-- Delivers a token to a target with room. -/
def State.deliverTok (s : State) (d : Die) (h : ShedNo) (t : Target) (k : Token) : State :=
  match t with
  | .none => s
  | .node n p => s.modShed d h fun x => x.receive n.toNat p k s.aclk
  | .shed p => s.sendPort d h p.toNat k

/-- Delivers what it can of the tokens a slot has produced, in order; a target without room for a token keeps back
every later token for it, of whatever context, so that they arrive in the order produced (R53). -/
def pumpList (d : Die) (h : ShedNo) : List OutTok → List Target → State → State × List OutTok
  | [], _, s => (s, [])
  | o :: r, blocked, s =>
    if blocked.contains o.target || !(s.shed d h).targetRoom o.target o.tok.ctx.toNat then
      let q := pumpList d h r (o.target :: blocked) s
      (q.1, o :: q.2)
    else pumpList d h r blocked (s.deliverTok d h o.target o.tok)

/-- The tokens that a slot has still to deliver. -/
def ShedSt.out (x : ShedSt) (slot : Nat) : List OutTok := tblGet [] slot x.outq

def ShedSt.setOut (x : ShedSt) (slot : Nat) (q : List OutTok) : ShedSt := { x with outq := tblSet [] slot q x.outq }

/-- A slot delivers what it can. -/
def State.pump (s : State) (d : Die) (h : ShedNo) (slot : Nat) : State :=
  let q := pumpList d h ((s.shed d h).out slot) [] s
  q.1.modShed d h fun x => x.setOut slot q.2

/-- Adds tokens to those that a slot has to deliver. -/
def State.emit (s : State) (d : Die) (h : ShedNo) (slot : Nat) (ks : List OutTok) : State :=
  (s.modShed d h fun x => x.setOut slot (x.out slot ++ ks.filter (·.target != .none))).pump d h slot

/-! Input ports -/

/-- The output port that feeds a channel input: its credits count the free entries of the FIFO (R54). -/
def State.feeding (s : State) (d : Die) (h : ShedNo) (p : Nat) : Option (ShedNo × Nat) :=
  (s.loomOf d h).findSome? fun g =>
    let x := s.shed d g
    ((List.range 8).find? fun k =>
      let c := x.port (8 + k)
      c.en && c.out && c.peer == h && c.pport.toNat + 8 == p).map fun k => (g, 8 + k)

/-- An entry of an input FIFO is free: its credit returns to the producer (R54). -/
def State.freeEntry (s : State) (d : Die) (h : ShedNo) (p : Nat) : State :=
  if p < 8 then s
  else
    match s.feeding d h p with
    | some (g, k) => s.send (.credit d g (BitVec.ofNat 4 k))
    | none => s

/-- The place of an input port among the slots that have tokens to deliver. -/
def portOut (p : Nat) : Nat := 64 + p

/-- A token passes an input port to its targets. -/
def State.passInput (s : State) (d : Die) (h : ShedNo) (p : Nat) (k : Token) : State :=
  let c := (s.shed d h).port p
  ((s.modShed d h fun x => x.countPass p k).freeEntry d h p).emit d h (portOut p) [⟨c.ta, k⟩, ⟨c.tb, k⟩]

/-- Whether an input port may pass a token: both targets have room (R52, R56), the port has nothing left to deliver, and
no trigger holds it. -/
def ShedSt.mayPass (x : ShedSt) (p : Nat) (k : Token) : Bool :=
  let c := x.port p
  x.fires && c.en && !c.out && !x.stopped (portItem p) && !x.portHeld p && (x.out (portOut p)).isEmpty
    && x.targetRoom c.ta k.ctx.toNat && x.targetRoom c.tb k.ctx.toNat

/-! Firing -/

/-- What a node finds when it has its turn: its shed, slot and context, its own state, targets, format and mode. -/
structure View where
  s : State
  d : Die
  h : ShedNo
  slot : Nat
  c : Nat
  x : ShedSt
  node : NodeSt
  t : Target
  u : Target

/-- The token at one of the node's operand ports. -/
def View.op (v : View) (p : NodePort) : Option Token := v.x.operand v.slot p v.c

def View.wired (v : View) (p : NodePort) : Bool := v.x.wired v.slot p
def View.fmt (v : View) : Fmt := v.x.fmt v.slot
def View.rm (v : View) : RMode := v.x.rmOf v.slot
def View.lfsr (v : View) : BitVec 32 := tblGet 0 v.slot v.x.lfsr
def View.ctx (v : View) : BitVec 2 := BitVec.ofNat 2 v.c

/-- A token for both targets (R52). -/
def View.both (v : View) (k : Token) : List OutTok := [⟨v.t, k⟩, ⟨v.u, k⟩]

/-- What a firing does: the ports whose tokens it consumes, what it sends, whether it needs room at both targets, the
node's next state, and what else changes. -/
structure Fired where
  eat : List NodePort
  outs : List OutTok := []
  room : Bool := true
  node : NodeSt
  also : State → State := fun s => s

/-- The view of a node. -/
def State.view (s : State) (n : NodeId) (t u : Target) : View :=
  let x := s.shed n.die n.shed
  { s, d := n.die, h := n.shed, slot := n.slot.toNat, c := n.ctx.toNat, x,
    node := tblGet {} (nodeIx n.slot.toNat n.ctx.toNat) x.nodes, t, u }

/-- Sets the state of a node. -/
def ShedSt.setNode (x : ShedSt) (slot c : Nat) (n : NodeSt) : ShedSt :=
  { x with nodes := tblSet {} (nodeIx slot c) n x.nodes }

/-- Whether a firing finds the room it needs (R52). -/
def Fired.hasRoom (v : View) (f : Fired) : Bool := !f.room || (v.x.targetRoom v.t v.c && v.x.targetRoom v.u v.c)

/-- A firing takes place. -/
def State.apply (v : View) (f : Fired) : State :=
  let s := v.s.modShed v.d v.h fun x =>
    let x := f.eat.foldl (fun x p => x.setOperand v.slot p v.c none) x
    { x.setNode v.slot v.c f.node with lastCtx := tblSet 3 v.slot v.c x.lastCtx }
  (f.also s).emit v.d v.h v.slot f.outs

/-- The turn of a node: it delivers what it has still to deliver; with nothing left to deliver, it fires if it is ready. -/
def State.fire (s : State) (t u : Target) (b : View → Option Fired) : State :=
  let n := s.node
  let x := s.shed n.die n.shed
  if !x.fires || x.stopped n.slot.toNat then s
  else if !(x.out n.slot.toNat).isEmpty then s.pump n.die n.shed n.slot.toNat
  else
    let v := s.view n t u
    match b v with
    | some f => if f.hasRoom v then State.apply v f else s
    | none => s

/-- The effect of flags and of LFSR steps of a node (R103, R99). -/
def View.mark (v : View) (fl : FpFlags) (st : BitVec 32) (s : State) : State :=
  (s.modShed v.d v.h fun x => { x with lfsr := tblSet 0 v.slot st x.lfsr }).orShedFlags v.d v.h fl

/-! The shape and scale rules (R240, R241) -/

/-- A token consumed without output. -/
def View.drop (v : View) (p : NodePort) : Option Fired := some { eat := [p], room := false, node := v.node }

/-- Item 1 of R240: a left control token goes on to both targets, and a right control token beside it is discarded. -/
def View.forward (v : View) (k : Token) : Option Fired :=
  let eat : List NodePort := match v.op .r with
    | some q => if q.isControl then [.l, .r] else [.l]
    | none => [.l]
  some { eat, outs := v.both k, node := v.node }

/-- Left control and scale tokens of a pass-through node go on to both targets (R241). -/
def View.passShape (v : View) (k : Token) : Option Fired :=
  if k.isScale then some { eat := [.l], outs := v.both k, node := v.node } else v.forward k

/-- Item 2 of R240: with a data token at the left, a control token at another port is consumed; so is a scale token at
a port of a node that is given no use for it (R241). -/
def View.skip (v : View) (p : NodePort) : Option Fired :=
  match v.op p, v.op .l with
  | some k, some l => if (k.isControl && !l.isControl && !l.isScale) || k.isScale then v.drop p else none
  | some k, none => if k.isScale then v.drop p else none
  | none, _ => none

/-- The first of several possible firings. -/
def firstOf : List (Option Fired) → Option Fired
  | [] => none
  | some f :: _ => some f
  | none :: r => firstOf r

end Sys2Proof.Machine
end

