-- ==== Sys2Proof/Machine/Bank.lean ====
section
/-!
DEFINITION. Feeder accesses (15 R392, R394, R397) and the fabric cache bank of a shed (04 R121 to R123): sectors, misses,
evictions and write-backs.
-/

namespace Sys2Proof.Machine

/-! Translation of a feeder -/

/-- Translates a virtual address of a feeder slot, stream or descriptor in the address context of the loom's lease
(R121, R133); sheds are unprivileged (log entry 42). -/
def State.feederReach (s : State) (d : Die) (h : ShedNo) (va : Word) (need : Need) (reg fresh : Bool) : Reach :=
  let x := s.shed d h
  match s.translate d x.ctx x.tlb va.toNat (need ||| needU) fresh with
  | (.ok pa key t, tlb) => (t.modShed d h fun y => { y with tlb }).place d pa key reg va
  | (.fault cause sub addr, _) => .fault cause sub addr
  | (.notReady, _) => .notReady

/-- The agent double of a feeder slot's fault message (Table 15-2). -/
def shedAgent (h : ShedNo) (slot : BitVec 6) : Word := 0#42 ++ slot ++ 0#7 ++ h

/-- What the fault message of a feeder access says: mw3 is the firing count or element, all ones for a descriptor
(Table 15-2, 09 R298). -/
def State.feederInfo (s : State) (d : Die) (h : ShedNo) (slot : BitVec 6) (need : Need) (addr mw3 : Word) : FaultInfo :=
  { kind := 2, need := need ||| needU, addr, agent := shedAgent h slot, pc := mw3, ctx := (s.shed d h).ctx }

/-! Sectors -/

/-- Whether a virtual address lies in the bound range of a shed (R121). -/
def ShedSt.bound (x : ShedSt) (va : Nat) : Bool := x.bbase.toNat ≤ va && va < x.bbase.toNat + x.blen.toNat

/-- The base of the 48-byte sector of an address. -/
def sectorOf (pa : Nat) : Nat := pa - paOffset pa % 48

/-- The set of the bank that a line lies in, of 128 sets of four ways: the line number of its HBM offset modulo 128, which R121
does not give (PRESUMED, log entry 43). -/
def bankSet (pa : Nat) : Nat := paOffset pa / 192 % 128

/-- A sector of the bank. -/
def ShedSt.sector (x : ShedSt) (pa : Nat) : Option Sector := tblGet none (sectorOf pa) x.fcb

def ShedSt.setSector (x : ShedSt) (base : Nat) (y : Option Sector) : ShedSt :=
  { x with fcb := tblSet none base y x.fcb }

/-- n bytes of a sector the bank holds. -/
def Sector.read (y : Sector) (pa n : Nat) : List Byte := (y.bytes.drop (pa - sectorOf pa)).take n

/-- A sector after a write of bytes. -/
def Sector.write (y : Sector) (pa : Nat) (va : Nat) (bs : List Byte) : Sector :=
  let o := pa - sectorOf pa
  let whole := fun (k : Nat) => o ≤ k && k + 8 ≤ o + bs.length
  { y with bytes := y.bytes.take o ++ bs ++ y.bytes.drop (o + bs.length), dirty := true, va := va - o,
           bad := y.bad.filter fun k => !whole k }

/-- Poison reaches the home with a sector's doubles, and leaves it where they are whole (15 R406, R407). -/
def State.carryPoison (s : State) (key : Byte) (base : Nat) (bad : List Nat) : State :=
  [0, 8, 16, 24, 32, 40].foldl (fun s k =>
    if bad.contains k then (s.setEmpty (base + k)).setPoison (base + k) else s.cleanDouble key (base + k)) s

/-- Writes back a sector that is dirty (R123). -/
def State.writeBack (s : State) (d : Die) (h : ShedNo) (base : Nat) : State :=
  match tblGet none base (s.shed d h).fcb with
  | some y =>
    if y.dirty then
      ((s.writeBytes y.key base y.bytes).carryPoison y.key base y.bad).modShed d h fun x =>
        x.setSector base (some { y with dirty := false })
    else s
  | none => s

/-- Writes back every dirty sector of a bank for which a condition holds. -/
def State.writeBackAll (s : State) (d : Die) (h : ShedNo) (p : Sector → Bool) : State :=
  (s.shed d h).fcb.foldl (fun s e => match e.2 with
    | some y => if p y then s.writeBack d h e.1 else s
    | none => s) s

/-- The lines that a set of the bank holds. -/
def ShedSt.linesOf (x : ShedSt) (n : Nat) : List Nat :=
  ((x.fcb.map fun e => lineOf e.1).filter fun l => bankSet l == n).eraseDups

/-- Evicts a line: its dirty sectors are written back (R123). -/
def State.evict (s : State) (d : Die) (h : ShedNo) (line : Nat) : State :=
  (List.range 4).foldl (fun s k =>
    (s.writeBack d h (line + 48 * k)).modShed d h fun x => x.setSector (line + 48 * k) none) s

/-- Fills a sector from the home; a full set gives up one of its lines, which one the manual leaves open (log entry
43). -/
def State.fillSector (s : State) (d : Die) (h : ShedNo) (pa : Nat) (key : Byte) (va : Nat) : State :=
  let base := sectorOf pa
  let line := lineOf pa
  let lines := (s.shed d h).linesOf (bankSet pa)
  let s :=
    if lines.contains line || lines.length < 4 then s
    else s.evict d h (lines.getD (Config.pick s.tick % 4) 0)
  let y : Sector :=
    { bytes := s.readBytes key base 48, dirty := false, key, va := va - (pa - base),
      bad := [0, 8, 16, 24, 32, 40].filter fun k => s.isPoisoned (base + k) }
  s.modShed d h fun x => x.setSector base (some y)

/-- FCB_MISS_FILL (R121): the sector of the bound range that holds an address is brought from its home. -/
def execFcbMissFill (s : State) : Result :=
  let d := s.ev.die
  let h := s.ev.shed
  let va := s.ev.val
  .next <|
    if !(s.shed d h).bound va.toNat then s
    else
      match s.feederReach d h va needR false false with
      | .ok pa key t => if paSpace pa != 0 || ((t.shed d h).sector pa).isSome then t else t.fillSector d h pa key va.toNat
      | _ => s

/-! One feeder access, plain -/

/-- Whether an access goes through the bank: its address is bound and maps to HBM. -/
def ShedSt.banked (x : ShedSt) (va pa : Nat) : Bool := x.bound va && paSpace pa == 0

/-- n bytes as a feeder reads them: of the bank for a bound address, none while the sector is missing. -/
def State.feederRead (s : State) (d : Die) (h : ShedNo) (va pa : Nat) (key : Byte) (n : Nat) : Option (List Byte) :=
  let x := s.shed d h
  if x.banked va pa then (x.sector pa).map fun y => y.read pa n else some (s.readBytes key pa n)

/-- Whether the double of an address is poisoned as a feeder reads it (15 R407). -/
def State.feederPoisoned (s : State) (d : Die) (h : ShedNo) (va pa : Nat) : Bool :=
  let x := s.shed d h
  if x.banked va pa then (x.sector pa).any fun y => y.bad.contains (doubleOf pa - sectorOf pa) else s.isPoisoned pa

/-- A feeder writes bytes: into the bank for a bound address, none while the sector is missing. A write that covers a
poisoned double clears its poison, at the home when the sector is written back (15 R406, R407). -/
def State.feederWrite (s : State) (d : Die) (h : ShedNo) (va pa : Nat) (key : Byte) (bs : List Byte) : Option State :=
  let x := s.shed d h
  let cover := (List.range bs.length).filter fun k => (pa + k) % 8 == 0 && k + 8 ≤ bs.length
  if x.banked va pa then
    (x.sector pa).map fun y => s.modShed d h fun x => x.setSector (sectorOf pa) (some (y.write pa va bs))
  else some (cover.foldl (fun s k => s.cleanDouble key (pa + k)) (s.writeBytes key pa bs))

end Sys2Proof.Machine
end

