-- ==== Sys2Proof/Machine/Barrier.lean ====
section
/-!
DEFINITION. Barriers (09 R289, R290): ARRIVE, WAITPH and ARRWAIT start an access; what it does at the home of its object.
-/

namespace Sys2Proof.Machine

/-- A barrier instruction: its object is 16-byte aligned. -/
def barrierAccess (op : MemOp) (sc : Scope) (acq rel : Bool) (srcs : List Reg) (d : Reg) (s : State) : Result :=
  s.issue srcs [d] fun v t =>
    let va := v.getD 0 0
    match t.addressFault t.cur va 4 with
    | some f => f
    | none => .go (t.startAccess { t.newAccess t.cur op sc acq rel va with data := v.getD 1 0, dst := d })

/-- ARRIVE, relaxed: JNLOP in a journaled slot (R420). -/
def execArriveRlx (d a : Reg) (s : State) : Result :=
  if s.journaled then s.perform (.trap 0x45 0 0 0) else barrierAccess .arrive .s false false [a] d s

/-- ARRIVE as a release. -/
def execArriveRel (sc : Scope) (d a : Reg) (s : State) : Result :=
  if s.journaled then s.perform (.trap 0x45 0 0 0) else barrierAccess .arrive sc false true [a] d s

/-- WAITPH. -/
def execWaitph (sc : Scope) (a b : Reg) (s : State) : Result := barrierAccess .waitPhase sc true false [a, b] 0 s

/-- ARRWAIT. -/
def execArrwait (sc : Scope) (d a : Reg) (s : State) : Result :=
  if s.journaled then s.perform (.trap 0x45 0 0 0) else barrierAccess .arriveWait sc true true [a] d s

/-! At the home -/

/-- Whether a phase n is complete when the object's phase is ph (R290). -/
def phaseDone (ph n : BitVec 32) : Bool := 1 ≤ (ph - n).toNat && (ph - n).toNat ≤ 2 ^ 31

/-- Whether an operation is a barrier operation. -/
def MemOp.isBarrier : MemOp → Bool
  | .arrive | .waitPhase | .arriveWait => true
  | _ => false

/-- Arrive of R290 at an object: the new state, the phase returned and whether the arrival completed it. -/
def State.arriveAt (s : State) (key : Byte) (pa : Nat) : State × BitVec 32 × Bool :=
  let head := s.readHome key pa 8
  let target : BitVec 32 := head.extractLsb' 0 32
  let ph : BitVec 32 := head.extractLsb' 32 32
  let count : BitVec 32 := (s.readHome key (pa + 8) 4).extractLsb' 0 32 + 1
  if target.toNat ≤ count.toNat then
    ((s.writeHome key pa 8 ((ph + 1) ++ target)).writeHome key (pa + 8) 8 0, ph, true)
  else (s.writeHome key (pa + 8) 8 (count.zeroExtend 64), ph, false)

/-- The waits on an object that the present phase completes, in install order. -/
def State.phaseWaiters (s : State) (key : Byte) (pa : Nat) : List WaitEntry :=
  let ph : BitVec 32 := (s.readHome key pa 8).extractLsb' 32 32
  s.waits.filter fun w => w.pa == pa && w.op.isBarrier && phaseDone ph (w.data.extractLsb' 0 32)

end Sys2Proof.Machine
end

