-- ==== Sys2Proof/Machine/Launch.lean ====
section
/-!
DEFINITION. Launches (02 R73, R74; 11 R344, R345; 14 R388; 16 R435): acceptance at the dispatch thread's TAKE, and the record that
completes one. The dispatch thread itself is firmware (log entry 75).
-/

namespace Sys2Proof.Machine

/-- The bytes of a launch slot, and the offset of its SEQ (Table 11-6). -/
def launchBytes : Nat := 192
def seqOffset : Nat := 0xb8

/-- The slot of a ring whose SEQ lies at an address. -/
def Ring.slotAt (r : Ring) (pa : Nat) : Option (BitVec 16) :=
  let o := pa - (r.base.toNat + seqOffset)
  if r.base.toNat + seqOffset ≤ pa && o % launchBytes = 0 && o / launchBytes < r.slots.toNat then
    some (BitVec.ofNat 16 (o / launchBytes))
  else none

/-- A TAKE of a launch slot's SEQ by the ring's dispatch thread: the launch is accepted (R73). -/
def State.acceptLaunch (s : State) (a : Access) : State :=
  match a.agent with
  | .slot i _ =>
    match (s.die i.die).boot.rings.find? fun e => e.2.core == i.core && i.slot == 15 && (e.2.slotAt a.pa).isSome with
    | some (l, r) =>
      let words := (List.range 24).map fun k => s.readHome a.key (a.pa - seqOffset + 8 * k) 8
      let q : Launch := { level := BitVec.ofNat 2 l, slot := (r.slotAt a.pa).getD 0, words, since := s.aclk }
      s.modDie i.die fun x => { x with launches := x.launches ++ [q] }
    | none => s
  | .node _ _ _ _ => s

/-- An exit notice reaches a core: the launches of the levels whose dispatch threads run there count it (R345). -/
def State.noteExit (s : State) (d : Die) (c : CoreNo) : State :=
  s.modDie d fun x =>
    { x with launches := x.launches.map fun q =>
        if (tblGet {} q.level.toNat x.boot.rings : Ring).core == c then { q with notices := q.notices + 1 } else q }

/-! The record (Table 11-6) -/

/-- A double of the record, by its offset. -/
def Launch.word (q : Launch) (o : Nat) : Word := q.words.getD (o / 8) 0

/-- Whether the launch is a thread task. -/
def Launch.thread (q : Launch) : Bool := (q.word 0).getLsbD 0

/-- Whether the record is refused (Table 14-8, STATUS 1): LEVEL not the ring's, a reserved field non-zero, RM or DOM reserved, or
CTX not enabled. -/
def State.launchRefused (s : State) (d : Die) (q : Launch) : Bool :=
  let w := q.word 0
  let ctx := (w.extractLsb' 3 12).toNat
  w.extractLsb' 1 2 != q.level || w.extractLsb' 23 41 != 0
    || (List.range 13).any (fun k => q.word (0x50 + 8 * k) != 0)
    || 4 < (w.extractLsb' 16 3).toNat || 4 < (w.extractLsb' 20 3).toNat
    || !(tblGet {} ctx (s.die d).ctxs : CtxReg).en

/-- Whether the task is complete (R345): every exit notice has arrived, and a graph task's loom has been released. -/
def State.launchDone (s : State) (d : Die) (q : Launch) (loom : LoomNo) : Bool :=
  if q.thread then ((q.word 0x18).extractLsb' 0 16).toNat ≤ q.notices
  else 1 ≤ q.notices && (s.loom d loom).state == .free

/-- Whether a launch can complete with a STATUS (Table 14-8, R435): 0 and 1 as the record and the task say; the others for what
firmware has met in a task of the kind they are about. -/
def State.statusFits (s : State) (d : Die) (q : Launch) (loom : LoomNo) (status : BitVec 32) : Bool :=
  match status.toNat with
  | 0 => !s.launchRefused d q && s.launchDone d q loom
  | 1 => s.launchRefused d q
  | 2 | 5 | 6 => !s.launchRefused d q && !q.thread
  | 3 => !s.launchRefused d q && q.thread
  | 4 | 7 | 8 => !s.launchRefused d q
  | _ => false

/-- The completion record (Table 11-7) at an aclk. -/
def completionRecord (q : Launch) (status : BitVec 32) (now : Word) : List Word :=
  [q.word 0x48, q.word seqOffset, q.slot ++ 0#14 ++ q.level ++ status, now - q.since]

end Sys2Proof.Machine
end

