-- ==== Sys2Proof/Machine/Draft.lean ====
section
/-!
DEFINITION. The draft of a die as the fabric reads it (09 R311; 10 R320, R321, R324, R328) and hardware queues as they are
pushed (09 R310).
-/

namespace Sys2Proof.Machine

/-! Replica lists (R311) -/

/-- The count of a replica list. -/
def replicaCount (w : Word) : Nat := (w.extractLsb' 48 4).toNat

/-- A die of a replica list. -/
def replicaDie (w : Word) (j : Nat) : Die := w.extractLsb' (6 * j) 6

/-- The dies of a replica list. -/
def replicaDies (w : Word) : List Die := (List.range (min (replicaCount w) 8)).map (replicaDie w)

/-! The tables of a die -/

/-- An entry of version CUR. -/
def DieSt.curEntry (x : DieSt) (e : BitVec 12) : Word := tblGet 0 e.toNat x.heddle.curs

/-- An entry of version OTHER; zero while there is none. -/
def DieSt.otherEntry (x : DieSt) (e : BitVec 12) : Word := if x.heddle.ost = 0 then 0 else tblGet 0 e.toNat x.heddle.oths

/-- The entry of a live version. -/
def DieSt.versionEntry (x : DieSt) (v : BitVec 16) (e : BitVec 12) : Word :=
  if v = x.heddle.cur then x.curEntry e else if v = x.heddle.other then x.otherEntry e else 0

/-- Whether a version is live on the die (R324). -/
def DieSt.live (x : DieSt) (v : BitVec 16) : Bool := v == x.heddle.cur || (x.heddle.ost != 0 && v == x.heddle.other)

/-- A row for an expert is sent on as resident: NOW of its counter rises while the engine counts (R321). -/
def State.countRow (s : State) (d : Die) (e : BitVec 12) : State :=
  s.modDie d fun x =>
    if x.heddle.en then
      let c := tblGet (0, 0) e.toNat x.heddle.cnts
      { x with heddle := { x.heddle with cnts := tblSet (0, 0) e.toNat (c.1, c.2 + 1) x.heddle.cnts } }
    else x

/-! Holds (R328) -/

/-- The version tokens of a loom that are not yet closed. -/
def Loom.openTokens (l : Loom) (v : BitVec 16) : Nat := tblGet 0 v.toNat l.holds

/-- A version token is emitted, or closed. -/
def State.holdVersion (s : State) (d : Die) (l : LoomNo) (v : BitVec 16) (up : Bool) : State :=
  s.modLoom d l fun x =>
    let n := x.openTokens v
    { x with holds := tblSet 0 v.toNat (if up then n + 1 else n - 1) x.holds }

/-- This die's hold on a version. -/
def State.holdCount (s : State) (d : Die) (v : BitVec 16) : Nat :=
  let pins := (s.slots.filter fun e => e.1 / 32768 == d.toNat && e.2.pinned == some v && e.2.state != .free).length
  let spilled := ((s.cores.filter fun e => e.1 / 2048 == d.toNat).map fun e =>
    (e.2.spilled.filter (·.pinned == some v)).length).sum
  let tokens := ((s.looms.filter fun e => e.1 / 128 == d.toNat).map fun e => e.2.openTokens v).sum
  let frames := ((s.sheds.filter fun e => e.1 / 512 == d.toNat).map fun e =>
    (e.2.opened.filter fun f => f.version == v && f.counted).length + (e.2.closed.filter fun f => f.version == v && f.counted).length).sum
  let sent := ((s.die d).framesKept.filter fun f => f.version == v && f.counted).length
  pins + spilled + tokens + frames + sent

/-! Hardware queues (R310) -/

/-- The tokens a queue holds. -/
def hqTokens : Nat := 16

/-- Whether a queue has room. -/
def State.hqRoom (s : State) (d : Die) (q : HqNo) : Bool := (s.hq d q).tokens.length < hqTokens

/-- A token enters a queue. -/
def State.hqPush (s : State) (d : Die) (q : HqNo) (w : Word) : State :=
  s.modHq d q fun x => { x with tokens := x.tokens ++ [w] }

end Sys2Proof.Machine
end

