-- ==== Sys2Proof/Machine/Handle.lean ====
section
/-!
DEFINITION. Route handles (01 R36 to R39), the checks of a handle at issue and where its path leads (16 R430, R432).
-/

namespace Sys2Proof.Machine

/-! The fields of a handle (Table 1-9) -/

def handleDie (h : Word) : Die := h.extractLsb' 58 6
def handleClass (h : Word) : BitVec 2 := h.extractLsb' 56 2
def handleEnd (h : Word) : BitVec 12 := h.extractLsb' 44 12
def handleHops (h : Word) : BitVec 5 := h.extractLsb' 36 5
def handleTurns (h : Word) : BitVec 36 := h.extractLsb' 0 36

/-- A handle of an endpoint over a path (R36). -/
def mkHandle (d : Die) (e : BitVec 12) (p : Path) : Word := d ++ 0#1 ++ bit p.esc ++ e ++ 0#3 ++ p.hops ++ p.turns

/-- Whether a handle is well formed (R432): its CLASS not reserved, HOPS up to 18, and no TURNS without hops. -/
def handleOk (h : Word) : Bool :=
  !(handleClass h).getLsbD 1 && (handleHops h).toNat ≤ 18 && !(handleHops h == 0 && handleTurns h != 0)

/-- The core that a handle names (Table 1-10). -/
def handleCore (h : Word) : Option CoreNo :=
  if (handleEnd h).getLsbD 11 then none else some ((handleEnd h).extractLsb' 0 11)

/-- The shed that a handle names (Table 1-10). -/
def handleShed (h : Word) : Option ShedNo :=
  if 0x800 ≤ handleEnd h && handleEnd h < 0xa00 then some ((handleEnd h).extractLsb' 0 9) else none

/-- The trap of a handle given to SEND, SENDM, SPAWN or DIRMOVE: ROUTE 2 or ROUTE 3 (R432). -/
def handleFault (h rs2 : Word) : Option Act :=
  if !handleOk h then some (.trap 0x49 2 h rs2)
  else if (handleCore h).isNone then some (.trap 0x49 3 h rs2)
  else none

/-- Where a path leads (R430, R432). -/
inductive Leads where
  | arrives
  /-- It names a lost link, so that its flits travel along the rebuilt tree; the die of the link and the link. -/
  | detours (d : Die) (link : Nat)
  /-- It names a lost link, and its flits are held until the tree is rebuilt. -/
  | held
  /-- It fails. -/
  | fails
  deriving DecidableEq, Repr

/-- A link of a die. -/
def State.link (s : State) (d : Die) (n : Nat) : LinkSt := tblGet {} n (s.die d).links

/-- The die of the panel at a position. -/
def State.dieAt (s : State) (px py : Nat) : Option Die :=
  match s.dies.find? fun e => e.2.boot.present && e.2.boot.px.toNat == px && e.2.boot.py.toNat == py with
  | some (k, _) => some (BitVec.ofNat 6 k)
  | none => none

/-- The die at the other end of a link (R31): 0 N, 1 E, 2 S, 3 W. -/
def State.neighbour (s : State) (d : Die) (link : Nat) : Option Die :=
  let b := (s.die d).boot
  let x := b.px.toNat
  let y := b.py.toNat
  match link with
  | 0 => if 0 < y then s.dieAt x (y - 1) else none
  | 1 => if x < 7 then s.dieAt (x + 1) y else none
  | 2 => if y < 7 then s.dieAt x (y + 1) else none
  | _ => if 0 < x then s.dieAt (x - 1) y else none


/-- The set of dies reached over links that are up, by flooding n times. -/
def State.flood (s : State) : Nat → List Die → List Die
  | 0, l => l
  | n + 1, l =>
    let next := l.flatMap fun d => (List.range 4).filterMap fun k =>
      if (s.link d k).state == .up then s.neighbour d k else none
    s.flood n (l ++ next.filter fun d => !l.contains d).eraseDups

/-- Whether a die can be reached from another over links that are up. -/
def State.reachable (s : State) (a b : Die) : Bool := a == b || (s.flood 63 [a]).contains b

/-- Follows the hops of a path. -/
def State.follow (s : State) (dest : Die) : Nat → BitVec 36 → Die → Leads
  | 0, _, d => if d == dest then .arrives else .fails
  | n + 1, turns, d =>
    let l := (turns.extractLsb' 0 2).toNat
    match (s.link d l).state, s.neighbour d l with
    | .up, some e => s.follow dest n (turns >>> 2) e
    | .training, some _ => .held
    | .lost, _ => .held
    | .detour, _ => if s.dieThere d dest && s.reachable d dest then .detours d l else .fails
    | _, _ => .fails

/-- The path of a route table entry that is taken for a class: the escape path, or of the normal ones present that with more free
credits on its first link (R38). -/
def pathFor (tick : Nat) (esc : Bool) (e : RouteEntry) : Option Path :=
  if esc then e.esc else if Config.secondPath tick then e.norm1.or e.norm0 else e.norm0.or e.norm1

/-- Where a well-formed handle leads from a die (R39, R432). -/
def State.leads (s : State) (src : Die) (h : Word) : Leads :=
  s.follow (handleDie h) (handleHops h).toNat (handleTurns h) src

/-- Whether a unit of a die can be reached by a message without a handle of a program's (R30, R433). -/
def State.within (s : State) (src d : Die) : Bool := s.dieThere src d

end Sys2Proof.Machine
end

