-- ==== Sys2Proof/Machine/Mailbox.lean ====
section
/-!
DEFINITION. Mailboxes and treadle patterns of a core (09 R280 to R283): which messages a slot may take, a receipt, the
arrival of a message at a parked slot, the claims of patterns, and the cancelling of what a slot waits for.
-/

namespace Sys2Proof.Machine

/-- The messages a mailbox holds (R279). -/
def boxEntries : Nat := 4

/-- A mailbox of a core. -/
def CoreSt.box (c : CoreSt) (n : Nat) : List BoxMsg := tblGet [] n c.boxes

def CoreSt.setBox (c : CoreSt) (n : Nat) (l : List BoxMsg) : CoreSt := { c with boxes := tblSet [] n l c.boxes }

/-- A treadle pattern of a core. -/
def CoreSt.treadle (c : CoreSt) (p : Nat) : Treadle := tblGet {} p c.treadles

def CoreSt.setTreadle (c : CoreSt) (p : Nat) (t : Treadle) : CoreSt :=
  { c with treadles := tblSet {} p t c.treadles }

/-- Whether an enabled pattern owns a mailbox (R281). -/
def CoreSt.owned (c : CoreSt) (n : Nat) : Bool :=
  (List.range 16).any fun p => (c.treadle p).en && (c.treadle p).mask.getLsbD n

/-- The place of the message that a slot would take from a mailbox: its claimed head in an owned one, otherwise the
first message that no other slot has claimed (R282). -/
def CoreSt.takeable (c : CoreSt) (k : SlotNo) (n : Nat) : Option Nat :=
  (c.box n).findIdx? fun m => m.claim == some k || (m.claim.isNone && !c.owned n)

/-- The mailboxes of a mask in the order of R280: from the one after the last received from, upward modulo 32. -/
def boxOrder (last : BitVec 5) : List Nat := (List.range 32).map fun k => (last.toNat + 1 + k) % 32

/-- The mailbox a slot would take a message from, and the message's place. -/
def CoreSt.choose (c : CoreSt) (k : SlotNo) (last : BitVec 5) (mask : BitVec 32) : Option (Nat × Nat) :=
  (boxOrder last).findSome? fun n =>
    if mask.getLsbD n then (c.takeable k n).map fun p => (n, p) else none

/-- Whether a mask names an owned mailbox in which the slot has claimed no message (R280, R282). -/
def CoreSt.forbidden (c : CoreSt) (k : SlotNo) (mask : BitVec 32) : Bool :=
  (List.range 32).any fun n =>
    mask.getLsbD n && c.owned n && !((c.box n).any fun m => m.claim == some k)

/-- The message at a place of a mailbox in the window and mb of a slot (R280, Table 6-6). -/
def SlotSt.show (x : SlotSt) (n : Nat) (m : BoxMsg) : SlotSt :=
  { x.setWindow m.words with mbBox := BitVec.ofNat 5 n, mbLen := BitVec.ofNat 3 m.words.length,
                             lastBox := BitVec.ofNat 5 n }

/-- A receipt (R280): the message leaves the mailbox for the window, rd gets the mailbox number, and the acquire at the
scope of the message's release may invalidate the L1D. -/
def State.receive (s : State) (i : SlotId) (d : Reg) (n p : Nat) : State :=
  let c := s.core i.die i.core
  match (c.box n)[p]? with
  | none => s
  | some m =>
    let s := s.setCore i.die i.core (c.setBox n ((c.box n).eraseIdx p))
    let s := s.modSlot i fun x => x.show n m
    let s := s.writeReg i d (BitVec.ofNat 64 n)
    if atLeastC m.scope then s.dropL1d i.die i.core else s

/-! Parked slots -/

/-- The slots of a core. -/
def coreSlots (d : Die) (c : CoreNo) : List SlotId := (List.range 16).map fun n => ⟨d, c, BitVec.ofNat 4 n⟩

/-- The earliest in a list of slots by the moment they parked; the lower number first among equals. -/
def State.earliest (s : State) : List SlotId → Option SlotId
  | [] => none
  | i :: r =>
    match s.earliest r with
    | none => some i
    | some j => if (s.slot j).since.ult (s.slot i).since then some j else some i

/-- Whether a mailbox of a mask holds a message: what ends a WFI (R314). -/
def CoreSt.anyMessage (c : CoreSt) (mask : BitVec 32) : Bool :=
  (List.range 32).any fun n => mask.getLsbD n && !(c.box n).isEmpty

/-- Whether what a slot in PARK-MSG waits for is there: a message it may take, or for WFI any message of its mask. -/
def State.messageFor (s : State) (d : Die) (c : CoreNo) (i : SlotId) : Bool :=
  let x := s.slot i
  let mask : BitVec 32 := x.parkKey.extractLsb' 0 32
  x.state == .parkMsg
    && (if x.parkDst.isNone then (s.core d c).anyMessage mask
        else ((s.core d c).choose i.slot x.lastBox mask).isSome)

/-- Gives the messages a core holds to the slots parked for them: the earliest parked receives, WFI only goes on
(R280, R314). n bounds the slots served. -/
def State.serveParked (s : State) (d : Die) (c : CoreNo) : Nat → State
  | 0 => s
  | n + 1 =>
    match s.earliest ((coreSlots d c).filter (s.messageFor d c)) with
    | none => s
    | some i =>
      let x := s.slot i
      match x.parkDst, (s.core d c).choose i.slot x.lastBox (x.parkKey.extractLsb' 0 32) with
      | some r, some (b, p) => ((s.receive i r b p).wakeNext i).serveParked d c n
      | _, _ => (s.wakeNext i).serveParked d c n

/-- A message enters a mailbox of a core, and the slots parked for it are served. -/
def State.deliver (s : State) (d : Die) (c : CoreNo) (box : Nat) (words : List Word) (scope : Scope) : State :=
  (s.modCore d c fun x => x.setBox box (x.box box ++ [{ words, scope, claim := none }])).serveParked d c 16

/-- Whether a mailbox has room (R279). -/
def State.boxRoom (s : State) (d : Die) (c : CoreNo) (box : Nat) : Bool := ((s.core d c).box box).length < boxEntries

/-! Claims (R282, R283) -/

/-- The place of the first unclaimed message of a mailbox. -/
def unclaimed (l : List BoxMsg) : Option Nat := l.findIdx? fun m => m.claim.isNone

/-- Claims the first unclaimed message of each mailbox of a mask for a slot. -/
def CoreSt.claimAll (c : CoreSt) (mask : BitVec 32) (k : SlotNo) : CoreSt :=
  (List.range 32).foldl (fun c n =>
    if mask.getLsbD n then
      match unclaimed (c.box n) with
      | some p => c.setBox n ((c.box n).modify p fun m => { m with claim := some k })
      | none => c
    else c) c

/-- Whether every mailbox of a mask holds an unclaimed message. -/
def CoreSt.patternFull (c : CoreSt) (mask : BitVec 32) : Bool :=
  (List.range 32).all fun n => !mask.getLsbD n || (unclaimed (c.box n)).isSome

/-- The slot of a core parked in JOINWAIT on a pattern. -/
def State.joinSlot (s : State) (d : Die) (c : CoreNo) (p : Nat) : Option SlotId :=
  (coreSlots d c).find? fun i => (s.slot i).state == .parkJoin && (s.slot i).parkKey == BitVec.ofNat 64 p

/-- One pattern of the evaluation of R282. -/
def State.evaluatePattern (s : State) (d : Die) (c : CoreNo) (p : Nat) : State :=
  let x := s.core d c
  let t := x.treadle p
  if t.en && t.mask != 0 && x.patternFull t.mask then
    if t.wake then
      match s.joinSlot d c p with
      | some i =>
        let s := s.setCore d c (x.claimAll t.mask i.slot)
        let s := s.writeReg i ((s.slot i).parkDst.getD 0) (t.mask.zeroExtend 64)
        (s.modSlot i fun y => { y with pc := y.pc + 4 }).wake i
      | none => s
    else
      match s.freeSlot d c with
      | some k =>
        let s := s.setCore d c (x.claimAll t.mask k)
        let i : SlotId := ⟨d, c, k⟩
        let s := s.startThread i t.handler (t.mask.zeroExtend 64) ⟨t.frm, t.wlim, t.dom, t.jnl⟩
        s.modSlot i fun y => y.setG 2 (BitVec.ofNat 64 p)
      | none => s
  else s

/-- The evaluation of a core's patterns in index order (R282). -/
def State.evaluateTreadles (s : State) (d : Die) (c : CoreNo) : State :=
  (List.range 16).foldl (fun s p => s.evaluatePattern d c p) s

/-- Claims that a slot leaves at its EXIT revert, and ELOG of the core records 0x11 (14 R379). -/
def State.revertClaims (s : State) (i : SlotId) : State :=
  let c := s.core i.die i.core
  let mine := fun (n : Nat) => (c.box n).any fun m => m.claim == some i.slot
  if (List.range 32).any mine then
    let free := fun (m : BoxMsg) => if m.claim == some i.slot then { m with claim := none } else m
    let c := (List.range 32).foldl (fun c n => if mine n then c.setBox n ((c.box n).map free) else c) c
    ((s.setCore i.die i.core c).count i.die (.core i.core) 0x11).serveParked i.die i.core 16
  else s

/-- A parked JOINWAIT whose pattern is no longer enabled in MODE 1 is cancelled, and raises JOINWAIT 2 (14 R379). -/
def State.checkJoin (s : State) (d : Die) (c : CoreNo) (p : Nat) : State :=
  let t := (s.core d c).treadle p
  match s.joinSlot d c p with
  | some i =>
    if t.en && t.wake then s
    else (s.enter i .waitData .held).failSlot i 0x0a 2 (BitVec.ofNat 64 p) 0
  | none => s

/-! Cancelling what a slot waits for -/

/-- The wait of a slot is ended (R315, 14 R381): an access that has been performed is completed, one that has not is
withdrawn with its wait entry, and so is a lease or resume request, a request for an SFU entry or a held operand. -/
def State.cancelWait (s : State) (i : SlotId) : State :=
  let x := s.slot i
  match x.await with
  | .access id =>
    match s.access id with
    | some a =>
      if a.stage == .done then s.completeSlot i x.inc a a.result a.ok
      else if a.stage == .failed then s
      else s.dropAccess id
    | none => s
  | .sfu => s.modSkein i.die (skeinOf i.core) fun k =>
      { k with waiting := k.waiting.filter fun q => q.2.agent != .slot i x.inc }
  | .held => (s.unhold i.die (.operand i)).unhold i.die (.fetch i)
  | _ =>
    if x.state == .parkLease then
      s.modDie i.die fun y => { y with leases := y.leases.filter fun r => r.who != some (i, x.inc) }
    else s

/-- Whether what a slot waits for must end before it can trap or leave: the answer to a packet, the acceptance of its
slot packet, a loom, or the side macro. -/
def SlotSt.bound (x : SlotSt) : Bool :=
  x.state == .mx || match x.await with
  | .answer _ | .departure | .loom _ => x.state == .waitData
  | _ => false

end Sys2Proof.Machine
end

