-- ==== Sys2Proof/Machine/StoreLog.lean ====
section
/-!
DEFINITION. Instructions that write the store log of a journaled slot (16 R420).
-/

namespace Sys2Proof.Machine

/-- Appends an entry to the log of the executing slot; one that does not fit traps JNLFULL (R420). -/
def State.logEntry (t : State) (e : LogEntry) : Act :=
  let x := t.slot t.cur
  if logBytes < x.logUsed + e.op.size then
    .trap 0x46 0 (BitVec.ofNat 64 e.op.size) (BitVec.ofNat 64 (logBytes - x.logUsed))
  else .go ((t.modSlot t.cur fun x => { x with log := x.log ++ [e] }).advance)

/-- A store, FILL or PURGE of a journaled slot: translated and checked at issue; logged, but for a store into the core's
own scratchpad or skein-memory share, which starts as any store (R420). -/
def State.logOrStart (t : State) (op : LogOp) (need : Need) (va data : Word) (start : State → State) : Act :=
  let i := t.cur
  match t.reach i va need (op == .store 8) (t.heldRetries i.die (.operand i)) with
  | .notReady | .unready _ _ _ => .wait
  | .fault cause sub addr => operandFault t i need cause sub addr
  | .ok pa key t =>
    let t := t.unhold i.die (.operand i)
    let plain := match op with | .store _ => true | _ => false
    if plain && ownLocal i pa then .go (start t)
    else t.logEntry { op, va, pa, key, data, pc := (t.slot i).pc }

end Sys2Proof.Machine
end

