-- ==== Sys2Proof/Machine/Memory.lean ====
section
/-!
DEFINITION. Loads, stores, full/empty operations, amos, CAS and fences of thread form at issue (07 R226 to R237). What
an access does at its home is in Home.lean.
-/

namespace Sys2Proof.Machine

/-! Loads and stores -/

/-- log2 of the size of a load (Table 7-10). -/
def loadLog2 : LoadOp → Nat
  | .b | .bu => 0
  | .h | .hu => 1
  | .w | .wu => 2
  | .d => 3

/-- log2 of the size of a store (R227). -/
def storeLog2 : StoreOp → Nat
  | .b => 0 | .h => 1 | .w => 2 | .d => 3

/-- The value a load gives rd from the bytes read (Table 7-10). -/
def extendLoad (o : LoadOp) (v : Word) : Word :=
  match o with
  | .b => (v.extractLsb' 0 8).signExtend 64
  | .h => (v.extractLsb' 0 16).signExtend 64
  | .w => (v.extractLsb' 0 32).signExtend 64
  | .bu => (v.extractLsb' 0 8).zeroExtend 64
  | .hu => (v.extractLsb' 0 16).zeroExtend 64
  | .wu => (v.extractLsb' 0 32).zeroExtend 64
  | .d => v

/-- A load (R226). Its data is the number of entries that the slot's store log holds before it (R420). -/
def execLoad (o : LoadOp) (d a : Reg) (i : BitVec 13) (s : State) : Result :=
  s.issueResult [a] [d] fun v t =>
    let va := v.getD 0 0 + imm64 i
    match t.addressFault t.cur va (loadLog2 o) with
    | some f => f
    | none =>
      let logged := BitVec.ofNat 64 (t.slot t.cur).log.length
      .go (t.startAccess { t.newAccess t.cur (.load o) .s false false va with dst := d, data := logged })

def execLdB (d a : Reg) (i : BitVec 13) (s : State) : Result := execLoad .b d a i s
def execLdH (d a : Reg) (i : BitVec 13) (s : State) : Result := execLoad .h d a i s
def execLdW (d a : Reg) (i : BitVec 13) (s : State) : Result := execLoad .w d a i s
def execLdD (d a : Reg) (i : BitVec 13) (s : State) : Result := execLoad .d d a i s
def execLdBu (d a : Reg) (i : BitVec 13) (s : State) : Result := execLoad .bu d a i s
def execLdHu (d a : Reg) (i : BitVec 13) (s : State) : Result := execLoad .hu d a i s
def execLdWu (d a : Reg) (i : BitVec 13) (s : State) : Result := execLoad .wu d a i s

/-- A store (R227): the address is rs1's, the data rs2's. -/
def execStore (o : StoreOp) (b a : Reg) (i : BitVec 13) (s : State) : Result :=
  s.issue [a, b] [] fun v t =>
    let va := v.getD 0 0 + imm64 i
    let data := v.getD 1 0
    match t.addressFault t.cur va (storeLog2 o) with
    | some f => f
    | none =>
      let start := fun (t : State) =>
        t.startAccess { t.newAccess t.cur (.store o) .s false false va with data }
      if t.journaled then t.logOrStart (.store (2 ^ storeLog2 o)) needW va data start else .go (start t)

def execStB (b a : Reg) (i : BitVec 13) (s : State) : Result := execStore .b b a i s
def execStH (b a : Reg) (i : BitVec 13) (s : State) : Result := execStore .h b a i s
def execStW (b a : Reg) (i : BitVec 13) (s : State) : Result := execStore .w b a i s
def execStD (b a : Reg) (i : BitVec 13) (s : State) : Result := execStore .d b a i s

/-! Full/empty operations (R230, R231) -/

/-- Whether a full/empty operation is an acquire: LDE, TAKE, WAITF, and TRYTAKE on status 1 (Table 7-11). -/
def feAcquires : FeOp → Bool
  | .lde | .take | .waitf | .trytake => true
  | _ => false

/-- Whether a full/empty operation is a release (Table 7-11). -/
def feReleases : FeOp → Bool
  | .put | .fill => true
  | _ => false

/-- A full/empty operation that reads its home: LDE, TAKE, FESTAT, WAITF, TRYTAKE. -/
def execFeRead (o : FeOp) (sc : Scope) (d d2 a : Reg) (s : State) : Result :=
  s.issueResult [a] [d, d2] fun v t =>
    let va := v.getD 0 0
    match t.addressFault t.cur va 3 with
    | some f => f
    | none =>
      .go (t.startAccess { t.newAccess t.cur (.fe o) sc (feAcquires o) (feReleases o) va with dst := d, dst2 := d2 })

/-- A full/empty operation that writes data or empties: PUT, FILL, PURGE. FILL and PURGE of a journaled slot go to its
store log (R420). -/
def execFeWrite (o : FeOp) (sc : Scope) (srcs : List Reg) (s : State) : Result :=
  s.issueResult srcs [] fun v t =>
    let va := v.getD 0 0
    let data := v.getD 1 0
    match t.addressFault t.cur va 3 with
    | some f => f
    | none =>
      let start := fun (t : State) =>
        t.startAccess { t.newAccess t.cur (.fe o) sc (feAcquires o) (feReleases o) va with data }
      if t.journaled then t.logOrStart (if o == .fill then .fill sc else .purge) (opNeed (.fe o)) va data start
      else .go (start t)

def execLde (sc : Scope) (d a : Reg) (s : State) : Result := execFeRead .lde sc d 0 a s
def execTake (sc : Scope) (d a : Reg) (s : State) : Result := execFeRead .take sc d 0 a s
def execFestat (d a : Reg) (s : State) : Result := execFeRead .festat .s d 0 a s
def execWaitf (sc : Scope) (a : Reg) (s : State) : Result := execFeRead .waitf sc 0 0 a s

/-- TRYTAKE (R230): rs2 names the register of the status. -/
def execTrytake (sc : Scope) (d b a : Reg) (s : State) : Result := execFeRead .trytake sc d b a s

/-- PUT (R231): a journaled slot traps JNLOP (R420). -/
def execPut (sc : Scope) (b a : Reg) (s : State) : Result :=
  if s.journaled then s.perform (.trap 0x45 0 0 0) else execFeWrite .put sc [a, b] s

def execFill (sc : Scope) (b a : Reg) (s : State) : Result := execFeWrite .fill sc [a, b] s
def execPurge (a : Reg) (s : State) : Result := execFeWrite .purge .s [a] s

/-! Amos and CAS (R233, R234) -/

/-- An amo or CAS: rs1 the address, rs2 the operand, and for a CAS rd the expected value. A journaled slot traps JNLOP
(R420). -/
def execAtomic (o : MemOp) (w : Bool) (sc : Option Scope) (d b a : Reg) (s : State) : Result :=
  if s.journaled then s.perform (.trap 0x45 0 0 0)
  else
    s.issueResult [a, b, d] [d] fun v t =>
      let va := v.getD 0 0
      match t.addressFault t.cur va (if w then 2 else 3) with
      | some f => f
      | none =>
        let acc := t.newAccess t.cur o (sc.getD .s) sc.isSome sc.isSome va
        .go (t.startAccess { acc with data := v.getD 1 0, expect := v.getD 2 0, dst := d })

/-- An amo: rd is written only, so that it is no source. -/
def execAmo (o : AmoOp) (w : Bool) (sc : Option Scope) (d b a : Reg) (s : State) : Result :=
  if s.journaled then s.perform (.trap 0x45 0 0 0)
  else
    s.issueResult [a, b] [d] fun v t =>
      let va := v.getD 0 0
      match t.addressFault t.cur va (if w then 2 else 3) with
      | some f => f
      | none =>
        let acc := t.newAccess t.cur (.amo o w) (sc.getD .s) sc.isSome sc.isSome va
        .go (t.startAccess { acc with data := v.getD 1 0, dst := d })

def execAmoSwap (w : Bool) (d b a : Reg) (s : State) : Result := execAmo .swap w none d b a s
def execAmoAdd (w : Bool) (d b a : Reg) (s : State) : Result := execAmo .add w none d b a s
def execAmoAnd (w : Bool) (d b a : Reg) (s : State) : Result := execAmo .and w none d b a s
def execAmoOr (w : Bool) (d b a : Reg) (s : State) : Result := execAmo .or w none d b a s
def execAmoXor (w : Bool) (d b a : Reg) (s : State) : Result := execAmo .xor w none d b a s
def execAmoMin (w : Bool) (d b a : Reg) (s : State) : Result := execAmo .min w none d b a s
def execAmoMax (w : Bool) (d b a : Reg) (s : State) : Result := execAmo .max w none d b a s
def execAmoMaxu (w : Bool) (d b a : Reg) (s : State) : Result := execAmo .maxu w none d b a s
def execAmoSwapScoped (w : Bool) (sc : Scope) (d b a : Reg) (s : State) : Result := execAmo .swap w (some sc) d b a s
def execAmoAddScoped (w : Bool) (sc : Scope) (d b a : Reg) (s : State) : Result := execAmo .add w (some sc) d b a s
def execAmoAndScoped (w : Bool) (sc : Scope) (d b a : Reg) (s : State) : Result := execAmo .and w (some sc) d b a s
def execAmoOrScoped (w : Bool) (sc : Scope) (d b a : Reg) (s : State) : Result := execAmo .or w (some sc) d b a s
def execAmoXorScoped (w : Bool) (sc : Scope) (d b a : Reg) (s : State) : Result := execAmo .xor w (some sc) d b a s
def execAmoMinScoped (w : Bool) (sc : Scope) (d b a : Reg) (s : State) : Result := execAmo .min w (some sc) d b a s
def execAmoMaxScoped (w : Bool) (sc : Scope) (d b a : Reg) (s : State) : Result := execAmo .max w (some sc) d b a s
def execAmoMaxuScoped (w : Bool) (sc : Scope) (d b a : Reg) (s : State) : Result := execAmo .maxu w (some sc) d b a s

/-- CAS (R234). -/
def execCas (w : Bool) (sc : Scope) (d b a : Reg) (s : State) : Result :=
  execAtomic (.cas w) w (some sc) d b a s

/-! Fences (R236, R237) -/

/-- Whether an earlier read of the executing thread has not returned. -/
def State.readsOpen (s : State) : Bool :=
  (s.slotAccs s.cur).any (fun a => isReadOp a.op) || s.vecMem s.cur s.nextId

/-- Whether every earlier access of the executing thread has been performed. -/
def State.allPerformed (s : State) : Bool :=
  (s.slotAccs s.cur).isEmpty && !s.vecMem s.cur s.nextId && !s.sealedAny s.cur (s.slot s.cur).inc fun _ => true

/-- The acquire part of a fence that is complete: the L1D is invalidated at c and wider (R124). -/
def State.acquired (t : State) (sc : Scope) : State :=
  if atLeastC sc then t.dropL1d t.cur.die t.cur.core else t

/-- The release part of a fence: later messages act as releases at its scope, and later writes wait for the earlier accesses
that are still to be performed, which an access of its own stands for (R150, R236). -/
def State.fenceRelease (t : State) (sc : Scope) : State :=
  let i := t.cur
  let t' := t.modSlot i fun x => { x with relScope := widerScope x.relScope sc }
  if t.allPerformed then t'.advance
  else t'.startAccess { t'.newAccess i .fence sc false true 0 with stage := .home }

/-- FENCE full: an acquire, which completes when every earlier read has returned, and a release; it waits besides for the
accesses before the full fences of other threads that it covers and that cover it (R150, R236). -/
def execFenceFull (sc : Scope) (s : State) : Result :=
  s.issue [] [] fun _ t =>
    let inc := (t.slot t.cur).inc
    if t.readsOpen || t.fenceBehind t.cur inc sc then .wait
    else .go (((t.acquired sc).noteFence t.cur inc sc).fenceRelease sc)

/-- FENCE acquire: it completes when every earlier read has returned (R236). -/
def execFenceAcq (sc : Scope) (s : State) : Result :=
  s.issue [] [] fun _ t => if t.readsOpen then .wait else .go ((t.acquired sc).advance)

/-- FENCE release: the slot continues, and later writes wait for the earlier accesses (R236). -/
def execFenceRel (sc : Scope) (s : State) : Result :=
  s.issue [] [] fun _ t => .go (t.fenceRelease sc)

/-- FENCE ifence: an acquire that also invalidates the L1I (R125, R150). -/
def execFenceIfence (sc : Scope) (s : State) : Result :=
  s.issue [] [] fun _ t =>
    if t.readsOpen then .wait
    else .go (((t.acquired sc).modCore t.cur.die t.cur.core fun c => { c with l1i := [] }).advance)

/-- FENCE syncwin (R162, R237): it waits in WAIT-DATA until the shed's SWINCNT has reached the count; a die absent from
the panel map traps NODIE (15 Table 15-1). -/
def execFenceSyncwin (sc : Scope) (a b : Reg) (s : State) : Result :=
  s.issue [a, b] [] fun v t =>
    let x := v.getD 0 0
    let die : Die := x.extractLsb' 16 6
    let w : BitVec 32 := (v.getD 1 0).extractLsb' 0 32
    if !t.dieThere t.cur.die die then .trap 0x2a 0 x 0
    else if (((t.shed die (x.extractLsb' 0 9)).swincnt - w).getLsbD 31) then .wait
    else .go ((t.acquired sc).advance)

end Sys2Proof.Machine
end

