-- ==== Sys2Proof/Machine/Message.lean ====
section
/-!
DEFINITION. Messages and treadle patterns: SEND to WAITMSG, TRSET to TREN, JOINWAIT, and the arrival, acceptance,
return and re-offer of a message (09 R278 to R283; 14 R379 to R383).
-/

namespace Sys2Proof.Machine

/-! SEND and SENDM -/

/-- The reservations of a core (14 R380). -/
def reservations : Nat := 64

/-- The cores that a send goes to: the destination core, or those of its skein that CMASK names. -/
def sendCores (multi : Bool) (c : CoreNo) (w : Word) : List CoreNo :=
  if multi then ((List.range 16).filter fun j => w.getLsbD (48 + j)).map fun j => (c.extractLsb' 4 7) ++ BitVec.ofNat 4 j
  else [c]

/-- The messages of a send (Table 9-1). -/
def State.sendMails (t : State) (multi : Bool) (sc : Scope) (len : Nat) (h w : Word) (c : CoreNo) : List Mail :=
  let i := t.cur
  let x := t.slot i
  (sendCores multi c w).map fun k =>
    { src := .thread i x.inc, die := handleDie h, core := k, box := w.extractLsb' 0 5,
      words := (List.range len).map x.mw, scope := sc, fence := x.relScope,
      chk := if !multi && w.getLsbD 5 then some (w.extractLsb' 6 4, w.extractLsb' 10 8) else none,
      multi, handle := h, destWord := w }

/-- Puts the copies of a send on their way, or into the store log of a journaled slot (R420). Where a copy does not fit the log, the
trap gives that entry's bytes and those then free, and no copy of the SENDM stays logged (DEDUCED, log entry 100). -/
def sendAll : List Mail → State → Act
  | [], t => .go t.advance
  | m :: ms, t =>
    if t.journaled then
      let x := t.slot t.cur
      let e : LogEntry := { op := .mail m, pc := x.pc }
      if logBytes < x.logUsed + e.op.size then
        .trap 0x46 0 (BitVec.ofNat 64 e.op.size) (BitVec.ofNat 64 (logBytes - x.logUsed))
      else sendAll ms (t.modSlot t.cur fun x => { x with log := x.log ++ [e] })
    else sendAll ms (t.sendRelease (.mail m) t.cur)

/-- SEND and SENDM (R279): g + 1 is the length; a result outstanding to a double of the window that is sent holds them (R202); too few free return reservations keep the slot in WAIT-DATA (R380). -/
def execSendTo (multi : Bool) (sc : Scope) (a b : Reg) (l : BitVec 3) (s : State) : Result :=
  s.issueWith (windowRegs (l.toNat + 1)) [a, b] [] fun v t =>
    let h := v.getD 0 0
    let w := v.getD 1 0
    match handleFault h w, handleCore h with
    | some f, _ => f
    | _, none => .trap 0x49 3 h w
    | none, some c =>
      let ms := t.sendMails multi sc (l.toNat + 1) h w c
      if reservations < t.curCore.resv + ms.length then .wait
      else sendAll ms (t.modCore t.cur.die t.cur.core fun x => { x with resv := x.resv + ms.length })

def execSend (sc : Scope) (a b : Reg) (l : BitVec 3) (s : State) : Result := execSendTo false sc a b l s
def execSendm (sc : Scope) (a b : Reg) (l : BitVec 3) (s : State) : Result := execSendTo true sc a b l s

/-! RECV, TRYRECV, PEEK, WAITMSG (R280) -/

/-- What an instruction does when no masked mailbox holds a message it may take. -/
inductive Empty where
  | park
  | ones

/-- A receipt under a mask. The window is written, so that results outstanding to it are waited for (R202, DEDUCED, log entry
95). PEEK is no acquire, as R280 says; Table 5-3 (R149) counts it among the acquires (DESIGN CHOICE, log entry 92). -/
def receiveMask (peek : Bool) (e : Empty) (d : Reg) (mask : BitVec 32) (t : State) : Act :=
  let i := t.cur
  let c := t.curCore
  if c.forbidden i.slot mask then .trap 0x09 0 (mask.zeroExtend 64) 0
  else
    match c.choose i.slot (t.slot i).lastBox mask with
    | some (n, p) =>
      if peek then
        match (c.box n)[p]? with
        | some m =>
          let last := (t.slot i).lastBox
          .go ((t.modSlot i fun x => { x.show n m with lastBox := last }).finish d (BitVec.ofNat 64 n))
        | none => .wait
      else .go ((t.receive i d n p).advance)
    | none =>
      match e with
      | .park =>
        .go ((t.modSlot i fun x => { x with parkKey := mask.zeroExtend 64, parkDst := some d }).enter i .parkMsg .retry)
      | .ones => .go (t.finish d (BitVec.allOnes 64))

def execRecv (d a : Reg) (s : State) : Result :=
  s.issueWith (windowRegs 6) [a] [d] fun v t => receiveMask false .park d ((v.getD 0 0).extractLsb' 0 32) t

def execTryrecv (d a : Reg) (s : State) : Result :=
  s.issueWith (windowRegs 6) [a] [d] fun v t => receiveMask false .ones d ((v.getD 0 0).extractLsb' 0 32) t

def execPeek (d a : Reg) (s : State) : Result :=
  s.issueWith (windowRegs 6) [a] [d] fun v t => receiveMask true .ones d ((v.getD 0 0).extractLsb' 0 32) t

/-- WAITMSG receives from m31. -/
def execWaitmsg (d : Reg) (s : State) : Result :=
  s.issueWith (windowRegs 6) [] [d] fun _ t => receiveMask false .park d 0x80000000 t

/-! Treadle patterns (R281 to R283) -/

/-- A change of the patterns of the executing core, after which a parked JOINWAIT on the changed pattern is checked. -/
def State.changePattern (t : State) (p : Nat) (f : Treadle → Treadle) : State :=
  let i := t.cur
  (t.modCore i.die i.core fun c => c.setTreadle p (f (c.treadle p))).checkJoin i.die i.core p

/-- TRSET (Table 6-16): a reserved bit set traps TREADLE 1 (14 R379). -/
def execTrset (a : Reg) (s : State) : Result :=
  s.issue [a] [] fun v t =>
    let va := v.getD 0 0
    t.withRecord va 3 2 fun ws t =>
      let w := ws.getD 0 0
      if w.extractLsb' 34 2 != 0 || w.extractLsb' 40 24 != 0 then .trap 0x09 1 va 0
      else
        let x := t.slot t.cur
        let p := (w.extractLsb' 36 4).toNat
        let r : Treadle :=
          { mask := w.extractLsb' 0 32, en := w.getLsbD 32, wake := w.getLsbD 33, handler := ws.getD 1 0,
            frm := x.frm, wlim := x.wlim, dom := x.dom, jnl := t.journaled }
        .go ((t.changePattern p fun _ => r).advance)

/-- TRCLR. -/
def execTrclr (a : Reg) (s : State) : Result :=
  s.issue [a] [] fun v t =>
    .go ((t.changePattern ((v.getD 0 0).toNat % 16) fun r => { r with mask := 0, en := false }).advance)

/-- TREN. -/
def execTren (a b : Reg) (s : State) : Result :=
  s.issue [a, b] [] fun v t =>
    .go ((t.changePattern ((v.getD 0 0).toNat % 16) fun r => { r with en := (v.getD 1 0).getLsbD 0 }).advance)

/-- JOINWAIT (R283): JOINWAIT 0 while another slot waits on the pattern, JOINWAIT 1 for a pattern that is not enabled
in MODE 1 with a mask (14 R379). -/
def execJoinwait (d a : Reg) (s : State) : Result :=
  s.issue [a] [d] fun v t =>
    let i := t.cur
    let p := (v.getD 0 0).toNat % 16
    let r := t.curCore.treadle p
    if (t.joinSlot i.die i.core p).isSome then .trap 0x0a 0 (BitVec.ofNat 64 p) 0
    else if !r.en || r.mask == 0 || !r.wake then .trap 0x0a 1 (BitVec.ofNat 64 p) 0
    else
      .go ((t.modSlot i fun x => { x with parkKey := BitVec.ofNat 64 p, parkDst := some d }).enter i .parkJoin .retry)

/-- TREADLE_EVALUATE (R282): the patterns of a core are evaluated, once in an aclk. -/
def execTreadleEvaluate (s : State) : Result :=
  let d := s.ev.die
  let c := s.ev.core
  .next <|
    if (s.core d c).evaluated == some s.aclk then s
    else (s.evaluateTreadles d c).modCore d c fun x => { x with evaluated := some s.aclk }

/-! Delivery (R279; 14 R380 to R382) -/

/-- The die a message comes from. -/
def Mail.origin (m : Mail) : Die :=
  match m.src with
  | .thread i _ => i.die
  | .engine d _ => d

/-- Whether an earlier message of the same sender to the same mailbox is still on its way (R153). -/
def State.overtakes (s : State) (id : Nat) (m : Mail) : Bool :=
  s.net.any fun q => q.id < id && match q.packet with
    | .mail n => n.src == m.src && n.die == m.die && n.core == m.core && n.box == m.box
    | _ => false

/-- Changes a packet in flight. -/
def State.modPacket (s : State) (id : Nat) (f : InFlight → InFlight) : State :=
  { s with net := s.net.map fun q => if q.id == id then f q else q }

/-- A message goes back to its sender whole (R381). -/
def State.returnMail (s : State) (id : Nat) (m : Mail) (cause sub : Byte) : State :=
  s.modPacket id fun q => { q with packet := .returned m cause sub, src := none }

/-- An accepted message is in its mailbox; its sender's reservation is on its way to be freed (R380). -/
def State.acceptMail (s : State) (id : Nat) (m : Mail) : State :=
  let s := (s.dropPacket id).deliver m.die m.core m.box.toNat m.words (widerScope m.scope m.fence)
  match m.src with
  | .thread i _ => s.send (.accepted i)
  | .engine _ n => if n = noticeUnit && m.box == 30 && m.words.length == 1 then s.noteExit m.die m.core else s

/-- The core that a copy completion goes back to, in its destination word. -/
def requesterWord (d : Die) (c : CoreNo) : Word := 0#47 ++ d ++ c

/-- A copy completion whose target cannot be reached goes to the requester with its contents unchanged (R400). -/
def State.redirectMail (s : State) (id : Nat) (m : Mail) : State :=
  s.modPacket id fun q =>
    { q with packet := .mail { m with die := m.destWord.extractLsb' 11 6, core := m.destWord.extractLsb' 0 11, handle := 0 },
             heldUntil := none }

/-- The checks of a message at its destination core, in the order of R381; a message that is never returned is held at a
full mailbox (R382). -/
def State.offerMail (s : State) (id : Nat) (m : Mail) : State :=
  match m.src with
  | .thread _ _ =>
    let stale : Bool := match m.chk with
      | some (k, inc) =>
        let x := s.slot ⟨m.die, m.core, k⟩
        x.state == .free || x.inc != inc
      | none => false
    if (s.core m.die m.core).retired then s.returnMail id m 0x4a 1
    else if stale then s.returnMail id m 0x07 0
    else if !s.boxRoom m.die m.core m.box.toNat then s.returnMail id m 0x08 0
    else s.acceptMail id m
  | .engine _ _ =>
    if (s.core m.die m.core).retired then if m.handle = 0 then s.dropPacket id else s.redirectMail id m
    else if s.boxRoom m.die m.core m.box.toNat then s.acceptMail id m
    else s.modPacket id fun q => { q with heldUntil := some (s.aclk + 256) }

/-- The sender of a message, as an agent. -/
def Mail.party (m : Mail) : Party :=
  match m.src with
  | .thread i _ => .core i.die i.core
  | .engine d n => .engine d n

/-- Whether the accesses that a message releases to its core have been performed: those before the send when its scope covers
the core, those before a release fence when the fence's does (R150, R151, R153); and of a copy completion the elements (R163). -/
def State.mailReleased (s : State) (q : InFlight) (m : Mail) : Bool :=
  let dest : Party := .core m.die m.core
  let own := !s.inScope m.party m.scope dest || s.released q.src q.id
  own && match m.src, q.src with
    | .engine d n, _ =>
      !s.inScope m.party m.scope dest || n ≥ 64 || (s.hart d (BitVec.ofNat 6 n)).posted.all fun w => q.id ≤ w.id
    | .thread _ _, some (i, inc) =>
      (s.openFences i inc q.id).all fun r => !s.inScope r.party r.scope dest || s.relSettled r
    | .thread _ _, none => true

/-- MESSAGE_ARRIVAL (R381, R432): the message leads to its core or fails on its way with UNREACH 0. -/
def execMessageArrival (s : State) : Result :=
  let id := s.ev.id
  .next <|
    match s.net.find? (·.id == id) with
    | some q =>
      match q.packet with
      | .mail m =>
        if q.heldUntil.isSome || s.overtakes id m || !s.mailReleased q m then s
        else
          match m.src with
          | .engine d _ =>
            if m.handle = 0 then if s.dieThere d m.die then s.offerMail id m else s.dropPacket id
            else
              match s.leads d m.handle with
              | .arrives => s.offerMail id m
              | .detours d l => (s.offerMail id m).count d (.link (BitVec.ofNat 2 l)) 0x51
              | .held => s
              | .fails => s.redirectMail id m
          | .thread i _ =>
            match s.leads i.die m.handle with
            | .arrives => s.offerMail id m
            | .detours d l => (s.offerMail id m).count d (.link (BitVec.ofNat 2 l)) 0x51
            | .held => s
            | .fails => s.returnMail id m 0x4a 0
      | _ => s
    | none => s

/-- HELD_MESSAGE_REOFFER (R382): after 256 aclk the held message is offered again, and the core's log records 0x10. -/
def execHeldMessageReoffer (s : State) : Result :=
  let id := s.ev.id
  .next <|
    match s.net.find? (·.id == id) with
    | some q =>
      match q.packet, q.heldUntil with
      | .mail m, some t =>
        if s.aclk.ult t then s
        else
          let s := s.count m.die (.core m.core) 0x10
          let s := s.modPacket id fun q => { q with heldUntil := none }
          s.offerMail id m
      | _, _ => s
    | none => s

/-- MESSAGE_ACCEPTANCE (R380): the sender's core gets its reservation back. -/
def execMessageAcceptance (s : State) : Result :=
  let id := s.ev.id
  .next <|
    match s.packet id with
    | some (.accepted i) => (s.dropPacket id).modCore i.die i.core fun c => { c with resv := c.resv - 1 }
    | _ => s

/-- The trap record of a returned message (R381, Table 14-2). -/
def returnRecord (m : Mail) (cause sub : Byte) (i : SlotId) (inc : Byte) (gone parks : Bool) (pc : Word) : TrapRec :=
  { cause, sub, slot := i.slot, inc, gone, parks, pc, word := 0, val := m.handle, aux := m.destWord,
    len := BitVec.ofNat 3 m.words.length, scope := m.scope.code, multi := m.multi, msg := m.words }

/-- MESSAGE_RETURN (R381): the record is queued, and the sending thread, when it still exists and is not TRAPPED, becomes
TRAPPED before its next issue. In slot 15 it is a supervisor fault (R376). -/
def execMessageReturn (s : State) : Result :=
  let id := s.ev.id
  .next <|
    match s.packet id with
    | some (.returned m cause sub) =>
      match m.src with
      | .engine _ _ => s.dropPacket id
      | .thread i inc =>
        let x := s.slot i
        let here := x.inc == inc && x.state != .free
        let live := here && x.state != .trapped
        if live && (x.bound || s.unsettled i) then s
        else
          let s := s.dropPacket id
          let s := if live then s.cancelWait i else s
          let pc := (s.slot i).pc
          if isPriv i then
            let s := s.modCore i.die i.core fun c => { c with resv := c.resv - 1 }
            if live then s.supervisorFault i cause sub pc 0 m.handle m.destWord else s
          else
            let s := if live then s.enter i .trapped .retry else s
            let r := returnRecord m cause sub i inc (!here) live (if live then pc else 0)
            (s.modCore i.die i.core fun c => { c with traps := c.traps ++ [r] }).wakeSupervisor i.die i.core
    | _ => s

end Sys2Proof.Machine
end

