-- ==== Sys2Proof/Machine/Matrix.lean ====
section
/-!
DEFINITION. Matrix passes (03 R108, R109): the values of A rows and of the columns of a loaded image (08 R254), and one
column of a pass. Fabric macros and the side macro share it.
-/

namespace Sys2Proof.Machine

/-- The format of a matrix format field. -/
def mfFmt : Mf3 → Fmt
  | .int8 => .int8 | .e4m3 => .e4m3 | .e5m2 => .e5m2 | .tw8 => .tw8 | .tw6 => .tw6 | .tw3 => .tw3 | .bf16 => .bf16
  | .fp16 => .fp16

/-- The elements of a row per pass (00 Table 0-2). -/
def mfDepth : Mf3 → Nat
  | .int8 | .e4m3 | .e5m2 | .tw8 => 192
  | .tw6 => 256
  | .tw3 => 512
  | .bf16 | .fp16 => 96

/-- The value of an element's bits: a twill element by its scale and its place in the block. -/
def elemVal (f : Fmt) (scale : BitVec 16) (pos : Nat) (bits : Word) : FVal :=
  if f.isInt then
    let v := (BitVec.ofNat f.width bits.toNat).toInt
    .fin (v < 0) v.natAbs 0
  else if f.isTwill then twillVal f.mag scale pos bits
  else decodeFp f.layout bits

/-- The K values of 192 payload bytes with their scales (R254): element k stands at bit width × k. -/
def rowVals (m : Mf3) (payload : List Byte) (scales : List (BitVec 16)) : List FVal :=
  let f := mfFmt m
  let n := bytesNat payload
  (List.range (mfDepth m)).map fun k =>
    elemVal f (scales.getD (k / 16) 0) (k % 16) (BitVec.ofNat 64 (n / 2 ^ (f.width * k) % 2 ^ f.width))

/-- The K values of a column of an image whose scales begin at an offset (R254). -/
def columnVals (m : Mf3) (image : Tbl Byte) (scaleBase c : Nat) : List FVal :=
  rowVals m ((List.range 192).map fun b => tblGet 0 (192 * c + b) image)
    ((List.range 32).map fun j =>
      tblGet 0 (scaleBase + 64 * c + 2 * j + 1) image ++ tblGet 0 (scaleBase + 64 * c + 2 * j) image)

/-- The magnitude and exponent of a finite value. -/
def FVal.parts : FVal → Bool × Nat × Int
  | .fin n m e => (n, m, e)
  | _ => (false, 0, 0)

/-- The product of two values, and whether forming it is invalid (R109). -/
def passProduct (a b : FVal) : FVal × Bool :=
  match exactMul a b with
  | .nan nv => (.nan false, nv)
  | .inf n _ => (.inf n, false)
  | .num n x _ e => (.fin n x e, false)

/-- The truncated sum of finite products (R109): each magnitude in units of 2^(emax − 32), rounded down. -/
def passSum (ps : List FVal) : Exact :=
  let big := ps.filterMap fun p =>
    let x := p.parts
    if x.2.1 = 0 then none else some ((Nat.log2 x.2.1 : Int) + x.2.2)
  match big with
  | [] => .num false 0 1 0
  | l :: ls =>
    let emax := ls.foldl max l
    let units := ps.foldl (fun (v : Int) p =>
      let x := p.parts
      let q := scaleFrac x.2.1 1 (x.2.2 + 32 - emax)
      if x.1 then v - (q.1 / q.2 : Nat) else v + (q.1 / q.2 : Nat)) 0
    .num (units < 0) units.natAbs 1 (emax - 32)

/-- S of R109, before its rounding. -/
def passExact (ps : List (FVal × Bool)) : Exact :=
  let vs := ps.map (·.1)
  let invalid := ps.any (·.2)
  let plus := vs.contains (.inf false)
  let minus := vs.contains (.inf true)
  if invalid || vs.any (·.isNan) || (plus && minus) then .nan (invalid || (plus && minus))
  else if plus then .inf false 0
  else if minus then .inf true 0
  else passSum vs

/-- PassColumn (R109). An exactly zero sum is +0, of two negative zeros too. -/
def passColumn (a b : List FVal) (acc : BitVec 32) : BitVec 32 × FpFlags :=
  let s := (passExact (List.zipWith passProduct a b)).into Fmt.fp32.layout ⟨.rne, 0⟩
  let r := fpOp .fp32 ⟨.rne, 0⟩ .fadd (acc.zeroExtend 64) s.1
  let w := r.1.extractLsb' 0 32
  (if w = 0x80000000 then 0 else w, s.2 ||| r.2)

/-- A pass over columns of a row-slot whose accumulators begin at a key (R108, R109). -/
def passColumns (m : Mf3) (image : Tbl Byte) (scaleBase : Nat) (a : List FVal) (key : Nat) :
    List Nat → Tbl (BitVec 32) → FpFlags → Tbl (BitVec 32) × FpFlags
  | [], acc, fl => (acc, fl)
  | c :: cs, acc, fl =>
    let r := passColumn a (columnVals m image scaleBase c) (tblGet 0 (key + c) acc)
    passColumns m image scaleBase a key cs (tblSet 0 (key + c) r.1 acc) (fl ||| r.2)

/-- Sets accumulators from a key on to +0. -/
def clearColumns (key : Nat) : Nat → Tbl (BitVec 32) → Tbl (BitVec 32)
  | 0, acc => acc
  | n + 1, acc => clearColumns key n (tblSet 0 (key + n) 0 acc)

end Sys2Proof.Machine
end

