-- ==== Sys2Proof/Machine/Fp.lean ====
section
/-!
DEFINITION. Floating-point instructions of thread form and the requests to the SFU (07 R213 to R221).
-/

namespace Sys2Proof.Machine

/-- The format of a thread-form instruction: every FMT3 but the twill one names its format alone. -/
def threadFmt (f : Fmt3) : Fmt := fmt3Fmt .fp64 f

/-- FP arithmetic of two operands (R214): fmin and fmax never round. -/
def execFp2 (o : FpOp) (f : Fmt3) (d a b : Reg) (s : State) : Result :=
  s.issue [a, b] [d] fun v t =>
    let g := fun r => fpOp (threadFmt f) r o (v.getD 0 0) (v.getD 1 0)
    match o with
    | .fmin | .fmax => t.unrounded d (g ⟨.rne, 0⟩)
    | _ => t.rounded d g

def execFadd (f : Fmt3) (d a b : Reg) (s : State) : Result := execFp2 .fadd f d a b s
def execFsub (f : Fmt3) (d a b : Reg) (s : State) : Result := execFp2 .fsub f d a b s
def execFmul (f : Fmt3) (d a b : Reg) (s : State) : Result := execFp2 .fmul f d a b s
def execFdiv (f : Fmt3) (d a b : Reg) (s : State) : Result := execFp2 .fdiv f d a b s
def execFmin (f : Fmt3) (d a b : Reg) (s : State) : Result := execFp2 .fmin f d a b s
def execFmax (f : Fmt3) (d a b : Reg) (s : State) : Result := execFp2 .fmax f d a b s

/-- FSQRT (R214). -/
def execFsqrt (f : Fmt3) (d a : Reg) (s : State) : Result :=
  s.issue [a] [d] fun v t => t.rounded d fun r => fpOp (threadFmt f) r .fsqrt (v.getD 0 0) 0

/-- The fused multiply-add family (R215): rd is the addend. -/
def execFused (o : FmaOp) (f : Fmt3) (d a b : Reg) (s : State) : Result :=
  s.issue [a, b, d] [d] fun v t =>
    t.rounded d fun r => fmaOp (threadFmt f) r o (v.getD 0 0) (v.getD 1 0) (v.getD 2 0)

def execFma (f : Fmt3) (d a b : Reg) (s : State) : Result := execFused .fma f d a b s
def execFms (f : Fmt3) (d a b : Reg) (s : State) : Result := execFused .fms f d a b s
def execFnma (f : Fmt3) (d a b : Reg) (s : State) : Result := execFused .fnma f d a b s
def execFnms (f : Fmt3) (d a b : Reg) (s : State) : Result := execFused .fnms f d a b s

/-- The comparisons (R216). -/
def execFcmp (o : CmpOp) (f : Fmt3) (d a b : Reg) (s : State) : Result :=
  s.issue [a, b] [d] fun v t => t.unrounded d (cmpOp (threadFmt f) o (v.getD 0 0) (v.getD 1 0))

def execFeq (f : Fmt3) (d a b : Reg) (s : State) : Result := execFcmp .feq f d a b s
def execFlt (f : Fmt3) (d a b : Reg) (s : State) : Result := execFcmp .flt f d a b s
def execFle (f : Fmt3) (d a b : Reg) (s : State) : Result := execFcmp .fle f d a b s
def execFunord (f : Fmt3) (d a b : Reg) (s : State) : Result := execFcmp .funord f d a b s

/-- FCVT (R217): f is the destination and g the source. -/
def execFcvt (f g : Fmt3) (d a : Reg) (s : State) : Result :=
  s.issue [a] [d] fun v t => t.rounded d fun r => fcvtOp (threadFmt f) (threadFmt g) r (v.getD 0 0)

/-- FCLASS (R218): it raises no flag. -/
def execFclass (f : Fmt3) (d a : Reg) (s : State) : Result := s.issue1 d a (fclassOp (threadFmt f))

/-- ICVT to an integer format (R219). -/
def execIcvtToInt (k : IntFmt) (f : Fmt3) (d a : Reg) (s : State) : Result :=
  s.issue [a] [d] fun v t =>
    t.rounded d fun r => toIntOp (intFmtWidth k) r (decodeFp (threadFmt f).layout (v.getD 0 0))

/-- ICVT from INT64 (R219). -/
def execIcvtFromInt (f : Fmt3) (d a : Reg) (s : State) : Result :=
  s.issue [a] [d] fun v t => t.rounded d fun r => fromIntOp (threadFmt f) r (v.getD 0 0).toInt

/-! SFU (R220, R221) -/

/-- The entries of an SFU queue. -/
def sfuEntries : Nat := 16

/-- Whether the SFU can accept a request in an aclk: none has been accepted in it, and an entry is free; that of a request whose
service began in the aclk is free from the next one (R221). -/
def SkeinSt.room (k : SkeinSt) (now : Word) : Bool :=
  k.accepted != some now && k.queue.length + (if k.begun == some now then 1 else 0) < sfuEntries

/-- The SFU accepts a request. -/
def SkeinSt.accept (k : SkeinSt) (now : Word) (r : SfuReq) : SkeinSt :=
  { k with queue := k.queue ++ [r], accepted := some now }

/-- A thread's SFU instruction: its request takes an entry of the skein's queue, or the slot waits to be granted one, and till
then its operand is not consumed (R221; 14 R386); a fifth outstanding result waits (R202). -/
def execSfu (fn : SfuOp) (f : Fmt3) (d a : Reg) (s : State) : Result :=
  if 4 ≤ s.outstanding s.cur then s.perform .wait
  else
    s.issue [a] [d] fun v t =>
      let i := t.cur
      let q : SfuReq := { agent := .slot i (t.slot i).inc, fn, fmt := f, x := v.getD 0 0, dst := d }
      let k := t.skein i.die (skeinOf i.core)
      if k.room t.aclk && k.waiting.isEmpty then
        .go ((t.setSkein i.die (skeinOf i.core) (k.accept t.aclk q)).advance)
      else
        .keep fun u =>
          (u.setSkein i.die (skeinOf i.core)
            { k with waiting := k.waiting ++ [(i.core.toNat, { q with src := some a })] }).enter i .waitData .sfu

def execExp2 (f : Fmt3) (d a : Reg) (s : State) : Result := execSfu .exp2 f d a s
def execLog2 (f : Fmt3) (d a : Reg) (s : State) : Result := execSfu .log2 f d a s
def execRcp (f : Fmt3) (d a : Reg) (s : State) : Result := execSfu .rcp f d a s
def execRsq (f : Fmt3) (d a : Reg) (s : State) : Result := execSfu .rsq f d a s
def execSin (f : Fmt3) (d a : Reg) (s : State) : Result := execSfu .sin f d a s
def execCos (f : Fmt3) (d a : Reg) (s : State) : Result := execSfu .cos f d a s
def execTanh (f : Fmt3) (d a : Reg) (s : State) : Result := execSfu .tanh f d a s

end Sys2Proof.Machine
end

