-- ==== Sys2Proof/Machine/NodeFlow.lean ====
section
/-!
DEFINITION. Nodes that steer and shape streams (08 R244 to R251, R264, R269): STEER, MERGE, CARRY, INV, CONST, GATE,
ROWCTL, WIDEN, CNT and RACE. Each has a behaviour, what it would fire, and a meaning, its turn.
-/

namespace Sys2Proof.Machine

/-! STEER (R244) -/

/-- STEER sends the left token when its predicate is as wanted. -/
def steer (want : Bool) (v : View) : Option Fired :=
  match v.op .l with
  | none => none
  | some l =>
    if !l.isData then v.passShape l
    else
      match v.op .p with
      | none => none
      | some q =>
        if !q.isData then v.drop .p
        else some { eat := [.l, .p], outs := if (q.payload != 0) == want then v.both l else [], node := v.node }

def execSteerT (t u : Target) (s : State) : Result := .next (s.fire t u (steer true))
def execSteerF (t u : Target) (s : State) : Result := .next (s.fire t u (steer false))

/-! MERGE (R245) -/

/-- MERGE by predicate. -/
def mergeByPred (v : View) : Option Fired :=
  match v.op .p with
  | none => none
  | some q =>
    let side : NodePort := if q.payload != 0 then .l else .r
    (v.op side).map fun k => { eat := [.p, side], outs := v.both k, node := v.node }

/-- When the token at an operand port arrived. -/
def View.stamp (v : View) (q : NodePort) : Word := tblGet 0 (opKey v.slot q v.c) v.x.stamps

/-- MERGE by arrival: the earlier token, the left one among equals. -/
def mergeByArrival (v : View) : Option Fired :=
  let take := fun (q : NodePort) (k : Token) => some { eat := [q], outs := v.both k, node := v.node : Fired }
  match v.op .l, v.op .r with
  | some l, some r => if (v.stamp .r).ult (v.stamp .l) then take .r r else take .l l
  | some l, none => take .l l
  | none, some r => take .r r
  | none, none => none

def execMergeP (t u : Target) (s : State) : Result := .next (s.fire t u mergeByPred)
def execMergeA (t u : Target) (s : State) : Result := .next (s.fire t u mergeByArrival)

/-! CARRY (R246): primed says that the initial value has been sent, count how often -/

/-- CARRY. -/
def carryNode (k : BitVec 6) (v : View) : Option Fired :=
  if !v.node.primed then
    let before := (List.range v.c).all fun c => (tblGet {} (nodeIx v.slot c) v.x.nodes : NodeSt).count != 0
    if v.c < v.x.nctx && (before || v.node.count != 0) then
      some { eat := [], outs := v.both (dataTok v.ctx (v.x.const k.toNat)),
             node := { v.node with primed := true, count := 1 } }
    else none
  else
    match v.op .l with
    | none => none
    | some l =>
      if l.endsGroup then some { eat := [.l], outs := v.both l, node := { v.node with primed := false } }
      else some { eat := [.l], outs := v.both l, node := v.node }

def execCarry (k : BitVec 6) (t u : Target) (s : State) : Result := .next (s.fire t u (carryNode k))

/-! INV (R247): latch is the latched right value -/

/-- INV: a right data token is latched before a left token fires. -/
def invNode (v : View) : Option Fired :=
  match v.op .r, v.op .l with
  | some r, l =>
    if r.isData then some { eat := [.r], room := false, node := { v.node with latch := some r } }
    else if r.isScale then v.drop .r
    else
      match l with
      | none => none
      | some l =>
        if l.endsGroup then some { eat := [.l, .r], outs := v.both l, node := { v.node with latch := none } }
        else if l.isControl then v.forward l
        else if l.isScale then v.drop .l
        else v.drop .r
  | none, some l =>
    if l.isScale then v.drop .l
    else if l.endsGroup then some { eat := [.l], outs := v.both l, node := { v.node with latch := none } }
    else if l.isControl then v.forward l
    else v.node.latch.map fun k => { eat := [.l], outs := v.both (dataTok v.ctx k.payload), node := v.node }
  | none, none => none

def execInv (t u : Target) (s : State) : Result := .next (s.fire t u invNode)

/-! CONST (R248) -/

/-- CONST: constant K as a data or control token. -/
def constNode (control : Bool) (k : BitVec 6) (v : View) : Option Fired :=
  match v.op .l with
  | none => none
  | some l =>
    if l.isScale then v.drop .l
    else if l.isControl then v.forward l
    else
      let kind := if control then kindControl else kindData
      some { eat := [.l], outs := v.both { payload := v.x.const k.toNat, kind, ctx := v.ctx }, node := v.node }

def execConst (k : BitVec 6) (t u : Target) (s : State) : Result := .next (s.fire t u (constNode false k))
def execConstC (k : BitVec 6) (t u : Target) (s : State) : Result := .next (s.fire t u (constNode true k))

/-! GATE (R249) -/

/-- GATE: the left token when the right port holds a data token too. -/
def gateNode (v : View) : Option Fired :=
  match v.op .l with
  | none => none
  | some l =>
    if !l.isData then v.passShape l
    else
      match v.op .r with
      | none => none
      | some r => if r.isData then some { eat := [.l, .r], outs := v.both l, node := v.node } else v.drop .r

def execGate (t u : Target) (s : State) : Result := .next (s.fire t u gateNode)

/-! ROWCTL (R250): count holds the data tokens since the last shape token -/

def stripNode (v : View) : Option Fired :=
  match v.op .l with
  | none => none
  | some l => if l.isControl then v.drop .l else some { eat := [.l], outs := v.both l, node := v.node }

def splitNode (v : View) : Option Fired :=
  match v.op .l with
  | none => none
  | some l => some { eat := [.l], outs := [⟨if l.isControl then v.u else v.t, l⟩], node := v.node }

/-- ROWCTL that emits a shape token for each right token; of two waiting tokens the one that arrived first goes first. -/
def reshapeNode (code : BitVec 4) (v : View) : Option Fired :=
  let left := fun (l : Token) =>
    let n : BitVec 32 := if l.isControl then 0 else if l.isScale then v.node.count else v.node.count + 1
    some { eat := [.l], outs := v.both l, node := { v.node with count := n } : Fired }
  let right :=
    some { eat := [.r], outs := v.both (shapeTok v.ctx code v.node.count), node := { v.node with count := 0 } : Fired }
  match v.op .l, v.op .r with
  | some l, some _ => if (v.stamp .r).ult (v.stamp .l) then right else left l
  | some l, none => left l
  | none, some _ => right
  | none, none => none

def execRowctlStrip (t u : Target) (s : State) : Result := .next (s.fire t u stripNode)
def execRowctlSplit (t u : Target) (s : State) : Result := .next (s.fire t u splitNode)
def execRowctlEor (t u : Target) (s : State) : Result := .next (s.fire t u (reshapeNode codeEor))
def execRowctlEog (t u : Target) (s : State) : Result := .next (s.fire t u (reshapeNode codeEog))
def execRowctlEos (t u : Target) (s : State) : Result := .next (s.fire t u (reshapeNode codeEos))

/-! WIDEN (R251, R158): a token exists only when the accesses ob it have been performed, so its release never waits -/

def widenNode (v : View) : Option Fired :=
  (v.op .l).map fun l => { eat := [.l], outs := v.both l, node := v.node }

def execWiden (_sc : Scope) (t u : Target) (s : State) : Result := .next (s.fire t u widenNode)

/-! CNT (R264): value 0 holds the count -/

/-- CNT of data tokens or of EOR tokens. -/
def cntNode (rows : Bool) (v : View) : Option Fired :=
  match v.op .l with
  | none => none
  | some l =>
    let n := tblGet 0 0 v.node.vals
    let up := if rows then l.isEor else l.isData
    if l.endsGroup then
      some { eat := [.l], outs := [⟨v.u, dataTok v.ctx n⟩, ⟨v.t, l⟩], node := { v.node with vals := [] } }
    else
      some { eat := [.l], outs := [⟨v.t, l⟩],
             node := { v.node with vals := tblSet 0 0 (if up then n + 1 else n) v.node.vals } }

def execCntD (t u : Target) (s : State) : Result := .next (s.fire t u (cntNode false))
def execCntR (t u : Target) (s : State) : Result := .next (s.fire t u (cntNode true))

/-! RACE (R269): count, count2 and value 0 hold the tokens forwarded of the row, group and stream -/

/-- TAG of a gate token is written; the bits of no field are written 0 (Table 8-4). -/
def setTag (w : Word) (tag : Byte) : Word := 0#2 ++ w.extractLsb' 56 6 ++ tag ++ 0#4 ++ w.extractLsb' 0 44

/-- RACE. -/
def raceNode (n : BitVec 6) (v : View) : Option Fired :=
  match v.op .l with
  | none => none
  | some l =>
    let st := v.node
    let all := tblGet 0 0 st.vals
    if l.isData then
      if st.count.toNat < n.toNat then
        let k := { l with payload := setTag l.payload (st.count.extractLsb' 0 8) }
        some { eat := [.l], outs := v.both k,
               node := { st with count := st.count + 1, count2 := st.count2 + 1, vals := tblSet 0 0 (all + 1) st.vals } }
      else some { eat := [.l], node := st }
    else if l.isEor then
      some { eat := [.l], outs := v.both (shapeTok v.ctx codeEor st.count), node := { st with count := 0 } }
    else if l.isEog then
      some { eat := [.l], outs := v.both (shapeTok v.ctx codeEog st.count2), node := { st with count := 0, count2 := 0 } }
    else if l.isEos then
      some { eat := [.l], outs := v.both (shapeTok v.ctx codeEos (all.extractLsb' 0 32)),
             node := { st with count := 0, count2 := 0, vals := [] } }
    else some { eat := [.l], outs := v.both l, node := st }

def execRace (n : BitVec 6) (t u : Target) (s : State) : Result := .next (s.fire t u (raceNode n))

end Sys2Proof.Machine
end

