-- ==== Sys2Proof/Machine/NodeElem.lean ====
section
/-!
DEFINITION. Element-wise nodes (03 R107; 07 R207, R213, R220, R221; 08 R240, R241).
-/

namespace Sys2Proof.Machine

/-! Operands -/

/-- Whether the PE of a slot has a twill format. -/
def View.twill (v : View) : Bool := v.fmt.isTwill

/-- The operand at a port: an order token counts as zero (R240 item 3); a twill element has the scale latched when it
arrived, and its place in the block. No scale ever latched leaves a free one (log entry 41). -/
def View.operand (v : View) (q : NodePort) : Operand :=
  match v.op q with
  | none => { bits := 0 }
  | some k =>
    let cap := tblGet (none, 0) (opKey v.slot q v.c) v.x.captured
    let scale := (cap.1.or (v.x.scaleAt v.slot q v.c).1).getD (Config.freeWord v.s.tick)
    { bits := if k.kind == kindOrder then 0 else k.payload, scale := scale.extractLsb' 0 16, pos := cap.2 % 16 }

/-- The ports an element-wise node reads beside the left one. -/
def elemPorts (o : ElemOp) : List NodePort :=
  match elemArity o with
  | 3 => [.r, .p]
  | 2 => [.r]
  | _ => []

/-- A scale token at a port of an element-wise node: latched in a twill PE, without effect otherwise (R241). -/
def View.takeScale (v : View) (q : NodePort) (k : Token) : Option Fired :=
  if v.twill then
    some { eat := [q], room := false, node := v.node,
           also := fun s => s.modShed v.d v.h fun x => x.latchScale v.slot q v.c k.payload }
  else v.drop q

/-- A control token at the right or predicate port is consumed without output (R240 item 2). -/
def View.dropControl (v : View) (q : NodePort) : Option Fired :=
  some { eat := [q], room := false, node := if q == .r then { v.node with count := if v.node.count = 0 then 0 else v.node.count - 1 } else v.node }

/-- The first of the wired ports without a data token, and what is to be done with its token. -/
def View.rest (v : View) : List NodePort → Option (Option Fired)
  | [] => none
  | q :: qs =>
    if !v.wired q then v.rest qs
    else
      match v.op q with
      | none => some none
      | some k =>
        if k.isScale then some (v.takeScale q k)
        else if k.isControl then some (v.dropControl q)
        else v.rest qs

/-! Twill blocks -/

/-- The tokens of a quantised block: its scale token, then the elements present, each to both targets. -/
def View.block (v : View) (st : BitVec 32) (vs : List FVal) : List OutTok × FpFlags × BitVec 32 :=
  let pad := List.replicate (16 - vs.length) (FVal.fin false 0 0)
  let q := quantise v.fmt.mag v.rm st (vs ++ pad)
  let es := (q.2.1.take vs.length).flatMap fun e => v.both (dataTok v.ctx e)
  (v.both (scaleTok v.ctx q.1) ++ es, q.2.2.1, q.2.2.2)

/-! The SFU (R221) -/

/-- Whether a request belongs to a node, in a context or in any. -/
def ofNode (d : Die) (h : ShedNo) (slot : Nat) (c : Option Nat) (r : SfuReq) : Bool :=
  match r.agent with
  | .node d' h' n k => d' == d && h' == h && n.toNat == slot && (c.isNone || c == some k.toNat)
  | .slot _ _ => false

/-- Whether the SFU still holds requests of the node's context. -/
def View.sfuOpen (v : View) : Bool :=
  let k := v.s.skein v.d (skeinFacing v.h)
  (k.queue ++ k.serving).any (ofNode v.d v.h v.slot (some v.c)) || k.waiting.any fun q => ofNode v.d v.h v.slot (some v.c) q.2

/-- Whether the node waits for an entry. -/
def View.sfuWaits (v : View) : Bool :=
  (v.s.skein v.d (skeinFacing v.h)).waiting.any fun q => ofNode v.d v.h v.slot none q.2

/-- A node's request: accepted when the queue has an entry and nobody waits, otherwise it waits in the shed's place of
the rotation. -/
def State.askSfu (s : State) (d : Die) (h : ShedNo) (r : SfuReq) : State :=
  s.modSkein d (skeinFacing h) fun k =>
    if k.room s.aclk && k.waiting.isEmpty then k.accept s.aclk r
    else { k with waiting := k.waiting ++ [(2048 + h.toNat % 4, r)] }

/-! The node -/

/-- A firing on data tokens at every wired port. -/
def elemFire (o : ElemOp) (v : View) : Option Fired :=
  let eat := NodePort.l :: (elemPorts o).filter v.wired
  match o with
  | .sfu fn f =>
    if v.sfuWaits then none
    else
      let r : SfuReq :=
        { agent := .node v.d v.h (BitVec.ofNat 6 v.slot) v.ctx, fn := fn, fmt := f, x := (v.operand .l).bits, dst := 0 }
      some { eat, node := v.node, also := fun s => s.askSfu v.d v.h r }
  | _ =>
    let st := if elemRounds o && !elemBlocks v.fmt o then nextLfsr v.rm v.lfsr else v.lfsr
    match elemResult v.fmt (roundingOf v.rm st) o (v.operand .l) (v.operand .r) (v.operand .p) with
    | .bits w fl => some { eat, outs := v.both (dataTok v.ctx w), node := v.node, also := v.mark fl st }
    | .twill w fl =>
      let vs := v.node.pend ++ [w]
      if vs.length < 16 then some { eat, node := { v.node with pend := vs }, also := v.mark fl st }
      else
        let b := v.block v.lfsr vs
        some { eat, outs := b.1, node := { v.node with pend := [] }, also := v.mark (fl ||| b.2.1) b.2.2 }

/-- The right control tokens still to come for left ones that went on alone: count holds their number. -/
def View.owing (v : View) : BitVec 32 :=
  let here := match v.op .r with
    | some q => q.isControl
    | none => false
  if v.wired .r && !here then v.node.count + 1 else v.node.count

/-- A left control token: a pending block goes first, partial (R240). -/
def elemControl (v : View) (l : Token) : Option Fired :=
  if v.sfuOpen then none
  else
    let node := { v.node with count := v.owing }
    if v.node.pend.isEmpty then (v.forward l).map fun f => { f with node }
    else
      let b := v.block v.lfsr v.node.pend
      (v.forward l).map fun f =>
        { f with outs := b.1 ++ f.outs, node := { node with pend := [] }, also := v.mark b.2.1 b.2.2 }

/-- With nothing at the left port: scale tokens are taken, and a right control token is consumed whose left one has gone on
already (DEDUCED, log entry 87). -/
def View.early (v : View) (q : NodePort) : Option Fired :=
  match v.op q with
  | some k => if k.isScale then v.takeScale q k else if k.isControl && q == .r && v.node.count != 0 then v.dropControl q else none
  | none => none

/-- An element-wise node. -/
def elemNode (o : ElemOp) (v : View) : Option Fired :=
  let others := (elemPorts o).filter v.wired
  match v.op .l with
  | none => firstOf (others.map v.early)
  | some l =>
    if l.isScale then v.takeScale .l l
    else if l.isControl then elemControl v l
    else if v.wired .s && (v.x.scaleAt v.slot .s v.c).1.isNone then none
    else
      match v.rest others with
      | some f => f
      | none => elemFire o v

/-- ELEMENTWISE_NODE. -/
def execElementwiseNode (o : ElemOp) (t u : Target) (s : State) : Result := .next (s.fire t u (elemNode o))

end Sys2Proof.Machine
end

