-- ==== Sys2Proof/Machine/NodeMacro.lean ====
section
/-!
DEFINITION. CIM macros and tile queues (02 R58, R59; 08 R253 to R263): BLOAD, MMA, the issue and completion of passes,
ACC, LRED, SCALE and RMAX.
-/

namespace Sys2Proof.Machine

/-! Macros -/

def ShedSt.macroAt (x : ShedSt) (m : Nat) : MacroSt := tblGet {} m x.macros
def ShedSt.modMacro (x : ShedSt) (m : Nat) (f : MacroSt → MacroSt) : ShedSt :=
  { x with macros := tblSet {} m (f (x.macroAt m)) x.macros }

/-- IDLE: no pass and no load in progress (R253). -/
def MacroSt.idle (m : MacroSt) : Bool := m.pass.isNone && m.loads == 0

/-- The row-slots of a context: 16/N (02 R76). -/
def ShedSt.rowSlots (x : ShedSt) : Nat := 16 / x.nctx

/-- The accumulator of column 0 of a row-slot relative to a context. -/
def ShedSt.accKey (x : ShedSt) (c r : Nat) : Nat := (c * x.rowSlots + r) * 128

/-- Writes bytes of a macro's image from an offset on. -/
def imageWrite (o : Nat) (bs : List Byte) (im : Tbl Byte) : Tbl Byte :=
  bs.zipIdx.foldl (fun im p => tblSet 0 (o + p.2) p.1 im) im

/-! BLOAD (R255): count is the cursor, primed says that a load has begun -/

/-- The bytes of a macro load image (R254). -/
def imageBytes : Nat := 0x8000

/-- BLOAD. -/
def bloadNode (m : BitVec 3) (v : View) : Option Fired :=
  match v.op .l with
  | none => none
  | some l =>
    let st := v.node
    let cur := st.count.toNat
    if l.isData then
      if imageBytes ≤ cur then
        some { eat := [.l], room := false, node := st, also := fun s => s.stopItem v.d v.h v.slot 1 }
      else if !st.primed && (v.x.macroAt m.toNat).pass.isSome then none
      else
        some
          { eat := [.l], room := false, node := { st with primed := true, count := st.count + 8 },
            also := fun s => s.modShed v.d v.h fun x => x.modMacro m.toNat fun y =>
              { y with loads := if st.primed then y.loads else y.loads + 1,
                       image := imageWrite cur (bytesOfWord 8 l.payload) y.image } }
    else if l.endsGroup then
      let w : Word := (st.count >>> 3) ++ 0#25 ++ m ++ 0#4
      some
        { eat := [.l], outs := v.both (orderTok v.ctx w), node := { st with primed := false, count := 0 },
          also := fun s => s.modShed v.d v.h fun x => x.modMacro m.toNat fun y =>
            { y with loads := if st.primed then y.loads - 1 else y.loads } }
    else v.drop .l

def execBload (_mf : Mf3) (m : BitVec 3) (t u : Target) (s : State) : Result := .next (s.fire t u (bloadNode m))

/-! MMA and the row FIFOs (R256, R257) -/

/-- The key of a row FIFO. -/
def fifoKey (q : Bool) (c : Nat) : Nat := (if q then 4 else 0) + c

/-- A row that is filled up with zeros, for twill under the last scale. -/
def fillRow (mf : Mf3) (scale : Word) (row : List Word × List Word) : List Word × List Word :=
  let k := mfDepth mf
  let blocks := if (mfFmt mf).isTwill then k / 16 else 0
  (row.1 ++ List.replicate (k - row.1.length) 0, row.2 ++ List.replicate (blocks - row.2.length) scale)

/-- A complete row enters its FIFO. -/
def ShedSt.pushRow (x : ShedSt) (key : Nat) (row : List Word × List Word) : ShedSt :=
  { x with rows := tblSet [] key (tblGet [] key x.rows ++ [row]) x.rows, building := tblSet ([], []) key ([], []) x.building }

/-- MMA: its left tokens build the rows of its queue; latch is the last scale; before a scale token of the context the
scale is a free value, since the manual states none (DESIGN CHOICE, log entry 41). -/
def mmaNode (q : Bool) (mf : Mf3) (v : View) : Option Fired :=
  match v.op .l with
  | none => none
  | some l =>
    let key := fifoKey q v.c
    let row := tblGet ([], []) key v.x.building
    let scale := (v.node.latch.map (·.payload)).getD (Config.freeWord v.s.tick)
    let put := fun (f : ShedSt → ShedSt) =>
      some { eat := [.l], room := false, node := v.node, also := fun s => s.modShed v.d v.h f : Fired }
    if l.isScale then some { eat := [.l], room := false, node := { v.node with latch := some l } }
    else if l.isData then
      if row.1.isEmpty && 2 ≤ (tblGet [] key v.x.rows).length then none
      else
        let new := (row.1 ++ [l.payload],
          if (mfFmt mf).isTwill && row.1.length % 16 == 0 then row.2 ++ [scale] else row.2)
        put fun x =>
          if new.1.length = mfDepth mf then x.pushRow key new
          else { x with building := tblSet ([], []) key new x.building }
    else if l.endsRow && !row.1.isEmpty then put fun x => x.pushRow key (fillRow mf scale row)
    else v.drop .l

def execMma (q : Bool) (mf : Mf3) (_m : BitVec 3) (t u : Target) (s : State) : Result :=
  .next (s.fire t u (mmaNode q mf))

/-- The slot of the MMA node of a queue and macro. -/
def ShedSt.mmaSlot (x : ShedSt) (q : Bool) (m : Nat) : Option Nat :=
  (x.words.find? fun e => match decodeGraph e.2 with
    | some (.mma q' _ m' _ _) => q' == q && m'.toNat == m
    | _ => false).map (·.1)

/-! Passes (R58, R258) -/

def ShedSt.queue (x : ShedSt) (q : Bool) : TileQueue := if q then x.tqb else x.tqa
def ShedSt.setQueue (x : ShedSt) (q : Bool) (t : TileQueue) : ShedSt := if q then { x with tqb := t } else { x with tqa := t }

/-- The macros of a mask. -/
def maskMacros (m : BitVec 8) : List Nat := (List.range 8).filter m.getLsbD

/-- The head entry of a queue that has not stopped. -/
def ShedSt.headEntry (x : ShedSt) (q : Bool) : Option TileEntry :=
  if x.stopped (queueItem q) then none else (x.queue q).entries.head?

/-- Whether the head of a queue waits for its context or for a row, so that the other queue may issue (R58, R258). -/
def ShedSt.waitsForRow (x : ShedSt) (q : Bool) (e : TileEntry) : Bool :=
  x.ctxAt e.ctx.toNat != .active || (tblGet [] (fifoKey q e.ctx.toNat) x.rows).isEmpty

/-- Whether the head of a queue is ready (R258 items 1 to 3). -/
def ShedSt.headReady (x : ShedSt) (q : Bool) : Bool :=
  match x.headEntry q with
  | some e => !x.waitsForRow q e && (maskMacros e.macros).all fun m => (x.macroAt m).idle
  | none => false

/-- Whether a queue lets the other issue: it is empty or its head waits for A rows. -/
def ShedSt.givesWay (x : ShedSt) (q : Bool) : Bool :=
  match x.headEntry q with
  | some e => x.waitsForRow q e
  | none => true

/-- The queue that issues the next pass (R58), with the run of high passes and the turn it leaves. -/
def ShedSt.arbitrate (x : ShedSt) : Option (Bool × Nat × Bool) :=
  if x.tqa.prio != x.tqb.prio then
    let high := x.tqb.prio
    let low := !high
    if 64 ≤ x.highRun && x.headReady low then some (low, 0, x.turnB)
    else if x.headReady high then some (high, if x.headReady low then x.highRun + 1 else 0, x.turnB)
    else if x.givesWay high && x.headReady low then some (low, 0, x.turnB)
    else none
  else if x.headReady x.turnB then some (x.turnB, 0, !x.turnB)
  else if x.headReady (!x.turnB) then some (!x.turnB, 0, x.turnB)
  else none

/-- The head of a queue issues a pass: its row leaves the FIFO for each named macro. -/
def ShedSt.issuePass (x : ShedSt) (q : Bool) (e : TileEntry) : ShedSt :=
  let key := fifoKey q e.ctx.toNat
  match tblGet [] key x.rows with
  | [] => x
  | row :: rest =>
    let pass : Pass := { row := e.row, ctx := e.ctx, q, last := e.passes == 1, elems := row.1, scales := row.2 }
    let x := (maskMacros e.macros).foldl (fun x m => x.modMacro m fun y => { y with pass := some pass }) x
    let t := x.queue q
    let entries := if e.passes ≤ 1 then t.entries.drop 1 else { e with passes := e.passes - 1 } :: t.entries.drop 1
    { x.setQueue q { t with entries } with rows := tblSet [] key rest x.rows }

/-- PASS_ISSUE (R58, R258). -/
def execPassIssue (s : State) : Result :=
  let d := s.ev.die
  let h := s.ev.shed
  let x := s.shed d h
  .next <|
    if !x.fires then s
    else
      match x.arbitrate with
      | some (q, run, turn) =>
        match x.headEntry q with
        | some e => s.setShed d h { x.issuePass q e with highRun := run, turnB := turn }
        | none => s
      | none => s

/-- The values of an A row. -/
def passVals (mf : Mf3) (p : Pass) : List FVal :=
  p.elems.zipIdx.map fun e => elemVal (mfFmt mf) ((p.scales.getD (e.2 / 16) 0).extractLsb' 0 16) (e.2 % 16) e.1

/-- The order token of an entry's last pass (R258). -/
def passToken (p : Pass) (m : Nat) : Token := orderTok p.ctx (BitVec.ofNat 64 (p.row % 16 + 16 * (m % 8)))

/-- PASS_COMPLETE (R258): R109 on 128 columns; the last pass of an entry sends the completion token. -/
def execPassComplete (s : State) : Result :=
  let d := s.ev.die
  let h := s.ev.shed
  let m := s.ev.unit
  let x := s.shed d h
  let y := x.macroAt m
  .next <|
    match y.pass with
    | some p =>
      if x.failed then s
      else
        let r := passColumns y.fmt y.image 0x6000 (passVals y.fmt p) (x.accKey p.ctx.toNat p.row) (List.range 128) y.acc 0
        let s := (s.setShed d h (x.modMacro m fun z => { z with acc := r.1, pass := none })).orShedFlags d h r.2
        match p.last, x.mmaSlot p.q m with
        | true, some slot =>
          if x.stopped slot then s
          else s.emit d h slot (match wordTargets (tblGet 0 slot x.words) with
            | [t, u] => [⟨t, passToken p m⟩, ⟨u, passToken p m⟩]
            | _ => [])
        | _, _ => s
    | none => s

/-! Accumulator nodes (R259 to R262) -/

/-- A firing on a row-slot of a macro: NODEFLT 2 for one beyond the context's; it waits for a pass into the row-slot. -/
def onRowSlot (v : View) (m r : Nat) (eat : List NodePort) (f : MacroSt → Nat → Fired) : Option Fired :=
  if v.x.rowSlots ≤ r then some { eat, room := false, node := v.node, also := fun s => s.stopItem v.d v.h v.slot 2 }
  else
    let y := v.x.macroAt m
    let busy : Bool := match y.pass with
      | some p => p.ctx.toNat == v.c && p.row == r
      | none => false
    if busy then none else some (f y (v.x.accKey v.c r))

/-- The 128 columns of a row-slot. -/
def MacroSt.columns (y : MacroSt) (key : Nat) : List Word :=
  (List.range 128).map fun c => (tblGet 0 (key + c) y.acc).zeroExtend 64

/-- One column in the PE's format (Table 3-8). -/
def readColumn (f : Fmt) (m : RMode) (st : BitVec 32) (w : Word) : Word × FpFlags × BitVec 32 :=
  if f == .fp32 then (w, 0, st)
  else
    let st := nextLfsr m st
    let r := if f.isInt then toIntOp f.width (roundingOf m st) (decodeFp Fmt.fp32.layout w) else fcvtOp f .fp32 (roundingOf m st) w
    (r.1, r.2, st)

/-- The columns as tokens of a PE that is not twill. -/
def View.columnToks (v : View) : List Word → List OutTok → FpFlags → BitVec 32 → List OutTok × FpFlags × BitVec 32
  | [], ks, fl, st => (ks, fl, st)
  | w :: ws, ks, fl, st =>
    let r := readColumn v.fmt v.rm st w
    v.columnToks ws (ks ++ v.both (dataTok v.ctx r.1)) (fl ||| r.2.1) r.2.2

/-- The columns of a twill PE, in n blocks of sixteen. -/
def View.columnBlocks (v : View) : Nat → List FVal → List OutTok → FpFlags → BitVec 32 → List OutTok × FpFlags × BitVec 32
  | 0, _, ks, fl, st => (ks, fl, st)
  | n + 1, vs, ks, fl, st =>
    let b := v.block st (vs.take 16)
    v.columnBlocks n (vs.drop 16) (ks ++ b.1) (fl ||| b.2.1) b.2.2

/-- ACC that sends the columns, and clears them or not (R260). -/
def accRead (clear : Bool) (m : Nat) (v : View) (y : MacroSt) (key : Nat) : Fired :=
  let ws := y.columns key
  let r :=
    if v.twill then v.columnBlocks 8 (ws.map (decodeFp Fmt.fp32.layout)) [] 0 v.lfsr else v.columnToks ws [] 0 v.lfsr
  { eat := [.l], outs := r.1 ++ v.both (shapeTok v.ctx codeEor 128), node := v.node,
    also := fun s =>
      let s := v.mark r.2.1 r.2.2 s
      if clear then s.modShed v.d v.h fun x => x.modMacro m fun y => { y with acc := clearColumns key 128 y.acc } else s }

/-- ACC that only clears. -/
def accClear (m : Nat) (v : View) (l : Token) (key : Nat) : Fired :=
  { eat := [.l], outs := v.both (orderTok v.ctx l.payload), node := v.node,
    also := fun s => s.modShed v.d v.h fun x => x.modMacro m fun y => { y with acc := clearColumns key 128 y.acc } }

/-- The row-slot that a token names. -/
def tokenRow (l : Token) : Nat := (l.payload.extractLsb' 0 4).toNat

/-- An accumulator node that reads the left port only. -/
def accNode (m : BitVec 3) (f : View → Token → MacroSt → Nat → Fired) (v : View) : Option Fired :=
  match v.op .l with
  | none => none
  | some l =>
    if l.isScale then v.drop .l
    else if l.isControl then v.forward l
    else onRowSlot v m.toNat (tokenRow l) [.l] (f v l)

def accRdNode (m : BitVec 3) : View → Option Fired := accNode m fun v _ => accRead false m.toNat v
def accRdclrNode (m : BitVec 3) : View → Option Fired := accNode m fun v _ => accRead true m.toNat v
def accClrNode (m : BitVec 3) : View → Option Fired := accNode m fun v l _ key => accClear m.toNat v l key

def execAccRd (m : BitVec 3) (t u : Target) (s : State) : Result := .next (s.fire t u (accRdNode m))
def execAccRdclr (m : BitVec 3) (t u : Target) (s : State) : Result := .next (s.fire t u (accRdclrNode m))
def execAccClr (m : BitVec 3) (t u : Target) (s : State) : Result := .next (s.fire t u (accClrNode m))

/-- LRED (R261): the columns reduced in order. -/
def lredNode (o : FpOp) (m : BitVec 3) : View → Option Fired :=
  accNode m fun v _ y key =>
    let ws := y.columns key
    let r := (ws.drop 1).foldl (fun (p : Word × FpFlags) w =>
      let q := fpOp .fp32 ⟨.rne, 0⟩ o p.1 w
      (q.1, p.2 ||| q.2)) (ws.headD 0, 0)
    { eat := [.l], outs := v.both (dataTok v.ctx r.1), node := v.node, also := fun s => s.orShedFlags v.d v.h r.2 }

def execLredSum (m : BitVec 3) (t u : Target) (s : State) : Result := .next (s.fire t u (lredNode .fadd m))
def execLredMax (m : BitVec 3) (t u : Target) (s : State) : Result := .next (s.fire t u (lredNode .fmax m))
def execLredMin (m : BitVec 3) (t u : Target) (s : State) : Result := .next (s.fire t u (lredNode .fmin m))

/-- The 128 columns from a key multiplied by an FP32 factor (R262). -/
def scaleColumns (f : Word) (key : Nat) : Nat → Tbl (BitVec 32) → FpFlags → Tbl (BitVec 32) × FpFlags
  | 0, acc, fl => (acc, fl)
  | n + 1, acc, fl =>
    let r := fpOp .fp32 ⟨.rne, 0⟩ .fmul ((tblGet 0 (key + n) acc).zeroExtend 64) f
    scaleColumns f key n (tblSet 0 (key + n) (r.1.extractLsb' 0 32) acc) (fl ||| r.2)

/-- SCALE (R262). -/
def scaleNode (v : View) : Option Fired :=
  match v.op .l with
  | none => v.skip .r
  | some l =>
    if l.isScale then v.drop .l
    else if l.isControl then v.forward l
    else
      match v.op .r with
      | none => none
      | some r =>
        if !r.isData then v.drop .r
        else
          let m := (l.payload.extractLsb' 4 3).toNat
          onRowSlot v m (tokenRow l) [.l, .r] fun y key =>
            let q := scaleColumns (r.payload.extractLsb' 0 32 |>.zeroExtend 64) key 128 y.acc 0
            { eat := [.l, .r], outs := v.both (orderTok v.ctx l.payload), node := v.node,
              also := fun s => (s.modShed v.d v.h fun x => x.modMacro m fun y => { y with acc := q.1 }).orShedFlags v.d v.h q.2 }

def execScale (t u : Target) (s : State) : Result := .next (s.fire t u scaleNode)

/-! RMAX (R263): values 0 to 127 are the running maxima and 128 the row's, count the row, count2 the tokens sent -/

/-- −∞ of a format. -/
def negInf (f : Fmt) : Word := BitVec.ofNat 64 (infinity f.layout + signBit f.layout true)

/-- max of RMAX: a NaN operand makes the result the canonical NaN, with NV for a signalling one. -/
def rowMax (f : Fmt) (a b : Word) : Word × FpFlags :=
  let x := decodeFp f.layout a
  let y := decodeFp f.layout b
  if x.isNan || y.isNan then (canonNan f.layout, flagIf (x.isSnan || y.isSnan) flagNV) else fpMinMax f true a b

/-- RMAX. -/
def rmaxNode (fb : Bool) (fm : Fmt3) (v : View) : Option Fired :=
  match v.op .l with
  | none => none
  | some l =>
    let f := fmt3Fmt v.fmt fm
    let st := v.node
    let low := negInf f
    let cur := tblGet low 128 st.vals
    let i := st.count.toNat
    if l.isScale then v.drop .l
    else if l.isPlain then some { eat := [.l], outs := v.both l, node := st }
    else if 128 ≤ i then
      some { eat := [.l], room := false, node := st, also := fun s => s.stopItem v.d v.h v.slot 3 }
    else if l.isData then
      let r := rowMax f cur l.payload
      some { eat := [.l], node := { st with vals := tblSet low 128 r.1 st.vals },
             also := fun s => s.orShedFlags v.d v.h r.2 }
    else
      let old := tblGet low i st.vals
      let new := rowMax f old cur
      let same := FVal.equal (decodeFp f.layout new.1) (decodeFp f.layout old)
      let d := if same then (0, 0) else fpOp f ⟨.rne, 0⟩ .fsub old new.1
      let sent := st.count2 + 1
      let vals := tblDel 128 (tblSet low i new.1 st.vals)
      let close := if l.endsGroup then
          [⟨v.t, shapeTok v.ctx l.code sent⟩, ⟨v.u, shapeTok v.ctx l.code (if fb then sent else 0)⟩]
        else ([] : List OutTok)
      some
        { eat := [.l],
          outs := [⟨v.t, dataTok v.ctx new.1⟩] ++ (if fb then [⟨v.u, dataTok v.ctx d.1⟩] else []) ++ close,
          node := { st with vals := if l.isEos then [] else vals, count := if l.endsGroup then 0 else st.count + 1,
                            count2 := if l.endsGroup then 0 else sent },
          also := fun s => s.orShedFlags v.d v.h (new.2 ||| (if fb then d.2 else 0)) }

def execRmax (fb : Bool) (f : Fmt3) (t u : Target) (s : State) : Result := .next (s.fire t u (rmaxNode fb f))

end Sys2Proof.Machine
end

