-- ==== Sys2Proof/Machine/Ports.lean ====
section
/-!
DEFINITION. The ports of a shed (02 R53 to R57): fixed-rate steps, free ports, channels and credits, triggers, and the start
of a bound stream.
-/

namespace Sys2Proof.Machine

set_option linter.constructorNameAsVariable false

/-! Input ports -/

/-- A fixed-rate input port passes what it can of the tokens a step has moved; n bounds them. -/
def State.passStaged (s : State) (d : Die) (h : ShedNo) (p : Nat) : Nat → State
  | 0 => s
  | n + 1 =>
    let x := s.shed d h
    match (x.portSt p).staged with
    | k :: rest =>
      if x.mayPass p k then
        ((s.setShed d h (x.modPort p fun q => { q with staged := rest })).passInput d h p k).passStaged d h p n
      else s
    | [] => s

/-- The fixed-rate ports that take part in steps (R55). -/
def ShedSt.stepPorts (x : ShedSt) : List Nat :=
  (List.range 16).filter fun p =>
    let c := x.port p
    c.en && !c.free && 0 < c.rate && !x.stopped (portItem p)

/-- Every fixed-rate input port delivers what it still has of the last step. -/
def State.deliverStaged (s : State) (d : Die) (h : ShedNo) : State :=
  ((s.shed d h).stepPorts.filter fun p => !((s.shed d h).port p).out).foldl (fun s p =>
    let s := s.pump d h (portOut p)
    s.passStaged d h p ((s.shed d h).portSt p).staged.length) s

/-- Whether a port is ready for a step (R55): an input holds its rate in tokens, an output holds its rate in credits. -/
def ShedSt.stepReady (x : ShedSt) (p : Nat) : Bool :=
  let c := x.port p
  let q := x.portSt p
  if c.out then c.rate ≤ q.credits else c.rate ≤ q.fifo.length

/-- A port's part in a step. What a step has moved and the slots have not taken yet stays behind the FIFO, in order (log
entry 85). -/
def ShedSt.stepPort (x : ShedSt) (p : Nat) : ShedSt :=
  let c := x.port p
  x.modPort p fun q =>
    if c.out then { q with credits := q.credits - c.rate, reserved := q.reserved + c.rate }
    else { q with staged := q.staged ++ q.fifo.take c.rate, fifo := q.fifo.drop c.rate }

/-- FIXED_RATE_STEP (R55). -/
def execFixedRateStep (s : State) : Result :=
  let d := s.ev.die
  let h := s.ev.shed
  .next <|
    if !(s.shed d h).fires then s
    else
      let s := s.deliverStaged d h
      let x := s.shed d h
      if !x.stepPorts.isEmpty && x.stepPorts.all x.stepReady then
        (s.setShed d h (x.stepPorts.foldl (fun x p => x.stepPort p) x)).deliverStaged d h
      else s

/-- FREE_PORT_PASS (R56): a free input port passes its head token, a free output port sends what waits for it. -/
def execFreePortPass (s : State) : Result :=
  let d := s.ev.die
  let h := s.ev.shed
  let p := s.ev.unit
  let x := s.shed d h
  .next <|
    if !x.fires || !(x.port p).en || !(x.port p).free then s
    else if (x.port p).out then
      (x.outq.filter fun e => !x.stopped e.1).foldl (fun s e => s.pump d h e.1) s
    else
      let s := s.pump d h (portOut p)
      let x := s.shed d h
      match (x.portSt p).fifo with
      | k :: rest =>
        if x.mayPass p k then (s.setShed d h (x.modPort p fun q => { q with fifo := rest })).passInput d h p k else s
      | [] => s

/-! Channels (R53, R54) -/

/-- Whether an earlier token to the same port is still on its way. -/
def State.tokenBehind (s : State) (id : Nat) (d : Die) (h : ShedNo) (p : BitVec 4) : Bool :=
  s.net.any fun q => q.id < id && match q.packet with
    | .token d' h' p' _ => d' == d && h' == h && p' == p
    | _ => false

/-- CHANNEL_TOKEN_ARRIVAL. -/
def execChannelTokenArrival (s : State) : Result :=
  let id := s.ev.id
  .next <|
    match s.packet id with
    | some (.token d h p k) =>
      if s.tokenBehind id d h p then s
      else (s.dropPacket id).modShed d h fun x => x.modPort p.toNat fun q => { q with fifo := q.fifo ++ [k] }
    | _ => s

/-- CREDIT_RETURN. -/
def execCreditReturn (s : State) : Result :=
  let id := s.ev.id
  .next <|
    match s.packet id with
    | some (.credit d h p) =>
      (s.dropPacket id).modShed d h fun x => x.modPort p.toNat fun q => { q with credits := q.credits + 1 }
    | _ => s

/-! Streams start -/

/-- Changes a stream of a feeder port. -/
def State.modStream (s : State) (d : Die) (h : ShedNo) (p : Nat) (f : StreamSt → StreamSt) : State :=
  s.modShed d h fun x => x.setStream p (f (x.stream p))

/-- A stream starts from its first element (R298). The range since the last window point stays. -/
def StreamSt.start (t : StreamSt) (c : BitVec 2) : StreamSt :=
  { t with running := true, ended := false, ctx := c, pos := 0, index := none, row := 0, group := 0, all := 0,
           scale := none, block := [], inject := [], held := false }

/-- Whether a feeder port may inject tokens of a context: it changes the context only after it has injected a token that ends
a group (R76). -/
def StreamSt.mayTake (t : StreamSt) (c : BitVec 2) : Bool :=
  match t.last with
  | some (b, ended) => b == c || ended
  | none => true

/-- Starts the bound stream of a port; NODEFLT 9 when none is bound (R298). A stopped port takes no notice. -/
def State.startStream (s : State) (d : Die) (h : ShedNo) (p : Nat) (c : BitVec 2) : State :=
  let x := s.shed d h
  if x.streamStopped p then s
  else if (x.stream p).desc.isEmpty then s.stopItem d h (portItem p) 9
  else s.setShed d h (x.setStream p ((x.stream p).start c))

/-- A stream that is not running takes the first start by a trigger that waits, unless its context has to wait (R76). -/
def State.startPending (s : State) (d : Die) (h : ShedNo) (p : Nat) : State :=
  let t := (s.shed d h).stream p
  match t.starts with
  | c :: rest =>
    if t.running || !t.mayTake c then s else (s.modStream d h p fun t => { t with starts := rest }).startStream d h p c
  | [] => s

/-! Triggers (R57) -/

/-- TRIGGER_FIRE: the action of a trigger whose count has been reached, once; NEXT advances by T. -/
def execTriggerFire (s : State) : Result :=
  let d := s.ev.die
  let h := s.ev.shed
  let u := s.ev.unit
  let x := s.shed d h
  let g := tblGet {} u x.trigs
  .next <|
    if !g.due then s
    else
      let room := s.hqRoom d g.hq
      let g' := { g with due := false, next := g.next + g.period, armed := g.period != 0, heldPush := g.push && !room }
      let s := s.setShed d h { x with trigs := tblSet {} u g' x.trigs }
      if g.push then if room then s.hqPush d g.hq g.token else s
      else
        ((List.range 8).filter g.amask.getLsbD).foldl (fun s p =>
          (s.modStream d h p fun t => { t with starts := t.starts ++ [g.actx] }).startPending d h p) s

/-- TRIGGER_HELD_PUSH: the held push is made when the queue has room. -/
def execTriggerHeldPush (s : State) : Result :=
  let d := s.ev.die
  let h := s.ev.shed
  let u := s.ev.unit
  let x := s.shed d h
  let g := tblGet {} u x.trigs
  .next <|
    if g.heldPush && s.hqRoom d g.hq then
      (s.setShed d h { x with trigs := tblSet {} u { g with heldPush := false } x.trigs }).hqPush d g.hq g.token
    else s

end Sys2Proof.Machine
end

