-- ==== Sys2Proof/Machine/Twill.lean ====
section
/-!
DEFINITION. The twill block instructions QTW, DQTW and BADDQ (09 R306; 03 R96, R105, R106; 14 R379). Blocks are processed
in order, and an instruction that traps or is held has no effect.
-/

namespace Sys2Proof.Machine

/-- The format of a TWF field. -/
def twfFmt : Twf → Fmt
  | .tw3 => .tw3 | .tw6 => .tw6 | .tw8 => .tw8

/-- A block of sixteen elements of w bits, packed (R96). -/
def packBlock (w : Nat) (es : List Word) : List Byte :=
  natBytes (2 * w) (es.zipIdx.foldl (fun n p => n + p.1.toNat % 2 ^ w * 2 ^ (w * p.2)) 0)

/-- The sixteen elements of a packed block (R96). -/
def unpackBlock (w : Nat) (bs : List Byte) : List Word :=
  (List.range 16).map fun j => BitVec.ofNat 64 (bytesNat bs / 2 ^ (w * j) % 2 ^ w)

/-- The bytes of a run of n blocks (R306). -/
def runBytes (w n : Nat) : Nat := n * (2 * w + 2)

/-- Bytes at an offset from an address, cut where doubles end. -/
def cutParts (va : Nat) : Nat → Nat → List Byte → List (Nat × Nat × Word)
  | 0, _, _ => []
  | fuel + 1, off, bs =>
    let n := min bs.length (8 - (va + off) % 8)
    if n = 0 then [] else (off, n, wordOfBytes (bs.take n)) :: cutParts va fuel (off + n) (bs.drop n)

/-- The parts that a block j of a run of n takes: its packed elements and its scale token. -/
def blockParts (run : Word) (w n j : Nat) (scale : BitVec 16) (es : List Word) : List (Nat × Nat × Word) :=
  let v := run.toNat
  cutParts v 16 (2 * w * j) (packBlock w es) ++ cutParts v 2 (2 * w * n + 2 * j) (natBytes 2 scale.toNat)

/-- Block j of a run of n: its values (R94), NaN in a void block. -/
def withBlock (run : Word) (f : Fmt) (n j : Nat) (t : State) (k : List FVal → State → Act) : Act :=
  t.withBytes (run + BitVec.ofNat 64 (2 * f.width * j)) (2 * f.width) fun bs t =>
    t.withBytes (run + BitVec.ofNat 64 (2 * f.width * n + 2 * j)) 2 fun sc t =>
      let scale := BitVec.ofNat 16 (bytesNat sc)
      k ((unpackBlock f.width bs).zipIdx.map fun p => twillVal f.mag scale p.2 p.1) t

/-- What a twill instruction has done so far: its flags and the LFSR. -/
abbrev TwillAcc := FpFlags × BitVec 32

/-- Quantises sixteen values into block j of a run and goes on. -/
def putBlock (run : Word) (f : Fmt) (m : RMode) (n j : Nat) (vs : List FVal) (acc : TwillAcc) (t : State)
    (k : TwillAcc → State → Act) : Act :=
  let q := quantise f.mag m acc.2 vs
  t.storeParts run (blockParts run f.width n j q.1 q.2.1) fun t => k (acc.1 ||| q.2.2.1, q.2.2.2) t

/-- The sum of two values as a value (R306). -/
def sumVal (a b : FVal) : FVal :=
  match exactAdd ⟨.rne, 0⟩ a b with
  | .num s x _ e => .fin s x e
  | .inf s _ => .inf s
  | .nan _ => .nan false

/-- Blocks of QTW. -/
def qtwBlocks (f : Fmt) (m : RMode) (run src : Word) (n : Nat) :
    List Nat → TwillAcc → State → (TwillAcc → State → Act) → Act
  | [], acc, t, k => k acc t
  | j :: js, acc, t, k =>
    t.withBytes (src + BitVec.ofNat 64 (64 * j)) 64 fun bs t =>
      let vs := (List.range 16).map fun i => decodeFp Fmt.fp32.layout (wordOfBytes ((bs.drop (4 * i)).take 4))
      putBlock run f m n j vs acc t fun acc t => qtwBlocks f m run src n js acc t k

/-- Blocks of BADDQ. -/
def baddqBlocks (f : Fmt) (m : RMode) (ra rb : Word) (n : Nat) :
    List Nat → TwillAcc → State → (TwillAcc → State → Act) → Act
  | [], acc, t, k => k acc t
  | j :: js, acc, t, k =>
    withBlock ra f n j t fun va t => withBlock rb f n j t fun vb t =>
      putBlock ra f m n j (List.zipWith sumVal va vb) acc t fun acc t => baddqBlocks f m ra rb n js acc t k

/-- Blocks of DQTW. -/
def dqtwBlocks (f : Fmt) (dst run : Word) (n : Nat) : List Nat → State → (State → Act) → Act
  | [], t, k => k t
  | j :: js, t, k =>
    withBlock run f n j t fun vs t =>
      let bs := vs.flatMap fun v => bytesOfWord 4 (v.exact.into Fmt.fp32.layout ⟨.rne, 0⟩).1
      t.storeParts dst (cutParts dst.toNat 64 (64 * j) bs) fun t => dqtwBlocks f dst run n js t k

/-- The instruction is complete: flags to FFLAGS, and the LFSR after its steps. -/
def finishTwill (acc : TwillAcc) (t : State) : Act :=
  .go ((t.modSlot t.cur fun x => { x with fflags := x.fflags ||| acc.1, lfsr := acc.2 }).advance)

/-- The blocks that rs2 of a twill instruction names. -/
def runLength (y : Word) : Nat := (y.extractLsb' 0 16).toNat

/-- Issue of a twill instruction with its count, the alignment of rd and of rs1, and its rounding mode; k is given rd,
rs1, rs2 and the mode. -/
def issueTwill (quantises : Bool) (la lb : Nat) (d a b : Reg) (k : Word → Word → Word → RMode → State → Act) (s : State) :
    Result :=
  s.issue [a, b, d] [] fun v t =>
    let x := v.getD 0 0
    let y := v.getD 1 0
    let z := v.getD 2 0
    let n := runLength y
    let rm := (t.slot t.cur).frm
    if n < 1 || 4096 < n then .trap 0x13 5 x y
    else
      match rmode rm, t.addressFault t.cur z la, t.addressFault t.cur x lb with
      | none, fa, fb => if quantises then .trap 0x03 0 (rm.zeroExtend 64) 0 else (fa.or fb).getD (k z x y .rne t)
      | some m, fa, fb => (fa.or fb).getD (k z x y m t)

/-- QTW (R306). -/
def execQtw (tw : Twf) (d a b : Reg) (s : State) : Result :=
  issueTwill true 4 2 d a b (fun run src y m t =>
    let n := runLength y
    qtwBlocks (twfFmt tw) m run src n (List.range n) (0, (t.slot t.cur).lfsr) t finishTwill) s

/-- DQTW (R306). -/
def execDqtw (tw : Twf) (d a b : Reg) (s : State) : Result :=
  issueTwill false 2 4 d a b (fun dst run y _ t =>
    let n := runLength y
    dqtwBlocks (twfFmt tw) dst run n (List.range n) t fun t => .go t.advance) s

/-- BADDQ (R306): OPERAND 4 for runs that overlap and are not the same. -/
def execBaddq (tw : Twf) (d a b : Reg) (s : State) : Result :=
  issueTwill true 4 4 d a b (fun ra rb y m t =>
    let n := runLength y
    let size := runBytes (twfFmt tw).width n
    let meet := ra != rb && ra.toNat < rb.toNat + size && rb.toNat < ra.toNat + size
    if meet then .trap 0x13 4 rb y
    else baddqBlocks (twfFmt tw) m ra rb n (List.range n) (0, (t.slot t.cur).lfsr) t finishTwill) s

end Sys2Proof.Machine
end

