-- ==== Sys2Proof/Machine/Streams.lean ====
section
/-!
DEFINITION. Streams of feeder ports (04 R123, R126 to R128; 05 R154, R161; 15 R392 to R397): descriptors, the addresses of
their elements, one element read or written, and window points.
-/

namespace Sys2Proof.Machine

set_option linter.constructorNameAsVariable false

/-! Descriptors (Tables 4-5, 4-6), as eight doubles -/

abbrev Desc := List Word

namespace Descriptor

def base (w : Desc) : Word := w.getD 0 0
def ctrl (w : Desc) : Word := w.getD 1 0
def count (w : Desc) (k : Nat) : Nat := ((w.getD (2 + k / 2) 0).extractLsb' (32 * (k % 2)) 32).toNat
def stride (w : Desc) (k : Nat) : Int := ((w.getD (4 + k / 2) 0).extractLsb' (32 * (k % 2)) 32).toInt
def sbase (w : Desc) : Word := w.getD 6 0
def fmt (w : Desc) : Fmt := (fmtOf ((ctrl w).extractLsb' 0 4)).getD .int8
def writes (w : Desc) : Bool := (ctrl w).getLsbD 4
def mode (w : Desc) : Nat := ((ctrl w).extractLsb' 5 2).toNat
def indirect (w : Desc) : Bool := mode w == 1
/-- Dimensions used: those of an affine stream, one of an indirect stream. -/
def dims (w : Desc) : Nat := if indirect w then 1 else ((ctrl w).extractLsb' 7 2).toNat + 1
def shape (w : Desc) : Bool := (ctrl w).getLsbD 9
def win (w : Desc) : Bool := (ctrl w).getLsbD 10
/-- The elements of an affine stream, or of one row of an indirect stream. -/
def total (w : Desc) : Nat := ((List.range (dims w)).map (count w)).foldl (· * ·) 1
/-- Whether window points are at EOG and EOS, and not at EOS alone (R123). -/
def groupWindows (w : Desc) : Bool := shape w && 3 ≤ dims w

/-- The conditions of R128 on a twill descriptor, as far as the descriptor settles them. The manual wants SBASE even and
gives an odd one no fate: scales are then accessed at the odd address (DESIGN CHOICE, log entry 86). -/
def twillOk (w : Desc) : Bool :=
  stride w 0 == 1 && count w 0 % 16 == 0 && (base w).toNat % 48 == 0
    && (indirect w || (List.range (dims w)).all fun k => k == 0 || count w k == 1 || stride w k % 16 == 0)

/-- Whether an index lets dimension 0 of an indirect stream restart where R128 allows it. -/
def indexOk (w : Desc) (i : Word) : Bool := !(fmt w).isTwill || i.toInt * stride w 1 % 16 == 0

/-- Whether a descriptor has no reserved field or value and keeps R128. -/
def ok (w : Desc) : Bool :=
  (base w).toNat < 2 ^ 57 && (ctrl w).toNat < 2 ^ 11 && (fmtOf ((ctrl w).extractLsb' 0 4)).isSome && mode w < 2
    && w.getD 7 0 == 0 && ((List.range (dims w)).all fun k => count w k != 0)
    && (!(fmt w).isTwill || twillOk w)

/-- The index of a dimension at a place of an affine stream. -/
def index (w : Desc) (pos k : Nat) : Nat := pos / ((List.range k).map (count w)).foldl (· * ·) 1 % count w k

/-- The offset of the element at a place (R127). -/
def offset (w : Desc) (pos : Nat) (i : Option Word) : Int :=
  match i with
  | some i => i.toInt * stride w 1 + (pos : Int) * stride w 0
  | none => ((List.range (dims w)).map fun k => (index w pos k : Int) * stride w k).foldl (· + ·) 0

/-- The address of an element offset in bytes, and its bit in that byte. -/
def address (w : Desc) (e : Int) : Int := ((base w).toNat : Int) + e * (fmt w).width / 8
def bitOf (w : Desc) (e : Int) : Nat := (e * (fmt w).width % 8).toNat

/-- The address of the scale of the block of an element offset. -/
def scaleAddr (w : Desc) (e : Int) : Int := ((sbase w).toNat : Int) + 2 * (e / 16)

end Descriptor

/-! Reaching memory -/

/-- Why an element can not be performed now: its sector is missing or a unit is not ready, a fault of translation or of
the physical address, or a failure at once. -/
inductive Short where
  | wait
  | fault (cause sub : Byte) (addr : Word)
  | dead (cause : Byte)

/-- The chunks of n bytes at an address, cut where doubles end; the fuel bounds them. -/
def chunks : Nat → Nat → Nat → List (Nat × Nat)
  | 0, _, _ => []
  | fuel + 1, va, n =>
    let k := min n (8 - va % 8)
    if k = 0 then [] else (va, k) :: chunks fuel (va + k) (n - k)

/-- Reads chunks one after another. -/
def feederGet (d : Die) (h : ShedNo) (fresh : Bool) : List (Nat × Nat) → List Byte → State → Except Short (List Byte × State)
  | [], bs, s => .ok (bs, s)
  | (va, n) :: r, bs, s =>
    match s.feederReach d h (BitVec.ofNat 64 va) needR false fresh with
    | .notReady | .unready _ _ _ => .error .wait
    | .fault cause sub addr => .error (.fault cause sub addr)
    | .ok pa key t =>
      if t.feederPoisoned d h va pa then .error (.dead 0x29)
      else
        match t.feederRead d h va pa key n with
        | some b => feederGet d h fresh r (bs ++ b) t
        | none => .error .wait

/-- Finds where chunks of bytes go; none is written. -/
def feederFind (d : Die) (h : ShedNo) (fresh : Bool) : List (Nat × List Byte) → List (Nat × Nat × Byte × List Byte) → State →
    Except Short (List (Nat × Nat × Byte × List Byte) × State)
  | [], l, s => .ok (l, s)
  | (va, bs) :: r, l, s =>
    match s.feederReach d h (BitVec.ofNat 64 va) needW false fresh with
    | .notReady | .unready _ _ _ => .error .wait
    | .fault cause sub addr => .error (.fault cause sub addr)
    | .ok pa key t =>
      let x := t.shed d h
      if x.banked va pa && (x.sector pa).isNone then .error .wait
      else feederFind d h fresh r (l ++ [(va, pa, key, bs)]) t

/-- Writes chunks all together. -/
def feederPut (d : Die) (h : ShedNo) (fresh : Bool) (l : List (Nat × List Byte)) (s : State) : Except Short State :=
  match feederFind d h fresh l [] s with
  | .error e => .error e
  | .ok (places, t) =>
    .ok (places.foldl (fun t q => (t.feederWrite d h q.1 q.2.1 q.2.2.1 q.2.2.2).getD t) t)

/-- Bytes at an address, cut where doubles end. -/
def cutBytes (va : Nat) (bs : List Byte) : List (Nat × List Byte) :=
  (chunks (bs.length + 1) va bs.length).map fun c => (c.1, (bs.drop (c.1 - va)).take c.2)

/-- An element that falls short: held under R394, stopped under R397, or to be tried again. -/
def State.streamShort (s : State) (d : Die) (h : ShedNo) (p : Nat) (e : Int) (need : Need) : Short → State
  | .wait => s
  | .dead cause => (s.unhold d (.stream d h p)).feederFault d h (portItem p) p cause
  | .fault cause sub addr =>
    match s.hold d (.stream d h p) false cause sub
        (s.feederInfo d h (BitVec.ofNat 6 (56 + p)) need addr (BitVec.ofInt 64 e)) with
    | .held t | .full t => t.modStream d h p fun y => { y with held := true }
    | .failNow t => t.feederFault d h (portItem p) p cause

/-- The failure of an element that its address brings at once: VARANGE 2 or MISALIGN (R392). -/
def elementFault (w : Desc) (e : Int) : Option Byte :=
  let f := Descriptor.fmt w
  let a := Descriptor.address w e
  let b := Descriptor.scaleAddr w e
  if a < 0 || 2 ^ 57 ≤ a then some 0x21
  else if f.isTwill && (b < 0 || 2 ^ 57 ≤ b) then some 0x21
  else if !f.isTwill && a % (f.width / 8 : Nat) != 0 then some 0x20
  else none

/-- The hull of a range and of n bytes at an address. -/
def widen (r : Option (Nat × Nat)) (va n : Nat) : Option (Nat × Nat) :=
  match r with
  | some (a, b) => some (min a va, max b (va + n))
  | none => some (va, va + n)

/-- The range that an access to an element, or to the block it begins, adds. -/
def StreamSt.reach (t : StreamSt) (e : Int) (n : Nat) : Option (Nat × Nat) :=
  let w := t.desc
  let r := widen t.range (Descriptor.address w e).toNat n
  if (Descriptor.fmt w).isTwill then widen r (Descriptor.scaleAddr w e).toNat 2 else r

/-! Window points (R123, R161) -/

/-- Whether a token marks a window point of a stream. -/
def StreamSt.marks (t : StreamSt) (k : Token) : Bool :=
  Descriptor.win t.desc && (k.isEos || (Descriptor.groupWindows t.desc && k.isEog))

/-- A stream passes a token of its window kind: the write-back of its range is to be done. -/
def StreamSt.window (t : StreamSt) (k : Token) : StreamSt :=
  if t.marks k then { t with wins := t.wins ++ [t.range.getD (0, 0)], range := none } else t

/-- WINDOW_WRITEBACK_DONE (R161): the dirty sectors of the oldest marked range are at their home, and SWINCNT rises. -/
def execWindowWritebackDone (s : State) : Result :=
  let d := s.ev.die
  let h := s.ev.shed
  let p := s.ev.unit
  .next <|
    match ((s.shed d h).stream p).wins with
    | (a, b) :: rest =>
      let s := s.modStream d h p fun t => { t with wins := rest }
      let s := s.writeBackAll d h fun y => y.va < b && a < y.va + 48
      s.modShed d h fun x => { x with swincnt := x.swincnt + 1 }
    | [] => s

/-! Read streams (R127, R128) -/

/-- A stream whose last token has been injected, or whose last element has been performed, is complete. -/
def State.endStream (s : State) (d : Die) (h : ShedNo) (p : Nat) : State :=
  (s.modStream d h p fun t => { t with running := false }).startPending d h p

/-- Injects the next token of those an element has given. -/
def State.inject (s : State) (d : Die) (h : ShedNo) (p : Nat) : State :=
  let x := s.shed d h
  let t := x.stream p
  match t.inject with
  | k :: rest =>
    if (x.port p).depth ≤ (x.portSt p).fifo.length then s
    else
      let x := (x.modPort p fun q => { q with fifo := q.fifo ++ [k] }).setStream p ({ t with inject := rest, last := some (k.ctx, k.endsGroup) }.window k)
      let s := s.setShed d h x
      if t.ended && rest.isEmpty then s.endStream d h p else s
  | [] => if t.ended then s.endStream d h p else s

/-- The shape token after an element that ends a row of an affine stream, with the counts then (R50, R127). -/
def StreamSt.shapeAfter (t : StreamSt) : List Token :=
  let w := t.desc
  if !Descriptor.shape w || Descriptor.index w t.pos 0 + 1 != Descriptor.count w 0 then []
  else if t.pos + 1 == Descriptor.total w then [shapeTok t.ctx codeEos (t.all + 1)]
  else if 3 ≤ Descriptor.dims w && Descriptor.index w t.pos 1 + 1 == Descriptor.count w 1 then
    [shapeTok t.ctx codeEog (t.group + 1)]
  else [shapeTok t.ctx codeEor (t.row + 1)]

/-- The counts and the place of a stream after an element of a read stream. -/
def StreamSt.step (t : StreamSt) : StreamSt :=
  let w := t.desc
  let rowEnds := if Descriptor.indirect w then t.pos + 1 == Descriptor.total w
    else Descriptor.index w t.pos 0 + 1 == Descriptor.count w 0
  let groupEnds := rowEnds && 3 ≤ Descriptor.dims w && Descriptor.index w t.pos 1 + 1 == Descriptor.count w 1
  let t := { t with all := t.all + 1, row := if rowEnds then 0 else t.row + 1, group := if groupEnds then 0 else t.group + 1 }
  if Descriptor.indirect w then
    if rowEnds then { t with pos := 0, index := none } else { t with pos := t.pos + 1 }
  else { t with pos := t.pos + 1, ended := t.pos + 1 == Descriptor.total w }

/-- The tokens of an element that has been read: the scale of the block it begins, its data, and the shape token. -/
def StreamSt.tokens (t : StreamSt) (e : Int) (bytes : List Byte) (scale : BitVec 16) : List Token :=
  let w := t.desc
  let f := Descriptor.fmt w
  let v : Word := BitVec.ofNat 64 (bytesNat bytes / 2 ^ Descriptor.bitOf w e % 2 ^ f.width)
  let first := if f.isTwill && e % 16 == 0 then [scaleTok t.ctx scale] else []
  let shape :=
    if Descriptor.indirect w then
      if Descriptor.shape w && t.pos + 1 == Descriptor.total w then [shapeTok t.ctx codeEor (t.row + 1)] else []
    else t.shapeAfter
  first ++ [dataTok t.ctx v] ++ shape

/-- A read stream performs its next element. -/
def State.readElement (s : State) (d : Die) (h : ShedNo) (p : Nat) : State :=
  let t := (s.shed d h).stream p
  let w := t.desc
  let f := Descriptor.fmt w
  let e := Descriptor.offset w t.pos t.index
  match elementFault w e with
  | some cause => s.feederFault d h (portItem p) p cause
  | none =>
    let fresh := s.heldRetries d (.stream d h p)
    let n := (Descriptor.bitOf w e + f.width + 7) / 8
    let a := (Descriptor.address w e).toNat
    let b := (Descriptor.scaleAddr w e).toNat
    let two := if f.isTwill && e % 16 == 0 then chunks 3 b 2 else []
    match feederGet d h fresh (chunks 3 a n) [] s with
    | .error x => s.streamShort d h p e needR x
    | .ok (bytes, s1) =>
      match feederGet d h fresh two [] s1 with
      | .error x => s.streamShort d h p e needR x
      | .ok (sc, s2) =>
        let s := s2.unhold d (.stream d h p)
        let t' := { t.step with inject := t.tokens e bytes (BitVec.ofNat 16 (bytesNat sc)), range := t.reach e n, held := false }
        (s.modStream d h p fun _ => t').inject d h p

/-- The left port of a feeder slot gives an indirect stream its next index, or ends it with an EOS; another token has no
effect. An index that breaks R128 is consumed and stops the port (DESIGN CHOICE, log entry 86). -/
def State.takeIndex (s : State) (d : Die) (h : ShedNo) (p : Nat) : State :=
  let x := s.shed d h
  let t := x.stream p
  let slot := 56 + p
  match x.operand slot .l t.ctx.toNat with
  | none => s
  | some k =>
    let x := x.setOperand slot .l t.ctx.toNat none
    if k.kind == kindData then
      if Descriptor.indexOk t.desc k.payload then s.setShed d h (x.setStream p { t with index := some k.payload, pos := 0 })
      else (s.setShed d h x).stopItem d h (portItem p) 5
    else if k.isEos then
      let last := if Descriptor.shape t.desc && !Descriptor.writes t.desc then [shapeTok t.ctx codeEos t.all] else []
      let s := s.setShed d h (x.setStream p { t with ended := true, inject := last })
      if last.isEmpty then s.endStream d h p else s.inject d h p
    else s.setShed d h x

/-- Whether a stream has to wait for an index. -/
def StreamSt.needsIndex (t : StreamSt) : Bool := Descriptor.indirect t.desc && t.index.isNone

/-- Whether a feeder port feeds a row FIFO: a target of it is the left port of an MMA node (R256). -/
def ShedSt.feedsRows (x : ShedSt) (p : Nat) : Bool :=
  let c := x.port p
  c.en && !c.out && [c.ta, c.tb].any fun t => match t with
    | .node slot .l => match decodeGraph (tblGet 0 slot.toNat x.words) with
      | some (.mma _ _ _ _ _) => true
      | _ => false
    | _ => false

/-- Whether a feeder port has begun a row that it completes although its loom is being checkpointed (R276). -/
def ShedSt.finishesRow (x : ShedSt) (p : Nat) : Bool :=
  x.state == .draining && !x.failed && x.finishing.contains p
    && ((x.stream p).row != 0 || !(x.stream p).inject.isEmpty)

/-- Whether a feeder port injects (R47, R48, R76, R276). -/
def ShedSt.injectsAt (x : ShedSt) (p : Nat) : Bool :=
  let t := x.stream p
  (x.injects || x.finishesRow p) && t.running && x.ctxAt t.ctx.toNat != .done

/-- A read stream's turn: it injects while the shed injects and the port's FIFO has room; in a context in MISS it goes
no further than its group, and in one that is DONE it injects nothing (R76). -/
def State.readTurn (s : State) (d : Die) (h : ShedNo) (p : Nat) : State :=
  let x := s.shed d h
  let t := x.stream p
  if !x.injectsAt p then s
  else if !t.inject.isEmpty || t.ended then s.inject d h p
  else if (x.port p).depth ≤ (x.portSt p).fifo.length then s
  else if x.ctxAt t.ctx.toNat == .miss && t.group == 0 then s
  else if t.needsIndex then s.takeIndex d h p
  else s.readElement d h p

/-! Write streams -/

/-- A token leaves the FIFO of an output feeder port: its credit returns to the port. -/
def ShedSt.eatToken (x : ShedSt) (p : Nat) : ShedSt :=
  x.modPort p fun q => { q with fifo := q.fifo.drop 1, credits := q.credits + 1 }

/-- A write stream has performed n elements. -/
def StreamSt.wrote (t : StreamSt) (n : Nat) : StreamSt :=
  let w := t.desc
  if t.pos + n < Descriptor.total w then { t with pos := t.pos + n }
  else if Descriptor.indirect w then { t with pos := 0, index := none }
  else { t with pos := t.pos + n, ended := true, running := false }

/-- A write stream writes bytes for elements from offset e on, and consumes the token. -/
def State.putElements (s : State) (d : Die) (h : ShedNo) (p : Nat) (e : Int) (n size : Nat) (l : List (Nat × List Byte)) :
    State :=
  match feederPut d h (s.heldRetries d (.stream d h p)) l s with
  | .error x => s.streamShort d h p e needW x
  | .ok s1 =>
    let s := s1.unhold d (.stream d h p)
    let x := (s.shed d h).eatToken p
    let t := x.stream p
    (s.setShed d h (x.setStream p { t.wrote n with block := [], range := t.reach e size, held := false })).startPending d h p

/-- A data token arrives at a running write stream. -/
def State.writeElement (s : State) (d : Die) (h : ShedNo) (p : Nat) (k : Token) : State :=
  let x := s.shed d h
  let t := x.stream p
  let w := t.desc
  let f := Descriptor.fmt w
  let e := Descriptor.offset w t.pos t.index
  if f.isTwill && t.block.length < 15 then
    s.setShed d h ((x.eatToken p).setStream p { t with block := t.block ++ [k.payload] })
  else
    match elementFault w e with
    | some cause => s.feederFault d h (portItem p) p cause
    | none =>
      let a := (Descriptor.address w e).toNat
      if f.isTwill then
        let scale := t.scale.getD ((Config.freeWord s.tick).extractLsb' 0 16)
        let bs := packBlock f.width (t.block ++ [k.payload])
        s.putElements d h p e 16 bs.length
          (cutBytes a bs ++ cutBytes (Descriptor.scaleAddr w e).toNat (natBytes 2 scale.toNat))
      else s.putElements d h p e 1 (f.width / 8) (cutBytes a (bytesOfWord (f.width / 8) k.payload))

/-- A write stream's turn with the head token of its port: a data token is written, another consumed; data tokens behind
the last element stay (R127). -/
def State.writeTurn (s : State) (d : Die) (h : ShedNo) (p : Nat) : State :=
  let x := s.shed d h
  let t := x.stream p
  if !x.fires then s
  else if t.running && t.needsIndex && !t.ended then s.takeIndex d h p
  else
    match (x.portSt p).fifo with
    | [] => s
    | k :: _ =>
      if k.kind == kindData then if t.running then s.writeElement d h p k else s
      else if !t.running && !t.ended then s
      else
        let t := if k.isScale && (Descriptor.fmt t.desc).isTwill then { t with scale := some (k.payload.extractLsb' 0 16) } else t
        s.setShed d h ((x.eatToken p).setStream p (t.window k))

/-- STREAM_ELEMENT (R127). -/
def execStreamElement (s : State) : Result :=
  let d := s.ev.die
  let h := s.ev.shed
  let p := s.ev.unit
  let x := s.shed d h
  let t := x.stream p
  .next <|
    if 8 ≤ p || x.streamStopped p || s.heldWaits d (.stream d h p) || s.feederBusy d h (.stream d h p) || t.desc.isEmpty then s
    else if Descriptor.writes t.desc then s.writeTurn d h p
    else s.readTurn d h p

end Sys2Proof.Machine
end

