-- ==== Sys2Proof/Machine/Copy.lean ====
section
/-!
DEFINITION. Bobbin hart copies and hardware queues (04 R129, R130; 05 R163; 09 R307 to R310; 15 R400 to R402): kicks, the
start of a template, its elements and its completion; CPARM, CPDISARM, HQPUSH and the tokens of an armed queue.
-/

namespace Sys2Proof.Machine

/-! Templates (Tables 4-7, 4-8) -/

/-- A copy template as its sixteen doubles. -/
abbrev Tmpl := List Word

namespace Template

def half (w : Tmpl) (at0 k : Nat) : BitVec 32 := (w.getD (at0 + k / 2) 0).extractLsb' (32 * (k % 2)) 32
def sbase (w : Tmpl) : Word := w.getD 0 0
def dbase (w : Tmpl) : Word := w.getD 1 0
def ext (w : Tmpl) (k : Nat) : Nat := (half w 2 k).toNat
def sstart (w : Tmpl) (k : Nat) : Int := (half w 4 k).toInt
def dstart (w : Tmpl) (k : Nat) : Int := (half w 6 k).toInt
def sstr (w : Tmpl) (k : Nat) : Int := (half w 8 k).toInt
def dstr (w : Tmpl) (k : Nat) : Int := (half w 10 k).toInt
def ctrl (w : Tmpl) : Word := w.getD 12 0
def compl (w : Tmpl) : Word := w.getD 13 0
def tag (w : Tmpl) : Word := w.getD 14 0
def esz (w : Tmpl) : Nat := ((ctrl w).extractLsb' 0 3).toNat
def size (w : Tmpl) : Nat := 2 ^ esz w
def dims (w : Tmpl) : Nat := ((ctrl w).extractLsb' 3 2).toNat + 1
def image (w : Tmpl) : Bool := (ctrl w).getLsbD 5
def dfe (w : Tmpl) : BitVec 2 := (ctrl w).extractLsb' 6 2
def sphys (w : Tmpl) : Bool := (ctrl w).getLsbD 8
def dphys (w : Tmpl) : Bool := (ctrl w).getLsbD 9
def cscope (w : Tmpl) : BitVec 3 := (ctrl w).extractLsb' 10 3
def pkey (w : Tmpl) : Byte := (ctrl w).extractLsb' 16 8
def shed (w : Tmpl) : ShedNo := (dbase w).extractLsb' 0 9
def mac (w : Tmpl) : Nat := ((dbase w).extractLsb' 9 3).toNat

/-- The elements of a copy. -/
def total (w : Tmpl) : Nat := ((List.range (dims w)).map (ext w)).foldl (· * ·) 1

/-- The coordinate of an element in a dimension, dimension 0 innermost. -/
def index (w : Tmpl) (pos k : Nat) : Nat := pos / ((List.range k).map (ext w)).foldl (· * ·) 1 % ext w k

/-- Whether a number lies in the range of a 64-bit signed integer. -/
def signed (x : Int) : Bool := -(2 ^ 63) ≤ x && x < 2 ^ 63

/-- The sum of a base and terms, every term and partial sum in range (R401). -/
def sumTerms (base : Int) (ts : List Int) : Option Int :=
  ts.foldl (fun o t => o.bind fun x => if signed t && signed (x + t) then some (x + t) else none) (some base)

/-- The source address of an element before the limit. -/
def source (w : Tmpl) (pos : Nat) : Option Int :=
  sumTerms (sbase w).toNat ((List.range (dims w)).map fun k => (sstart w k + index w pos k) * sstr w k)

/-- The destination address of an element, which in a macro's image counts from zero. -/
def dest (w : Tmpl) (pos : Nat) : Option Int :=
  sumTerms (if image w then 0 else (dbase w).toNat)
    ((List.range (dims w)).map fun k => (dstart w k + index w pos k) * dstr w k)

/-- An address below a limit. -/
def within (limit : Nat) (a : Option Int) : Option Nat :=
  a.bind fun x => if 0 ≤ x && x < limit then some x.toNat else none

/-- The source and destination of an element that pass the checks of R401. -/
def source? (w : Tmpl) (pos : Nat) : Option Nat := within (if sphys w then 2 ^ 48 else 2 ^ 57) (source w pos)
def dest? (w : Tmpl) (pos : Nat) : Option Nat :=
  within (if image w then 0x8000 else if dphys w then 2 ^ 48 else 2 ^ 57) (dest w pos)

/-- Whether some destination of a filling copy is not aligned to a double. -/
def misfit (w : Tmpl) : Bool :=
  (dest w 0).any (fun x => x % 8 != 0) || (List.range (dims w)).any fun k => 1 < ext w k && dstr w k % 8 != 0

/-- A template as a token changes it (R310). -/
def fill (w : Tmpl) (tuse : BitVec 2) (d : Die) (token : Word) : Tmpl :=
  let start : BitVec 32 := half w 4 3 + (token.extractLsb' 0 12).zeroExtend 32
  let w1 := (w.set 5 (start ++ half w 4 2)).set 14 token
  let h := token.extractLsb' 14 9
  match tuse.toNat with
  | 1 => w1
  | 2 => (w1.set 1 ((dbase w).extractLsb' 9 55 ++ h)).set 13 (d ++ 0#2 ++ 0b100#3 ++ h ++ 0#44)
  | _ => w

end Template

/-! Kicks (R307, R308, R402) -/

/-- The kicks a queue holds. -/
def kickEntries : Nat := 16

/-- The stream register that a kick binds. -/
def Kick.bind (k : Kick) : Option (SlotId × Byte × Nat) :=
  if k.qb.getLsbD 3 then k.slot.map fun i => (i.1, i.2, (k.qb.extractLsb' 0 3).toNat) else none

/-- Changes the stream register a copy is bound to, while the thread is there and the copy holds the register. -/
def State.modBound (s : State) (k : Kick) (f : StreamReg → StreamReg) : State :=
  match k.bind with
  | some (i, inc, n) =>
    if k.busy || (s.slot i).inc != inc then s else s.modSlot i fun x => x.setStream n (f (x.stream n))
  | none => s

/-- A kick enters a hart's queue, and binds its stream register (R308). -/
def State.acceptKick (s : State) (d : Die) (n : HartNo) (k : Kick) : State :=
  let busy : Bool := match k.bind with
    | some (i, inc, q) => (s.slot i).inc == inc && ((s.slot i).stream q).bound
    | none => false
  let k := { k with busy, access := none }
  (s.modHart d n fun x => { x with queue := x.queue ++ [k] }).modBound k fun _ => { bound := true }

/-- Whether a hart's queue takes a kick now; a retired hart takes none (R342). -/
def HartSt.room (x : HartSt) : Bool := !x.retired && x.queue.length < kickEntries && x.held.isEmpty

/-- The kick of a value stored to BHKICK by a slot. -/
def kickOf (i : SlotId) (inc : Byte) (v : Word) (access : Option Nat) : Kick :=
  { tmpl := v &&& 0x01ffffffffffffc0, die := i.die, core := i.core, slot := some (i, inc), priv := isPriv i,
    qb := v.extractLsb' 0 4, access }

/-- A store to BHKICK: the kick is queued, or held at the register while the queue is full (R402); a retired hart makes nothing of
it (R342). -/
def State.kick (s : State) (d : Die) (n : HartNo) (k : Kick) : State :=
  if (s.hart d n).retired then s
  else if (s.hart d n).room then s.acceptKick d n k else s.modHart d n fun x => { x with held := x.held ++ [k] }

/-- BHKICK (R307). -/
def execBhkick (s : State) : Result :=
  let i : SlotId := ⟨s.ev.die, s.ev.core, s.ev.slot⟩
  .next (s.kick s.ev.die (BitVec.ofNat 6 s.ev.unit) (kickOf i (s.slot i).inc s.ev.val none))

/-- KICK_HELD_PERFORM (R402): an entry is free; the held store is performed. -/
def execKickHeldPerform (s : State) : Result :=
  let d := s.ev.die
  let n : HartNo := BitVec.ofNat 6 s.ev.unit
  let x := s.hart d n
  .next <|
    match x.held with
    | k :: rest =>
      if kickEntries ≤ x.queue.length then s
      else
        let s := (s.setHart d n { x with held := rest }).acceptKick d n k
        match k.access with
        | some id => s.modAccess id fun a => { a with stage := .done }
        | none => s
    | [] => s

/-! Accesses of a hart -/

/-- The core whose address context a kick uses. -/
def State.kickCore (s : State) (k : Kick) : CoreSt := s.core k.die k.core

/-- Translates an address of a hart (R130): a hart has no TLB (R139). -/
def State.hartReach (s : State) (d : Die) (k : Kick) (phys : Option Byte) (va : Word) (need : Need) (reg fresh : Bool) : Reach :=
  match phys with
  | some key => s.place d va.toNat key reg va
  | none =>
    match s.translate d (s.kickCore k).ctx [] va.toNat (if k.priv then need else need ||| needU) fresh with
    | (.ok pa key t, _) => t.place d pa key reg va
    | (.fault cause sub addr, _) => .fault cause sub addr
    | (.notReady, _) => .notReady

/-- Reads chunks of bytes one after another. -/
def hartGet (d : Die) (k : Kick) (phys : Option Byte) (fresh : Bool) : List (Nat × Nat) → List Byte → State →
    Except Short (List Byte × State)
  | [], bs, s => .ok (bs, s)
  | (va, n) :: r, bs, s =>
    match s.hartReach d k phys (BitVec.ofNat 64 va) needR false fresh with
    | .notReady | .unready _ _ _ => .error .wait
    | .fault cause sub addr => .error (.fault cause sub addr)
    | .ok pa key t =>
      if t.isPoisoned pa then .error (.dead 0x29) else hartGet d k phys fresh r (bs ++ t.readBytes key pa n) t

/-- What the fault message of a hart's access says: mw3 is the element, all ones for a template (Table 15-2). -/
def State.hartInfo (s : State) (n : HartNo) (k : Kick) (need : Need) (addr mw3 : Word) : FaultInfo :=
  { kind := 3, need := if k.priv then need else need ||| needU, addr, agent := n.zeroExtend 64, pc := mw3,
    ctx := (s.kickCore k).ctx }

/-! Completion (R309, R400) -/

/-- The mailbox of copy completions. -/
def completionBox : BitVec 5 := 31

/-- Sends the completion of a copy of a hart: to the core or shed its handle names, or to the requester. -/
def State.sendCompletion (s : State) (d : Die) (n : HartNo) (k : Kick) (handle tag : Word) (sc : BitVec 3) (status : Byte)
    (count : Nat) : State :=
  let words : List Word := [tag, 0#48 ++ status ++ 0#2 ++ n, BitVec.ofNat 64 count]
  let m := engineMail d n.toNat k.die k.core completionBox words ((scope sc).getD .s)
  match handleCore handle, handleShed handle with
  | some c, _ =>
    if handle = 0 then s.send (.mail m)
    else s.send (.mail { m with die := handleDie handle, core := c, handle := handle, destWord := requesterWord k.die k.core })
  | none, some h =>
    if s.leads d handle == .fails then s.send (.mail m) else s.send (.fillDone (handleDie handle) h tag status)
  | none, none => s.send (.mail m)

/-- The end of a macro load by a copy that had begun one (R253). -/
def State.endCopyLoad (s : State) (d : Die) (w : Tmpl) (elem : Nat) : State :=
  if Template.image w && elem != 0 then
    s.modShed d (Template.shed w) fun x => x.modMacro (Template.mac w) fun y => { y with loads := y.loads - 1 }
  else s

/-- The running copy ends with a status: 0 when it is complete (R309, R400). A bound stream register ends, with the
cause of a failure. -/
def State.endCopy (s : State) (d : Die) (n : HartNo) (status : Byte) : State :=
  let x := s.hart d n
  match x.running with
  | none => s
  | some k =>
    let w := x.tmpl
    let s := s.setHart d n { x with running := none, tmpl := [], elem := 0, pc := 0, regs := [] }
    let s := if k.bind.isSome then s else s.endCopyLoad d w x.elem
    let s := s.modBound k fun q => { q with ended := true, fail := if status = 0 then none else some status }
    s.sendCompletion d n k (Template.compl w) (Template.tag w) (Template.cscope w) status x.elem

/-- A copy that ends at its start (R400): without a handle that can be used, its completion goes to the requester. -/
def State.refuseCopy (s : State) (d : Die) (n : HartNo) (k : Kick) (handle tag : Word) (sc : BitVec 3) (status : Byte) :
    State :=
  (s.modBound k fun q => { q with ended := true, fail := some status }).sendCompletion d n k handle tag sc status 0

/-! The start of a template (R129, R400) -/

/-- Whether a completion handle names nothing usable (R400). -/
def State.badHandle (s : State) (d : Die) (h : Word) : Bool :=
  h != 0 && (!handleOk h || !s.dieThere d (handleDie h) || ((handleCore h).isNone && (handleShed h).isNone)
    || s.leads d h == .fails)

/-- A template with a reserved field or value (Table 15-1, TMPLRSV); the destination fields of a bound copy are ignored
(R308). -/
def templateReserved (k : Kick) (w : Tmpl) : Bool :=
  let c := Template.ctrl w
  let bound := k.bind.isSome
  (k.qb != 0 && !k.qb.getLsbD 3) || k.tuse == 3 || c.extractLsb' 13 3 != 0 || c.extractLsb' 24 40 != 0
    || 5 < (Template.cscope w).toNat || w.getD 15 0 != 0 || (List.range (Template.dims w)).any (fun j => Template.ext w j == 0)
    || (bound && 3 < Template.esz w)
    || (!bound && ((Template.dfe w).getLsbD 1 || (Template.image w && (Template.dbase w).toNat / 2 ^ 12 != 0)
      || (Template.dfe w == 1 && (Template.esz w < 3 || Template.misfit w))))

/-- A destination that is a macro out of use. -/
def State.badMacroDest (s : State) (d : Die) (w : Tmpl) : Bool :=
  let x := s.shed d (Template.shed w)
  Template.image w && (x.retired || x.retiredMacros.getLsbD (Template.mac w))

/-- Whether a memory base names nothing usable (R400; DEDUCED, log entry 90): a virtual one beyond 57 bits, a physical one that
BADPA would refuse. -/
def State.badBase (s : State) (d : Die) (phys : Bool) (base : Word) : Bool :=
  if phys then (s.badPa d base.toNat).isSome else 2 ^ 57 ≤ base.toNat

/-- Whether the source or the memory destination of a template names nothing usable. -/
def State.badBases (s : State) (d : Die) (bound : Bool) (w : Tmpl) : Bool :=
  s.badBase d (Template.sphys w) (Template.sbase w)
    || (!bound && !Template.image w && s.badBase d (Template.dphys w) (Template.dbase w))

/-- The fault found in a template once it is read: its status (R400). -/
def State.templateFault (s : State) (d : Die) (k : Kick) (w : Tmpl) : Option Byte :=
  let bound := k.bind.isSome
  if templateReserved k w || (!bound && s.badMacroDest d w) then some 0x30
  else if !k.priv && (Template.sphys w || (!bound && Template.dphys w)) then some 0x32
  else if s.badBases d bound w then some 0x30
  else if k.busy then some 0x34
  else none

/-- The kick at the head leaves its queue, and so does the token that made it (R310). -/
def State.takeKick (s : State) (d : Die) (n : HartNo) (k : Kick) : State :=
  let s := s.modHart d n fun x => { x with queue := x.queue.drop 1 }
  match k.hq with
  | some q => s.modHq d q fun x => { x with tokens := x.tokens.erase k.token }
  | none => s

/-- Whether n bytes at an address of a hart may lie in a double of a write that it has still to perform (R147): the places in
their pages meet. -/
def HartSt.mayMeet (x : HartSt) (va n : Nat) : Bool :=
  x.posted.any fun p => (List.range (n + 7)).any fun k => (va + k) % 4096 / 8 == p.pa % 4096 / 8

/-- COPY_START: the hart reads the template of its next kick and checks it. A template that a slot 15 in physical mode
kicked lies at a panel physical address (R133, log entry 49). -/
def execCopyStart (s : State) : Result :=
  let d := s.ev.die
  let n : HartNo := BitVec.ofNat 6 s.ev.unit
  let x := s.hart d n
  let who : HeldWho := .hart d n
  .next <|
    match x.running, x.queue with
    | none, k :: _ =>
      if s.heldWaits d who || x.retired || x.mayMeet k.tmpl.toNat 128 then s
      else
        let c := s.kickCore k
        let phys := if k.priv && c.phys then some c.pkey else none
        let dead := fun (s : State) (cause : Byte) => ((s.unhold d who).takeKick d n k).refuseCopy d n k 0 0 0 cause
        match hartGet d k phys (s.heldRetries d who) ((List.range 16).map fun j => (k.tmpl.toNat + 8 * j, 8)) [] s with
        | .error .wait => s
        | .error (.dead cause) => dead s cause
        | .error (.fault cause sub addr) =>
          match s.hold d who false cause sub (s.hartInfo n k needR addr (BitVec.allOnes 64)) with
          | .held t => t
          | .full t => t
          | .failNow t => dead t cause
        | .ok (bs, t) =>
          let t := (t.unhold d who).takeKick d n k
          let w0 : Tmpl := (List.range 16).map fun j => wordOfBytes ((bs.drop (8 * j)).take 8)
          let w := Template.fill w0 k.tuse d k.token
          if t.badHandle d (Template.compl w) then t.refuseCopy d n k 0 (Template.tag w) (Template.cscope w) 0x30
          else
            match t.templateFault d k w with
            | some cause => t.refuseCopy d n k (Template.compl w) (Template.tag w) (Template.cscope w) cause
            | none =>
              t.modHart d n fun x =>
                { x with running := some k, tmpl := w, elem := 0, pc := 0, regs := tblSet 0 1 k.tmpl [] }
    | _, _ => s

/-! Hardware queues (R310) -/

/-- The kicks made by a queue's tokens that have not started. -/
def State.firedTokens (s : State) (d : Die) (q : HqNo) : Nat :=
  ((s.harts.filter fun e => e.1 / 64 == d.toNat).map fun e => (e.2.queue.filter (·.hq == some q)).length).sum

/-- HQ_TOKEN_FIRE: the first token of an armed queue that has not fired yet becomes a kick, or is delivered to the
mailbox; it waits while the hart's queue or the mailbox is full (R310, R382). -/
def execHqTokenFire (s : State) : Result :=
  let d := s.ev.die
  let q : HqNo := BitVec.ofNat 12 s.ev.unit
  let x := s.hq d q
  .next <|
    if !x.armed then s
    else if x.mb then
      match x.tokens with
      | [] => s
      | w :: rest =>
        let waits : Bool := match x.heldUntil with
          | some t => s.aclk.ult t
          | none => false
        if waits || s.firedTokens d q != 0 then s
        else if (s.core d x.core).retired then s.setHq d q { x with tokens := rest, heldUntil := none }
        else
          let s := if x.heldUntil.isSome then s.count d (.core x.core) 0x10 else s
          if s.boxRoom d x.core x.mbox.toNat then
            (s.setHq d q { x with tokens := rest, heldUntil := none }).deliver d x.core x.mbox.toNat [w] .d
          else s.setHq d q { x with heldUntil := some (s.aclk + 256) }
    else
      match x.tokens[s.firedTokens d q]? with
      | some w =>
        if (s.hart d x.hart).room then
          s.acceptKick d x.hart
            { tmpl := x.tmpl, die := d, core := x.core, slot := none, priv := x.priv, qb := 0, token := w, tuse := x.tuse,
              hq := some q }
        else s
      | none => s

/-- Whether the accesses that the executing thread has started are performed, as a release at its issue requires. -/
def State.releases (t : State) : Bool := t.released (some (t.cur, (t.slot t.cur).inc)) t.nextId

/-- Takes back the kicks of a queue that have not started; one whose template read is held has. -/
def State.takeBack (t : State) (d : Die) (q : HqNo) : State :=
  (List.range 64).foldl (fun t j =>
    let n : HartNo := BitVec.ofNat 6 j
    let keep := if (t.die d).held.any (·.who == .hart d n) && (t.hart d n).running.isNone then 1 else 0
    t.modHart d n fun x => { x with queue := x.queue.take keep ++ (x.queue.drop keep).filter (·.hq != some q) }) t

/-- CPARM: arms a queue; a release at d (R163). The kicks that its tokens have made and that have not started are taken
back: they are tokens not yet fired. -/
def execCparm (a b : Reg) (s : State) : Result :=
  s.issueOpen [a, b] [] fun v t =>
    let va := v.getD 0 0
    let w := v.getD 1 0
    let q : HqNo := w.extractLsb' 0 12
    let d := t.cur.die
    match t.addressFault t.cur va 6 with
    | some f => f
    | none =>
      if !t.releases then .wait
      else
        let t := t.takeBack d q
        .go ((t.modHq d q fun x =>
          { x with armed := true, mb := w.getLsbD 20, mbox := w.extractLsb' 21 5, hart := w.extractLsb' 12 6,
                   tuse := w.extractLsb' 18 2, tmpl := va, core := t.cur.core, priv := isPriv t.cur, heldUntil := none }).advance)

/-- CPDISARM: nothing of the arming stays (HQSTAT shows the armed hart and token use). -/
def execCpdisarm (a : Reg) (s : State) : Result :=
  s.issueOpen [a] [] fun v t =>
    let q : HqNo := (v.getD 0 0).extractLsb' 0 12
    .go (((t.takeBack t.cur.die q).modHq t.cur.die q fun x => { tokens := x.tokens }).advance)

/-- HQPUSH: a release at d (R163); a full queue keeps the slot waiting. -/
def execHqpush (a b : Reg) (s : State) : Result :=
  s.issueOpen [a, b] [] fun v t =>
    let q : HqNo := (v.getD 0 0).extractLsb' 0 12
    if !t.releases || !t.unitUp t.cur.die readyHq || !t.hqRoom t.cur.die q then .wait else .go ((t.hqPush t.cur.die q (v.getD 1 0)).advance)

end Sys2Proof.Machine
end

