-- ==== Sys2Proof/Machine/Reed.lean ====
section
/-!
DEFINITION. The reed (01 R30): the combining tree of each die and of the panel, its links, each of which delivers in order
(09 R294), and a message's way over them.
-/

namespace Sys2Proof.Machine

/-! The tree -/

/-- The panel root. -/
def State.rootDie (s : State) : Option Die := (s.dies.find? fun e => e.2.boot.root).map fun e => BitVec.ofNat 6 e.1

/-- The die above a die root in the spanning tree of the escape class (R30): where the first hop of the die's escape path to the
panel root leads. A die whose table has no such path is taken to hang on the root itself (log entry 25). -/
def State.treeParent (s : State) (d : Die) : Option Die :=
  match s.rootDie with
  | none => none
  | some r =>
    if d == r then none
    else
      match (s.routesOf d none)[r.toNat]?.bind (·.esc) with
      | some p => some ((s.neighbour d (p.turns.extractLsb' 0 2).toNat).getD r)
      | none => some r

/-- The node above a node (R30): leaves hang on a skein node with the sheds that face the skein (R21), four skein nodes on one of
a stripe and segment, eight of these on one of a segment, four of these on the die root. -/
def State.reedUp (s : State) : ReedNode → Option ReedNode
  | .core d c => some (.skein d (skeinOf c))
  | .shed d h => some (.skein d (h.extractLsb' 2 7))
  | .skein d k => some (.quad d (k.extractLsb' 2 5))
  | .quad d n => some (.segment d (n.extractLsb' 0 2))
  | .segment d _ => some (.die d)
  | .die d => (s.treeParent d).map .die

/-- A node and those above it: five levels on a die and at most 63 dies above it. -/
def State.reedChain (s : State) : Nat → ReedNode → List ReedNode
  | 0, n => [n]
  | k + 1, n => n :: (match s.reedUp n with | some p => s.reedChain k p | none => [])

/-- The way of a message from a node to another: up to the lowest node common to both and down (R294). Nodes that no tree joins
are taken to be joined by a link of their own (log entry 25). -/
def State.reedPath (s : State) (a b : ReedNode) : List ReedNode :=
  let up := s.reedChain 68 a
  let down := s.reedChain 68 b
  match up.find? fun n => down.contains n with
  | some n =>
    match (up.takeWhile (· != n) ++ [n] ++ (down.takeWhile (· != n)).reverse).drop 1 with
    | [] => [b]
    | l => l
  | none => [b]

/-- The highest node of a core's domain (R292). -/
def State.domainTop (s : State) (dom : Scope) (own : Die × CoreNo) : ReedNode :=
  match dom with
  | .k => .skein own.1 (skeinOf own.2)
  | .d => .die own.1
  | _ => .die (s.rootDie.getD own.1)

/-- The nodes below a node that a broadcast to a domain goes on to. -/
def State.reedBelow (s : State) (dom : Scope) : ReedNode → List ReedNode
  | .core _ _ | .shed _ _ => []
  | .skein d k =>
    ((List.range 16).map fun j => .core d (k ++ BitVec.ofNat 4 j)) ++ (List.range 4).map fun j => .shed d (k ++ BitVec.ofNat 2 j)
  | .quad d n => (List.range 4).map fun j => .skein d (n ++ BitVec.ofNat 2 j)
  | .segment d g => (List.range 8).map fun j => .quad d (BitVec.ofNat 3 j ++ g)
  | .die d =>
    let dies := if dom == .p then
        (s.dies.map fun e => (BitVec.ofNat 6 e.1 : Die)).filter fun e => (s.die e).boot.present && s.treeParent e == some d
      else []
    dies.map .die ++ (List.range 4).map fun j => .segment d (BitVec.ofNat 2 j)

/-- The die of a node. -/
def ReedNode.onDie : ReedNode → Die
  | .core d _ | .shed d _ | .skein d _ | .quad d _ | .segment d _ | .die d => d

/-! Messages -/

/-- A numbered reed message. -/
def State.reedItem (s : State) (id : Nat) : Option ReedItem := s.reed.find? (·.id == id)

/-- Takes a reed message off. -/
def State.dropReed (s : State) (id : Nat) : State := { s with reed := s.reed.filter (·.id != id) }

/-- The node a reed message ends at. -/
def ReedItem.dest (q : ReedItem) : ReedNode := q.path.getLastD q.here

/-- Puts a message on a way over the reed from a node. -/
def State.putReed (s : State) (here : ReedNode) (path : List ReedNode) (m : ReedMsg) (src : Option (SlotId × Byte)) : State :=
  let q : ReedItem := { id := s.nextId, msg := m, here, path, src }
  { s with reed := s.reed ++ [q], nextId := s.nextId + 1 }

/-- Sends a message on the reed from a node to a node (R294). -/
def State.sendReed (s : State) (a b : ReedNode) (m : ReedMsg) : State := s.putReed a (s.reedPath a b) m none

/-- The link a message is on: from the node it has passed to the next. -/
def ReedItem.link (q : ReedItem) : ReedNode × Option ReedNode := (q.here, q.path.head?)

/-- Whether a message is the first on its link: every link delivers in the order it receives (R294). A broadcast that releases a
thread leaves after the accesses it covers (R165). -/
def State.reedFirst (s : State) (q : ReedItem) : Bool :=
  (s.reed.takeWhile (·.id != q.id)).all (fun e => e.link != q.link) && s.released q.src q.id

/-- Whether a message may reach its receiver: it is the first on the last link of its way. -/
def State.reedReady (s : State) (q : ReedItem) : Bool := q.path.length ≤ 1 && s.reedFirst q

/-- A message that is the first on its link goes on to the next node: onto its next link, or, for a solicit at the top of its way
or on its way down, onto the links to the nodes below. -/
def State.reedHop (s : State) (q : ReedItem) : State :=
  if !s.reedFirst q then s
  else
    let t := s.dropReed q.id
    match q.path, q.msg with
    | n :: p :: l, _ => t.putReed n (p :: l) q.msg none
    | [n], .solicit _ dom => (t.reedBelow dom n).foldl (fun t m => t.putReed n [m] q.msg none) t
    | _, _ => s

/-- A message that has passed a die that leaves the panel, or was to pass it, takes another way from the panel root, where it was on
that die, or from where it was; a broadcast that was going down to the die goes down to the dies below it (log entry 25). -/
def State.reedAround (s : State) (d : Die) (q : ReedItem) : List ReedItem :=
  let root := ReedNode.die (s.rootDie.getD d)
  if q.here.onDie != d && q.path.all (·.onDie != d) then [q]
  else
    match q.msg with
    | .solicit _ dom =>
      if q.path.length ≤ 1 && q.dest != root then
        if q.dest == .die d then
          ((s.reedBelow dom q.dest).filter (·.onDie != d)).map fun n => { q with here := root, path := [n] }
        else []
      else if q.here.onDie == d then [{ q with here := root, path := [root] }]
      else [{ q with path := (s.reedPath q.here root).filter (·.onDie != d) }]
    | _ =>
      let start := if q.here.onDie == d then root else q.here
      [{ q with here := start, path := (s.reedPath start q.dest).filter (fun n => n.onDie != d || n == q.dest) }]

end Sys2Proof.Machine
end

