-- ==== Sys2Proof/Machine/Census.lean ====
section
/-!
DEFINITION. The tile directory, censuses and their messages on the reed (09 R291 to R294; 16 R428): the operations, the
instructions DIRADD to CRESULT and SOLICIT, and the events SOLICIT_ARRIVAL to FORWARD_ARRIVAL.
-/

namespace Sys2Proof.Machine

/-- The core that a census identifier names (R292). -/
def censusCore (ident : Word) : Die × CoreNo := (ident.extractLsb' 24 6, ident.extractLsb' 0 11)

/-- The number of a leaf in a census's list of reports: cores by key, then sheds. -/
def ReedNode.leaf : ReedNode → Nat
  | .core d c => coreKey d c
  | .shed d h => 131072 + d.toNat * 512 + h.toNat
  | _ => 0

/-- The leaves of a domain (R292), by number: those of the skein, of the die, or of the panel's dies. -/
def State.domainLeaves (s : State) (dom : Scope) (own : Die × CoreNo) : List Nat :=
  let all := fun (d : Nat) =>
    ((List.range 2048).map fun j => d * 2048 + j) ++ (List.range 512).map fun j => 131072 + d * 512 + j
  match dom with
  | .k => (s.reedBelow dom (.skein own.1 (skeinOf own.2))).map (·.leaf)
  | .d => all own.1.toNat
  | _ => ((List.range 64).filter fun d => s.dieThere own.1 (BitVec.ofNat 6 d)).flatMap all

/-! The directory (R291) -/

/-- The entries of a directory. -/
def directoryEntries : Nat := 64

/-- An entry of a core's directory by its key. -/
def CoreSt.entry (c : CoreSt) (key : Word) : Option DirEntry := c.dir.find? (·.key == key)

/-- Changes the entry of a key. -/
def CoreSt.modEntry (c : CoreSt) (key : Word) (f : DirEntry → DirEntry) : CoreSt :=
  { c with dir := c.dir.map fun e => if e.key == key then f e else e }

/-- Removes the entry of a key. -/
def CoreSt.dropEntry (c : CoreSt) (key : Word) : CoreSt := { c with dir := c.dir.filter (·.key != key) }

/-- An entry that lists a census as answered: up to 16, the oldest dropped first (R291). -/
def DirEntry.answer (e : DirEntry) (ident : Word) : DirEntry :=
  let l := e.answered ++ [ident]
  { e with answered := l.drop (l.length - 16) }

/-! Censuses (R292, R293) -/

/-- An open census at its core by its identifier. -/
def State.census (s : State) (ident : Word) : Option Census :=
  let o := censusCore ident
  (s.core o.1 o.2).censuses.find? (·.ident == ident)

/-- Changes a census at its core. -/
def State.modCensus (s : State) (ident : Word) (f : Census → Census) : State :=
  let o := censusCore ident
  s.modCore o.1 o.2 fun c => { c with censuses := c.censuses.map fun x => if x.ident == ident then f x else x }

/-- The value of a census with one more response (R292). -/
def Census.combined (x : Census) (v : Word) : Option Word :=
  match x.combine, x.value with
  | .none, _ => x.value
  | .sum, o => some (o.getD 0 + v)
  | .min, o => some (match o with | some w => if v.slt w then v else w | none => v)
  | .max, o => some (match o with | some w => if w.slt v then v else w | none => v)

/-- The value that CRESULT returns: those of R292 for a census without a value; where no combine was asked, the manual
states none (log entry 12). -/
def Census.result (x : Census) (free : Word) : Word :=
  match x.combine with
  | .none => free
  | .sum => x.value.getD 0
  | .min => x.value.getD 0x7fffffffffffffff
  | .max => x.value.getD 0x8000000000000000

/-- The answered count with the number of lost answers above it (16 R428). -/
def Census.counts (x : Census) : Word := BitVec.ofNat 32 x.lost ++ BitVec.ofNat 32 x.answered

/-- A responder is counted as answered, with its value if it gave one, or as lost. -/
def State.countAnswer (s : State) (ident : Word) (v : Option Word) (lost : Bool) : State :=
  s.modCensus ident fun x =>
    { x with answered := x.answered + 1, lost := x.lost + (if lost then 1 else 0),
             value := match v with | some w => x.combined w | none => x.value }

/-- A core reports to a census how many responders it owes (R292). -/
def State.report (s : State) (ident : Word) (core : Nat) (n : Nat) : State :=
  s.modCensus ident fun x =>
    if x.reported.contains core then x else { x with reported := x.reported ++ [core], owed := x.owed + n }

/-- A responder starts at a core, or waits there for a FREE slot (R292). -/
def State.addPending (s : State) (d : Die) (c : CoreNo) (p : Pending) : State :=
  s.modCore d c fun x => { x with pending := x.pending ++ [p] }

/-- What a solicit finds at an entry of its key (R294): the state, and the responders owed. -/
def State.solicitEntry (s : State) (d : Die) (c : CoreNo) (p : Pending) (e : DirEntry) : State × Nat :=
  match e.state with
  | .valid =>
    if e.answered.contains p.census then (s, 0)
    else
      let s := s.modCore d c fun x => x.modEntry p.key (·.answer p.census)
      (s.addPending d c { p with addr := e.addr }, 1)
  | .inflight td tc => (s.sendReed (.core d c) (.core td tc) (.forward (d, c) p false), 1)
  | .incoming => (s, 0)

/-- SOLICIT_ARRIVAL (R292, R294): a solicit goes on over the reed, or reaches a leaf of its domain, which reports once; a shed
reports 0. -/
def execSolicitArrival (s : State) : Result :=
  .next <|
    match s.reedItem s.ev.id with
    | some q =>
      match q.msg with
      | .solicit p _ =>
        if !s.reedReady q then s.reedHop q
        else
          let t := s.dropReed q.id
          match q.path with
          | [.core d c] =>
            let x := t.core d c
            let r := match x.entry p.key with
              | some e => if x.retired || x.failed then (t, 0) else t.solicitEntry d c p e
              | none => (t, 0)
            r.1.report p.census (coreKey d c) r.2
          | [.shed d h] => t.report p.census (ReedNode.shed d h).leaf 0
          | _ => s.reedHop q
      | _ => s
    | none => s

/-- RESPONDER_START (R292): the first pending responder starts in a FREE user slot. -/
def execResponderStart (s : State) : Result :=
  let d := s.ev.die
  let c := s.ev.core
  .next <|
    match (s.core d c).pending, s.freeSlot d c with
    | p :: rest, some n =>
      let i : SlotId := ⟨d, c, n⟩
      let s := s.modCore d c fun x => { x with pending := rest }
      let s := s.startThread i p.pc p.addr ⟨p.frm, p.wlim, p.dom, p.jnl⟩
      s.modSlot i fun x => { (x.setG 2 p.key).setG 3 p.census with role := .responder p.census false }
    | _, _ => s

/-- Slots parked on a census (R293). -/
def State.censusWaiters (s : State) (ident : Word) : List SlotId :=
  let o := censusCore ident
  (coreSlotsOf o.1 o.2).filter fun i => (s.slot i).state == .parkCensus && (s.slot i).parkKey == ident
where
  coreSlotsOf (d : Die) (c : CoreNo) : List SlotId := (List.range 16).map fun n => ⟨d, c, BitVec.ofNat 4 n⟩

/-- CENSUS_COMPLETE (R292, R293; 16 R428): every core has reported and every owed responder is counted; a notifying
census sends its message and closes. -/
def execCensusComplete (s : State) : Result :=
  let d := s.ev.die
  let c := s.ev.core
  .next <|
    match (s.core d c).censuses.find? fun x => x.idx.toNat == s.ev.unit with
    | some x =>
      if x.complete || x.answered != x.owed
          || !((s.domainLeaves x.dom (d, c)).all fun k => x.reported.contains k) then s
      else
        let s := if x.lost = 0 then s else s.countNotify d (.core c) 0x53
        match x.notify with
        | some b =>
          let words := [x.ident, x.counts, x.result (Config.freeWord s.tick)]
          let s := s.modCore d c fun y => { y with censuses := y.censuses.filter (·.ident != x.ident) }
          s.send (.mail (engineMail d noticeUnit d c b words x.dom))
        | none =>
          let s := s.modCensus x.ident fun y => { y with complete := true }
          (s.censusWaiters x.ident).foldl (fun s i => s.wake i) s
    | none => s

/-! SOLICIT, CWAIT, CPOLL, CRESULT -/

/-- The lowest census index of a core that is not open. -/
def CoreSt.freeCensus (c : CoreSt) : Option (BitVec 3) :=
  ((List.range 8).map (BitVec.ofNat 3)).find? fun k => !c.censuses.any (·.idx == k)

/-- SOLICIT (R292): it waits while eight censuses are open, and until the thread's earlier accesses, which it releases,
are performed; a handler PC that is not word-aligned traps MISALIGN. -/
def execSolicit (sc : Scope) (cm : Combine) (d a b : Reg) (s : State) : Result :=
  s.issueOpen [a, b] [d] fun v t =>
    let i := t.cur
    let key := v.getD 0 0
    let w := v.getD 1 0
    let pc : Word := (w.extractLsb' 0 57).zeroExtend 64
    let c := t.curCore
    if pc.toNat % 4 != 0 then .trap 0x20 2 pc 0
    else
      match c.freeCensus with
      | none => .wait
      | some k =>
        let ident : Word := 0#16 ++ c.censusSeq ++ 0#2 ++ i.die ++ 0#10 ++ k ++ i.core
        let x := t.slot i
        let r : Census :=
          { idx := k, ident := ident, dom := sc, combine := cm, key := key,
            notify := if w.getLsbD 63 then some (w.extractLsb' 58 5) else none, reported := [], owed := 0,
            answered := 0, lost := 0, value := none, complete := false }
        let t := t.setCore i.die i.core { c with censuses := c.censuses ++ [r], censusSeq := c.censusSeq + 1 }
        let p : Pending :=
          { census := ident, key := key, addr := 0, pc := pc, frm := x.frm, wlim := x.wlim, dom := x.dom, jnl := false }
        let a := ReedNode.core i.die i.core
        let path := t.reedPath a (t.domainTop sc (i.die, i.core))
        .go ((t.putReed a path (.solicit p sc) (some (i, x.inc))).finish d ident)

/-- The open census that an identifier names at the executing core and that does not notify; CENSUS otherwise
(14 R379). -/
def State.ownCensus (t : State) (ident : Word) : Option Census :=
  if censusCore ident == (t.cur.die, t.cur.core) then
    (t.census ident).filter fun x => x.notify.isNone
  else none

/-- Waits for a census and goes on with it when it is complete: an acquire at its domain (R165). -/
def withCensus (park : Bool) (d : Reg) (a : Reg) (k : Census → State → Act) (s : State) : Result :=
  s.issue [a] [d] fun v t =>
    let ident := v.getD 0 0
    match t.ownCensus ident with
    | none => .trap 0x0c 0 ident 0
    | some x =>
      if x.complete then k x (t.acquired x.dom)
      else if park then .go ((t.modSlot t.cur fun y => { y with parkKey := ident }).enter t.cur .parkCensus .retry)
      else .go (t.finish d 0)

/-- CWAIT (R293; 16 R428). -/
def execCwait (d a : Reg) (s : State) : Result := withCensus true d a (fun x t => .go (t.finish d x.counts)) s

/-- CPOLL (R293). -/
def execCpoll (d a : Reg) (s : State) : Result := withCensus false d a (fun _ t => .go (t.finish d 1)) s

/-- CRESULT (R293): it closes the census. -/
def execCresult (d a : Reg) (s : State) : Result :=
  withCensus true d a (fun x t =>
    let v := x.result (Config.freeWord t.tick)
    let t := t.modCore t.cur.die t.cur.core fun c =>
      { c with censuses := c.censuses.filter (·.ident != x.ident) }
    .go (t.finish d v)) s

/-! DIRADD, DIRDEL, DIRFIND, DIRMOVE (R291, R294) -/

/-- DIRADD (R291): the key is looked for first, so that a full directory that holds it answers 2 (DESIGN CHOICE, log entry 98). -/
def execDiradd (d a b : Reg) (s : State) : Result :=
  s.issueOpen [a, b] [d] fun v t =>
    let key := v.getD 0 0
    let c := t.curCore
    if (c.entry key).isSome then .go (t.finish d 2)
    else if directoryEntries ≤ c.dir.length then .go (t.finish d 1)
    else
      let e : DirEntry := ⟨key, v.getD 1 0, .valid, []⟩
      .go ((t.setCore t.cur.die t.cur.core { c with dir := c.dir ++ [e] }).finish d 0)

/-- Whether the entry of a key is VALID. -/
def CoreSt.valid (c : CoreSt) (key : Word) : Option DirEntry := (c.entry key).filter fun e => e.state == .valid

/-- DIRDEL. -/
def execDirdel (d a : Reg) (s : State) : Result :=
  s.issueOpen [a] [d] fun v t =>
    let key := v.getD 0 0
    let c := t.curCore
    match c.valid key with
    | some _ => .go ((t.setCore t.cur.die t.cur.core (c.dropEntry key)).finish d 0)
    | none => .go (t.finish d 1)

/-- DIRFIND. -/
def execDirfind (d a : Reg) (s : State) : Result :=
  s.issue [a] [d] fun v t =>
    match t.curCore.valid (v.getD 0 0) with
    | some e => .go (t.finish d e.addr)
    | none => .go (t.finish d (BitVec.allOnes 64))

/-- DIRMOVE (R294): the entry becomes INFLIGHT and its Move goes on the reed; the slot waits for the Ack or a refusal. A
destination on an absent die, or a retired or failed one, refuses with 3 (R428). -/
def execDirmove (d a b : Reg) (s : State) : Result :=
  s.issueOpen [a, b, d] [d] fun v t =>
    let i := t.cur
    let key := v.getD 0 0
    let h := v.getD 1 0
    match handleFault h h, handleCore h with
    | some _, _ | _, none => .trap 0x49 (if handleOk h then 3 else 2) key h
    | none, some c =>
      match t.curCore.valid key with
      | none => .go (t.finish d 1)
      | some e =>
        let td := handleDie h
        let x := t.core td c
        if !t.dieThere i.die td || x.retired || x.failed then .go (t.finish d 3)
        else
          let addr := if v.getD 2 0 = 0 then e.addr else v.getD 2 0
          let t := t.modCore i.die i.core fun y => y.modEntry key fun e => { e with state := .inflight td c }
          let id := t.nextId
          let t := t.sendReed (.core i.die i.core) (.core td c) (.move i key addr e.answered)
          .go ((t.modSlot i fun y => { y with parkDst := some d }).enter i .waitData (.answer id))

/-- The slot that waits in DIRMOVE or SPAWN gets its result. -/
def State.answered (s : State) (i : SlotId) (v : Word) : State :=
  let x := s.slot i
  match x.await with
  | .answer _ =>
    let s := s.writeReg i (x.parkDst.getD 0) v
    (s.modSlot i fun y => { y with pc := y.pc + 4 }).wake i
  | _ => s

/-- A message between cores goes on over the reed, or reaches its core. -/
def State.atReedCore (s : State) (k : ReedItem → Die → CoreNo → State) : State :=
  match s.reedItem s.ev.id with
  | some q =>
    if !s.reedReady q then s.reedHop q
    else
      match q.path with
      | [.core d c] => k q d c
      | _ => s
  | none => s

/-- MOVE_ARRIVAL (R294, R428). -/
def execMoveArrival (s : State) : Result :=
  .next <| s.atReedCore fun q d c =>
    match q.msg with
    | .move i key addr answered =>
      let s := s.dropReed q.id
      let x := s.core d c
      let refuse := fun (n : Word) => s.sendReed q.dest (.core i.die i.core) (.refuse i key n)
      if x.retired || x.failed || !s.dieThere i.die d then refuse 3
      else if (x.entry key).isSome then refuse 4
      else if directoryEntries ≤ x.dir.length then refuse 2
      else
        let e : DirEntry := ⟨key, addr, .valid, answered⟩
        (s.setCore d c { x with dir := x.dir ++ [e] }).sendReed q.dest (.core i.die i.core) (.ack i key)
    | _ => s

/-- ACK_ARRIVAL (R294): the source deletes its entry, and DIRMOVE gives 0. -/
def execAckArrival (s : State) : Result :=
  .next <| s.atReedCore fun q d c =>
    match q.msg with
    | .ack i key => ((s.dropReed q.id).modCore d c fun x => x.dropEntry key).answered i 0
    | _ => s

/-- REFUSE_ARRIVAL (R294): the source restores VALID, and DIRMOVE gives the reason. -/
def execRefuseArrival (s : State) : Result :=
  .next <| s.atReedCore fun q d c =>
    match q.msg with
    | .refuse i key n =>
      ((s.dropReed q.id).modCore d c fun x => x.modEntry key fun e => { e with state := .valid }).answered i n
    | _ => s

/-- FORWARD_ARRIVAL (R294): a forward at the destination of a moving tile, or back at its source. -/
def execForwardArrival (s : State) : Result :=
  .next <| s.atReedCore fun q d c =>
    match q.msg with
    | .forward o p back =>
      let s := s.dropReed q.id
      let x := s.core d c
      let serve := fun (e : DirEntry) =>
        if e.answered.contains p.census then s.countAnswer p.census none false
        else (s.modCore d c fun y => y.modEntry p.key (·.answer p.census)).addPending d c { p with addr := e.addr }
      if x.retired || x.failed then
        if back then s.countAnswer p.census none true
        else s.sendReed q.dest (.core o.1 o.2) (.forward o p true)
      else
        match x.entry p.key with
        | some e =>
          match e.state with
          | .valid => serve e
          | .inflight td tc => s.sendReed q.dest (.core td tc) (.forward o p false)
          | .incoming => s
        | none =>
          if back then s.countAnswer p.census none false
          else s.sendReed q.dest (.core o.1 o.2) (.forward o p true)
    | _ => s

end Sys2Proof.Machine
end

