-- ==== Sys2Proof/Machine/Journal.lean ====
section
/-!
DEFINITION. The journal of a die (16 R420 to R422): its space, start records, the seal of a commit, the records that a
re-run may need, and the child that a re-run finds already created.
-/

namespace Sys2Proof.Machine

/-! Space (Table 16-7) -/

/-- The 4 KiB units in use. -/
def DieSt.journalUsed (x : DieSt) : Nat := (x.journal.map (·.pages)).sum

/-- The 4 KiB units free. -/
def DieSt.journalFree (x : DieSt) : Nat := x.jnlSize.toNat - x.journalUsed

/-- Records sealed and not DONE. -/
def DieSt.journalOpen (x : DieSt) : Nat := (x.journal.filter fun r => r.closed && !r.done).length

/-- The doubles a record holds: the image, its entries, and the value of a REPLY. -/
def recordDoubles (x : SlotSt) : Nat := 48 + 2 * x.log.length

/-- The number of the next record of a die: the die stands above it. -/
def State.recordNumber (s : State) (d : Die) : Word := d ++ (s.die d).jnlNext.extractLsb' 0 58

/-- Whether a thread that exists, in a slot or spilled, has a record as its present one. -/
def State.recordLive (s : State) (seq : Word) : Bool :=
  (s.slots.any fun e => e.2.jrec == some seq && e.2.state != .free)
    || s.cores.any fun e => e.2.spilled.any (·.jrec == some seq)

/-- Whether a record of any die is held. -/
def State.recordHeld (s : State) (seq : Word) : Bool := s.dies.any fun e => e.2.journal.any (·.seq == seq)

/-- Frees the records of a die that are DONE and that no re-run can need: not the present record of a thread, and not
a child of a record that is held. -/
def State.prune (s : State) (d : Die) : State :=
  s.modDie d fun x =>
    { x with journal := x.journal.filter fun r =>
        !r.done || s.recordLive r.seq || (match r.parent with | some p => s.recordHeld p.1 | none => false) }

/-- Adds a record of the thread in a slot, which becomes its present one; none while the journal is full. -/
def State.addRecord (s : State) (i : SlotId) (image : SlotSt) (closed : Bool) (reply : Option Word) (exit : Bool) :
    Option State :=
  let d := s.die i.die
  let x := s.slot i
  let pages := Config.journalPages (recordDoubles x)
  if d.journalFree < pages then none
  else
    let seq := s.recordNumber i.die
    let r : JournalRec :=
      { seq, owner := .slot i x.inc, image := image, closed, stores := if closed then x.log else [], reply, exit,
        done := !closed, pages, parent := if closed then none else x.jparent, result := x.jresult }
    let s := s.setDie i.die { d with journal := d.journal ++ [r], jnlNext := d.jnlNext + 1 }
    some ((s.modSlot i fun y => { y with jrec := some seq, jord := 0, log := [] }).prune i.die)

/-- The start record of a journaled thread, written before its first instruction (R421). -/
def State.startRecord (s : State) (i : SlotId) : Option State := s.addRecord i (s.slot i) false none false

/-- Whether the thread in a slot has every access performed, and every result written. -/
def State.settled (s : State) (i : SlotId) : Bool :=
  (s.slotAccs i).isEmpty && (s.slotSfu i).isEmpty
    && !((s.core i.die i.core).row.owner == some i.slot && !(s.core i.die i.core).row.queue.isEmpty)

/-- The seal of a commit (R421): the log, the registers, the PC after the committing instruction and what the commit
then effects. -/
def State.seal (s : State) (i : SlotId) (pc : Word) (reply : Option Word) (exit : Bool) : Option State :=
  s.addRecord i { s.slot i with pc, log := [] } true reply exit

/-- The child record that a re-run finds for its next FORK or SPAWN (R422). -/
def State.childRecord (s : State) (i : SlotId) : Option JournalRec :=
  let x := s.slot i
  match x.jrec with
  | none => none
  | some seq => s.dies.findSome? fun e => e.2.journal.find? fun r => r.parent == some (seq, x.jord)

/-- A journaled thread has executed one more FORK or SPAWN. -/
def State.countChild (s : State) (i : SlotId) : State := s.modSlot i fun x => { x with jord := x.jord + 1 }

end Sys2Proof.Machine
end

