-- ==== Sys2Proof/Machine/Thread.lean ====
section
/-!
DEFINITION. Threads (02 R65 to R75; 09 R284 to R288; 14 R385): SPAWN, FORK, JOIN, EXIT, YIELD, SELF, REPLY, and the
events by which threads start, move, join and stop waiting.
-/

namespace Sys2Proof.Machine

/-! SPAWN (R69, R285) -/

/-- The trap of a child PC that is not word-aligned (log entry 22). -/
def pcFault (pc : Word) : Option Act := if pc.toNat % 4 != 0 then some (.trap 0x20 2 pc 0) else none

/-- SPAWN: a re-run finds its child (R422); a handle that leads nowhere refuses (R432); otherwise the request leaves as
a release, and the slot waits for the answer. -/
def execSpawn (d a b : Reg) (s : State) : Result :=
  s.issue [a, b, d] [d] fun v t =>
    let i := t.cur
    let h := v.getD 0 0
    let pc := v.getD 2 0
    match handleFault h (v.getD 1 0), handleCore h, pcFault pc with
    | some f, _, _ => f
    | _, none, _ => .trap 0x49 3 h (v.getD 1 0)
    | _, _, some f => f
    | none, some c, none =>
      match t.childRecord i with
      | some r => .go ((t.countChild i).finish d r.result)
      | none =>
        let x := t.slot i
        let r : SpawnReq :=
          { frm := i, inc := x.inc, die := handleDie h, core := c, pc := pc, arg := v.getD 1 0, dom := x.dom,
            frmode := x.frm, wlim := x.wlim, jnl := t.journaled, notice := isPriv i,
            jparent := x.jrec.map fun q => (q, x.jord) }
        let ask := fun (t : State) =>
          let id := t.nextId
          let t := (t.countChild i).sendRelease (.spawn r) i
          Act.go ((t.modSlot i fun y => { y with parkDst := some d }).enter i .waitData (.answer id))
        match t.leads i.die h with
        | .arrives => ask t
        | .detours ld l => ask (t.count ld (.link (BitVec.ofNat 2 l)) 0x51)
        | .held => .wait
        | .fails => .go ((t.countChild i).finish d 0)

/-- SPAWN_REQUEST (R69, R285, R316, R423): the child starts in the lowest FREE user slot of the target, or is refused. -/
def execSpawnRequest (s : State) : Result :=
  let id := s.ev.id
  .next <|
    match s.net.find? (·.id == id) with
    | some q =>
      match q.packet with
      | .spawn r =>
        if !s.released q.src id || !s.unitUp r.die readySkeins then s
        else
          let answer := fun (s : State) (v : Word) =>
            { s with net := s.net.map fun e => if e.id == id then { e with packet := .spawned r v, src := none } else e }
          let c := s.core r.die r.core
          if c.suspect || c.failed || !s.dieThere r.frm.die r.die then answer s 0
          else
            match s.freeSlot r.die r.core with
            | none => answer s 0
            | some k =>
              let i : SlotId := ⟨r.die, r.core, k⟩
              let s := s.startThread i r.pc r.arg ⟨r.frmode, r.wlim, r.dom, r.jnl⟩
              let v : Word := 0#44 ++ (s.slot i).inc ++ k ++ 0#7 ++ 1#1
              let notice := if r.notice then some (r.frm.die, r.frm.core) else none
              answer (s.modSlot i fun x => { x with exitTo := notice, jparent := r.jparent, jresult := v }) v
      | _ => s
    | none => s

/-- SPAWN_ANSWER (R285): rd of the waiting SPAWN. -/
def execSpawnAnswer (s : State) : Result :=
  let id := s.ev.id
  .next <|
    match s.packet id with
    | some (.spawned r v) =>
      let s := s.dropPacket id
      let x := s.slot r.frm
      if x.inc == r.inc && x.await == .answer id then s.answered r.frm v else s
    | _ => s

/-! FORK, the deque and JOIN (R66, R67, R286) -/

/-- The entries a deque holds. -/
def dequeEntries : Nat := 32

/-- FORK: the newest entry stands first. -/
def execFork (d a b : Reg) (s : State) : Result :=
  s.issue [a, b] [d] fun v t =>
    let i := t.cur
    let pc := v.getD 0 0
    match pcFault pc, t.childRecord i with
    | some f, _ => f
    | none, some r => .go ((t.countChild i).finish d r.result)
    | none, none =>
      let x := t.slot i
      let c := t.curCore
      if dequeEntries ≤ c.deque.length || x.jcnt == 0xffff then .go ((t.countChild i).finish d 0)
      else
        let e : ForkEntry :=
          { pc := pc, arg := v.getD 1 0, dom := x.dom, frm := x.frm, wlim := x.wlim, jnl := t.journaled,
            parent := ⟨i.die, i.core, i.slot, x.inc⟩, jparent := x.jrec.map (fun q => (q, x.jord)), id := t.nextId }
        let t := { t.setCore i.die i.core { c with deque := e :: c.deque } with nextId := t.nextId + 1 }
        .go (((t.countChild i).modSlot i fun y => { y with jcnt := y.jcnt + 1 }).finish d 1)

/-- The forking thread of an entry. -/
def ForkEntry.forker (e : ForkEntry) : SlotId × Byte := (⟨e.parent.die, e.parent.core, e.parent.slot⟩, e.parent.inc)

/-- Whether a child may start from an entry: its FORK is a release (R152). -/
def State.forkReady (s : State) (e : ForkEntry) : Bool := s.released (some e.forker) e.id

/-- A child starts from a deque entry in a slot, with an armed join notice (R286). -/
def State.startChild (s : State) (i : SlotId) (e : ForkEntry) : State :=
  (s.startThread i e.pc e.arg ⟨e.frm, e.wlim, e.dom, e.jnl⟩).modSlot i fun x =>
    { x with join := some e.parent, jparent := e.jparent, jresult := 1 }

/-- DEQUE_POP (R66): a FREE user slot takes the newest entry. -/
def execDequePop (s : State) : Result :=
  let d := s.ev.die
  let c := s.ev.core
  .next <|
    match (s.core d c).deque, s.freeSlot d c with
    | e :: rest, some k =>
      if s.forkReady e then (s.modCore d c fun x => { x with deque := rest }).startChild ⟨d, c, k⟩ e else s
    | _, _ => s

/-- Whether a recorded domain of an entry at a victim contains a thief (Table 2-5). -/
def State.mayRob (s : State) (dom : BitVec 3) (vd : Die) (vc : CoreNo) (d : Die) (c : CoreNo) : Bool :=
  match dom.toNat with
  | 0 => false
  | 1 => vd == d && skeinOf vc == skeinOf c
  | 2 => vd == d && vc.extractLsb' 8 3 == c.extractLsb' 8 3
  | 3 => vd == d
  | 4 => s.dieThere vd d
  | _ => false

/-- How far a victim lies from a thief: 0 its skein, 1 its stripe, 2 its die, 3 the panel (R67). -/
def robLevel (vd : Die) (vc : CoreNo) (d : Die) (c : CoreNo) : Nat :=
  if vd != d then 3
  else if skeinOf vc == skeinOf c then 0
  else if vc.extractLsb' 8 3 == c.extractLsb' 8 3 then 1
  else 2

/-- The entry that a thief would take from a core: the oldest whose domain contains the thief (R66); none while that entry's
FORK, a release, waits for earlier accesses (R152). -/
def State.loot (s : State) (vd : Die) (vc : CoreNo) (d : Die) (c : CoreNo) : Option ForkEntry :=
  let x := s.core vd vc
  if x.halted || x.retired || x.ctx != (s.core d c).ctx || (vd == d && vc == c) then none
  else
    match x.deque.reverse.find? fun e => s.mayRob e.dom vd vc d c with
    | some e => if s.forkReady e then some e else none
    | none => none

/-- The victim of the greatest ready-slot count, the lower number first. -/
def State.busiest (s : State) : List (Die × CoreNo) → Option (Die × CoreNo)
  | [] => none
  | v :: r =>
    match s.busiest r with
    | none => some v
    | some w => if s.readyCount v.1 v.2 < s.readyCount w.1 w.2 then some w else some v

/-- The victims on the dies of the greatest load, by the load vector that a die holds (10 R323; log entry 1). -/
def State.mostLoaded (s : State) (d : Die) (l : List (Die × CoreNo)) : List (Die × CoreNo) :=
  let load := fun (v : Die × CoreNo) => (tblGet 0 v.1.toNat (s.die d).heddle.loads).toNat
  l.filter fun v => l.all fun w => load w ≤ load v

/-- The victim that a thief finds (R67): in its skein by load, on the panel on a die of the greatest load; otherwise the manual
fixes no order (log entry 1). -/
def State.victim (s : State) (d : Die) (c : CoreNo) : Option (Die × CoreNo) :=
  let all := s.cores.filterMap fun e =>
    let v := keyCore e.1
    if (s.loot v.1 v.2 d c).isSome then some v else none
  let at' := fun (l : Nat) => all.filter fun v => robLevel v.1 v.2 d c == l
  if !(at' 0).isEmpty then s.busiest (at' 0)
  else
    match [at' 1, at' 2, s.mostLoaded d (at' 3)].find? fun l => !l.isEmpty with
    | some l => l[Config.pick s.tick % l.length]?
    | none => none

/-- STEAL (R66, R67, R423): a core with a FREE user slot, an empty deque and no READY slot takes one entry. -/
def execSteal (s : State) : Result :=
  let d := s.ev.die
  let c := s.ev.core
  let x := s.core d c
  .next <|
    match s.freeSlot d c, s.victim d c with
    | some k, some v =>
      if !x.deque.isEmpty || s.readyCount d c != 0 || x.suspect || x.failed then s
      else
        match s.loot v.1 v.2 d c with
        | some e =>
          (s.modCore v.1 v.2 fun y => { y with deque := y.deque.filter (·.id != e.id) }).startChild ⟨d, c, k⟩ e
        | none => s
    | _, _ => s

/-- JOIN (R286): it waits until JCNT is 0, and is an acquire. -/
def execJoin (s : State) : Result :=
  s.issue [] [] fun _ t => if (t.slot t.cur).jcnt = 0 then .go ((t.acquired .p).advance) else .wait

/-- JOIN_NOTICE (R286): the parent's JCNT falls. -/
def execJoinNotice (s : State) : Result :=
  let id := s.ev.id
  .next <|
    match s.packet id with
    | some (.joined p) =>
      let s := s.dropPacket id
      let i : SlotId := ⟨p.die, p.core, p.slot⟩
      s.modSlot i fun x =>
        if x.inc == p.inc && x.state != .free then { x with jcnt := x.jcnt - 1 } else x
    | _ => s

/-! EXIT, YIELD, SELF (R287) -/

/-- The narrowest scope that covers two cores. -/
def coverScope (d e : Die) (c b : CoreNo) : Scope :=
  if d != e then .p else if c == b then .c else if skeinOf c == skeinOf b then .k else .d

/-- What an EXIT sends (R69, R286, R292): the join notice, the exit notice, and for a responder without REPLY an answer
without a value. -/
def State.exitEffects (s : State) (i : SlotId) (x : SlotSt) : State :=
  let s := match x.join with
    | some p => s.send (.joined p)
    | none => s
  let s := match x.exitTo with
    | some (d, c) =>
      s.send (.mail (engineMail i.die noticeUnit d c 30 [selfWord i x.inc] (coverScope i.die d i.core c)))
    | none => s
  match x.role with
  | .responder census false => s.countAnswer census none false
  | _ => s

/-- A slot after its thread has gone: FREE, at the incarnation it had. -/
def emptySlot (x : SlotSt) (aclk : Word) : SlotSt :=
  { state := .free, since := aclk, inc := x.inc, svstat := x.svstat, lastIssue := x.lastIssue }

/-- The row unit is given up by a slot that owns it (R300). -/
def State.leaveRow (s : State) (i : SlotId) : State :=
  s.modCore i.die i.core fun c => if c.row.owner == some i.slot then { c with row := { c.row with owner := none } } else c

/-- The thread of a slot ends: its claims revert, it gives up the row unit and its draft pin, and the slot is FREE. -/
def State.endThread (s : State) (i : SlotId) : State :=
  let s := (s.revertClaims i).leaveRow i
  (s.modSlot i fun x => emptySlot x (s.coreClock i.die i.core)).prune i.die

/-- EXIT: a journaled thread seals, and the journal engine performs its effects. -/
def execExit (s : State) : Result :=
  s.issue [] [] fun _ t =>
    let i := t.cur
    if !t.settled i then .wait
    else if t.journaled then
      match t.seal i ((t.slot i).pc + 4) none true with
      | some t => .go (t.endThread i)
      | none => .wait
    else .go ((t.exitEffects i (t.slot i)).endThread i)

/-- YIELD: every other slot that is READY now issues first. -/
def execYield (s : State) : Result :=
  s.issue [] [] fun _ t =>
    let i := t.cur
    let others := ((List.range 16).filter fun k =>
      k != i.slot.toNat && (t.slot ⟨i.die, i.core, BitVec.ofNat 4 k⟩).state == .ready)
    .go (t.advance.modSlot i fun x => { x with yielding := others })

/-- SELF. -/
def execSelf (d : Reg) (s : State) : Result :=
  s.issue [] [d] fun _ t => .go (t.finish d (selfWord t.cur (t.slot t.cur).inc))

/-! REPLY (R75, R288) -/

/-- The key of a node's state by slot and context. -/
def nodeKey (slot : BitVec 6) (ctx : BitVec 2) : Nat := slot.toNat * 4 + ctx.toNat

/-- The state of an ESC node, which serves all its contexts: the next ticket, the next to emit, the held replies. -/
def State.escNode (s : State) (d : Die) (h : ShedNo) (n : BitVec 6) : NodeSt := tblGet {} (nodeKey n 0) (s.shed d h).nodes

/-- The replies an ESC node may hold (R75). -/
def earlyReplies : Nat := 16

/-- Whether a node emits in ticket order. -/
def State.escOrdered (s : State) (d : Die) (h : ShedNo) (n : BitVec 6) : Bool :=
  match decodeGraph (tblGet 0 n.toNat (s.shed d h).words) with
  | some (.escOrd _ _ _) => true
  | _ => false

/-- The early replies of a node, held or on their way; what a node holds of control tokens is no reply. -/
def State.earlyCount (s : State) (d : Die) (h : ShedNo) (n : BitVec 6) : Nat :=
  let x := s.escNode d h n
  (x.extra.filter fun e => tblGet 0 e.1 x.vals &&& 12 == 0 && e.1 != x.count2.toNat).length + (s.net.filter fun q => match q.packet with
    | .reply d' h' n' t _ _ => d' == d && h' == h && n' == n && t != x.count2
    | _ => false).length

/-- Whether the ticket of an escape stands open in what CKPT saved of a loom that is SAVED (R83). -/
def State.escSaved (s : State) (d : Die) (h : ShedNo) (n : BitVec 6) (t : BitVec 32) : Bool :=
  s.looms.any fun e => e.1 / 128 == d.toNat && (e.2.state == .saved || e.2.state == .resuming) && (e.2.sheds.zip e.2.images).any fun q =>
    q.1 == h && tblGet 0 t.toNat (tblGet {} (nodeKey n 0) q.2.nodes : NodeSt).vals != 0

/-- What a REPLY effects: an escape's re-entry token leaves for its node, a responder's answer is counted. -/
def State.replyEffects (s : State) (i : SlotId) (r : Role) (v : Word) : State :=
  match r with
  | .plain => s
  | .escape d h n t _ => s.send (.reply d h n t v i)
  | .responder census _ => s.countAnswer census (some v) false

/-- A role with REPLY executed. -/
def Role.answered : Role → Role
  | .plain => .plain
  | .escape d h n t _ => .escape d h n t true
  | .responder c _ => .responder c true

/-- REPLY: it supplies rs1, as R288 and R266 say; R185 names the window among what REPLY sends (DESIGN CHOICE, log entry 93). It
waits until the thread's earlier accesses, which it releases, are performed, while its node's loom is SAVED
(R83), and while the node holds as many early replies as it may. -/
def execReply (a : Reg) (s : State) : Result :=
  s.issue [a] [] fun v t =>
    let i := t.cur
    let x := t.slot i
    let w := v.getD 0 0
    let done := fun (t : State) =>
      if t.journaled then
        match (t.modSlot i fun y => { y with role := y.role.answered }).seal i (x.pc + 4) (some w) false with
        | some t => Act.go t.advance
        | none => .wait
      else .go (((t.replyEffects i x.role w).modSlot i fun y => { y with role := y.role.answered }).advance)
    match x.role with
    | .plain => .trap 0x0b 0 w 0
    | .escape d h n k replied =>
      if replied then .trap 0x0b 1 w 0
      else if !t.settled i || t.escSaved d h n k then .wait
      else if t.escOrdered d h n && k != (t.escNode d h n).count2 && earlyReplies ≤ t.earlyCount d h n then .wait
      else done t
    | .responder _ replied => if replied then .trap 0x0b 1 w 0 else if !t.settled i then .wait else done t

/-! Migration (R71) -/

/-- Whether a thread may be moved by load balancing (R71, R286). -/
def State.eligible (s : State) (i : SlotId) : Bool :=
  let x := s.slot i
  x.state == .ready && !isPriv i && !x.pin && x.pre && s.settled i && x.jcnt == 0
    && (List.range 8).all (fun n => !(x.stream n).bound) && x.log.isEmpty && x.win.isEmpty
    && x.mbBox == 0 && x.mbLen == 0 && x.role == .plain && x.pinned.isNone && x.fails.isEmpty

/-- The core of the skein that a core would move a thread to: the lowest ready-slot count, then the lowest number. -/
def State.lightest (s : State) (d : Die) : List CoreNo → Option CoreNo
  | [] => none
  | c :: r =>
    match s.lightest d r with
    | none => some c
    | some b => if s.readyCount d b < s.readyCount d c then some b else some c

/-- The other cores of a core's skein that are not retired. -/
def State.skeinMates (s : State) (d : Die) (c : CoreNo) : List CoreNo :=
  ((List.range 16).map fun j => skeinOf c ++ BitVec.ofNat 4 j).filter fun b => b != c && s.coreUsable d b

/-- The part of a slot that a slot packet carries (R71, R72). -/
def packetImage (x : SlotSt) : SlotSt :=
  { regs := x.regs, pc := x.pc, fflags := x.fflags, frm := x.frm, wlim := x.wlim, dom := x.dom, jnl := x.jnl,
    pre := x.pre, pin := x.pin, lastBox := x.lastBox, lfsr := x.lfsr, join := x.join, exitTo := x.exitTo,
    jrec := x.jrec, jord := x.jord, jparent := x.jparent, jresult := x.jresult }

/-- MIGRATION_CHECK (R71): once in each 1,024 aclk. -/
def execMigrationCheck (s : State) : Result :=
  let d := s.ev.die
  let c := s.ev.core
  let now := s.aclk.toNat / 1024
  let x := s.core d c
  .next <|
    if x.retired || x.halted || now ≤ x.checked then s
    else
      let s := s.setCore d c { x with checked := now }
      let n := s.readyCount d c
      match s.lightest d (s.skeinMates d c), s.earliest ((coreSlots d c).filter s.eligible) with
      | some b, some i =>
        if x.thresh.toNat < n && (s.freeSlot d b).isSome && s.readyCount d b + 2 ≤ n && (s.core d b).ctx == x.ctx then
          (s.send (.slotPacket ⟨i, ⟨d, b, 0⟩, packetImage (s.slot i)⟩)).enter i .waitData .departure
        else s
      | _, _ => s

/-- SLOT_PACKET (R71, R423): the target accepts into its lowest FREE user slot, at the next incarnation, or refuses. -/
def execSlotPacket (s : State) : Result :=
  let id := s.ev.id
  .next <|
    match s.packet id with
    | some (.slotPacket p) =>
      let d := p.dest.die
      let c := p.dest.core
      let x := s.core d c
      let s := s.dropPacket id
      match s.freeSlot d c with
      | some k =>
        if x.suspect || x.failed || x.ctx != (s.core p.frm.die p.frm.core).ctx then s.send (.slotAnswer p false)
        else
          let i : SlotId := ⟨d, c, k⟩
          let old := s.slot i
          let y : SlotSt :=
            { p.image with state := .ready, since := s.coreClock d c, inc := old.inc + 1, svstat := old.svstat,
                           lastIssue := old.lastIssue }
          ((s.setSlot i y).dropL1d d c).send (.slotAnswer p true)
      | none => s.send (.slotAnswer p false)
    | _ => s

/-- MIGRATION_ANSWER (R71): the sending slot becomes FREE, or its thread resumes there. -/
def execMigrationAnswer (s : State) : Result :=
  let id := s.ev.id
  .next <|
    match s.packet id with
    | some (.slotAnswer p ok) =>
      let s := s.dropPacket id
      if (s.slot p.frm).await != .departure then s
      else if ok then s.modSlot p.frm fun x => emptySlot x (s.coreClock p.frm.die p.frm.core)
      else s.wake p.frm
    | _ => s

/-! Wait limits (R120; 14 R385) -/

/-- The sub-cause of WAITLIM for a park. -/
def waitLimitSub : SlotState → Option Byte
  | .parkWord => some 1
  | .parkMsg => some 2
  | .parkJoin => some 3
  | .parkPhase => some 4
  | .parkCensus => some 5
  | _ => none

/-- Whether the park of a slot has outlived WLIM, as it was when the park was entered (R120, R313). -/
def State.expired (s : State) (i : SlotId) : Bool :=
  let x := s.slot i
  x.limit != 0 && (waitLimitSub x.state).isSome && decide (x.limit.toNat * 256 ≤ (s.coreClock i.die i.core - x.since).toNat)

/-- Whether a slot waits for an access at its home. -/
def SlotSt.awaitsHome (x : SlotSt) : Bool :=
  match x.await with
  | .access _ => true
  | _ => false

/-- WAIT_LIMIT_EXPIRY: a wait at a home is cancelled there, and the core waits for the answer; another park ends with
WAITLIM. -/
def execWaitLimitExpiry (s : State) : Result :=
  let i : SlotId := ⟨s.ev.die, s.ev.core, s.ev.slot⟩
  let x := s.slot i
  .next <|
    if !s.expired i || (s.parkedRecord i && !isPriv i) then s
    else
      match x.await, waitLimitSub x.state with
      | .access id, _ =>
        if s.net.any fun q => (match q.packet with | .cancelled a _ _ => a == id | _ => false) then s
        else
          match s.access id with
          | some a =>
            if a.stage == .done then s.send (.cancelled id i false)
            else
              ({ s with waits := s.waits.filter (·.access != id) }.modAccess id fun a =>
                { a with stage := .parked }).send (.cancelled id i true)
          | none => s
      | _, some sub => if s.trapWaits i then s else s.pushTrap i 0x06 sub x.pc 0 x.parkKey 0
      | _, none => s

/-- WAIT_CANCEL_ANSWER: a cancelled wait traps WAITLIM; one that had completed goes on. -/
def execWaitCancelAnswer (s : State) : Result :=
  let id := s.ev.id
  .next <|
    match s.packet id with
    | some (.cancelled acc i was) =>
      match s.access acc with
      | some a =>
        let x := s.slot i
        if !was then s.dropPacket id
        else if (s.dropAccess acc).trapWaits i then s
        else
          match waitLimitSub x.state with
          | some sub => ((s.dropPacket id).dropAccess acc).pushTrap i 0x06 sub x.pc 0 a.va 0
          | none => (s.dropPacket id).dropAccess acc
      | none => s.dropPacket id
    | _ => s

end Sys2Proof.Machine
end

