-- ==== Sys2Proof/Machine/NodeGate.lean ====
section
/-!
DEFINITION. Escapes and the gate path (02 R75; 08 R265 to R272; 10 R317, R331, R332; 16 R425): ESC, DELAY, EXPLK and the
events that go with them.
-/

namespace Sys2Proof.Machine

/-! ESC (R75, R265, R266). The state under context 0 serves all contexts: count is the next ticket, count2 the next to
emit, toks the tokens of an escape that has not started, extra what waits to be emitted by ticket, and value t says of an
open ticket t its context, kind and 16. -/

/-- The state of an ESC node. -/
def View.esc (v : View) : NodeSt := tblGet {} (nodeIx v.slot 0) v.x.nodes

/-- Changes the state of an ESC node. -/
def State.modEsc (s : State) (d : Die) (h : ShedNo) (slot : Nat) (f : NodeSt → NodeSt) : State :=
  s.modShed d h fun x => x.setNode slot 0 (f (tblGet {} (nodeIx slot 0) x.nodes))

/-- What is noted of a ticket. -/
def ticketWord (k : Token) : Word := 0#59 ++ 1#1 ++ k.kind ++ k.ctx

/-- The token that a ticket emits. -/
def ticketToken (note payload : Word) : Token :=
  { payload, kind := note.extractLsb' 2 2, ctx := note.extractLsb' 0 2 }

/-- The entry that an ESC node may emit next: of the next ticket in ordered mode, the oldest otherwise. -/
def NodeSt.nextReply (n : NodeSt) (ordered : Bool) : Option (Nat × Word) :=
  if ordered then n.extra.find? (·.1 == n.count2.toNat) else n.extra.head?

/-- An entry of an ESC node is emitted. -/
def escEmit (v : View) (e : Nat × Word) : Fired :=
  { eat := [], node := v.node, outs := v.both (ticketToken (tblGet 0 e.1 v.esc.vals) e.2),
    also := fun s => s.modEsc v.d v.h v.slot fun n =>
      { n with extra := n.extra.erase e, vals := tblDel e.1 n.vals, count2 := n.count2 + 1 } }

/-- A token takes a ticket: a data token as an escape that is to start, another for its turn. -/
def escTake (v : View) (eat : List NodePort) (l : Token) (right : Option Token) : Fired :=
  { eat, room := false, node := v.node,
    also := fun s => s.modEsc v.d v.h v.slot fun n =>
      let n := { n with count := n.count + 1, vals := tblSet 0 n.count.toNat (ticketWord { l with kind := if l.isData then kindData else l.kind }) n.vals }
      if l.isData then { n with toks := l :: right.toList }
      else { n with extra := n.extra ++ [((n.count - 1).toNat, l.payload)] } }

/-- ESC. -/
def escNode (ordered : Bool) (v : View) : Option Fired :=
  match v.esc.nextReply ordered, v.op .l with
  | some e, _ => some (escEmit v e)
  | none, none => v.skip .r
  | none, some l =>
    if !v.esc.toks.isEmpty then none
    else if !l.isData then
      if ordered then some (escTake v [.l] l none)
      else some { eat := [.l], outs := v.both l, node := v.node,
                  also := fun s => s.modEsc v.d v.h v.slot fun n => { n with count := n.count + 1, count2 := n.count2 + 1 } }
    else if !v.wired .r then some (escTake v [.l] l none)
    else
      match v.op .r with
      | none => none
      | some r => if r.isData then some (escTake v [.l, .r] l (some r)) else v.drop .r

def execEscOrd (_k : BitVec 6) (t u : Target) (s : State) : Result := .next (s.fire t u (escNode true))
def execEscUnord (_k : BitVec 6) (t u : Target) (s : State) : Result := .next (s.fire t u (escNode false))

/-- The constant of an ESC node, which is in the slot. -/
def escConst (x : ShedSt) (slot : Nat) : Option Nat :=
  match decodeGraph (tblGet 0 slot x.words) with
  | some (.escOrd k _ _) | some (.escUnord k _ _) => some k.toNat
  | _ => none

/-- ESCAPE_START (R75, R265): the escape thread starts on the lowest core of the mask with a FREE user slot. -/
def execEscapeStart (s : State) : Result :=
  let d := s.ev.die
  let h := s.ev.shed
  let slot := s.ev.unit
  let x := s.shed d h
  let n : NodeSt := tblGet {} (nodeIx slot 0) x.nodes
  .next <|
    if !x.fires || x.stopped slot then s
    else
      match escConst x slot, n.toks with
      | some k, l :: rest =>
        let w := x.const (k + 1)
        let cores := ((List.range 16).filter w.getLsbD).map fun j => skeinFacing h ++ BitVec.ofNat 4 j
        match cores.findSome? fun c => (s.freeSlot d c).map fun f => (⟨d, c, f⟩ : SlotId) with
        | none => s
        | some i =>
          let ticket := n.count - 1
          let g3 : Word := 0#34 ++ d ++ 0#7 ++ h ++ 0#4 ++ l.kind ++ l.ctx
          let s := s.startThread i (x.const k) l.payload
            ⟨w.extractLsb' 16 3, w.extractLsb' 32 32, w.extractLsb' 20 3, w.getLsbD 19⟩
          let s := s.modSlot i fun y =>
            { (y.setG 2 ((rest.head?.map (·.payload)).getD 0)).setG 3 g3 with
              role := .escape d h (BitVec.ofNat 6 slot) ticket false }
          s.modEsc d h slot fun n => { n with toks := [] }
      | _, _ => s

/-- ESC_REPLY_ARRIVAL (R266): the reply of an open ticket waits to be emitted. -/
def execEscReplyArrival (s : State) : Result :=
  let id := s.ev.id
  .next <|
    match s.packet id with
    | some (.reply d h slot t w _) =>
      let s := s.dropPacket id
      let x := s.shed d h
      let n : NodeSt := tblGet {} (nodeIx slot.toNat 0) x.nodes
      if (escConst x slot.toNat).isSome && tblGet 0 t.toNat n.vals != 0 then
        s.modEsc d h slot.toNat fun n => { n with extra := n.extra ++ [(t.toNat, w)] }
      else s
    | _ => s

/-! DELAY (R268): toks gathers the row, late holds what is to leave -/

/-- The delay of a score: (smax − SCORE) × kscale, rounded and held to 0 to 255. -/
def delayOf (k : Word) (score : Word) : Nat :=
  let f := Fmt.fp32.layout
  let x := sumVal (decodeFp f (k.extractLsb' 32 32 |>.zeroExtend 64)) (decodeFp f score).neg
  match exactMul x (decodeFp f (k.extractLsb' 0 32 |>.zeroExtend 64)) with
  | .nan _ => 255
  | .inf neg _ => if neg then 0 else 255
  | .num neg n d e =>
    if neg then 0
    else
      let q := scaleFrac n d e
      min (roundNat ⟨.rne, 0⟩ false q.1 q.2) 255

/-- The place of a gate token in a row's order: its delay, then its expert (Table 8-4). -/
def gateOrder (k : Token) : Nat := (k.payload.extractLsb' 48 8).toNat * 4096 + (k.payload.extractLsb' 32 12).toNat

/-- A gate token placed behind all of its order and before all of greater order. -/
def gateInsert (k : Token) : List Token → List Token
  | [] => [k]
  | q :: r => if gateOrder k < gateOrder q then k :: q :: r else q :: gateInsert k r

/-- The score of a gate token. -/
def scoreOf (k : Token) : Word := (k.payload.extractLsb' 0 32).zeroExtend 64

/-- DELAY. -/
def delayNode (k : BitVec 6) (v : View) : Option Fired :=
  match v.op .l with
  | none => none
  | some l =>
    let st := v.node
    let now := v.s.aclk
    let keep := fun (n : NodeSt) (fl : FpFlags) =>
      some { eat := [.l], room := false, node := n, also := fun s => s.orShedFlags v.d v.h fl : Fired }
    if l.isScale then v.drop .l
    else if l.isData then
      if 256 ≤ st.toks.length then
        some { eat := [.l], room := false, node := st, also := fun s => s.stopItem v.d v.h v.slot 4 }
      else
        let tag := BitVec.ofNat 8 (delayOf (v.x.const k.toNat) (scoreOf l))
        let nan := (decodeFp Fmt.fp32.layout (scoreOf l)).isNan
        keep { st with toks := gateInsert { l with payload := setTag l.payload tag } st.toks } (flagIf nan flagNV)
    else if l.endsRow then
      let row := st.toks.map fun q => (now + (q.payload.extractLsb' 48 8).zeroExtend 64, q)
      keep { st with toks := [], late := st.late ++ row ++ [(now, l)] } 0
    else keep { st with late := st.late ++ [(now, l)] } 0

def execDelay (k : BitVec 6) (t u : Target) (s : State) : Result := .next (s.fire t u (delayNode k))

/-- DELAY_EMIT (R268): the next token of a DELAY node leaves when its time has come and both targets have room. -/
def execDelayEmit (s : State) : Result :=
  let d := s.ev.die
  let h := s.ev.shed
  let slot := s.ev.unit
  let c := s.ev.ctx.toNat
  let s := s.pump d h slot
  let x := s.shed d h
  let n : NodeSt := tblGet {} (nodeIx slot c) x.nodes
  .next <|
    if !x.fires || x.stopped slot || !(x.out slot).isEmpty then s
    else
      match n.late, wordTargets (tblGet 0 slot x.words) with
      | (time, k) :: rest, [t, u] =>
        if s.aclk.ult time || !(x.targetRoom t c && x.targetRoom u c) then s
        else (s.setShed d h (x.setNode slot c { n with late := rest })).emit d h slot [⟨t, k⟩, ⟨u, k⟩]
      | _, _ => s

/-! EXPLK (R270 to R272, R332) -/

/-- A version token (R270). -/
def versionTok (c : BitVec 2) (v : BitVec 16) (d : Die) : Token :=
  { payload := 0#34 ++ d ++ v ++ 0b00100000#8, kind := kindControl, ctx := c }

/-- A row header (R270). -/
def headerTok (c : BitVec 2) (d : Die) (e : BitVec 12) (index : BitVec 32) : Token :=
  { payload := index ++ 0#4 ++ e ++ 0#2 ++ d ++ 0b00010000#8, kind := kindControl, ctx := c }

def Token.isVersion (k : Token) : Bool := k.isPlain && k.payload.extractLsb' 4 4 == 2
def Token.isHeader (k : Token) : Bool := k.isPlain && k.payload.extractLsb' 4 4 == 1
def Token.version (k : Token) : BitVec 16 := k.payload.extractLsb' 8 16
def Token.versionDie (k : Token) : Die := k.payload.extractLsb' 24 6
def Token.headerDie (k : Token) : Die := k.payload.extractLsb' 8 6
def Token.headerExpert (k : Token) : BitVec 12 := k.payload.extractLsb' 16 12
def Token.headerIndex (k : Token) : BitVec 32 := k.payload.extractLsb' 32 32

/-- DIE of a gate token is written; the bits of no field are written 0 (Table 8-4). -/
def setGateDie (w : Word) (d : Die) : Word := 0#2 ++ d ++ w.extractLsb' 48 8 ++ 0#4 ++ w.extractLsb' 0 44

/-- The version that a group pins (R271, R327): the one current when its first data token arrived, which a switch since then has
noted in value 1, plus 1. -/
def View.pinned (v : View) : BitVec 16 :=
  let noted := tblGet 0 1 v.node.vals
  if noted = 0 then (v.s.die v.d).heddle.cur else (noted - 1).extractLsb' 0 16

/-- The copies of a version token that route-mode EXPLK emits, one for each target that it has: each is a hold (R328). -/
def View.copies (v : View) : Nat := ([v.t, v.u].filter (· != .none)).length

/-- A version token is emitted, and its copies counted. -/
def View.holdCopies (v : View) (ver : BitVec 16) (s : State) : State :=
  (List.range v.copies).foldl (fun s _ => s.holdVersion v.d v.x.loom ver true) s

/-- Route mode: primed says that the group has pinned the version in value 0; count is the index in the group. -/
def explkRoute (v : View) (l : Token) : Option Fired :=
  let st := v.node
  let x := v.s.die v.d
  if l.isScale then v.drop .l
  else if l.endsGroup then some { eat := [.l], outs := v.both l, node := { st with primed := false, count := 0 } }
  else if l.isControl then v.forward l
  else
    let ver : BitVec 16 := if st.primed then (tblGet 0 0 st.vals).extractLsb' 0 16 else v.pinned
    let first := if st.primed then [] else v.both { versionTok v.ctx ver v.d with held := true }
    let pin := fun (s : State) => if st.primed then s else v.holdCopies ver s
    let reps := replicaDies (x.versionEntry ver (l.payload.extractLsb' 32 12))
    let node := { st with primed := true, vals := tblSet 0 0 (ver.zeroExtend 64) [], count := st.count + 1 }
    match reps[st.count.toNat % reps.length]? with
    | some d => some { eat := [.l], outs := first ++ v.both { l with payload := setGateDie l.payload d }, node, also := pin }
    | none =>
      some { eat := [.l], outs := first, node, also := fun s => (pin s).countNotify v.d (.shed v.h) 0x48 }

/-- A switch of the draft: a group whose first data token has arrived at a route-mode EXPLK node, and waits there, pins the
version current until then (10 R327). -/
def ShedSt.notePins (x : ShedSt) (old : BitVec 16) : ShedSt :=
  (x.words.flatMap fun w => (List.range 4).map fun c => (w, c)).foldl (fun x wc =>
    match decodeGraph wc.1.2, x.operand wc.1.1 .l wc.2 with
    | some (.explk k _ _), some l =>
      let n : NodeSt := tblGet {} (nodeIx wc.1.1 wc.2) x.nodes
      if (x.const k.toNat).getLsbD 0 || !l.isData || n.primed || tblGet 0 1 n.vals != 0 then x
      else x.setNode wc.1.1 wc.2 { n with vals := tblSet 0 1 (old.zeroExtend 64 + 1) n.vals }
    | _, _ => x) x

/-- A switch of the draft at the sheds of a die. -/
def State.notePins (s : State) (d : Die) : State :=
  let old := (s.die d).heddle.cur
  { s with sheds := s.sheds.map fun e => if e.1 / 512 == d.toNat then (e.1, e.2.notePins old) else e }

/-- Where the row of the last header goes: to ta, to tb, or nowhere; value 0 of the node. -/
def rowSide (v : View) (k : Token) : List OutTok :=
  match (tblGet 0 0 v.node.vals).toNat with
  | 0 => [⟨v.t, k⟩]
  | 1 => [⟨v.u, k⟩]
  | _ => []

/-- A row header in resident mode; latch is the resident expert, value 1 the last version token sent to tb, plus 1. -/
def explkHeader (fillq : HqNo) (v : View) (l : Token) : Option Fired :=
  let st := v.node
  let x := v.s.die v.d
  let e := l.headerExpert
  let side := fun (n : Word) (m : NodeSt) => { m with vals := tblSet 0 0 n m.vals }
  if (st.latch.map (·.payload)) == some (e.zeroExtend 64) then
    some { eat := [.l], outs := [⟨v.t, l⟩], node := side 0 st, also := fun s => s.countRow v.d e }
  else if !(replicaDies (x.curEntry e)).contains v.d then
    let reps := replicaDies (x.curEntry e)
    match reps[l.headerIndex.toNat % reps.length]? with
    | none => some { eat := [.l], node := side 2 st, also := fun s => s.countNotify v.d (.shed v.h) 0x48 }
    | some d =>
      let cur := x.heddle.cur
      let tag : Word := cur.zeroExtend 64 + 1
      let fresh := tblGet 0 1 st.vals != tag
      some
        { eat := [.l],
          outs := (if fresh then [⟨v.u, versionTok v.ctx cur v.d⟩] else [])
            ++ [⟨v.u, headerTok v.ctx d e l.headerIndex⟩],
          node := side 1 { st with vals := tblSet 0 1 tag st.vals } }
  else if !v.s.hqRoom v.d fillq then none
  else
    let w : Word := 0#41 ++ v.h ++ v.ctx ++ e |>.zeroExtend 64
    some { eat := [.l], room := false, node := { st with toks := [l] },
           also := fun s => (s.hqPush v.d fillq w).setCtx v.d v.x.loom v.c .miss }

/-- Resident mode. -/
def explkResident (fillq : HqNo) (v : View) (l : Token) : Option Fired :=
  let st := v.node
  if !st.toks.isEmpty then none
  else if l.isScale then v.drop .l
  else if l.isVersion then
    some { eat := [.l], outs := v.both l, node := { st with vals := tblSet 0 1 (l.version.zeroExtend 64 + 1) st.vals } }
  else if l.isHeader then explkHeader fillq v l
  else if l.isData || l.isEor then some { eat := [.l], outs := rowSide v l, node := st }
  else some { eat := [.l], outs := v.both l, node := st }

/-- EXPLK, by the mode of its constant (Table 8-5). -/
def explkNode (k : BitVec 6) (v : View) : Option Fired :=
  match v.op .l with
  | none => none
  | some l =>
    let w := v.x.const k.toNat
    if w.getLsbD 0 then explkResident (w.extractLsb' 1 12) v l else explkRoute v l

def execExplk (k : BitVec 6) (t u : Target) (s : State) : Result := .next (s.fire t u (explkNode k))

/-- The slot of an EXPLK node that holds a header of an expert in a context. -/
def ShedSt.missing (x : ShedSt) (c : Nat) (e : BitVec 12) : Option (Nat × Token) :=
  x.words.findSome? fun w => match decodeGraph w.2 with
    | some (.explk _ _ _) =>
      match (tblGet {} (nodeIx w.1 c) x.nodes : NodeSt).toks with
      | [l] => if l.headerExpert == e then some (w.1, l) else none
      | _ => none
    | _ => none

/-- CONTEXT_FILL_COMPLETE (R272, R77): the expert of the token is resident, its context ACTIVE, and the header goes on.
The fill's STATUS plays no part in R272 (log entry 46). -/
def execContextFillComplete (s : State) : Result :=
  let id := s.ev.id
  .next <|
    match s.packet id with
    | some (.fillDone d h tag _) =>
      let s := s.dropPacket id
      let c : BitVec 2 := tag.extractLsb' 12 2
      let e : BitVec 12 := tag.extractLsb' 0 12
      let x := s.shed d h
      match x.missing c.toNat e with
      | some (slot, l) =>
        let n : NodeSt := tblGet {} (nodeIx slot c.toNat) x.nodes
        let s := s.setShed d h
          (x.setNode slot c.toNat { n with latch := some (dataTok c (e.zeroExtend 64)), toks := [], vals := tblSet 0 0 0 n.vals })
        let s := (s.setCtx d x.loom c.toNat .active).countRow d e
        s.emit d h slot (match wordTargets (tblGet 0 slot x.words) with
          | t :: _ => [⟨t, l⟩]
          | [] => [])
      | none => s
    | _ => s

end Sys2Proof.Machine
end

