-- ==== Sys2Proof/Machine/SysReg.lean ====
section
/-!
DEFINITION. System registers (06 R187, Tables 6-8 to 6-10; 14 R372): what reading and writing each does.
-/

namespace Sys2Proof.Machine

/-- A system register of Table 6-8, and the trap registers of Table 14-2. -/
inductive SysReg where
  | fflags | frm | wlim | tdom | smode | srlfsr | self | ptroot | corectx | migthr
  | tqstat | tcause | twho | tpc | tinst | tval | taux | svstat | tmsg (k : Nat)
  deriving DecidableEq, Repr

/-- The register of a number; none for a reserved one. -/
def sysReg (n : BitVec 12) : Option SysReg :=
  match n.toNat with
  | 0x001 => some .fflags
  | 0x002 => some .frm
  | 0x004 => some .wlim
  | 0x005 => some .tdom
  | 0x006 => some .smode
  | 0x007 => some .srlfsr
  | 0x008 => some .self
  | 0x100 => some .ptroot
  | 0x101 => some .corectx
  | 0x102 => some .migthr
  | 0x110 => some .tqstat
  | 0x111 => some .tcause
  | 0x112 => some .twho
  | 0x113 => some .tpc
  | 0x114 => some .tinst
  | 0x115 => some .tval
  | 0x116 => some .taux
  | 0x117 => some .svstat
  | n => if 0x118 ≤ n && n ≤ 0x11d then some (.tmsg (n - 0x118)) else none

/-- Whether a register has no unprivileged view (Table 6-8). -/
def SysReg.privileged : SysReg → Bool
  | .fflags | .frm | .wlim | .tdom | .smode | .srlfsr | .self => false
  | _ => true

/-- TCAUSE of a trap record (Table 14-2). -/
def TrapRec.causeWord (r : TrapRec) : Word := 0#41 ++ bit r.multi ++ r.scope ++ r.len ++ r.sub ++ r.cause

/-- TWHO of a trap record (Table 14-2). -/
def TrapRec.who (r : TrapRec) : Word := 0#50 ++ bit r.parks ++ bit r.gone ++ r.inc ++ r.slot

/-- CORECTX of a core (Table 4-12). -/
def CoreSt.corectx (c : CoreSt) : Word := 0#32 ++ c.pkey ++ 0#7 ++ bit c.phys ++ 0#4 ++ c.ctx

/-- Writes CORECTX. -/
def CoreSt.setCorectx (c : CoreSt) (v : Word) : CoreSt :=
  { c with ctx := v.extractLsb' 0 12, phys := v.getLsbD 16, pkey := v.extractLsb' 24 8 }

/-- CXROOT of a context (Table 4-10). -/
def CtxReg.rootWord (c : CtxReg) : Word := 0#8 ++ c.tkey ++ c.root ++ 0#12

/-- Writes CXROOT. -/
def CtxReg.setRoot (c : CtxReg) (v : Word) : CtxReg := { c with root := v.extractLsb' 12 36, tkey := v.extractLsb' 48 8 }

/-- SMODE of a slot as it reads (Table 2-6). -/
def State.smode (s : State) (i : SlotId) : Word :=
  let x := s.slot i
  0#48 ++ x.inc ++ 0#4 ++ bit (isPriv i) ++ bit x.pin ++ bit (x.pre && !isPriv i) ++ bit (s.jnlOf i)

/-- What a system register reads, of a slot. -/
def State.readSys (s : State) (i : SlotId) (r : SysReg) : Word :=
  let x := s.slot i
  let c := s.core i.die i.core
  let head := fun (f : TrapRec → Word) => match c.traps with
    | t :: _ => f t
    | [] => 0
  match r with
  | .fflags => x.fflags.zeroExtend 64
  | .frm => x.frm.zeroExtend 64
  | .wlim => x.wlim.zeroExtend 64
  | .tdom => x.dom.zeroExtend 64
  | .smode => s.smode i
  | .srlfsr => x.lfsr.zeroExtend 64
  | .self => selfWord i x.inc
  | .ptroot => (tblGet {} c.ctx.toNat (s.die i.die).ctxs : CtxReg).rootWord
  | .corectx => c.corectx
  | .migthr => c.thresh.zeroExtend 64
  | .tqstat => BitVec.ofNat 64 c.traps.length
  | .tcause => head (·.causeWord)
  | .twho => head (·.who)
  | .tpc => head (·.pc)
  | .tinst => head fun t => t.word.zeroExtend 64
  | .tval => head (·.val)
  | .taux => head (·.aux)
  | .svstat => x.svstat.zeroExtend 64
  | .tmsg k => head fun t => t.msg.getD k 0

/-- Whether a value is reserved for a register (14 R378): TDOM.DOM above 4, MIGTHR.THRESH above 16. -/
def reservedSys (r : SysReg) (v : Word) : Bool :=
  match r with
  | .tdom => 4 < (v.extractLsb' 0 3).toNat
  | .migthr => 16 < (v.extractLsb' 0 5).toNat
  | _ => false

/-- Removes the head record of a core's trap queue; a message return frees its reservation (14 R374, R380). -/
def State.popTrap (s : State) (d : Die) (c : CoreNo) : State :=
  s.modCore d c fun x =>
    match x.traps with
    | [] => x
    | t :: rest => { x with traps := rest, resv := if t.len = 0 then x.resv else x.resv - 1 }

/-- TQSTAT_POP (14 R374): the same by a core's number. -/
def execTqstatPop (s : State) : Result := .next (s.popTrap s.ev.die s.ev.core)

/-- What a write of SMODE finds: nothing to wait for, or a log to commit first (R420), or a wait. -/
def State.writeSmode (s : State) (i : SlotId) (pc v : Word) : Option State :=
  if isPriv i then some (s.modSlot i fun x => { x with pin := v.getLsbD 2 })
  else
    let set := fun (s : State) (jnl : Bool) =>
      s.modSlot i fun x => { x with jnl, pre := v.getLsbD 1, pin := v.getLsbD 2 }
    if !s.jnlOf i then some (set s (if (s.die i.die).jnlSize = 0 then (s.slot i).jnl else v.getLsbD 0))
    else if v.getLsbD 0 then some (set s true)
    else if !s.settled i then none
    else
      match s.seal i pc none false with
      | some t => some ((set (t.modSlot i fun x => { x with jrec := none }) false).prune i.die)
      | none => none

/-- A write of a system register of a slot whose commit, if any, goes on at an address; none: it waits. RO fields are
ignored (R313). -/
def State.writeSys (s : State) (i : SlotId) (r : SysReg) (pc v : Word) : Option State :=
  match r with
  | .fflags => some (s.modSlot i fun x => { x with fflags := v.extractLsb' 0 5 })
  | .frm => some (s.modSlot i fun x => { x with frm := v.extractLsb' 0 3 })
  | .wlim => some (s.modSlot i fun x => { x with wlim := v.extractLsb' 0 32 })
  | .tdom => some (s.modSlot i fun x => { x with dom := v.extractLsb' 0 3 })
  | .smode => s.writeSmode i pc v
  | .srlfsr => some (s.modSlot i fun x => { x with lfsr := let w := v.extractLsb' 0 32; if w = 0 then 1 else w })
  | .ptroot =>
    let k := (s.core i.die i.core).ctx.toNat
    some (s.modDie i.die fun x => { x with ctxs := tblSet {} k ((tblGet {} k x.ctxs).setRoot v) x.ctxs })
  | .corectx => some (s.modCore i.die i.core (·.setCorectx v))
  | .migthr => some (s.modCore i.die i.core fun c => { c with thresh := v.extractLsb' 0 5 })
  | .tqstat => some (if v.getLsbD 8 then s.popTrap i.die i.core else s)
  | .self | .tcause | .twho | .tpc | .tinst | .tval | .taux | .svstat | .tmsg _ => some s

/-- SYSR and SYSW check their register (14 R378): reserved numbers first, then the view. -/
def sysFault (i : SlotId) (n : BitVec 12) : Option Act :=
  match sysReg n with
  | none => some (.trap 0x01 4 (n.zeroExtend 64) 0)
  | some r => if r.privileged && !isPriv i then some (.trap 0x02 1 (n.zeroExtend 64) 0) else none

/-- SYSR (R313). A TQSTAT.COUNT that includes a record is an acquire at c (14 R370). -/
def execSysr (d : Reg) (n : BitVec 12) (s : State) : Result :=
  s.issue [] [d] fun _ t =>
    match sysFault t.cur n, sysReg n with
    | some f, _ => f
    | none, some r =>
      let seen := r == .tqstat && !t.curCore.traps.isEmpty
      .go ((if seen then t.dropL1d t.cur.die t.cur.core else t).finish d (t.readSys t.cur r))
    | none, none => .wait

/-- SYSW (R313). -/
def execSysw (n : BitVec 12) (a : Reg) (s : State) : Result :=
  s.issue [a] [] fun v t =>
    let w := v.getD 0 0
    match sysFault t.cur n, sysReg n with
    | some f, _ => f
    | none, some r =>
      if reservedSys r w then .trap 0x01 3 (n.zeroExtend 64) 0
      else
        match t.writeSys t.cur r ((t.slot t.cur).pc + 4) w with
        | some t => .go t.advance
        | none => .wait
    | none, none => .wait

end Sys2Proof.Machine
end

