-- ==== Sys2Proof/Machine/Supervisor.lean ====
section
/-!
DEFINITION. The supervisor instructions (09 R314 to R316; 14 R374, R375, R387): TRAP, ERET, WFI, SPILL, FILLSLOT,
SLOTREG, TLBINV and HALT, with the slot image (02 R72, R80).
-/

namespace Sys2Proof.Machine

/-- Issue of an instruction marked P: PRIV 0 in a slot that is not privileged (R193; 14 R378). -/
def State.issuePriv (s : State) (srcs dsts : List Reg) (k : List Word → State → Act) : Result :=
  if isPriv s.cur then s.issue srcs dsts k else s.perform (.trap 0x02 0 0 0)

/-- The SVSTAT code of the executing slot (14 Table 14-4). -/
def State.setSvstat (t : State) (code : BitVec 4) : State := t.modSlot t.cur fun x => { x with svstat := code }

/-- The slot that a slot word names on the executing core. -/
def State.target (t : State) (w : Word) : SlotId := ⟨t.cur.die, t.cur.core, w.extractLsb' 0 4⟩

/-- The code of a slot word that names slot 15, a retired slot or another incarnation; 0 otherwise (Table 14-4). -/
def State.slotWordCode (t : State) (w : Word) : BitVec 4 :=
  let k : SlotNo := w.extractLsb' 0 4
  if k == 15 || t.curCore.rslot.getLsbD k.toNat then 1
  else if (t.slot (t.target w)).inc != w.extractLsb' 4 8 then 2
  else 0

/-- TRAP (R314): the resume PC is the next word. -/
def execTrap (a : Reg) (s : State) : Result :=
  s.issue [a] [] fun v _ =>
    .keep fun u => u.takeTrap u.cur 0x05 0 ((u.slot u.cur).pc + 4) u.word (v.getD 0 0) 0

/-- ERET (R314, R374): a release and an acquire at c. -/
def execEret (a : Reg) (s : State) : Result :=
  s.issuePriv [a] [] fun v t =>
    let w := v.getD 0 0
    let i := t.target w
    let code := t.slotWordCode w
    if code != 0 then .go (t.setSvstat code).advance
    else if (t.slot i).state != .trapped then .go (t.setSvstat 3).advance
    else if !(t.slotAccs t.cur).isEmpty then .wait
    else .go ((((t.setSvstat 0).returnFromTrap i).dropL1d i.die i.core).advance)

/-- WFI (R314, R374). -/
def execWfi (a : Reg) (s : State) : Result :=
  s.issuePriv [a] [] fun v t =>
    let mask : BitVec 32 := (v.getD 0 0).extractLsb' 0 32
    if !t.curCore.traps.isEmpty || t.curCore.anyMessage mask then .go ((t.dropL1d t.cur.die t.cur.core).advance)
    else
      .go ((t.modSlot t.cur fun x => { x with parkKey := mask.zeroExtend 64, parkDst := none }).enter t.cur .parkMsg
        .retry)

/-! The slot image (Table 2-7) -/

/-- The code of a slot state: its position in Table 2-4 (log entry 22). -/
def SlotState.code : SlotState → Byte
  | .free => 0 | .ready => 1 | .waitData => 2 | .mx => 3 | .parkWord => 4 | .parkMsg => 5 | .parkJoin => 6
  | .parkPhase => 7 | .parkCensus => 8 | .parkLease => 9 | .trapped => 10

/-- The REPLY role doubles. -/
def Role.words : Role → Word × Word
  | .plain => (0, 0)
  | .escape d h n t r => (0#26 ++ n ++ 0#7 ++ h ++ 0#2 ++ d ++ 0#5 ++ bit r ++ 0b01#2, 0#32 ++ t)
  | .responder c r => (0#61 ++ bit r ++ 0b10#2, c)

/-- The exit notice and last mailbox word at offset 0x10C. -/
def noticeWord (i : SlotId) (x : SlotSt) : BitVec 32 :=
  let (arm, d, c) : Bool × Die × CoreNo := match x.exitTo with
    | some (d, c) => (true, d, c)
    | none => (false, 0, 0)
  0#6 ++ x.lastBox ++ d ++ c ++ bit arm ++ i.core.extractLsb' 8 3

/-- The join notice word at offset 0x114. -/
def joinWord (x : SlotSt) : BitVec 32 :=
  match x.join with
  | some p => 0#2 ++ p.inc ++ p.slot ++ p.die ++ p.core ++ 1#1
  | none => 0

/-- The image of a slot: 48 doubles. -/
def State.imageWords (s : State) (i : SlotId) : List Word :=
  let x := s.slot i
  let regs := (List.range 31).map fun k => x.g (BitVec.ofNat 6 (k + 1))
  let mode : Word :=
    noticeWord i x ++ i.core.extractLsb' 0 8 ++ x.state.code ++ (s.smode i).extractLsb' 0 8 ++ 0#5 ++ x.dom
  let pin : BitVec 32 := match x.pinned with
    | some v => 0#15 ++ 1#1 ++ v
    | none => 0
  regs ++ [x.pc, x.wlim ++ 0#24 ++ x.frm ++ x.fflags, mode, joinWord x ++ x.lfsr, 0]
    ++ (List.range 6).map x.mw ++ [x.mb, x.role.words.1, x.role.words.2, 0#32 ++ pin, 0, 0]

/-- What SPILL still waits for (R80, R286, R315; 14 R387; 15 R395): results and accesses but for the wait of a parked
slot, its join count, a product, the row unit, or an answer. A failure that has still to be reported is kept with the image
(R395). -/
def State.spillWaits (s : State) (i : SlotId) : Bool :=
  let x := s.slot i
  let row := (s.core i.die i.core).row
  let own : Bool := match x.await with
    | .access id => x.state != .waitData && (s.slotAccs i).all fun a => a.id == id
    | _ => (s.slotAccs i).isEmpty
  !own || s.unsettled i || !(s.slotSfu i).isEmpty || x.jcnt != 0 || x.state == .mx || x.bound
    || (x.state == .waitData && x.await == .held) || (row.owner == some i.slot && !row.queue.isEmpty)

/-- SPILL (R80, R315): while it waits, the slot that it names issues nothing. -/
def execSpill (a b : Reg) (s : State) : Result :=
  s.issuePriv [a, b] [] fun v t =>
    let w := v.getD 0 0
    let va := v.getD 1 0
    let i := t.target w
    let code := t.slotWordCode w
    match t.addressFault t.cur va 6 with
    | some f => f
    | none =>
      let x := t.slot i
      if code != 0 then .go (t.setSvstat code).advance
      else if x.state == .free || !x.pre then .go (t.setSvstat 3).advance
      else if t.spillWaits i then .keep fun u => (u.waitData u.cur).modSlot u.cur fun y => { y with spills := some i }
      else
        let t := t.cancelWait i
        let image := t.imageWords i
        t.storeRecord va 6 image fun t =>
          let x := t.slot i
          let kept : Spilled := ⟨va, image, x.pinned, x.log, x.jrec, x.jord, x.jparent, x.jresult, x.fails⟩
          let t := t.modCore i.die i.core fun c => { c with spilled := c.spilled.filter (·.addr != va) ++ [kept] }
          .go (((((t.leaveRow i).dropFailed i).modSlot i fun y => emptySlot y (t.coreClock i.die i.core)).setSvstat 0).advance)

/-- The slot state of an image code; none when it is not of Table 2-4. -/
def stateOfCode (n : Byte) : Option SlotState :=
  [SlotState.free, .ready, .waitData, .mx, .parkWord, .parkMsg, .parkJoin, .parkPhase, .parkCensus, .parkLease,
   .trapped][n.toNat]?

/-- The REPLY role of an image; none when it is reserved or a reserved bit is set. -/
def roleOf (a b : Word) : Option Role :=
  match (a.extractLsb' 0 2).toNat with
  | 0 => if a == 0 && b == 0 then some .plain else none
  | 1 =>
    if a &&& ~~~0x3f01ff3f07#64 == 0 && b.extractLsb' 32 32 == 0 then
      some (.escape (a.extractLsb' 8 6) (a.extractLsb' 16 9) (a.extractLsb' 32 6) (b.extractLsb' 0 32) (a.getLsbD 2))
    else none
  | 2 => if a.extractLsb' 3 61 == 0 then some (.responder b (a.getLsbD 2)) else none
  | _ => none

/-- The thread of an image and its source core; none when the image is refused (Table 14-4, code 4): a reserved field
is not zero, or the slot state is not of Table 2-4. -/
def threadOfImage (ws : List Word) : Option (SlotSt × CoreNo) :=
  let w := fun (n : Nat) => ws.getD n 0
  let fp := w 32
  let mode := w 33
  let low := w 34
  let mb := w 42
  let pin := w 45
  let zero := fp.extractLsb' 8 24 == 0 && mode.extractLsb' 3 5 == 0 && mode.extractLsb' 12 4 == 0
    && mode.extractLsb' 58 6 == 0 && low.extractLsb' 62 2 == 0 && w 35 == 0 && mb.extractLsb' 5 3 == 0
    && mb.extractLsb' 11 53 == 0 && pin.extractLsb' 17 47 == 0 && w 46 == 0 && w 47 == 0
  match stateOfCode (mode.extractLsb' 16 8), roleOf (w 43) (w 44) with
  | some st, some role =>
    if !zero then none
    else
      let x : SlotSt :=
        { pc := w 31, state := if st == .trapped || st == .free then st else .ready, fflags := fp.extractLsb' 0 5,
          frm := fp.extractLsb' 5 3, wlim := fp.extractLsb' 32 32, dom := mode.extractLsb' 0 3, jnl := mode.getLsbD 8,
          pre := mode.getLsbD 9, pin := mode.getLsbD 10, lfsr := low.extractLsb' 0 32, role := role,
          mbBox := mb.extractLsb' 0 5, mbLen := mb.extractLsb' 8 3, lastBox := mode.extractLsb' 53 5,
          pinned := if pin.getLsbD 16 then some (pin.extractLsb' 0 16) else none,
          exitTo := if mode.getLsbD 35 then some (mode.extractLsb' 47 6, mode.extractLsb' 36 11) else none,
          join := if low.getLsbD 32 then
            some ⟨low.extractLsb' 44 6, low.extractLsb' 33 11, low.extractLsb' 50 4, low.extractLsb' 54 8⟩ else none }
      let x := (List.range 31).foldl (fun x k => x.setG (BitVec.ofNat 6 (k + 1)) (w k)) x
      some ((List.range 6).foldl (fun x k => x.setMw k (w (36 + k))) x,
        mode.extractLsb' 32 3 ++ mode.extractLsb' 24 8)
  | _, _ => none

/-- The core that spilled an image, and what it kept of its thread: by the image's address on the filling die, or else, since an
image may be copied, by its words and its source core on any die of the panel (R80, log entry 27). -/
def State.keptOf (t : State) (own : Die) (src : CoreNo) (va : Word) (ws : List Word) : Option (Die × Spilled) :=
  match (t.core own src).spilled.find? (·.addr == va) with
  | some q => some (own, q)
  | none => t.cores.findSome? fun e =>
      if (keyCore e.1).2 == src then (e.2.spilled.find? (·.words == ws)).map fun q => ((keyCore e.1).1, q) else none

/-- FILLSLOT (R80, R315; R133): the lowest FREE user slot takes the image, at its next incarnation. -/
def execFillslot (d a : Reg) (s : State) : Result :=
  s.issuePriv [a] [d] fun v t =>
    let va := v.getD 0 0
    t.withRecord va 6 48 fun ws t =>
      let own := t.cur
      let refuse := fun (code : BitVec 4) => Act.go ((t.setSvstat code).finish d (BitVec.allOnes 64))
      match t.freeSlot own.die own.core with
      | none => refuse 1
      | some k =>
        match threadOfImage ws with
        | none => refuse 4
        | some (x, src) =>
          let found := t.keptOf own.die src va ws
          let kept := found.map (·.2)
          let home := (found.map (·.1)).getD own.die
          let entries : Bool := match kept with
            | some q => !q.log.isEmpty
            | none => false
          if (entries && !(home == own.die && src == own.core)) || (t.core home src).ctx != t.curCore.ctx then refuse 4
          else
            let i : SlotId := ⟨own.die, own.core, k⟩
            let old := t.slot i
            let y : SlotSt :=
              { x with since := t.coreClock i.die i.core, inc := old.inc + 1, svstat := old.svstat, lastIssue := old.lastIssue,
                       log := match kept with | some q => q.log | none => [],
                       jrec := kept.bind (·.jrec), jord := match kept with | some q => q.jord | none => 0,
                       jparent := kept.bind (·.jparent), jresult := match kept with | some q => q.jresult | none => 0,
                       fails := match kept with | some q => q.fails | none => [] }
            let t := match kept with
              | some q => t.modCore home src fun c => { c with spilled := c.spilled.filter (· != q) }
              | none => t
            .go (((t.setSlot i y).dropL1d own.die own.core |>.setSvstat 0).finish d (k.zeroExtend 64))

/-! SLOTREG (R314, R315; 14 R375, R387) -/

/-- What a register selector names. -/
inductive Selected where
  | reg (r : Reg)
  | pc
  | sys (r : SysReg)
  | bad

/-- The register selector: bits 12 to 0; the others are ignored (R277). -/
def selector (w : Word) : Selected :=
  let n := w.extractLsb' 0 12
  if w.getLsbD 12 then
    match sysReg n with
    | some r => .sys r
    | none => .bad
  else if n == 0x40 then .pc
  else if 1 ≤ n.toNat && n.toNat ≤ 57 then .reg (w.extractLsb' 0 6)
  else .bad

/-- The code of a SLOTREG target: also 3 for a state in which its registers may not be reached (Table 14-4). -/
def State.slotregCode (t : State) (w : Word) : BitVec 4 :=
  let code := t.slotWordCode w
  if code != 0 then code
  else
    match (t.slot (t.target w)).state with
    | .free | .ready | .waitData | .mx => 3
    | _ => 0

/-- SLOTREG.R. -/
def execSlotregR (d a b : Reg) (s : State) : Result :=
  s.issuePriv [a, b] [d] fun v t =>
    let w := v.getD 0 0
    let i := t.target w
    let code := t.slotregCode w
    let fail := fun (c : BitVec 4) => Act.go ((t.setSvstat c).finish d 0)
    let give := fun (t : State) (x : Word) => Act.go ((t.setSvstat 0).finish d x)
    if code != 0 then fail code
    else
      match selector (v.getD 1 0) with
      | .bad => fail 5
      | .pc => give t (t.slot i).pc
      | .sys r => give t (t.readSys i r)
      | .reg r =>
        if (t.awaited i).contains r then .wait
        else
          match t.readReg i r with
          | .val x t => give t x
          | .wait => .wait
          | .trap _ _ _ _ => fail 5

/-- SLOTREG.W. -/
def execSlotregW (d a b : Reg) (s : State) : Result :=
  s.issuePriv [a, b, d] [] fun v t =>
    let w := v.getD 0 0
    let i := t.target w
    let x := v.getD 2 0
    let code := t.slotregCode w
    let fail := fun (c : BitVec 4) => Act.go (t.setSvstat c).advance
    let done := fun (t : State) => Act.go (t.setSvstat 0).advance
    if code != 0 then fail code
    else
      match selector (v.getD 1 0) with
      | .bad => fail 5
      | .pc => done (t.modSlot i fun y => { y with pc := x })
      | .sys r =>
        if reservedSys r x then fail 5
        else
          match t.writeSys i r (t.slot i).pc x with
          | some t => done t
          | none => .wait
      | .reg r =>
        if isStream r || 54 ≤ r || (isNet r && !t.hasLink i.die i.core (r.toNat - 32)) then fail 5
        else if (t.awaited i).contains r || (isNet r && !Config.linkRoom t.tick) then .wait
        else done (t.writeReg i r x)

/-! TLBINV and HALT (R316) -/

/-- Removes entries of every TLB and walk cache of the executing die. -/
def State.invalidate (t : State) (keep : TlbEntry → Bool) (keepWalk : WalkEntry → Bool) : State :=
  let d := t.cur.die
  let cores := t.cores.map fun e =>
    if e.1 / 2048 == d.toNat then (e.1, { e.2 with tlb := e.2.tlb.filter keep }) else e
  let sheds := t.sheds.map fun e =>
    if e.1 / 512 == d.toNat then (e.1, { e.2 with tlb := e.2.tlb.filter keep }) else e
  { t with cores := cores.filter (fun e => e.2 != ({} : CoreSt)), sheds := sheds.filter (fun e => e.2 != ({} : ShedSt)) }.modDie d fun x =>
    { x with walks := x.walks.filter keepWalk }

def execTlbinv (s : State) : Result :=
  s.issuePriv [] [] fun _ t => .go ((t.invalidate (fun _ => false) (fun _ => false)).advance)

def execTlbinvAsid (a : Reg) (s : State) : Result :=
  s.issuePriv [a] [] fun v t =>
    let asid : BitVec 16 := (v.getD 0 0).extractLsb' 0 16
    .go ((t.invalidate (fun e => e.asid != asid || e.leaf.getLsbD 11) (fun e => e.asid != asid)).advance)

def execTlbinvPage (a b : Reg) (s : State) : Result :=
  s.issuePriv [a, b] [] fun v t =>
    let va := (v.getD 0 0).toNat
    let asid : BitVec 16 := (v.getD 1 0).extractLsb' 0 16
    .go ((t.invalidate (fun e => !e.covers asid va)
      (fun e => e.asid != asid || e.tag != va / 2 ^ (12 + 9 * (e.level - 1)))).advance)

/-- Whether an access of a core is still on its way: not parked at its home. -/
def State.coreBusy (s : State) (d : Die) (c : CoreNo) : Bool :=
  s.accs.any fun a => match a.agent with
    | .slot i _ => i.die == d && i.core == c && a.stage != .parked && a.stage != .polling
    | .node _ _ _ _ => false

/-- HALT in a thread: the core performs its outstanding accesses and stops until module reset. -/
def execHalt (s : State) : Result :=
  s.issuePriv [] [] fun _ t =>
    if t.coreBusy t.cur.die t.cur.core then .wait
    else .go (t.advance.modCore t.cur.die t.cur.core fun c => { c with halted := true })

end Sys2Proof.Machine
end

