-- ==== Sys2Proof/Machine/Heddle.lean ====
section
/-!
DEFINITION. The draft and the heddle engine (09 R311; 10 R319 to R333; 16 R424, R427): the draft and heddle instructions, the
version protocol between the dies and the root, windows and their events, and the reduction dispatchers.
-/

namespace Sys2Proof.Machine

/-! The panel -/

/-- The dies of the panel. -/
def State.goodDies (s : State) : List Die := (s.dies.filter fun e => e.2.boot.present).map fun e => BitVec.ofNat 6 e.1

def State.modHeddle (s : State) (d : Die) (f : HeddleSt → HeddleSt) : State :=
  s.modDie d fun x => { x with heddle := f x.heddle }

def State.heddle (s : State) (d : Die) : HeddleSt := (s.die d).heddle

/-- Whether every die of the panel is in a list. -/
def State.allDies (s : State) (l : List Nat) : Bool := s.goodDies.all fun d => l.contains d.toNat

/-! Draft instructions (R329, Table 16-9) -/

/-- The expert that a register names. -/
def expertOf (w : Word) : BitVec 12 := w.extractLsb' 0 12

/-- An instruction that needs the heddle engine: it waits until the engine is ready (11 R339). -/
def State.withHeddle (t : State) (a : Act) : Act := if t.unitUp t.cur.die readyHeddle then a else .wait

/-- DRAFTGET. -/
def execDraftget (d a b : Reg) (s : State) : Result :=
  s.issue [a, b] [d] fun v t => t.withHeddle <|
    let w := v.getD 0 0
    let r := v.getD 1 0
    let x := t.die t.cur.die
    if !r.getLsbD 16 then .go (t.finish d (x.curEntry (expertOf w)))
    else if !x.live (r.extractLsb' 0 16) then .trap 0x47 2 w r
    else .go (t.finish d (x.versionEntry (r.extractLsb' 0 16) (expertOf w)))

/-- DRAFTPIN. -/
def execDraftpin (d : Reg) (s : State) : Result :=
  s.issue [] [d] fun _ t => t.withHeddle <|
    if (t.slot t.cur).pinned.isSome then .trap 0x47 0 0 0
    else
      let cur := (t.heddle t.cur.die).cur
      .go ((t.modSlot t.cur fun x => { x with pinned := some cur }).finish d (cur.zeroExtend 64))

/-- DRAFTUNPIN. -/
def execDraftunpin (a : Reg) (s : State) : Result :=
  s.issue [a] [] fun v t => t.withHeddle <|
    let w := v.getD 0 0
    if (t.slot t.cur).pinned != some (w.extractLsb' 0 16) then .trap 0x47 1 w 0
    else .go ((t.modSlot t.cur fun x => { x with pinned := none }).advance)

/-! Placement (R330) -/

/-- The start of a replication or retirement: a request message to the placement core of a die, a release at p. -/
def placement (kind : Byte) (d a b : Reg) (s : State) : Result :=
  s.issuePriv [a, b] [d] fun v t => t.withHeddle <|
    let e := expertOf (v.getD 0 0)
    let own := t.cur.die
    let target : Die := (v.getD 1 0).extractLsb' 0 6
    let x := t.heddle own
    if x.busy then .go (t.finish d 1)
    else
      let p := t.heddle target
      let words : List Word := [0#36 ++ e ++ 0#8 ++ kind, own.zeroExtend 64, x.cur.zeroExtend 64]
      let t := t.modHeddle own fun y => { y with busy := true, exp := e }
      .go ((t.sendRelease (.mail (engineMail own heddleUnit target p.placeCore p.placeBox words .p)) t.cur).finish d 0)

def execHeddleRep (d a b : Reg) (s : State) : Result := placement 0x03 d a b s
def execHeddleRet (d a b : Reg) (s : State) : Result := placement 0x04 d a b s

/-- HEDDLE.RD: the counter of an expert. -/
def execHeddleRd (d a : Reg) (s : State) : Result :=
  s.issuePriv [a] [d] fun v t => t.withHeddle <|
    let c := tblGet (0, 0) (expertOf (v.getD 0 0)).toNat (t.heddle t.cur.die).cnts
    .go (t.finish d (c.2 ++ c.1))

/-- HDSTAT_CLEAR (Table 10-1): firmware writes 1 to BUSY. -/
def execHdstatClear (s : State) : Result :=
  .next (if s.ev.val.getLsbD 0 then s.modHeddle s.ev.die fun y => { y with busy := false } else s)

/-- A write to an HDCUR entry (R320). -/
def State.writeDraft (s : State) (d : Die) (e : BitVec 12) (v : Word) : State :=
  if (s.heddle d).en then s.countNotify d .heddle 0x54
  else s.modHeddle d fun y => { y with curs := tblSet 0 e.toNat v y.curs }

/-- HDCUR_WRITE. -/
def execHdcurWrite (s : State) : Result := .next (s.writeDraft s.ev.die (BitVec.ofNat 12 s.ev.unit) s.ev.val)

/-! Publishing (R326) -/

/-- Whether a published list breaks R326, given the entry it replaces. -/
def State.badList (s : State) (own : Die) (old new : Word) : Bool :=
  let n := replicaCount new
  let ds := replicaDies new
  new.extractLsb' 52 12 != 0 || 8 < n || (replicaCount old != 0 && ds.head? != some (replicaDie old 0))
    || ds.any (fun d => !s.dieThere own d) || ds.eraseDups.length != ds.length

/-- The slot waits for the dies' acknowledgements. -/
def State.awaitDies (t : State) : State :=
  let t := { t with root := { t.root with waiter := some t.cur, acks := [] }, nextId := t.nextId + 1 }
  t.enter t.cur .waitData (.answer t.nextId)

/-- HEDDLE.PUB: a release at p; all ones while the protocol does not run or another version is live. -/
def execHeddlePub (d a b : Reg) (s : State) : Result :=
  s.issuePriv [a, b] [d] fun v t => t.withHeddle <|
    let w := v.getD 0 0
    let list := v.getD 1 0
    let own := t.cur.die
    let e := expertOf w
    let refused := Act.go (t.finish d (BitVec.allOnes 64))
    match t.rootDie with
    | none => refused
    | some r =>
      let x := t.heddle r
      if !(t.heddle own).en || !x.en || x.ost != 0 then refused
      else if t.badList own ((t.die own).curEntry e) list then .trap 0x47 4 w list
      else if !t.releases || t.root.publishing.isSome || t.root.switching.isSome then .wait
      else
        let t := { t with root := { t.root with publishing := some (x.cur + 1, e, list) } }
        .go ((t.modSlot t.cur fun y => { y with parkDst := some d }).awaitDies)

/-- PUB_ARRIVAL: a die installs the published version as pending, and acknowledges it. -/
def execPubArrival (s : State) : Result :=
  let d := s.ev.die
  .next <|
    match s.root.publishing with
    | some (v, e, list) =>
      if s.root.acks.contains d.toNat || !(s.goodDies.contains d) || (s.heddle d).ost != 0 then s
      else
        let s := s.modHeddle d fun y =>
          { y with oths := tblSet 0 e.toNat list y.curs, other := v, ost := 1, entry := e, drained := false }
        { s with root := { s.root with acks := s.root.acks ++ [d.toNat] } }
    | none => s

/-- The waiting slot goes on, with a value for its destination. -/
def State.endWaiter (s : State) (v : Option Word) : State :=
  match s.root.waiter with
  | some i =>
    let s := { s with root := { s.root with waiter := none, acks := [] } }
    let s := match v, (s.slot i).parkDst with
      | some w, some d => s.writeReg i d w
      | _, _ => s
    (s.modSlot i fun x => { x with parkDst := none }).wakeNext i
  | none => { s with root := { s.root with acks := [] } }

/-- PUB_ACKS_COMPLETE. -/
def execPubAcksComplete (s : State) : Result :=
  .next <|
    match s.root.publishing with
    | some (v, _, _) =>
      if s.allDies s.root.acks then
        ({ s with root := { s.root with publishing := none } }).endWaiter (some (v.zeroExtend 64))
      else s
    | none => s

/-! Switching and retiring (R327, R328) -/

/-- HEDDLE.SW: a release at p; DRAFT 3 for a version that is not pending. -/
def execHeddleSw (a : Reg) (s : State) : Result :=
  s.issuePriv [a] [] fun v t => t.withHeddle <|
    let w := v.getD 0 0
    let x := t.heddle t.cur.die
    if !x.en || x.ost != 1 || x.other != w.extractLsb' 0 16 then .trap 0x47 3 w 0
    else if !t.releases || t.root.publishing.isSome || t.root.switching.isSome then .wait
    else .go ({ t with root := { t.root with switching := some x.other, retiring := none, drained := [] } }).awaitDies

/-- SWITCH_ARRIVAL: a die installs the version; the earlier one drains. BUSY clears when the changed entry is its
expert's (R330). -/
def execSwitchArrival (s : State) : Result :=
  let d := s.ev.die
  .next <|
    match s.root.switching with
    | some v =>
      if s.root.acks.contains d.toNat || !(s.goodDies.contains d) then s
      else
        let s := (s.notePins d).modHeddle d fun y =>
          { y with curs := y.oths, oths := y.curs, other := y.cur, cur := v, ost := 2, drained := false,
                   busy := y.busy && y.exp != y.entry }
        { s with root := { s.root with acks := s.root.acks ++ [d.toNat] } }
    | none => s

/-- SWITCH_ACKS_COMPLETE. -/
def execSwitchAcksComplete (s : State) : Result :=
  .next <|
    if s.root.switching.isSome && s.allDies s.root.acks then
      ({ s with root := { s.root with switching := none } }).endWaiter none
    else s

/-- HDHOLD: the die's hold on OTHER while it drains (R328). -/
def State.hdhold (s : State) (d : Die) : Nat := if (s.heddle d).ost = 2 then s.holdCount d (s.heddle d).other else 0

/-- DRAINED_REPORT: a die whose hold on the earlier version has reached zero reports once. -/
def execDrainedReport (s : State) : Result :=
  let d := s.ev.die
  let x := s.heddle d
  .next <|
    if x.ost == 2 && !x.drained && s.hdhold d == 0 then
      let s := s.modHeddle d fun y => { y with drained := true }
      { s with root := { s.root with drained := s.root.drained ++ [d.toNat] } }
    else s

/-- RETIRE_BROADCAST: when every die has reported, each die gives up the earlier version. -/
def execRetireBroadcast (s : State) : Result :=
  let d := s.ev.die
  let x := s.heddle d
  .next <|
    if x.ost == 2 && s.root.switching.isNone && (s.root.retiring == some x.other || s.allDies s.root.drained) then
      let s := s.modHeddle d fun y => { y with ost := 0, oths := [], other := 0, drained := false }
      { s with root := { s.root with retiring := some x.other } }
    else s

/-! Windows (R321 to R323) -/

/-- The length of a window in aclk. -/
def HeddleSt.window (x : HeddleSt) : Nat := (if x.win = 0 then 1 else x.win.toNat) * 1024

/-- The event of an expert at a window end: hot 1, cold 2 (R322). Where both conditions hold the manual does not say which of
the two events is raised: the hot one (DESIGN CHOICE, log entry 99). -/
def HeddleSt.eventOf (x : HeddleSt) (d : Die) (e : BitVec 12) (last : BitVec 32) : Option Byte :=
  let list := tblGet 0 e.toNat x.curs
  if !(replicaDies list).contains d || (x.busy && x.exp == e) then none
  else if x.hot.ule last && replicaCount list < 8 then some 1
  else if last.ule x.cold && replicaDie list 0 != d then some 2
  else none

/-- HEDDLE_WINDOW_END: the counters close, the load is their sum, and the events of the window are sent. -/
def execHeddleWindowEnd (s : State) : Result :=
  let d := s.ev.die
  let x := s.heddle d
  .next <|
    if !x.en || (s.aclk - x.windowStart).toNat < x.window then s
    else
      let cnts := x.cnts.map fun e => (e.1, (e.2.2, (0 : BitVec 32)))
      let cnts := cnts.filter fun e => e.2.1 != 0
      let load := (cnts.map fun e => e.2.1).foldl (· + ·) 0
      let s := s.modHeddle d fun y =>
        { y with cnts, load, windowStart := y.windowStart + BitVec.ofNat 64 x.window }
      x.curs.foldl (fun s e =>
        let n : BitVec 12 := BitVec.ofNat 12 e.1
        let last := (tblGet (0, 0) e.1 cnts).1
        match x.eventOf d n last with
        | some kind =>
          s.send (.mail (engineMail d heddleUnit d x.placeCore x.placeBox [0#36 ++ n ++ 0#8 ++ kind, last.zeroExtend 64] .d))
        | none => s) s

/-- LOAD_VECTOR_BROADCAST: the root's vector of the dies' loads reaches a die. -/
def execLoadVectorBroadcast (s : State) : Result :=
  let d := s.ev.die
  .next <|
    if (s.heddle d).en then
      s.modHeddle d fun y =>
        { y with loads := (List.range 64).foldl (fun t k =>
            let v := if s.goodDies.contains (BitVec.ofNat 6 k) then (s.heddle (BitVec.ofNat 6 k)).load else 0xffffffff
            tblSet 0 k v t) [] }
    else s

/-! Reduction dispatchers (R333) -/

/-- RDCTL: the dispatcher of a skein. -/
def State.rdctl (s : State) (d : Die) (k : BitVec 7) : Word := (s.skein d k).doneBlk ++ (s.skein d k).nblk

/-- A write of RDCTL. -/
def State.writeRdctl (s : State) (d : Die) (k : BitVec 7) (v : Word) : State :=
  s.modSkein d k fun x => { x with nblk := v.extractLsb' 0 32, next := 0, doneBlk := 0 }

/-- RDNEXT hands out the next index; all ones once NBLK have been handed out. -/
def State.readRdnext (s : State) (d : Die) (k : BitVec 7) : Word × State :=
  let x := s.skein d k
  if x.next.ult x.nblk then (x.next.zeroExtend 64, s.modSkein d k fun y => { y with next := y.next + 1 })
  else (BitVec.allOnes 64, s)

/-- A write of RDFIN. -/
def State.writeRdfin (s : State) (d : Die) (k : BitVec 7) : State :=
  s.modSkein d k fun x => { x with doneBlk := x.doneBlk + 1 }

/-- The skein of an event. -/
def State.evSkein (s : State) : BitVec 7 := skeinOf s.ev.core

def execRdctlWrite (s : State) : Result := .next (s.writeRdctl s.ev.die s.evSkein s.ev.val)

/-- RDNEXT_READ: the answer to the accessing thread travels with its access. -/
def execRdnextRead (s : State) : Result := .next (s.readRdnext s.ev.die s.evSkein).2

def execRdfinWrite (s : State) : Result := .next (s.writeRdfin s.ev.die s.evSkein)

/-! A die leaves the panel (R427) -/

/-- The draft protocol settles what a lost die owed: a pending version whose changed entry names it is withdrawn. -/
def State.settleDraft (s : State) (gone : Die) : State :=
  let s := { s with root := { s.root with acks := s.root.acks.filter (· != gone.toNat) } }
  match s.rootDie with
  | none => s
  | some r =>
    let x := s.heddle r
    let named := match s.root.publishing with
      | some (_, _, list) => (replicaDies list).contains gone
      | none => x.ost == 1 && (replicaDies (tblGet 0 x.entry.toNat x.oths)).contains gone
    if !named || s.root.switching.isSome then s
    else
      let s := s.goodDies.foldl (fun s d => s.modHeddle d fun y =>
        if y.ost == 1 then { y with ost := 0, oths := [], other := 0 } else y) s
      if s.root.publishing.isSome then
        ({ s with root := { s.root with publishing := none } }).endWaiter (some (BitVec.allOnes 64))
      else s

end Sys2Proof.Machine
end

