-- ==== Sys2Proof/Machine/RowUnit.lean ====
section
/-!
DEFINITION. The row unit of a core (09 R300 to R304; 14 R379): VCFG, VRUN, VSEQ, VLDS, VSTS, VRED and the completion of
the sequencer's next instruction.
-/

namespace Sys2Proof.Machine

/-! Issue -/

/-- The entries of the sequencer (R300). -/
def sequencerEntries : Nat := 16

/-- The TVAL of ROWUNIT: the owner slot, or all ones. -/
def ownerWord (o : Option SlotNo) : Word :=
  match o with
  | some k => k.zeroExtend 64
  | none => BitVec.allOnes 64

/-- Changes the row unit of a core. -/
def State.modRow (s : State) (d : Die) (c : CoreNo) (f : RowUnit → RowUnit) : State :=
  s.modCore d c fun x => { x with row := f x.row }

/-- Whether the last VCFG in the sequencer is one that gives the unit up: for the thread, which executes in order, it is
given up (R300). -/
def RowUnit.leaving (r : RowUnit) : Bool :=
  ((r.queue.flatMap (·.ops)).reverse.findSome? fun o => match o with
    | .cfg a => some (a == 0)
    | _ => none).getD false

/-- A vector instruction enters the sequencer of its owner with the vector instructions queued since the last VCFG; it waits
while that is full (R300). -/
def enterSequencer (t : State) (op : VecOp) (since : List VecOp) : Act :=
  let i := t.cur
  if sequencerEntries ≤ t.curCore.row.queue.length then .wait
  else
    let e : VecItem := { ops := [op], pc := (t.slot i).pc, mark := t.nextId }
    .go ((t.modRow i.die i.core fun r => { r with owner := some i.slot, queue := r.queue ++ [e], since }).advance)

/-- VCFG (R300, R301): it takes the ownership at its issue, and the sequencer loads the configuration or gives the unit up in its
order; a unit that is not owned has nothing to give up. -/
def execVcfg (a : Reg) (s : State) : Result :=
  s.issue [a] [] fun v t =>
    let va := v.getD 0 0
    let row := t.curCore.row
    if row.owner.isSome && row.owner != some t.cur.slot then .trap 0x0d 0 (ownerWord row.owner) 0
    else if va = 0 && row.owner.isNone then .go t.advance
    else
      match t.addressFault t.cur va 6 with
      | some f => f
      | none => enterSequencer t (.cfg va) []

/-- A vector instruction of the owner enters the sequencer. -/
def queueVec (t : State) (op : VecOp) : Act := enterSequencer t op (t.curCore.row.since ++ [op])

/-- Issue of a vector instruction: ROWUNIT 1 from a slot that does not own the unit (14 R379). -/
def issueVec (srcs dsts : List Reg) (k : List Word → State → Act) (s : State) : Result :=
  s.issue srcs dsts fun v t =>
    let row := t.curCore.row
    if row.owner != some t.cur.slot || row.leaving then .trap 0x0d 1 (ownerWord row.owner) 0 else k v t

/-- VRUN (R302): OPERAND 1 for a count outside 1 to 1,024. -/
def execVrun (d a b : Reg) (s : State) : Result :=
  issueVec [a, b] [d] (fun v t =>
    let n := ((v.getD 0 0).extractLsb' 0 11).toNat
    if n < 1 || 1024 < n then .trap 0x13 1 (v.getD 0 0) (v.getD 1 0) else queueVec t (.run n (v.getD 1 0) d)) s

/-- The lanes of a transfer word (Table 9-18). -/
def xferAll (x : Word) : Bool := x.getLsbD 4
def xferLane (x : Word) : Nat := (x.extractLsb' 0 4).toNat
def xferOff (x : Word) : Nat := (x.extractLsb' 5 7).toNat
def xferLen (x : Word) : Nat := (x.extractLsb' 12 8).toNat + 1

/-- VLDS and VSTS (R303): OPERAND 1 for a block beyond the slice. -/
def execXfer (store : Bool) (a b : Reg) (s : State) : Result :=
  issueVec [a, b] [] (fun v t =>
    let va := v.getD 0 0
    let x := v.getD 1 0
    if 128 < xferOff x + xferLen x then .trap 0x13 1 va x
    else
      match t.addressFault t.cur va 3 with
      | some f => f
      | none => queueVec t (if store then .sts va x else .lds va x)) s

def execVlds (a b : Reg) (s : State) : Result := execXfer false a b s
def execVsts (a b : Reg) (s : State) : Result := execXfer true a b s

/-- VSEQ (R304): OPERAND 2 for more instructions than were queued since the last VCFG. -/
def execVseq (a b : Reg) (s : State) : Result :=
  issueVec [a, b] [] (fun v t =>
    let i := t.cur
    let n := ((v.getD 0 0).extractLsb' 0 4).toNat + 1
    let reps := (v.getD 1 0).toNat
    let row := t.curCore.row
    if row.since.length < n then .trap 0x13 2 (v.getD 0 0) (v.getD 1 0)
    else if reps = 0 then .go t.advance
    else if sequencerEntries ≤ row.queue.length then .wait
    else
      let e : VecItem :=
        { ops := row.since.drop (row.since.length - n), pc := (t.slot i).pc, mark := t.nextId, rep := 1, last := reps }
      .go ((t.modRow i.die i.core fun r => { r with queue := r.queue ++ [e] }).advance)) s

/-- VRED (R304): OPERAND 3 for a count of 0 or beyond the slice; RMRSV for a sum under a reserved rounding mode. -/
def execVred (o : FpOp) (f : Fmt3) (d a : Reg) (s : State) : Result :=
  issueVec [a] [d] (fun v t =>
    let w := v.getD 0 0
    let lane := (w.extractLsb' 0 4).toNat
    let count := (w.extractLsb' 4 11).toNat
    let rm := (t.slot t.cur).frm
    if count = 0 || 1024 < count * ((fmt3Fmt .fp32 f).width / 8) then .trap 0x13 3 w 0
    else if o == .fadd && (rmode rm).isNone then .trap 0x03 0 (rm.zeroExtend 64) 0
    else queueVec t (.red o f lane count d rm)) s

def execVredSum (f : Fmt3) (d a : Reg) (s : State) : Result := execVred .fadd f d a s
def execVredMin (f : Fmt3) (d a : Reg) (s : State) : Result := execVred .fmin f d a s
def execVredMax (f : Fmt3) (d a : Reg) (s : State) : Result := execVred .fmax f d a s

/-! Slices -/

/-- n bytes of a lane's slice at an offset, as a value. -/
def RowUnit.elem (r : RowUnit) (lane off n : Nat) : Word :=
  wordOfBytes ((List.range n).map fun k => tblGet 0 (lane * 1024 + (off + k) % 1024) r.slices)

/-- Stores the low n bytes of a value into a lane's slice. -/
def RowUnit.setElem (r : RowUnit) (lane off n : Nat) (v : Word) : RowUnit :=
  { r with slices := (bytesOfWord n v).zipIdx.foldl (fun m p => tblSet 0 (lane * 1024 + (off + p.2) % 1024) p.1 m) r.slices }

/-! VRUN (R302) -/

/-- The operation of a lane's INST; none for one that passes its left value on. -/
inductive LaneOp where
  | pass
  | op (o : ElemOp)
  | bad

/-- A lane descriptor (Table 9-17). -/
structure Lane where
  inst : LaneOp
  rsrc : BitVec 2
  wb : Bool
  fmt : Fmt
  rm : RMode

/-- Whether an operation stands in a lane of a format: OP 0x01 to 0x03 or 0x10 to 0x15, whose FMT3 names the format. -/
def laneFits (o : ElemOp) (f : Fmt) : Bool :=
  match o with
  | .alu _ | .mul _ | .bits _ => f.isInt
  | .fp _ g | .fma _ g | .cmp _ g | .fclass g | .icvtTo _ g | .icvtFrom g => g != .tw && fmt3Fmt f g == f
  | .fcvt g src => g != .tw && src != .tw && fmt3Fmt f g == f
  | .sfu _ _ => false

/-- The lane of a descriptor. Where a field is reserved or names no operation, the manual states no result, and the lane
gives a free value (log entry 12). -/
def laneOf (w : Word) : Lane :=
  let word : Inst := w.extractLsb' 0 32
  let f := fmtOf (w.extractLsb' 36 4)
  let m := rmode (w.extractLsb' 40 3)
  let fmt := f.getD .int64
  let inst : LaneOp :=
    if w.getLsbD 35 || w.extractLsb' 43 21 != 0 || w.extractLsb' 32 2 == 3 || m.isNone || f.isNone || fmt.isTwill then .bad
    else if word = 0 then .pass
    else
      match decodeGraph word with
      | some (.elementwiseNode o .none .none) => if laneFits o fmt then .op o else .bad
      | _ => .bad
  { inst, rsrc := w.extractLsb' 32 2, wb := w.getLsbD 34, fmt, rm := m.getD .rne }

/-- One element through one lane: the left value, the unit, flags and LFSR so far. -/
def laneStep (tick : Nat) (scalar : Word) (acc : Word × RowUnit × FpFlags × BitVec 32) (lane : Nat) :
    Word × RowUnit × FpFlags × BitVec 32 :=
  let (left, row, fl, st) := acc
  let l := laneOf (tblGet 0 lane row.lanes)
  let n := l.fmt.width / 8
  let cur := tblGet 0 lane row.cursors
  let left := if lane = 0 then row.elem 0 cur n else left
  let right := match l.rsrc.toNat with
    | 1 => row.elem lane cur n
    | 2 => scalar
    | _ => 0
  let (v, f, st) : Word × FpFlags × BitVec 32 := match l.inst with
    | .pass => (left, 0, st)
    | .bad => (Config.freeWord (tick * 16 + lane), 0, st)
    | .op o =>
      let st := if elemRounds o then nextLfsr l.rm st else st
      match elemResult l.fmt (roundingOf l.rm st) o { bits := left } { bits := right } { bits := 0 } with
      | .bits v f => (v, f, st)
      | .twill _ f => (0, f, st)
  let row := if l.wb then row.setElem lane cur n v else row
  let row :=
    if l.rsrc = 1 || l.wb || lane = 0 then { row with cursors := tblSet 0 lane ((cur + n) % 1024) row.cursors } else row
  (v, row, fl ||| f, st)

/-- n elements through the sixteen lanes, one after another. -/
def runElements (tick : Nat) (scalar : Word) : Nat → Word × RowUnit × FpFlags × BitVec 32 →
    Word × RowUnit × FpFlags × BitVec 32
  | 0, acc => acc
  | n + 1, acc => runElements (tick + 1) scalar n ((List.range 16).foldl (laneStep tick scalar) acc)

/-! VRED (R304) -/

/-- The reduction of elements after the first. -/
def reduce (o : FpOp) (f : Fmt) (m : RMode) : List Word → Word × FpFlags × BitVec 32 → Word × FpFlags × BitVec 32
  | [], acc => acc
  | w :: ws, (v, fl, st) =>
    let st := if o == .fadd then nextLfsr m st else st
    let r := fpOp f (roundingOf m st) o v w
    reduce o f m ws (r.1, fl ||| r.2, st)

/-! The sequencer -/

/-- The head of the sequencer is done with its next instruction. -/
def VecItem.next (v : VecItem) : Option VecItem :=
  if v.idx + 1 < v.ops.length then some { v with idx := v.idx + 1, pos := 0 }
  else if v.rep < v.last then some { v with idx := 0, rep := v.rep + 1, pos := 0 }
  else none

/-- The sequencer goes on past the instruction of its head. -/
def State.nextVec (s : State) (i : SlotId) (v : VecItem) : State :=
  s.modRow i.die i.core fun r => { r with queue := (v.next).toList ++ r.queue.drop 1 }

/-- A memory access of the sequencer has failed: its instruction ends, and the thread traps before its next issue. -/
def State.failVec (s : State) (i : SlotId) (v : VecItem) (cause sub : Byte) (addr : Word) : State :=
  (s.nextVec i v).failSlot i cause sub addr v.pc

/-- An address of the sequencer: the physical address, or the state in which the event ends. -/
def vecReach (s : State) (i : SlotId) (v : VecItem) (store : Bool) (a : Word) : Except State (Nat × Byte × State) :=
  let need := if store then needW else needR
  if !(isPriv i && (s.core i.die i.core).phys) && 2 ^ 57 ≤ a.toNat then .error (s.failVec i v 0x21 0 a)
  else
    match s.reach i a need false (s.heldRetries i.die (.vector i)) with
    | .notReady | .unready _ _ _ => .error s
    | .fault cause sub addr =>
      match s.hold i.die (.vector i) (s.exempt i) cause sub (s.slotFault i 0 need addr v.pc) with
      | .held t => .error t
      | .full t => .error t
      | .failNow t => .error (t.failVec i v cause sub addr)
    | .ok pa key t =>
      let acc : Access :=
        { s.newAccess i (.load .d) .s false false a with pa := pa, stage := .home, op := if store then .store .d else .load .d }
      if (s.threadAccs i).any (fun e => e.id < v.mark && holdsBack e acc) || s.sealedBefore i (s.slot i).inc acc then .error s
      else if !store && t.isPoisoned pa then .error (t.failVec i v 0x29 0 a)
      else .ok (pa, key, t)

/-- The doubles of a transfer, in order: address, lane, slice offset (R303). -/
def xferDoubles (addr x : Word) (rep : Nat) : List (Word × Nat × Nat) :=
  let n := xferLen x
  let lanes := if xferAll x then List.range 16 else [xferLane x]
  let base := addr + BitVec.ofNat 64 (rep * 8 * n * (if xferAll x then 16 else 1))
  lanes.zipIdx.flatMap fun p => (List.range n).map fun k =>
    (base + BitVec.ofNat 64 (8 * (p.2 * n + k)), p.1, 8 * (xferOff x + k))

/-- The head of the sequencer has performed one more double of its transfer. -/
def State.vecDouble (s : State) (i : SlotId) : State :=
  s.modRow i.die i.core fun r =>
    { r with queue := match r.queue with
        | v :: vs => { v with pos := v.pos + 1 } :: vs
        | [] => [] }

/-- VLDS: memory to slices. -/
def vecLoad (i : SlotId) (v : VecItem) : List (Word × Nat × Nat) → State → Except State State
  | [], s => .ok s
  | (a, lane, off) :: r, s =>
    match vecReach s i v false a with
    | .error t => .error t
    | .ok (pa, key, t) =>
      let w := t.ownDouble i key pa
      vecLoad i v r (((t.dropLine i.die i.core pa).modRow i.die i.core fun row => row.setElem lane off 8 w).vecDouble i)

/-- VSTS: slices to memory; in a journaled slot into the store log, which may be full (R420). -/
def vecStore (i : SlotId) (v : VecItem) : List (Word × Nat × Nat) → State → Except State State
  | [], s => .ok s
  | (a, lane, off) :: r, s =>
    match vecReach s i v true a with
    | .error t => .error t
    | .ok (pa, key, t) =>
      if t.jnlOf i && !ownLocal i pa && logBytes < (t.slot i).logUsed + 16 then
        .error (t.modRow i.die i.core (fun row => { row with queue := (v.next).toList ++ row.queue.drop 1 })
          |>.failSlot i 0x46 0 16 (BitVec.ofNat 64 (logBytes - (t.slot i).logUsed)))
      else vecStore i v r ((t.ownStore i a key pa 8 ((t.core i.die i.core).row.elem lane off 8)).vecDouble i)

/-- The doubles that VCFG reads, in order; they are loaded together. -/
def vecConfig (i : SlotId) (v : VecItem) (addr : Word) : List Nat → List Word → State → Except State State
  | [], ws, s =>
    let lanes := (List.range 16).foldl (fun m k => tblSet 0 k (ws.getD k 0) m) []
    .ok (s.modRow i.die i.core fun r => { r with lanes, cursors := [] })
  | k :: ks, ws, s =>
    match vecReach s i v false (addr + BitVec.ofNat 64 (8 * k)) with
    | .error t => .error t
    | .ok (pa, key, t) => vecConfig i v addr ks (ws ++ [t.ownDouble i key pa]) (t.dropLine i.die i.core pa)

/-- The event of a sequencer's memory instruction: complete, or as it ended. -/
def finishVec (i : SlotId) (v : VecItem) (r : Except State State) : State :=
  match r with
  | .error t => t
  | .ok t => (t.unhold i.die (.vector i)).nextVec i v

/-- Flags and LFSR of the owner after a vector instruction. -/
def State.vecFlags (s : State) (i : SlotId) (fl : FpFlags) (st : BitVec 32) : State :=
  (s.modSlot i fun x => { x with lfsr := st }).orFlags i fl

/-- VECTOR_COMPLETE (R300 to R304): the sequencer's next instruction is performed. -/
def execVectorComplete (s : State) : Result :=
  let d := s.ev.die
  let c := s.ev.core
  let row := (s.core d c).row
  .next <|
    match row.queue, row.owner with
    | v :: _, some k =>
      let i : SlotId := ⟨d, c, k⟩
      let st := (s.slot i).lfsr
      if s.heldWaits d (.vector i) then s
      else match v.ops[v.idx]? with
      | some (.run n scalar dst) =>
        let r := runElements s.tick scalar n (0, row, 0, st)
        let s := (s.modRow d c fun _ => r.2.1).vecFlags i r.2.2.1 r.2.2.2
        (s.writeReg i dst r.1).nextVec i v
      | some (.cfg a) =>
        if a = 0 then (s.modRow d c fun r => { r with owner := if r.queue.length ≤ 1 then none else r.owner }).nextVec i v
        else finishVec i v (vecConfig i v a (List.range 16) [] s)
      | some (.lds a x) => finishVec i v (vecLoad i v ((xferDoubles a x v.rep).drop v.pos) s)
      | some (.sts a x) => finishVec i v (vecStore i v ((xferDoubles a x v.rep).drop v.pos) s)
      | some (.red o f lane count dst rm) =>
        let g := fmt3Fmt .fp32 f
        let n := g.width / 8
        let elems := (List.range count).map fun k => row.elem lane (k * n) n
        let r := reduce o g ((rmode rm).getD .rne) (elems.drop 1) (elems.headD 0, 0, st)
        ((s.vecFlags i r.2.1 r.2.2).writeReg i dst r.1).nextVec i v
      | none => s.nextVec i v
    | _, _ => s

end Sys2Proof.Machine
end

