-- ==== Sys2Proof/Machine/Scoreboard.lean ====
section
/-!
DEFINITION. Loom and stream commands (02 R60; 09 R298; 16 R412, R413, R416, R417): the checks of a command at issue, the port
scoreboard of a shed, and the stream commands SBIND, SGO, SBAR, TRIG and TQ with their effects.
-/

namespace Sys2Proof.Machine

set_option linter.constructorNameAsVariable false

/-! Checks at issue (Table 16-4) -/

/-- Whether a loom is allocated and was leased in the address context of the executing core. -/
def State.mayCommand (t : State) (l : LoomNo) : Bool :=
  let x := t.loom t.cur.die l
  x.state != .free && x.ctx == t.curCore.ctx

/-- The trap SHEDFAIL, which the control thread takes once (R416). -/
def State.takeShedFail (u : State) (i : SlotId) (l : LoomNo) (word : Inst) (index : Nat) (replay : Bool) : State :=
  if u.trapWaits i then u.waitData i
  else
    (u.modLoom i.die l fun x => { x with failed := none }).pushTrap i 0x44 (if replay then 0 else 1) (u.slot i).pc word
      (l.zeroExtend 64) (BitVec.ofNat 64 index)

/-- A loom command: LOOMCMD 0, then SHEDFAIL, then the command's own checks. -/
def State.withLoom (t : State) (l : LoomNo) (a b : Word) (k : Loom → Act) : Act :=
  if !t.mayCommand l then .trap 0x41 0 a b
  else
    let x := t.loom t.cur.die l
    match x.failed with
    | some (i, r) => .keep fun u => u.takeShedFail u.cur l t.word i r
    | none => k x

/-- A loom command that requires a state: LOOMCMD 1 in another. -/
def State.withState (t : State) (l : LoomNo) (a b : Word) (st : List LoomState) (k : Loom → Act) : Act :=
  t.withLoom l a b fun x => if st.contains x.state then k x else .trap 0x41 1 a b

/-! Selectors (Table 9-12) -/

def selShed (w : Word) : ShedNo := w.extractLsb' 0 9
def selLoom (w : Word) : LoomNo := w.extractLsb' 9 7
def selMask (w : Word) : BitVec 8 := w.extractLsb' 16 8
def selCtx (w : Word) : BitVec 2 := w.extractLsb' 24 2
def selAll (w : Word) : Bool := w.getLsbD 26
def selQueue (w : Word) : Bool := w.getLsbD 27

/-- Whether a word is that of a memory node (R181). -/
def isMemoryWord (w : Inst) : Bool :=
  match decodeGraph w with
  | some (.graphLoadNode _ _ _) | some (.graphStoreNode _ _ _) | some (.graphFeNode _ _ _ _) | some (.upd _ _ _) => true
  | _ => false

/-- Whether a feeder port holds a memory node. -/
def ShedSt.memoryPort (x : ShedSt) (p : Nat) : Bool := isMemoryWord (tblGet 0 (56 + p) x.words)

/-- The feeder ports of a mask. -/
def maskPorts (m : BitVec 8) : List Nat := (List.range 8).filter m.getLsbD

/-- The commands a scoreboard holds (R60). -/
def boardEntries : Nat := 16

/-- A stream command at issue: its selector is checked, and it enters the scoreboards of its sheds; a full one holds the
slot in WAIT-DATA. -/
def streamCommand (a b : Word) (log2 : Option Nat) (mask : BitVec 8) (all : Bool) (bad3 : Loom → Bool) (one : Bool)
    (cmd : StreamCmd) (t : State) : Act :=
  let i := t.cur
  let l := selLoom a
  t.withState l a b [.running] fun x =>
    let sheds := if all then x.sheds else (x.sheds[(selShed a).toNat]?).toList
    if sheds.isEmpty || (one && (maskPorts mask).length != 1)
        || sheds.any (fun h => (maskPorts mask).any (t.shed i.die h).memoryPort) then .trap 0x41 2 a b
    else if a.toNat / 2 ^ 28 != 0 || bad3 x then .trap 0x41 3 a b
    else
      match log2.bind fun n => t.addressFault i b n with
      | some f => f
      | none =>
        if sheds.any fun h => boardEntries ≤ (t.shed i.die h).cmds.length then .wait
        else
          let q : QueuedCmd := { id := t.nextId, cmd, src := (i, (t.slot i).inc), ctx := t.curCore.ctx }
          let t := { t with nextId := t.nextId + 1 }
          .go (sheds.foldl (fun t h => t.modShed i.die h fun y => { y with cmds := y.cmds ++ [q] }) t).advance

/-- SBIND. -/
def execSbind (a b : Reg) (s : State) : Result :=
  s.issueOpen [a, b] [] fun v t =>
    let w := v.getD 0 0
    let d := v.getD 1 0
    streamCommand w d (some 6) (selMask w) false (fun _ => false) true (.sbind ((maskPorts (selMask w)).headD 0) d) t

/-- SGO. -/
def execSgo (a : Reg) (s : State) : Result :=
  s.issueOpen [a] [] fun v t =>
    let w := v.getD 0 0
    streamCommand w 0 none (selMask w) false (fun x => x.nctx ≤ (selCtx w).toNat) false (.sgo (selMask w) (selCtx w)) t

/-- SBAR. -/
def execSbar (a : Reg) (s : State) : Result :=
  s.issueOpen [a] [] fun v t =>
    let w := v.getD 0 0
    streamCommand w 0 none (selMask w) (selAll w) (fun _ => false) false (.sbar (selMask w)) t

/-- TRIG. -/
def execTrig (a b : Reg) (s : State) : Result :=
  s.issueOpen [a, b] [] fun v t =>
    let w := v.getD 0 0
    let d := v.getD 1 0
    streamCommand w d (some 5) 0 false (fun _ => false) false (.trig d) t

/-- TQ. -/
def execTq (a b : Reg) (s : State) : Result :=
  s.issueOpen [a, b] [] fun v t =>
    let w := v.getD 0 0
    let d := v.getD 1 0
    streamCommand w d none 0 false (fun _ => false) false (.tq (selQueue w) d) t

/-! The scoreboard -/

/-- The trigger of a record (Table 9-14). -/
def triggerOf (w : List Word) : Trigger :=
  let a := w.getD 0 0
  let b := w.getD 1 0
  { port := a.extractLsb' 3 4, what := a.extractLsb' 7 2, push := a.getLsbD 9, amask := a.extractLsb' 10 8,
    actx := a.extractLsb' 18 2, hq := a.extractLsb' 20 12, next := b.extractLsb' 0 32, period := b.extractLsb' 32 32,
    token := w.getD 2 0, armed := true }

/-- Whether a trigger record has a reserved field or value. -/
def triggerBad (w : List Word) : Bool :=
  (triggerOf w).what == 3 || (w.getD 0 0).toNat / 2 ^ 32 != 0 || w.getD 3 0 != 0

/-- The feeder ports that a trigger counts at or starts. -/
def Trigger.feederPorts (g : Trigger) : List Nat :=
  (if g.port.toNat < 8 then [g.port.toNat] else []) ++ (if g.push then [] else maskPorts g.amask)

/-- The feeder ports that a command still has to take effect at: of a TRIG those of its record, and any until the record is
read. -/
def QueuedCmd.ports (q : QueuedCmd) : List Nat :=
  match q.cmd with
  | .sbind p _ => [p]
  | .sgo m _ => maskPorts m
  | .sbar m => maskPorts m
  | .trig _ => if q.words.isEmpty then List.range 8 else (triggerOf q.words).feederPorts
  | .tq _ _ => []

/-- Whether a command is a TRIG, or a TQ of a queue. -/
def StreamCmd.isTrig : StreamCmd → Bool
  | .trig _ => true
  | _ => false

def StreamCmd.isTq (k : Bool) : StreamCmd → Bool
  | .tq k' _ => k' == k
  | _ => false

/-- Whether a command is an SBAR, which holds back no TRIG (R60). -/
def StreamCmd.isBar : StreamCmd → Bool
  | .sbar _ => true
  | _ => false

/-- The commands of a shed before a numbered one. -/
def ShedSt.before (x : ShedSt) (id : Nat) : List QueuedCmd := x.cmds.takeWhile (·.id != id)

/-- Whether an earlier command has still to take effect at a feeder port. -/
def ShedSt.portBusy (x : ShedSt) (id p : Nat) : Bool := (x.before id).any fun q => q.ports.contains p

/-- A numbered command of a shed's scoreboard. -/
def ShedSt.cmd (x : ShedSt) (id : Nat) : Option QueuedCmd := x.cmds.find? (·.id == id)

/-- Takes a command out of a scoreboard. -/
def State.dropCmd (s : State) (d : Die) (h : ShedNo) (id : Nat) : State :=
  s.modShed d h fun x => { x with cmds := x.cmds.filter (·.id != id) }

/-- Whether the stream of a port is complete: it does not run, or its port has stopped (R298). -/
def ShedSt.streamDone (x : ShedSt) (p : Nat) : Bool :=
  x.streamStopped p || (!(x.stream p).running && (x.stream p).starts.isEmpty)

/-- The command of an event, when it is the event's kind and its thread's earlier accesses, which it releases, have been
performed (R155). -/
def State.boardCmd (s : State) : Option StreamCmd :=
  let x := s.shed s.ev.die s.ev.shed
  match x.cmd s.ev.id with
  | some q => if x.fires && s.released (some q.src) q.id then some q.cmd else none
  | none => none

/-- Reads n doubles of a descriptor or record in the address context of the loom's lease. -/
def boardRead (d : Die) (h : ShedNo) (fresh : Bool) (va : Word) : List Nat → List Word → State → Except Short (List Word × State)
  | [], ws, s => .ok (ws, s)
  | n :: ns, ws, s =>
    let a := va + BitVec.ofNat 64 (8 * n)
    match s.feederReach d h a needR false fresh with
    | .notReady | .unready _ _ _ => .error .wait
    | .fault cause sub addr => .error (.fault cause sub addr)
    | .ok pa key t =>
      if t.isPoisoned pa then .error (.dead 0x29) else boardRead d h fresh va ns (ws ++ [t.readHome key pa 8]) t

/-- A record of n doubles as the scoreboard reads it: none while the read is held or has to wait; otherwise its words, or
none of them where the read fails (R298). -/
def State.boardRecord (s : State) (d : Die) (h : ShedNo) (p : Nat) (va : Word) (n : Nat) : Except State (Option (List Word) × State) :=
  let who : HeldWho := .descriptor d h p
  if s.heldWaits d who || s.feederBusy d h who then .error s
  else if s.heldFails d who then .ok (none, s.unhold d who)
  else
    match boardRead d h (s.heldRetries d who) va (List.range n) [] s with
    | .ok (ws, t) => .ok (some ws, t.unhold d who)
    | .error .wait => .error s
    | .error (.dead _) => .ok (none, s.unhold d who)
    | .error (.fault cause sub addr) =>
      match s.hold d who false cause sub (s.feederInfo d h (BitVec.ofNat 6 (56 + p % 8)) needR addr (BitVec.allOnes 64)) with
      | .held t => .error t
      | .full t => .error t
      | .failNow t => .ok (none, t)

/-! SBIND -/

/-- The addresses from the lowest to past the highest byte of a stream; an indirect stream's are not known before its
indices, so that it counts as reaching all (R417, log entry 48). -/
def descHull (w : Desc) : Nat × Nat :=
  if Descriptor.indirect w then (0, 2 ^ 57)
  else
    let ends := (List.range (Descriptor.dims w)).foldl (fun (p : Int × Int) k =>
      let x := ((Descriptor.count w k : Int) - 1) * Descriptor.stride w k
      (p.1 + min x 0, p.2 + max x 0)) (0, 0)
    let lo := Descriptor.address w ends.1
    let hi := Descriptor.address w ends.2 + ((Descriptor.fmt w).width + 7) / 8
    let sl := Descriptor.scaleAddr w ends.1
    let sh := Descriptor.scaleAddr w ends.2 + 2
    if (Descriptor.fmt w).isTwill then ((min lo sl).toNat, (max hi sh).toNat) else (lo.toNat, hi.toNat)

/-- Whether two ranges meet. -/
def meets (a b : Nat × Nat) : Bool := a.1 < b.2 && b.1 < a.2

/-- Notes the hull of a stream that SBIND binds: a write hull that meets a read hull or a bank binding makes the period not
replayable (R417). -/
def State.noteHull (s : State) (d : Die) (l : LoomNo) (writes : Bool) (r : Nat × Nat) : State :=
  s.modLoom d l fun x =>
    let clash := x.hulls.any fun e => e.1 != writes && meets (e.2.1, e.2.2) r
    { x with hulls := x.hulls ++ [(writes, r.1, r.2)], noReplay := x.noReplay || clash }

/-- SBIND_PERFORM (R298): the port's running stream is complete, the descriptor is read and bound. -/
def execSbindPerform (s : State) : Result :=
  let d := s.ev.die
  let h := s.ev.shed
  let id := s.ev.id
  .next <|
    match s.boardCmd with
    | some (.sbind p va) =>
      let x := s.shed d h
      if x.portBusy id p || !x.streamDone p then s
      else if x.streamStopped p then s.dropCmd d h id
      else
        match s.boardRecord d h p va 8 with
        | .error t => t
        | .ok (none, t) => (t.dropCmd d h id).stopItem d h (portItem p) 5
        | .ok (some w, t) =>
          let t := t.dropCmd d h id
          let c := x.port p
          if !Descriptor.ok w || !c.en || c.out != Descriptor.writes w then t.stopItem d h (portItem p) 5
          else
            (t.modStream d h p fun y => { y with desc := w, ended := false }).noteHull d x.loom (Descriptor.writes w) (descHull w)
    | _ => s

/-! SGO -/

/-- SGO_PERFORM: at one port of the command, whose running stream is complete and may change to the command's context (R76),
the bound stream starts. -/
def execSgoPerform (s : State) : Result :=
  let d := s.ev.die
  let h := s.ev.shed
  let id := s.ev.id
  let p := s.ev.unit
  .next <|
    match s.boardCmd with
    | some (.sgo m c) =>
      let x := s.shed d h
      if m = 0 then s.dropCmd d h id
      else if 8 ≤ p || !m.getLsbD p || x.portBusy id p || !x.streamDone p || !(x.stream p).mayTake c then s
      else
        let m' : BitVec 8 := m &&& ~~~(1#8 <<< p)
        let s :=
          if m' = 0 then s.dropCmd d h id
          else s.modShed d h fun y =>
            { y with cmds := y.cmds.map fun q => if q.id == id then { q with cmd := .sgo m' c } else q }
        s.startStream d h p c
    | _ => s

/-! SBAR -/

/-- Whether an SBAR of a shed has nothing left to wait for. -/
def ShedSt.barDone (x : ShedSt) (id : Nat) (m : BitVec 8) : Bool :=
  (maskPorts m).all fun p => !x.portBusy id p && x.streamDone p

/-- SBAR_PERFORM (R60): the streams named are complete, on every shed the command names. -/
def execSbarPerform (s : State) : Result :=
  let d := s.ev.die
  let id := s.ev.id
  .next <|
    match s.boardCmd with
    | some (.sbar m) =>
      let sheds := (s.loomOf d s.ev.shed).filter fun h => ((s.shed d h).cmd id).isSome
      if sheds.all fun h => (s.shed d h).barDone id m then sheds.foldl (fun s h => s.dropCmd d h id) s else s
    | _ => s

/-! TRIG -/

/-- A numbered command of a scoreboard has its record. -/
def State.noteRecord (s : State) (d : Die) (h : ShedNo) (id : Nat) (ws : List Word) : State :=
  s.modShed d h fun x => { x with cmds := x.cmds.map fun q => if q.id == id then { q with words := ws } else q }

/-- TRIG_PERFORM (R57, R60, R298): behind the earlier TRIG commands the record is read; then, behind the earlier commands but
SBAR to the ports it counts at or starts, the unit's trigger is replaced. A record that can not be used is reported, and
stops nothing (R413). -/
def execTrigPerform (s : State) : Result :=
  let d := s.ev.die
  let h := s.ev.shed
  let id := s.ev.id
  .next <|
    match s.boardCmd with
    | some (.trig va) =>
      let x := s.shed d h
      let read := match x.cmd id with
        | some q => if q.words.isEmpty then s.boardRecord d h 8 va 4 else .ok (some q.words, s)
        | none => .error s
      if (x.before id).any (·.cmd.isTrig) then s
      else
        match read with
        | .error t => t
        | .ok (none, t) => (t.dropCmd d h id).nodeFault d h (portItem 0) 6
        | .ok (some w, t) =>
          let g := triggerOf w
          let u := ((w.getD 0 0).extractLsb' 0 3).toNat
          let old : Trigger := tblGet {} u x.trigs
          let behind := (x.before id).any fun q => !q.cmd.isBar && g.feederPorts.any q.ports.contains
          if triggerBad w then (t.dropCmd d h id).nodeFault d h (portItem g.port.toNat) 6
          else if behind || old.due || old.heldPush then t.noteRecord d h id w
          else
            let t := (t.dropCmd d h id).modShed d h fun y => { y with trigs := tblSet {} u g y.trigs }
            if g.push then t.modLoom d x.loom fun y => { y with noReplay := true } else t
    | _ => s

/-! TQ (R58, Table 9-15) -/

/-- The macros that a queue word names: one of them, or all that have an MMA node of the queue. -/
def ShedSt.queueMacros (x : ShedSt) (q : Bool) (n : Nat) : BitVec 8 :=
  let has := fun (m : Nat) => (x.mmaSlot q m).isSome
  (List.range 8).foldl (fun (w : BitVec 8) m => if (n == 8 || n == m) && has m then w ||| (1#8 <<< m) else w) 0

/-- TQ_PERFORM (R58, R59, R413): behind the earlier TQ commands to the queue, the priority bit is set and the entry
appended; a full queue holds the command. -/
def execTqPerform (s : State) : Result :=
  let d := s.ev.die
  let h := s.ev.shed
  let id := s.ev.id
  .next <|
    match s.boardCmd with
    | some (.tq q w) =>
      let x := s.shed d h
      let t := x.queue q
      let entry := !w.getLsbD 28
      let c : BitVec 2 := w.extractLsb' 4 2
      let row := (w.extractLsb' 0 4).toNat
      let passes := (w.extractLsb' 10 16).toNat
      let mac := (w.extractLsb' 6 4).toNat
      let macs := x.queueMacros q mac
      if (x.before id).any (·.cmd.isTq q) then s
      else if x.stopped (queueItem q) then s.dropCmd d h id
      else if entry && (passes = 0 || x.rowSlots ≤ row || x.nctx ≤ c.toNat || 8 < mac || macs = 0) then
        (s.dropCmd d h id).stopItem d h (queueItem q) 7
      else if entry && 8 ≤ t.entries.length then s
      else
        let t := if w.getLsbD 26 then { t with prio := w.getLsbD 27 } else t
        let t := if entry then { t with entries := t.entries ++ [⟨macs, row, c, passes⟩] } else t
        (s.dropCmd d h id).modShed d h fun y => y.setQueue q t
    | _ => s

end Sys2Proof.Machine
end

