-- ==== Sys2Proof/Machine/SideMacro.lean ====
section
/-!
DEFINITION. The side macro of a core (09 R305; 14 R379): MXLD, MXMUL and their completions.
-/

namespace Sys2Proof.Machine

/-- Changes the side macro of a core. -/
def State.modSide (s : State) (d : Die) (c : CoreNo) (f : SideMacro → SideMacro) : State :=
  s.modCore d c fun x => { x with side := f x.side }

/-- MXLD (R305): the 8 KiB image is read at the issue; one load is on its way at a time. -/
def execMxld (mf : Mf3) (a : Reg) (s : State) : Result :=
  s.issue [a] [] fun v t =>
    let i := t.cur
    if t.curCore.side.loading.isSome then .wait
    else
      t.withRecord (v.getD 0 0) 6 1024 fun ws t =>
        let image := ws.flatMap (bytesOfWord 8)
        .go ((t.modSide i.die i.core fun m => { m with loading := some (mf, image) }).advance)

/-- MXLD_COMPLETE (R305): after the products under way, the image and the format are in place. -/
def execMxldComplete (s : State) : Result :=
  let d := s.ev.die
  let c := s.ev.core
  let m := (s.core d c).side
  .next <|
    match m.loading with
    | some (mf, image) =>
      if !m.queue.isEmpty then s
      else s.modSide d c fun m =>
        { m with fmt := mf, image := image.zipIdx.foldl (fun t p => tblSet 0 p.2 p.1 t) [], loading := none }
    | none => s

/-- MXMUL (R305): OPERAND 0 for another format than the loaded one; a journaled slot needs room in its log for the
stores (R420). -/
def execMxmul (mf : Mf3) (d a b : Reg) (s : State) : Result :=
  s.issue [a, b, d] [] fun v t =>
    let i := t.cur
    let va := v.getD 0 0
    let ctl : BitVec 5 := (v.getD 1 0).extractLsb' 0 5
    let out := v.getD 2 0
    let x := t.slot i
    if t.curCore.side.loading.isSome then .wait
    else if mf != t.curCore.side.fmt then .trap 0x13 0 va (v.getD 1 0)
    else
      match (if ctl.getLsbD 2 then t.addressFault i out 6 else none), t.addressFault i va 6 with
      | some f, _ => f
      | none, some f => f
      | none, none =>
        if ctl.getLsbD 2 && t.journaled && logBytes < x.logUsed + 256 then
          .trap 0x46 0 256 (BitVec.ofNat 64 (logBytes - x.logUsed))
        else
          let blocks := if (mfFmt mf).isTwill then mfDepth mf / 16 else 0
          t.withBytes va (192 + 2 * blocks) fun bs t =>
            let scales := (List.range blocks).map fun j => bs.getD (193 + 2 * j) 0 ++ bs.getD (192 + 2 * j) 0
            let job : MxJob := { slot := i.slot, mf, row := bs.take 192, scales, out, ctl, pc := (t.slot i).pc }
            .go ((t.modSide i.die i.core fun m => { m with queue := m.queue ++ [job] }).enter i .mx .retry)

/-- The sixteen stores of a product's columns, as accesses of the slot or entries of its log. -/
def State.storeColumns (s : State) (i : SlotId) (j : MxJob) (cols : List (BitVec 32)) : List Nat → State
  | [] => s
  | k :: ks =>
    let w : Word := cols.getD (2 * k + 1) 0 ++ cols.getD (2 * k) 0
    let va := j.out + BitVec.ofNat 64 (8 * k)
    let s := { s.newAccess i (.store .d) .s false false va with data := w, pc := j.pc } |> fun a => s.putAccess a
    s.storeColumns i j cols ks

/-- The stores of a journaled slot's product: all translated, then logged (R420); the event waits while a translation does,
and a failed store is left out. -/
def State.logColumns (s : State) (i : SlotId) (j : MxJob) (cols : List (BitVec 32)) : List Nat → List (Word × Byte × Nat × Word) →
    Except State State
  | [], ps => .ok (ps.foldl (fun t p => t.ownStore i p.1 p.2.1 p.2.2.1 8 p.2.2.2) (s.unhold i.die (.operand i)))
  | k :: ks, ps =>
    let w : Word := cols.getD (2 * k + 1) 0 ++ cols.getD (2 * k) 0
    let va := j.out + BitVec.ofNat 64 (8 * k)
    match s.reach i va needW false (s.heldRetries i.die (.operand i)) with
    | .notReady | .unready _ _ _ => .error s
    | .fault cause sub addr =>
      match s.hold i.die (.operand i) (s.exempt i) cause sub (s.slotFault i 0 needW addr j.pc) with
      | .held t => .error t
      | .full t => .error t
      | .failNow t => (t.failSlot i cause sub addr j.pc).logColumns i j cols ks ps
    | .ok pa key t => t.logColumns i j cols ks (ps ++ [(va, key, pa, w)])

/-- The doubles of a product's output that are to be stored. -/
def MxJob.outs (j : MxJob) : List Nat := (List.range 16).filter fun k => !j.skip.contains k

/-- MX_PRODUCT_COMPLETE (R305): the oldest product's pass is done; its columns are stored, and its slot is READY behind
its instruction. -/
def execMxProductComplete (s : State) : Result :=
  let d := s.ev.die
  let c := s.ev.core
  .next <|
    match (s.core d c).side.queue with
    | [] => s
    | j :: rest =>
      let i : SlotId := ⟨d, c, j.slot⟩
      if s.heldWaits d (.operand i) then s else
      let m := (s.core d c).side
      let key := 32 * (j.ctl.extractLsb' 0 2).toNat
      let acc := if j.ctl.getLsbD 4 then clearColumns key 32 m.acc else m.acc
      let r := passColumns j.mf m.image 0x1800 (rowVals j.mf j.row j.scales) key (List.range 32) acc 0
      let cols := (List.range 32).map fun k => tblGet 0 (key + k) r.1
      let acc := if j.ctl.getLsbD 3 then clearColumns key 32 r.1 else r.1
      let stored : Except State State :=
        if !j.ctl.getLsbD 2 then .ok s
        else if s.jnlOf i then s.logColumns i j cols j.outs []
        else .ok (s.storeColumns i j cols (List.range 16))
      match stored with
      | .error t => t
      | .ok t =>
        let t := (t.modSide d c fun m => { m with acc, queue := rest }).orFlags i r.2
        t.wakeNext i

end Sys2Proof.Machine
end

