-- ==== Sys2Proof/Machine/Resume.lean ====
section
/-!
DEFINITION. The answers to held faults (15 R396, R397): retry and fail, by the agent whose access is held.
-/

namespace Sys2Proof.Machine

/-! Retry -/

/-- The TLB entries of a table that do not cover a faulting address: those for a virtual address of an address context, and of
BADPA, whose address is panel physical, those that lead to it. -/
def State.keepTlb (s : State) (d : Die) (ctx : BitVec 12) (cause : Byte) (addr : Word) (l : List TlbEntry) : List TlbEntry :=
  l.filter fun e =>
    if cause = 0x26 then addr.toNat < e.pbase || e.pbase + e.size ≤ addr.toNat
    else !e.covers (tblGet {} ctx.toNat (s.die d).ctxs : CtxReg).asid addr.toNat

/-- The agent of a held access discards its TLB entries for the faulting page; a hart has none (R139). -/
def State.dropHeldTlb (s : State) (who : HeldWho) (cause : Byte) (addr : Word) : State :=
  let slot := fun (i : SlotId) =>
    s.modCore i.die i.core fun c => { c with tlb := s.keepTlb i.die c.ctx cause addr c.tlb }
  let shed := fun (e : Die) (h : ShedNo) => s.modShed e h fun x => { x with tlb := s.keepTlb e x.ctx cause addr x.tlb }
  match who with
  | .fetch i | .operand i | .vector i => slot i
  | .stream e h _ | .descriptor e h _ => shed e h
  | .hart _ _ => s
  | .access id =>
    match s.access id with
    | none => s
    | some a =>
      match a.agent with
      | .slot i _ => slot i
      | .node e h _ _ => shed e h

/-- A slot that waits for its held fetch or operand tries its instruction again. -/
def State.rousedHeld (s : State) (i : SlotId) : State :=
  if (s.slot i).await == .held then s.enter i .waitData .retry else s

/-- The agent performs the held access afresh from its walk (R396). -/
def State.retryHeld (s : State) (d : Die) (e : HeldEntry) : State :=
  let s := s.modDie d fun x => { x with held := x.held.map fun y => if y.fid == e.fid then { y with retry := true } else y }
  let s := s.dropHeldTlb e.who e.cause e.va
  match e.who with
  | .access id => s.modAccess id fun a => { a with stage := .walk, fresh := true }
  | .fetch i | .operand i => s.rousedHeld i
  | _ => s

/-! Fail -/

/-- The access of a slot or node takes no effect (R397). -/
def State.failAccess (s : State) (a : Access) (cause sub : Byte) (addr : Word) : State :=
  match a.agent with
  | .slot i inc =>
    if (s.slot i).inc != inc then s.dropAccess a.id
    else if (s.slot i).state == .trapped then (s.dropAccess a.id).failSlot i cause sub addr a.pc
    else (s.markFailed a.id).failSlot i cause sub addr a.pc
  | .node d h n _ => (s.dropAccess a.id).feederFault d h n.toNat (n.toNat - 56) cause

/-- A slot's operand record or logged store has failed: the instruction ends, or the product leaves the store out. -/
def State.failOperand (s : State) (i : SlotId) (e : HeldEntry) : State :=
  let x := s.slot i
  if x.state == .mx then
    match (s.core i.die i.core).side.queue with
    | j :: rest =>
      let k := (e.va - j.out).toNat / 8
      (s.modSide i.die i.core fun m => { m with queue := { j with skip := k :: j.skip } :: rest }).failSlot i e.cause e.sub e.va j.pc
    | [] => s
  else ((s.modSlot i fun y => { y with pc := y.pc + 4 }).rousedHeld i).failSlot i e.cause e.sub e.va x.pc

/-- The held access takes no effect, and its agent goes on as R397 says. -/
def State.failHeld (s : State) (d : Die) (e : HeldEntry) : State :=
  let free := s.unhold d e.who
  match e.who with
  | .access id =>
    match s.access id with
    | some a => free.failAccess a e.cause e.sub e.va
    | none => free
  | .fetch i => (free.rousedHeld i).failSlot i e.cause e.sub e.va (s.slot i).pc
  | .operand i => free.failOperand i e
  | .vector i =>
    match (s.core i.die i.core).row.queue with
    | v :: _ => free.failVec i v e.cause e.sub e.va
    | [] => free
  | .stream c h p => free.feederFault c h (portItem p) p e.cause
  | .descriptor _ _ _ =>
    s.modDie d fun x => { x with held := x.held.map fun y => if y.fid == e.fid then { y with fail := true } else y }
  | .hart c n =>
    match (s.hart c n).running, (s.hart c n).queue with
    | some _, _ => free.endCopy c n e.cause
    | none, k :: _ => (free.takeKick c n k).refuseCopy c n k 0 0 0 e.cause
    | none, [] => free

/-! XFRESUME (Table 15-3) -/

/-- A write of XFRESUME: a generation that is not the entry's current one is ignored and counted as STALEGEN; a reserved
action, and an entry that holds nothing to answer, are ignored. -/
def State.xfresume (s : State) (d : Die) (fid gen : Byte) (action : BitVec 2) : State :=
  let x := s.die d
  if action.getLsbD 1 then s
  else if tblGet 0 fid.toNat x.gens != gen then s.count d .dieControl 0x2b
  else
    match x.held.find? fun e => e.fid == fid && !e.retry && !e.fail with
    | some e => if action = 0 then s.retryHeld d e else s.failHeld d e
    | none => s

/-- XFRESUME of an event, with an action. -/
def resumeEvent (action : BitVec 2) (s : State) : Result :=
  match s.ev.load with
  | .fault fid gen => .next (s.xfresume s.ev.die fid gen action)
  | _ => .next s

def execXfresumeRetry (s : State) : Result := resumeEvent 0 s
def execXfresumeFail (s : State) : Result := resumeEvent 1 s

end Sys2Proof.Machine
end

