-- ==== Sys2Proof/Machine/Registers.lean ====
section
/-!
DEFINITION. The device registers (00 R11; 01 R20, R35; 02 R48; 03 R103; 04 R132, R133, R142; 05 R161; 09 R307, R310; 10 R319,
R333; 11 R338 to R346; 14 R376, R377; 15 R396, R397; 16 R411, R421, R423, R434): what each reads, and what a write does.
-/

namespace Sys2Proof.Machine

/-! Error logs -/

/-- ELOG (Table 14-6). -/
def ErrLog.word (l : ErrLog) : Word := 0#16 ++ l.count ++ 0#8 ++ l.cause

/-- ELOGCLR: CLR clears the log of a unit. -/
def State.clearLog (s : State) (d : Die) (u : LogUnit) (v : Word) : State :=
  if v.getLsbD 0 then s.modLog d u fun _ => {} else s

/-- ELOGCLR (R377). -/
def execElogclr (s : State) : Result :=
  match s.ev.load with
  | .logUnit u => .next (s.clearLog s.ev.die u 1)
  | _ => .next s

/-- The unit whose log stands at an offset of the device register space, with the offset of the log in it (R377). -/
def logAt (o : Nat) : Option (LogUnit × Nat) :=
  if o < 0x100000 then
    if o = 0xf10 || o = 0xf18 then some (.queues, o - 0x10) else some (.dieControl, o)
  else if o < 0x200000 then some (.heddle, o - 0x100000)
  else if o < 0x240000 then some (.link (BitVec.ofNat 2 ((o - 0x200000) / 0x10000)), o % 0x10000)
  else if 0x300000 ≤ o && o < 0x400000 then some (.hostPort, o - 0x300000)
  else if 0x1000000 ≤ o && o < 0x1400000 then some (.hart (BitVec.ofNat 6 ((o - 0x1000000) / 0x10000)), o % 0x10000)
  else if 0x3000000 ≤ o && o < 0x3c00000 then some (.hbm (BitVec.ofNat 4 ((o - 0x3000000) / 0x100000)), o % 0x100000)
  else if 0x10000000 ≤ o && o < 0x12000000 then some (.shed (BitVec.ofNat 9 ((o - 0x10000000) / 0x10000)), o % 0x10000)
  else if 0x20000000 ≤ o && o < 0x28000000 then some (.core (BitVec.ofNat 11 ((o - 0x20000000) / 0x10000)), o % 0x10000)
  else if 0x30000000 ≤ o && o < 0x31000000 then some (.l2 (BitVec.ofNat 10 ((o - 0x30000000) / 0x4000)), o % 0x4000)
  else none

/-! Clearing of flags and faults -/

/-- ERRSUM (Table 14-5): written ones clear its bits. -/
def State.clearErrsum (s : State) (d : Die) (v : Word) : State :=
  s.modDie d fun x => { x with errsum := x.errsum &&& ~~~(v.extractLsb' 0 9) }

/-- SFFLAGS (R103). -/
def State.clearSfflags (s : State) (d : Die) (h : ShedNo) (v : Word) : State :=
  s.modShed d h fun x =>
    let kept := if x.flagAclk = s.aclk then x.flagSet else 0
    { x with sfflags := x.sfflags &&& (~~~(v.extractLsb' 0 5) ||| kept) }

/-- SXFAULT (Table 15-4). -/
def State.clearSxfault (s : State) (d : Die) (h : ShedNo) (v : Word) : State :=
  s.modShed d h fun x =>
    { x with sxfault :=
        { x.sxfault with cause := x.sxfault.cause &&& ~~~(v.extractLsb' 0 8), more := x.sxfault.more && !v.getLsbD 12 } }

/-- SFFAULT (Table 16-3). -/
def State.clearSffault (s : State) (d : Die) (h : ShedNo) (v : Word) : State :=
  s.modShed d h fun x =>
    { x with sffault :=
        { x.sffault with cause := x.sffault.cause &&& ~~~(v.extractLsb' 0 8), more := x.sffault.more && !v.getLsbD 23 } }

def execErrsumClear (s : State) : Result := .next (s.clearErrsum s.ev.die s.ev.val)
def execSfflagsClear (s : State) : Result := .next (s.clearSfflags s.ev.die s.ev.shed s.ev.val)
def execSxfaultClear (s : State) : Result := .next (s.clearSxfault s.ev.die s.ev.shed s.ev.val)
def execSffaultClear (s : State) : Result := .next (s.clearSffault s.ev.die s.ev.shed s.ev.val)

/-! Keys (R142) -/

/-- A write of XKCTL: XTS is stored, and GO starts a load; the controllers take XKDATA when it ends. -/
def State.xkctl (s : State) (d : Die) (v : Word) : State :=
  s.modDie d fun x => { x with xkXts := v.getLsbD 1, xkBusy := x.xkBusy || v.getLsbD 0 }

/-- XKCTL_GO. -/
def execXkctlGo (s : State) : Result := .next (s.xkctl s.ev.die s.ev.val)

/-- Four doubles as a key, least significant double first. -/
def keyOf (x : DieSt) (k : Nat) : BitVec 256 :=
  let w := fun (j : Nat) => tblGet 0 (k + j) x.xkdata
  w 3 ++ w 2 ++ w 1 ++ w 0

/-- KEY_LOAD_COMPLETE: the slot that XKSEL names has the loaded keys, BUSY is 0 and XKDATA is cleared. -/
def execKeyLoadComplete (s : State) : Result :=
  .next <|
    if (s.die s.ev.die).xkBusy then
      s.modDie s.ev.die fun x =>
        let k : KeySlot := if x.xkXts then { xts := true, data := keyOf x 0, tweak := keyOf x 4 } else {}
        { x with keys := tblSet {} x.xksel.toNat k x.keys, xkBusy := false, xkdata := [] }
    else s

/-! Suspect cores (16 R423) -/

/-- A core becomes suspect: CORESUSP. -/
def State.suspectCore (s : State) (d : Die) (c : CoreNo) : State :=
  if (s.core d c).suspect || (s.core d c).retired then s
  else (s.modCore d c fun x => { x with suspect := true }).countNotify d (.core c) 0x4c

/-- RETREQ: firmware marks a core suspect. -/
def State.retreq (s : State) (d : Die) (c : CoreNo) : State :=
  (s.modCore d c fun x => { x with retreq := true }).suspectCore d c

def execRetreq (s : State) : Result := .next (s.retreq s.ev.die s.ev.core)

/-! Reading -/

/-- The die control block. -/
def State.readControl (s : State) (d : Die) (o : Nat) : Word :=
  let x := s.die d
  let b := x.boot
  if o = 0 then b.ready.zeroExtend 64
  else if o = 0x10 then b.devid.extractLsb' 0 64
  else if o = 0x18 then b.devid.extractLsb' 64 64
  else if o = 0x20 then 0#50 ++ bit b.solo ++ bit b.root ++ b.die ++ b.py ++ b.px
  else if o = 0x28 then b.good
  else if o = 0x30 then b.err.zeroExtend 64
  else if 0x200 ≤ o && o < 0x240 then
    let r : Ring := tblGet {} ((o - 0x200) / 16) b.rings
    if o % 16 = 0 then r.base.zeroExtend 64 else r.slots.zeroExtend 64
  else if o = 0x300 then 0#47 ++ bit x.faultEn ++ x.faultBox ++ x.faultCore
  else if o = 0x308 then x.errsum.zeroExtend 64
  else if o = 0x310 then 0#55 ++ bit x.errEn ++ x.errVector
  else if o = 0x318 then 0#47 ++ bit x.xfEn ++ x.xfBox ++ x.xfCore
  else if o = 0x328 then BitVec.ofNat 64 x.held.length
  else if o = 0x330 then x.jnlBase.zeroExtend 64
  else if o = 0x338 then x.jnlSize.zeroExtend 64
  else if o = 0x340 then BitVec.ofNat 32 x.journalFree ++ BitVec.ofNat 32 x.journalOpen
  else if 0x1000 ≤ o && o < 0x1080 then
    let r : PowerRow := tblGet {} ((o - 0x1000) / 8) x.power
    0#27 ++ r.duty ++ r.cap ++ r.pwr
  else if o = 0x1080 then 0#16 ++ x.pkgcap ++ x.hbmPower ++ x.diePower
  else if o = 0x1088 then 0#40 ++ x.tmax ++ x.vcore
  else if 0x40000 ≤ o && o < 0x50000 then
    let c : CtxReg := tblGet {} ((o - 0x40000) / 16) x.ctxs
    if o % 16 = 0 then c.rootWord else 0#47 ++ bit c.en ++ c.asid
  else if o = 0x50000 then x.xksel.zeroExtend 64
  else if o = 0x50048 then 0#61 ++ bit x.xkBusy ++ bit x.xkXts ++ 0#1
  else 0

/-- The heddle block (Table 10-1). -/
def State.readHeddle (s : State) (d : Die) (o : Nat) : Word :=
  let x := s.heddle d
  if o = 0 then 0#63 ++ bit x.en
  else if o = 0x8 then x.win.zeroExtend 64
  else if o = 0x10 then x.hot.zeroExtend 64
  else if o = 0x18 then x.cold.zeroExtend 64
  else if o = 0x20 then 0#30 ++ x.ost ++ x.other ++ x.cur
  else if o = 0x28 then 0#48 ++ x.placeBox ++ x.placeCore
  else if o = 0x30 then 0#51 ++ x.exp ++ bit x.busy
  else if o = 0x38 then (BitVec.ofNat 32 (s.hdhold d)).zeroExtend 64
  else if 0x1000 ≤ o && o < 0x1200 then (tblGet 0 ((o - 0x1000) / 8) x.loads).zeroExtend 64
  else if 0x10000 ≤ o && o < 0x18000 then
    let c := tblGet (0, 0) ((o - 0x10000) / 8) x.cnts
    c.2 ++ c.1
  else if 0x20000 ≤ o && o < 0x28000 then tblGet 0 ((o - 0x20000) / 8) x.curs
  else if 0x30000 ≤ o && o < 0x38000 then (s.die d).otherEntry (BitVec.ofNat 12 ((o - 0x30000) / 8))
  else 0

/-- HWINn (Table 1-11). -/
def HostWin.word (w : HostWin) : Word := 0#32 ++ bit w.en ++ 0#7 ++ w.key ++ w.base

/-- BHSTAT (Table 9-21). -/
def HartSt.stat (x : HartSt) : Word := 0#58 ++ BitVec.ofNat 5 x.queue.length ++ bit x.running.isSome

/-- HQSTAT (Table 9-24). -/
def HqSt.stat (x : HqSt) : Word :=
  0#49 ++ x.tuse ++ x.hart ++ bit x.mb ++ bit x.armed ++ BitVec.ofNat 5 x.tokens.length

/-- STATE of SSTATE (Table 2-12). -/
def ShedState.code : ShedState → BitVec 3
  | .free => 0 | .leased => 1 | .loading => 2 | .running => 3 | .draining => 4 | .saved => 5

/-- SSTATE. -/
def ShedSt.sstate (x : ShedSt) : Word :=
  let free := x.retired || x.state == .free
  0#49 ++ (if free then 0#7 else x.loom) ++ 0#4 ++ bit x.retired ++ (if x.retired then 0#3 else x.state.code)

/-- The registers of a shed. -/
def ShedSt.register (x : ShedSt) (o : Nat) : Word :=
  if o = 0 then x.sstate
  else if o = 0x80 then x.sfflags.zeroExtend 64
  else if o = 0x88 then x.swincnt.zeroExtend 64
  else if o = 0x90 then 0#51 ++ bit x.sxfault.more ++ x.sxfault.item.extractLsb' 0 4 ++ x.sxfault.cause
  else if o = 0x98 then x.sdisc.zeroExtend 64
  else if o = 0xa0 then 0#40 ++ bit x.sffault.more ++ x.sffault.item ++ x.sffault.sub ++ x.sffault.cause
  else 0

/-- CORESTAT (Table 16-8). -/
def CoreSt.corestat (c : CoreSt) : Word := 0#45 ++ c.rslot ++ bit c.retreq ++ bit c.retired ++ bit c.suspect

/-- Whether a skein is a selvedge skein (Table 1-4). -/
def selvedge (k : BitVec 7) : Bool := [7, 8, 63, 79, 119, 120, 48, 64].contains k.toNat

/-- SKLOAD0 and SKLOAD1 of a skein (R20): the counts of eight of its cores. -/
def State.skload (s : State) (d : Die) (k : BitVec 7) (half : Nat) : Word :=
  (List.range 8).foldl (fun (v : Word) j =>
    let n := s.readyCount d (BitVec.ofNat 11 (k.toNat * 16 + 8 * half + j))
    v ||| (BitVec.ofNat 64 n <<< (8 * j))) 0

/-- The registers of a core, with those of its skein in core 0 of the skein; RDNEXT hands out an index. -/
def State.readCore (s : State) (d : Die) (c : CoreNo) (o : Nat) : Word × State :=
  let k := skeinOf c
  let first := c.extractLsb' 0 4 == 0
  if o = 0x40 then ((s.core d c).corectx, s)
  else if o = 0x48 then ((s.core d c).corestat, s)
  else if first && o = 0x120 then (s.skload d k 0, s)
  else if first && o = 0x128 then (s.skload d k 1, s)
  else if first && selvedge k && o = 0x100 then (s.rdctl d k, s)
  else if first && selvedge k && o = 0x108 then s.readRdnext d k
  else (0, s)

/-- What a double of the device register space of a die reads: reserved offsets of the blocks read zero. -/
def State.readRegister (s : State) (d : Die) (o : Nat) : Word × State :=
  match logAt o with
  | some (u, 0xf00) => ((s.log d u).word, s)
  | _ =>
    if o < 0x100000 then (s.readControl d o, s)
    else if o < 0x200000 then (s.readHeddle d (o - 0x100000), s)
    else if 0x300000 ≤ o && o < 0x300080 then ((tblGet {} ((o - 0x300000) / 8) (s.die d).wins : HostWin).word, s)
    else if 0x1000000 ≤ o && o < 0x1400000 then
      (if o % 0x10000 = 8 then (s.hart d (BitVec.ofNat 6 ((o - 0x1000000) / 0x10000))).stat else 0, s)
    else if 0x2000000 ≤ o && o < 0x2100000 then
      (if o % 0x100 = 0 then (s.hq d (BitVec.ofNat 12 ((o - 0x2000000) / 0x100))).stat else 0, s)
    else if 0x10000000 ≤ o && o < 0x12000000 then
      ((s.shed d (BitVec.ofNat 9 ((o - 0x10000000) / 0x10000))).register (o % 0x10000), s)
    else if 0x20000000 ≤ o && o < 0x28000000 then s.readCore d (BitVec.ofNat 11 ((o - 0x20000000) / 0x10000)) (o % 0x10000)
    else (0, s)

/-! Writing -/

/-- A write to the die control block. RWP fields change for privileged code only (R11). -/
def State.writeControl (s : State) (d : Die) (o : Nat) (v : Word) (priv : Bool) : State :=
  let rwp := fun (f : DieSt → DieSt) => if priv then s.modDie d f else s
  let core : CoreNo := v.extractLsb' 0 11
  let box : BitVec 5 := v.extractLsb' 11 5
  if 0x200 ≤ o && o < 0x240 then
    rwp fun x =>
      let l := (o - 0x200) / 16
      let r : Ring := tblGet {} l x.boot.rings
      let r := if o % 16 = 0 then { r with base := v.extractLsb' 0 48 } else { r with slots := v.extractLsb' 0 16 }
      { x with boot := { x.boot with rings := tblSet {} l r x.boot.rings } }
  else if o = 0x300 then rwp fun x => { x with faultCore := core, faultBox := box, faultEn := v.getLsbD 16 }
  else if o = 0x308 then s.clearErrsum d v
  else if o = 0x310 then rwp fun x => { x with errVector := v.extractLsb' 0 8, errEn := v.getLsbD 8 }
  else if o = 0x318 then rwp fun x => { x with xfCore := core, xfBox := box, xfEn := v.getLsbD 16 }
  else if o = 0x320 then s.xfresume d (v.extractLsb' 0 8) (v.extractLsb' 8 8) (v.extractLsb' 16 2)
  else if o = 0x330 then rwp fun x => { x with jnlBase := v.extractLsb' 12 36 ++ 0#12 }
  else if o = 0x338 then rwp fun x => { x with jnlSize := v.extractLsb' 0 32 }
  else if 0x1000 ≤ o && o < 0x1080 then
    rwp fun x =>
      let p := (o - 0x1000) / 8
      { x with power := tblSet {} p { (tblGet {} p x.power : PowerRow) with cap := v.extractLsb' 16 16 } x.power }
  else if o = 0x1080 then rwp fun x => { x with pkgcap := v.extractLsb' 32 16 }
  else if 0x40000 ≤ o && o < 0x50000 then
    s.modDie d fun x =>
      let n := (o - 0x40000) / 16
      let c : CtxReg := tblGet {} n x.ctxs
      let c := if o % 16 = 0 then c.setRoot v else { c with asid := v.extractLsb' 0 16, en := v.getLsbD 16 }
      { x with ctxs := tblSet {} n c x.ctxs }
  else if o = 0x50000 then s.modDie d fun x => { x with xksel := v.extractLsb' 0 8 }
  else if 0x50008 ≤ o && o < 0x50048 then
    s.modDie d fun x => { x with xkdata := tblSet 0 ((o - 0x50008) / 8) v x.xkdata }
  else if o = 0x50048 then s.xkctl d v
  else s

/-- A write to the heddle block; EN going to 1 opens a window (R321). -/
def State.writeHeddle (s : State) (d : Die) (o : Nat) (v : Word) (priv : Bool) : State :=
  let x := s.heddle d
  if o = 0 then
    s.modHeddle d fun y =>
      { y with en := v.getLsbD 0, windowStart := if v.getLsbD 0 && !x.en then s.aclk else y.windowStart }
  else if o = 0x8 then s.modHeddle d fun y => { y with win := v.extractLsb' 0 32 }
  else if o = 0x10 then s.modHeddle d fun y => { y with hot := v.extractLsb' 0 32 }
  else if o = 0x18 then s.modHeddle d fun y => { y with cold := v.extractLsb' 0 32 }
  else if o = 0x28 then s.modHeddle d fun y => { y with placeCore := v.extractLsb' 0 11, placeBox := v.extractLsb' 11 5 }
  else if o = 0x30 then if v.getLsbD 0 then s.modHeddle d fun y => { y with busy := false } else s
  else if 0x20000 ≤ o && o < 0x28000 then if priv then s.writeDraft d (BitVec.ofNat 12 ((o - 0x20000) / 8)) v else s
  else s

/-- A write to the registers of a shed. -/
def State.writeShed (s : State) (d : Die) (h : ShedNo) (o : Nat) (v : Word) : State :=
  if o = 0x80 then s.clearSfflags d h v
  else if o = 0x90 then s.clearSxfault d h v
  else if o = 0xa0 then s.clearSffault d h v
  else s

/-- A write to the registers of a core. -/
def State.writeCore (s : State) (d : Die) (c : CoreNo) (o : Nat) (v : Word) (priv : Bool) : State :=
  let k := skeinOf c
  let dispatcher := c.extractLsb' 0 4 == 0 && selvedge k
  if o = 0x40 then s.modCore d c (·.setCorectx v)
  else if o = 0x48 then
    if !priv then s else if v.getLsbD 2 then s.retreq d c else s.modCore d c fun x => { x with retreq := false }
  else if dispatcher && o = 0x100 then s.writeRdctl d k v
  else if dispatcher && o = 0x110 then s.writeRdfin d k
  else s

/-- A write of a double of the device register space of a die; BHKICK, which only a core's store kicks (R307), is not
among them. -/
def State.writeRegister (s : State) (d : Die) (o : Nat) (v : Word) (priv : Bool) : State :=
  match logAt o with
  | some (u, 0xf08) => s.clearLog d u v
  | _ =>
    if o < 0x100000 then s.writeControl d o v priv
    else if o < 0x200000 then s.writeHeddle d (o - 0x100000) v priv
    else if 0x300000 ≤ o && o < 0x300080 then
      let w : HostWin := { base := v.extractLsb' 0 16, key := v.extractLsb' 16 8, en := v.getLsbD 31 }
      s.modDie d fun x => { x with wins := tblSet {} ((o - 0x300000) / 8) w x.wins }
    else if 0x10000000 ≤ o && o < 0x12000000 then
      s.writeShed d (BitVec.ofNat 9 ((o - 0x10000000) / 0x10000)) (o % 0x10000) v
    else if 0x20000000 ≤ o && o < 0x28000000 then
      s.writeCore d (BitVec.ofNat 11 ((o - 0x20000000) / 0x10000)) (o % 0x10000) v priv
    else s

/-- REGISTER_WRITE (R11). -/
def execRegisterWrite (s : State) : Result :=
  match s.ev.load with
  | .register o priv => .next (s.writeRegister s.ev.die o.toNat s.ev.val priv)
  | _ => .next s

/-- The hart of a BHKICK register, when an offset is one's. -/
def kickHart (o : Nat) : Option HartNo :=
  if 0x1000000 ≤ o && o < 0x1400000 && o % 0x10000 = 0 then some (BitVec.ofNat 6 ((o - 0x1000000) / 0x10000)) else none

end Sys2Proof.Machine
end

