-- ==== Sys2Proof/Machine/Sha.lean ====
section
/-!
DEFINITION. SHA-384 (FIPS 180-4), by which the boot ROM checks the vendor's keys and a die derives its identity (11 R340, R341). Its
constants are computed from their definition: the fractions of the roots of the first primes.
-/

namespace Sys2Proof.Machine

/-- The greatest number below 2^n, added to acc bit by bit, whose k-th power does not exceed x. -/
def rootBelow (k x : Nat) : Nat → Nat → Nat
  | 0, acc => acc
  | n + 1, acc => rootBelow k x n (if (acc + 2 ^ n) ^ k ≤ x then acc + 2 ^ n else acc)

/-- The first 64 bits of the fraction of the k-th root of p. -/
def rootFraction (k p : Nat) : Word := BitVec.ofNat 64 (rootBelow k (p * 2 ^ (64 * k)) 70 0)

/-- The primes up to the 80th. -/
def shaPrimes : List Nat := (List.range 410).filter fun n => 2 ≤ n && (List.range n).all fun k => k < 2 || n % k != 0

/-- The round constants: from the cube roots of the first 80 primes. -/
def shaRounds : List Word := shaPrimes.map (rootFraction 3)

/-- The initial hash of SHA-384: from the square roots of the 9th to the 16th prime. -/
def shaStart : List Word := ((shaPrimes.drop 8).take 8).map (rootFraction 2)

/-- The functions of the message schedule and of a round. -/
def shaSmall (a b c : Nat) (x : Word) : Word := x.rotateRight a ^^^ x.rotateRight b ^^^ (x >>> c)
def shaBig (a b c : Nat) (x : Word) : Word := x.rotateRight a ^^^ x.rotateRight b ^^^ x.rotateRight c

/-- The next word of a message schedule, which is held with its last word first. -/
def shaNext (w : List Word) : Word :=
  shaSmall 19 61 6 (w.getD 1 0) + w.getD 6 0 + shaSmall 1 8 7 (w.getD 14 0) + w.getD 15 0

/-- The message schedule of a block of 16 words. -/
def shaSchedule (block : List Word) : List Word :=
  ((List.range 64).foldl (fun w _ => shaNext w :: w) block.reverse).reverse

/-- A round with its constant and its word. -/
def shaRound (h : List Word) (q : Word × Word) : List Word :=
  let x := fun (k : Nat) => h.getD k 0
  let ch := (x 4 &&& x 5) ^^^ (~~~(x 4) &&& x 6)
  let maj := (x 0 &&& x 1) ^^^ (x 0 &&& x 2) ^^^ (x 1 &&& x 2)
  let t1 := x 7 + shaBig 14 18 41 (x 4) + ch + q.1 + q.2
  let t2 := shaBig 28 34 39 (x 0) + maj
  [t1 + t2, x 0, x 1, x 2, x 3 + t1, x 4, x 5, x 6]

/-- The hash after a block. -/
def shaBlock (h block : List Word) : List Word :=
  (h.zip ((shaRounds.zip (shaSchedule block)).foldl shaRound h)).map fun q => q.1 + q.2

/-- A number as n bytes, the most significant first. -/
def bigEndian (n v : Nat) : List Byte := (List.range n).map fun k => BitVec.ofNat 8 (v / 256 ^ (n - 1 - k))

/-- The number of bytes, the most significant first. -/
def bigNat (l : List Byte) : Nat := l.foldl (fun v b => v * 256 + b.toNat) 0

/-- A message padded to whole blocks of 128 bytes. -/
def shaPad (m : List Byte) : List Byte :=
  m ++ [0x80] ++ List.replicate ((239 - m.length % 128) % 128) 0 ++ bigEndian 16 (8 * m.length)

/-- The hash after n blocks of a message. -/
def shaBlocks : Nat → List Byte → List Word → List Word
  | 0, _, h => h
  | n + 1, m, h =>
    shaBlocks n (m.drop 128) (shaBlock h ((List.range 16).map fun k => BitVec.ofNat 64 (bigNat ((m.drop (8 * k)).take 8))))

/-- SHA-384: the 48 bytes of the digest of a message. -/
def sha384 (m : List Byte) : List Byte :=
  let p := shaPad m
  ((shaBlocks (p.length / 128) p shaStart).take 6).flatMap fun w => bigEndian 8 w.toNat

end Sys2Proof.Machine
end

