-- ==== Sys2Proof/Machine/Boot.lean ====
section
/-!
DEFINITION. Reset, boot, launch, power and the host port (01 R32, R40 to R44; 11 R336 to R347; 15 R393; 16 R434).
-/

namespace Sys2Proof.Machine

/-! Reset (R336) -/

/-- What a reset leaves of a die: the flash image with its repair map. -/
def DieSt.afterReset (x : DieSt) : DieSt :=
  { boot := { flash := x.boot.flash, repairs := x.boot.repairs, repairSigs := x.boot.repairSigs } }

/-- MODULE_RESET: every register and every unit has its reset value, and every full/empty bit is empty; what memory
stores, the flash image and what has left the panel stay (log entry 21). -/
def execModuleReset (s : State) : Result :=
  let maps := s.dies.map fun e => (e.1, e.2.afterReset)
  .next { State.resetOf s.standalone s.straps with
    tick := s.tick, inputs := s.inputs, nextId := s.nextId, mem := s.mem, poison := s.poison, hostOut := s.hostOut,
    dies := maps.foldl (fun t e => tblSet {} e.1 e.2 t) [] }

/-- PERST: the module reset of an HK-4S (R1); on an HK-4M the host port's window registers and what waits at it only. -/
def execPerst (s : State) : Result :=
  if s.standalone then execModuleReset s
  else .next (s.modDie s.ev.die fun x => { x with wins := [], hostQueue := [] })

/-! Boot (R337, R340 to R342, R434) -/

/-- BOOTERR (Table 16-10). -/
def bootErr (stage unit code : Nat) : BitVec 16 := BitVec.ofNat 8 code ++ BitVec.ofNat 4 unit ++ BitVec.ofNat 4 stage

/-- The code of a link that failed its training, the only one that is not fatal. -/
def linkCode : Nat := 6

/-- Whether a boot fault keeps a die in its boot ROM. -/
def BootSt.fatal (b : BootSt) : Bool := b.err != 0 && (b.err.extractLsb' 8 8).toNat != linkCode

/-- Records a boot fault; the first one stays. -/
def BootSt.fail (b : BootSt) (stage unit code : Nat) : BootSt :=
  if b.err = 0 then { b with err := bootErr stage unit code } else b

/-- Sets READY bits. -/
def BootSt.setReady (b : BootSt) (m : BitVec 27) : BootSt := { b with ready := b.ready ||| m }

def State.modBoot (s : State) (d : Die) (f : BootSt → BootSt) : State := s.modDie d fun x => { x with boot := f x.boot }

/-- A number in the flash image: 8 bytes, the least significant first (DEDUCED, log entry 13). -/
def flashNum (img : List Byte) (o : Nat) : Nat := bytesNat ((img.drop o).take 8)

/-- The public keys in the header of a flash image, and the signatures behind its signed part (Table 11-3). -/
def flashKeys (img : List Byte) : List Byte × List Byte := ((img.drop 0x40).take 32, (img.drop 0x60).take 1952)
def flashSigs (img : List Byte) : List Byte × List Byte :=
  let e := flashNum img 0x10
  ((img.drop e).take 64, (img.drop (e + 64)).take 3309)

/-- The helper data of a flash image. -/
def flashHelper (img : List Byte) : List Byte := img.drop (flashNum img 0x20)

/-- Why a flash image is not accepted: the code of Table 16-10 for the first key that does not match its digest, or whose signature of
bytes 0 to FWEND − 1 does not verify (R340). -/
def imageError (img : List Byte) : Option Nat :=
  let keys := flashKeys img
  let sigs := flashSigs img
  let body := img.take (flashNum img 0x10)
  if sha384 keys.1 != Config.romDigests.1 || !Config.ed25519Verifies keys.1 body sigs.1 then some 1
  else if sha384 keys.2 != Config.romDigests.2 || !Config.mldsaVerifies keys.2 body sigs.2 then some 2
  else none

/-- IMAGE_VERIFY (R340). -/
def execImageVerify (s : State) : Result :=
  .next <| s.modBoot s.ev.die fun b =>
    if b.stage != 0 || b.fatal then b
    else
      match imageError b.flash with
      | some code => b.fail 1 0 code
      | none => { b with stage := 1 }

/-- DEVID of a device secret (R341): the first 16 bytes of the digest of its two public keys, Ed25519 first (DEDUCED, log entry 13). -/
def deviceId (secret : BitVec 256) : BitVec 128 :=
  let keys := Config.deviceKeys secret
  BitVec.ofNat 128 (bytesNat ((sha384 (keys.1 ++ keys.2)).take 16))

/-- IDENTITY_DERIVE (R341). -/
def execIdentityDerive (s : State) : Result :=
  let d := s.ev.die
  .next <| s.modBoot d fun b =>
    if b.stage != 1 || b.fatal then b
    else
      match Config.pufSecret d (flashHelper b.flash) with
      | none => b.fail 2 0 3
      | some secret => { b.setReady (1 <<< 25) with stage := 2, devid := deviceId secret }

/-! The repair map (R342) -/

/-- The 8 bytes of an entry of the repair map. -/
def repairWord (e : RepairEntry) : Word := 0#45 ++ e.sub ++ e.unit ++ e.kind

/-- The bytes of a repair map. -/
def repairBytes (l : List RepairEntry) : List Byte := l.flatMap fun e => bytesOfWord 8 (repairWord e)

/-- Writes the repair map of a die, with both signatures of its own key pair. -/
def State.writeRepairs (s : State) (d : Die) (l : List RepairEntry) : State :=
  s.modBoot d fun b =>
    let sigs := match Config.pufSecret d (flashHelper b.flash) with
      | some secret => Config.deviceSigns secret (repairBytes l)
      | none => b.repairSigs
    { b with repairs := l, repairSigs := sigs }

/-- The core that an entry of the repair map retires whole: a listed one, or that of a retired slot 15 or bank 7. -/
def lostCore (e : RepairEntry) : Option CoreNo :=
  match e.kind.toNat with
  | 1 => if e.sub == 15 then some e.unit else none
  | 2 => if e.sub == 7 then some e.unit else none
  | 3 => some e.unit
  | _ => none

/-- Retires the unit of an entry (R342). -/
def State.retireUnit (s : State) (d : Die) (e : RepairEntry) : State :=
  let h : ShedNo := e.unit.extractLsb' 0 9
  let slots := fun (m : BitVec 16) => s.modCore d e.unit fun c => { c with rslot := c.rslot ||| m }
  let s := match e.kind.toNat with
    | 1 => slots (1 <<< e.sub.toNat)
    | 2 => slots (3 <<< (2 * (e.sub.toNat % 8)))
    | _ => s
  match lostCore e with
  | some c => s.modCore d c fun x => { x with retired := true }
  | none =>
    match e.kind.toNat with
    | 4 => s.modShed d h fun x => { x with retired := true }
    | 5 => s.modShed d h fun x => { x with retiredMacros := x.retiredMacros ||| (1 <<< (e.sub.toNat % 8)) }
    | 6 => s.modHart d (e.unit.extractLsb' 0 6) fun x => { x with retired := true }
    | _ => s

/-- Adds entries to the repair map. -/
def addRepairs (old new : List RepairEntry) : List RepairEntry := old ++ new.filter fun e => !old.contains e

/-- Adds an entry to the repair map of a die. -/
def State.noteRepair (s : State) (d : Die) (e : RepairEntry) : State :=
  s.writeRepairs d (addRepairs (s.die d).boot.repairs [e])

/-- The READY bits of stage 3: SHEDS, SKEINS, BH, HQ. -/
def stage3Ready : BitVec 27 := 0xf <<< 14

/-- SELF_TEST (R342): every listed unit and every one that failed is retired; without core 0 the die does not boot. -/
def execSelfTest (s : State) : Result :=
  let d := s.ev.die
  .next <|
    match s.ev.load with
    | .repairs l =>
      let b := (s.die d).boot
      if b.stage != 2 || b.fatal then s
      else
        let map := addRepairs b.repairs l
        let s := map.foldl (fun s e => s.retireUnit d e) s
        let lost := map.any fun e => lostCore e == some 0
        let s := if map == b.repairs then s else s.writeRepairs d map
        s.modBoot d fun b =>
          if lost then b.fail 3 0 4 else { b.setReady stage3Ready with stage := 3 }
    | _ => s

/-- The lowest bit that is 0. -/
def lowestClear {n : Nat} (v : BitVec n) : Nat := ((List.range n).find? fun i => !v.getLsbD i).getD 0

/-- The lowest bit that is 1. -/
def lowestSet {n : Nat} (v : BitVec n) : Nat := ((List.range n).find? fun i => v.getLsbD i).getD 0

/-- Whether an address lies in the HBM of a die. -/
def inHbm (d : Die) (pa : Nat) : Bool := paDie pa == d && paSpace pa == 0

/-- HBM_TRAINING_DONE: the stacks that trained are ready, their full/empty bits empty and every key slot bypass; a stack
that failed is fatal to the die. -/
def execHbmTrainingDone (s : State) : Result :=
  let d := s.ev.die
  .next <|
    match s.ev.load with
    | .stacks ok =>
      let b := (s.die d).boot
      if b.stage != 3 || b.fatal || b.trained then s
      else
        let s := { s with full := s.full.filter fun pa => !inHbm d pa }
        let s := s.modDie d fun x => { x with keys := [] }
        s.modBoot d fun b =>
          let b := b.setReady (ok.zeroExtend 27)
          if ok == BitVec.allOnes 12 then { b.setReady (3 <<< 12) with trained := true }
          else b.fail 4 (lowestClear ok) 5
    | _ => s

/-- LINK_TRAINING_DONE: the links that are up, none on an HK-4S (R1, R339), and the host port; on a die that a boot fault holds, the host port only. -/
def execLinkTrainingDone (s : State) : Result :=
  let d := s.ev.die
  .next <|
    match s.ev.load with
    | .links up failed pcie =>
      let b := (s.die d).boot
      let up := if s.standalone then 0 else up
      let port := fun (b : BootSt) => if pcie then { b.setReady (1 <<< 23) with hostPort := true } else b
      if b.fatal then s.modBoot d port
      else if b.stage != 3 || b.linked then s
      else
        let s := s.modDie d fun x =>
          { x with links := (List.range 4).foldl (fun t k =>
              tblSet {} k { (tblGet {} k t : LinkSt) with state := if up.getLsbD k then .up else .down } t) x.links }
        s.modBoot d fun b =>
          let b := port { b.setReady (up.zeroExtend 27 <<< 19) with linked := true }
          if failed = 0 then b else b.fail 5 (lowestSet failed) linkCode
    | _ => s

/-! Panel formation (R32, R343) -/

/-- The good positions below one, in the order of logical numbers. -/
def goodBelow (good : BitVec 64) (p : Nat) : Nat := ((List.range p).filter fun k => good.getLsbD k).length

/-- The position of the panel root: the lowest good one with a live host port, otherwise the lowest good one. -/
def rootPosition (good hosts : BitVec 64) : Nat :=
  if good &&& hosts = 0 then lowestSet good else lowestSet (good &&& hosts)

/-- The position py x 8 + px of a die: its carrier straps; that of an HK-4S is (0, 0) (R1). -/
def State.place8 (s : State) (d : Die) : Nat := if s.standalone then 0 else ((tblGet none d.toNat s.straps).getD d).toNat

/-- Whether a die has completed stage 5, so that it is not a dead position (R32). -/
def State.probes (s : State) (d : Die) : Bool := let b := (s.die d).boot; b.linked && !b.fatal

/-- The dies that share a live link with a die, whose windows can join them (R31, R32, R343): both ends of the link are up. -/
def State.joined (s : State) (d : Die) : List Die :=
  let p := s.place8 d
  let at' := fun (q : Nat) (l back : Nat) =>
    (s.dies.filter fun e =>
      let c : Die := BitVec.ofNat 6 e.1
      s.place8 c == q && s.probes c && (s.link d l).state == .up && (s.link c back).state == .up).map
        fun e => (BitVec.ofNat 6 e.1 : Die)
  (if 8 ≤ p then at' (p - 8) 0 2 else []) ++ (if p % 8 < 7 then at' (p + 1) 1 3 else [])
    ++ (if p / 8 < 7 then at' (p + 8) 2 0 else []) ++ if 0 < p % 8 then at' (p - 1) 3 1 else []

/-- The dies whose positions reach a die by n hops of the probe flood (R343). -/
def State.probed (s : State) : Nat → List Die → List Die
  | 0, l => l
  | n + 1, l => s.probed n (l ++ ((l.flatMap s.joined).filter fun d => !l.contains d).eraseDups)

/-- The positions of dies, bit py x 8 + px. -/
def State.positions (s : State) (l : List Die) : BitVec 64 := l.foldl (fun m d => m ||| (1 <<< s.place8 d)) 0

/-- Whether a path may stand in a slot of a route table (R38): at most 18 hops, and on a normal path every W hop before every other,
but where the escape path stands there. -/
def pathOk (e : RouteEntry) (p : Path) : Bool :=
  let hops := (List.range p.hops.toNat).map fun k => (p.turns.extractLsb' (2 * k) 2).toNat
  p.hops.toNat ≤ 18 && (e.esc == some p || (!p.esc && (hops.dropWhile (· == 3)).all (· != 3)))

/-- Whether a route table obeys R38. -/
def routesOk (l : List RouteEntry) : Bool :=
  l.all fun e => e.norm0.all (pathOk e) && e.norm1.all (pathOk e) && e.esc.all fun p => p.hops.toNat ≤ 18

/-- PROBE_WINDOW_END (R32, R343): the good positions are those that the flood over live links has brought; from them the die derives
its number and the root, and its cores have their route tables, which firmware writes. A die whose neighbours have ended their
windows without it stays out. A state numbers its dies as the panel does (log entry 7). -/
def execProbeWindowEnd (s : State) : Result :=
  let d := s.ev.die
  .next <|
    match s.ev.load with
    | .probe p =>
      let b := (s.die d).boot
      let place := s.place8 d
      let all := s.probed 63 [d]
      let good := s.positions all
      let hosts := s.positions (all.filter fun e => (s.die e).boot.hostPort)
      let late := all.any fun e => (s.die e).boot.present && (s.die e).boot.good != good
      if !s.probes d || b.present || late || goodBelow good place != d.toNat
          || !routesOk p.routes || p.coreRoutes.any (fun e => !routesOk e.2) then s
      else
        let s := s.modDie d fun x =>
          { x with
            routes := p.routes
            boot :=
              { x.boot.setReady (1 <<< 24) with
                px := BitVec.ofNat 3 place, py := BitVec.ofNat 3 (place / 8), die := d, good, solo := s.standalone,
                present := true, root := rootPosition good hosts == place } }
        p.coreRoutes.foldl (fun s e => s.modCore d e.1 fun c => { c with routes := some e.2 }) s
    | _ => s

/-! Launch rings and completions (R73, R344, R345) -/

/-- The dispatch thread of a ring starts in the supervisor slot of its core, with the ring's BASE as its argument. -/
def State.startDispatch (s : State) (d : Die) (r : RingInit) : State :=
  let i : SlotId := ⟨d, r.core, 15⟩
  if r.slots = 0 || (s.core d r.core).retired || (s.slot i).state != .free then s
  else s.startThread i r.pc (r.base.zeroExtend 64) ⟨0, 0, 0, false⟩

/-- Whether the dispatch thread of a ring is parked on SEQ of slot 0. -/
def State.ringParked (s : State) (d : Die) (r : Ring) : Bool :=
  s.accs.any fun a =>
    (a.stage == .parked || a.stage == .polling) && a.pa == r.base.toNat + seqOffset
      && match a.agent with
        | .slot i _ => i == ⟨d, r.core, 15⟩
        | .node _ _ _ _ => false

/-- Stage 7 writes the address contexts of a die. -/
def State.writeContexts (s : State) (d : Die) (l : List CtxInit) : State :=
  l.foldl (fun s c =>
    (s.writeControl d (0x40000 + 16 * c.ctx.toNat) c.table true).writeControl d (0x40008 + 16 * c.ctx.toNat) c.mode true) s

/-- Stage 7 writes draft version 0 and HDCTL.EN. -/
def State.writeDraft0 (s : State) (d : Die) (l : List (BitVec 12 × Word)) : State :=
  s.modDie d fun x =>
    { x with
      boot := x.boot.setReady (1 <<< 18)
      heddle :=
        { x.heddle with
          en := true, windowStart := s.aclk, cur := 0, ost := 0, oths := []
          curs := l.foldl (fun t e => tblSet 0 e.1.toNat e.2 t) [] } }

/-- Whether a die of the panel counts under another draft than one to be written: every die has the same (10 R320). -/
def State.draftDiffers (s : State) (d : Die) (l : List (BitVec 12 × Word)) : Bool :=
  let curs : Tbl Word := l.foldl (fun t e => tblSet 0 e.1.toNat e.2 t) []
  s.dies.any fun e => e.1 != d.toNat && e.2.boot.present && e.2.heddle.en && e.2.heddle.cur == 0 && e.2.heddle.curs != curs

/-- LAUNCH_RINGS_READY (R337, stage 7): firmware writes the address contexts, draft version 0, HDCTL.EN and the launch rings, and the
dispatch threads start; LAUNCH is set once every one is parked on slot 0 of its ring. -/
def execLaunchRingsReady (s : State) : Result :=
  let d := s.ev.die
  let x := s.die d
  .next <|
    if !x.boot.ready.getLsbD 24 || !x.boot.trained || x.boot.fatal then s
    else if x.boot.ready.getLsbD 18 then
      if x.boot.rings.all fun e => e.2.slots == 0 || s.ringParked d e.2 then s.modBoot d (·.setReady (1 <<< 26)) else s
    else
      match s.ev.load with
      | .rings l ctxs draft =>
        if s.draftDiffers d draft then s
        else
          let rings : Tbl Ring := (l.take 4).zipIdx.foldl (fun t r => tblSet {} r.2 ⟨r.1.base, r.1.slots, r.1.core⟩ t) []
          let s := ((s.writeContexts d ctxs).writeDraft0 d draft).modBoot d fun b => { b with rings }
          (l.take 4).foldl (fun s r => s.startDispatch d r) s
      | _ => s

/-- Whether the accesses that the dispatch thread of a ring has started are performed: its write of the record is a release at h
(05 R166). -/
def State.dispatchReleases (s : State) (d : Die) (r : Ring) : Bool :=
  let i : SlotId := ⟨d, r.core, 15⟩
  s.released (some (i, (s.slot i).inc)) s.nextId

/-- LAUNCH_COMPLETION (R345, R388): the dispatch thread completes a launch it has accepted: the record leaves through the host port
that serves the die, and then the vector. Without such a port nothing leaves (R32). -/
def execLaunchCompletion (s : State) : Result :=
  let d := s.ev.die
  .next <|
    match s.ev.load with
    | .launch l =>
      match (s.die d).launches.find? fun q => q.level == l.level && q.slot == l.ringSlot with
      | some q =>
        if !s.statusFits d q l.loom l.status || !s.dispatchReleases d (tblGet {} l.level.toNat (s.die d).boot.rings) then s
        else
          let now := s.aclk
          let s := s.modDie d fun x => { x with launches := x.launches.erase q }
          match s.hostDie d with
          | some h =>
            let s := { s with hostOut := s.hostOut ++ [.record h (q.word 0x38) (completionRecord q l.status now)] }
            if (q.word 0x40).getLsbD 8 then s.msix d ((q.word 0x40).extractLsb' 0 8) else s
          | none => s
      | none => s
    | _ => s

/-! Power (R347) -/

/-- DUTY of a row at the end of a millisecond. -/
def dutyNext (pwr cap die hbm pkg duty : Nat) : Nat :=
  if cap < pwr || pkg * 16 < die + hbm then max (duty - 1) 4
  else if pwr < cap * 15 / 16 && die + hbm ≤ pkg * 15 then min (duty + 1) 16
  else duty

/-- POWER_DUTY_UPDATE: the averages of the last millisecond, and each row's DUTY. -/
def execPowerDutyUpdate (s : State) : Result :=
  .next <|
    match s.ev.load with
    | .power m =>
      s.modDie s.ev.die fun x =>
        let row := fun (p : Nat) =>
          let r : PowerRow := tblGet {} p x.power
          let pwr := m.rows.getD p 0
          { r with
            pwr := pwr
            duty := BitVec.ofNat 5 (dutyNext pwr.toNat r.cap.toNat m.die.toNat m.hbm.toNat x.pkgcap.toNat r.duty.toNat) }
        { x with power := (List.range 16).foldl (fun t p => tblSet {} p (row p) t) x.power
                 diePower := m.die, hbmPower := m.hbm, vcore := m.vcore, tmax := m.tmax }
    | _ => s

/-! The host port (R41 to R44, R393) -/

/-- A host access that has passed its checks enters the device. -/
def State.admitHost (s : State) (d : Die) (r : HostReq) : State :=
  s.modDie d fun x => { x with hostQueue := x.hostQueue ++ [r] }

/-- A read that reaches no unit is answered in the order of the port's reads (R166). -/
def State.answerHost (s : State) (d : Die) (v : Option (List Byte)) : State :=
  s.admitHost d { pa := 0, key := 0, fill := false, data := none, n := 0, fixed := some v }

/-- Counts what the host port cannot serve; a read is answered with Unsupported Request. -/
def State.refuseHost (s : State) (d : Die) (cause : Byte) (read : Bool) : State :=
  let s := s.countNotify d .hostPort cause
  if read then s.answerHost d none else s

/-- Writes bytes plainly, double by double (R43). -/
def State.hostWrite (s : State) (key : Byte) (pa : Nat) (bs : List Byte) : State :=
  (cutBytes pa bs).foldl (fun s c => s.plainWrite key c.1 c.2.length (wordOfBytes c.2)) s

/-- Registers that a host write of aligned doubles covers, which is not privileged. -/
def State.hostRegisters (s : State) (d : Die) : Nat → List Byte → Nat → State
  | _, _, 0 => s
  | o, bs, n + 1 => (s.writeRegister d o (wordOfBytes (bs.take 8)) false).hostRegisters d (o + 8) (bs.drop 8) n

/-- The bytes that a host read of registers returns. -/
def State.hostReadRegisters (s : State) (d : Die) (o : Nat) : Nat → List Byte × State
  | 0 => ([], s)
  | n + 1 =>
    let r := s.hostReadRegisters d o n
    let q := r.2.readRegister d (o + 8 * n)
    (r.1 ++ bytesOfWord 8 q.1, q.2)

/-- Performs a host access. -/
def State.performHost (s : State) (d : Die) (r : HostReq) : State :=
  let o := paOffset r.pa
  match r.data with
  | some bs =>
    if paSpace r.pa == 2 then
      if r.pa % 8 = 0 then s.hostRegisters (paDie r.pa) o bs (bs.length / 8) else s
    else if r.fill then
      { s with hostFull := setAdd (doubleOf r.pa) s.hostFull }.fillDouble r.key r.pa (wordOfBytes bs)
    else s.hostWrite r.key r.pa bs
  | none =>
    let answer := fun (s : State) (v : Option (List Byte)) => { s with hostOut := s.hostOut ++ [HostOut.answer d v] }
    if r.fixed.isSome then answer s (r.fixed.getD none)
    else if paSpace r.pa == 2 then
      let off := o % 8
      let q := s.hostReadRegisters (paDie r.pa) (o - off) ((off + r.n + 7) / 8)
      answer q.2 (some ((q.1.drop off).take r.n))
    else if (List.range r.n).any fun k => s.isPoisoned (r.pa + k) then answer s none
    else answer s (some (s.readBytes r.key r.pa r.n))

/-- Performs the accesses at the head of a host port's queue whose units are ready, in order (R44, R339). -/
def State.drainHost (s : State) (d : Die) : Nat → State
  | 0 => s
  | n + 1 =>
    match (s.die d).hostQueue with
    | r :: rest =>
      if r.fixed.isSome || s.unitsReady d r.pa then ((s.modDie d fun x => { x with hostQueue := rest }).performHost d r).drainHost d n else s
    | [] => s

/-- The checks of an access of n bytes at an offset of a window (R393). -/
def State.hostAccess (s : State) (d : Die) (win : BitVec 4) (o : BitVec 32) (fill : Bool) (data : Option (List Byte)) (n : Nat) :
    State :=
  let w : HostWin := tblGet {} win.toNat (s.die d).wins
  let pa := (w.base ++ o).toNat
  let read := data.isNone
  if fill && !read && (o.toNat % 8 != 0 || n != 8) then s.refuseHost d 0x2e read
  else if !w.en then s.refuseHost d 0x2d read
  else if (s.badPa d pa).isSome || (s.badPa d (pa + (n - 1))).isSome then s.refuseHost d 0x26 read
  else s.admitHost d { pa, key := w.key, fill, data, n }

/-- A host event: with an access it passes the port's checks; the port's queue then goes on. -/
def hostEvent (fill : Bool) (s : State) : Result :=
  let d := s.ev.die
  .next <|
    if !(s.die d).boot.hostPort then s
    else
      let s := match s.ev.load with
        | .hostWrite win o data => s.hostAccess d win o fill (some data) data.length
        | .hostRead win o n => s.hostAccess d win o fill none n
        | _ => s
      s.drainHost d (s.die d).hostQueue.length

def execHostDirectWrite (s : State) : Result := hostEvent false s
def execHostDirectRead (s : State) : Result := hostEvent false s
def execFillAliasWrite (s : State) : Result := hostEvent true s
def execFillAliasRead (s : State) : Result := hostEvent true s

/-- BAR0_ACCESS (R41, R393): a register of the die that owns the port; a reserved offset reads zero and ignores writes. -/
def execBar0Access (s : State) : Result :=
  let d := s.ev.die
  .next <|
    if !(s.die d).boot.hostPort then s
    else
      let s := match s.ev.load with
        | .bar0 o data =>
          let pa := paOf d 2 o.toNat
          let data := data.map (bytesOfWord 8)
          if regBlock o.toNat then s.admitHost d { pa, key := 0, fill := false, data, n := 8 }
          else if data.isNone then s.answerHost d (some (bytesOfWord 8 0))
          else s
        | _ => s
      s.drainHost d (s.die d).hostQueue.length

end Sys2Proof.Machine
end

