-- ==== Sys2Proof/Machine/Control.lean ====
section
/-!
DEFINITION. Control flow: ILL, the conditional branches, JAL, JALR and BNZD (07 R222 to R225).
-/

namespace Sys2Proof.Machine

/-- 4 × SignExtend(imm, 64). -/
def wordsAhead {n : Nat} (i : BitVec n) : Word := imm64 i * 4

/-- The slot goes on at an address. -/
def State.jump (t : State) (pc : Word) : State := (t.modSlot t.cur fun x => { x with pc }).wake t.cur

/-- ILL (R222): trap ILLEGAL, sub-cause 2 (14 Table 14-3). -/
def execIll (s : State) : Result := s.perform (.trap 0x01 2 0 0)

/-- A conditional branch (R223). -/
def branch (cond : Word → Word → Bool) (a b : Reg) (i : BitVec 13) (s : State) : Result :=
  s.issue [a, b] [] fun v t =>
    if cond (v.getD 0 0) (v.getD 1 0) then .go (t.jump ((t.slot t.cur).pc + wordsAhead i)) else .go t.advance

def execBeq (a b : Reg) (i : BitVec 13) (s : State) : Result := branch (fun x y => x == y) a b i s
def execBne (a b : Reg) (i : BitVec 13) (s : State) : Result := branch (fun x y => x != y) a b i s
def execBlt (a b : Reg) (i : BitVec 13) (s : State) : Result := branch (fun x y => x.slt y) a b i s
def execBge (a b : Reg) (i : BitVec 13) (s : State) : Result := branch (fun x y => !x.slt y) a b i s
def execBltu (a b : Reg) (i : BitVec 13) (s : State) : Result := branch (fun x y => x.ult y) a b i s
def execBgeu (a b : Reg) (i : BitVec 13) (s : State) : Result := branch (fun x y => !x.ult y) a b i s

/-- JAL (R224). -/
def execJal (d : Reg) (i : BitVec 19) (s : State) : Result :=
  s.issue [] [d] fun _ t =>
    let pc := (t.slot t.cur).pc
    .go ((t.writeReg t.cur d (pc + 4)).jump (pc + wordsAhead i))

/-- JALR (R224): rs1 is read before rd is written. -/
def execJalr (d a : Reg) (i : BitVec 13) (s : State) : Result :=
  s.issue [a] [d] fun v t =>
    let pc := (t.slot t.cur).pc
    let dest := (v.getD 0 0 + imm64 i) &&& ~~~3#64
    .go ((t.writeReg t.cur d (pc + 4)).jump dest)

/-- BNZD (R225). -/
def execBnzd (a : Reg) (i : BitVec 13) (s : State) : Result :=
  s.issue [a] [a] fun v t =>
    let x := v.getD 0 0 - 1
    let t := t.writeReg t.cur a x
    .go (if x != 0 then t.jump ((t.slot t.cur).pc + wordsAhead i) else t.advance)

end Sys2Proof.Machine
end

