-- ==== Sys2Proof/Machine/NodeMem.lean ====
section
/-!
DEFINITION. Graph memory nodes and the update-unit node (07 R229, R232; 08 R240, R252; 15 R392): a firing starts an
access, and its completion delivers the tokens. What the access does at its home is in Home.lean.
-/

namespace Sys2Proof.Machine

/-- What a memory node accesses: the operation, log2 of its size, and whether it reads the right port. -/
structure NodeOp where
  op : MemOp
  log2 : Nat
  right : Bool

def loadNodeOp (o : LoadOp) : NodeOp := ⟨.load o, loadLog2 o, false⟩
def storeNodeOp (o : StoreOp) : NodeOp := ⟨.store o, storeLog2 o, true⟩
def feNodeOp (o : FeOp) : NodeOp := ⟨.fe o, 3, o == .put || o == .fill⟩

/-- An update-unit operation of a PE's format: 4 or 8 bytes (R252). -/
def updNodeOp (o : UpdOp) (f : Fmt) : NodeOp := ⟨.upd o (f.width / 8), if f.width = 64 then 3 else 2, true⟩

/-- The access of a firing. -/
def View.access (v : View) (s : State) (o : NodeOp) (sc : Scope) (va w : Word) : Access :=
  { id := s.nextId, agent := .node v.d v.h (BitVec.ofNat 6 v.slot) v.ctx, op := o.op, scope := sc, acq := false,
    rel := false, va, ctx := v.x.ctx, phys := false, priv := false, data := w, pc := 0, since := s.aclk,
    firing := v.node.count }

/-- A firing with an address: VARANGE and MISALIGN stop the node (R392); otherwise the access starts. -/
def View.start (v : View) (o : NodeOp) (sc : Scope) (eat : List NodePort) (va w : Word) : Fired :=
  let node := { v.node with count := v.node.count + 1 }
  let bad : Option Byte :=
    if 2 ^ 57 ≤ va.toNat then some 0x21 else if va.toNat % 2 ^ o.log2 != 0 then some 0x20 else none
  match bad with
  | some cause => { eat, node, also := fun s => s.feederFault v.d v.h v.slot (v.slot - 56) cause }
  | none =>
    { eat, node,
      also := fun s => { s with accs := s.accs ++ [v.access s o sc va w], nextId := s.nextId + 1 } }

/-- The word a data port of a memory node gives: an order token's payload is ignored (R51); a port that is not wired
gives a free value (log entry 44). -/
def View.word (v : View) (q : NodePort) : Word :=
  match v.op q with
  | some k => if k.kind == kindOrder then 0 else k.payload
  | none => Config.freeWord v.s.tick

/-- The first wired port of a list that holds no data or order token, and what is to be done with its token. -/
def View.lacks (v : View) : List NodePort → Option (Option Fired)
  | [] => none
  | q :: qs =>
    if !v.wired q then v.lacks qs
    else
      match v.op q with
      | none => some none
      | some k => if k.isData then v.lacks qs else some (v.drop q)

/-- A memory node. -/
def memNode (o : NodeOp) (sc : Scope) (v : View) : Option Fired :=
  match v.op .l with
  | none => firstOf [v.skip .r, v.skip .o]
  | some l =>
    if l.isScale then v.drop .l
    else if l.isControl then v.forward l
    else
      let ports : List NodePort := if o.right then [.r, .o] else [.o]
      match v.lacks ports with
      | some f => f
      | none => some (v.start o sc (.l :: ports.filter v.wired) (v.word .l) (if o.right then v.word .r else 0))

def execGraphLoadNode (o : LoadOp) (t u : Target) (s : State) : Result := .next (s.fire t u (memNode (loadNodeOp o) .s))
def execGraphStoreNode (o : StoreOp) (t u : Target) (s : State) : Result :=
  .next (s.fire t u (memNode (storeNodeOp o) .s))
def execGraphFeNode (sc : Scope) (o : FeOp) (t u : Target) (s : State) : Result :=
  .next (s.fire t u (memNode (feNodeOp o) sc))
def execUpd (o : UpdOp) (t u : Target) (s : State) : Result :=
  .next (s.fire t u fun v => memNode (updNodeOp o v.fmt) .s v)

/-! Completion -/

/-- The tokens of a completed firing (R229, R232, R252). -/
def completionTokens (a : Access) (c : BitVec 2) (t u : Target) : List OutTok :=
  let done := orderTok c 0
  let val := dataTok c a.result
  match a.op with
  | .load _ | .fe .lde | .fe .take | .fe .festat | .upd _ _ => [⟨t, val⟩, ⟨u, done⟩]
  | .fe .trytake => [⟨t, if a.ok then val else dataTok c 0⟩, ⟨u, dataTok c (if a.ok then 1 else 0)⟩]
  | _ => [⟨t, done⟩, ⟨u, done⟩]

/-- Whether an earlier firing keeps back the tokens of a later one: the firings of one context deliver in order, those
of an update-unit node under arrival-restored order in the order of the port, and under reordered order as they
complete (R232, R252). -/
def State.deliversBefore (s : State) (d : Die) (h : ShedNo) (e a : Access) : Bool :=
  if isUpd a.op then !(s.shed d h).updReordered && sameNode e a else e.agent == a.agent

/-- MEMORY_NODE_COMPLETION (R229): the tokens of a performed access go to its node's targets. -/
def execMemoryNodeCompletion (s : State) : Result :=
  .next <|
    match s.access s.ev.id with
    | some a =>
      match a.agent with
      | .node d h n c =>
        if a.stage != .done || !(earlier (s.deliversBefore d h · a) a s.accs).isEmpty then s
        else
          let x := s.shed d h
          let s := s.dropAccess a.id
          let w := tblGet 0 n.toNat x.words
          match target (w.extractLsb' 9 9), target (w.extractLsb' 0 9) with
          | some t, some u =>
            if x.stopped n.toNat || !x.fires then s else s.emit d h n.toNat (completionTokens a c t u)
          | _, _ => s
      | .slot _ _ => s
    | none => s

end Sys2Proof.Machine
end

