-- ==== Sys2Proof/Machine/Home.lean ====
section
/-!
DEFINITION. What becomes of an access (04 R113 to R119, R137; 07 R226 to R235; 08 R252; 09 R290; 15 R394 to R407): its walk,
its operation at the home bank, waiting there, and its completion.
-/

namespace Sys2Proof.Machine

/-! The walk -/

/-- Whether an access is a load or store of a double, the only ones a device register takes (R136). -/
def isRegOp (o : MemOp) : Bool := o == .load .d || o == .store .d

/-- Where the address of an access leads. -/
def State.accessReach (s : State) (a : Access) : Reach :=
  match a.agent with
  | .slot i _ => s.reach i a.va (opNeed a.op) (isRegOp a.op) a.fresh
  | .node d h _ _ => s.feederReach d h a.va (opNeed a.op) (isRegOp a.op) a.fresh

/-- The die of the agent of an access. -/
def Access.die (a : Access) : Die :=
  match a.agent with
  | .slot i _ => i.die
  | .node d _ _ _ => d

/-- The outcome of a fault found by the walk of an access (R394). -/
def State.holdAccess (s : State) (a : Access) (cause sub : Byte) (addr : Word) : Hold :=
  match a.agent with
  | .slot i _ => s.hold i.die (.access a.id) (s.exempt i) cause sub (s.slotFault i 0 (opNeed a.op) addr a.pc)
  | .node d h n c =>
    s.hold d (.access a.id) false cause sub (s.feederInfo d h n (opNeed a.op) addr (0#30 ++ c ++ a.firing))

/-- A slot that waits at the instruction of an access issues on while the access is held (R395). -/
def State.detach (s : State) (a : Access) : State :=
  match a.agent with
  | .slot i inc =>
    if (s.slot i).inc == inc && (s.slot i).await == .access a.id then
      (s.modAccess a.id fun b => { b with detached := true }).wakeNext i
    else s
  | .node _ _ _ _ => s

/-- Whether the finder of a node's faults has one that waits for an entry of the held-fault table: it starts no further access
(R394). -/
def State.finderBlocked (s : State) (a : Access) : Bool :=
  match a.agent with
  | .slot _ _ => false
  | .node d h _ _ => s.feederBusy d h (.access a.id)

/-- A translated access is on its way home; a barrier operation on an object of another die travels on the reed (R290). -/
def State.toHome (s : State) (a : Access) (pa : Nat) (key : Byte) : State :=
  let s := s.unhold a.die (.access a.id)
  let s := s.modAccess a.id fun b => { b with stage := .home, pa, key }
  match a.agent with
  | .slot i _ =>
    if a.op.isBarrier && paDie pa != i.die then
      s.sendReed (.core i.die i.core) (.die (paDie pa)) (.barrier a.id false)
    else s
  | .node _ _ _ _ => s

/-- A translated access goes to a unit that is not ready, and is held there behind those held before (R339). -/
def State.toUnit (s : State) (a : Access) (pa : Nat) (key : Byte) : State :=
  let n := (s.accs.map fun b => b.queued.elim 0 (· + 1)).foldl max 0
  (s.toHome a pa key).modAccess a.id fun b => { b with queued := some n }

/-- Whether the unit an access goes to is ready, and no access held there comes before it (R339). -/
def State.unitTakes (s : State) (a : Access) : Bool :=
  s.unitsReady a.die a.pa && !s.accs.any fun b =>
    b.open && readyUnit b.pa == readyUnit a.pa && b.known &&
      match b.queued, a.queued with
      | some m, some n => m < n
      | some _, none => true
      | none, _ => false

/-- PAGE_WALK (R137): an access is translated; a fault is held, waits for an entry, or fails at once (R394). -/
def execPageWalk (s : State) : Result :=
  .next <|
    match s.access s.ev.id with
    | none => s
    | some a =>
      if a.stage != .walk || s.finderBlocked a then s
      else
        match s.accessReach a with
        | .notReady => s
        | .ok pa key t => t.toHome a pa key
        | .unready pa key t => t.toUnit a pa key
        | .fault cause sub addr =>
          match s.holdAccess a cause sub addr with
          | .held t => (t.modAccess a.id fun b => { b with stage := .held }).detach a
          | .full t => t
          | .failNow t => t.failAccess a cause sub addr

/-! Full/empty operations (R116, R404, R407) -/

/-- What an operation finds at its home: it is done with a value and, for TRYTAKE, its status; it has to park; it meets
ORPHAN or POISON; or it waits for a sector or a unit. -/
inductive AtHome where
  | done (v : Word) (ok : Bool) (s : State)
  | park
  | bad (cause : Byte)
  | wait

/-- Whether the take entry of a double lets a re-run take it again (16 R422). -/
def State.retakes (s : State) (a : Access) : Bool :=
  match a.agent with
  | .slot i _ =>
    (s.slot i).jrec.isSome && s.takes.any fun t => t.pa == doubleOf a.pa && t.redo && t.record == (s.slot i).jrec
  | .node _ _ _ _ => false

/-- The take entry of a double passes to the re-run that takes it again (15 R403). -/
def State.passTake (s : State) (a : Access) : State :=
  { s with takes := s.takes.map fun t => if t.pa == doubleOf a.pa then { t with who := a.agent, redo := false } else t }

/-- A take: the double becomes empty, and an entry is installed. -/
def State.takeDouble (s : State) (a : Access) : State :=
  ((s.setEmpty a.pa).noteTake a.pa a.agent).scanWaiters a.key a.pa

/-- A full/empty operation as one bank operation (R117). -/
def State.feAtHome (s : State) (a : Access) (o : FeOp) : AtHome :=
  let pa := a.pa
  let full := s.isFull pa
  let data := s.readHome a.key pa 8
  let orph := s.orphaned pa
  let bad := s.isPoisoned pa
  match o with
  | .lde | .waitf =>
    if orph then .bad 0x28 else if bad then .bad 0x29 else if full then .done data true s else .park
  | .take =>
    if orph then .bad 0x28 else if bad then .bad 0x29
    else if s.retakes a then .done data true (s.passTake a)
    else if full then .done data true ((s.takeDouble a).acceptLaunch a)
    else .park
  | .trytake =>
    if orph then .bad 0x28 else if bad then .bad 0x29
    else if s.retakes a then .done data true (s.passTake a)
    else if full then .done data true (s.takeDouble a)
    else .done 0 false s
  | .put =>
    if bad then .bad 0x29
    else if full then .park
    else .done 0 true ((((s.writeHome a.key pa 8 a.data).setFull pa).untake pa).scanWaiters a.key pa)
  | .fill => .done 0 true (s.fillDouble a.key pa a.data)
  | .purge =>
    if bad then .bad 0x29 else if orph then .done 0 true s else .done 0 true ((s.setEmpty pa).scanWaiters a.key pa)
  | .festat => if bad then .bad 0x29 else .done (if full && !orph then 1 else 0) true s

/-! Atomics (R233, R234, R252) -/

/-- F of Table 7-12 on n bits. -/
def amoResult (o : AmoOp) (n : Nat) (old v : Word) : Word :=
  let a := BitVec.ofNat n old.toNat
  let b := BitVec.ofNat n v.toNat
  let r : BitVec n := match o with
    | .swap => b
    | .add => a + b
    | .and => a &&& b
    | .or => a ||| b
    | .xor => a ^^^ b
    | .min => if a.slt b then a else b
    | .max => if a.slt b then b else a
    | .maxu => if a.ult b then b else a
  r.zeroExtend 64

/-- An amo. -/
def State.amoAtHome (s : State) (a : Access) (o : AmoOp) (w : Bool) : AtHome :=
  let n := if w then 4 else 8
  if s.isPoisoned a.pa then .bad 0x29
  else
    let old := s.readHome a.key a.pa n
    .done old true (s.writeHome a.key a.pa n (amoResult o (8 * n) old a.data))

/-- A CAS. -/
def State.casAtHome (s : State) (a : Access) (w : Bool) : AtHome :=
  let n := if w then 4 else 8
  if s.isPoisoned a.pa then .bad 0x29
  else
    let old := s.readHome a.key a.pa n
    if BitVec.ofNat (8 * n) old.toNat = BitVec.ofNat (8 * n) a.expect.toNat then
      .done old true (s.writeHome a.key a.pa n a.data)
    else .done old true s

/-- The floating result of an update-unit operation, with its flags and LFSR. -/
def updFloat (x : ShedSt) (slot : Nat) (o : FpOp) (old v : Word) : Word × FpFlags × BitVec 32 :=
  let f := x.fmt slot
  let rm := x.rmOf slot
  let st := tblGet 0 slot x.lfsr
  let st := if o == .fadd then nextLfsr rm st else st
  match fpElem f (roundingOf rm st) o { bits := old } { bits := v } with
  | .bits w fl => (w, fl, st)
  | .twill _ fl => (0, fl, st)

/-- An update-unit operation. -/
def State.updAtHome (s : State) (a : Access) (o : UpdOp) (n : Nat) : AtHome :=
  if s.isPoisoned a.pa then .bad 0x29
  else
    let old := s.readHome a.key a.pa n
    match a.agent, o with
    | _, .int op => .done old true (s.writeHome a.key a.pa n (amoResult op (8 * n) old a.data))
    | .node d h k _, _ =>
      let op : FpOp := match o with
        | .fmin => .fmin
        | .fmax => .fmax
        | _ => .fadd
      let r := updFloat (s.shed d h) k.toNat op old a.data
      let s := (s.modShed d h fun x => { x with lfsr := tblSet 0 k.toNat r.2.2 x.lfsr }).orShedFlags d h r.2.1
      .done old true (s.writeHome a.key a.pa n r.1)
    | .slot _ _, _ => .done old true s

/-! Barriers (R290) -/

/-- Completes a wait on a phase: on the home's die as any waiter, on another die by the reed. -/
def State.wakePhase (s : State) (w : WaitEntry) : State :=
  let home := paDie w.pa
  match w.agent with
  | .slot i _ =>
    if i.die == home then s.completeWaiter w w.data
    else
      let s := { s with waits := s.waits.filter (·.access != w.access) }
      (s.modAccess w.access fun a => { a with result := w.data, stage := .done }).sendReed (.die home)
        (.core i.die i.core) (.barrier w.access true)
  | .node _ _ _ _ => s

/-- Whether either double of a barrier object is poisoned (15 R398). -/
def State.objectPoisoned (s : State) (pa : Nat) : Bool := s.isPoisoned pa || s.isPoisoned (pa + 8)

/-- An arrival, with the waits it completes; whether it completed the phase, and the phase it arrived in. -/
def State.arrival (s : State) (a : Access) : State × BitVec 32 × Bool :=
  let r := s.arriveAt a.key a.pa
  let r := (r.1.noteArrival a r.2.1, r.2)
  if r.2.2 then ((r.1.phaseWaiters a.key a.pa).foldl (·.wakePhase) r.1, r.2.1, true) else r

/-- The phase of an object. -/
def State.phaseOf (s : State) (key : Byte) (pa : Nat) : BitVec 32 := (s.readHome key pa 8).extractLsb' 32 32

/-- A wait for the phase in an access's data. -/
def State.phaseAtHome (s : State) (a : Access) : AtHome :=
  if s.objectPoisoned a.pa then .bad 0x29
  else if phaseDone (s.phaseOf a.key a.pa) (a.data.extractLsb' 0 32) then .done a.data true s
  else .park

/-! The bank operation -/

/-- The operation of an access at its home bank; of an ARRWAIT the wait that follows its arrival. -/
def State.atHome (s : State) (a : Access) : AtHome :=
  match a.op with
  | .load o =>
    let n := 2 ^ loadLog2 o
    match a.agent with
    | .slot i inc =>
      let log := if (s.slot i).inc == inc then (s.slot i).log.take a.data.toNat else []
      match s.loadL1d i.die i.core a.key a.pa n with
      | (some v, t) => .done (extendLoad o (loggedValue log a.pa n v)) true t
      | (none, _) => .bad 0x29
    | .node d h _ _ =>
      if s.feederPoisoned d h a.va.toNat a.pa then .bad 0x29
      else
        match s.feederRead d h a.va.toNat a.pa a.key n with
        | some bs => .done (extendLoad o (wordOfBytes bs)) true s
        | none => .wait
  | .store o =>
    let n := 2 ^ storeLog2 o
    match a.agent with
    | .slot i _ => .done 0 true ((s.plainWrite a.key a.pa n a.data).storeL1d i.die i.core a.pa n a.data)
    | .node d h _ _ =>
      match s.feederWrite d h a.va.toNat a.pa a.key (bytesOfWord n a.data) with
      | some t => .done 0 true t
      | none => .wait
  | .fe o => s.feAtHome a o
  | .amo o w => s.amoAtHome a o w
  | .cas w => s.casAtHome a w
  | .upd o n => s.updAtHome a o n
  | .arrive =>
    if s.objectPoisoned a.pa then .bad 0x29
    else
      let r := s.arrival a
      .done (r.2.1.zeroExtend 64) true r.1
  | .waitPhase | .arriveWait => s.phaseAtHome a
  | .fence => .done 0 true s

/-- The operation of an access to a device register (R113, R167); a kick waits while the hart's queue is full (R402), and a retired hart
makes nothing of it (R342). -/
def State.atRegister (s : State) (a : Access) : AtHome :=
  let d := paDie a.pa
  let o := paOffset a.pa
  match a.op with
  | .load .d =>
    let r := s.readRegister d o
    .done r.1 true r.2
  | _ =>
    match kickHart o, a.agent with
    | some n, .slot i inc =>
      if (s.hart d n).retired then .done 0 true s
      else if (s.hart d n).room then .done 0 true (s.acceptKick d n (kickOf i inc a.data none))
      else .park
    | _, _ => .done 0 true (s.writeRegister d o a.data a.priv)

/-- The access is performed with a value; the thread's later reads are no older than what it did (R146). -/
def State.doneAt (s : State) (a : Access) (v : Word) (ok : Bool) : State :=
  let s := match a.agent, a.op with
    | .slot _ _, .load _ | .slot _ _, .store _ => s
    | .slot i _, _ => (s.dropLine i.die i.core a.pa)
    | .node _ _ _ _, _ => s
  s.modAccess a.id fun b => { b with stage := .done, result := v, ok }

/-- The slot state in which an access parks; a polling one is in PARK-WORD (R405). -/
def parkState (o : MemOp) (room : Bool) : SlotState := if o.isBarrier && room then .parkPhase else .parkWord

/-- An access parks: with a wait entry, or polling while the table is full (R118, R405). WLIM runs from the first attempt. A
slot that has issued on, since its access was held, stays where it is (DESIGN CHOICE, log entry 9). -/
def State.parkAt (s : State) (a : Access) : State :=
  let t := homeTable a.pa
  let room := (s.waits.filter (·.table == t)).length < t.size
  let w : WaitEntry :=
    { table := t, pa := a.pa, op := a.op, agent := a.agent, dst := a.dst, data := a.data, access := a.id }
  let s := if room then { s with waits := s.waits ++ [w] } else s
  let s := s.modAccess a.id fun b => { b with stage := if room then .parked else .polling, data := a.data, since := s.aclk }
  match a.agent with
  | .slot i inc =>
    if (s.slot i).inc == inc && (s.slot i).await == .access a.id && !a.detached then
      let since := if (s.slot i).state == .waitData then s.coreClock i.die i.core else (s.slot i).since
      let s := s.enter i (parkState a.op room) (.access a.id)
      s.modSlot i fun x => { x with parkKey := a.va, since }
    else s
  | .node _ _ _ _ => s

/-- What the home makes of an access. -/
def State.settleAccess (s : State) (a : Access) (r : AtHome) : State :=
  match r with
  | .done v ok t => t.doneAt a v ok
  | .park => s.parkAt a
  | .bad cause => s.failAccess a cause 0 a.va
  | .wait => s

/-- An access at its home: an ARRWAIT arrives, and waits unless its own arrival completed the phase. -/
def State.performAccess (s : State) (a : Access) : State :=
  match a.op with
  | .arriveWait =>
    if s.objectPoisoned a.pa then s.failAccess a 0x29 0 a.va
    else
      let r := s.arrival a
      let a := { a with data := r.2.1.zeroExtend 64 }
      if r.2.2 then r.1.doneAt a a.data true else r.1.parkAt a
  | .fe o => s.settleAccess a ((s.noteHost a.id a.pa).feAtHome a o)
  | _ => s.settleAccess a (s.atHome a)

/-- A device register access; a store to a full hart is held at the register. -/
def State.performRegister (s : State) (a : Access) : State :=
  match s.atRegister a with
  | .done v ok t => t.modAccess a.id fun b => { b with stage := .done, result := v, ok }
  | .park =>
    match kickHart (paOffset a.pa), a.agent with
    | some n, .slot i inc =>
      let d := paDie a.pa
      if (s.hart d n).held.any (·.access == some a.id) then s
      else s.modHart d n fun x => { x with held := x.held ++ [kickOf i inc a.data (some a.id)] }
    | _, _ => s
  | _ => s

/-- Whether an access is a barrier operation on an object of another die. -/
def Access.remoteBarrier (a : Access) : Bool := a.op.isBarrier && paDie a.pa != a.die

/-- HOME_BANK_OPERATION (R117): an access that may be performed is performed; a release fence goes when everything before
it is. -/
def execHomeBankOperation (s : State) : Result :=
  .next <|
    match s.access s.ev.id with
    | none => s
    | some a =>
      if a.stage != .home || !s.mayPerform a || a.remoteBarrier then s
      else if a.op == .fence then s.dropAccess a.id
      else if !s.unitTakes a then s
      else if paSpace a.pa == 2 then s.performRegister a
      else s.performAccess a

/-- REMOTE_ARRIVAL (R290): a barrier operation reaches the home of its object on another die, or a wake-up its thread. -/
def execRemoteArrival (s : State) : Result :=
  .next <|
    match s.reedItem s.ev.id with
    | none => s
    | some q =>
      match q.msg with
      | .barrier id back =>
        if !s.reedReady q then s.reedHop q
        else
          match s.access id with
          | none => s.dropReed q.id
          | some a =>
            match a.agent with
            | .slot i inc =>
              if back then if s.phaseSettled a a.result then (s.dropReed q.id).completeSlot i inc a a.result a.ok else s
              else if !s.mayPerform a || !s.unitTakes a then s
              else
                let t := (s.dropReed q.id).performAccess a
                match t.access id with
                | some b =>
                  if b.stage == .done then t.sendReed (.die (paDie a.pa)) (.core i.die i.core) (.barrier id true)
                  else t
                | none => t
            | .node _ _ _ _ => s.dropReed q.id
      | _ => s

/-! Polling (R405) -/

/-- The aclk of 256 mclk, rounded up. -/
def pollingPeriod : Nat := 217

/-- POLLING_PARK_RETRY: the operation is repeated; an ARRWAIT repeats its wait. -/
def execPollingParkRetry (s : State) : Result :=
  .next <|
    match s.access s.ev.id with
    | none => s
    | some a =>
      if a.stage != .polling || (s.aclk - a.since).toNat < pollingPeriod then s
      else s.settleAccess a ((s.noteHost a.id a.pa).atHome a)

/-! Completion -/

/-- Whether the completion of an access travels as a message. -/
def State.completionSent (s : State) (id : Nat) : Bool :=
  (s.net.any fun q => q.packet == .feDone id) || s.reed.any fun q => q.msg == .barrier id true

/-- ACCESS_RESULT (R202): the result of a performed access reaches its slot. -/
def execAccessResult (s : State) : Result :=
  .next <|
    match s.access s.ev.id with
    | none => s
    | some a =>
      match a.agent with
      | .slot i inc =>
        if a.stage != .done || s.completionSent a.id || !s.phaseSettled a a.result then s else s.completeSlot i inc a a.result a.ok
      | .node _ _ _ _ => s

/-- REMOTE_FE_COMPLETION (R118): the completion message of a parked operation reaches its waiter. -/
def execRemoteFeCompletion (s : State) : Result :=
  .next <|
    match s.packet s.ev.id with
    | some (.feDone id) =>
      match s.access id with
      | some a =>
        match a.agent with
        | .slot i inc => if s.phaseSettled a a.result then (s.dropPacket s.ev.id).completeSlot i inc a a.result a.ok else s
        | .node _ _ _ _ => s.dropPacket s.ev.id
      | none => s.dropPacket s.ev.id
    | _ => s

end Sys2Proof.Machine
end

