-- ==== Sys2Proof/Machine/NodeFrame.lean ====
section
/-!
DEFINITION. Frames (08 R273 to R275; 10 R318, R328; 16 R432): FRAME, its fill timer, sending and arrival, UNFRAME and the
return of frame credits.
-/

namespace Sys2Proof.Machine

set_option linter.constructorNameAsVariable false

/-! Constants (Table 8-7) and sizes (R273) -/

/-- The constants of a FRAME or UNFRAME node. -/
structure FrameCfg where
  fmt : BitVec 4
  rowlen : Nat
  timer : Nat
  dshed : ShedNo
  dport : BitVec 3

/-- The constants K and K + 1 of a FRAME or UNFRAME node. -/
def ShedSt.frameCfg (x : ShedSt) (k : BitVec 6) : FrameCfg :=
  let a := x.const k.toNat
  let b := x.const (k.toNat + 1)
  { fmt := a.extractLsb' 0 4, rowlen := (a.extractLsb' 8 16).toNat, timer := (a.extractLsb' 24 8).toNat,
    dshed := b.extractLsb' 0 9, dport := b.extractLsb' 9 3 }

/-- The wire format. -/
def FrameCfg.wire (g : FrameCfg) : Fmt := (fmtOf g.fmt).getD .fp32

/-- The payload bytes of a row: its elements, and a twill row's scales. -/
def FrameCfg.rowBytes (g : FrameCfg) : Nat :=
  (g.rowlen * g.wire.width + 7) / 8 + (if g.wire.isTwill then g.rowlen / 16 * 2 else 0)

def upTo (n k : Nat) : Nat := (n + k - 1) / k

/-- RS: the sectors of a row. -/
def FrameCfg.rowSectors (g : FrameCfg) : Nat := upTo g.rowBytes 48

/-- V: the sectors of the index vector of n rows. -/
def indexSectors (n : Nat) : Nat := upTo (8 * n) 48

/-- Whether a frame holds n rows. -/
def FrameCfg.fits (g : FrameCfg) (n : Nat) : Bool := 1 + indexSectors n + n * g.rowSectors ≤ 64

/-- The aclk from a frame's first row to the end of its fill timer: units of 0.25 µs at 1.1 GHz. -/
def FrameCfg.fill (g : FrameCfg) : Nat := (g.timer + 1) * 275

/-- Bytes padded with zeros to n. -/
def padTo (n : Nat) (bs : List Byte) : List Byte := bs ++ List.replicate (n - bs.length) 0

/-- The bytes of a frame (Table 8-6). -/
def frameBytes (g : FrameCfg) (src : Die) (seq : BitVec 32) (f : OpenFrame) : List Byte :=
  let head := natBytes 2 f.version.toNat ++ [f.dest.zeroExtend 8, src.zeroExtend 8, g.fmt.zeroExtend 8,
    BitVec.ofNat 8 f.rows.length] ++ natBytes 2 g.rowlen ++ natBytes 4 seq.toNat ++ [BitVec.ofNat 8 f.experts.length]
  let experts := f.experts.flatMap fun e => natBytes 2 e.toNat
  let index := f.rows.flatMap fun r => bytesOfWord 8 r.1
  let rows := f.rows.flatMap fun r => padTo (48 * g.rowSectors) r.2
  padTo 3072
    (padTo 16 head ++ padTo 32 experts ++ padTo (48 * indexSectors f.rows.length) index ++ rows)

/-! Converting a row (R274) -/

/-- One element in a binary format: its bytes, with flags and the LFSR after its step. -/
def wireElem (f : Fmt) (m : RMode) (v : FVal) (acc : List Byte × FpFlags × BitVec 32) : List Byte × FpFlags × BitVec 32 :=
  let st := nextLfsr m acc.2.2
  let r := v.exact.into f.layout (roundingOf m st)
  (acc.1 ++ bytesOfWord (f.width / 8) r.1, acc.2.1 ||| r.2, st)

/-- One block of a twill row: its packed elements and its scale. -/
def wireBlock (f : Fmt) (m : RMode) (vs : List FVal) (acc : List Byte × List Byte × FpFlags × BitVec 32) :
    List Byte × List Byte × FpFlags × BitVec 32 :=
  let q := quantise f.mag m acc.2.2.2 vs
  (acc.1 ++ packBlock f.width q.2.1, acc.2.1 ++ natBytes 2 q.1.toNat, acc.2.2.1 ||| q.2.2.1, q.2.2.2)

/-- A row of values in a wire format: its bytes, flags and the LFSR after it. -/
def wireRow (f : Fmt) (m : RMode) (st : BitVec 32) (vs : List FVal) : List Byte × FpFlags × BitVec 32 :=
  if f.isTwill then
    let r := (List.range (vs.length / 16)).foldl (fun acc j => wireBlock f m ((vs.drop (16 * j)).take 16) acc)
      (([], [], 0, st) : List Byte × List Byte × FpFlags × BitVec 32)
    (r.1 ++ r.2.1, r.2.2.1, r.2.2.2)
  else vs.foldl (fun acc v => wireElem f m v acc) ([], 0, st)

/-! The frame store -/

/-- Closes the open frame for a die: it receives SEQ (R274). -/
def State.closeFrame (s : State) (d : Die) (h : ShedNo) (g : FrameCfg) (dest : Die) : State :=
  match (s.shed d h).opened.find? (·.dest == dest) with
  | none => s
  | some f =>
    let seq := tblGet 0 dest.toNat (s.die d).frameSeq
    let out : Frame :=
      { src := d, sender := h, dst := dest, shed := g.dshed, port := g.dport, seq, version := f.version,
        counted := f.counted, bytes := frameBytes g d seq f }
    let s := s.modDie d fun x => { x with frameSeq := tblSet 0 dest.toNat (seq + 1) x.frameSeq }
    s.modShed d h fun x => { x with opened := x.opened.filter (·.dest != dest), closed := x.closed ++ [out] }

/-- Closes every open frame. -/
def State.closeFrames (s : State) (d : Die) (h : ShedNo) (g : FrameCfg) : State :=
  (s.shed d h).opened.foldl (fun s f => s.closeFrame d h g f.dest) s

/-- Whether the fill timer of an open frame has expired. -/
def FrameCfg.expired (g : FrameCfg) (f : OpenFrame) (now : Word) : Bool := g.fill ≤ (now - f.since).toNat

/-- Places a row: its destination, expert, token index, version and bytes (R274). The manual lets ROWLEN be one for which not even
one row fits a frame and says nothing of such rows: each is dropped (DESIGN CHOICE, log entry 96). -/
def State.placeRow (s : State) (d : Die) (h : ShedNo) (g : FrameCfg) (dest : Die) (e : BitVec 12) (index : BitVec 32)
    (v : BitVec 16) (bs : List Byte) : State :=
  if !g.fits 1 then s
  else
    let s := match (s.shed d h).opened.find? (·.dest == dest) with
      | some f =>
        let crowded := !f.experts.contains e && 16 ≤ f.experts.length
        if f.version != v || crowded || !g.fits (f.rows.length + 1) then s.closeFrame d h g dest else s
      | none =>
        match (s.shed d h).opened with
        | f :: _ => if 8 ≤ (s.shed d h).opened.length then s.closeFrame d h g f.dest else s
        | [] => s
    let x := s.shed d h
    let opened := if x.opened.any (·.dest == dest) then x.opened else x.opened ++ [⟨dest, v, [], [], s.rowClock d (rowOfShed h), true⟩]
    let put := fun (f : OpenFrame) =>
      if f.dest != dest then f
      else
        let experts := if f.experts.contains e then f.experts else f.experts ++ [e]
        let pos : BitVec 4 := BitVec.ofNat 4 (experts.idxOf e)
        { f with experts, rows := f.rows ++ [(0#28 ++ pos ++ index, bs)] }
    let s := s.setShed d h { x with opened := opened.map put }
    match (s.shed d h).opened.find? (·.dest == dest) with
    | some f => if !g.fits (f.rows.length + 1) || g.expired f (s.rowClock d (rowOfShed h)) then s.closeFrame d h g dest else s
    | none => s

/-! FRAME: toks are a row header and the data of its row, value 0 the version plus 1, primed whether the version token
that gave it is still counted as a hold (R328) -/

/-- The version of the rows that follow; free before the first version token (log entry 47). -/
def View.frameVersion (v : View) : BitVec 16 :=
  let w := tblGet 0 0 v.node.vals
  if w = 0 then (Config.freeWord v.s.tick).extractLsb' 0 16 else (w - 1).extractLsb' 0 16

/-- The row under construction is complete; a row with fewer elements is filled with free values (log entry 47). -/
def View.endRow (v : View) (g : FrameCfg) (s : State) : State :=
  match v.node.toks with
  | [] => s
  | hd :: data =>
    let ws := (List.range g.rowlen).map fun j => ((data[j]?).map (·.payload)).getD (Config.freeWord (v.s.tick + j))
    let r := wireRow g.wire v.rm v.lfsr (ws.map (decodeFp Fmt.fp32.layout))
    v.mark r.2.1 r.2.2 (s.placeRow v.d v.h g hd.headerDie hd.headerExpert hd.headerIndex v.frameVersion r.1)

/-- The hold of the version token before is closed. -/
def View.endHold (v : View) (s : State) : State :=
  if v.node.primed then s.holdVersion v.d v.x.loom ((tblGet 0 0 v.node.vals - 1).extractLsb' 0 16) false else s

/-- FRAME. -/
def frameNode (k : BitVec 6) (v : View) : Option Fired :=
  match v.op .l with
  | none => none
  | some l =>
    let g := v.x.frameCfg k
    let st := v.node
    let eat := fun (n : NodeSt) (also : State → State) => some { eat := [.l], room := false, node := n, also : Fired }
    if l.isScale then v.drop .l
    else if l.isVersion then
      eat { st with primed := l.held, vals := tblSet 0 0 (l.version.zeroExtend 64 + 1) st.vals } v.endHold
    else if l.isHeader then
      let shut := fun (s : State) =>
        match (s.shed v.d v.h).opened.find? (·.dest == l.headerDie) with
        | some f => if g.expired f (s.rowClock v.d (rowOfShed v.h)) then s.closeFrame v.d v.h g f.dest else s
        | none => s
      eat { st with toks := [l] } fun s => shut (v.endRow g s)
    else if l.isData then
      if st.toks.isEmpty || g.rowlen < st.toks.length then v.drop .l
      else eat { st with toks := st.toks ++ [l] } fun s => s
    else if l.isEor then eat { st with toks := [] } (v.endRow g)
    else if l.endsGroup then
      let pass := fun (s : State) =>
        match v.t with
        | .shed p => if l.isEos then s.passEos v.d v.h p.toNat v.c else s
        | _ => s
      eat { st with toks := [], primed := false } fun s => pass (v.endHold ((v.endRow g s).closeFrames v.d v.h g))
    else v.drop .l

def execFrame (k : BitVec 6) (t u : Target) (s : State) : Result := .next (s.fire t u (frameNode k))

/-- The FRAME node of a shed: its slot and constant. -/
def ShedSt.frameNode (x : ShedSt) : Option (Nat × BitVec 6) :=
  x.words.findSome? fun w => match decodeGraph w.2 with
    | some (.frame k _ _) => some (w.1, k)
    | _ => none

/-- Whether FRAME is inside a row for a die, in some context. -/
def ShedSt.inRow (x : ShedSt) (slot : Nat) (dest : Die) : Bool :=
  (List.range 4).any fun c => match (tblGet {} (nodeIx slot c) x.nodes : NodeSt).toks with
    | hd :: _ => hd.headerDie == dest
    | [] => false

/-- FRAME_TIMER_EXPIRY: the open frames whose fill timer has expired close, after the current row. -/
def execFrameTimerExpiry (s : State) : Result :=
  let d := s.ev.die
  let h := s.ev.shed
  let x := s.shed d h
  .next <|
    match x.frameNode with
    | some (slot, k) =>
      let g := x.frameCfg k
      if x.stopped slot || x.failed then s
      else
        (x.opened.filter fun f => g.expired f (s.rowClock d (rowOfShed h)) && !x.inRow slot f.dest).foldl
          (fun s f => s.closeFrame d h g f.dest) s
    | none => s

/-! Sending -/

/-- The frame buffers of a receiving port. -/
def frameBuffers : Nat := 8

/-- The frames that are sent to a port and whose buffers have not been returned. -/
def State.framesOut (s : State) (f : Frame) : Nat :=
  (s.dies.map fun e =>
    (e.2.framesKept.filter fun k => k.dst == f.dst && k.shed == f.shed && k.port == f.port).length).sum

/-- The lowest core of the skein that faces a shed. -/
def facingCore (h : ShedNo) : CoreNo := skeinFacing h ++ 0#4

/-- The normal-class path that a FRAME node takes at LOADCFG for each die, by the route table of the lowest core of the skein that
faces its shed (R274, R318). -/
def State.framePaths (s : State) (d : Die) (h : ShedNo) : List (Option Path) :=
  (s.routesOf d (some (facingCore h))).zipIdx.map fun e => pathFor (s.tick + e.2) false e.1

/-- Where the path of a FRAME node leads to a die; a die without a path is not reached (R318, R432). -/
def State.frameLeads (s : State) (d : Die) (h : ShedNo) (dest : Die) : Leads :=
  if d == dest then .arrives
  else
    match (s.shed d h).paths.getD dest.toNat none with
    | some p => s.leads d (mkHandle dest 0 p)
    | none => .fails

/-- Whether a frame can leave for a die. -/
def Leads.passes : Leads → Bool
  | .arrives | .detours _ _ => true
  | .held | .fails => false

/-- FRAME_SEND (R274, R318, R432): the first closed frame with a credit and a path leaves, and a copy stays in the die's
journal; a frame that takes the detour of a lost link counts DETOUR there (R430). -/
def execFrameSend (s : State) : Result :=
  let d := s.ev.die
  let h := s.ev.shed
  let x := s.shed d h
  .next <|
    match x.closed.find? fun f => s.framesOut f < frameBuffers && (s.frameLeads d h f.dst).passes with
    | some f =>
      let s := match s.frameLeads d h f.dst with
        | .detours e l => s.count e (.link (BitVec.ofNat 2 l)) 0x51
        | _ => s
      let s := s.modShed d h fun x => { x with closed := x.closed.erase f }
      (s.modDie d fun y => { y with framesKept := y.framesKept ++ [f] }).send (.frame f)
    | none => s

/-! Arrival -/

/-- The buffer of a frame is returned to its sender (R275). -/
def State.returnFrame (s : State) (f : Frame) : State := s.send (.frameCredit f.src f.dst f.shed f.seq)

/-- Whether an earlier frame of the same shed is still on its way to the same die. -/
def State.frameBehind (s : State) (id : Nat) (f : Frame) : Bool :=
  s.net.any fun q => q.id < id && match q.packet with
    | .frame g => g.src == f.src && g.sender == f.sender && g.dst == f.dst
    | _ => false

/-- FRAME_ARRIVAL (R275, R432): a frame enters a buffer of its shed; one whose SEQ was among the last 256 of its source
is discarded. -/
def execFrameArrival (s : State) : Result :=
  let id := s.ev.id
  .next <|
    match s.packet id with
    | some (.frame f) =>
      if s.frameBehind id f then s
      else
        let s := s.dropPacket id
        let seen := tblGet [] f.src.toNat (s.die f.dst).frameSeen
        if seen.contains f.seq then (s.count f.dst (.shed f.shed) 0x4b).returnFrame f
        else
          let s := s.modDie f.dst fun y =>
            { y with frameSeen := tblSet [] f.src.toNat ((f.seq :: seen).take 256) y.frameSeen }
          s.modShed f.dst f.shed fun y => { y with frames := y.frames ++ [f] }
    | _ => s

/-- FRAME_CREDIT_RETURN: the sender's journal frees its copy, and with it the credit. -/
def execFrameCreditReturn (s : State) : Result :=
  let id := s.ev.id
  .next <|
    match s.packet id with
    | some (.frameCredit src dst h seq) =>
      (s.dropPacket id).modDie src fun y =>
        { y with framesKept := y.framesKept.filter fun k => !(k.dst == dst && k.shed == h && k.seq == seq) }
    | _ => s

/-! UNFRAME: primed says that the tokens of the head frame have been produced -/

/-- Bytes of a frame at an offset, as a number. -/
def Frame.num (f : Frame) (off n : Nat) : Nat := bytesNat ((f.bytes.drop off).take n)

/-- The values of a row of a frame. -/
def frameVals (g : FrameCfg) (bs : List Byte) : List FVal :=
  let f := g.wire
  if f.isTwill then
    let payload := g.rowlen * f.width / 8
    (List.range g.rowlen).map fun j =>
      let es := unpackBlock f.width ((bs.drop (2 * f.width * (j / 16))).take (2 * f.width))
      let scale := BitVec.ofNat 16 (bytesNat ((bs.drop (payload + 2 * (j / 16))).take 2))
      twillVal f.mag scale (j % 16) (es.getD (j % 16) 0)
  else
    (List.range g.rowlen).map fun j =>
      decodeFp f.layout (wordOfBytes ((bs.drop (f.width / 8 * j)).take (f.width / 8)))

/-- The data tokens of a row in a PE's format, with flags and the LFSR after them; a twill PE's last block may be partial. -/
def rowTokens (v : View) (vs : List FVal) (st : BitVec 32) : List OutTok × FpFlags × BitVec 32 :=
  if v.fmt.isTwill then
    (List.range (upTo vs.length 16)).foldl (fun acc j =>
      let b := v.block acc.2.2 ((vs.drop (16 * j)).take 16)
      (acc.1 ++ b.1, acc.2.1 ||| b.2.1, b.2.2)) ([], 0, st)
  else
    vs.foldl (fun acc x =>
      let st := nextLfsr v.rm acc.2.2
      let r := if v.fmt.isInt then toIntOp v.fmt.width (roundingOf v.rm st) x
        else x.exact.into v.fmt.layout (roundingOf v.rm st)
      (acc.1 ++ v.both (dataTok 0 r.1), acc.2.1 ||| r.2, st)) ([], 0, st)

/-- The tokens of a frame (R275). -/
def unframeTokens (v : View) (g : FrameCfg) (f : Frame) : List OutTok × FpFlags × BitVec 32 :=
  let n := f.num 5 1
  let src := BitVec.ofNat 6 (f.num 3 1)
  let first := v.both (versionTok 0 (BitVec.ofNat 16 (f.num 0 2)) src)
  let r := (List.range n).foldl (fun acc i =>
    let ix := BitVec.ofNat 64 (f.num (48 + 8 * i) 8)
    let e := BitVec.ofNat 12 (f.num (16 + 2 * (ix.extractLsb' 32 4).toNat) 2)
    let bs := (f.bytes.drop (48 * (1 + indexSectors n + i * g.rowSectors))).take (48 * g.rowSectors)
    let row := rowTokens v (frameVals g bs) acc.2.2
    (acc.1 ++ v.both (headerTok 0 src e (ix.extractLsb' 0 32)) ++ row.1
        ++ v.both (shapeTok 0 codeEor (BitVec.ofNat 32 g.rowlen)), acc.2.1 ||| row.2.1, row.2.2))
    ((first, 0, v.lfsr) : List OutTok × FpFlags × BitVec 32)
  (r.1 ++ v.both (shapeTok 0 codeEog (BitVec.ofNat 32 n)), r.2)

/-- The oldest frame for a port that feeds the left port of a slot. -/
def ShedSt.frameFor (x : ShedSt) (slot : Nat) : Option Frame :=
  let t : Target := .node (BitVec.ofNat 6 slot) .l
  x.frames.find? fun f =>
    let q := x.port (8 + f.port.toNat)
    q.en && !q.out && (q.ta == t || q.tb == t)

/-- The buffer of a frame is freed. -/
def State.freeFrame (s : State) (d : Die) (h : ShedNo) (f : Frame) : State :=
  (s.modShed d h fun x => { x with frames := x.frames.erase f }).returnFrame f

/-- UNFRAME: a frame of another FMT or ROWLEN is discarded, with FRAMEDROP 0 or 1 (R432). -/
def unframeNode (k : BitVec 6) (v : View) : Option Fired :=
  if v.c != 0 then none
  else
    match v.x.frameFor v.slot with
    | none => none
    | some f =>
      let g := v.x.frameCfg k
      if v.node.primed || f.num 4 1 != g.fmt.toNat || f.num 6 2 != g.rowlen then
        some
          { eat := [], room := false, node := { v.node with primed := false },
            also := fun s => (if v.node.primed then s else s.countNotify v.d (.shed v.h) 0x4b).freeFrame v.d v.h f }
      else
        let r := unframeTokens v g f
        some { eat := [], outs := r.1, node := { v.node with primed := true }, also := v.mark r.2.1 r.2.2 }

def execUnframe (k : BitVec 6) (t u : Target) (s : State) : Result := .next (s.fire t u (unframeNode k))

end Sys2Proof.Machine
end

