-- ==== Sys2Proof/Machine/Behaviour.lean ====
section
/-!
DEFINITION. What a graph node would fire: the targets and the behaviour of each graph-form instruction, by which the drain
of a loom (02 R47) and the choice of the next move see whether a slot can fire.
-/

namespace Sys2Proof.Machine

/-- The targets and the behaviour of a graph-form instruction; none for a thread-form one. -/
def behaviour (i : Instr) : Option (Target × Target × (View → Option Fired)) :=
  match i with
  | .steerT t u => some (t, u, steer true)
  | .steerF t u => some (t, u, steer false)
  | .mergeP t u => some (t, u, mergeByPred)
  | .mergeA t u => some (t, u, mergeByArrival)
  | .carry k t u => some (t, u, carryNode k)
  | .inv t u => some (t, u, invNode)
  | .const k t u => some (t, u, constNode false k)
  | .constC k t u => some (t, u, constNode true k)
  | .gate t u => some (t, u, gateNode)
  | .rowctlStrip t u => some (t, u, stripNode)
  | .rowctlSplit t u => some (t, u, splitNode)
  | .rowctlEor t u => some (t, u, reshapeNode codeEor)
  | .rowctlEog t u => some (t, u, reshapeNode codeEog)
  | .rowctlEos t u => some (t, u, reshapeNode codeEos)
  | .widen _ t u => some (t, u, widenNode)
  | .mma q mf _ t u => some (t, u, mmaNode q mf)
  | .bload _ m t u => some (t, u, bloadNode m)
  | .accRd m t u => some (t, u, accRdNode m)
  | .accRdclr m t u => some (t, u, accRdclrNode m)
  | .accClr m t u => some (t, u, accClrNode m)
  | .rmax fb f t u => some (t, u, rmaxNode fb f)
  | .escOrd _ t u => some (t, u, escNode true)
  | .escUnord _ t u => some (t, u, escNode false)
  | .delay k t u => some (t, u, delayNode k)
  | .race n t u => some (t, u, raceNode n)
  | .frame k t u => some (t, u, frameNode k)
  | .unframe k t u => some (t, u, unframeNode k)
  | .upd o t u => some (t, u, fun v => memNode (updNodeOp o v.fmt) .s v)
  | .cntD t u => some (t, u, cntNode false)
  | .cntR t u => some (t, u, cntNode true)
  | .lredSum m t u => some (t, u, lredNode .fadd m)
  | .lredMax m t u => some (t, u, lredNode .fmax m)
  | .lredMin m t u => some (t, u, lredNode .fmin m)
  | .scale t u => some (t, u, scaleNode)
  | .explk k t u => some (t, u, explkNode k)
  | .elementwiseNode o t u => some (t, u, elemNode o)
  | .graphLoadNode o t u => some (t, u, memNode (loadNodeOp o) .s)
  | .graphStoreNode o t u => some (t, u, memNode (storeNodeOp o) .s)
  | .graphFeNode sc o t u => some (t, u, memNode (feNodeOp o) sc)
  | _ => none

/-- Whether a node can fire in a context now. -/
def State.canFire (s : State) (n : NodeId) : Bool :=
  let x := s.shed n.die n.shed
  x.fires && !x.stopped n.slot.toNat && (x.out n.slot.toNat).isEmpty &&
    match (decodeGraph (tblGet 0 n.slot.toNat x.words)).bind behaviour with
    | some (t, u, b) =>
      let v := s.view n t u
      match b v with
      | some f => f.hasRoom v
      | none => false
    | none => false

/-- The nodes of a shed in each of its contexts. -/
def State.nodesOf (s : State) (d : Die) (h : ShedNo) : List NodeId :=
  let x := s.shed d h
  x.words.flatMap fun w => (List.range x.nctx).map fun c => ⟨d, h, BitVec.ofNat 6 w.1, BitVec.ofNat 2 c⟩

/-- The context in which a node has its turn: the contexts in which it could fire rotate (R52). None fires in an aclk in which the
row of the shed is gated (R347). -/
def State.nodeTurns (s : State) (d : Die) (h : ShedNo) : List NodeId :=
  let x := s.shed d h
  if s.gated d (rowOfShed h) then []
  else x.words.filterMap fun w =>
    let last := tblGet 3 w.1 x.lastCtx
    let ids := (List.range x.nctx).map fun k => (⟨d, h, BitVec.ofNat 6 w.1, BitVec.ofNat 2 ((last + 1 + k) % x.nctx)⟩ : NodeId)
    ids.find? s.canFire

end Sys2Proof.Machine
end

