-- ==== Sys2Proof/Machine/Lease.lean ====
section
/-!
DEFINITION. The lease arbiter of a die (02 R46; 09 R295; 16 R412, R416): LEASE and RELEASE, and the grants of fresh looms and
of substitutes for failed sheds.
-/

namespace Sys2Proof.Machine

/-! What is free -/

def allSheds : List ShedNo := (List.range 512).map (BitVec.ofNat 9)

/-- The sheds of a die that are not retired. -/
def State.usableSheds (s : State) (d : Die) : List ShedNo := allSheds.filter fun h => !(s.shed d h).retired

/-- The free sheds of a die, in ascending order. -/
def State.freeSheds (s : State) (d : Die) : List ShedNo := (s.usableSheds d).filter fun h => (s.shed d h).state == .free

/-- The lowest free loom number of a die. -/
def State.freeLoom (s : State) (d : Die) : Option LoomNo :=
  ((List.range 128).map (BitVec.ofNat 7)).find? fun l => (s.loom d l).state == .free

/-- The request that the arbiter serves next: of the lowest level, and within it the first. -/
def DieSt.headLease (x : DieSt) : Option LeaseReq :=
  (List.range 4).findSome? fun l => x.leases.find? (·.level.toNat == l)

/-- The sheds that a request is granted: those it names, or the lowest-numbered ones. -/
def State.pickSheds (s : State) (d : Die) (r : LeaseReq) : Option (List ShedNo) :=
  let free := s.freeSheds d
  if !r.named.isEmpty then if r.named.all free.contains then some r.named else none
  else if r.count ≤ free.length then some (free.take r.count)
  else none

/-! LEASE -/

/-- The answer to a request that cannot be met. -/
def leaseRefused : Word := BitVec.allOnes 64

/-- Reads a request: its count and the sheds it names; none when it cannot be met (R295, R412). -/
def State.withRequest (t : State) (w : Word) (k : Option (Nat × List ShedNo) → State → Act) : Act :=
  if !w.getLsbD 63 then
    let n := (w.extractLsb' 0 10).toNat
    k (if n = 0 || (t.usableSheds t.cur.die).length < n then none else some (n, [])) t
  else if w.extractLsb' 57 6 != 0 || w.extractLsb' 0 6 != 0 then k none t
  else
    t.withRecord ((w.extractLsb' 0 57).zeroExtend 64) 6 8 fun ws t =>
      let named := allSheds.filter fun h => (ws.getD (h.toNat / 64) 0).getLsbD (h.toNat % 64)
      k (if named.isEmpty || named.any (fun h => (t.shed t.cur.die h).retired) then none else some (named.length, named)) t

/-- LEASE: a release at k; the slot parks until the grant. -/
def execLease (pre : Bool) (lvl : BitVec 2) (d a b : Reg) (s : State) : Result :=
  s.issueOpen [a, b] [d] fun v t =>
    let i := t.cur
    let save := v.getD 1 0
    match (if pre then t.addressFault i save 12 else none) with
    | some f => f
    | none =>
      if !t.releases then .wait
      else
        t.withRequest (v.getD 0 0) fun q t =>
          match q with
          | none => .go (t.finish d leaseRefused)
          | some (n, named) =>
            let r : LeaseReq :=
              { kind := .fresh, who := some (i, (t.slot i).inc), level := lvl, count := n, named, pre,
                save := if pre then save else 0, ctx := t.curCore.ctx, dst := d }
            .go ((t.modDie i.die fun x => { x with leases := x.leases ++ [r] }).enter i .parkLease .retry)

/-! Grants -/

/-- Sheds join a loom in the order of their loom-relative indices. -/
def State.joinLoom (s : State) (d : Die) (l : LoomNo) (ctx : BitVec 12) (hs : List (ShedNo × Nat)) : State :=
  hs.foldl (fun s h => s.modShed d h.1 fun x =>
    { x with state := .leased, loom := l, rel := BitVec.ofNat 9 h.2, ctx, tlb := [], failed := false }) s

/-- A request has been served. -/
def State.dropLease (s : State) (d : Die) (r : LeaseReq) : State := s.modDie d fun x => { x with leases := x.leases.erase r }

/-- Slots that wait for a loom's substitute go on: they try their instruction again. -/
def State.wakeLoom (s : State) (d : Die) (l : LoomNo) : State :=
  s.slots.foldl (fun s e =>
    let i : SlotId := ⟨BitVec.ofNat 6 (e.1 / 32768), BitVec.ofNat 11 (e.1 / 16 % 2048), BitVec.ofNat 4 (e.1 % 16)⟩
    if i.die == d && e.2.state == .parkLease && e.2.await == .loom l then s.wake i else s) s

/-- LEASE_GRANT (R46, R416): the request at the head receives its sheds and the lowest free loom number, or the substitute
of a failed shed. -/
def execLeaseGrant (s : State) : Result :=
  let d := s.ev.die
  .next <|
    match (s.die d).headLease with
    | none => s
    | some r =>
      if !s.unitUp d readySheds then s
      else
      match r.kind, s.pickSheds d r with
      | .fresh, some hs =>
        match s.freeLoom d, r.who with
        | some l, some (i, _) =>
          let s := (s.dropLease d r).joinLoom d l r.ctx hs.zipIdx
          let s := s.setLoom d l
            { state := .leased, sheds := hs, level := r.level, pre := r.pre, save := r.save, ctx := r.ctx, count := hs.length }
          (s.writeReg i r.dst (l.zeroExtend 64)).wakeNext i
        | _, _ => s
      | .substitute l k, some (h :: _) =>
        let s := (s.dropLease d r).joinLoom d l r.ctx [(h, k)]
        (s.modLoom d l fun x => { x with sheds := x.sheds.set k h }).wakeLoom d l
      | _, _ => s

/-! RELEASE -/

/-- Sheds leave their loom. -/
def State.freeLoomSheds (s : State) (d : Die) (l : LoomNo) : State :=
  (s.loomSheds d l).foldl (fun s h => s.modShed d h fun x => { x with state := .free, loom := 0, rel := 0 }) s

/-- Whether a request is for a substitute of a loom. -/
def LeaseReq.substitutes (r : LeaseReq) (l : LoomNo) : Bool :=
  match r.kind with
  | .substitute n _ => n == l
  | _ => false

/-- RELEASE: the sheds of a LEASED loom become FREE, and the loom number is free. -/
def execRelease (a : Reg) (s : State) : Result :=
  s.issueOpen [a] [] fun v t =>
    let w := v.getD 0 0
    let l : LoomNo := w.extractLsb' 0 7
    let d := t.cur.die
    t.withState l w 0 [.leased, .saved] fun x =>
      if x.settling then .wait
      else
      let t := (t.freeLoomSheds d l).modDie d fun x => { x with leases := x.leases.filter fun r => !r.substitutes l }
      .go (((t.setLoom d l {}).wakeLoom d l).advance)

end Sys2Proof.Machine
end

