-- ==== Sys2Proof/Machine/Record.lean ====
section
/-!
DEFINITION. Configuration records (06 R177 to R181; 09 R296, R297; 16 R410): reading a record with its blocks, and the checks
of Table 16-2, in order of shed entry, slot and port.
-/

namespace Sys2Proof.Machine

set_option linter.constructorNameAsVariable false

/-! The record (Tables 9-9 to 9-11) -/

/-- A shed entry with the block it names: whether a reserved field is set, the header word, and its words and constants
when it is the header of a graph block. -/
structure ShedRec where
  reserved : Bool
  index : Nat
  updord : Bool
  bbase : Word
  blen : Word
  ports : List Word
  pes : List Byte
  head : Option Inst := none
  scopeK : Bool := false
  words : List Inst := []
  consts : List Word := []

/-- A record that has been read; sheds is empty where its header is refused. -/
structure ConfigRec where
  nctx : Nat
  seed : BitVec 32
  badHeader : Bool
  sheds : List ShedRec

/-- A shed entry of 32 doubles. -/
def shedRec (e : List Word) : ShedRec :=
  let b := e.getD 1 0
  { reserved := b.toNat / 2 ^ 10 != 0 || (List.range 4).any fun k => e.getD (28 + k) 0 != 0
    index := (b.extractLsb' 0 9).toNat, updord := b.getLsbD 9, bbase := e.getD 2 0, blen := e.getD 3 0
    ports := (List.range 16).map fun p => e.getD (4 + p) 0
    pes := (List.range 64).map fun j => (e.getD (20 + j / 8) 0).extractLsb' (8 * (j % 8)) 8 }

/-- A port entry (Table 9-11). -/
def portOf (w : Word) : PortCfg :=
  { en := w.getLsbD 0, out := w.getLsbD 1, free := w.getLsbD 2, rate := (w.extractLsb' 3 4).toNat,
    depth := 8 * (w.extractLsb' 7 5).toNat, frameIn := w.getLsbD 12, ta := (target (w.extractLsb' 13 9)).getD .none,
    tb := (target (w.extractLsb' 22 9)).getD .none, peer := w.extractLsb' 32 9, pport := w.extractLsb' 41 3 }

def ShedRec.port (r : ShedRec) (p : Nat) : PortCfg := portOf (r.ports.getD p 0)

/-- The word in a slot; zero for an empty one (R181). -/
def ShedRec.word (r : ShedRec) (j : Nat) : Inst := r.words.getD j 0

/-- The instruction in a slot. -/
def ShedRec.instr (r : ShedRec) (j : Nat) : Option Instr := if r.word j = 0 then none else decodeGraph (r.word j)

def ShedRec.fmtCode (r : ShedRec) (j : Nat) : BitVec 4 := (r.pes.getD j 0).extractLsb' 0 4
def ShedRec.rmCode (r : ShedRec) (j : Nat) : BitVec 3 := (r.pes.getD j 0).extractLsb' 4 3
def ShedRec.fmt (r : ShedRec) (j : Nat) : Fmt := (fmtOf (r.fmtCode j)).getD .int8

/-- The slots that hold an instruction. -/
def ShedRec.slots (r : ShedRec) : List Nat := (List.range 64).filter fun j => r.word j != 0

/-- Every target of an input port, by port. -/
def ShedRec.portTargets (r : ShedRec) : List (Nat × Target) :=
  (List.range 16).flatMap fun p =>
    let c := r.port p
    if c.en && !c.out then [(p, c.ta), (p, c.tb)] else []

/-- The slots whose words target something. -/
def ShedRec.sources (r : ShedRec) (t : Target) : List Nat := r.slots.filter fun j => (wordTargets (r.word j)).contains t

/-- Whether an operand port is wired. -/
def ShedRec.wired (r : ShedRec) (j : Nat) (p : NodePort) : Bool :=
  let t : Target := .node (BitVec.ofNat 6 j) p
  !(r.sources t).isEmpty || r.portTargets.any (·.2 == t)

/-! Reading a record -/

/-- The bytes of a block behind its header at an address (R179). -/
def blockBytes (va : Word) (h : Header) : Nat :=
  let words := va.toNat + 4 + 4 * (h.count.toNat + 1)
  let first := if h.nconst = 0 then words else upTo words 8 * 8
  first + 8 * h.nconst.toNat - (va.toNat + 4)

/-- An entry with the bytes behind its block's header. -/
def ShedRec.withBlock (r : ShedRec) (h : Header) (bs : List Byte) : ShedRec :=
  let n := h.count.toNat + 1
  let off := bs.length - 8 * h.nconst.toNat
  { r with
    scopeK := h.scopeK
    words := (List.range n).map fun j => (wordOfBytes ((bs.drop (4 * j)).take 4)).extractLsb' 0 32
    consts := (List.range h.nconst.toNat).map fun k => wordOfBytes ((bs.drop (off + 8 * k)).take 8) }

/-- Reads the blocks of shed entries one after another. -/
def readBlocks : List (List Word) → List ShedRec → State → (List ShedRec → State → Act) → Act
  | [], acc, t, k => k acc t
  | e :: es, acc, t, k =>
    let va := e.getD 0 0
    let r := shedRec e
    if va.toNat % 4 != 0 then readBlocks es (acc ++ [r]) t k
    else
      t.withBytes va 4 fun bs t =>
        let w : Inst := (wordOfBytes bs).extractLsb' 0 32
        match decodeHeader w with
        | some h =>
          if h.kind == .graph then
            t.withBytes (va + 4) (blockBytes va h) fun bs t => readBlocks es (acc ++ [{ r with head := some w }.withBlock h bs]) t k
          else readBlocks es (acc ++ [r]) t k
        | none => readBlocks es (acc ++ [{ r with head := if isHeader w && w.extractLsb' 23 2 != 1 && w.extractLsb' 23 2 != 2 then some w else none }]) t k

/-- Whether a record's header is refused, for a loom of n sheds (check 0x01). -/
def headerBad (ws : List Word) (n : Nat) : Bool :=
  let a := ws.getD 0 0
  let m := (a.extractLsb' 0 10).toNat
  a.toNat / 2 ^ 12 != 0 || a.extractLsb' 10 2 == 3 || (ws.getD 1 0).toNat / 2 ^ 32 != 0
    || ((List.range 6).any fun k => ws.getD (2 + k) 0 != 0) || m = 0 || n < m

/-- Reads the record at an address for a loom of n sheds. -/
def State.withConfig (t : State) (va : Word) (n : Nat) (k : ConfigRec → State → Act) : Act :=
  t.withRecord va 6 8 fun ws t =>
    let a := ws.getD 0 0
    let nctx := 2 ^ (a.extractLsb' 10 2).toNat
    let seed := (ws.getD 1 0).extractLsb' 0 32
    if headerBad ws n then k ⟨nctx, seed, true, []⟩ t
    else
      let m := (a.extractLsb' 0 10).toNat
      t.withRecord (va + 0x40) 6 (32 * m) fun es t =>
        readBlocks ((List.range m).map fun i => (es.drop (32 * i)).take 32) [] t fun rs t => k ⟨nctx, seed, false, rs⟩ t

/-! Refusals (Table 16-2) -/

/-- A failed check: its code, slot and port. -/
structure Refused where
  check : Byte
  slot : Nat := 0
  port : Nat := 0

/-- What the checks know beside an entry: the entries, the sheds of the loom, the contexts, whether the lease is
pre-emptible, the retired macros of the entry's shed, and the ranges bound by other looms of the die. -/
structure CheckEnv where
  all : List ShedRec
  sheds : Nat
  nctx : Nat
  pre : Bool
  retired : BitVec 8
  bound : List (Nat × Nat)

/-- A check that fails. -/
def fails (b : Bool) (check : Byte) (slot : Nat := 0) (port : Nat := 0) : Option Refused :=
  if b then some { check, slot, port } else none

/-- The first check that fails. -/
def firstFail (l : List (Option Refused)) : Option Refused := l.findSome? id

/-! Entries -/

/-- 0x01 and 0x02 of an entry: reserved fields, its index, and the block's header; dup says that an entry before it has
its index. -/
def checkEntry (v : CheckEnv) (dup : Bool) (r : ShedRec) : Option Refused :=
  firstFail
    [ fails (r.reserved || v.sheds ≤ r.index || dup || r.head.isNone) 0x01
    , fails (match r.head with
        | some w => (decodeHeader w).isNone
        | none => false) 0x02 ]

/-- 0x07: the binding of the bank (R121, R122). -/
def checkBank (v : CheckEnv) (r : ShedRec) : Option Refused :=
  let a := r.bbase.toNat
  let n := r.blen.toNat
  let others := v.bound ++ (v.all.filter fun q => q.index != r.index && q.blen != 0).map fun q =>
    (q.bbase.toNat, q.bbase.toNat + q.blen.toNat)
  fails (n != 0 && (a % 192 != 0 || n % 192 != 0 || 2 ^ 40 < n || 2 ^ 57 < a + n
    || others.any fun o => o.1 < a + n && a < o.2)) 0x07

/-- The MMA nodes of a queue: slot, format and macro. -/
def ShedRec.mmas (r : ShedRec) (q : Bool) : List (Nat × Mf3 × Nat) :=
  r.slots.filterMap fun j => match r.instr j with
    | some (.mma q' mf m _ _) => if q' == q then some (j, mf, m.toNat) else none
    | _ => none

/-- 0x0C of an entry: what CKPT would have to store fits the checkpoint buffer (R78, R276). -/
def checkBuffer (v : CheckEnv) (r : ShedRec) : Option Refused :=
  let depths := ((List.range 16).map fun p => if (r.port p).en then (r.port p).depth else 0).sum
  let ports := (r.slots.map fun j =>
    ([NodePort.l, .r, .p, .s, .o].filter (r.wired j)).length).sum
  let fifo := fun (q : Bool) => match r.mmas q with
    | [] => 0
    | (_, mf, _) :: _ => (if (mfFmt mf).isTwill then 32 else 24) * v.nctx
  let holds := (r.slots.filter fun j => match r.instr j with
    | some (.carry _ _ _) | some (.inv _ _) | some (.cntD _ _) | some (.cntR _ _) | some (.bload _ _ _ _)
    | some (.explk _ _ _) | some (.rowctlStrip _ _) | some (.rowctlSplit _ _) | some (.rowctlEor _ _)
    | some (.rowctlEog _ _) | some (.rowctlEos _ _) => true
    | _ => false).length
  fails (v.pre && 256 < depths + (ports + holds) * v.nctx + fifo false + fifo true) 0x0c

/-! Slots -/

/-- Whether an instruction is a memory node (R181). -/
def isMemory (i : Instr) : Bool :=
  match i with
  | .graphLoadNode _ _ _ | .graphStoreNode _ _ _ | .graphFeNode _ _ _ _ | .upd _ _ _ => true
  | _ => false

/-- The operand ports that a node reads (Table 8-1, R177); the scale port where the PE's format is twill. -/
def nodeReads (i : Instr) (f : Fmt) : List NodePort :=
  match i with
  | .steerT _ _ | .steerF _ _ => [.l, .p]
  | .mergeP _ _ => [.l, .r, .p]
  | .mergeA _ _ | .inv _ _ | .gate _ _ | .rowctlEor _ _ | .rowctlEog _ _ | .rowctlEos _ _ | .scale _ _
  | .escOrd _ _ _ | .escUnord _ _ _ => [.l, .r]
  | .elementwiseNode o _ _ => .l :: elemPorts o ++ (if f.isTwill then [.s] else [])
  | .graphLoadNode _ _ _ => [.l, .o]
  | .graphStoreNode _ _ _ => [.l, .r, .o]
  | .upd _ _ _ => [.l, .r]
  | .graphFeNode _ o _ _ => if o == .put || o == .fill then [.l, .r, .o] else [.l, .o]
  | _ => [.l]

/-- Whether a target is one that R177 allows: none, a declared output port, or a port that the instruction of its slot
reads. The left port of an empty feeder slot takes the indices of an indirect stream (R127). -/
def ShedRec.allows (r : ShedRec) (t : Target) : Bool :=
  match t with
  | .none => true
  | .shed p => (r.port p.toNat).en && (r.port p.toNat).out
  | .node n p =>
    match r.instr n.toNat with
    | some i => (nodeReads i (r.fmt n.toNat)).contains p
    | none => r.word n.toNat == 0 && 56 ≤ n.toNat && p == .l

/-- Whether a pair of target fields is reserved or names what R177 does not allow. -/
def ShedRec.badTargets (r : ShedRec) (a b : BitVec 9) : Bool :=
  match target a, target b with
  | some t, some u => (t == .none && u != .none) || !r.allows t || !r.allows u
  | _, _ => true

/-- The constants that an instruction names (R242). -/
def nodeConsts (i : Instr) : List Nat :=
  match i with
  | .carry k _ _ | .const k _ _ | .constC k _ _ | .delay k _ _ | .unframe k _ _ | .explk k _ _ => [k.toNat]
  | .escOrd k _ _ | .escUnord k _ _ | .frame k _ _ => [k.toNat, k.toNat + 1]
  | _ => []

/-- Whether constant K of a FRAME or UNFRAME node is reserved (Table 8-7). -/
def badFrame (w : Word) : Bool :=
  let f := w.extractLsb' 0 4
  let n := (w.extractLsb' 8 16).toNat
  w.extractLsb' 4 4 != 0 || w.extractLsb' 32 32 != 0 || f.toNat < 5 || 0xc < f.toNat || n < 1 || 4096 < n
    || (0xa ≤ f.toNat && n % 16 != 0)

/-- Whether a constant that an instruction names holds a reserved value (R248, R276). -/
def badConst (r : ShedRec) (i : Instr) : Bool :=
  let c := fun (k : Nat) => r.consts.getD k 0
  match i with
  | .constC k _ _ =>
    let w := c k.toNat
    3 < (w.extractLsb' 0 4).toNat || (w.extractLsb' 0 4 != 0 && w.extractLsb' 4 28 != 0)
  | .escOrd k _ _ | .escUnord k _ _ =>
    let w := c (k.toNat + 1)
    w.extractLsb' 0 16 == 0 || 4 < (w.extractLsb' 16 3).toNat || 4 < (w.extractLsb' 20 3).toNat || w.extractLsb' 23 9 != 0
  | .explk k _ _ => (c k.toNat).toNat / 2 ^ 13 != 0
  | .frame k _ _ => badFrame (c k.toNat) || (c (k.toNat + 1)).toNat / 2 ^ 12 != 0
  | .unframe k _ _ => badFrame (c k.toNat)
  | _ => false

/-- Whether the format of a PE is the one its FMT3 field names (R191). -/
def fmtIs (g : Fmt3) (f : Fmt) : Bool := if f.isTwill then g == .tw else g != .tw && fmt3Fmt f g == f

/-- Whether an element-wise operation may stand in a PE of a format (R191, R217). -/
def elemFmtOk (o : ElemOp) (f : Fmt) : Bool :=
  match o with
  | .alu _ | .mul _ | .bits _ => f.isInt
  | .fp _ g | .fma _ g | .cmp _ g | .fclass g | .icvtTo _ g | .icvtFrom g | .sfu _ g => fmtIs g f
  | .fcvt d s => if d == .tw || s == .tw then f.isTwill else fmtIs d f

/-- Whether an instruction may stand in a PE of a format (R252, R261 to R263, R274, R276). -/
def nodeFmtOk (r : ShedRec) (i : Instr) (f : Fmt) : Bool :=
  match i with
  | .elementwiseNode o _ _ => elemFmtOk o f
  | .lredSum _ _ _ | .lredMax _ _ _ | .lredMin _ _ _ | .scale _ _ => f == .fp32
  | .rmax _ g _ _ => fmtIs g f
  | .upd (.int _) _ _ => f == .int32 || f == .int64
  | .upd _ _ _ => f == .fp32 || f == .fp64
  | .frame k _ _ => fmtOf ((r.consts.getD k.toNat 0).extractLsb' 0 4) == some f
  | _ => true

/-- The macro that an instruction names, and the format it gives it (R253). -/
def nodeMacro (i : Instr) : Option (Nat × Option Mf3) :=
  match i with
  | .mma _ mf m _ _ | .bload mf m _ _ => some (m.toNat, some mf)
  | .accRd m _ _ | .accRdclr m _ _ | .accClr m _ _ | .lredSum m _ _ | .lredMax m _ _ | .lredMin m _ _ => some (m.toNat, none)
  | _ => none

/-- The formats that the nodes of an entry give a macro, in slot order. -/
def ShedRec.macroFmts (r : ShedRec) (m : Nat) : List (Nat × Mf3) :=
  r.slots.filterMap fun j => match (r.instr j).bind nodeMacro with
    | some (k, some mf) => if k == m then some (j, mf) else none
    | _ => none

/-- 0x09 of a slot: a retired macro, two formats of one macro, two formats of one queue, two MMA nodes for one queue and
macro, and other than one wired left port, which the queue's first node answers for (R253, R256, R342). -/
def badMacro (v : CheckEnv) (r : ShedRec) (j : Nat) (i : Instr) : Bool :=
  let named := match nodeMacro i with
    | some (m, mf) =>
      v.retired.getLsbD m || (match mf, r.macroFmts m with
        | some f, (_, g) :: _ => f != g
        | _, _ => false)
    | none => false
  let queue := match i with
    | .mma q mf m _ _ =>
      let l := r.mmas q
      (match l with
        | (k, f, _) :: _ => f != mf || (k == j && (l.filter fun e => r.wired e.1 .l).length != 1)
        | [] => false)
        || l.any fun e => decide (e.1 < j) && e.2.2 == m.toNat
    | _ => false
  named || queue

/-- Whether every token at FRAME's left port carries a release at p: it comes from a WIDEN of scope p, here or in the shed
at the other end of the channel (R158). -/
def frameReleased (v : CheckEnv) (r : ShedRec) (j : Nat) : Bool :=
  let t : Target := .node (BitVec.ofNat 6 j) .l
  let wide := fun (q : ShedRec) (k : Nat) => match q.instr k with
    | some (.widen .p _ _) => true
    | _ => false
  (r.sources t).all (wide r) && (r.portTargets.filter (·.2 == t)).all fun e =>
    8 ≤ e.1 && v.all.all fun q => (List.range 8).all fun c =>
      let o := q.port (8 + c)
      !(o.en && o.out && o.peer.toNat == r.index && o.pport.toNat + 8 == e.1)
        || ((q.sources (.shed (BitVec.ofNat 4 (8 + c)))).all (wide q)
          && !q.portTargets.any (·.2 == .shed (BitVec.ofNat 4 (8 + c))))

/-- Whether an instruction is FRAME, or UNFRAME. -/
def isFrame (i : Option Instr) : Bool :=
  match i with
  | some (.frame _ _ _) => true
  | _ => false

def isUnframe (i : Option Instr) : Bool :=
  match i with
  | some (.unframe _ _ _) => true
  | _ => false

/-- 0x0B of a slot (R276). -/
def badPlace (r : ShedRec) (j : Nat) (i : Instr) : Bool :=
  let left : Target := .node (BitVec.ofNat 6 j) .l
  match i with
  | .frame _ t _ =>
    (r.slots.any fun k => (decide (k < j) && isFrame (r.instr k)) || isUnframe (r.instr k))
      || (match t with
        | .shed p => p.toNat < 8
        | _ => true)
  | .unframe _ _ _ =>
    !(r.sources left).isEmpty || r.portTargets.any fun e => e.2 == left && (e.1 < 8 || !(r.port e.1).frameIn)
  | _ => false

/-- 0x0C of a slot: what a pre-emptible lease may not hold (R276). -/
def badPre (v : CheckEnv) (r : ShedRec) (j : Nat) (i : Instr) : Bool :=
  v.pre && match i with
    | .rmax _ _ _ _ | .delay _ _ _ | .race _ _ _ | .frame _ _ _ | .unframe _ _ _ => true
    | .mma _ _ _ _ _ => r.portTargets.any fun e => 8 ≤ e.1 && e.2 == .node (BitVec.ofNat 6 j) .l
    | _ => false

/-- The checks of a slot, in the order of their codes. -/
def checkSlot (v : CheckEnv) (r : ShedRec) (j : Nat) : Option Refused :=
  let w := r.word j
  let byte := r.pes.getD j 0
  let pe := fails (byte.getLsbD 7 || (fmtOf (r.fmtCode j)).isNone || (rmode (r.rmCode j)).isNone) 0x0a j
  if w = 0 then pe
  else
    match decodeGraph (w ||| 0x3ffff) with
    | none => fails true 0x02 j
    | some bare =>
      let i := (decodeGraph w).getD bare
      firstFail
        [ fails (r.badTargets (w.extractLsb' 9 9) (w.extractLsb' 0 9)) 0x03 j
        , fails (isMemory i != decide (56 ≤ j)) 0x04 j
        , fails (isFrame (some i) && !frameReleased v r j) 0x06 j
        , fails ((nodeConsts i).any (r.consts.length ≤ ·) || badConst r i) 0x08 j
        , fails (badMacro v r j i) 0x09 j
        , pe
        , fails (!nodeFmtOk r i (r.fmt j)) 0x0a j
        , fails (badPlace r j i) 0x0b j
        , fails (badPre v r j i) 0x0c j ]

/-! Ports -/

/-- Whether a port is FRAME's output port, which has no peer of its own. -/
def ShedRec.framePort (r : ShedRec) (p : Nat) : Bool :=
  r.slots.any fun j => match r.instr j with
    | some (.frame _ t _) => t == .shed (BitVec.ofNat 4 p)
    | _ => false

/-- The FIFO entries of the ports up to one. -/
def ShedRec.pool (r : ShedRec) (p : Nat) : Nat :=
  ((List.range (p + 1)).map fun q => if (r.port q).en then (r.port q).depth else 0).sum

/-- Whether a channel output port names a channel input port of a shed of the loom. -/
def goodPeer (v : CheckEnv) (c : PortCfg) : Bool :=
  v.all.any fun q => q.index == c.peer.toNat && c.peer.toNat < v.sheds
    && (let o := q.port (8 + c.pport.toNat)
        o.en && !o.out)

/-- Whether what passes a channel output port carries a release that reaches the other shed (R158). -/
def ShedRec.released (r : ShedRec) (p : Nat) : Bool :=
  let t : Target := .shed (BitVec.ofNat 4 p)
  r.scopeK || (!r.portTargets.any (·.2 == t) && (r.sources t).all fun j => match r.instr j with
    | some (.widen _ _ _) => true
    | _ => false)

/-- The checks of a port; ports are numbered from 1 in the refusal word. -/
def checkPort (v : CheckEnv) (r : ShedRec) (p : Nat) : Option Refused :=
  let w := r.ports.getD p 0
  let c := r.port p
  let channel := c.out && 8 ≤ p && !r.framePort p
  if w.getLsbD 31 || w.toNat / 2 ^ 44 != 0 then fails true 0x05 0 (p + 1)
  else if !c.en then none
  else
    firstFail
      [ fails (!c.out && r.badTargets (w.extractLsb' 13 9) (w.extractLsb' 22 9)) 0x03 0 (p + 1)
      , fails (c.depth < 8 || 128 < c.depth || 512 < r.pool p || (channel && !goodPeer v c)) 0x05 0 (p + 1)
      , fails (channel && !r.released p) 0x06 0 (p + 1) ]

/-! The whole record -/

/-- The checks of one entry. -/
def checkShed (v : CheckEnv) (dup : Bool) (r : ShedRec) : Option Refused :=
  firstFail
    ([checkEntry v dup r, checkBank v r, checkBuffer v r] ++ (List.range 64).map (checkSlot v r)
      ++ (List.range 16).map (checkPort v r))

/-- The checks of the entries, one after another. -/
def checkSheds (v : CheckEnv) (retired : Nat → BitVec 8) : List Nat → List ShedRec → Option (Nat × Refused)
  | _, [] => none
  | seen, r :: rs =>
    match checkShed { v with retired := retired r.index } (seen.contains r.index) r with
    | some f => some (r.index, f)
    | none => checkSheds v retired (r.index :: seen) rs

/-- The refusal word (Table 16-2). -/
def refusalWord (shed : Nat) (f : Refused) : Word :=
  0#36 ++ BitVec.ofNat 5 f.port ++ BitVec.ofNat 6 f.slot ++ BitVec.ofNat 9 shed ++ f.check

end Sys2Proof.Machine
end

