-- ==== Sys2Proof/Machine/SaveArea.lean ====
section
/-!
DEFINITION. The save area of a shed (02 R78, R79, R83; 08 R276): what CKPT puts into the checkpoint buffer and the area of Table
2-9, and what RESUME takes from it. Table 2-9 says what the area holds and not how it is coded: the coding here is the model's
(DESIGN CHOICE, log entry 50).
-/

namespace Sys2Proof.Machine

/-- The bytes of a shed's save area, and of its accumulator files. -/
def saveBytes : Nat := 0x12000
def accBytes : Nat := 0x10000

/-- The doubles of the save area before its reserved part, and where its parts begin: the checkpoint buffer, the iterators, and
the triggers, tile queues, context states and tickets. -/
def saveWords : Nat := (accBytes + 0x1200) / 8
def bufferAt : Nat := accBytes / 8
def iterAt : Nat := bufferAt + 512
def otherAt : Nat := iterAt + 32

/-! Tokens in the checkpoint buffer (R78) -/

/-- Where a token of the checkpoint buffer stands: an operand buffer by its key, or the tokens that a step has moved, or the FIFO,
of a port. -/
inductive TokenPlace where
  | operand (key : Nat)
  | staged (port : Nat)
  | fifo (port : Nat)
  deriving DecidableEq, Repr

/-- The code of a place, and its number. -/
def TokenPlace.code : TokenPlace → Nat × Nat
  | .operand k => (0, k)
  | .staged p => (1, p)
  | .fifo p => (2, p)

/-- The 16 bytes of a token: its PAYLOAD, and a double of KIND [1:0], CTX [3:2], whether its die counts it as open [4], the code of
its place [9:8], its number [31:16], and 1 in [63]. -/
def tokenDoubles (q : TokenPlace × Token) : List Word :=
  let c := q.1.code
  [q.2.payload,
   1#1 ++ 0#31 ++ BitVec.ofNat 16 c.2 ++ 0#6 ++ BitVec.ofNat 2 c.1 ++ 0#3 ++ bit q.2.held ++ q.2.ctx ++ q.2.kind]

/-- The token of two doubles of the checkpoint buffer; none of an empty entry. -/
def tokenOf (payload w : Word) : Option (TokenPlace × Token) :=
  if !w.getLsbD 63 then none
  else
    let n := (w.extractLsb' 16 16).toNat
    let place : TokenPlace := match (w.extractLsb' 8 2).toNat with
      | 0 => .operand n
      | 1 => .staged n
      | _ => .fifo n
    some (place, { payload, kind := w.extractLsb' 0 2, ctx := w.extractLsb' 2 2, held := w.getLsbD 4 })

/-- The tokens of a list of doubles. -/
def tokensOf : List Word → List (TokenPlace × Token)
  | p :: w :: r => (tokenOf p w).toList ++ tokensOf r
  | _ => []

/-- The tokens in the operand buffers and port FIFOs of a shed, each place's oldest first. -/
def ShedSt.heldTokens (x : ShedSt) : List (TokenPlace × Token) :=
  (x.operands.flatMap fun e => e.2.toList.map fun k => (.operand e.1, k))
    ++ x.ports.flatMap fun e => (e.2.staged.map fun k => (.staged e.1, k)) ++ e.2.fifo.map fun k => (.fifo e.1, k)

/-- Puts a token where it stood. -/
def ShedSt.placeToken (x : ShedSt) (q : TokenPlace × Token) : ShedSt :=
  match q.1 with
  | .operand n => { x with operands := tblSet none n (some q.2) x.operands }
  | .staged p => x.modPort p fun y => { y with staged := y.staged ++ [q.2] }
  | .fifo p => x.modPort p fun y => { y with fifo := y.fifo ++ [q.2] }

/-- A shed without the tokens of its operand buffers and port FIFOs. -/
def ShedSt.bare (x : ShedSt) : ShedSt :=
  { x with operands := [], ports := x.ports.map fun e => (e.1, { e.2 with staged := [], fifo := [] }) }

/-- Step 3 of R78: the tokens go to the checkpoint buffer, up to 256 of them; LOADCFG accepts no pre-emptible configuration that
could hold more. -/
def ShedSt.toBuffer (x : ShedSt) : ShedSt :=
  let l := x.heldTokens
  (l.drop 256).foldl ShedSt.placeToken { x.bare with ckptBuf := (l.take 256).flatMap tokenDoubles }

/-! Iterators (R78) -/

/-- The 32 bytes of an iterator: the element, the index, the counts of the row and the group, that of the stream, and whether it runs
[0], has ended [1], has an index [2], and its context [4:3]. -/
def StreamSt.iterator (t : StreamSt) : List Word :=
  [BitVec.ofNat 64 t.pos, t.index.getD 0, t.group ++ t.row,
   t.all ++ 0#27 ++ t.ctx ++ bit t.index.isSome ++ bit t.ended ++ bit t.running]

/-- A stream at the position of an iterator. -/
def StreamSt.atIterator (t : StreamSt) (ws : List Word) : StreamSt :=
  let c := ws.getD 2 0
  let f := ws.getD 3 0
  { t with pos := (ws.getD 0 0).toNat, index := if f.getLsbD 2 then some (ws.getD 1 0) else none, row := c.extractLsb' 0 32,
           group := c.extractLsb' 32 32, all := f.extractLsb' 32 32, ctx := f.extractLsb' 3 2, running := f.getLsbD 0,
           ended := f.getLsbD 1 }

/-! Triggers, tile queues, context states and tickets (R78) -/

/-- Two 32-bit values in a double, the first below. -/
def twoIn (a b : BitVec 32) : Word := b ++ a

/-- A 32-bit value of a list of doubles. -/
def halfOf (ws : List Word) (k : Nat) : BitVec 32 := (ws.getD (k / 2) 0).extractLsb' (32 * (k % 2)) 32

/-- An entry of a tile queue: its macros [7:0], row-slot [15:8], context [17:16] and passes left [47:32], and 1 in [63]. -/
def TileEntry.double (e : TileEntry) : Word :=
  1#1 ++ 0#15 ++ BitVec.ofNat 16 e.passes ++ 0#14 ++ e.ctx ++ BitVec.ofNat 8 e.row ++ e.macros

/-- The entries of a tile queue in a list of doubles. -/
def tileEntries (ws : List Word) : List TileEntry :=
  (ws.filter (·.getLsbD 63)).map fun w =>
    { macros := w.extractLsb' 0 8, row := (w.extractLsb' 8 8).toNat, ctx := w.extractLsb' 16 2, passes := (w.extractLsb' 32 16).toNat }

/-- A list as n doubles, zeros behind it. -/
def padWords (n : Nat) (l : List Word) : List Word := (List.range n).map fun k => l.getD k 0

/-- The code of a context's state. -/
def CtxState.code : CtxState → BitVec 2
  | .active => 0
  | .miss => 1
  | .done => 2

/-- The state of a code. -/
def ctxOfCode : BitVec 2 → CtxState
  | 0 => .active
  | 1 => .miss
  | _ => .done

/-- The ESC nodes of a shed. -/
def ShedSt.escSlots (x : ShedSt) : List Nat := (x.words.filter fun w => (escConst x w.1).isSome).map (·.1)

/-- The ticket counter of an ESC node. -/
def ShedSt.ticket (x : ShedSt) (slot : Nat) : BitVec 32 := (tblGet {} (nodeIx slot 0) x.nodes : NodeSt).count

/-- The 32 doubles behind the iterators: NEXT of triggers 0 to 7, the entries of the two queues, the context states, and the ticket
counters of the first 22 ESC nodes. -/
def ShedSt.otherWords (x : ShedSt) : List Word :=
  let next := fun (u : Nat) => (tblGet {} u x.trigs : Trigger).next
  let esc := x.escSlots.map x.ticket
  ((List.range 4).map fun k => twoIn (next (2 * k)) (next (2 * k + 1)))
    ++ padWords 8 (x.tqa.entries.map TileEntry.double) ++ padWords 8 (x.tqb.entries.map TileEntry.double)
    ++ [0#56 ++ (x.ctxAt 3).code ++ (x.ctxAt 2).code ++ (x.ctxAt 1).code ++ (x.ctxAt 0).code]
    ++ (List.range 11).map fun k => twoIn (esc.getD (2 * k) 0) (esc.getD (2 * k + 1) 0)

/-- The double at a place of a shed's save area. -/
def ShedSt.saveWord (x : ShedSt) (k : Nat) : Word :=
  if k < bufferAt then
    let acc : Tbl (BitVec 32) := (x.macroAt (k / 1024)).acc
    twoIn (tblGet 0 (2 * (k % 1024)) acc) (tblGet 0 (2 * (k % 1024) + 1) acc)
  else if k < iterAt then x.ckptBuf.getD (k - bufferAt) 0
  else if k < otherAt then ((x.stream ((k - iterAt) / 4)).iterator).getD ((k - iterAt) % 4) 0
  else x.otherWords.getD (k - otherAt) 0

/-- The places of the doubles of a save area. -/
def savePlaces (save : Nat) (index : Nat) (n : Nat) : List Nat :=
  (List.range n).map fun k => save + saveBytes * index + 8 * k

/-! What RESUME takes (R79) -/

/-- The accumulators as a save area holds them. -/
def accOf (ws : List Word) (m : Nat) : Tbl (BitVec 32) := tblOf 0 2048 fun k => halfOf (ws.drop (1024 * m)) k

/-- Sets the ticket counters of the ESC nodes. -/
def ShedSt.setTickets (x : ShedSt) (ws : List Word) : ShedSt :=
  x.escSlots.zipIdx.foldl (fun x e =>
    if 22 ≤ e.2 then x
    else x.setNode e.1 0 { (tblGet {} (nodeIx e.1 0) x.nodes : NodeSt) with count := halfOf ws e.2 }) x

/-- What a shed takes of its save area. -/
def ShedSt.takeArea (x : ShedSt) (ws : List Word) : ShedSt :=
  let other := ws.drop otherAt
  let states := other.getD 20 0
  let x :=
    { x with
      macros := tblOf {} 8 fun m => { x.macroAt m with acc := accOf ws m }
      streams := tblOf {} 8 fun p => (x.stream p).atIterator ((ws.drop (iterAt + 4 * p)).take 4)
      trigs := x.trigs.map fun (e : Nat × Trigger) => (e.1, { e.2 with next := halfOf other e.1 })
      tqa := { x.tqa with entries := tileEntries ((other.drop 4).take 8) }
      tqb := { x.tqb with entries := tileEntries ((other.drop 12).take 8) }
      ctxState := tblOf .active 4 fun c => ctxOfCode (states.extractLsb' (2 * c) 2)
      ckptBuf := (ws.drop bufferAt).take 512 }
  (tokensOf x.ckptBuf).foldl ShedSt.placeToken (x.setTickets (other.drop 21))

/-- What a shed takes of the image that its loom keeps of it, beside its save area: the state of its nodes and row FIFOs, of its
ports, streams, triggers and commands that Table 2-9 does not list, what has stopped for the period, and the macro images, which
re-running the load streams of unchanged sources brings back (R79, R276, log entry 32). -/
def ShedSt.takeImage (x image : ShedSt) : ShedSt :=
  { x with
    scales := image.scales, captured := image.captured, stamps := image.stamps, nodes := image.nodes, outq := image.outq,
    lastCtx := image.lastCtx, stops := image.stops, ports := image.ports, operands := image.operands, streams := image.streams,
    trigs := image.trigs, cmds := image.cmds, tqa := image.tqa, tqb := image.tqb, turnB := image.turnB, highRun := image.highRun,
    rows := image.rows, building := image.building,
    macros := tblOf {} 8 fun m => { x.macroAt m with image := (image.macroAt m).image } }

/-! Fills of contexts in MISS (R83) -/

/-- The token that asks for the weights of the header an EXPLK node holds (R272). -/
def fillToken (h : ShedNo) (c : Nat) (l : Token) : Word := 0#41 ++ h ++ BitVec.ofNat 2 c ++ l.headerExpert

/-- The fills that a shed waits for: the queue and the token of each. -/
def ShedSt.fills (x : ShedSt) (h : ShedNo) : List (HqNo × Word) :=
  x.words.flatMap fun w => match decodeGraph w.2 with
    | some (.explk k _ _) => (List.range 4).filterMap fun c =>
      match (tblGet {} (nodeIx w.1 c) x.nodes : NodeSt).toks with
      | [l] => if x.ctxAt c == .miss then some ((x.const k.toNat).extractLsb' 1 12, fillToken h c l) else none
      | _ => none
    | _ => []

/-- Pushes fills again; none while a queue has no room. -/
def State.refill (s : State) (d : Die) : List (HqNo × Word) → Option State
  | [] => some s
  | (q, w) :: r => if s.hqRoom d q then (s.hqPush d q w).refill d r else none

end Sys2Proof.Machine
end

