-- ==== Sys2Proof/Machine/Loom.lean ====
section
/-!
DEFINITION. The period of a loom (02 R47, R48, R78, R79; 08 R276; 09 R296, R297, R299; 14 R379; 16 R410 to R417): LOADCFG, DRAIN,
CKPT, RESUME and the events that complete them.
-/

namespace Sys2Proof.Machine

set_option linter.constructorNameAsVariable false

/-! LOADCFG -/

/-- Whether a substitute for a shed of a loom has still to be granted. -/
def State.lacksShed (s : State) (d : Die) (l : LoomNo) : Bool := (s.die d).leases.any (·.substitutes l)

/-- Sets the state of every shed of a loom. -/
def State.setSheds (s : State) (d : Die) (l : LoomNo) (st : ShedState) : State :=
  (s.loomSheds d l).foldl (fun s h => s.modShed d h fun x => { x with state := st }) s

/-- LOADCFG at issue: a release at k; the loom is LOADING and the slot waits. -/
def loadConfigAt (forced : Bool) (v : List Word) (t : State) : Act :=
  let i := t.cur
  let w := v.getD 0 0
  let va := v.getD 1 0
  let l : LoomNo := w.extractLsb' 0 7
  t.withState l w va [.leased] fun _ =>
    match t.addressFault i va 6 with
    | some f => f
    | none =>
      if !t.releases then .wait
      else if t.lacksShed i.die l || (t.loom i.die l).settling then .go (t.enter i .parkLease (.loom l))
      else
        let t := t.modLoom i.die l fun x => { x with state := .loading, owner := some i, word := t.word, record := va, forced }
        .go ((t.setSheds i.die l .loading).enter i .waitData (.loom l))

/-- LOADCFG. -/
def execLoadcfg (a b : Reg) (s : State) : Result := s.issueOpen [a, b] [] (loadConfigAt false)

/-- LOADCFG.FORCE, privileged. -/
def execLoadcfgForce (a b : Reg) (s : State) : Result :=
  if isPriv s.cur then s.issueOpen [a, b] [] (loadConfigAt true) else s.perform (.trap 0x02 0 0 0)

/-! Tokens of a loom (R411) -/

/-- Whether a packet is bound for a shed of a list. -/
def Packet.boundFor (q : Packet) (d : Die) (hs : List ShedNo) : Bool :=
  match q with
  | .token e h _ _ | .credit e h _ => e == d && hs.contains h
  | .frame f => f.dst == d && hs.contains f.shed
  | _ => false

/-- Whether a token is in motion to a loom. A credit is waited for likewise: it counts an entry of the period it comes
from. -/
def State.inMotion (s : State) (d : Die) (l : LoomNo) : Bool :=
  let hs := s.loomSheds d l
  s.net.any fun q => q.packet.boundFor d hs

/-- The tokens at rest in a shed: in operand buffers, port FIFOs, row FIFOs, and those produced and not yet delivered. -/
def ShedSt.residual (x : ShedSt) : Nat :=
  (x.operands.filter fun e => e.2.isSome).length
    + (x.ports.map fun e => e.2.fifo.length + e.2.staged.length).sum
    + (x.rows.map fun e => (e.2.map fun r => r.1.length + r.2.length).sum).sum
    + (x.building.map fun e => e.2.1.length + e.2.2.length).sum
    + (x.outq.map fun e => e.2.length).sum

/-! Loading -/

/-- The seed of a PE's LFSR (R99). -/
def peSeed (seed resumes : BitVec 32) (h : ShedNo) (j : Nat) : BitVec 32 :=
  let w := (seed ^^^ resumes) ^^^ (BitVec.ofNat 32 (h.toNat * 64 + j) * 0x9e3779b9)
  if w = 0 then 1 else w

/-- The LFSRs of a shed's PEs. -/
def peSeeds (seed resumes : BitVec 32) (h : ShedNo) : Tbl (BitVec 32) :=
  (List.range 64).foldl (fun t j => tblSet 0 j (peSeed seed resumes h j) t) []

/-- The copies that are loading a macro (R253). -/
def State.copyLoads (s : State) (d : Die) (h : ShedNo) (m : Nat) : Nat :=
  (s.harts.filter fun e => e.1 / 64 == d.toNat && e.2.running.isSome && e.2.elem != 0 && Template.image e.2.tmpl
    && !(match e.2.running with
      | some k => k.bind.isSome
      | none => false)
    && Template.shed e.2.tmpl == h && Template.mac e.2.tmpl == m).length

/-- The credits of a port when the period starts: the depth of the FIFO it feeds. -/
def ConfigRec.credits (g : ConfigRec) (p : Nat) (c : PortCfg) : Nat :=
  if !c.en || !c.out then 0
  else if p < 8 then c.depth
  else
    match g.sheds.find? fun q => q.index == c.peer.toNat with
    | some q => (q.port (8 + c.pport.toNat)).depth
    | none => 0

/-- A shed as LOADCFG leaves it: its entry's configuration, every node and port in its initial state, every accumulator
+0 (12 R348). A macro keeps its image (R253, R297). -/
def ShedSt.load (x : ShedSt) (h : ShedNo) (g : ConfigRec) (sheds : List ShedNo) (resumes : BitVec 32) (loads : Nat → Nat)
    (r : ShedRec) : ShedSt :=
  let cfg := fun (p : Nat) =>
    let c := r.port p
    if c.en then { c with peer := sheds.getD c.peer.toNat 0 } else {}
  { state := .running, retired := x.retired, retiredMacros := x.retiredMacros, loom := x.loom, rel := x.rel, ctx := x.ctx,
    sfflags := x.sfflags, flagAclk := x.flagAclk, flagSet := x.flagSet, sdisc := x.sdisc, elog := x.elog, tlb := x.tlb, closed := x.closed, frames := x.frames,
    slices := x.slices, ckptBuf := x.ckptBuf,
    words := tblOf 0 64 r.word
    consts := r.consts
    scopeK := r.scopeK
    fmts := tblOf 0 64 r.fmtCode
    rms := tblOf 0 64 r.rmCode
    cfg := tblOf {} 16 cfg
    updReordered := r.updord
    bbase := r.bbase
    blen := r.blen
    nctx := g.nctx
    lfsr := peSeeds g.seed resumes h
    ports := tblOf {} 16 fun p => { credits := g.credits p (r.port p) }
    macros := tblOf {} 8 fun m =>
      { x.macroAt m with fmt := ((r.macroFmts m).head?.map (·.2)).getD .int8, acc := [], pass := none, loads := loads m } }

/-- The entry of a shed that no entry names. -/
def emptyRec (index : Nat) : ShedRec :=
  { reserved := false, index, updord := false, bbase := 0, blen := 0, ports := [], pes := [] }

/-- Whether a configuration makes its period not replayable (R417). -/
def ConfigRec.noReplay (g : ConfigRec) : Bool :=
  g.sheds.any fun r => r.slots.any fun j => match r.instr j with
    | some (.upd _ _ _) | some (.graphFeNode _ _ _ _) | some (.escOrd _ _ _) | some (.escUnord _ _ _)
    | some (.frame _ _ _) | some (.unframe _ _ _) => true
    | _ => false

/-- The bank bindings of a configuration. -/
def ConfigRec.bindings (g : ConfigRec) : List (Bool × Nat × Nat) :=
  (g.sheds.filter (·.blen != 0)).map fun r => (false, r.bbase.toNat, r.bbase.toNat + r.blen.toNat)

/-- Loads every shed of a loom and starts it; a forced load notes what it discards (R411). -/
def State.loadLoom (s : State) (d : Die) (l : LoomNo) (g : ConfigRec) : State :=
  let x := s.loom d l
  let s := (s.loomSheds d l).foldl (fun s h =>
    let y := s.shed d h
    let s := match y.frameNode with
      | some (_, k) => s.closeFrames d h (y.frameCfg k)
      | none => s
    let r := (g.sheds.find? fun r => r.index == y.rel.toNat).getD (emptyRec y.rel.toNat)
    let loads := s.copyLoads d h
    s.modShed d h fun z =>
      let z := if x.forced then { z with sdisc := BitVec.ofNat 32 z.residual } else z
      let z := z.load h g x.sheds x.resumes loads r
      if z.frameNode.isSome then { z with paths := s.framePaths d h } else z) s
  s.modLoom d l fun x =>
    { x with state := .running, owner := none, nctx := g.nctx, seed := g.seed, noReplay := g.noReplay,
             hulls := g.bindings, started := s.aclk }

/-- A loom whose load is given up is LEASED as before. -/
def State.endLoading (s : State) (d : Die) (l : LoomNo) : State :=
  (s.setSheds d l .leased).modLoom d l fun x => { x with state := .leased, owner := none }

/-- The period of a loom ends: stream commands that could no longer take effect are given up (log entry 36). -/
def State.dropCmds (s : State) (d : Die) (l : LoomNo) : State :=
  (s.loomSheds d l).foldl (fun s h => s.modShed d h fun x => { x with cmds := [] }) s

/-- The address ranges that other looms of a die have bound. -/
def State.boundElsewhere (s : State) (d : Die) (l : LoomNo) : List (Nat × Nat) :=
  (s.sheds.filter fun e => e.1 / 512 == d.toNat && e.2.loom != l && e.2.blen != 0
    && (e.2.state == .running || e.2.state == .draining)).map fun e =>
      (e.2.bbase.toNat, e.2.bbase.toNat + e.2.blen.toNat)

/-- The trap of a refused configuration (R410). -/
def refuse (shed : Nat) (f : Refused) (aux : Word) : Act := .trap 0x40 f.check (refusalWord shed f) aux

/-- Reads and checks the record of a loom, and loads it. -/
def State.loadConfig (s : State) (d : Die) (l : LoomNo) (andThen : State → State) : Act :=
  let x := s.loom d l
  s.withConfig x.record x.sheds.length fun g t =>
    if g.badHeader then refuse 0x1ff { check := 0x01 } x.record
    else
      let v : CheckEnv :=
        { all := g.sheds, sheds := x.sheds.length, nctx := g.nctx, pre := x.pre, retired := 0, bound := t.boundElsewhere d l }
      let retired := fun (k : Nat) => (t.shed d (x.sheds.getD k 0)).retiredMacros
      match checkSheds v retired [] g.sheds with
      | some (h, f) => refuse h f x.record
      | none => .go (andThen (t.loadLoom d l g))

/-- LOADCFG proper: tokens that remain are refused or discarded (R411), and the configuration is loaded. -/
def State.tryLoad (s : State) (d : Die) (l : LoomNo) : Act :=
  let x := s.loom d l
  let hs := s.loomSheds d l
  let rest := (hs.map fun h => (s.shed d h).residual).sum
  if !x.forced && rest != 0 then
    let first := (hs.find? fun h => (s.shed d h).residual != 0).getD 0
    refuse (s.shed d first).rel.toNat { check := 0x0d } (BitVec.ofNat 64 rest)
  else
    s.loadConfig d l State.advance

/-- CONFIGURATION_LOAD: no token is in motion; the configuration is loaded or refused. A read that is held or has to wait
leaves the loom LEASED, and the slot at its LOADCFG. -/
def execConfigurationLoad (s : State) : Result :=
  let d := s.ev.die
  let l : LoomNo := BitVec.ofNat 7 s.ev.unit
  let x := s.loom d l
  match x.owner with
  | some i =>
    if x.state != .loading || s.inMotion d l then .next s
    else
      let s := { s with cur := i, word := x.word }
      match s.tryLoad d l with
      | .go t => .next t
      | a => (s.endLoading d l).perform a
  | none => .next s

/-! DRAIN, CKPT and RESUME at issue -/

/-- The slot waits for its loom. -/
def State.awaitLoom (t : State) (l : LoomNo) (st : LoomState) : State :=
  let i := t.cur
  (t.modLoom i.die l fun x => { x with state := st, owner := some i, word := t.word }).enter i .waitData (.loom l)

/-- DRAIN: injection stops at once, and the sheds are DRAINING (R47, R48); PREEMPT 3 on a SAVED loom. -/
def execDrain (a : Reg) (s : State) : Result :=
  s.issueOpen [a] [] fun v t =>
    let w := v.getD 0 0
    let l : LoomNo := w.extractLsb' 0 7
    t.withLoom l w 0 fun x =>
      if x.state == .saved then .trap 0x0e 3 (l.zeroExtend 64) 0
      else if x.state != .running then .trap 0x41 1 w 0
      else .go ((t.setSheds t.cur.die l .draining).awaitLoom l .draining)

/-- Feeder ports that feed a row FIFO go on until they have completed a row (R276). -/
def State.finishRows (s : State) (d : Die) (l : LoomNo) : State :=
  (s.loomSheds d l).foldl (fun s h => s.modShed d h fun x => { x with finishing := (List.range 8).filter x.feedsRows }) s

/-- CKPT: injection stops (R78), at a port that feeds a row FIFO at the end of its row (R276). -/
def execCkpt (a : Reg) (s : State) : Result :=
  s.issueOpen [a] [] fun v t =>
    let w := v.getD 0 0
    let l : LoomNo := w.extractLsb' 0 7
    t.withLoom l w 0 fun x =>
      if !x.pre then .trap 0x0e 0 (l.zeroExtend 64) 0
      else if x.state != .running then .trap 0x0e 1 (l.zeroExtend 64) 0
      else .go (((t.setSheds t.cur.die l .draining).finishRows t.cur.die l).awaitLoom l .saving)

/-- RESUME: the slot parks until the arbiter grants the sheds. -/
def execResume (a : Reg) (s : State) : Result :=
  s.issueOpen [a] [] fun v t =>
    let w := v.getD 0 0
    let l : LoomNo := w.extractLsb' 0 7
    let i := t.cur
    t.withLoom l w 0 fun x =>
      if x.state != .saved then .trap 0x0e 2 (l.zeroExtend 64) 0
      else
        let r : LeaseReq :=
          { kind := .resume l, who := some (i, (t.slot i).inc), level := x.level, count := x.count, ctx := x.ctx }
        let t := t.modLoom i.die l fun y => { y with word := t.word }
        .go ((t.modDie i.die fun y => { y with leases := y.leases ++ [r] }).enter i .parkLease .retry)

/-! The drain (R47) -/

/-- Whether a port of a shed can still move a token. -/
def ShedSt.portMoves (x : ShedSt) (p : Nat) : Bool :=
  let c := x.port p
  let q := x.portSt p
  c.en && !x.stopped (portItem p) && !c.out &&
    match (if c.free then q.fifo else q.staged) with
    | k :: _ => x.mayPass p k
    | [] => false

/-- Whether a step of the fixed-rate ports can take place. -/
def ShedSt.stepMoves (x : ShedSt) : Bool := !x.stepPorts.isEmpty && x.stepPorts.all x.stepReady

/-- Whether tokens that have been produced can be delivered. -/
def ShedSt.outMoves (x : ShedSt) : Bool :=
  x.outq.any fun e => !x.stopped e.1 && e.2.any fun o => x.targetRoom o.target o.tok.ctx.toNat

/-- Whether an ESC node has an escape that has not been answered. -/
def ShedSt.escapes (x : ShedSt) : Bool :=
  x.words.any fun w => (escConst x w.1).isSome && !x.stopped w.1 &&
    let n : NodeSt := tblGet {} (nodeIx w.1 0) x.nodes
    !n.toks.isEmpty || n.vals.any fun e => !n.extra.any (·.1 == e.1)

/-- Whether DELAY nodes hold tokens that are to leave. -/
def ShedSt.delayed (x : ShedSt) : Bool := x.nodes.any fun e => !x.stopped (e.1 / 4) && !e.2.late.isEmpty

/-- Whether a feeder port still completes a row after CKPT, and can go on with it (R276). -/
def ShedSt.rowOpen (x : ShedSt) (p : Nat) : Bool :=
  x.finishesRow p && x.injectsAt p && (x.portSt p).fifo.length < (x.port p).depth && !x.streamStopped p

/-- Whether a running write stream has tokens to write, or a window's write-back is to be done. -/
def ShedSt.writesOpen (x : ShedSt) : Bool :=
  x.streams.any fun e => !e.2.wins.isEmpty
    || (e.2.running && Descriptor.writes e.2.desc && !x.streamStopped e.1 && !(x.portSt e.1).fifo.isEmpty)

/-- Whether a request of a node of the shed is in the SFU. -/
def State.shedSfu (s : State) (d : Die) (h : ShedNo) : Bool :=
  let k := s.skein d (skeinFacing h)
  let mine := fun (r : SfuReq) => match r.agent with
    | .node e g _ _ => e == d && g == h
    | .slot _ _ => false
  (k.queue ++ k.serving).any mine || k.waiting.any fun q => mine q.2

/-- Whether a reply is on its way to a shed. -/
def State.replyMoving (s : State) (d : Die) (h : ShedNo) : Bool :=
  s.net.any fun q => match q.packet with
    | .reply e g _ _ _ _ => e == d && g == h
    | .token e g _ _ | .credit e g _ => e == d && g == h
    | _ => false

/-- Whether a queued command can still take effect in a drain: one that waits for a stream that no longer injects can not (log
entry 36). -/
def State.cmdMoves (s : State) (d : Die) (h : ShedNo) (q : QueuedCmd) : Bool :=
  let x := s.shed d h
  let before := x.before q.id
  match q.cmd with
  | .sbind p _ => !x.portBusy q.id p && x.streamDone p
  | .sgo m c => m == 0 || (maskPorts m).any fun p => !x.portBusy q.id p && x.streamDone p && (x.stream p).mayTake c
  | .sbar m => ((s.loomOf d h).filter fun g => ((s.shed d g).cmd q.id).isSome).all fun g => (s.shed d g).barDone q.id m
  | .trig _ =>
    !before.any (·.cmd.isTrig)
      && (q.words.isEmpty || !before.any fun e => !e.cmd.isBar && (triggerOf q.words).feederPorts.any e.ports.contains)
  | .tq k w =>
    !before.any (·.cmd.isTq k) && (x.stopped (queueItem k) || w.getLsbD 28 || (x.queue k).entries.length < 8)

/-- Whether something can still happen in a shed: a node can fire, a port, step or delivery can move, or an access, pass,
write or SFU request of the period is still open. In a drain for CKPT escapes stay open (R83). -/
def State.shedBusy (s : State) (d : Die) (h : ShedNo) (saving : Bool) : Bool :=
  let x := s.shed d h
  (s.nodesOf d h).any s.canFire || (List.range 16).any x.portMoves || x.stepMoves || x.outMoves || x.arbitrate.isSome
    || x.macros.any (fun e => e.2.pass.isSome) || x.delayed || x.writesOpen || (List.range 8).any x.rowOpen || (!saving && x.escapes) || s.shedSfu d h
    || s.replyMoving d h
    || x.cmds.any (s.cmdMoves d h)
    || s.accs.any fun a => match a.agent with
      | .node e g _ _ => e == d && g == h
      | .slot _ _ => false

/-- Writes back the banks of a loom. -/
def State.cleanBanks (s : State) (d : Die) (l : LoomNo) : State :=
  (s.loomSheds d l).foldl (fun s h => s.writeBackAll d h fun _ => true) s

/-- The holds of a drained loom on draft versions are closed (10 R328). -/
def State.closeHolds (s : State) (d : Die) (l : LoomNo) : State :=
  let hs := s.loomSheds d l
  let s := hs.foldl (fun s h => s.modShed d h fun x =>
    { x with opened := x.opened.map fun f => { f with counted := false },
             closed := x.closed.map fun f => { f with counted := false } }) s
  let s := s.modDie d fun y =>
    { y with framesKept := y.framesKept.map fun f => if hs.contains f.sender then { f with counted := false } else f }
  s.modLoom d l fun x => { x with holds := [] }

/-- The lowest loom-relative shed of a loom with SXFAULT or SFFAULT set (R414). -/
def State.faultyShed (s : State) (d : Die) (l : LoomNo) : Option Nat :=
  ((s.loomSheds d l).find? fun h =>
    let x := s.shed d h
    x.sxfault.cause != 0 || x.sxfault.more || x.sffault.cause != 0 || x.sffault.more).map fun h => (s.shed d h).rel.toNat

/-- The drain is complete: the sheds are LEASED, and the completion token is an acquire at k by the waiting slot, which goes
on or traps PERIODFLT behind its DRAIN (R160, R414). -/
def State.finishDrain (s : State) (d : Die) (l : LoomNo) : State :=
  let x := s.loom d l
  let bad := s.faultyShed d l
  let s := (((s.cleanBanks d l).closeHolds d l).dropCmds d l).endLoading d l
  match x.owner with
  | some i =>
    let s := s.dropL1d i.die i.core
    match bad with
    | some h => s.takeTrap i 0x43 0 ((s.slot i).pc + 4) x.word (l.zeroExtend 64) (BitVec.ofNat 64 h)
    | none => s.wakeNext i
  | none => s

/-- DRAIN_COMPLETE: when no slot can fire and no queued command can take effect, the drain ends. A loom that drains for CKPT is then written to its save area; what a failed shed has left is then LEASED (R416). -/
def execDrainComplete (s : State) : Result :=
  let d := s.ev.die
  let l : LoomNo := BitVec.ofNat 7 s.ev.unit
  let x := s.loom d l
  let hs := s.loomSheds d l
  .next <|
    if x.settling then
      if (hs.filter fun h => (s.shed d h).state == .draining).any fun h => s.shedBusy d h true then s
      else
        let s := (s.cleanBanks d l).closeHolds d l
        (((s.setSheds d l .leased).modLoom d l fun x => { x with settling := false })).wakeLoom d l
    else if x.state != .draining && x.state != .saving then s
    else if hs.any fun h => s.shedBusy d h (x.state == .saving) then s
    else if x.state == .saving then
      let s := ((s.cleanBanks d l).closeHolds d l).setSheds d l .saved
      (s.loomSheds d l).foldl (fun s h => s.modShed d h ShedSt.toBuffer) s
    else
      let held : Bool := match x.owner with
        | some i => (s.faultyShed d l).isSome && !isPriv i && (s.parkedRecord i || s.trapWaits i)
        | none => false
      if held then s else s.finishDrain d l

/-! The save area (R78, Table 2-9) -/

/-- The image of a shed that CKPT saves, without what the bank and the TLB cached. -/
def ShedSt.saved (x : ShedSt) : ShedSt :=
  { x with fcb := [], tlb := [] }

/-- A shed that has written its save area leaves its loom with its registers, macros and slices: its tokens, streams, triggers,
commands and node states are in the image (R48, R78). -/
def ShedSt.vacated (x : ShedSt) : ShedSt :=
  { state := .free, retired := x.retired, retiredMacros := x.retiredMacros, sfflags := x.sfflags, swincnt := x.swincnt,
    sxfault := x.sxfault, sffault := x.sffault, sdisc := x.sdisc, elog := x.elog, macros := x.macros, slices := x.slices,
    ckptBuf := x.ckptBuf }

/-- CHECKPOINT_WRITTEN (R48, R78): a shed writes its save area; it leaves the loom, and with the last one the loom is
SAVED and the slot goes on. -/
def execCheckpointWritten (s : State) : Result :=
  let d := s.ev.die
  let h := s.ev.shed
  let x := s.shed d h
  let l := x.loom
  let y := s.loom d l
  let who : HeldWho := .descriptor d h 9
  let leave := fun (s : State) =>
    let s := s.modLoom d l fun y =>
      { y with images := (List.range y.sheds.length).map fun k =>
          if k == x.rel.toNat then (s.shed d h).saved else y.images.getD k {} }
    let s := s.modShed d h ShedSt.vacated
    if (s.loomSheds d l).isEmpty then
      let s := s.modLoom d l fun y => { y with state := .saved, owner := none }
      match y.owner with
      | some i => s.wakeNext i
      | none => s
    else s
  .next <|
    if x.state != .saved || y.state != .saving || s.heldWaits d who || s.feederBusy d h who then s
    else if s.heldFails d who then
      let cause := (((s.die d).held.find? (·.who == who)).map (·.cause)).getD 0
      leave ((s.unhold d who).feederFault d h (portItem 0) 0 cause)
    else
      let places := savePlaces y.save.toNat x.rel.toNat saveWords
      let data := places.zipIdx.map fun p => (p.1, bytesOfWord 8 (x.saveWord p.2))
      match feederPut d h (s.heldRetries d who) data s with
      | .ok t => leave (t.unhold d who)
      | .error .wait => s
      | .error (.dead cause) => leave ((s.unhold d who).feederFault d h (portItem 0) 0 cause)
      | .error (.fault cause sub addr) =>
        match s.hold d who false cause sub (s.feederInfo d h 56 needW addr (BitVec.allOnes 64)) with
        | .held t => t
        | .full t => t
        | .failNow t => leave (t.feederFault d h (portItem 0) 0 cause)

/-! RESUME (R79) -/

/-- A shed that LOADCFG has loaded again takes its image and its save area. -/
def ShedSt.restore (x image : ShedSt) (ws : List Word) : ShedSt := (x.takeImage image).takeArea ws

/-- Restores one shed of a loom from its save area. An area that can not be read stops feeder port F0 as its writing does, and the
shed takes free values for it. -/
def State.restoreShed (s : State) (d : Die) (l : LoomNo) (h : ShedNo) : Except State State :=
  let y := s.loom d l
  let x := s.shed d h
  let who : HeldWho := .descriptor d h 9
  let image := y.images.getD x.rel.toNat {}
  let bad := fun (s : State) (cause : Byte) =>
    Except.ok ((s.modShed d h fun z =>
      z.restore image ((List.range saveWords).map fun k => Config.freeWord (s.tick + k))).feederFault d h (portItem 0) 0 cause)
  if s.heldWaits d who || s.feederBusy d h who then .error s
  else if s.heldFails d who then
    bad (s.unhold d who) ((((s.die d).held.find? (·.who == who)).map (·.cause)).getD 0)
  else
    match boardRead d h (s.heldRetries d who) (y.save + BitVec.ofNat 64 (saveBytes * x.rel.toNat)) (List.range saveWords) [] s with
    | .ok (ws, t) => .ok ((t.unhold d who).modShed d h fun z => z.restore image ws)
    | .error .wait => .error s
    | .error (.dead cause) => bad (s.unhold d who) cause
    | .error (.fault cause sub addr) =>
      match s.hold d who false cause sub (s.feederInfo d h 56 needR addr (BitVec.allOnes 64)) with
      | .held t | .full t => .error t
      | .failNow t => bad t cause

/-- Restores the sheds of a loom one after another; where one has to wait, what has been held for it. -/
def State.restoreSheds (s : State) (d : Die) (l : LoomNo) : List ShedNo → Except State State
  | [] => .ok s
  | h :: r =>
    match s.restoreShed d l h with
    | .ok t => t.restoreSheds d l r
    | .error t => .error t

/-- Escape threads whose ESC node has moved with its loom name its shed anew. -/
def State.moveEscapes (s : State) (d : Die) (old new : List ShedNo) (images : List ShedSt) : State :=
  { s with slots := s.slots.map fun e => match e.2.role with
      | .escape g h n t q =>
        let k := old.idxOf h
        let mine := g == d && k < old.length && tblGet 0 t.toNat (tblGet {} (nodeKey n 0) (images.getD k {}).nodes : NodeSt).vals != 0
        if mine then (e.1, { e.2 with role := .escape g (new.getD k 0) n t q }) else e
      | _ => e }

/-- The request at the head receives its sheds, and the loom is restored: its sheds are LOADING. -/
def State.grantResume (s : State) (d : Die) : State :=
  match (s.die d).headLease with
  | none => s
  | some r =>
    match r.kind, s.pickSheds d r, r.who with
    | .resume l, some hs, some (i, _) =>
      let y := s.loom d l
      let s := (s.dropLease d r).joinLoom d l y.ctx hs.zipIdx
      let s := (s.moveEscapes d y.sheds hs y.images).modLoom d l fun y => { y with state := .resuming, sheds := hs, owner := some i }
      (s.setSheds d l .loading).enter i .waitData (.loom l)
    | _, _, _ => s

/-- The sheds of a loom leave it, and it is SAVED as before its RESUME. -/
def State.unresume (s : State) (d : Die) (l : LoomNo) : State :=
  ((s.loomSheds d l).foldl (fun s h => s.modShed d h ShedSt.vacated) s).modLoom d l fun y =>
    { y with state := .saved, owner := none }

/-- The restoring of a loom whose sheds have been granted (R79): LOADCFG is repeated, with the count of resumes one higher, the save
areas are restored, the fills of contexts in MISS are issued again (R83), and the slot goes on. Where LOADCFG can not be repeated,
the slot takes what LOADCFG would have taken, and the loom stays SAVED (log entry 32). -/
def State.finishResume (s : State) (d : Die) (l : LoomNo) : Result :=
  let y := s.loom d l
  match y.owner with
  | some i =>
    let s0 := { s with cur := i, word := y.word }
    match (s0.modLoom d l fun z => { z with resumes := z.resumes + 1 }).loadConfig d l fun t => t with
    | .go t =>
      match t.restoreSheds d l y.sheds with
      | .ok t =>
        match t.refill d (y.sheds.flatMap fun h => (t.shed d h).fills h) with
        | some t => .next ((t.modLoom d l fun z => { z with images := [] }).wakeNext i)
        | none => .next s
      | .error t => .next { s with dies := t.dies, nextId := t.nextId, net := t.net }
    | a => (s0.unresume d l).perform a
  | none => .next s

/-- RESUME_GRANT (R79): with bit 0 of its value clear the arbiter grants the request at the head, with it set the loom it names is
restored. -/
def execResumeGrant (s : State) : Result :=
  let d := s.ev.die
  let l : LoomNo := BitVec.ofNat 7 s.ev.unit
  if !s.ev.val.getLsbD 0 then .next (s.grantResume d)
  else if (s.loom d l).state == .resuming then s.finishResume d l
  else .next s

end Sys2Proof.Machine
end

