-- ==== Sys2Proof/Machine/Failures.lean ====
section
/-!
DEFINITION. Failing parts (15 R403 to R407; 16 R416, R417, R419 to R423, R428): memory errors, suspect and retired cores,
failed cores and register-file banks, the re-run of journaled threads, failed sheds, and the journal engine.
-/

namespace Sys2Proof.Machine

/-! Memory errors (R406) -/

/-- The number of a stack, a slice or a core that holds a double. -/
def errorUnit (pa : Nat) : LogUnit :=
  let o := paOffset pa
  if paSpace pa = 0 then .hbm (BitVec.ofNat 4 (stackOf o))
  else if o < 0x40000000 then .core (BitVec.ofNat 11 (o / 0x20000))
  else if o < 0x80000000 then .core (BitVec.ofNat 11 ((o - 0x40000000) / 0x80000))
  else .l2 (BitVec.ofNat 10 ((o - 0x80000000) / 0x20000))

/-- The errors of a core that CORESUSP looks at. -/
def suspectErrors : Nat := 16

/-- The aclk of a second. -/
def aclkSecond : Nat := 1100000000

/-- ECC_CORRECTABLE: counted in the unit's log; a core notes when. -/
def execEccCorrectable (s : State) : Result :=
  .next <|
    match s.ev.load with
    | .logUnit u =>
      let s := s.count s.ev.die u 0x38
      match u with
      | .core c => s.modCore s.ev.die c fun x => { x with errs := (s.aclk :: x.errs).take suspectErrors }
      | _ => s
    | _ => s

/-- The double of an HBM address is poisoned in the L1D line of a core. -/
def State.poisonL1d (s : State) (d : Die) (c : CoreNo) (pa : Nat) : State :=
  let base := lineOf pa
  s.modCore d c fun x => { x with l1d := tblSet [] base ((tblGet [] base x.l1d).set ((pa - base) / 8) none) x.l1d }

/-- ECC_UNCORRECTABLE: the double is poisoned, and the unit that holds it notifies. The error may be one of the copy of an HBM
double in its L2 slice, which is its home (R113), or in the L1D of a core. -/
def execEccUncorrectable (s : State) : Result :=
  let pa := s.ev.val.toNat
  let home := fun (u : LogUnit) => ((s.setEmpty pa).setPoison pa).countNotify (paDie pa) u 0x39
  .next <|
    if paSpace pa = 2 || (s.badPa (paDie pa) pa).isSome then s
    else if paSpace pa != 0 then home (errorUnit pa)
    else
      match s.ev.load with
      | .logUnit (.l2 n) => home (if n.toNat == sliceOf (paOffset pa) then .l2 n else errorUnit pa)
      | .logUnit (.core c) =>
        if (tblGet [] (lineOf pa) (s.core s.ev.die c).l1d).isEmpty then home (errorUnit pa)
        else (s.poisonL1d s.ev.die c pa).countNotify s.ev.die (.core c) 0x39
      | _ => home (errorUnit pa)

/-- Whether a core's last 16 correctable errors lie within one second. -/
def CoreSt.errorProne (c : CoreSt) : Bool :=
  suspectErrors ≤ c.errs.length && (c.errs.headD 0 - c.errs.getLastD 0).toNat ≤ aclkSecond

/-- CORESUSP (R423). -/
def execCoresusp (s : State) : Result :=
  .next <| if (s.core s.ev.die s.ev.core).errorProne then s.suspectCore s.ev.die s.ev.core else s

/-- Whether slots 0 to 14 of a core are all FREE, and nothing waits for one of them. -/
def State.coreEmpty (s : State) (d : Die) (c : CoreNo) : Bool :=
  ((List.range 15).all fun n => (s.slot ⟨d, c, BitVec.ofNat 4 n⟩).state == .free)
    && (s.core d c).deque.isEmpty && (s.core d c).pending.isEmpty

/-- CORERET (R423): a suspect core without threads is retired; its slot 15 is FREE. -/
def execCoreret (s : State) : Result :=
  let d := s.ev.die
  let c := s.ev.core
  .next <|
    if !(s.core d c).suspect || (s.core d c).retired || !s.coreEmpty d c then s
    else
      let s := s.modCore d c fun x => { x with retired := true }
      let s := s.modSlot ⟨d, c, 15⟩ fun x => emptySlot x (s.coreClock d c)
      (s.countNotify d (.core c) 0x4d).noteRepair d { kind := 3, unit := c, sub := 0 }

/-! Orphans and poisoned parks (R403, R404, Table 16-6) -/

/-- The access of a wait entry fails. -/
def State.failWait (s : State) (w : WaitEntry) (cause : Byte) : State :=
  match s.access w.access with
  | some a => s.failAccess a cause 0 a.va
  | none => { s with waits := s.waits.filter (·.access != w.access) }

/-- Whether an operation meets ORPHAN on an orphaned double. -/
def meetsOrphan (o : MemOp) : Bool := o == .fe .lde || o == .fe .waitf || o == .fe .take

/-- Marks take entries ORPH; the waiters parked on their doubles trap. -/
def State.orphan (s : State) (p : TakeEntry → Bool) : State :=
  let pas := (s.takes.filter p).map (·.pa)
  let s := { s with takes := s.takes.map fun t => if p t then { t with orph := true } else t }
  (s.waits.filter fun w => pas.contains (doubleOf w.pa) && meetsOrphan w.op).foldl (fun s w => s.failWait w 0x28) s

/-- Replaces the numbers of a rising list that lie in n doubles from an address on. -/
def setRange (lo n : Nat) (new : List Nat) (l : List Nat) : List Nat :=
  l.filter (· < lo) ++ new ++ l.filter (lo + 8 * n ≤ ·)

/-- n doubles from an address on are poisoned; the waits parked on them fail. -/
def State.poisonRange (s : State) (lo n : Nat) : State :=
  let s := { s with
    poison := setRange lo n ((List.range n).map fun k => lo + 8 * k) s.poison, full := setRange lo n [] s.full }
  (s.waits.filter fun w => lo ≤ w.pa && w.pa < lo + 8 * n).foldl (fun s w => s.failWait w 0x29) s

/-- The scratchpad and the skein-memory share of a core are poisoned. -/
def State.poisonCore (s : State) (d : Die) (c : CoreNo) : State :=
  (s.poisonRange (paOf d 1 (c.toNat * 0x20000)) 0x4000).poisonRange (paOf d 1 (0x40000000 + c.toNat * 0x80000)) 0x10000

/-! Failed threads (Table 16-6) -/

/-- The accesses of an agent, its places in held-fault tables and its SFU requests are removed. -/
def State.dropAgent (s : State) (d : Die) (k : BitVec 7) (g : Agent) : State :=
  let mine := s.accs.filter (·.agent == g)
  let s := mine.foldl (fun s a => (s.dropAccess a.id).unhold d (.access a.id)) s
  s.modSkein d k fun x =>
    { x with queue := x.queue.filter (·.agent != g), serving := x.serving.filter (·.agent != g), waiting := x.waiting.filter fun q => q.2.agent != g }

/-- What a thread holds beside its registers is given up: accesses, parks, requests and the units it waits at. -/
def State.dropThread (s : State) (i : SlotId) : State :=
  let x := s.slot i
  let s := s.dropAgent i.die (skeinOf i.core) (.slot i x.inc)
  let s := ((s.unhold i.die (.operand i)).unhold i.die (.fetch i)).unhold i.die (.vector i)
  let s := s.modDie i.die fun y => { y with leases := y.leases.filter fun r => r.who != some (i, x.inc) }
  let s := if s.root.waiter == some i then { s with root := { s.root with waiter := none } } else s
  let s := { s with looms := s.looms.map fun (e : Nat × Loom) => if e.2.owner == some i then (e.1, { e.2 with owner := none }) else e }
  s.modCore i.die i.core fun c =>
    { c with
      row := if c.row.owner == some i.slot then { c.row with owner := none, queue := [] } else c.row
      side := { c.side with queue := c.side.queue.filter (·.slot != i.slot) } }

/-- The migration of a thread that is on its way from a slot: whether its target has accepted it. -/
def State.movedAway (s : State) (i : SlotId) : Bool :=
  (s.slot i).await == .departure && s.net.any fun q => match q.packet with
    | .slotAnswer p ok => p.frm == i && ok
    | _ => false

/-- A slot packet from a slot is dropped. -/
def State.dropDeparture (s : State) (i : SlotId) : State :=
  { s with net := s.net.filter fun q => match q.packet with
      | .slotPacket p | .slotAnswer p _ => p.frm != i
      | _ => true }

/-- A thread that is not journaled is lost: its escape's node stops, an unanswered responder counts as lost, and the doubles
it had taken are orphaned. -/
def State.loseThread (s : State) (i : SlotId) (x : SlotSt) : State :=
  let s := match x.role with
    | .escape d h n _ false => s.stopItem d h n.toNat 8
    | .responder c false => s.countAnswer c none true
    | _ => s
  s.orphan fun t => t.who == .slot i x.inc

/-- The journal record of a thread. -/
def State.recordOf (s : State) (x : SlotSt) : Option JournalRec :=
  x.jrec.bind fun seq => s.dies.findSome? fun e => e.2.journal.find? (·.seq == seq)

/-- The state a re-run starts from: the last sealed record or the start record (R422). -/
def State.rerunImage (s : State) (x : SlotSt) : SlotSt :=
  let y := match s.recordOf x with
    | some r => r.image
    | none => x
  { y with jrec := x.jrec, jord := 0, jparent := x.jparent, jresult := x.jresult, log := [], fails := [], streams := [] }

/-- The thread of a slot has failed with its core or bank (R419, R422). -/
def State.failThread (s : State) (i : SlotId) : State :=
  let x := s.slot i
  if x.state == .free then s
  else
    let moved := s.movedAway i
    let s := (s.dropDeparture i).dropThread i
    let s :=
      if moved then s
      else if s.jnlOf i then
        let r : Rerun := { image := s.rerunImage x, old := i, inc := x.inc, ctx := (s.core i.die i.core).ctx }
        s.modDie i.die fun y => { y with reruns := y.reruns ++ [r] }
      else s.loseThread i x
    s.modSlot i fun x => emptySlot x (s.coreClock i.die i.core)

/-! Re-runs (R422) -/

/-- The cores of a die in the order in which a re-run looks for one: its skein first. -/
def rerunCores (c : CoreNo) : List CoreNo :=
  ((List.range 16).map fun j => skeinOf c ++ BitVec.ofNat 4 j) ++ (List.range 2048).map (BitVec.ofNat 11)

/-- Whether a core takes a re-run. -/
def State.takesRerun (s : State) (r : Rerun) (c : CoreNo) : Bool :=
  let x := s.core r.old.die c
  c != r.old.core && !x.suspect && !x.failed && x.ctx == r.ctx && (s.freeSlot r.old.die c).isSome

/-- The parent in a join reference after a re-run (log entry 51). -/
def JoinRef.moved (p : JoinRef) (r : Rerun) (i : SlotId) (inc : Byte) : JoinRef :=
  if p == ⟨r.old.die, r.old.core, r.old.slot, r.inc⟩ then ⟨i.die, i.core, i.slot, inc⟩ else p

/-- The children of a failed thread that have still to join, wherever they are, join its re-run; how many there are. -/
def State.moveChildren (s : State) (r : Rerun) (i : SlotId) (inc : Byte) : State × Nat :=
  let mine := fun (p : JoinRef) => p == ⟨r.old.die, r.old.core, r.old.slot, r.inc⟩
  let inSlots := (s.slots.filter fun e => e.2.join.any mine).length
  let inDeques := (s.cores.map fun e => (e.2.deque.filter fun f => mine f.parent).length).sum
  let inNet := (s.net.filter fun q => match q.packet with
    | .joined p => mine p
    | .slotPacket p => p.image.join.any mine
    | _ => false).length
  let t := { s with
    slots := s.slots.map fun e => (e.1, { e.2 with join := e.2.join.map (·.moved r i inc) })
    cores := s.cores.map fun e => (e.1, { e.2 with deque := e.2.deque.map fun f => { f with parent := f.parent.moved r i inc } })
    net := s.net.map fun q => match q.packet with
      | .joined p => { q with packet := .joined (p.moved r i inc) }
      | .slotPacket p => { q with packet := .slotPacket { p with image := { p.image with join := p.image.join.map (·.moved r i inc) } } }
      | _ => q }
  (t, inSlots + inDeques + inNet)

/-- The take entries of a failed thread pass to its re-run, which takes those of its present record again (R403, R422). -/
def State.moveTakes (s : State) (r : Rerun) (g : Agent) : State :=
  { s with takes := s.takes.map fun t =>
      if t.who == .slot r.old r.inc || (t.record.isSome && t.record == r.image.jrec) then
        { t with who := g, redo := t.record.isSome && t.record == r.image.jrec }
      else t }

/-- The re-run of a thread starts in a slot, at a new incarnation and with an empty log. -/
def State.startRerun (s : State) (r : Rerun) (i : SlotId) : State :=
  let old := s.slot i
  let inc := old.inc + 1
  let m := s.moveChildren r i inc
  let y : SlotSt :=
    { r.image with state := .ready, await := .retry, since := s.coreClock i.die i.core, inc := inc, svstat := old.svstat,
                   lastIssue := old.lastIssue, parkKey := 0, parkDst := none, yielding := [], jcnt := BitVec.ofNat 16 m.2 }
  ((m.1.setSlot i y).moveTakes r (.slot i inc)).dropL1d i.die i.core

/-- Places the re-runs that wait for a slot; n bounds them. -/
def State.placeReruns (s : State) (d : Die) : Nat → State
  | 0 => s
  | n + 1 =>
    match (s.die d).reruns with
    | [] => s
    | r :: rest =>
      match (rerunCores r.old.core).find? (s.takesRerun r) with
      | none => s
      | some c =>
        match s.freeSlot d c with
        | none => s
        | some k => (((s.modDie d fun y => { y with reruns := rest }).startRerun r ⟨d, c, k⟩)).placeReruns d n

/-! Failed cores and banks (R419, R428) -/

/-- The fault message of a core or bank retired by a failure; its thread doubles are not stated (log entry 52). -/
def State.failureMail (s : State) (d : Die) (c : CoreNo) (sub : Byte) : State :=
  let x := s.die d
  if !x.faultEn || x.faultCore == c then s.notify d 8
  else
    let f := fun (k : Nat) => Config.freeWord (s.tick + k)
    s.faultMail d x.faultCore x.faultBox [0#21 ++ c ++ 0#10 ++ d ++ sub ++ 0x4d#8, f 1, f 2, f 3, f 4, 0]

/-- What a retired core keeps: its registers of Tables 4-12 and 16-8, its error log and its threshold. -/
def CoreSt.failed' (c : CoreSt) : CoreSt :=
  { ctx := c.ctx, phys := c.phys, pkey := c.pkey, thresh := c.thresh, suspect := c.suspect, retired := true,
    retreq := c.retreq, rslot := c.rslot, elog := c.elog, errs := c.errs, lastSlot := c.lastSlot, checked := c.checked,
    censusSeq := c.censusSeq, failed := true }

/-- A core fails (SUB 0), or its register-file bank 7 does (SUB 1). -/
def State.failCore (s : State) (d : Die) (c : CoreNo) (sub : Byte) : State :=
  if (s.core d c).retired then s
  else
    let s := (coreSlots d c).foldl (fun s i => s.failThread i) s
    let s := (s.core d c).pending.foldl (fun s p => s.countAnswer p.census none true) s
    let s := s.orphan fun t => match t.who with
      | .slot i _ => i.die == d && i.core == c && t.record.isNone
      | .node _ _ _ _ => false
    let s := s.modCore d c (·.failed')
    let s := (s.countNotify d (.core c) 0x4d).failureMail d c sub
    (s.noteRepair d { kind := if sub = 0 then 3 else 2, unit := c, sub := if sub = 0 then 0 else 7 }).poisonCore d c

/-- The event of a failed core: it fails once, and re-runs that wait go on. -/
def coreFailEvent (s : State) : Result :=
  let s := s.failCore s.ev.die s.ev.core 0
  .next (s.placeReruns s.ev.die (s.die s.ev.die).reruns.length)

/-- CORE_FAIL (R419). -/
def execCoreFail (s : State) : Result := coreFailEvent s

/-- CORE_HEARTBEAT_LOSS (R419): the core's router has received no heartbeat for 1,024 mclk. -/
def execCoreHeartbeatLoss (s : State) : Result := coreFailEvent s

/-- BANK_FAIL (R342, R419): slots 2b and 2b + 1 fail; bank 7 retires its core. -/
def execBankFail (s : State) : Result :=
  let d := s.ev.die
  let c := s.ev.core
  let b := s.ev.unit % 8
  .next <|
    if (s.core d c).retired then s
    else
      let s :=
        if b = 7 then s.failCore d c 1
        else if (s.core d c).rslot.getLsbD (2 * b) && (s.core d c).rslot.getLsbD (2 * b + 1) then s
        else
          let e : RepairEntry := { kind := 2, unit := c, sub := BitVec.ofNat 4 b }
          let s := (s.failThread ⟨d, c, BitVec.ofNat 4 (2 * b)⟩).failThread ⟨d, c, BitVec.ofNat 4 (2 * b + 1)⟩
          let s := ((s.retireUnit d e).noteRepair d e).countNotify d (.core c) 0x4d
          s.failureMail d c 1
      s.placeReruns d (s.die d).reruns.length

/-! Failed sheds (R416) -/

/-- The period of a loom stops with the failure of a shed: its other sheds drain, and the loom is LEASED; a slot that waits
for it takes SHEDFAIL. -/
def State.failLoom (s : State) (d : Die) (l : LoomNo) (index : Nat) : State :=
  let x := s.loom d l
  let period := x.state == .running || x.state == .draining || x.state == .saving
  let s := if x.state == .loading || x.state == .resuming then s.setSheds d l .leased else s
  let s := if period then
      (s.loomSheds d l).foldl (fun s h => s.modShed d h fun y => { y with state := .draining }) s
    else s
  let s := s.modLoom d l fun y =>
    { y with state := .leased, owner := none, settling := period || y.settling, failed := some (index, !y.noReplay), images := [] }
  match x.owner with
  | some i => s.takeShedFail i l x.word index (!x.noReplay)
  | none => s

/-- The indices of a loom whose shed has left it, and for which no substitute has been asked yet. -/
def State.missingSheds (s : State) (d : Die) (l : LoomNo) : List Nat :=
  let x := s.loom d l
  (List.range x.sheds.length).filter fun k =>
    !((s.loomSheds d l).any fun h => (s.shed d h).rel.toNat == k)
      && !((s.die d).leases.any fun r => r.kind == .substitute l k)

/-- Asks the arbiter for a substitute (R46). -/
def State.askSubstitute (s : State) (d : Die) (l : LoomNo) (k : Nat) : State :=
  let x := s.loom d l
  let r : LeaseReq := { kind := .substitute l k, who := none, level := x.level, count := 1, ctx := x.ctx }
  s.modDie d fun y => { y with leases := y.leases ++ [r] }

/-- What a failed shed keeps. -/
def ShedSt.cleared (x : ShedSt) (ok : Bool) : ShedSt :=
  { retired := x.retired || !ok, retiredMacros := x.retiredMacros, sfflags := x.sfflags, swincnt := x.swincnt,
    sxfault := x.sxfault, sffault := x.sffault, sdisc := x.sdisc, elog := x.elog }

/-- The accesses of a shed's nodes, and its places in the held-fault table and the SFU, are removed. -/
def State.dropShed (s : State) (d : Die) (h : ShedNo) : State :=
  let mine := fun (g : Agent) => match g with
    | .node e k _ _ => e == d && k == h
    | .slot _ _ => false
  let s := (s.accs.filter fun a => mine a.agent).foldl (fun s a => (s.dropAccess a.id).unhold d (.access a.id)) s
  let s := s.modDie d fun x => { x with held := x.held.filter fun e => match e.who with
    | .stream c k _ | .descriptor c k _ => !(c == d && k == h)
    | _ => true }
  s.modSkein d (skeinFacing h) fun x =>
    { x with queue := x.queue.filter (fun r => !mine r.agent), serving := x.serving.filter (fun r => !mine r.agent), waiting := x.waiting.filter fun q => !mine q.2.agent }

/-- The doubles that a retired shed's nodes had taken are orphaned (R403). -/
def State.orphanShed (s : State) (d : Die) (h : ShedNo) : State :=
  s.orphan fun t => match t.who with
    | .node e k _ _ => e == d && k == h
    | .slot _ _ => false

/-- SHEDFAIL: the failed shed's dirty sectors are discarded and it runs its self-test; the rest of its loom drains, and the
arbiter is asked for a substitute. -/
def execShedfail (s : State) : Result :=
  let d := s.ev.die
  let h := s.ev.shed
  .next <|
    match s.ev.load with
    | .passed ok =>
      let x := s.shed d h
      if x.retired then s
      else
        let s := (s.dropShed d h).modShed d h (·.cleared ok)
        let s := if ok then s else (s.orphanShed d h).noteRepair d { kind := 4, unit := 0#2 ++ h, sub := 0 }
        if x.state == .free then s
        else
          let s := s.failLoom d x.loom x.rel.toNat
          (s.missingSheds d x.loom).foldl (fun s k => s.askSubstitute d x.loom k) s
    | _ => s

/-! The journal engine (R421) -/

/-- Performs an entry of a record of a thread. -/
def State.performEntry (s : State) (i : SlotId) (inc : Byte) (e : LogEntry) : State :=
  let drop := fun (s : State) => s.dropLine i.die i.core e.pa
  match e.op with
  | .store n =>
    if paSpace e.pa == 2 then
      match kickHart (paOffset e.pa) with
      | some k => s.kick (paDie e.pa) k (kickOf i inc e.data none)
      | none => s.writeRegister (paDie e.pa) (paOffset e.pa) e.data false
    else drop (s.plainWrite e.key e.pa n e.data)
  | .mail m => s.send (.mail m)
  | .fill _ => drop (s.fillDouble e.key e.pa e.data)
  | .purge =>
    if s.isPoisoned e.pa then if (s.slot i).inc == inc then s.failSlot i 0x29 0 e.va e.pc else s
    else if s.orphaned e.pa then s
    else (s.setEmpty e.pa).scanWaiters e.key e.pa

/-- JOURNAL_PERFORM: the first sealed record of a die that is not DONE: its entries in program order, and then the effect of
its REPLY or EXIT. The cores that run the thread read nothing older. -/
def execJournalPerform (s : State) : Result :=
  let d := s.ev.die
  .next <|
    match (s.die d).journal.find? fun r => r.closed && !r.done with
    | none => s
    | some r =>
      match r.owner with
      | .node _ _ _ _ => s
      | .slot i inc =>
        let s := r.stores.foldl (fun s e => s.performEntry i inc e) s
        let s := match r.reply with
          | some v => s.replyEffects i r.image.role v
          | none => s
        let s := if r.exit then s.exitEffects i { r.image with inc := inc } else s
        let reruns := (s.slots.filter fun e => e.2.jrec == some r.seq).map fun e => keyCore (e.1 / 16)
        let s := reruns.foldl (fun s c => s.dropL1d c.1 c.2) s
        (s.modDie d fun x => { x with journal := x.journal.map fun q => if q.seq == r.seq then { q with done := true } else q }).prune d

end Sys2Proof.Machine
end

