-- ==== Sys2Proof/Machine/Links.lean ====
section
/-!
DEFINITION. The links of the panel and dies that leave it (06 R184; 16 R427 to R433): replay, retraining and loss of a link,
the rebuilt spanning tree, generations, lost dies, and the words of the network registers.
-/

namespace Sys2Proof.Machine

/-! Links (R429) -/

/-- Changes a link of a die. -/
def State.modLink (s : State) (d : Die) (n : Nat) (f : LinkSt → LinkSt) : State :=
  s.modDie d fun x => { x with links := tblSet {} n (f (tblGet {} n x.links)) x.links }

/-- The link at the other end of link n: N and S, E and W. -/
def linkBack (n : Nat) : Nat := (n + 2) % 4

/-- Changes both ends of a link. -/
def State.modBothEnds (s : State) (d : Die) (n : Nat) (f : LinkSt → LinkSt) : State :=
  let t := s.modLink d n f
  match s.neighbour d n with
  | some e => t.modLink e (linkBack n) f
  | none => t

/-- The number of the link of an event. -/
def State.evLink (s : State) : Nat := s.ev.unit % 4

/-- A replay from the flit named in a negative acknowledgement. -/
def State.replayLink (s : State) (d : Die) (n : Nat) : State :=
  (s.count d (.link (BitVec.ofNat 2 n)) 0x4e).modLink d n fun l => { l with replays := l.replays + 1 }

/-- LINKRETRY. -/
def execLinkretry (s : State) : Result :=
  .next <| if (s.link s.ev.die s.evLink).state == .up then s.replayLink s.ev.die s.evLink else s

/-- The failed replays of one flit after which a link retrains. -/
def replayLimit : Nat := 8

/-- LINK_RETRAIN: the link trains again, and its traffic is held. -/
def execLinkRetrain (s : State) : Result :=
  let l := s.link s.ev.die s.evLink
  .next <|
    if l.state == .up && replayLimit ≤ l.replays then
      s.modBothEnds s.ev.die s.evLink fun l => { l with state := .training }
    else s

/-- LINK_RETRAINED: training ends well, and the held traffic goes on. -/
def execLinkRetrained (s : State) : Result :=
  .next <|
    if (s.link s.ev.die s.evLink).state == .training then
      s.modBothEnds s.ev.die s.evLink fun l => { l with state := .up, replays := 0 }
    else s

/-! Dies that leave (R427, R428, R433) -/

/-- Whether a packet belongs to a die that has left: sent by one of its threads or engines, or an answer to it. -/
def Packet.ofDie (q : Packet) (d : Die) : Bool :=
  match q with
  | .mail m | .returned m _ _ => m.origin == d
  | .accepted i => i.die == d
  | .slotPacket p | .slotAnswer p _ => p.frm.die == d
  | .frame f => f.dst == d
  | .cancelled _ i _ => i.die == d
  | .netWord i _ _ => i.die == d
  | .token e _ _ _ | .credit e _ _ | .reply e _ _ _ _ _ | .fillDone e _ _ _ => e == d
  | _ => false

/-- The responders of censuses that a die owes and that have not answered: running, pending, waiting to be re-run, or with
an answer sealed in its journal. -/
def State.owedBy (s : State) (d : Die) : List Word :=
  let role := fun (r : Role) => match r with
    | .responder c false => some c
    | _ => none
  (s.slots.filter fun e => e.1 / 32768 == d.toNat).filterMap (fun e => role e.2.role)
    ++ ((s.cores.filter fun e => e.1 / 2048 == d.toNat).flatMap fun e => e.2.pending.map (·.census))
    ++ (s.die d).reruns.filterMap (fun r => role r.image.role)
    ++ (s.die d).journal.filterMap (fun r => match r.image.role, r.reply, r.done with
      | .responder c _, some _, false => some c
      | _, _, _ => none)
    ++ s.reed.filterMap (fun q => match q.msg with
      | .forward o p _ => if o.1 == d || q.dest.onDie == d then some p.census else none
      | _ => none)

/-- Whether a reed message ends with a die. -/
def State.reedEnds (s : State) (d : Die) (q : ReedItem) : Bool :=
  match q.msg with
  | .solicit p _ => (censusCore p.census).1 == d
  | .move i _ _ _ | .ack i _ | .refuse i _ _ => i.die == d
  | .forward o _ _ => o.1 == d || q.dest.onDie == d
  | .barrier id _ =>
    match s.access id with
    | some a => a.die == d || (paDie a.pa == d && a.stage != .done)
    | none => true

/-- Accesses of a die end with it; those to it walk again, and find BADPA 0. -/
def State.cutAccesses (s : State) (d : Die) : State :=
  let gone := (s.accs.filter fun a => a.die == d).map (·.id)
  { s with
    accs := (s.accs.filter fun a => a.die != d).map fun a =>
      if a.known && paDie a.pa == d then { a with stage := .walk, fresh := true } else a
    waits := s.waits.filter fun w => paDie w.pa != d && !gone.contains w.access
    takes := s.takes.filter fun t => paDie t.pa != d }

/-- The units and the memory of a die are lost. -/
def State.removeDie (s : State) (d : Die) : State :=
  let n := d.toNat
  { s with
    dies := tblDel n s.dies, mem := s.mem.filter fun e => paDie e.1 != d
    full := s.full.filter fun pa => paDie pa != d, poison := s.poison.filter fun pa => paDie pa != d
    cores := s.cores.filter fun e => e.1 / 2048 != n, slots := s.slots.filter fun e => e.1 / 32768 != n
    skeins := s.skeins.filter fun e => e.1 / 128 != n, sheds := s.sheds.filter fun e => e.1 / 512 != n
    looms := s.looms.filter fun e => e.1 / 128 != n, harts := s.harts.filter fun e => e.1 / 64 != n
    hqs := s.hqs.filter fun e => e.1 / 4096 != n }

/-- The links that lead to a die are lost. -/
def State.loseLinks (s : State) (d : Die) : State :=
  (List.range 4).foldl (fun s n => match s.neighbour d n with
    | some e => s.modLink e (linkBack n) fun l => if l.state == .detour then l else { l with state := .lost }
    | none => s) s

/-- A die of the panel without a lost die: its GOOD bit is cleared, and copies of frames to it are given up. -/
def DieSt.without (x : DieSt) (place : Nat) (d : Die) : DieSt :=
  let b := x.boot
  { x with
    boot := { b with good := b.good &&& ~~~(1#64 <<< place) }, framesKept := x.framesKept.filter fun f => f.dst != d }

/-- What a lost die sent and owed is settled. -/
def State.settleOwed (s : State) (d : Die) : State :=
  let owed := s.owedBy d
  let s := { s with net := s.net.filter (fun q => !q.packet.ofDie d), reed := (s.reed.filter fun q => !s.reedEnds d q).flatMap (s.reedAround d) }
  owed.foldl (fun s c => s.countAnswer c none true) s

/-- A slot of a lost die waits for a publish or a switch no more. -/
def State.dropDraftWaiter (s : State) (d : Die) : State :=
  let r := s.root
  match r.waiter with
  | some i => if i.die == d then { s with root := { r with waiter := none } } else s
  | none => s

/-- DIELOST at the root, in the log of its link N (log entry 53). -/
def State.logDieLost (s : State) : State :=
  match s.rootDie with
  | some r => s.countNotify r (.link 0) 0x52
  | none => s

/-- A die leaves the panel: its GOOD bit is cleared on every die, the root logs DIELOST, what it owed is settled, and it
takes no further part (log entry 53). -/
def State.dieLeaves (s : State) (d : Die) : State :=
  let b := (s.die d).boot
  if !b.present then s
  else
    let place := b.py.toNat * 8 + b.px.toNat
    let s := (((s.settleOwed d).loseLinks d).cutAccesses d).removeDie d
    let s := { s with dies := s.dies.map fun (e : Nat × DieSt) => (e.1, e.2.without place d) }
    ((s.dropDraftWaiter d).settleDraft d).logDieLost

/-- DIE_HEARTBEAT_LOSS. -/
def execDieHeartbeatLoss (s : State) : Result := .next (s.dieLeaves s.ev.die)

/-- Whether every link of a die to a die of the panel is down. -/
def State.cutOff (s : State) (d : Die) : Bool :=
  (List.range 4).all fun n => (s.neighbour d n).isNone || ((s.link d n).state != .up && (s.link d n).state != .training)

/-- LINKDOWN: training has failed, and the link is down until the panel is reset; a die whose neighbours all find their
links to it down leaves the panel. -/
def execLinkdown (s : State) : Result :=
  let d := s.ev.die
  let n := s.evLink
  .next <|
    if (s.link d n).state != .training then s
    else
      let s := (s.modBothEnds d n fun l => { l with state := .lost }).countNotify d (.link (BitVec.ofNat 2 n)) 0x4f
      let s := match s.neighbour d n with
        | some e => s.countNotify e (.link (BitVec.ofNat 2 (linkBack n))) 0x4f
        | none => s
      let leave := fun (s : State) (e : Die) => if !(s.die e).boot.root && s.cutOff e then s.dieLeaves e else s
      match s.neighbour d n with
      | some e => leave (leave s d) e
      | none => leave s d

/-! The rebuilt tree and generations (R430, R431) -/

/-- The lost links of a die lead onto the new tree. -/
def DieSt.rebuilt (x : DieSt) : DieSt :=
  { x with links := x.links.map fun (k : Nat × LinkSt) =>
      if k.2.state == .lost then (k.1, { k.2 with state := .detour }) else k }

/-- Firmware writes the route table of every core of a die, or of one core (R38). -/
def State.setRoutes (s : State) (d : Die) (via : Option CoreNo) (l : List RouteEntry) : State :=
  match via with
  | none =>
    let s := s.modDie d fun x => { x with routes := l }
    { s with cores := s.cores.filterMap fun e =>
        if e.1 / 2048 == d.toNat then
          let y : CoreSt := { e.2 with routes := none }
          if y == {} then none else some (e.1, y)
        else some e }
  | some c => s.modCore d c fun x => { x with routes := some l }

/-- SPANNING_TREE_REBUILD: every die has its new route table, what the lost links held travels along the new tree, and the
frames whose copies are held are sent again. -/
def execSpanningTreeRebuild (s : State) : Result :=
  .next <|
    match s.ev.load with
    | .routes l =>
      let s := l.foldl (fun s r => s.setRoutes r.die r.core r.entries) s
      let s := { s with dies := s.dies.map fun (e : Nat × DieSt) => (e.1, e.2.rebuilt) }
      (s.dies.flatMap fun e => e.2.framesKept).foldl (fun s f => s.send (.frame f)) s
    | _ => s

/-- GENERATION_ADVANCE: the sending generation of a die rises, and every receiver knows it. -/
def execGenerationAdvance (s : State) : Result :=
  let d := s.ev.die
  let g := (s.die d).gen + 1
  let s := s.modDie d fun x => { x with gen := g }
  .next { s with dies := s.dies.map fun (e : Nat × DieSt) =>
    (e.1, { e.2 with peerGens := tblSet 0 d.toNat g e.2.peerGens }) }

/-- The flits that a sender keeps. -/
def replayFlits : Nat := 512

/-- The sender of a link notes a flit that it sends for the first time. -/
def State.noteFlit (s : State) (d : Die) (n : Nat) (f : LinkFlit) : State :=
  s.modLink d n fun l =>
    if f.seq = l.sendSeq then
      let kept := l.replay ++ [f]
      { l with sendSeq := l.sendSeq + 1, replay := kept.drop (kept.length - replayFlits) }
    else l

/-- Whether a receiver accepts a generation of a source. -/
def State.acceptsGen (s : State) (d source : Die) (g : BitVec 8) : Bool :=
  let k := tblGet 0 source.toNat (s.die d).peerGens
  g == k || g == k - 1

/-- FLIT_ARRIVAL: a flit with a bad CRC or behind a gap is replayed, a duplicate is discarded, and one of another generation
is dropped with its packet. -/
def execFlitArrival (s : State) : Result :=
  let d := s.ev.die
  let n := s.evLink
  .next <|
    match s.ev.load, s.neighbour d n with
    | .flit f, some e =>
      if (s.link d n).state != .up then s
      else
        let s := s.noteFlit e (linkBack n) f
        let ahead := f.seq - (s.link d n).recvSeq
        if !f.crcOk || (0 < ahead && ahead < 0x800) then s.replayLink e (linkBack n)
        else if ahead != 0 then s
        else
          let s := (s.modLink d n fun l => { l with recvSeq := l.recvSeq + 1 }).modLink e (linkBack n) fun l =>
            { l with replays := 0 }
          if s.acceptsGen d f.source f.gen then s
          else (s.dropPacket f.packet).countNotify d (.link (BitVec.ofNat 2 n)) 0x50
    | _, _ => s

/-! Network registers (R184) -/

/-- Whether an earlier word is on its way to the same network register. -/
def State.wordBehind (s : State) (id : Nat) (i : SlotId) (p : BitVec 3) : Bool :=
  s.net.any fun q => q.id < id && match q.packet with
    | .netWord j r _ => j.die == i.die && j.core == i.core && r == p
    | _ => false

/-- NETWORK_WORD_ARRIVAL: the word waits at its register; the link of a retired core takes none. -/
def execNetworkWordArrival (s : State) : Result :=
  let id := s.ev.id
  .next <|
    match s.packet id with
    | some (.netWord i p w) =>
      if s.wordBehind id i p then s
      else
        let s := s.dropPacket id
        if (s.core i.die i.core).retired then s
        else
          s.modCore i.die i.core fun c => { c with netIn := tblSet [] p.toNat (tblGet [] p.toNat c.netIn ++ [w]) c.netIn }
    | _ => s

end Sys2Proof.Machine
end

