-- ==== Sys2Proof/Machine/CopyElement.lean ====
section
/-!
DEFINITION. The elements of a bobbin hart's copy (04 R130; 09 R308; 15 R401): where each comes from and goes to.
-/

namespace Sys2Proof.Machine

/-! Accesses -/

/-- Finds where chunks of bytes go; none is written. A device register takes none of them (DEVREG, R136). -/
def hartFind (d : Die) (k : Kick) (phys : Option Byte) (fresh : Bool) : List (Nat × List Byte) →
    List (Nat × Byte × List Byte) → State → Except Short (List (Nat × Byte × List Byte) × State)
  | [], l, s => .ok (l, s)
  | (va, bs) :: r, l, s =>
    match s.hartReach d k phys (BitVec.ofNat 64 va) needW false fresh with
    | .notReady | .unready _ _ _ => .error .wait
    | .fault cause sub addr => .error (.fault cause sub addr)
    | .ok pa key t => hartFind d k phys fresh r (l ++ [(pa, key, bs)]) t

/-- Writes a chunk of an element: plainly, or as a filling write of its double (R130). -/
def State.hartPut (s : State) (fills : Bool) (pa : Nat) (key : Byte) (bs : List Byte) : State :=
  let v := wordOfBytes bs
  if fills then s.fillDouble key pa v else s.plainWrite key pa bs.length v

/-! Elements (R130, R401) -/

/-- Chunks of n bytes at an address, cut where doubles end. -/
def elementChunks (va n : Nat) : List (Nat × Nat) := chunks (n + 1) va n

/-! Writes still to be performed (05 R163) -/

/-- Whether the element writes of a template need not be performed when its completion is: CSCOPE s, c or k covers no core, and the
completion orders nothing (R163). -/
def Template.posts (w : Tmpl) : Bool := (Template.cscope w).toNat < 3 && (handleShed (Template.compl w)).isNone

/-- Performs the first of a hart's element writes. -/
def State.performPosted (s : State) (d : Die) (n : HartNo) : State :=
  match (s.hart d n).posted with
  | [] => s
  | p :: rest => (s.modHart d n fun x => { x with posted := rest }).hartPut p.fills p.pa p.key p.bytes

/-- Leaves chunks of an element to be written later. -/
def State.postWrites (s : State) (d : Die) (n : HartNo) (fills : Bool) (l : List (Nat × Byte × List Byte)) : State :=
  { s.modHart d n fun x => { x with posted := x.posted ++ l.map fun q => ⟨s.nextId, q.1, q.2.1, q.2.2, fills⟩ } with
    nextId := s.nextId + 1 }

/-- Reads an element of n bytes. -/
def State.elementGet (s : State) (d : Die) (k : Kick) (phys : Option Byte) (fresh : Bool) (va n : Nat) :
    Except Short (List Byte × State) := hartGet d k phys fresh (elementChunks va n) [] s

/-- An element that has been performed; the last one completes the copy. -/
def State.copyNext (s : State) (d : Die) (n : HartNo) : State :=
  let s := s.modHart d n fun x => { x with elem := x.elem + 1 }
  let x := s.hart d n
  if x.elem < Template.total x.tmpl then s else s.endCopy d n 0

/-- An element that falls short: held, to be tried again, or the end of the copy (R394 to R397). -/
def State.copyShort (s : State) (d : Die) (n : HartNo) (k : Kick) (elem : Nat) (need : Need) : Short → State
  | .wait => s
  | .dead cause => (s.unhold d (.hart d n)).endCopy d n cause
  | .fault cause sub addr =>
    match s.hold d (.hart d n) false cause sub (s.hartInfo n k need addr (BitVec.ofNat 64 elem)) with
    | .held t => t
    | .full t => t
    | .failNow t => t.endCopy d n cause

/-- The data of an element reaches its destination. -/
def State.copyPut (s : State) (d : Die) (n : HartNo) (k : Kick) (w : Tmpl) (elem dst : Nat) (bs : List Byte) : State :=
  let fresh := s.heldRetries d (.hart d n)
  let free := s.unhold d (.hart d n)
  if k.bind.isSome then
    (free.modBound k fun q => { q with items := q.items ++ [wordOfBytes bs], count := q.count + 1 }).copyNext d n
  else if Template.image w then
    let h := Template.shed w
    let m := Template.mac w
    (free.modShed d h fun x => x.modMacro m fun y =>
      { y with loads := if elem = 0 then y.loads + 1 else y.loads,
               image := imageWrite dst (bs.take (imageBytes - dst)) y.image }).copyNext d n
  else
    match hartFind d k (if Template.dphys w then some (Template.pkey w) else none) fresh (cutBytes dst bs) [] s with
    | .error e => s.copyShort d n k elem needW e
    | .ok (l, t) =>
      let t := t.unhold d (.hart d n)
      let fills := Template.dfe w == 1
      if Template.posts w then (t.postWrites d n fills l).copyNext d n
      else (l.foldl (fun t q => t.hartPut fills q.1 q.2.1 q.2.2) t).copyNext d n

/-- Whether an element has to wait: eight elements are held ahead in the bound register, or the first write of a load
finds a pass running (R308, R253). -/
def State.copyWaits (s : State) (d : Die) (k : Kick) (w : Tmpl) (elem : Nat) : Bool :=
  match k.bind with
  | some (i, inc, q) => (s.slot i).inc == inc && 8 ≤ ((s.slot i).stream q).items.length
  | none => Template.image w && elem == 0 && ((s.shed d (Template.shed w)).macroAt (Template.mac w)).pass.isSome

/-- Whether the next element has to come after the writes that the hart has still to perform: it reads a double of one, or its own
writes are not left to be performed later. -/
def HartSt.mustFlush (x : HartSt) : Bool :=
  !x.posted.isEmpty && (!Template.posts x.tmpl || (Template.source? x.tmpl x.elem).any fun a => x.mayMeet a (Template.size x.tmpl))

/-- What the shipped microcode does next (R130, R182): the next element of the hart's copy, or, where the event or the order of its
accesses says so, the first of its writes still to be performed. -/
def State.copyStep (s : State) (d : Die) (n : HartNo) : State :=
  let x := s.hart d n
  let w := x.tmpl
  match x.running with
  | some k =>
    let bound := k.bind.isSome
    if !x.posted.isEmpty && (s.ev.val.getLsbD 0 || x.mustFlush) then s.performPosted d n
    else if s.heldWaits d (.hart d n) || s.copyWaits d k w x.elem then s
    else
      match Template.source? w x.elem, (if bound then some 0 else Template.dest? w x.elem) with
      | some src, some dst =>
        let phys := if Template.sphys w then some (Template.pkey w) else none
        match s.elementGet d k phys (s.heldRetries d (.hart d n)) src (Template.size w) with
        | .error e => s.copyShort d n k x.elem needR e
        | .ok (bs, t) => t.copyPut d n k w x.elem dst bs
      | _, _ => (s.unhold d (.hart d n)).endCopy d n 0x31
  | none => s.performPosted d n

end Sys2Proof.Machine
end

