-- ==== Sys2Proof/Machine/Route.lean ====
section
/-!
DEFINITION. ROUTE (01 R36 to R38; 09 R312; 16 R432).
-/

namespace Sys2Proof.Machine

/-- Whether an endpoint number is listed in Table 1-10. -/
def endpointOk (e : BitVec 12) : Bool := e.toNat < 0xa46

/-- ROUTE of either class. -/
def routeTo (esc : Bool) (d a b : Reg) (s : State) : Result :=
  s.issue [a, b] [d] fun v t =>
    let w := v.getD 0 0
    let r := v.getD 1 0
    let die : Die := w.extractLsb' 0 6
    let e : BitVec 12 := r.extractLsb' 0 12
    if !t.dieThere t.cur.die die then .trap 0x49 0 w r
    else if !endpointOk e then .trap 0x49 1 w r
    else if die == t.cur.die then .go (t.finish d (mkHandle die e ⟨esc, 0, 0⟩))
    else
      match (t.routesOf t.cur.die (some t.cur.core))[die.toNat]?.bind (pathFor t.tick esc) with
      | some p => .go (t.finish d (mkHandle die e p))
      | none => .trap 0x49 0 w r

def execRoute (d a b : Reg) (s : State) : Result := routeTo false d a b s
def execRouteEsc (d a b : Reg) (s : State) : Result := routeTo true d a b s

end Sys2Proof.Machine
end

