-- ==== Sys2Proof/Machine/Micro.lean ====
section
/-!
DEFINITION. Microcode blocks in a bobbin hart (01 R23; 06 R174, R180, R182, R193; 09 R316; 14 R378): what each opcode marked M
does there, and COPY_ELEMENT, by which a hart performs an element of a copy or a word of its microcode. The manual says which
words a hart executes, and not which state a run starts with nor what ends with its faults: those points are log entry 29's.
-/

namespace Sys2Proof.Machine

/-- The shapes of the instructions marked M. -/
inductive MicroOp where
  | const (d : Reg) (f : Word → Word)
  | alu1 (d a : Reg) (f : Word → Word)
  | alu2 (d a b : Reg) (f : Word → Word → Word)
  | exact (k : Byte) (w : Bool) (d a b : Reg)
  | csel (z : Bool) (d a b c : Reg)
  | load (o : LoadOp) (d a : Reg) (i : BitVec 13)
  | store (o : StoreOp) (b a : Reg) (i : BitVec 13)
  | fe (o : FeOp) (d d2 : Reg) (srcs : List Reg)
  | amo (o : AmoOp) (w : Bool) (d b a : Reg)
  | cas (w : Bool) (d b a : Reg)
  | fence
  | syncwin (a b : Reg)
  | branch (cond : Word → Word → Bool) (a b : Reg) (i : BitVec 13)
  | jal (d : Reg) (i : BitVec 19)
  | jalr (d a : Reg) (i : BitVec 13)
  | bnzd (a : Reg) (i : BitVec 13)
  | send (sc : Scope) (a b : Reg) (l : BitVec 3)
  | hqpush (a b : Reg)
  | sysr (d : Reg) (n : BitVec 12)
  | sysw (n : BitVec 12) (a : Reg)
  | route (esc : Bool) (d a b : Reg)
  | halt

/-- The shape of an integer instruction marked M (OP 0x01 to 0x0E). -/
def microAlu : Instr → Option MicroOp
  | .add w d a b => some (.alu2 d a b (alu w .add))
  | .sub w d a b => some (.alu2 d a b (alu w .sub))
  | .and w d a b => some (.alu2 d a b (alu w .and))
  | .or w d a b => some (.alu2 d a b (alu w .or))
  | .xor w d a b => some (.alu2 d a b (alu w .xor))
  | .andn w d a b => some (.alu2 d a b (alu w .andn))
  | .orn w d a b => some (.alu2 d a b (alu w .orn))
  | .xnor w d a b => some (.alu2 d a b (alu w .xnor))
  | .shl w d a b => some (.alu2 d a b (alu w .shl))
  | .shr w d a b => some (.alu2 d a b (alu w .shr))
  | .sra w d a b => some (.alu2 d a b (alu w .sra))
  | .rol w d a b => some (.alu2 d a b (alu w .rol))
  | .ror w d a b => some (.alu2 d a b (alu w .ror))
  | .slt w d a b => some (.alu2 d a b (alu w .slt))
  | .sltu w d a b => some (.alu2 d a b (alu w .sltu))
  | .min w d a b => some (.alu2 d a b (alu w .min))
  | .max w d a b => some (.alu2 d a b (alu w .max))
  | .minu w d a b => some (.alu2 d a b (alu w .minu))
  | .maxu w d a b => some (.alu2 d a b (alu w .maxu))
  | .mul w d a b => some (.alu2 d a b (mulDiv w .mul))
  | .mulh d a b => some (.alu2 d a b (mulDiv false .mulh))
  | .mulhu d a b => some (.alu2 d a b (mulDiv false .mulhu))
  | .mulhsu d a b => some (.alu2 d a b (mulDiv false .mulhsu))
  | .div w d a b => some (.alu2 d a b (mulDiv w .div))
  | .divu w d a b => some (.alu2 d a b (mulDiv w .divu))
  | .rem w d a b => some (.alu2 d a b (mulDiv w .rem))
  | .remu w d a b => some (.alu2 d a b (mulDiv w .remu))
  | .clz w d a => some (.alu1 d a (bits w .clz))
  | .ctz w d a => some (.alu1 d a (bits w .ctz))
  | .popc w d a => some (.alu1 d a (bits w .popc))
  | .brev w d a => some (.alu1 d a (bits w .brev))
  | .bswap w d a => some (.alu1 d a (bits w .bswap))
  | .sextb d a => some (.alu1 d a (bits false .sextb))
  | .sexth d a => some (.alu1 d a (bits false .sexth))
  | .sextw d a => some (.alu1 d a (bits false .sextw))
  | .zextw d a => some (.alu1 d a (bits false .zextw))
  | .addi d a i => some (.alu1 d a (aluImm .add i))
  | .andi d a i => some (.alu1 d a (aluImm .and i))
  | .ori d a i => some (.alu1 d a (aluImm .or i))
  | .xori d a i => some (.alu1 d a (aluImm .xor i))
  | .slti d a i => some (.alu1 d a (aluImm .slt i))
  | .sltiu d a i => some (.alu1 d a (aluImm .sltu i))
  | .shli w d a n => some (.alu1 d a (shiftImm w .shl n))
  | .shri w d a n => some (.alu1 d a (shiftImm w .shr n))
  | .srai w d a n => some (.alu1 d a (shiftImm w .sra n))
  | .roli w d a n => some (.alu1 d a (shiftImm w .rol n))
  | .rori w d a n => some (.alu1 d a (shiftImm w .ror n))
  | .lui d i => some (.const d fun _ => upper i)
  | .auipc d i => some (.const d fun pc => pc + upper i)
  | .addx w d a b => some (.exact 0 w d a b)
  | .subx w d a b => some (.exact 1 w d a b)
  | .mulx w d a b => some (.exact 2 w d a b)
  | .cselNz d a b c => some (.csel false d a b c)
  | .cselZ d a b c => some (.csel true d a b c)
  | _ => none

/-- The shape of a memory instruction marked M (OP 0x20 to 0x2F). -/
def microMem : Instr → Option MicroOp
  | .ldB d a i => some (.load .b d a i)
  | .ldH d a i => some (.load .h d a i)
  | .ldW d a i => some (.load .w d a i)
  | .ldD d a i => some (.load .d d a i)
  | .ldBu d a i => some (.load .bu d a i)
  | .ldHu d a i => some (.load .hu d a i)
  | .ldWu d a i => some (.load .wu d a i)
  | .stB b a i => some (.store .b b a i)
  | .stH b a i => some (.store .h b a i)
  | .stW b a i => some (.store .w b a i)
  | .stD b a i => some (.store .d b a i)
  | .lde _ d a => some (.fe .lde d 0 [a])
  | .take _ d a => some (.fe .take d 0 [a])
  | .put _ b a => some (.fe .put 0 0 [a, b])
  | .fill _ b a => some (.fe .fill 0 0 [a, b])
  | .purge a => some (.fe .purge 0 0 [a])
  | .festat d a => some (.fe .festat d 0 [a])
  | .waitf _ a => some (.fe .waitf 0 0 [a])
  | .trytake _ d b a => some (.fe .trytake d b [a])
  | .amoSwap w d b a | .amoSwapScoped w _ d b a => some (.amo .swap w d b a)
  | .amoAdd w d b a | .amoAddScoped w _ d b a => some (.amo .add w d b a)
  | .amoAnd w d b a | .amoAndScoped w _ d b a => some (.amo .and w d b a)
  | .amoOr w d b a | .amoOrScoped w _ d b a => some (.amo .or w d b a)
  | .amoXor w d b a | .amoXorScoped w _ d b a => some (.amo .xor w d b a)
  | .amoMin w d b a | .amoMinScoped w _ d b a => some (.amo .min w d b a)
  | .amoMax w d b a | .amoMaxScoped w _ d b a => some (.amo .max w d b a)
  | .amoMaxu w d b a | .amoMaxuScoped w _ d b a => some (.amo .maxu w d b a)
  | .cas w _ d b a => some (.cas w d b a)
  | .fenceFull _ | .fenceAcq _ | .fenceRel _ => some .fence
  | .fenceSyncwin _ a b => some (.syncwin a b)
  | _ => none

/-- The shape of every other instruction marked M. -/
def microFlow : Instr → Option MicroOp
  | .beq a b i => some (.branch (fun x y => x == y) a b i)
  | .bne a b i => some (.branch (fun x y => x != y) a b i)
  | .blt a b i => some (.branch (fun x y => x.slt y) a b i)
  | .bge a b i => some (.branch (fun x y => !x.slt y) a b i)
  | .bltu a b i => some (.branch (fun x y => x.ult y) a b i)
  | .bgeu a b i => some (.branch (fun x y => !x.ult y) a b i)
  | .jal d i => some (.jal d i)
  | .jalr d a i => some (.jalr d a i)
  | .bnzd a i => some (.bnzd a i)
  | .send sc a b l => some (.send sc a b l)
  | .hqpush a b => some (.hqpush a b)
  | .sysr d n => some (.sysr d n)
  | .sysw n a => some (.sysw n a)
  | .route d a b => some (.route false d a b)
  | .routeEsc d a b => some (.route true d a b)
  | .halt => some .halt
  | _ => none

/-- The shape of an instruction of a microcode block. -/
def microOf (i : Instr) : Option MicroOp := ((microAlu i).or (microMem i)).or (microFlow i)

/-! The run of a hart -/

/-- What a word of microcode comes to: the machine after it; it is tried again; or the run ends as a copy fault with a cause; or a
fault that firmware can repair. -/
inductive MicroAct where
  | go (s : State)
  | wait
  | fail (cause : Byte)
  | fault (need : Need) (cause sub : Byte) (addr : Word)

/-- A register of a hart (Table 6-5): g0 is zero, cyc counts; NETLINK for a network register, which has no link; a stream register
has no copy. -/
def HartSt.reg (x : HartSt) (aclk : Word) (r : Reg) : Except Byte Word :=
  if isNet r then .error 0x0f
  else if isStream r then .error 0x33
  else if r = 56 then .ok aclk
  else if r = 0 || 54 ≤ r then .ok 0
  else .ok (tblGet 0 r.toNat x.regs)

/-- The values of source registers. -/
def HartSt.sources (x : HartSt) (aclk : Word) (l : List Reg) : Except Byte (List Word) := l.mapM (x.reg aclk)

/-- Writes a register of a hart. -/
def HartSt.write (x : HartSt) (r : Reg) (v : Word) : HartSt :=
  if r = 0 || isNet r then x else { x with regs := tblSet 0 r.toNat v x.regs }

/-- The hart goes on at an address with a result in a register. -/
def State.microNext (s : State) (d : Die) (n : HartNo) (pc : Word) (r : Reg) (v : Word) : State :=
  s.modHart d n fun x => { x.write r v with pc }

/-- An access of a hart's microcode at an address: translated as its template is, and performed at its home at once. -/
def State.microAccess (s : State) (d : Die) (n : HartNo) (k : Kick) (op : MemOp) (va : Word) (log2 : Nat) (data expect : Word)
    (f : Word → Bool → State → State) : MicroAct :=
  let c := s.kickCore k
  let phys := if k.priv && c.phys then some c.pkey else none
  let size := 2 ^ log2
  if va.toNat % size != 0 then .fail 0x20
  else if phys.isNone && 2 ^ 57 ≤ va.toNat then .fail 0x21
  else
    let reg : Bool := match op with | .load .d | .store .d => true | _ => false
    match s.hartReach d k phys va (opNeed op) reg (s.heldRetries d (.hart d n)) with
    | .notReady | .unready _ _ _ => .wait
    | .fault cause sub addr => .fault (opNeed op) cause sub addr
    | .ok pa key t =>
      let t := t.unhold d (.hart d n)
      let a : Access :=
        { id := 0, agent := .node d 0 0 0, op, scope := .s, acq := false, rel := false, va, ctx := c.ctx, phys := phys.isSome,
          priv := k.priv, pa, key, data, expect, pc := 0 }
      let r : AtHome := match op with
        | .load o =>
          if paSpace pa == 2 then let r := t.readRegister (paDie pa) (paOffset pa); .done r.1 true r.2
          else if t.isPoisoned pa then .bad 0x29
          else .done (extendLoad o (t.readHome key pa size)) true t
        | .store _ =>
          if paSpace pa == 2 then .done 0 true (t.writeRegister (paDie pa) (paOffset pa) data k.priv)
          else .done 0 true (t.plainWrite key pa size data)
        | .fe .take | .fe .trytake =>
          if t.orphaned pa then .bad 0x28
          else if t.isPoisoned pa then .bad 0x29
          else if t.isFull pa then .done (t.readHome key pa 8) true ((t.setEmpty pa).scanWaiters key pa)
          else if op == .fe .trytake then .done 0 false t
          else .park
        | .fe o => t.feAtHome a o
        | .amo o w => t.amoAtHome a o w
        | .cas w => t.casAtHome a w
        | _ => .wait
      match r with
      | .done v ok u => .go (f v ok u)
      | .park | .wait => .wait
      | .bad cause => .fail cause

/-- SEND of a hart: its window to the core that the handle names; a handle that is malformed or names no core ends the run (R432). -/
def State.microSend (s : State) (d : Die) (n : HartNo) (x : HartSt) (sc : Scope) (len : Nat) (h w : Word) : Option State :=
  match handleFault h w, handleCore h with
  | none, some c =>
    let m : Mail :=
      { src := .engine d n.toNat, die := handleDie h, core := c, box := w.extractLsb' 0 5,
        words := (List.range len).map fun j => tblGet 0 (48 + j) x.regs, scope := sc,
        chk := if w.getLsbD 5 then some (w.extractLsb' 6 4, w.extractLsb' 10 8) else none,
        multi := false, handle := h, destWord := w }
    some (s.send (.mail m))
  | _, _ => none

/-- An instruction of a microcode block in a hart at the address of its word. A hart executes the privileged ones (R193). -/
def State.microStep (s : State) (d : Die) (n : HartNo) (k : Kick) (x : HartSt) (o : MicroOp) (pc : Word) : MicroAct :=
  let next := fun (r : Reg) (v : Word) (t : State) => t.microNext d n (pc + 4) r v
  let with' := fun (l : List Reg) (f : List Word → MicroAct) =>
    match x.sources s.aclk l with
    | .ok v => f v
    | .error cause => .fail cause
  match o with
  | .const r f => .go (next r (f pc) s)
  | .alu1 r a f => with' [a] fun v => .go (next r (f (v.getD 0 0)) s)
  | .alu2 r a b f => with' [a, b] fun v => .go (next r (f (v.getD 0 0) (v.getD 1 0)) s)
  | .exact e w r a b => with' [a, b] fun v =>
    let y := v.getD 0 0
    let z := v.getD 1 0
    let q := if w then exactN e (low32 y) (low32 z) else exactN e y z
    if inRange (if w then 32 else 64) q then .go (next r (if w then wide32 (BitVec.ofInt 32 q) else BitVec.ofInt 64 q) s)
    else .fail 0x04
  | .csel z r a b c => with' [a, b, c] fun v => .go (next r (select z (v.getD 0 0) (v.getD 1 0) (v.getD 2 0)) s)
  | .load op r a i => with' [a] fun v =>
    s.microAccess d n k (.load op) (v.getD 0 0 + imm64 i) (loadLog2 op) 0 0 fun w _ t => next r w t
  | .store op b a i => with' [a, b] fun v =>
    s.microAccess d n k (.store op) (v.getD 0 0 + imm64 i) (storeLog2 op) (v.getD 1 0) 0 fun _ _ t => next 0 0 t
  | .fe op r r2 l => with' l fun v =>
    s.microAccess d n k (.fe op) (v.getD 0 0) 3 (v.getD 1 0) 0 fun w ok t =>
      let t := if op == .trytake then t.modHart d n (·.write r2 (if ok then 1 else 0)) else t
      next (if ok then r else 0) w t
  | .amo op w r b a => with' [a, b] fun v =>
    s.microAccess d n k (.amo op w) (v.getD 0 0) (if w then 2 else 3) (v.getD 1 0) 0 fun u _ t => next r u t
  | .cas w r b a => with' [a, b, r] fun v =>
    s.microAccess d n k (.cas w) (v.getD 0 0) (if w then 2 else 3) (v.getD 1 0) (v.getD 2 0) fun u _ t => next r u t
  | .fence => .go (next 0 0 s)
  | .syncwin a b => with' [a, b] fun v =>
    let y := v.getD 0 0
    let die : Die := y.extractLsb' 16 6
    if !s.dieThere d die then .fail 0x2a
    else if ((s.shed die (y.extractLsb' 0 9)).swincnt - (v.getD 1 0).extractLsb' 0 32).getLsbD 31 then .wait
    else .go (next 0 0 s)
  | .branch c a b i => with' [a, b] fun v =>
    .go (s.microNext d n (if c (v.getD 0 0) (v.getD 1 0) then pc + wordsAhead i else pc + 4) 0 0)
  | .jal r i => .go (s.microNext d n (pc + wordsAhead i) r (pc + 4))
  | .jalr r a i => with' [a] fun v => .go (s.microNext d n ((v.getD 0 0 + imm64 i) &&& ~~~3#64) r (pc + 4))
  | .bnzd a i => with' [a] fun v =>
    let y := v.getD 0 0 - 1
    .go (s.microNext d n (if y != 0 then pc + wordsAhead i else pc + 4) a y)
  | .send sc a b l => with' [a, b] fun v =>
    match s.microSend d n x sc (l.toNat + 1) (v.getD 0 0) (v.getD 1 0) with
    | some t => .go (next 0 0 t)
    | none => .fail 0x49
  | .hqpush a b => with' [a, b] fun v =>
    let q : HqNo := (v.getD 0 0).extractLsb' 0 12
    if !s.unitUp d readyHq || !s.hqRoom d q then .wait else .go (next 0 0 (s.hqPush d q (v.getD 1 0)))
  | .sysr r num => if (sysReg num).isSome then .go (next r (Config.freeWord s.tick) s) else .fail 0x01
  | .sysw num a => with' [a] fun v =>
    match sysReg num with
    | some q => if reservedSys q (v.getD 0 0) then .fail 0x01 else .go (next 0 0 s)
    | none => .fail 0x01
  | .route esc r a b => with' [a, b] fun v =>
    let die : Die := (v.getD 0 0).extractLsb' 0 6
    let e : BitVec 12 := (v.getD 1 0).extractLsb' 0 12
    if !s.dieThere d die || !endpointOk e then .fail 0x49
    else if die == d then .go (next r (mkHandle die e ⟨esc, 0, 0⟩) s)
    else
      match (s.routesOf d none)[die.toNat]?.bind (pathFor s.tick esc) with
      | some p => .go (next r (mkHandle die e p) s)
      | none => .fail 0x49
  | .halt => .go (s.modHart d n fun x => { x with running := none, tmpl := [], elem := 0, pc := 0, regs := [] })

/-- The word that a hart executes next, with its address: header words are passed over, and past its microcode it finds none (R180). -/
def HartSt.word (x : HartSt) : Word × Option Inst :=
  let l := if x.pc.toNat % 4 = 0 then x.micro.drop (x.pc.toNat / 4) else []
  let heads := l.takeWhile fun w => isHeader w && (decodeHeader w).isSome
  (x.pc + BitVec.ofNat 64 (4 * heads.length), (l.drop heads.length).head?)

/-- A hart executes the next word of its microcode: an unassigned word ends the run as a copy fault, MICRO (R378). -/
def State.microWord (s : State) (d : Die) (n : HartNo) (k : Kick) : State :=
  let x := s.hart d n
  let dead := fun (s : State) (cause : Byte) => (s.unhold d (.hart d n)).endCopy d n cause
  if s.heldWaits d (.hart d n) then s
  else
    let w := x.word
    match (w.2.bind decodeMicro).bind microOf with
    | none => dead s 0x33
    | some o =>
      match s.microStep d n k x o w.1 with
      | .go t => t
      | .wait => s
      | .fail cause => dead s cause
      | .fault need cause sub addr => s.copyShort d n k x.elem need (.fault cause sub addr)

/-- COPY_ELEMENT: the next element of the hart's copy, or, in a hart with other microcode than the shipped, its next word. -/
def execCopyElement (s : State) : Result :=
  let d := s.ev.die
  let n : HartNo := BitVec.ofNat 6 s.ev.unit
  let x := s.hart d n
  .next <|
    match x.running, x.micro with
    | some k, _ :: _ => s.microWord d n k
    | _, _ => s.copyStep d n

end Sys2Proof.Machine
end

