-- ==== Sys2Proof/Machine/SfuUnit.lean ====
section
/-!
DEFINITION. The SFU of a skein (07 R221): granting entries of its queue in rotation, and results.
-/

namespace Sys2Proof.Machine

/-- The place of a slot of a core or of a shed's node in the rotation within its requester. -/
def SfuReq.sub (r : SfuReq) : Nat :=
  match r.agent with
  | .slot i _ => i.slot.toNat
  | .node _ _ n _ => n.toNat

/-- The number next after a last one, in rotation below a bound. -/
def nextIn (bound last : Nat) (l : List Nat) : Option Nat :=
  ((List.range bound).map fun k => (last + 1 + k) % bound).find? l.contains

/-- The waiting request that is granted the next free entry: the requester after the last one, and within it the slot
after its last one. Before the first grant the rotation begins after core 0, and within a core after slot 63, that is with slot 0
(DESIGN CHOICE, log entry 94). -/
def SkeinSt.nextGrant (k : SkeinSt) : Option (Nat × SfuReq) :=
  match nextIn 2052 k.lastCore (k.waiting.map (·.1)) with
  | none => none
  | some p =>
    let mine := k.waiting.filter (·.1 == p)
    match nextIn 64 (tblGet 63 p k.lastSlot) (mine.map (·.2.sub)) with
    | none => none
    | some n => mine.find? (·.2.sub == n)

/-- A slot's register is read: a network word or stream element is consumed (R184). -/
def State.consume (s : State) (i : SlotId) (r : Reg) : State :=
  match s.readReg i r with
  | .val _ t => t
  | _ => s

/-- SFU_GRANT: an entry is free; the slot goes on behind its instruction. -/
def execSfuGrant (s : State) : Result :=
  let d := s.ev.die
  let n : BitVec 7 := BitVec.ofNat 7 s.ev.unit
  let k := s.skein d n
  .next <|
    if !k.room s.aclk then s
    else
      match k.nextGrant with
      | none => s
      | some (p, r) =>
        let s := s.setSkein d n
          { k.accept s.aclk { r with src := none } with
              waiting := k.waiting.erase (p, r), lastCore := p, lastSlot := tblSet 63 p r.sub k.lastSlot }
        match r.agent with
        | .slot i inc =>
          if (s.slot i).inc == inc && (s.slot i).await == .sfu then (s.consume i (r.src.getD 0)).wakeNext i else s
        | .node _ _ _ _ => s

/-- SFU_RESULT: with val 1 the SFU begins to service the oldest accepted request, at most one in an aclk, whose entry is then
free. Otherwise the oldest result being formed returns: to the register and FFLAGS of its slot, or as the token of its node with
the flags of its shed. -/
def execSfuResult (s : State) : Result :=
  let d := s.ev.die
  let n : BitVec 7 := BitVec.ofNat 7 s.ev.unit
  let k := s.skein d n
  .next <|
    if s.ev.val.getLsbD 0 then
      match k.queue with
      | [] => s
      | r :: rest =>
        if k.begun == some s.aclk then s
        else s.setSkein d n { k with queue := rest, serving := k.serving ++ [r], begun := some s.aclk }
    else
    match k.serving with
    | [] => s
    | r :: rest =>
      let s := s.setSkein d n { k with serving := rest }
      let v := sfuOp r.fn (threadFmt r.fmt) r.x
      match r.agent with
      | .slot i inc => if (s.slot i).inc == inc then (s.writeReg i r.dst v.1).orFlags i v.2 else s
      | .node _ h slot c =>
        let x := s.shed d h
        if !x.fires || x.stopped slot.toNat then s
        else
          (s.orShedFlags d h v.2).emit d h slot.toNat
            ((wordTargets (tblGet 0 slot.toNat x.words)).map fun t => ⟨t, dataTok c v.1⟩)

end Sys2Proof.Machine
end

