-- ==== Sys2Proof/Machine/Dispatch.lean ====
section
/-!
DEFINITION. The dispatch: one arm per constructor of Instr, each one direct call of that instruction's meaning.
-/

namespace Sys2Proof.Machine

/-- The meaning of an instruction. -/
def exec (i : Instr) (s : State) : Host.Outcome State Fault Refusal :=
  match i with
  | .add w d a b => Sys2Proof.Machine.execAdd w d a b s
  | .sub w d a b => Sys2Proof.Machine.execSub w d a b s
  | .and w d a b => Sys2Proof.Machine.execAnd w d a b s
  | .or w d a b => Sys2Proof.Machine.execOr w d a b s
  | .xor w d a b => Sys2Proof.Machine.execXor w d a b s
  | .andn w d a b => Sys2Proof.Machine.execAndn w d a b s
  | .orn w d a b => Sys2Proof.Machine.execOrn w d a b s
  | .xnor w d a b => Sys2Proof.Machine.execXnor w d a b s
  | .shl w d a b => Sys2Proof.Machine.execShl w d a b s
  | .shr w d a b => Sys2Proof.Machine.execShr w d a b s
  | .sra w d a b => Sys2Proof.Machine.execSra w d a b s
  | .rol w d a b => Sys2Proof.Machine.execRol w d a b s
  | .ror w d a b => Sys2Proof.Machine.execRor w d a b s
  | .slt w d a b => Sys2Proof.Machine.execSlt w d a b s
  | .sltu w d a b => Sys2Proof.Machine.execSltu w d a b s
  | .min w d a b => Sys2Proof.Machine.execMin w d a b s
  | .max w d a b => Sys2Proof.Machine.execMax w d a b s
  | .minu w d a b => Sys2Proof.Machine.execMinu w d a b s
  | .maxu w d a b => Sys2Proof.Machine.execMaxu w d a b s
  | .mul w d a b => Sys2Proof.Machine.execMul w d a b s
  | .mulh d a b => Sys2Proof.Machine.execMulh d a b s
  | .mulhu d a b => Sys2Proof.Machine.execMulhu d a b s
  | .mulhsu d a b => Sys2Proof.Machine.execMulhsu d a b s
  | .div w d a b => Sys2Proof.Machine.execDiv w d a b s
  | .divu w d a b => Sys2Proof.Machine.execDivu w d a b s
  | .rem w d a b => Sys2Proof.Machine.execRem w d a b s
  | .remu w d a b => Sys2Proof.Machine.execRemu w d a b s
  | .clz w d a => Sys2Proof.Machine.execClz w d a s
  | .ctz w d a => Sys2Proof.Machine.execCtz w d a s
  | .popc w d a => Sys2Proof.Machine.execPopc w d a s
  | .brev w d a => Sys2Proof.Machine.execBrev w d a s
  | .bswap w d a => Sys2Proof.Machine.execBswap w d a s
  | .sextb d a => Sys2Proof.Machine.execSextb d a s
  | .sexth d a => Sys2Proof.Machine.execSexth d a s
  | .sextw d a => Sys2Proof.Machine.execSextw d a s
  | .zextw d a => Sys2Proof.Machine.execZextw d a s
  | .addi d a i13 => Sys2Proof.Machine.execAddi d a i13 s
  | .andi d a i13 => Sys2Proof.Machine.execAndi d a i13 s
  | .ori d a i13 => Sys2Proof.Machine.execOri d a i13 s
  | .xori d a i13 => Sys2Proof.Machine.execXori d a i13 s
  | .shli w d a n6 => Sys2Proof.Machine.execShli w d a n6 s
  | .shri w d a n6 => Sys2Proof.Machine.execShri w d a n6 s
  | .srai w d a n6 => Sys2Proof.Machine.execSrai w d a n6 s
  | .roli w d a n6 => Sys2Proof.Machine.execRoli w d a n6 s
  | .rori w d a n6 => Sys2Proof.Machine.execRori w d a n6 s
  | .slti d a i13 => Sys2Proof.Machine.execSlti d a i13 s
  | .sltiu d a i13 => Sys2Proof.Machine.execSltiu d a i13 s
  | .lui d i19 => Sys2Proof.Machine.execLui d i19 s
  | .auipc d i19 => Sys2Proof.Machine.execAuipc d i19 s
  | .addx w d a b => Sys2Proof.Machine.execAddx w d a b s
  | .subx w d a b => Sys2Proof.Machine.execSubx w d a b s
  | .mulx w d a b => Sys2Proof.Machine.execMulx w d a b s
  | .cselNz d a b c => Sys2Proof.Machine.execCselNz d a b c s
  | .cselZ d a b c => Sys2Proof.Machine.execCselZ d a b c s
  | .fadd f d a b => Sys2Proof.Machine.execFadd f d a b s
  | .fsub f d a b => Sys2Proof.Machine.execFsub f d a b s
  | .fmul f d a b => Sys2Proof.Machine.execFmul f d a b s
  | .fdiv f d a b => Sys2Proof.Machine.execFdiv f d a b s
  | .fmin f d a b => Sys2Proof.Machine.execFmin f d a b s
  | .fmax f d a b => Sys2Proof.Machine.execFmax f d a b s
  | .fsqrt f d a => Sys2Proof.Machine.execFsqrt f d a s
  | .fma f d a b => Sys2Proof.Machine.execFma f d a b s
  | .fms f d a b => Sys2Proof.Machine.execFms f d a b s
  | .fnma f d a b => Sys2Proof.Machine.execFnma f d a b s
  | .fnms f d a b => Sys2Proof.Machine.execFnms f d a b s
  | .feq f d a b => Sys2Proof.Machine.execFeq f d a b s
  | .flt f d a b => Sys2Proof.Machine.execFlt f d a b s
  | .fle f d a b => Sys2Proof.Machine.execFle f d a b s
  | .funord f d a b => Sys2Proof.Machine.execFunord f d a b s
  | .fcvt f g d a => Sys2Proof.Machine.execFcvt f g d a s
  | .fclass f d a => Sys2Proof.Machine.execFclass f d a s
  | .icvtToInt k f d a => Sys2Proof.Machine.execIcvtToInt k f d a s
  | .icvtFromInt f d a => Sys2Proof.Machine.execIcvtFromInt f d a s
  | .exp2 f d a => Sys2Proof.Machine.execExp2 f d a s
  | .log2 f d a => Sys2Proof.Machine.execLog2 f d a s
  | .rcp f d a => Sys2Proof.Machine.execRcp f d a s
  | .rsq f d a => Sys2Proof.Machine.execRsq f d a s
  | .sin f d a => Sys2Proof.Machine.execSin f d a s
  | .cos f d a => Sys2Proof.Machine.execCos f d a s
  | .tanh f d a => Sys2Proof.Machine.execTanh f d a s
  | .ldB d a i13 => Sys2Proof.Machine.execLdB d a i13 s
  | .ldH d a i13 => Sys2Proof.Machine.execLdH d a i13 s
  | .ldW d a i13 => Sys2Proof.Machine.execLdW d a i13 s
  | .ldD d a i13 => Sys2Proof.Machine.execLdD d a i13 s
  | .ldBu d a i13 => Sys2Proof.Machine.execLdBu d a i13 s
  | .ldHu d a i13 => Sys2Proof.Machine.execLdHu d a i13 s
  | .ldWu d a i13 => Sys2Proof.Machine.execLdWu d a i13 s
  | .stB b a i13 => Sys2Proof.Machine.execStB b a i13 s
  | .stH b a i13 => Sys2Proof.Machine.execStH b a i13 s
  | .stW b a i13 => Sys2Proof.Machine.execStW b a i13 s
  | .stD b a i13 => Sys2Proof.Machine.execStD b a i13 s
  | .lde sc d a => Sys2Proof.Machine.execLde sc d a s
  | .take sc d a => Sys2Proof.Machine.execTake sc d a s
  | .put sc b a => Sys2Proof.Machine.execPut sc b a s
  | .fill sc b a => Sys2Proof.Machine.execFill sc b a s
  | .purge a => Sys2Proof.Machine.execPurge a s
  | .festat d a => Sys2Proof.Machine.execFestat d a s
  | .waitf sc a => Sys2Proof.Machine.execWaitf sc a s
  | .trytake sc d b a => Sys2Proof.Machine.execTrytake sc d b a s
  | .amoSwap w d b a => Sys2Proof.Machine.execAmoSwap w d b a s
  | .amoAdd w d b a => Sys2Proof.Machine.execAmoAdd w d b a s
  | .amoAnd w d b a => Sys2Proof.Machine.execAmoAnd w d b a s
  | .amoOr w d b a => Sys2Proof.Machine.execAmoOr w d b a s
  | .amoXor w d b a => Sys2Proof.Machine.execAmoXor w d b a s
  | .amoMin w d b a => Sys2Proof.Machine.execAmoMin w d b a s
  | .amoMax w d b a => Sys2Proof.Machine.execAmoMax w d b a s
  | .amoMaxu w d b a => Sys2Proof.Machine.execAmoMaxu w d b a s
  | .amoSwapScoped w sc d b a => Sys2Proof.Machine.execAmoSwapScoped w sc d b a s
  | .amoAddScoped w sc d b a => Sys2Proof.Machine.execAmoAddScoped w sc d b a s
  | .amoAndScoped w sc d b a => Sys2Proof.Machine.execAmoAndScoped w sc d b a s
  | .amoOrScoped w sc d b a => Sys2Proof.Machine.execAmoOrScoped w sc d b a s
  | .amoXorScoped w sc d b a => Sys2Proof.Machine.execAmoXorScoped w sc d b a s
  | .amoMinScoped w sc d b a => Sys2Proof.Machine.execAmoMinScoped w sc d b a s
  | .amoMaxScoped w sc d b a => Sys2Proof.Machine.execAmoMaxScoped w sc d b a s
  | .amoMaxuScoped w sc d b a => Sys2Proof.Machine.execAmoMaxuScoped w sc d b a s
  | .cas w sc d b a => Sys2Proof.Machine.execCas w sc d b a s
  | .fenceFull sc => Sys2Proof.Machine.execFenceFull sc s
  | .fenceAcq sc => Sys2Proof.Machine.execFenceAcq sc s
  | .fenceRel sc => Sys2Proof.Machine.execFenceRel sc s
  | .fenceSyncwin sc a b => Sys2Proof.Machine.execFenceSyncwin sc a b s
  | .fenceIfence sc => Sys2Proof.Machine.execFenceIfence sc s
  | .beq a b i13 => Sys2Proof.Machine.execBeq a b i13 s
  | .bne a b i13 => Sys2Proof.Machine.execBne a b i13 s
  | .blt a b i13 => Sys2Proof.Machine.execBlt a b i13 s
  | .bge a b i13 => Sys2Proof.Machine.execBge a b i13 s
  | .bltu a b i13 => Sys2Proof.Machine.execBltu a b i13 s
  | .bgeu a b i13 => Sys2Proof.Machine.execBgeu a b i13 s
  | .jal d i19 => Sys2Proof.Machine.execJal d i19 s
  | .jalr d a i13 => Sys2Proof.Machine.execJalr d a i13 s
  | .bnzd a i13 => Sys2Proof.Machine.execBnzd a i13 s
  | .send sc a b l => Sys2Proof.Machine.execSend sc a b l s
  | .sendm sc a b l => Sys2Proof.Machine.execSendm sc a b l s
  | .recv d a => Sys2Proof.Machine.execRecv d a s
  | .tryrecv d a => Sys2Proof.Machine.execTryrecv d a s
  | .peek d a => Sys2Proof.Machine.execPeek d a s
  | .waitmsg d => Sys2Proof.Machine.execWaitmsg d s
  | .spawn d a b => Sys2Proof.Machine.execSpawn d a b s
  | .fork d a b => Sys2Proof.Machine.execFork d a b s
  | .self d => Sys2Proof.Machine.execSelf d s
  | .joinwait d a => Sys2Proof.Machine.execJoinwait d a s
  | .arriveRlx d a => Sys2Proof.Machine.execArriveRlx d a s
  | .arriveRel sc d a => Sys2Proof.Machine.execArriveRel sc d a s
  | .waitph sc a b => Sys2Proof.Machine.execWaitph sc a b s
  | .arrwait sc d a => Sys2Proof.Machine.execArrwait sc d a s
  | .solicit sc cm d a b => Sys2Proof.Machine.execSolicit sc cm d a b s
  | .cwait d a => Sys2Proof.Machine.execCwait d a s
  | .cpoll d a => Sys2Proof.Machine.execCpoll d a s
  | .cresult d a => Sys2Proof.Machine.execCresult d a s
  | .diradd d a b => Sys2Proof.Machine.execDiradd d a b s
  | .dirdel d a => Sys2Proof.Machine.execDirdel d a s
  | .dirmove d a b => Sys2Proof.Machine.execDirmove d a b s
  | .dirfind d a => Sys2Proof.Machine.execDirfind d a s
  | .trset a => Sys2Proof.Machine.execTrset a s
  | .trclr a => Sys2Proof.Machine.execTrclr a s
  | .tren a b => Sys2Proof.Machine.execTren a b s
  | .mxld mf a => Sys2Proof.Machine.execMxld mf a s
  | .mxmul mf d a b => Sys2Proof.Machine.execMxmul mf d a b s
  | .reply a => Sys2Proof.Machine.execReply a s
  | .lease pre lvl d a b => Sys2Proof.Machine.execLease pre lvl d a b s
  | .release a => Sys2Proof.Machine.execRelease a s
  | .loadcfg a b => Sys2Proof.Machine.execLoadcfg a b s
  | .loadcfgForce a b => Sys2Proof.Machine.execLoadcfgForce a b s
  | .sbind a b => Sys2Proof.Machine.execSbind a b s
  | .sgo a => Sys2Proof.Machine.execSgo a s
  | .sbar a => Sys2Proof.Machine.execSbar a s
  | .drain a => Sys2Proof.Machine.execDrain a s
  | .ckpt a => Sys2Proof.Machine.execCkpt a s
  | .resume a => Sys2Proof.Machine.execResume a s
  | .trig a b => Sys2Proof.Machine.execTrig a b s
  | .tq a b => Sys2Proof.Machine.execTq a b s
  | .vcfg a => Sys2Proof.Machine.execVcfg a s
  | .vrun d a b => Sys2Proof.Machine.execVrun d a b s
  | .vseq a b => Sys2Proof.Machine.execVseq a b s
  | .vlds a b => Sys2Proof.Machine.execVlds a b s
  | .vsts a b => Sys2Proof.Machine.execVsts a b s
  | .vredSum f d a => Sys2Proof.Machine.execVredSum f d a s
  | .vredMin f d a => Sys2Proof.Machine.execVredMin f d a s
  | .vredMax f d a => Sys2Proof.Machine.execVredMax f d a s
  | .baddq tw d a b => Sys2Proof.Machine.execBaddq tw d a b s
  | .qtw tw d a b => Sys2Proof.Machine.execQtw tw d a b s
  | .dqtw tw d a b => Sys2Proof.Machine.execDqtw tw d a b s
  | .cparm a b => Sys2Proof.Machine.execCparm a b s
  | .cpdisarm a => Sys2Proof.Machine.execCpdisarm a s
  | .hqpush a b => Sys2Proof.Machine.execHqpush a b s
  | .sysr d n12 => Sys2Proof.Machine.execSysr d n12 s
  | .sysw n12 a => Sys2Proof.Machine.execSysw n12 a s
  | .trap a => Sys2Proof.Machine.execTrap a s
  | .eret a => Sys2Proof.Machine.execEret a s
  | .wfi a => Sys2Proof.Machine.execWfi a s
  | .spill a b => Sys2Proof.Machine.execSpill a b s
  | .fillslot d a => Sys2Proof.Machine.execFillslot d a s
  | .slotregR d a b => Sys2Proof.Machine.execSlotregR d a b s
  | .slotregW d a b => Sys2Proof.Machine.execSlotregW d a b s
  | .tlbinvAsid a => Sys2Proof.Machine.execTlbinvAsid a s
  | .tlbinvPage a b => Sys2Proof.Machine.execTlbinvPage a b s
  | .draftget d a b => Sys2Proof.Machine.execDraftget d a b s
  | .draftpin d => Sys2Proof.Machine.execDraftpin d s
  | .draftunpin a => Sys2Proof.Machine.execDraftunpin a s
  | .heddleRep d a b => Sys2Proof.Machine.execHeddleRep d a b s
  | .heddleRet d a b => Sys2Proof.Machine.execHeddleRet d a b s
  | .heddlePub d a b => Sys2Proof.Machine.execHeddlePub d a b s
  | .heddleSw a => Sys2Proof.Machine.execHeddleSw a s
  | .heddleRd d a => Sys2Proof.Machine.execHeddleRd d a s
  | .route d a b => Sys2Proof.Machine.execRoute d a b s
  | .routeEsc d a b => Sys2Proof.Machine.execRouteEsc d a b s
  | .steerT t u => Sys2Proof.Machine.execSteerT t u s
  | .steerF t u => Sys2Proof.Machine.execSteerF t u s
  | .mergeP t u => Sys2Proof.Machine.execMergeP t u s
  | .mergeA t u => Sys2Proof.Machine.execMergeA t u s
  | .carry k t u => Sys2Proof.Machine.execCarry k t u s
  | .inv t u => Sys2Proof.Machine.execInv t u s
  | .const k t u => Sys2Proof.Machine.execConst k t u s
  | .constC k t u => Sys2Proof.Machine.execConstC k t u s
  | .gate t u => Sys2Proof.Machine.execGate t u s
  | .rowctlStrip t u => Sys2Proof.Machine.execRowctlStrip t u s
  | .rowctlSplit t u => Sys2Proof.Machine.execRowctlSplit t u s
  | .rowctlEor t u => Sys2Proof.Machine.execRowctlEor t u s
  | .rowctlEog t u => Sys2Proof.Machine.execRowctlEog t u s
  | .rowctlEos t u => Sys2Proof.Machine.execRowctlEos t u s
  | .widen sc t u => Sys2Proof.Machine.execWiden sc t u s
  | .mma q mf m t u => Sys2Proof.Machine.execMma q mf m t u s
  | .bload mf m t u => Sys2Proof.Machine.execBload mf m t u s
  | .accRd m t u => Sys2Proof.Machine.execAccRd m t u s
  | .accRdclr m t u => Sys2Proof.Machine.execAccRdclr m t u s
  | .accClr m t u => Sys2Proof.Machine.execAccClr m t u s
  | .rmax fb f t u => Sys2Proof.Machine.execRmax fb f t u s
  | .escOrd k t u => Sys2Proof.Machine.execEscOrd k t u s
  | .escUnord k t u => Sys2Proof.Machine.execEscUnord k t u s
  | .delay k t u => Sys2Proof.Machine.execDelay k t u s
  | .race n t u => Sys2Proof.Machine.execRace n t u s
  | .frame k t u => Sys2Proof.Machine.execFrame k t u s
  | .unframe k t u => Sys2Proof.Machine.execUnframe k t u s
  | .upd o t u => Sys2Proof.Machine.execUpd o t u s
  | .cntD t u => Sys2Proof.Machine.execCntD t u s
  | .cntR t u => Sys2Proof.Machine.execCntR t u s
  | .lredSum m t u => Sys2Proof.Machine.execLredSum m t u s
  | .lredMax m t u => Sys2Proof.Machine.execLredMax m t u s
  | .lredMin m t u => Sys2Proof.Machine.execLredMin m t u s
  | .scale t u => Sys2Proof.Machine.execScale t u s
  | .explk k t u => Sys2Proof.Machine.execExplk k t u s
  | .elementwiseNode o t u => Sys2Proof.Machine.execElementwiseNode o t u s
  | .graphLoadNode o t u => Sys2Proof.Machine.execGraphLoadNode o t u s
  | .graphStoreNode o t u => Sys2Proof.Machine.execGraphStoreNode o t u s
  | .graphFeNode sc o t u => Sys2Proof.Machine.execGraphFeNode sc o t u s
  | .ill => Sys2Proof.Machine.execIll s
  | .join => Sys2Proof.Machine.execJoin s
  | .exit => Sys2Proof.Machine.execExit s
  | .yield => Sys2Proof.Machine.execYield s
  | .tlbinv => Sys2Proof.Machine.execTlbinv s
  | .halt => Sys2Proof.Machine.execHalt s
  | .moduleReset => Sys2Proof.Machine.execModuleReset s
  | .perst => Sys2Proof.Machine.execPerst s
  | .imageVerify => Sys2Proof.Machine.execImageVerify s
  | .identityDerive => Sys2Proof.Machine.execIdentityDerive s
  | .selfTest => Sys2Proof.Machine.execSelfTest s
  | .hbmTrainingDone => Sys2Proof.Machine.execHbmTrainingDone s
  | .linkTrainingDone => Sys2Proof.Machine.execLinkTrainingDone s
  | .probeWindowEnd => Sys2Proof.Machine.execProbeWindowEnd s
  | .launchRingsReady => Sys2Proof.Machine.execLaunchRingsReady s
  | .hostDirectWrite => Sys2Proof.Machine.execHostDirectWrite s
  | .hostDirectRead => Sys2Proof.Machine.execHostDirectRead s
  | .fillAliasWrite => Sys2Proof.Machine.execFillAliasWrite s
  | .fillAliasRead => Sys2Proof.Machine.execFillAliasRead s
  | .bar0Access => Sys2Proof.Machine.execBar0Access s
  | .launchCompletion => Sys2Proof.Machine.execLaunchCompletion s
  | .powerDutyUpdate => Sys2Proof.Machine.execPowerDutyUpdate s
  | .dequePop => Sys2Proof.Machine.execDequePop s
  | .steal => Sys2Proof.Machine.execSteal s
  | .migrationCheck => Sys2Proof.Machine.execMigrationCheck s
  | .slotPacket => Sys2Proof.Machine.execSlotPacket s
  | .migrationAnswer => Sys2Proof.Machine.execMigrationAnswer s
  | .spawnRequest => Sys2Proof.Machine.execSpawnRequest s
  | .spawnAnswer => Sys2Proof.Machine.execSpawnAnswer s
  | .joinNotice => Sys2Proof.Machine.execJoinNotice s
  | .messageArrival => Sys2Proof.Machine.execMessageArrival s
  | .messageReturn => Sys2Proof.Machine.execMessageReturn s
  | .heldMessageReoffer => Sys2Proof.Machine.execHeldMessageReoffer s
  | .treadleEvaluate => Sys2Proof.Machine.execTreadleEvaluate s
  | .remoteFeCompletion => Sys2Proof.Machine.execRemoteFeCompletion s
  | .waitLimitExpiry => Sys2Proof.Machine.execWaitLimitExpiry s
  | .waitCancelAnswer => Sys2Proof.Machine.execWaitCancelAnswer s
  | .pollingParkRetry => Sys2Proof.Machine.execPollingParkRetry s
  | .accessResult => Sys2Proof.Machine.execAccessResult s
  | .pageWalk => Sys2Proof.Machine.execPageWalk s
  | .sfuGrant => Sys2Proof.Machine.execSfuGrant s
  | .sfuResult => Sys2Proof.Machine.execSfuResult s
  | .vectorComplete => Sys2Proof.Machine.execVectorComplete s
  | .mxProductComplete => Sys2Proof.Machine.execMxProductComplete s
  | .leaseGrant => Sys2Proof.Machine.execLeaseGrant s
  | .resumeGrant => Sys2Proof.Machine.execResumeGrant s
  | .configurationLoad => Sys2Proof.Machine.execConfigurationLoad s
  | .drainComplete => Sys2Proof.Machine.execDrainComplete s
  | .checkpointWritten => Sys2Proof.Machine.execCheckpointWritten s
  | .fixedRateStep => Sys2Proof.Machine.execFixedRateStep s
  | .freePortPass => Sys2Proof.Machine.execFreePortPass s
  | .channelTokenArrival => Sys2Proof.Machine.execChannelTokenArrival s
  | .creditReturn => Sys2Proof.Machine.execCreditReturn s
  | .triggerFire => Sys2Proof.Machine.execTriggerFire s
  | .triggerHeldPush => Sys2Proof.Machine.execTriggerHeldPush s
  | .sbindPerform => Sys2Proof.Machine.execSbindPerform s
  | .sgoPerform => Sys2Proof.Machine.execSgoPerform s
  | .sbarPerform => Sys2Proof.Machine.execSbarPerform s
  | .trigPerform => Sys2Proof.Machine.execTrigPerform s
  | .tqPerform => Sys2Proof.Machine.execTqPerform s
  | .streamElement => Sys2Proof.Machine.execStreamElement s
  | .windowWritebackDone => Sys2Proof.Machine.execWindowWritebackDone s
  | .fcbMissFill => Sys2Proof.Machine.execFcbMissFill s
  | .passIssue => Sys2Proof.Machine.execPassIssue s
  | .passComplete => Sys2Proof.Machine.execPassComplete s
  | .escapeStart => Sys2Proof.Machine.execEscapeStart s
  | .escReplyArrival => Sys2Proof.Machine.execEscReplyArrival s
  | .contextFillComplete => Sys2Proof.Machine.execContextFillComplete s
  | .delayEmit => Sys2Proof.Machine.execDelayEmit s
  | .frameTimerExpiry => Sys2Proof.Machine.execFrameTimerExpiry s
  | .frameSend => Sys2Proof.Machine.execFrameSend s
  | .frameArrival => Sys2Proof.Machine.execFrameArrival s
  | .frameCreditReturn => Sys2Proof.Machine.execFrameCreditReturn s
  | .bhkick => Sys2Proof.Machine.execBhkick s
  | .kickHeldPerform => Sys2Proof.Machine.execKickHeldPerform s
  | .copyStart => Sys2Proof.Machine.execCopyStart s
  | .copyElement => Sys2Proof.Machine.execCopyElement s
  | .hqTokenFire => Sys2Proof.Machine.execHqTokenFire s
  | .heddleWindowEnd => Sys2Proof.Machine.execHeddleWindowEnd s
  | .loadVectorBroadcast => Sys2Proof.Machine.execLoadVectorBroadcast s
  | .pubArrival => Sys2Proof.Machine.execPubArrival s
  | .pubAcksComplete => Sys2Proof.Machine.execPubAcksComplete s
  | .switchArrival => Sys2Proof.Machine.execSwitchArrival s
  | .switchAcksComplete => Sys2Proof.Machine.execSwitchAcksComplete s
  | .drainedReport => Sys2Proof.Machine.execDrainedReport s
  | .retireBroadcast => Sys2Proof.Machine.execRetireBroadcast s
  | .hdcurWrite => Sys2Proof.Machine.execHdcurWrite s
  | .hdstatClear => Sys2Proof.Machine.execHdstatClear s
  | .solicitArrival => Sys2Proof.Machine.execSolicitArrival s
  | .responderStart => Sys2Proof.Machine.execResponderStart s
  | .censusComplete => Sys2Proof.Machine.execCensusComplete s
  | .moveArrival => Sys2Proof.Machine.execMoveArrival s
  | .ackArrival => Sys2Proof.Machine.execAckArrival s
  | .refuseArrival => Sys2Proof.Machine.execRefuseArrival s
  | .forwardArrival => Sys2Proof.Machine.execForwardArrival s
  | .remoteArrival => Sys2Proof.Machine.execRemoteArrival s
  | .rdctlWrite => Sys2Proof.Machine.execRdctlWrite s
  | .rdnextRead => Sys2Proof.Machine.execRdnextRead s
  | .rdfinWrite => Sys2Proof.Machine.execRdfinWrite s
  | .xkctlGo => Sys2Proof.Machine.execXkctlGo s
  | .keyLoadComplete => Sys2Proof.Machine.execKeyLoadComplete s
  | .xfresumeRetry => Sys2Proof.Machine.execXfresumeRetry s
  | .xfresumeFail => Sys2Proof.Machine.execXfresumeFail s
  | .tqstatPop => Sys2Proof.Machine.execTqstatPop s
  | .elogclr => Sys2Proof.Machine.execElogclr s
  | .errsumClear => Sys2Proof.Machine.execErrsumClear s
  | .sfflagsClear => Sys2Proof.Machine.execSfflagsClear s
  | .sxfaultClear => Sys2Proof.Machine.execSxfaultClear s
  | .sffaultClear => Sys2Proof.Machine.execSffaultClear s
  | .retreq => Sys2Proof.Machine.execRetreq s
  | .registerWrite => Sys2Proof.Machine.execRegisterWrite s
  | .eccCorrectable => Sys2Proof.Machine.execEccCorrectable s
  | .eccUncorrectable => Sys2Proof.Machine.execEccUncorrectable s
  | .coresusp => Sys2Proof.Machine.execCoresusp s
  | .coreret => Sys2Proof.Machine.execCoreret s
  | .coreFail => Sys2Proof.Machine.execCoreFail s
  | .coreHeartbeatLoss => Sys2Proof.Machine.execCoreHeartbeatLoss s
  | .bankFail => Sys2Proof.Machine.execBankFail s
  | .shedfail => Sys2Proof.Machine.execShedfail s
  | .journalPerform => Sys2Proof.Machine.execJournalPerform s
  | .linkretry => Sys2Proof.Machine.execLinkretry s
  | .linkRetrain => Sys2Proof.Machine.execLinkRetrain s
  | .linkdown => Sys2Proof.Machine.execLinkdown s
  | .spanningTreeRebuild => Sys2Proof.Machine.execSpanningTreeRebuild s
  | .generationAdvance => Sys2Proof.Machine.execGenerationAdvance s
  | .flitArrival => Sys2Proof.Machine.execFlitArrival s
  | .dieHeartbeatLoss => Sys2Proof.Machine.execDieHeartbeatLoss s
  | .networkWordArrival => Sys2Proof.Machine.execNetworkWordArrival s
  | .homeBankOperation => Sys2Proof.Machine.execHomeBankOperation s
  | .memoryNodeCompletion => Sys2Proof.Machine.execMemoryNodeCompletion s
  | .linkRetrained => Sys2Proof.Machine.execLinkRetrained s
  | .mxldComplete => Sys2Proof.Machine.execMxldComplete s
  | .messageAcceptance => Sys2Proof.Machine.execMessageAcceptance s

end Sys2Proof.Machine
end

