-- ==== Sys2Proof/Machine/Fetch.lean ====
section
/-!
DEFINITION. Fetching a thread's next word (06 R180; 04 R125; 15 R390, R391, R395), and what a slot does before it
issues: a failed access traps (15 R397), and a journaled thread writes its start record (16 R421).
-/

namespace Sys2Proof.Machine

/-- What a slot's turn finds: a word to issue in a state, or a state in which the turn has ended. -/
inductive Fetched where
  | word (w : Inst) (s : State)
  | ended (s : State)

/-- The alignment and the range of a fetch address, and its fault: cause, sub-cause (Table 15-1). -/
def fetchFault (pc : Word) : Option (Byte × Byte) :=
  if pc.toNat % 4 != 0 then some (0x20, 2)
  else if 2 ^ 57 ≤ pc.toNat then some (0x21, 1)
  else none

/-- The words of an L1I of 32 KiB (R19). -/
def l1iWords : Nat := 8192

/-- The word at a physical address through the L1I, which may still hold the word of an earlier fetch (R125, log
entry 8). -/
def State.readL1i (s : State) (i : SlotId) (key : Byte) (pa : Nat) : Inst × State :=
  let now := (s.readHome key pa 4).extractLsb' 0 32
  let keep := s.modCore i.die i.core fun c => { c with l1i := tblSet none pa (some now) (makeRoom l1iWords s.tick (tblDel pa c.l1i)) }
  match tblGet none pa (s.core i.die i.core).l1i with
  | none => (now, keep)
  | some old => if old = now then (now, s) else if Config.cacheHolds s.tick then (old, s) else (now, keep)

/-- The fetch at the PC of a slot. -/
def State.fetch (s : State) (i : SlotId) : Fetched :=
  let pc := (s.slot i).pc
  match fetchFault pc with
  | some (cause, sub) => .ended (s.takeTrap i cause sub pc 0 pc 0)
  | none =>
    match s.reach i pc needX false (s.die i.die |>.held.any (·.who == .fetch i)) with
    | .notReady | .unready _ _ _ => .ended (s.waitData i)
    | .fault cause sub addr =>
      match s.hold i.die (.fetch i) (s.exempt i) cause sub (s.slotFault i 1 needX addr pc) with
      | .held t => .ended (t.holdSlot i)
      | .full t => .ended (t.waitData i)
      | .failNow t => .ended (t.takeTrap i cause sub pc 0 addr pc)
    | .ok pa key t =>
      let t := t.unhold i.die (.fetch i)
      if t.isPoisoned pa then .ended (t.takeTrap i 0x29 0 pc 0 pc pc)
      else
        let r := t.readL1i i key pa
        .word r.1 r.2

/-- Whether a slot takes part in issue rotation: only a READY one does (R61). -/
def SlotSt.issues (x : SlotSt) : Bool := x.state == .ready

/-- Whether a slot is in WAIT-DATA at an instruction that is tried again: it becomes READY when what the instruction needs
has come (R61). -/
def SlotSt.retries (x : SlotSt) : Bool := x.state == .waitData && x.await == .retry

/-- Whether a failed access of a slot may be reported now (R371, R397): no record of its slot that parks is queued, even if
the slot is TRAPPED. -/
def State.reports (s : State) (i : SlotId) : Bool :=
  let x := s.slot i
  !x.fails.isEmpty && !x.bound && x.state != .free && (if isPriv i then x.state != .trapped else !s.parkedRecord i)

/-- Whether a slot waits, without being parked, at the instruction of an access that has failed. -/
def State.failedHere (s : State) (i : SlotId) : Bool :=
  match (s.slot i).await with
  | .access id => (s.slot i).state == .waitData && (s.access id).any (·.stage == .failed)
  | _ => false

/-- The oldest failed access of a slot is reported: its wait ends, and it traps before its next issue. TPC is the instruction it
would issue next, or that at which it is parked. What was held behind failed accesses is released (R397). -/
def State.report1 (s : State) (i : SlotId) : State :=
  match (s.slot i).fails with
  | [] => s
  | f :: rest =>
    let pc := if s.failedHere i then (s.slot i).pc + 4 else (s.slot i).pc
    let s := ((s.cancelWait i).dropFailed i).modSlot i fun x => { x with fails := rest }
    s.pushTrap i f.cause f.sub pc 0 f.val f.aux

/-- The slot has its turn: it counts as the one that issued last (R63), and slots that yielded to it no longer wait for
it (R287). -/
def State.turnOf (s : State) (i : SlotId) : State :=
  let s := (coreSlots i.die i.core).foldl (fun s k =>
    if (s.slot k).yielding.isEmpty then s
    else s.modSlot k fun x => { x with yielding := if k == i then [] else x.yielding.filter (· != i.slot.toNat) }) s
  let s := s.modSlot i fun x => { x with lastIssue := some (s.coreClock i.die i.core), spills := none }
  { s.modCore i.die i.core fun c => { c with lastSlot := i.slot } with cur := i, word := 0 }

/-- What a slot's turn begins with: a report of a failed access, or the wait until it may be reported (R371); a start
record, a fetch; a header, passed over without an issue turn (R180). Only an instruction word counts as an issue. -/
def State.beginTurn (s : State) (i : SlotId) : Fetched :=
  if s.reports i then .ended (s.report1 i)
  else if !(s.slot i).issues then .ended s
  else if !(s.slot i).fails.isEmpty then .ended (s.waitData i)
  else
    let go := fun (s : State) =>
      match s.fetch i with
      | .ended t => Fetched.ended t
      | .word w t =>
        if isHeader w then
          match decodeHeader w with
          | some _ => .ended (t.modSlot i fun x => { x with pc := x.pc + 4 })
          | none => .ended ((t.turnOf i).takeTrap i 0x01 1 (t.slot i).pc w 0 0)
        else .word w { t.turnOf i with word := w }
    if s.jnlOf i && (s.slot i).jrec.isNone then
      match s.startRecord i with
      | some t => go t
      | none => .ended (s.waitData i)
    else go s

/-- A slot in WAIT-DATA becomes READY where its instruction would now go on; till then nothing changes (R61). -/
def State.recheck (s : State) (i : SlotId) (r : Result) : State :=
  match r with
  | .next t => if (t.slot i).retries then s else s.wake i
  | _ => s

end Sys2Proof.Machine
end

