-- ==== Sys2Proof/Machine/Schedule.lean ====
section
/-!
DEFINITION. Whose move is next (log entry 1): the moves that the state holds ready, from which a free value picks. A
move whose condition does not hold changes nothing, so that the list may hold more than can happen.
-/

namespace Sys2Proof.Machine

/-! Issue rotation (02 R63, R287) -/

/-- Whether a SPILL that waits is emptying a slot, which does not issue then (R80). -/
def State.frozen (s : State) (i : SlotId) : Bool :=
  s.slots.any fun e => e.2.spills == some i && e.2.state == .waitData

/-- Whether a slot may issue now: its core issues in this aclk (R347, R423), it is READY, it did not issue in the preceding 3 aclk, no slot it yielded to is still READY
before it, and no SPILL is emptying it. -/
def State.mayIssue (s : State) (i : SlotId) : Bool :=
  let x := s.slot i
  let gap := fun (n : Nat) => match x.lastIssue with
    | some t => decide (n ≤ (s.coreClock i.die i.core - t).toNat)
    | none => true
  x.issues && !s.frozen i && !s.coreRests i.die i.core && gap 4 && (x.yielding.isEmpty || gap 16
    || !(x.yielding.any fun k => (s.slot ⟨i.die, i.core, BitVec.ofNat 4 k⟩).state == .ready))

/-- The slot of a core that the issue stage takes: the first that may issue, from the one after the last. -/
def State.rotation (s : State) (d : Die) (c : CoreNo) : Option SlotId :=
  let x := s.core d c
  if x.halted || x.retired then none
  else
    ((List.range 16).map fun k => (⟨d, c, BitVec.ofNat 4 (x.lastSlot.toNat + 1 + k)⟩ : SlotId)).find? s.mayIssue

/-- The cores that hold a slot with an entry. -/
def State.busyCores (s : State) : List Nat := (s.slots.map fun e => e.1 / 16).eraseDups

/-- The slots of a core that may have a turn: the one that the issue stage takes; those in WAIT-DATA that may have become
READY; and those with a failed access to report. The last two are no issue and take no part in the rotation (R61). -/
def State.coreTurns (s : State) (d : Die) (c : CoreNo) : List SlotId :=
  let x := s.core d c
  if x.halted || x.retired then []
  else (s.rotation d c).toList ++ (coreSlots d c).filter fun i => ((s.slot i).retries || s.reports i) && !s.frozen i

/-- The turns of slots. -/
def State.slotMoves (s : State) : List Turn :=
  s.busyCores.flatMap fun k => (s.coreTurns (BitVec.ofNat 6 (k / 2048)) (BitVec.ofNat 11 (k % 2048))).map .slot

/-! Moves of units -/

/-- A move of a numbered item. -/
def idMove (i : Instr) (id : Nat) : Turn := .event i { id }

/-- A move of a core. -/
def coreMove (i : Instr) (d : Die) (c : CoreNo) : Turn := .event i { die := d, core := c }

/-- A move of a numbered unit of a die. -/
def unitMove (i : Instr) (d : Die) (n : Nat) : Turn := .event i { die := d, unit := n }

/-- A move of a numbered part of a shed. -/
def shedMove (i : Instr) (d : Die) (h : ShedNo) (n : Nat) : Turn := .event i { die := d, shed := h, unit := n }

/-- A move, if there is one. -/
def moveIf (b : Bool) (t : Turn) : List Turn := if b then [t] else []

/-- What becomes of an access next. -/
def accessMoves (a : Access) : List Turn :=
  let node : Bool := match a.agent with
    | .node _ _ _ _ => true
    | .slot _ _ => false
  match a.stage with
  | .walk => [idMove .pageWalk a.id]
  | .home => idMove .homeBankOperation a.id ::
    (match a.agent with
      | .node d h _ _ => [.event .fcbMissFill { die := d, shed := h, val := a.va }]
      | .slot _ _ => [])
  | .polling => [idMove .pollingParkRetry a.id]
  | .done => [idMove (if node then .memoryNodeCompletion else .accessResult) a.id]
  | .parked | .held | .failed => []

/-- What becomes of a packet next. -/
def packetMoves (q : InFlight) : List Turn :=
  let i : Instr := match q.packet with
    | .mail _ => if q.heldUntil.isSome then .heldMessageReoffer else .messageArrival
    | .returned _ _ _ => .messageReturn
    | .accepted _ => .messageAcceptance
    | .slotPacket _ => .slotPacket
    | .slotAnswer _ _ => .migrationAnswer
    | .spawn _ => .spawnRequest
    | .spawned _ _ => .spawnAnswer
    | .joined _ => .joinNotice
    | .feDone _ => .remoteFeCompletion
    | .cancelled _ _ _ => .waitCancelAnswer
    | .netWord _ _ _ => .networkWordArrival
    | .reply _ _ _ _ _ _ => .escReplyArrival
    | .fillDone _ _ _ _ => .contextFillComplete
    | .token _ _ _ _ => .channelTokenArrival
    | .credit _ _ _ => .creditReturn
    | .frame _ => .frameArrival
    | .frameCredit _ _ _ _ => .frameCreditReturn
  [idMove i q.id]

/-- What becomes of a reed message next. -/
def reedMoves (q : ReedItem) : List Turn :=
  match q.msg with
  | .solicit _ _ => [idMove .solicitArrival q.id]
  | .move _ _ _ _ => [idMove .moveArrival q.id]
  | .ack _ _ => [idMove .ackArrival q.id]
  | .refuse _ _ _ => [idMove .refuseArrival q.id]
  | .forward _ _ _ => [idMove .forwardArrival q.id]
  | .barrier _ _ => [idMove .remoteArrival q.id]

/-- The slots whose wait may expire. -/
def State.limitMoves (s : State) : List Turn :=
  s.slots.filterMap fun e =>
    if e.2.limit != 0 && (waitLimitSub e.2.state).isSome && e.2.awaitsHome then
      some (.event .waitLimitExpiry
        { die := BitVec.ofNat 6 (e.1 / 32768), core := BitVec.ofNat 11 (e.1 / 16 % 2048), slot := BitVec.ofNat 4 (e.1 % 16) })
    else none

/-- The moves of a core: its deque, patterns, responders, censuses, row unit, side macro, and its retirement. -/
def coreMoves (d : Die) (c : CoreNo) (x : CoreSt) : List Turn :=
  moveIf (!x.deque.isEmpty) (coreMove .dequePop d c)
    ++ moveIf (!x.pending.isEmpty) (coreMove .responderStart d c)
    ++ x.censuses.map (fun k => .event .censusComplete { die := d, core := c, unit := k.idx.toNat })
    ++ moveIf (!x.row.queue.isEmpty) (coreMove .vectorComplete d c)
    ++ moveIf (!x.side.queue.isEmpty) (coreMove .mxProductComplete d c)
    ++ moveIf x.side.loading.isSome (coreMove .mxldComplete d c)
    ++ moveIf (x.errorProne && !x.suspect) (coreMove .coresusp d c)
    ++ moveIf (x.suspect && !x.retired) (coreMove .coreret d c)

/-- The cores that may steal: any, while a deque of the panel holds an entry (R67). -/
def State.stealMoves (s : State) : List Turn :=
  if s.cores.all fun e => e.2.deque.isEmpty then []
  else
    s.dies.flatMap fun e =>
      let d : Die := BitVec.ofNat 6 e.1
      ((List.range 2048).map (BitVec.ofNat 11)).filterMap fun c =>
        if (s.victim d c).isSome then some (coreMove .steal d c) else none

/-- The cores whose migration check is due (R71). -/
def State.checkMoves (s : State) : List Turn :=
  s.busyCores.filterMap fun k =>
    let d : Die := BitVec.ofNat 6 (k / 2048)
    let c : CoreNo := BitVec.ofNat 11 (k % 2048)
    if (s.core d c).checked < s.aclk.toNat / 1024 then some (coreMove .migrationCheck d c) else none

/-- The addresses of the next element of a stream, whose sectors its bank may miss (R121). -/
def streamAddresses (t : StreamSt) : List Nat :=
  if !t.running || t.ended || t.needsIndex || !t.inject.isEmpty then []
  else
    let w := t.desc
    let f := Descriptor.fmt w
    let e := Descriptor.offset w t.pos t.index
    let n := if Descriptor.writes w && f.isTwill then 2 * f.width else (Descriptor.bitOf w e + f.width + 7) / 8
    let a := (Descriptor.address w e).toNat
    [a, a + (n - 1)] ++ if f.isTwill then [(Descriptor.scaleAddr w e).toNat] else []

/-- The moves of a command in a scoreboard. -/
def commandMoves (d : Die) (h : ShedNo) (q : QueuedCmd) : List Turn :=
  let go := fun (i : Instr) => [Turn.event i { die := d, shed := h, id := q.id }]
  match q.cmd with
  | .sbind _ _ => go .sbindPerform
  | .sgo m _ =>
    if m = 0 then go .sgoPerform
    else (maskPorts m).map fun p => .event .sgoPerform { die := d, shed := h, id := q.id, unit := p }
  | .sbar _ => go .sbarPerform
  | .trig _ => go .trigPerform
  | .tq _ _ => go .tqPerform

/-- The moves of a shed's ports, streams, triggers, commands, macros and special nodes. -/
def State.shedMoves (s : State) (d : Die) (h : ShedNo) : List Turn :=
  let x := s.shed d h
  if !x.fires then
    moveIf (x.state == .saved) (shedMove .checkpointWritten d h 0) ++ moveIf (!x.closed.isEmpty) (shedMove .frameSend d h 0)
  else
    x.cmds.flatMap (commandMoves d h) ++ moveIf (!x.stepPorts.isEmpty) (shedMove .fixedRateStep d h 0)
      ++ ((List.range 16).filter fun p => (x.port p).en && (x.port p).free).map (shedMove .freePortPass d h)
      ++ (x.trigs.filter (·.2.due)).map (fun e => shedMove .triggerFire d h e.1)
      ++ (x.trigs.filter (·.2.heldPush)).map (fun e => shedMove .triggerHeldPush d h e.1)
      ++ x.streams.map (fun e => shedMove .streamElement d h e.1)
      ++ (x.streams.filter fun e => !e.2.wins.isEmpty).map (fun e => shedMove .windowWritebackDone d h e.1)
      ++ (x.streams.flatMap fun e => streamAddresses e.2).map (fun a =>
        .event .fcbMissFill { die := d, shed := h, val := BitVec.ofNat 64 a })
      ++ moveIf x.arbitrate.isSome (shedMove .passIssue d h 0)
      ++ (x.macros.filter (·.2.pass.isSome)).map (fun e => shedMove .passComplete d h e.1)
      ++ (x.words.filter fun w => (escConst x w.1).isSome).map (fun w => shedMove .escapeStart d h w.1)
      ++ (x.nodes.filter fun e => !e.2.late.isEmpty).map (fun e =>
        .event .delayEmit { die := d, shed := h, unit := e.1 / 4, ctx := BitVec.ofNat 2 (e.1 % 4) })
      ++ moveIf (!x.opened.isEmpty) (shedMove .frameTimerExpiry d h 0)
      ++ moveIf (!x.closed.isEmpty) (shedMove .frameSend d h 0)
      ++ ((s.nodesOf d h).filter fun n => !(x.out n.slot.toNat).isEmpty).map .node ++ (s.nodeTurns d h).map .node

/-- The moves of a loom. -/
def loomMoves (d : Die) (l : Nat) (x : Loom) : List Turn :=
  moveIf (x.state == .loading) (unitMove .configurationLoad d l)
    ++ moveIf (x.state == .resuming) (.event .resumeGrant { die := d, unit := l, val := 1 })
    ++ moveIf (x.state == .draining || x.state == .saving || x.settling) (unitMove .drainComplete d l)

/-- The moves of a bobbin hart; it starts no element while its row is gated (R347). -/
def State.hartMoves (s : State) (d : Die) (n : Nat) (x : HartSt) : List Turn :=
  moveIf (!x.held.isEmpty) (unitMove .kickHeldPerform d n)
    ++ moveIf (x.running.isNone && !x.queue.isEmpty) (unitMove .copyStart d n)
    ++ moveIf (x.running.isSome && !s.gated d (rowOfHart n)) (unitMove .copyElement d n)
    ++ moveIf (!x.posted.isEmpty) (.event .copyElement { die := d, unit := n, val := 1 })

/-- The moves of a die: the arbiter, its heddle engine, keys, journal, host port, links and the end of its boot. -/
def State.dieMoves (s : State) (d : Die) (x : DieSt) : List Turn :=
  let go := fun (i : Instr) => Turn.event i { die := d }
  let b := x.boot
  moveIf (!x.leases.isEmpty) (go .leaseGrant) ++ moveIf (!x.leases.isEmpty) (go .resumeGrant)
    ++ moveIf x.xkBusy (go .keyLoadComplete) ++ moveIf (x.journal.any fun r => r.closed && !r.done) (go .journalPerform)
    ++ moveIf (!x.hostQueue.isEmpty) (go .hostDirectWrite)
    ++ moveIf (b.ready.getLsbD 18 && !b.ready.getLsbD 26) (go .launchRingsReady)
    ++ (x.reruns.take 1).map (fun r => coreMove .coreFail d r.old.core)
    ++ (x.links.filter fun e => e.2.state == .up && replayLimit ≤ e.2.replays).map (fun e => unitMove .linkRetrain d e.1)
    ++ moveIf x.heddle.en (go .heddleWindowEnd) ++ moveIf x.heddle.en (go .loadVectorBroadcast)
    ++ moveIf s.root.publishing.isSome (go .pubArrival) ++ moveIf s.root.switching.isSome (go .switchArrival)
    ++ moveIf (x.heddle.ost == 2) (go .drainedReport) ++ moveIf (x.heddle.ost == 2) (go .retireBroadcast)

/-- The moves of the units: what the state holds in progress. What only the outside world brings is among the inputs. -/
def State.unitMoves (s : State) : List Turn :=
  s.accs.flatMap accessMoves ++ s.net.flatMap packetMoves ++ s.reed.flatMap reedMoves ++ s.limitMoves
    ++ (s.cores.flatMap fun e => coreMoves (keyCore e.1).1 (keyCore e.1).2 e.2) ++ s.stealMoves ++ s.checkMoves
    ++ ((s.skeins.filter fun e => !e.2.waiting.isEmpty).map fun e => unitMove .sfuGrant (BitVec.ofNat 6 (e.1 / 128)) (e.1 % 128))
    ++ ((s.skeins.filter fun e => !e.2.serving.isEmpty).map fun e => unitMove .sfuResult (BitVec.ofNat 6 (e.1 / 128)) (e.1 % 128))
    ++ ((s.skeins.filter fun e => !e.2.queue.isEmpty).map fun e =>
      .event .sfuResult { die := BitVec.ofNat 6 (e.1 / 128), unit := e.1 % 128, val := 1 })
    ++ (s.sheds.flatMap fun e => s.shedMoves (BitVec.ofNat 6 (e.1 / 512)) (BitVec.ofNat 9 (e.1 % 512)))
    ++ (s.looms.flatMap fun e => loomMoves (BitVec.ofNat 6 (e.1 / 128)) (e.1 % 128) e.2)
    ++ (s.harts.flatMap fun e => s.hartMoves (BitVec.ofNat 6 (e.1 / 64)) (e.1 % 64) e.2)
    ++ ((s.hqs.filter fun e => e.2.armed && !e.2.tokens.isEmpty).map fun e =>
      unitMove .hqTokenFire (BitVec.ofNat 6 (e.1 / 4096)) (e.1 % 4096))
    ++ (s.dies.flatMap fun e => s.dieMoves (BitVec.ofNat 6 e.1) e.2)
    ++ moveIf s.root.publishing.isSome (.event .pubAcksComplete {})
    ++ moveIf s.root.switching.isSome (.event .switchAcksComplete {})

/-- The moves that are ready. -/
def State.moves (s : State) : List Turn := s.slotMoves ++ s.unitMoves

/-- Whether a turn may be taken: a slot's only where the rotation of its core, a wait or a report gives it one (R61, R63); a
node's only while it has tokens to deliver, or in the context that the rotation of its contexts gives the turn (R52). Patterns are
evaluated, and waits at a core expire, at the end of an aclk (R282, R385). -/
def State.mayMove (s : State) : Turn → Bool
  | .slot i => (s.coreTurns i.die i.core).contains i
  | .node n => !((s.shed n.die n.shed).out n.slot.toNat).isEmpty || (s.nodeTurns n.die n.shed).contains n
  | .event .treadleEvaluate _ => false
  | .event .waitLimitExpiry x => (s.slot ⟨x.die, x.core, x.slot⟩).awaitsHome
  | .event .copyElement x => x.val.getLsbD 0 || !s.gated x.die (rowOfHart x.unit)
  | .event _ _ | .idle => true

/-! The end of an aclk (R282; 14 R385) -/

/-- The slots whose park at their core has outlived its limit and can be trapped. -/
def State.limitsDue (s : State) : List Turn :=
  s.slots.filterMap fun e =>
    let i : SlotId := ⟨BitVec.ofNat 6 (e.1 / 32768), BitVec.ofNat 11 (e.1 / 16 % 2048), BitVec.ofNat 4 (e.1 % 16)⟩
    if e.2.limit != 0 && !e.2.awaitsHome && s.expired i && !s.trapWaits i then
      some (.event .waitLimitExpiry { die := i.die, core := i.core, slot := i.slot })
    else none

/-- What an aclk still has to do before the next one: the cores with patterns evaluate them once, after the arrivals and the
TRSET, TRCLR and TREN of the aclk; then expired waits at a core end. -/
def State.closing (s : State) : List Turn :=
  (s.cores.filter fun e => !e.2.treadles.isEmpty && e.2.evaluated != some s.aclk).map (fun e =>
    coreMove .treadleEvaluate (keyCore e.1).1 (keyCore e.1).2) ++ s.limitsDue

/-- Whether an aclk ends one by one: a core has patterns to evaluate in each, or a wait at a core may expire. -/
def State.ticking (s : State) : Bool :=
  s.cores.any (fun e => !e.2.treadles.isEmpty)
    || s.slots.any fun e => e.2.limit != 0 && !e.2.awaitsHome && (waitLimitSub e.2.state).isSome

/-- Whether the present aclk has begun to end: nothing but what is left of its end happens in it. -/
def State.ending (s : State) : Bool := s.cores.any fun e => !e.2.treadles.isEmpty && e.2.evaluated == some s.aclk

/-- The next state's turn: a fixed move first, otherwise one of those ready. -/
def State.nextTurn (s : State) (moves : List Turn) : Turn × List Turn :=
  match s.inputs with
  | t :: rest => (if s.mayMove t then t else .idle, rest)
  | [] =>
    match moves with
    | [] => (.idle, [])
    | [t] => (t, [])
    | t :: ts => ((t :: ts).getD (Config.pick s.tick % (ts.length + 1)) .idle, [])

end Sys2Proof.Machine
end

