-- ==== Sys2Proof/Machine/Step.lean ====
section
/-!
DEFINITION. The step: the agent whose turn it is moves, time passes, and the next turn is chosen (02 R63; log entries 1
and 2). A slot fetches, decodes and executes one word; a graph node fires; a unit or the outside world acts.
-/

namespace Sys2Proof.Machine

/-- The next turn is chosen. -/
def State.choose (t : State) : State :=
  let n := t.nextTurn t.moves
  { t with turn := n.1, inputs := n.2 }

/-- Time passes and the next turn is chosen. Where patterns are to be evaluated or waits at a core may expire, what an aclk does
at its end (R282, R385) comes before the next one, and no aclk is passed over. -/
def State.settle (s : State) : State :=
  let t := { s with tick := s.tick + 1 }
  let n := Config.elapsed s.tick
  if !s.ticking then (t.pass n.toNat).choose
  else if n = 0 && !s.ending then t.choose
  else
    match s.closing with
    | c :: _ => { t with turn := c }
    | [] => (t.pass 1).choose

/-- The issue of a slot: the word it fetches is decoded and executed; an unassigned word traps ILLEGAL (14 R378). -/
def slotIssue (i : SlotId) (s : State) : Result :=
  match s.beginTurn i with
  | .ended t => .next t
  | .word w t =>
    match decodeThread w with
    | some x => exec x t
    | none => t.perform (.trap 0x01 0 0 0)

/-- The turn of a slot: its issue; of one in WAIT-DATA at an instruction to be tried again, whether it is READY now (R61). -/
def slotTurn (i : SlotId) (s : State) : Result :=
  if (s.slot i).retries && !s.reports i then .next (s.recheck i (slotIssue i (s.wake i))) else slotIssue i s

/-- The turn of a graph node: the instruction in its slot fires if it is ready. -/
def nodeTurn (n : NodeId) (s : State) : Result :=
  match decodeGraph (tblGet 0 n.slot.toNat (s.shed n.die n.shed).words) with
  | some x => exec x { s with node := n }
  | none => .next s

/-- The move of the agent whose turn it is. -/
def move (s : State) : Result :=
  match s.turn with
  | .slot i => slotTurn i s
  | .node n => nodeTurn n s
  | .event i x => exec i { s with ev := x }
  | .idle => .next s

/-- One step. -/
def step (s : State) : Result :=
  match move s with
  | .next t => .next t.settle
  | .fault f => .fault f
  | .refused r => .refused r

/-- The state in which the next step fetches and runs a word: at the PC of the slot whose turn it is, or as the node of
shed 0 in the slot where its instruction may stand. -/
def State.withFetchWord (s : State) (nbits w : Nat) : State :=
  let bytes := bytesOf (BitVec.ofNat 32 (w % 2 ^ nbits))
  match decode .thread bytes with
  | .ok _ =>
    let i : SlotId := match s.turn with
      | .slot i => i
      | _ => s.cur
    let pc := (s.slot i).pc.toNat
    { s with mem := writeRaw pc bytes s.mem, turn := .slot i }
  | .error _ =>
    let word : Inst := BitVec.ofNat 32 (w % 2 ^ nbits)
    let memory : Bool := match decodeGraph word with
      | some (.graphLoadNode _ _ _) | some (.graphStoreNode _ _ _) | some (.graphFeNode _ _ _ _) | some (.upd _ _ _) => true
      | _ => false
    let n : NodeId := { slot := if memory then 56 else 0 }
    { s.modShed 0 0 fun x => { x with words := tblSet 0 n.slot.toNat word x.words } with turn := .node n }

end Sys2Proof.Machine
end

