-- ==== Sys2Proof/Safety.lean ====
section
/-!
DEFINITION. What claims about runs are stated with: the states that steps lead to, what every step keeps, and the two
conditions that hold of every state a run passes through (02 R63, R287; 11 R337).
-/

namespace Sys2Proof.Machine

/-- The states that steps lead to from a state. -/
inductive Reaches : State → State → Prop where
  | here (s : State) : Reaches s s
  | more (s t u : State) : Reaches s t → step t = .next u → Reaches s u

/-- A condition that every step keeps. -/
def Kept (p : State → Prop) : Prop := ∀ s t, p s → step s = .next t → p t

/-- A state at which the machine goes on. -/
def State.goesOn (s : State) : Bool :=
  match step s with
  | .next _ => true
  | .fault _ => false
  | .refused _ => false

/-- Whether the turn of a slot or node is one that the rotations give: the slot that the issue stage of its core takes (R63, R287),
or one that leaves WAIT-DATA or reports a failed access (R61); a node that has tokens to deliver, or in the context that its
contexts' rotation gives (R52). -/
def State.turnOk (s : State) : Bool :=
  match s.turn with
  | .slot i => s.mayMove (.slot i)
  | .node n => s.mayMove (.node n)
  | .event _ _ | .idle => true

/-- The turn is one that the rotations give. -/
abbrev State.TurnOk (s : State) : Prop := s.turnOk = true

/-- The executing slot's instruction can read n doubles at an address aligned to 2^log2 bytes: it finds them, in the state
that the walk leaves. -/
def State.ReadsRecord (s : State) (va : Word) (log2 n : Nat) (ws : List Word) (t : State) : Prop :=
  ∀ k, s.withRecord va log2 n k = k ws t

/-- The executing slot's instruction can store doubles at an address aligned to 2^log2 bytes, which leads to a state. -/
def State.StoresRecord (s : State) (va : Word) (log2 : Nat) (ws : List Word) (t : State) : Prop :=
  ∀ k, s.storeRecord va log2 ws k = k t

/-- The executing slot's instruction can read n bytes at an address: it finds them, in the state that the walk leaves. -/
def State.ReadsBytes (s : State) (va : Word) (n : Nat) (bs : List Byte) (t : State) : Prop :=
  ∀ k, s.withBytes va n k = k bs t

/-- The executing slot's instruction can store parts at offsets from an address, which leads to a state. -/
def State.StoresParts (s : State) (va : Word) (ps : List (Nat × Nat × Word)) (t : State) : Prop :=
  ∀ k, s.storeParts va ps k = k t

/-- A node has its turn: its shed fires, it has not stopped, it has nothing left to deliver, and both targets have room; it
sees its view. -/
def State.NodeTurn (s : State) (t u : Target) (v : View) : Prop :=
  (s.shed s.node.die s.node.shed).fires = true ∧ (s.shed s.node.die s.node.shed).stopped s.node.slot.toNat = false
    ∧ (s.shed s.node.die s.node.shed).out s.node.slot.toNat = [] ∧ v = s.view s.node t u
    ∧ v.x.targetRoom t v.c = true ∧ v.x.targetRoom u v.c = true

/-- The turn of a node is a firing. -/
abbrev State.Fires (s : State) (i : Instr) (v : View) (f : Fired) : Prop := exec i s = .next (State.apply v f)

/-- The stored byte at a panel physical address. -/
def State.byteAt (s : State) (pa : Nat) : Byte := tblGet unlistedByte pa s.mem

/-- Memory is in its canonical form. -/
abbrev State.MemoryOk (s : State) : Prop := Memory.wf s.mem = true

end Sys2Proof.Machine
end

