-- ==== Sys2Proof/Certificates/Slice0/Obligations.lean ====
section
/-!
DEFINITION. What is claimed of the machine: the obligations, each with the rules of the manual that it formalises.
-/

open Sys2Proof Sys2Proof.Machine

/-- 07 R204, Table 7-2 at n = 64: each ALU instruction completes with the result of its row. 07 R204, Table 7-2 at n =
32, with R201: the low words are used and rd[63:32] = 0. -/
def Obligations.AluResults : Prop :=
  (
    ∀ (s : State) (d a b : Reg), s.plain [a, b] [d] = true →
      let x := s.reg s.cur a
      let y := s.reg s.cur b
      let sh := y.toNat % 64
      exec (.add false d a b) s = .next (s.finish d (x + y))
      ∧ exec (.sub false d a b) s = .next (s.finish d (x - y))
      ∧ exec (.and false d a b) s = .next (s.finish d (x &&& y))
      ∧ exec (.or false d a b) s = .next (s.finish d (x ||| y))
      ∧ exec (.xor false d a b) s = .next (s.finish d (x ^^^ y))
      ∧ exec (.andn false d a b) s = .next (s.finish d (x &&& ~~~y))
      ∧ exec (.orn false d a b) s = .next (s.finish d (x ||| ~~~y))
      ∧ exec (.xnor false d a b) s = .next (s.finish d (~~~(x ^^^ y)))
      ∧ exec (.shl false d a b) s = .next (s.finish d (x <<< sh))
      ∧ exec (.shr false d a b) s = .next (s.finish d (x >>> sh))
      ∧ exec (.sra false d a b) s = .next (s.finish d (x.sshiftRight sh))
      ∧ exec (.rol false d a b) s = .next (s.finish d (x.rotateLeft sh))
      ∧ exec (.ror false d a b) s = .next (s.finish d (x.rotateRight sh))
      ∧ exec (.slt false d a b) s = .next (s.finish d (if x.toInt < y.toInt then 1 else 0))
      ∧ exec (.sltu false d a b) s = .next (s.finish d (if x.toNat < y.toNat then 1 else 0))
      ∧ exec (.min false d a b) s = .next (s.finish d (if x.toInt ≤ y.toInt then x else y))
      ∧ exec (.max false d a b) s = .next (s.finish d (if x.toInt < y.toInt then y else x))
      ∧ exec (.minu false d a b) s = .next (s.finish d (if x.toNat ≤ y.toNat then x else y))
      ∧ exec (.maxu false d a b) s = .next (s.finish d (if x.toNat < y.toNat then y else x)))
  ∧ (
    ∀ (s : State) (d a b : Reg), s.plain [a, b] [d] = true →
      let x : BitVec 32 := (s.reg s.cur a).extractLsb' 0 32
      let y : BitVec 32 := (s.reg s.cur b).extractLsb' 0 32
      let sh := y.toNat % 32
      let put : BitVec 32 → Result := fun v => .next (s.finish d (v.zeroExtend 64))
      exec (.add true d a b) s = put (x + y)
      ∧ exec (.sub true d a b) s = put (x - y)
      ∧ exec (.and true d a b) s = put (x &&& y)
      ∧ exec (.or true d a b) s = put (x ||| y)
      ∧ exec (.xor true d a b) s = put (x ^^^ y)
      ∧ exec (.andn true d a b) s = put (x &&& ~~~y)
      ∧ exec (.orn true d a b) s = put (x ||| ~~~y)
      ∧ exec (.xnor true d a b) s = put (~~~(x ^^^ y))
      ∧ exec (.shl true d a b) s = put (x <<< sh)
      ∧ exec (.shr true d a b) s = put (x >>> sh)
      ∧ exec (.sra true d a b) s = put (x.sshiftRight sh)
      ∧ exec (.rol true d a b) s = put (x.rotateLeft sh)
      ∧ exec (.ror true d a b) s = put (x.rotateRight sh)
      ∧ exec (.slt true d a b) s = put (if x.toInt < y.toInt then 1 else 0)
      ∧ exec (.sltu true d a b) s = put (if x.toNat < y.toNat then 1 else 0)
      ∧ exec (.min true d a b) s = put (if x.toInt ≤ y.toInt then x else y)
      ∧ exec (.max true d a b) s = put (if x.toInt < y.toInt then y else x)
      ∧ exec (.minu true d a b) s = put (if x.toNat ≤ y.toNat then x else y)
      ∧ exec (.maxu true d a b) s = put (if x.toNat < y.toNat then y else x))

/-- 07 R205, Table 7-3: each MULDIV instruction completes with the result of its row at both widths, with the results at
the borders. 07 R211, 14 Table 14-3: ADDX, SUBX and MULX write an exact result that lies in range; otherwise rd is not
written and OVERFLOW is taken, with the operands in TVAL and TAUX. -/
def Obligations.MultiplyDivideAndExact : Prop :=
  (
    ∀ (s : State) (d a b : Reg), s.plain [a, b] [d] = true →
      let x := s.reg s.cur a
      let y := s.reg s.cur b
      let x32 : BitVec 32 := x.extractLsb' 0 32
      let y32 : BitVec 32 := y.extractLsb' 0 32
      let put : Word → Result := fun v => .next (s.finish d v)
      let put32 : BitVec 32 → Result := fun v => .next (s.finish d (v.zeroExtend 64))
      exec (.mul false d a b) s = put (x * y)
      ∧ exec (.mul true d a b) s = put32 (x32 * y32)
      ∧ exec (.mulh d a b) s = put (BitVec.ofInt 64 (x.toInt * y.toInt / 2 ^ 64))
      ∧ exec (.mulhu d a b) s = put (BitVec.ofNat 64 (x.toNat * y.toNat / 2 ^ 64))
      ∧ exec (.mulhsu d a b) s = put (BitVec.ofInt 64 (x.toInt * y.toNat / 2 ^ 64))
      ∧ exec (.div false d a b) s = put (if y = 0 then -1 else BitVec.ofInt 64 (x.toInt.tdiv y.toInt))
      ∧ exec (.div true d a b) s = put32 (if y32 = 0 then -1 else BitVec.ofInt 32 (x32.toInt.tdiv y32.toInt))
      ∧ exec (.divu false d a b) s = put (if y = 0 then -1 else BitVec.ofNat 64 (x.toNat / y.toNat))
      ∧ exec (.divu true d a b) s = put32 (if y32 = 0 then -1 else BitVec.ofNat 32 (x32.toNat / y32.toNat))
      ∧ exec (.rem false d a b) s = put (if y = 0 then x else BitVec.ofInt 64 (x.toInt.tmod y.toInt))
      ∧ exec (.rem true d a b) s = put32 (if y32 = 0 then x32 else BitVec.ofInt 32 (x32.toInt.tmod y32.toInt))
      ∧ exec (.remu false d a b) s = put (if y = 0 then x else BitVec.ofNat 64 (x.toNat % y.toNat))
      ∧ exec (.remu true d a b) s = put32 (if y32 = 0 then x32 else BitVec.ofNat 32 (x32.toNat % y32.toNat))
      ∧ (x = BitVec.intMin 64 → y = -1 →
          exec (.div false d a b) s = put (BitVec.intMin 64) ∧ exec (.rem false d a b) s = put 0))
  ∧ (
    ∀ (s : State) (w : Bool) (d a b : Reg), s.plain [a, b] [d] = true →
      let x := s.reg s.cur a
      let y := s.reg s.cur b
      let n : Nat := if w then 32 else 64
      let vx : Int := if w then (x.extractLsb' 0 32).toInt else x.toInt
      let vy : Int := if w then (y.extractLsb' 0 32).toInt else y.toInt
      let outcome : Byte → Int → Result := fun sub r =>
        if -(2 ^ (n - 1) : Int) ≤ r ∧ r < 2 ^ (n - 1) then
          .next (s.finish d (if w then (BitVec.ofInt 32 r).zeroExtend 64 else BitVec.ofInt 64 r))
        else .next (s.takeTrap s.cur 0x04 sub (s.slot s.cur).pc s.word x y)
      exec (.addx w d a b) s = outcome 0 (vx + vy)
      ∧ exec (.subx w d a b) s = outcome 1 (vx - vy)
      ∧ exec (.mulx w d a b) s = outcome 2 (vx * vy))

/-- 07 R206, Table 7-4: counts, reversals and extensions, bit by bit, at the width n that R201 gives. 07 R208, R209,
R210: the immediate forms. A shift amount of a .w form is below 32 in every well-formed word. 07 R210, R212: LUI, AUIPC
and the two forms of CSEL. -/
def Obligations.BitsImmediatesAndSelects : Prop :=
  (
    ∀ (s : State) (w : Bool) (d a : Reg), s.plain [a] [d] = true →
      let x := s.reg s.cur a
      let n := if w then 32 else 64
      (∃ v : Word, exec (.clz w d a) s = .next (s.finish d v) ∧ v.toNat ≤ n
        ∧ (∀ k, k < v.toNat → x.getLsbD (n - 1 - k) = false)
        ∧ (v.toNat < n → x.getLsbD (n - 1 - v.toNat) = true))
      ∧ (∃ v : Word, exec (.ctz w d a) s = .next (s.finish d v) ∧ v.toNat ≤ n
        ∧ (∀ k, k < v.toNat → x.getLsbD k = false) ∧ (v.toNat < n → x.getLsbD v.toNat = true))
      ∧ (∃ v : Word, exec (.popc w d a) s = .next (s.finish d v)
        ∧ v.toNat = ((List.range n).filter fun k => x.getLsbD k).length)
      ∧ (∃ v : Word, exec (.brev w d a) s = .next (s.finish d v)
        ∧ ∀ k, v.getLsbD k = (decide (k < n) && x.getLsbD (n - 1 - k)))
      ∧ (∃ v : Word, exec (.bswap w d a) s = .next (s.finish d v)
        ∧ ∀ k, v.getLsbD k = (decide (k < n) && x.getLsbD (8 * (n / 8 - 1 - k / 8) + k % 8)))
      ∧ exec (.sextb d a) s = .next (s.finish d ((x.extractLsb' 0 8).signExtend 64))
      ∧ exec (.sexth d a) s = .next (s.finish d ((x.extractLsb' 0 16).signExtend 64))
      ∧ exec (.sextw d a) s = .next (s.finish d ((x.extractLsb' 0 32).signExtend 64))
      ∧ exec (.zextw d a) s = .next (s.finish d ((x.extractLsb' 0 32).zeroExtend 64)))
  ∧ (
    ∀ (s : State) (d a : Reg) (i : BitVec 13) (n : BitVec 6), s.plain [a] [d] = true →
      let x := s.reg s.cur a
      let imm : Word := i.signExtend 64
      let x32 : BitVec 32 := x.extractLsb' 0 32
      let put : Word → Result := fun v => .next (s.finish d v)
      let put32 : BitVec 32 → Result := fun v => .next (s.finish d (v.zeroExtend 64))
      exec (.addi d a i) s = put (x + imm)
      ∧ exec (.andi d a i) s = put (x &&& imm)
      ∧ exec (.ori d a i) s = put (x ||| imm)
      ∧ exec (.xori d a i) s = put (x ^^^ imm)
      ∧ exec (.slti d a i) s = put (if x.toInt < imm.toInt then 1 else 0)
      ∧ exec (.sltiu d a i) s = put (if x.toNat < imm.toNat then 1 else 0)
      ∧ exec (.shli false d a n) s = put (x <<< n.toNat)
      ∧ exec (.shri false d a n) s = put (x >>> n.toNat)
      ∧ exec (.srai false d a n) s = put (x.sshiftRight n.toNat)
      ∧ exec (.roli false d a n) s = put (x.rotateLeft n.toNat)
      ∧ exec (.rori false d a n) s = put (x.rotateRight n.toNat)
      ∧ (n.toNat < 32 →
          exec (.shli true d a n) s = put32 (x32 <<< n.toNat)
          ∧ exec (.shri true d a n) s = put32 (x32 >>> n.toNat)
          ∧ exec (.srai true d a n) s = put32 (x32.sshiftRight n.toNat)
          ∧ exec (.roli true d a n) s = put32 (x32.rotateLeft n.toNat)
          ∧ exec (.rori true d a n) s = put32 (x32.rotateRight n.toNat)))
  ∧ (
    ∀ (s : State) (d a b c : Reg) (i : BitVec 19),
      (s.plain [] [d] = true →
        let up : Word := (i ++ 0#13).signExtend 64
        exec (.lui d i) s = .next (s.finish d up)
        ∧ exec (.auipc d i) s = .next (s.finish d ((s.slot s.cur).pc + up)))
      ∧ (s.plain [a, b, c] [d] = true →
        let x := s.reg s.cur a
        let y := s.reg s.cur b
        let z := s.reg s.cur c
        exec (.cselNz d a b c) s = .next (s.finish d (if z ≠ 0 then x else y))
        ∧ exec (.cselZ d a b c) s = .next (s.finish d (if z = 0 then x else y))))

/-- 07 R222 to R225: where each branch and jump goes, and what the jumps and BNZD write. ILL traps ILLEGAL. -/
def Obligations.ControlFlow : Prop :=
  ∀ (s : State) (d a b : Reg) (i : BitVec 13) (l : BitVec 19),
    let pc := (s.slot s.cur).pc
    let near : Word := pc + 4 * i.signExtend 64
    let far : Word := pc + 4 * l.signExtend 64
    let x := s.reg s.cur a
    let y := s.reg s.cur b
    let to' : Bool → Result := fun c => .next (if c then s.jump near else s.advance)
    (s.plain [a, b] [] = true →
      exec (.beq a b i) s = to' (decide (x = y))
      ∧ exec (.bne a b i) s = to' (decide (x ≠ y))
      ∧ exec (.blt a b i) s = to' (decide (x.toInt < y.toInt))
      ∧ exec (.bge a b i) s = to' (decide (y.toInt ≤ x.toInt))
      ∧ exec (.bltu a b i) s = to' (decide (x.toNat < y.toNat))
      ∧ exec (.bgeu a b i) s = to' (decide (y.toNat ≤ x.toNat)))
    ∧ (s.plain [] [d] = true → exec (.jal d l) s = .next ((s.writeReg s.cur d (pc + 4)).jump far))
    ∧ (s.plain [a] [d] = true →
      exec (.jalr d a i) s = .next ((s.writeReg s.cur d (pc + 4)).jump ((x + i.signExtend 64) &&& ~~~3#64)))
    ∧ (s.plain [a] [a] = true →
      let t := s.writeReg s.cur a (x - 1)
      exec (.bnzd a i) s = .next (if x - 1 ≠ 0 then t.jump near else t.advance))
    ∧ exec .ill s = .next (s.takeTrap s.cur 0x01 2 pc s.word 0 0)

/-- 07 R213 to R219 with 03 R100, R101: a rounding instruction takes the value and flags of one rounding in mode FRM.RM,
ORs the flags into FFLAGS, writes rd, and under SR steps the LFSR once; while FRM.RM is reserved it traps RMRSV with
that value in TVAL and no effect (14 Table 14-3). 07 R214, R216, R218: what never rounds ignores FRM and leaves the
LFSR; FCLASS raises no flag. -/
def Obligations.FloatingPoint : Prop :=
  (
    ∀ (s : State) (f g : Fmt3) (k : IntFmt) (d a b : Reg),
      let x := s.reg s.cur a
      let y := s.reg s.cur b
      let z := s.reg s.cur d
      let me := s.slot s.cur
      let outcome : (Rounding → Word × FpFlags) → Result := fun op =>
        match rmode me.frm with
        | none => .next (s.takeTrap s.cur 0x03 0 me.pc s.word (me.frm.zeroExtend 64) 0)
        | some m =>
          let lfsr := if m = .sr then lfsrStep me.lfsr else me.lfsr
          let r := op ⟨m, lfsr.toNat⟩
          .next ((s.modSlot s.cur fun q => { q with lfsr := lfsr, fflags := q.fflags ||| r.2 }).finish d r.1)
      (s.plain [a, b] [d] = true →
        exec (.fadd f d a b) s = outcome (fun r => fpOp (threadFmt f) r .fadd x y)
        ∧ exec (.fsub f d a b) s = outcome (fun r => fpOp (threadFmt f) r .fsub x y)
        ∧ exec (.fmul f d a b) s = outcome (fun r => fpOp (threadFmt f) r .fmul x y)
        ∧ exec (.fdiv f d a b) s = outcome (fun r => fpOp (threadFmt f) r .fdiv x y))
      ∧ (s.plain [a] [d] = true →
        exec (.fsqrt f d a) s = outcome (fun r => fpOp (threadFmt f) r .fsqrt x 0)
        ∧ exec (.fcvt f g d a) s = outcome (fun r => fcvtOp (threadFmt f) (threadFmt g) r x)
        ∧ exec (.icvtToInt k f d a) s
            = outcome (fun r => toIntOp (intFmtWidth k) r (decodeFp (threadFmt f).layout x))
        ∧ exec (.icvtFromInt f d a) s = outcome (fun r => fromIntOp (threadFmt f) r x.toInt))
      ∧ (s.plain [a, b, d] [d] = true →
        exec (.fma f d a b) s = outcome (fun r => fmaOp (threadFmt f) r .fma x y z)
        ∧ exec (.fms f d a b) s = outcome (fun r => fmaOp (threadFmt f) r .fms x y z)
        ∧ exec (.fnma f d a b) s = outcome (fun r => fmaOp (threadFmt f) r .fnma x y z)
        ∧ exec (.fnms f d a b) s = outcome (fun r => fmaOp (threadFmt f) r .fnms x y z)))
  ∧ (
    ∀ (s : State) (f : Fmt3) (d a b : Reg),
      let x := s.reg s.cur a
      let y := s.reg s.cur b
      let put : Word × FpFlags → Result := fun r =>
        .next ((s.modSlot s.cur fun q => { q with fflags := q.fflags ||| r.2 }).finish d r.1)
      (s.plain [a, b] [d] = true →
        exec (.fmin f d a b) s = put (fpMinMax (threadFmt f) false x y)
        ∧ exec (.fmax f d a b) s = put (fpMinMax (threadFmt f) true x y)
        ∧ exec (.feq f d a b) s = put (cmpOp (threadFmt f) .feq x y)
        ∧ exec (.flt f d a b) s = put (cmpOp (threadFmt f) .flt x y)
        ∧ exec (.fle f d a b) s = put (cmpOp (threadFmt f) .fle x y)
        ∧ exec (.funord f d a b) s = put (cmpOp (threadFmt f) .funord x y))
      ∧ (s.plain [a] [d] = true → exec (.fclass f d a) s = .next (s.finish d (fclassOp (threadFmt f) x))))

/-- 07 R216, Table 7-7: the comparisons of two numbers of a format, the unordered one and NV. 07 R218: FCLASS sets
exactly one of bits 9 to 0. -/
def Obligations.ComparisonsAndClasses : Prop :=
  (
    ∀ (f : Fmt) (a b : Word),
      let x := decodeFp f.layout a
      let y := decodeFp f.layout b
      let nan := x.isNan || y.isNan
      let snan := x.isSnan || y.isSnan
      ((cmpOp f .funord a b).1 = 1 ↔ nan = true)
      ∧ (nan = true → (cmpOp f .feq a b).1 = 0 ∧ (cmpOp f .flt a b).1 = 0 ∧ (cmpOp f .fle a b).1 = 0)
      ∧ ((cmpOp f .fle a b).1 = 1 ↔ (cmpOp f .flt a b).1 = 1 ∨ (cmpOp f .feq a b).1 = 1)
      ∧ ((cmpOp f .flt a b).1 = 1 → (cmpOp f .feq a b).1 = 0)
      ∧ ((cmpOp f .feq a b).2 = flagNV ↔ snan = true) ∧ ((cmpOp f .funord a b).2 = flagNV ↔ snan = true)
      ∧ ((cmpOp f .flt a b).2 = flagNV ↔ nan = true) ∧ ((cmpOp f .fle a b).2 = flagNV ↔ nan = true))
  ∧ (
    ∀ (f : Fmt) (a : Word), ∃ k : Nat, k < 10 ∧ fclassOp f a = 1#64 <<< k)

/-- 07 R202, R221: a thread's SFU instruction takes an entry of the queue of its core's skein and the slot goes on; when
none can be accepted in the aclk or others wait, the slot waits in WAIT-DATA to be granted one; a fifth outstanding result
waits. 07 R221: the grant of a free entry takes a waiting request into the queue and lets its slot go on behind its
instruction; the entry of the oldest request is free when its service begins; the oldest result being formed reaches rd and
FFLAGS of its slot. -/
def Obligations.SpecialFunctions : Prop :=
  (
    ∀ (s : State) (f : Fmt3) (d a : Reg), s.plain [a] [d] = true →
      let i := s.cur
      let k := s.skein i.die (skeinOf i.core)
      let req : SfuOp → SfuReq := fun fn =>
        { agent := .slot i (s.slot i).inc, fn, fmt := f, x := s.reg i a, dst := d }
      let outcome : SfuOp → Result := fun fn =>
        if 4 ≤ s.outstanding i then .next (s.waitData i)
        else if k.accepted ≠ some s.aclk ∧ k.queue.length + (if k.begun = some s.aclk then 1 else 0) < 16 ∧ k.waiting = [] then
          .next ((s.setSkein i.die (skeinOf i.core)
            { k with queue := k.queue ++ [req fn], accepted := some s.aclk }).advance)
        else
          .next ((s.setSkein i.die (skeinOf i.core)
            { k with waiting := k.waiting ++ [(i.core.toNat, { req fn with src := some a })] }).enter i .waitData .sfu)
      exec (.exp2 f d a) s = outcome .exp2 ∧ exec (.log2 f d a) s = outcome .log2
      ∧ exec (.rcp f d a) s = outcome .rcp ∧ exec (.rsq f d a) s = outcome .rsq
      ∧ exec (.sin f d a) s = outcome .sin ∧ exec (.cos f d a) s = outcome .cos
      ∧ exec (.tanh f d a) s = outcome .tanh)
  ∧ (
    ∀ (s : State) (i : SlotId) (p : Nat) (q : SfuReq) (rest : List SfuReq),
      let d := s.ev.die
      let n : BitVec 7 := BitVec.ofNat 7 s.ev.unit
      let k := s.skein d n
      (k.room s.aclk = true → k.nextGrant = some (p, q) → q.agent = .slot i (s.slot i).inc → (s.slot i).await = .sfu →
        (∀ r, q.src = some r → isNet r = false ∧ isStream r = false) →
        ∃ t, exec .sfuGrant s = .next t
          ∧ (t.skein d n).queue = k.queue ++ [{ q with src := none }] ∧ (t.skein d n).waiting = k.waiting.erase (p, q)
          ∧ (t.slot i).state = .ready ∧ (t.slot i).pc = (s.slot i).pc + 4
          ∧ (∀ j, j ≠ i → t.slot j = s.slot j) ∧ t.mem = s.mem)
      ∧ (s.ev.val.getLsbD 0 = true → k.queue = q :: rest → k.begun ≠ some s.aclk →
        exec .sfuResult s = .next (s.setSkein d n
          { k with queue := rest, serving := k.serving ++ [q], begun := some s.aclk }))
      ∧ (s.ev.val.getLsbD 0 = false → k.serving = q :: rest → q.agent = .slot i (s.slot i).inc →
        let r := sfuOp q.fn (threadFmt q.fmt) q.x
        exec .sfuResult s = .next (((s.setSkein d n { k with serving := rest }).writeReg i q.dst r.1).modSlot i
          fun x => { x with fflags := x.fflags ||| r.2 })))

/-- 07 R202, R226, R227; 15 R390, R391: a load or store whose operands can be read starts one access to rs1 + imm and
the slot goes on; a fifth outstanding result waits; a misaligned address traps MISALIGN and one above bit 56 VARANGE. 07
R230, R231: the full/empty operations start one access to the double at rs1, with the ordering of Table 7-11; a slot
whose operation may park waits for it. 07 R233, R234: an amo or a CAS starts one access with its operand, for a CAS also
the expected value of rd; OP 0x2C is plain, OP 0x2D an acquire and release at its scope; 16 R420: in a journaled slot
JNLOP. -/
def Obligations.AccessesStart : Prop :=
  (
    ∀ (s : State) (d a b : Reg) (i : BitVec 13),
      let me := s.slot s.cur
      let va : Word := s.reg s.cur a + i.signExtend 64
      let phys := isPriv s.cur && s.curCore.phys
      let start : Nat → Access → Result := fun n acc =>
        if va.toNat % 2 ^ n ≠ 0 then .next (s.takeTrap s.cur 0x20 (BitVec.ofNat 8 n) me.pc s.word va 0)
        else if 2 ^ 57 ≤ va.toNat then .next (s.takeTrap s.cur 0x21 0 me.pc s.word va 0)
        else .next { s with accs := s.accs ++ [acc], nextId := s.nextId + 1 }.advance
      let acc : MemOp → Access := fun op =>
        { id := s.nextId, agent := .slot s.cur me.inc, op, scope := .s, acq := false, rel := false, va
          ctx := s.curCore.ctx, phys, priv := isPriv s.cur, pc := me.pc, since := s.aclk }
      let load : Nat → LoadOp → Result := fun n o =>
        if 4 ≤ s.outstanding s.cur then .next (s.waitData s.cur)
        else start n { acc (.load o) with dst := d, data := BitVec.ofNat 64 me.log.length }
      let store : Nat → StoreOp → Result := fun n o => start n { acc (.store o) with data := s.reg s.cur b }
      (s.plain [a] [d] = true →
        exec (.ldB d a i) s = load 0 .b ∧ exec (.ldH d a i) s = load 1 .h ∧ exec (.ldW d a i) s = load 2 .w
        ∧ exec (.ldD d a i) s = load 3 .d ∧ exec (.ldBu d a i) s = load 0 .bu ∧ exec (.ldHu d a i) s = load 1 .hu
        ∧ exec (.ldWu d a i) s = load 2 .wu)
      ∧ (s.plain [a, b] [] = true → s.journaled = false →
        exec (.stB b a i) s = store 0 .b ∧ exec (.stH b a i) s = store 1 .h ∧ exec (.stW b a i) s = store 2 .w
        ∧ exec (.stD b a i) s = store 3 .d))
  ∧ (
    ∀ (s : State) (x : Scope) (d b a : Reg), 4 > s.outstanding s.cur →
      let me := s.slot s.cur
      let va := s.reg s.cur a
      let acc : FeOp → Scope → Access := fun o x =>
        { s.newAccess s.cur (.fe o) x false false va with
          acq := o = .lde ∨ o = .take ∨ o = .waitf ∨ o = .trytake, rel := o = .put ∨ o = .fill }
      let put : Access → State := fun q => { s with accs := s.accs ++ [q], nextId := s.nextId + 1 }
      let goesOn : Access → Result := fun q => .next (put q).advance
      let waits : Access → Result := fun q => .next ((put q).enter s.cur .waitData (.access q.id))
      (va.toNat % 8 = 0 → va.toNat < 2 ^ 57 →
        (s.plain [a] [d, 0] = true →
          exec (.lde x d a) s = waits { acc .lde x with dst := d } ∧ exec (.take x d a) s = waits { acc .take x with dst := d }
          ∧ exec (.festat d a) s = goesOn { acc .festat .s with dst := d })
        ∧ (s.plain [a] [0, 0] = true → exec (.waitf x a) s = waits (acc .waitf x))
        ∧ (s.plain [a] [d, b] = true → exec (.trytake x d b a) s = goesOn { acc .trytake x with dst := d, dst2 := b })
        ∧ (s.journaled = false →
          (s.plain [a, b] [] = true →
            exec (.put x b a) s = waits { acc .put x with data := s.reg s.cur b }
            ∧ exec (.fill x b a) s = goesOn { acc .fill x with data := s.reg s.cur b })
          ∧ (s.plain [a] [] = true → exec (.purge a) s = goesOn (acc .purge .s))))
      ∧ (va.toNat % 8 ≠ 0 →
        let trap : Result := .next (s.takeTrap s.cur 0x20 3 me.pc s.word va 0)
        (s.plain [a] [d, 0] = true → exec (.lde x d a) s = trap ∧ exec (.take x d a) s = trap)
        ∧ (s.plain [a, b] [] = true → exec (.fill x b a) s = trap))
      ∧ (s.journaled = true → exec (.put x b a) s = .next (s.takeTrap s.cur 0x45 0 me.pc s.word 0 0)))
  ∧ (
    ∀ (s : State) (w : Bool) (x : Scope) (d b a : Reg),
      let me := s.slot s.cur
      let va := s.reg s.cur a
      let acc : MemOp → Scope → Bool → Access := fun op x ordered =>
        { s.newAccess s.cur op x ordered ordered va with data := s.reg s.cur b, dst := d }
      let start : Access → Result := fun q => .next { s with accs := s.accs ++ [q], nextId := s.nextId + 1 }.advance
      let relaxed : AmoOp → Result := fun o => start (acc (.amo o w) .s false)
      let sync : AmoOp → Result := fun o => start (acc (.amo o w) x true)
      (s.journaled = false → 4 > s.outstanding s.cur → va.toNat % (if w then 4 else 8) = 0 →
        va.toNat < 2 ^ 57 →
        (s.plain [a, b] [d] = true →
          exec (.amoSwap w d b a) s = relaxed .swap ∧ exec (.amoAdd w d b a) s = relaxed .add
          ∧ exec (.amoAnd w d b a) s = relaxed .and ∧ exec (.amoOr w d b a) s = relaxed .or
          ∧ exec (.amoXor w d b a) s = relaxed .xor ∧ exec (.amoMin w d b a) s = relaxed .min
          ∧ exec (.amoMax w d b a) s = relaxed .max ∧ exec (.amoMaxu w d b a) s = relaxed .maxu
          ∧ exec (.amoSwapScoped w x d b a) s = sync .swap ∧ exec (.amoAddScoped w x d b a) s = sync .add
          ∧ exec (.amoAndScoped w x d b a) s = sync .and ∧ exec (.amoOrScoped w x d b a) s = sync .or
          ∧ exec (.amoXorScoped w x d b a) s = sync .xor ∧ exec (.amoMinScoped w x d b a) s = sync .min
          ∧ exec (.amoMaxScoped w x d b a) s = sync .max ∧ exec (.amoMaxuScoped w x d b a) s = sync .maxu)
        ∧ (s.plain [a, b, d] [d] = true →
          exec (.cas w x d b a) s = start { acc (.cas w) x true with expect := s.reg s.cur d }))
      ∧ (s.journaled = true →
        let trap : Result := .next (s.takeTrap s.cur 0x45 0 me.pc s.word 0 0)
        exec (.amoAdd w d b a) s = trap ∧ exec (.amoAddScoped w x d b a) s = trap ∧ exec (.cas w x d b a) s = trap))

/-- 05 R150, 07 R236, R237: a full fence completes when the thread's earlier reads have returned and the accesses before the
full fences that it comes after are performed, an acquire fence and an ifence when its earlier reads have returned, and they
invalidate the L1D at c and wider, the ifence the L1I too; a release fence never waits; a release at the fence's scope stands
for later writes while the thread's earlier accesses are still to be performed; a syncwin fence waits for the window count of a
shed, modulo 2^32, and traps NODIE for a die absent from the panel map. -/
def Obligations.FencesComplete : Prop :=
  ∀ (s : State) (x : Scope) (a b : Reg),
    let i := s.cur
    let me := s.slot i
    let inval : State → State := fun t => if x = .s then t else t.modCore i.die i.core fun c => { c with l1d := [] }
    let cnt : BitVec 32 := (s.shed ((s.reg i a).extractLsb' 16 6) ((s.reg i a).extractLsb' 0 9)).swincnt
    let w : BitVec 32 := (s.reg i b).extractLsb' 0 32
    let released : State → Prop := fun t =>
      (t.slot i).pc = me.pc + 4 ∧ (t.slot i).state = .ready ∧ (t.slot i).relScope = widerScope me.relScope x ∧ t.mem = s.mem
      ∧ (s.allPerformed = true → t.accs = s.accs)
      ∧ (s.allPerformed = false → ∃ q : Access, t.accs = s.accs ++ [q] ∧ q.op = .fence ∧ q.scope = x ∧ q.stage = .home
        ∧ q.agent = .slot i me.inc)
    (if s.readsOpen = true ∨ s.fenceBehind i me.inc x = true then exec (.fenceFull x) s = .next (s.waitData i)
      else ∃ t, exec (.fenceFull x) s = .next t ∧ released t
        ∧ (t.core i.die i.core).l1d = if x = .s then s.curCore.l1d else [])
    ∧ exec (.fenceAcq x) s = .next (if s.readsOpen then s.waitData i else (inval s).advance)
    ∧ exec (.fenceIfence x) s = .next (if s.readsOpen then s.waitData i
        else ((inval s).modCore i.die i.core fun c => { c with l1i := [] }).advance)
    ∧ (∃ t, exec (.fenceRel x) s = .next t ∧ released t)
    ∧ (s.plain [a, b] [] = true →
      if s.dieThere i.die ((s.reg i a).extractLsb' 16 6) = true then
        exec (.fenceSyncwin x a b) s = .next (if 2 ^ 31 ≤ (cnt - w).toNat then s.waitData i else (inval s).advance)
      else exec (.fenceSyncwin x a b) s = .next (s.takeTrap i 0x2a 0 me.pc s.word (s.reg i a) 0))

/-- 04 R113, R124, R148; 07 R226, R227: a load performed outside HBM takes the bytes at its home with the extension of
Table 7-10, and changes nothing but its access; a store writes the low bytes of rs2, lowest first, and no other byte,
and leaves the full/empty bits as they are. 07 R233, R234: an amo at its home returns the old value and stores F of
Table 7-12; a CAS returns the old value and stores rs2 where the old value is the expected one, and otherwise stores
nothing. The full/empty bits and every other byte stay (R228). 04 R116, Table 4-3; 07 R231: a full/empty operation at a
double on which nothing waits: which full/empty bit it leaves, which value it returns, and when it parks. -/
def Obligations.AccessesAtHome : Prop :=
  (
    ∀ (s : State) (a : Access) (i : SlotId) (inc : Byte) (lo : LoadOp) (so : StoreOp),
      s.access s.ev.id = some a → a.stage = .home → s.mayPerform a = true → s.unitTakes a = true →
      a.agent = .slot i inc → paSpace a.pa ≠ 2 → s.isPoisoned a.pa = false →
      (a.op = .load lo → paSpace a.pa ≠ 0 → (s.slot i).log = [] →
        exec .homeBankOperation s = .next (s.modAccess a.id fun b =>
          { b with stage := .done, result := extendLoad lo (s.readHome a.key a.pa (2 ^ loadLog2 lo)), ok := true }))
      ∧ (a.op = .store so → (s.keySlot a.key a.pa).xts = false →
        ∃ t, exec .homeBankOperation s = .next t
          ∧ (∀ k, k < 2 ^ storeLog2 so → t.byteAt (a.pa + k) = a.data.extractLsb' (8 * k) 8)
          ∧ (∀ p, p < a.pa ∨ a.pa + 2 ^ storeLog2 so ≤ p → t.byteAt p = s.byteAt p)
          ∧ t.full = s.full ∧ t.slots = s.slots
          ∧ t.access a.id = some { a with stage := .done, result := 0, ok := true }))
  ∧ (
    ∀ (s : State) (a : Access) (i : SlotId) (inc : Byte) (o : AmoOp) (w : Bool),
      s.access s.ev.id = some a → a.stage = .home → s.mayPerform a = true → s.unitTakes a = true →
      a.agent = .slot i inc → paSpace a.pa ≠ 2 → s.isPoisoned a.pa = false → (s.keySlot a.key a.pa).xts = false →
      let n := if w then 4 else 8
      let old := s.readHome a.key a.pa n
      let done : State → Prop := fun t =>
        t.access a.id = some { a with stage := .done, result := old, ok := true } ∧ t.full = s.full ∧ t.slots = s.slots
      (a.op = .amo o w →
        ∃ t, exec .homeBankOperation s = .next t ∧ done t
          ∧ t.mem = writeRaw a.pa (bytesOfWord n (amoResult o (8 * n) old a.data)) s.mem)
      ∧ (a.op = .cas w →
        ∃ t, exec .homeBankOperation s = .next t ∧ done t
          ∧ t.mem = if BitVec.ofNat (8 * n) old.toNat = BitVec.ofNat (8 * n) a.expect.toNat
              then writeRaw a.pa (bytesOfWord n a.data) s.mem else s.mem))
  ∧ (
    ∀ (s : State) (a : Access) (i : SlotId) (inc : Byte) (o : FeOp),
      s.access s.ev.id = some a → a.stage = .home → s.mayPerform a = true → s.unitTakes a = true →
      a.agent = .slot i inc → a.op = .fe o → paSpace a.pa ≠ 2 → a.pa % 8 = 0 → s.isPoisoned a.pa = false → s.orphaned a.pa = false →
      s.retakes a = false → (∀ w ∈ s.waits, w.pa ≠ a.pa) →
      let full := s.isFull a.pa
      let data := s.readHome a.key a.pa 8
      let host := if s.hostFull.contains a.pa then true else a.host
      ∃ t, exec .homeBankOperation s = .next t
        ∧ (o = .lde ∨ o = .waitf → full = true →
            t.access a.id = some { a with stage := .done, result := data, ok := true, host } ∧ t.full = s.full ∧ t.mem = s.mem)
        ∧ (o = .take ∨ o = .trytake → full = true →
            t.access a.id = some { a with stage := .done, result := data, ok := true, host }
            ∧ t.isFull a.pa = false ∧ t.mem = s.mem)
        ∧ (o = .trytake → full = false →
            t.access a.id = some { a with stage := .done, result := 0, ok := false, host } ∧ t.full = s.full ∧ t.mem = s.mem)
        ∧ (o = .festat →
            t.access a.id = some { a with stage := .done, result := if full then 1 else 0, ok := true, host }
            ∧ t.full = s.full ∧ t.mem = s.mem)
        ∧ (o = .put → full = false ∨ o = .fill →
            (t.access a.id).map (·.stage) = some .done ∧ t.isFull a.pa = true
            ∧ ((s.keySlot a.key a.pa).xts = false → t.mem = writeRaw a.pa (bytesOfWord 8 a.data) s.mem))
        ∧ (o = .purge → (t.access a.id).map (·.stage) = some .done ∧ t.isFull a.pa = false ∧ t.mem = s.mem)
        ∧ ((o = .lde ∨ o = .waitf ∨ o = .take) ∧ full = false ∨ o = .put ∧ full = true →
            (t.access a.id).map (·.stage) = some (if (s.waits.filter (·.table == homeTable a.pa)).length
              < (homeTable a.pa).size then .parked else .polling)
            ∧ t.full = s.full ∧ t.mem = s.mem))

/-- 07 Table 7-10: what rd receives of the bytes a load reads. 07 Table 7-12 on doubles. -/
def Obligations.LoadAndAmoFunctions : Prop :=
  (
    ∀ v : Word,
      extendLoad .b v = (v.extractLsb' 0 8).signExtend 64 ∧ extendLoad .bu v = (v.extractLsb' 0 8).zeroExtend 64
      ∧ extendLoad .h v = (v.extractLsb' 0 16).signExtend 64 ∧ extendLoad .hu v = (v.extractLsb' 0 16).zeroExtend 64
      ∧ extendLoad .w v = (v.extractLsb' 0 32).signExtend 64 ∧ extendLoad .wu v = (v.extractLsb' 0 32).zeroExtend 64
      ∧ extendLoad .d v = v)
  ∧ (
    ∀ x v : Word,
      amoResult .swap 64 x v = v ∧ amoResult .add 64 x v = x + v ∧ amoResult .and 64 x v = x &&& v
      ∧ amoResult .or 64 x v = x ||| v ∧ amoResult .xor 64 x v = x ^^^ v
      ∧ amoResult .min 64 x v = (if x.toInt < v.toInt then x else v)
      ∧ amoResult .max 64 x v = (if x.toInt < v.toInt then v else x)
      ∧ amoResult .maxu 64 x v = (if x.toNat < v.toNat then v else x))

/-- 09 R279; 14 R380; 16 R432: a SEND whose handle is well formed and names a core, with a free return reservation,
sends one message of g + 1 doubles of the window as a release of its thread, at the scope of the widest release fence
before it where that is wider; SENDM one to each core of the skein that CMASK names; a result outstanding to one of the doubles
holds it; too few reservations leave the slot in WAIT-DATA; a malformed handle traps ROUTE 2, one that names no core
ROUTE 3. -/
def Obligations.SendsLeave : Prop :=
  ∀ (s : State) (x : Scope) (a b : Reg) (l : BitVec 3) (c : CoreNo), s.plain [a, b] [] = true →
    let i := s.cur
    let me := s.slot i
    let h := s.reg i a
    let w := s.reg i b
    let mail : Bool → CoreNo → Mail := fun multi k =>
      { src := .thread i me.inc, die := h.extractLsb' 58 6, core := k, box := w.extractLsb' 0 5
        words := (List.range (l.toNat + 1)).map me.mw, scope := x, fence := me.relScope
        chk := if multi = false ∧ w.getLsbD 5 = true then some (w.extractLsb' 6 4, w.extractLsb' 10 8) else none
        multi, handle := h, destWord := w }
    let copies := ((List.range 16).filter fun j => w.getLsbD (48 + j)).map fun j => c.extractLsb' 4 7 ++ BitVec.ofNat 4 j
    (s.hazard (windowRegs (l.toNat + 1)) [] = true →
      exec (.send x a b l) s = .next (s.waitData i) ∧ exec (.sendm x a b l) s = .next (s.waitData i))
    ∧ (s.hazard (windowRegs (l.toNat + 1)) [] = false →
    (handleOk h = true → handleCore h = some c → s.journaled = false →
      (s.curCore.resv < 64 →
        ∃ t, exec (.send x a b l) s = .next t
          ∧ t.net = s.net ++ [{ id := s.nextId, packet := .mail (mail false c), src := some (i, me.inc) }]
          ∧ (t.core i.die i.core).resv = s.curCore.resv + 1 ∧ t.mem = s.mem
          ∧ (t.slot i).pc = me.pc + 4 ∧ (t.slot i).state = .ready ∧ (t.slot i).win = me.win)
      ∧ (s.curCore.resv + copies.length ≤ 64 →
        ∃ t, exec (.sendm x a b l) s = .next t
          ∧ t.net.map (·.packet) = s.net.map (·.packet) ++ copies.map (fun k => Packet.mail (mail true k))
          ∧ (t.core i.die i.core).resv = s.curCore.resv + copies.length ∧ t.mem = s.mem
          ∧ (t.slot i).pc = me.pc + 4 ∧ (t.slot i).state = .ready)
      ∧ (64 ≤ s.curCore.resv → exec (.send x a b l) s = .next (s.waitData i)))
    ∧ (handleOk h = false → exec (.send x a b l) s = .next (s.takeTrap i 0x49 2 me.pc s.word h w)
      ∧ exec (.sendm x a b l) s = .next (s.takeTrap i 0x49 2 me.pc s.word h w))
    ∧ (handleOk h = true → handleCore h = none →
      exec (.send x a b l) s = .next (s.takeTrap i 0x49 3 me.pc s.word h w)
      ∧ exec (.sendm x a b l) s = .next (s.takeTrap i 0x49 3 me.pc s.word h w)))

/-- 09 R280, R282; 14 R379: what RECV, TRYRECV, PEEK and WAITMSG do under a mask, by what the masked mailboxes hold: a
mask that names an owned mailbox traps TREADLE 0; a message is received, or for PEEK only shown; with none, RECV and
WAITMSG park and TRYRECV and PEEK return all ones. 09 R280, Tables 6-5 and 6-6: a receipt takes the message out of its
mailbox, shows it in the window with zero beyond its doubles and in mb, and writes the mailbox's number to rd; the
acquire invalidates the L1D when the release was at c or wider. A result outstanding to the window holds each of them (07
R202; DEDUCED, log entry 95). -/
def Obligations.ReceiptsTakeMessages : Prop :=
  (
    ∀ (s : State) (d a : Reg) (n p : Nat) (m : BoxMsg),
      let i := s.cur
      let me := s.slot i
      let c := s.curCore
      let mask : BitVec 32 := (s.reg i a).extractLsb' 0 32
      let park : BitVec 32 → State := fun k =>
        (s.modSlot i fun x => { x with parkKey := k.zeroExtend 64, parkDst := some d }).enter i .parkMsg .retry
      (s.hazard (windowRegs 6) [] = true →
        exec (.recv d a) s = .next (s.waitData i) ∧ exec (.tryrecv d a) s = .next (s.waitData i)
        ∧ exec (.peek d a) s = .next (s.waitData i) ∧ exec (.waitmsg d) s = .next (s.waitData i))
      ∧ (s.hazard (windowRegs 6) [] = false → s.plain [a] [d] = true →
        (c.forbidden i.slot mask = true →
          let trap : Result := .next (s.takeTrap i 0x09 0 me.pc s.word (mask.zeroExtend 64) 0)
          exec (.recv d a) s = trap ∧ exec (.tryrecv d a) s = trap ∧ exec (.peek d a) s = trap)
        ∧ (c.forbidden i.slot mask = false →
          (c.choose i.slot me.lastBox mask = some (n, p) → (c.box n)[p]? = some m →
            exec (.recv d a) s = .next (s.receive i d n p).advance
            ∧ exec (.tryrecv d a) s = .next (s.receive i d n p).advance
            ∧ exec (.peek d a) s = .next ((s.modSlot i fun x => { x.show n m with lastBox := me.lastBox }).finish d
                (BitVec.ofNat 64 n)))
          ∧ (c.choose i.slot me.lastBox mask = none →
            exec (.recv d a) s = .next (park mask) ∧ exec (.tryrecv d a) s = .next (s.finish d (-1))
            ∧ exec (.peek d a) s = .next (s.finish d (-1)))))
      ∧ (s.hazard (windowRegs 6) [] = false → s.plain [] [d] = true → c.forbidden i.slot 0x80000000 = false →
        (c.choose i.slot me.lastBox 0x80000000 = some (n, p) →
          exec (.waitmsg d) s = .next (s.receive i d n p).advance)
        ∧ (c.choose i.slot me.lastBox 0x80000000 = none → exec (.waitmsg d) s = .next (park 0x80000000))))
  ∧ (
    ∀ (s : State) (i : SlotId) (d : Reg) (n p : Nat) (m : BoxMsg), d < 32 → d ≠ 0 → n < 32 → m.words.length ≤ 6 →
      ((s.core i.die i.core).box n)[p]? = some m →
      let t := s.receive i d n p
      (t.core i.die i.core).box n = ((s.core i.die i.core).box n).eraseIdx p
      ∧ (∀ k, k ≠ n → (t.core i.die i.core).box k = (s.core i.die i.core).box k)
      ∧ (∀ k, k < 6 → (t.slot i).mw k = m.words.getD k 0)
      ∧ (t.slot i).mbBox.toNat = n ∧ (t.slot i).mbLen.toNat = m.words.length ∧ (t.slot i).lastBox.toNat = n
      ∧ (t.slot i).g d = BitVec.ofNat 64 n ∧ (∀ r, r ≠ d → (t.slot i).g r = (s.slot i).g r)
      ∧ (m.scope ≠ .s → (t.core i.die i.core).l1d = []) ∧ (m.scope = .s → (t.core i.die i.core).l1d = (s.core i.die i.core).l1d)
      ∧ t.mem = s.mem)

/-- 09 R281 to R283; 14 R379: TRSET writes the pattern its record names, a reserved bit traps TREADLE 1; TRCLR clears
mask and EN, TREN writes EN; each reads rs1 modulo 16. JOINWAIT parks on a pattern enabled in MODE 1 that no other slot
waits on, and traps JOINWAIT otherwise. 09 R282, R283: an enabled pattern whose mailboxes all hold an unclaimed message
claims one of each: in MODE 0 for a handler that starts in the lowest FREE user slot with the mask in g1 and the
pattern's number in g2; in MODE 1 for the slot parked on it, which receives the mask in rd and goes on. A core's
patterns are evaluated in index order, once in an aclk. -/
def Obligations.Treadles : Prop :=
  (
    ∀ (s t : State) (d a b : Reg) (w v : Word),
      let i := s.cur
      let me := s.slot i
      let x := s.reg i a
      let p := x.toNat % 16
      let r := s.curCore.treadle p
      (s.plain [a] [] = true →
        (s.ReadsRecord x 3 2 [w, v] t → w.extractLsb' 34 2 = 0 → w.extractLsb' 40 24 = 0 → t.cur = i →
          exec (.trset a) s = .next ((t.changePattern (w.extractLsb' 36 4).toNat fun _ =>
            { mask := w.extractLsb' 0 32, en := w.getLsbD 32, wake := w.getLsbD 33, handler := v, frm := (t.slot i).frm
              wlim := (t.slot i).wlim, dom := (t.slot i).dom, jnl := t.journaled }).advance))
        ∧ (s.ReadsRecord x 3 2 [w, v] t → w.extractLsb' 34 2 ≠ 0 ∨ w.extractLsb' 40 24 ≠ 0 →
          exec (.trset a) s = .next (s.takeTrap i 0x09 1 me.pc s.word x 0))
        ∧ exec (.trclr a) s = .next (s.changePattern p fun q => { q with mask := 0, en := false }).advance)
      ∧ (s.plain [a, b] [] = true →
        exec (.tren a b) s = .next (s.changePattern p fun q => { q with en := (s.reg i b).getLsbD 0 }).advance)
      ∧ (s.plain [a] [d] = true →
        ((s.joinSlot i.die i.core p).isSome = true →
          exec (.joinwait d a) s = .next (s.takeTrap i 0x0a 0 me.pc s.word (BitVec.ofNat 64 p) 0))
        ∧ (s.joinSlot i.die i.core p = none → r.en = false ∨ r.mask = 0 ∨ r.wake = false →
          exec (.joinwait d a) s = .next (s.takeTrap i 0x0a 1 me.pc s.word (BitVec.ofNat 64 p) 0))
        ∧ (s.joinSlot i.die i.core p = none → r.en = true → r.mask ≠ 0 → r.wake = true →
          exec (.joinwait d a) s = .next ((s.modSlot i fun y =>
            { y with parkKey := BitVec.ofNat 64 p, parkDst := some d }).enter i .parkJoin .retry))))
  ∧ (
    ∀ (s : State) (d : Die) (c : CoreNo) (p : Nat) (k : SlotNo) (i : SlotId),
      let x := s.core d c
      let r := x.treadle p
      (d = s.ev.die → c = s.ev.core →
        exec .treadleEvaluate s = .next (if x.evaluated = some s.aclk then s
          else ((List.range 16).foldl (fun t q => t.evaluatePattern d c q) s).modCore d c fun y =>
            { y with evaluated := some s.aclk }))
      ∧ (r.en = true → r.mask ≠ 0 → x.patternFull r.mask = true →
        (r.wake = false → s.freeSlot d c = some k →
          let t := s.evaluatePattern d c p
          (t.slot ⟨d, c, k⟩).state = .ready ∧ (t.slot ⟨d, c, k⟩).pc = r.handler
          ∧ (t.slot ⟨d, c, k⟩).g 1 = r.mask.zeroExtend 64 ∧ (t.slot ⟨d, c, k⟩).g 2 = BitVec.ofNat 64 p
          ∧ (t.slot ⟨d, c, k⟩).inc = (s.slot ⟨d, c, k⟩).inc + 1
          ∧ (t.core d c).boxes = (x.claimAll r.mask k).boxes ∧ t.mem = s.mem)
        ∧ (r.wake = true → s.joinSlot d c p = some i →
          let t := s.evaluatePattern d c p
          t = (((s.setCore d c (x.claimAll r.mask i.slot)).writeReg i ((s.slot i).parkDst.getD 0)
            (r.mask.zeroExtend 64)).modSlot i fun y => { y with pc := y.pc + 4 }).wake i))
      ∧ (r.en = false ∨ r.mask = 0 ∨ x.patternFull r.mask = false → s.evaluatePattern d c p = s))

/-- 14 R380 to R382: a thread's message that leads to its core is delivered, or returned whole: UNREACH 1 for a retired
core, STALE for a CHK that its slot fails, BOXFULL for a full mailbox; UNREACH 0 when its path fails. A message of an
engine is never returned: at a full mailbox it is held for 256 aclk and offered again, and each offer is counted. 14
R380, R381: an acceptance frees the sender's return reservation; a returned message of a thread that still exists makes
its slot TRAPPED, with a record of the message in its core's trap queue. -/
def Obligations.MessagesArriveAndReturn : Prop :=
  (
    ∀ (s : State) (q : InFlight) (m : Mail) (i : SlotId) (inc : Byte) (d : Die) (u : Nat) (h : Word),
      s.net.find? (·.id == s.ev.id) = some q → q.packet = .mail m →
      let back : Byte → Byte → State := fun cause sub =>
        s.modPacket s.ev.id fun r => { r with packet := .returned m cause sub, src := none }
      let room := s.boxRoom m.die m.core m.box.toNat
      let taken := (s.dropPacket s.ev.id).deliver m.die m.core m.box.toNat m.words (widerScope m.scope m.fence)
      (q.heldUntil = none → s.overtakes s.ev.id m = false → s.mailReleased q m = true →
        (m.src = .thread i inc →
          (s.leads i.die m.handle = .arrives → (s.core m.die m.core).retired = true →
            exec .messageArrival s = .next (back 0x4a 1))
          ∧ (s.leads i.die m.handle = .arrives → (s.core m.die m.core).retired = false → m.chk = none → room = false →
            exec .messageArrival s = .next (back 0x08 0))
          ∧ (∀ (k : SlotNo) (g : Byte), s.leads i.die m.handle = .arrives → (s.core m.die m.core).retired = false →
            m.chk = some (k, g) → (s.slot ⟨m.die, m.core, k⟩).inc ≠ g →
            exec .messageArrival s = .next (back 0x07 0))
          ∧ (s.leads i.die m.handle = .arrives → (s.core m.die m.core).retired = false → m.chk = none → room = true →
            exec .messageArrival s = .next (taken.send (.accepted i)))
          ∧ (s.leads i.die m.handle = .fails → exec .messageArrival s = .next (back 0x4a 0)))
        ∧ (m.src = .engine d u → m.handle = 0 → s.dieThere d m.die = true → (s.core m.die m.core).retired = false →
          exec .messageArrival s = .next (if room then
              if u = noticeUnit ∧ m.box = 30 ∧ m.words.length = 1 then taken.noteExit m.die m.core else taken
            else s.modPacket s.ev.id fun r => { r with heldUntil := some (s.aclk + 256) })))
      ∧ (q.heldUntil = some h → ¬ s.aclk.toNat < h.toNat →
        exec .heldMessageReoffer s
          = .next (((s.count m.die (.core m.core) 0x10).modPacket s.ev.id fun r => { r with heldUntil := none }).offerMail
              s.ev.id m)))
  ∧ (
    ∀ (s : State) (i : SlotId) (inc : Byte) (m : Mail) (cause sub : Byte),
      (s.packet s.ev.id = some (.accepted i) →
        exec .messageAcceptance s
          = .next ((s.dropPacket s.ev.id).modCore i.die i.core fun c => { c with resv := c.resv - 1 }))
      ∧ (s.packet s.ev.id = some (.returned m cause sub) → m.src = .thread i inc → (s.slot i).inc = inc →
        (s.slot i).state = .ready → (s.slot i).await = .retry → isPriv i = false → (s.slot i).bound = false →
        s.unsettled i = false →
        ∃ t, exec .messageReturn s = .next t
          ∧ (t.slot i).state = .trapped ∧ (t.slot i).pc = (s.slot i).pc
          ∧ (t.core i.die i.core).traps = (s.core i.die i.core).traps
              ++ [returnRecord m cause sub i inc false true (s.slot i).pc]
          ∧ (returnRecord m cause sub i inc false true (s.slot i).pc).val = m.handle
          ∧ (returnRecord m cause sub i inc false true (s.slot i).pc).aux = m.destWord
          ∧ t.mem = s.mem))

/-- 02 R65, R66, R69; 09 R284 to R286; 15 R390; 16 R432: SPAWN asks the core of its handle for a thread and waits for
the answer; FORK puts a child at the head of its core's deque and counts it, or refuses with 0 when the deque is full or
JCNT is at its limit; a child PC that is not word-aligned traps MISALIGN. 02 R62, R65; 08 R99; 05 R152: what a new
thread's slot holds: the PC and the argument in g1, the inherited FRM, WLIM, STEALDOM and JNL, a risen incarnation with
the LFSR seeded from it, nothing else of the old thread, and an L1D without lines. 02 R66, R67, R69; 09 R285, R286: a
spawn request starts its child in the lowest FREE user slot of its target, or is answered with 0; the answer reaches rd
of the SPAWN, which goes on; a FREE slot of the forking core takes the newest entry of its deque, and a core without
work takes an entry that another's deque yields. -/
def Obligations.ThreadsStart : Prop :=
  (
    ∀ (s : State) (d a b : Reg) (c : CoreNo),
      let i := s.cur
      let me := s.slot i
      let x := s.reg i a
      let y := s.reg i b
      let pc := s.reg i d
      let req : SpawnReq :=
        { frm := i, inc := me.inc, die := x.extractLsb' 58 6, core := c, pc, arg := y, dom := me.dom, frmode := me.frm
          wlim := me.wlim, jnl := false, notice := isPriv i, jparent := none }
      let entry : ForkEntry :=
        { pc := x, arg := y, dom := me.dom, frm := me.frm, wlim := me.wlim, jnl := false
          parent := ⟨i.die, i.core, i.slot, me.inc⟩, jparent := none, id := s.nextId }
      me.jrec = none → s.journaled = false →
      (s.plain [a, b, d] [d] = true → handleOk x = true → handleCore x = some c →
        (pc.toNat % 4 = 0 → s.leads i.die x = .arrives →
          ∃ t, exec (.spawn d a b) s = .next t
            ∧ t.net = s.net ++ [{ id := s.nextId, src := some (i, me.inc), packet := .spawn req }]
            ∧ (t.slot i).state = .waitData ∧ (t.slot i).await = .answer s.nextId ∧ (t.slot i).parkDst = some d
            ∧ (t.slot i).pc = me.pc ∧ (∀ j, j ≠ i → t.slot j = s.slot j) ∧ t.mem = s.mem)
        ∧ (pc.toNat % 4 ≠ 0 → exec (.spawn d a b) s = .next (s.takeTrap i 0x20 2 me.pc s.word pc 0))
        ∧ (pc.toNat % 4 = 0 → s.leads i.die x = .held → exec (.spawn d a b) s = .next (s.waitData i)))
      ∧ (s.plain [a, b] [d] = true →
        (x.toNat % 4 ≠ 0 → exec (.fork d a b) s = .next (s.takeTrap i 0x20 2 me.pc s.word x 0))
        ∧ (x.toNat % 4 = 0 → s.curCore.deque.length < 32 → me.jcnt ≠ 0xffff →
          ∃ t, exec (.fork d a b) s = .next t
            ∧ (t.core i.die i.core).deque = entry :: s.curCore.deque
            ∧ (t.slot i).jcnt = me.jcnt + 1 ∧ (t.slot i).pc = me.pc + 4 ∧ (t.slot i).state = .ready
            ∧ (d < 32 → d ≠ 0 → (t.slot i).g d = 1) ∧ t.mem = s.mem)
        ∧ (x.toNat % 4 = 0 → 32 ≤ s.curCore.deque.length ∨ me.jcnt = 0xffff →
          exec (.fork d a b) s = .next ((s.countChild i).finish d 0))))
  ∧ (
    ∀ (s : State) (i : SlotId) (pc arg : Word) (inh : Inherit),
      let t := s.startThread i pc arg inh
      let x := t.slot i
      x.pc = pc ∧ x.state = .ready ∧ x.inc = (s.slot i).inc + 1 ∧ x.g 1 = arg ∧ (∀ r, r ≠ 1 → x.g r = 0)
      ∧ (∀ k, x.mw k = 0) ∧ x.mb = 0 ∧ x.fflags = 0 ∧ x.frm = inh.frm ∧ x.wlim = inh.wlim ∧ x.dom = inh.dom ∧ x.jnl = inh.jnl
      ∧ x.jcnt = 0 ∧ x.role = .plain ∧ x.join = none ∧ x.fails = [] ∧ x.log = [] ∧ x.lfsr = lfsrSeed i x.inc
      ∧ (∀ k, x.stream k = {}) ∧ (t.core i.die i.core).l1d = [] ∧ (∀ j, j ≠ i → t.slot j = s.slot j) ∧ t.mem = s.mem)
  ∧ (
    ∀ (s : State) (q : InFlight) (r : SpawnReq) (v : Word) (k : SlotNo) (e : ForkEntry) (rest : List ForkEntry)
        (vd : Die) (vc : CoreNo),
      (s.net.find? (·.id == s.ev.id) = some q → q.packet = .spawn r → s.released q.src s.ev.id = true →
        s.unitUp r.die readySkeins = true → s.dieThere r.frm.die r.die = true → (s.core r.die r.core).suspect = false → (s.core r.die r.core).failed = false →
        let answer : State → Word → State := fun t w => { t with net := t.net.map fun p =>
          if p.id == s.ev.id then { p with packet := .spawned r w, src := none } else p }
        (s.freeSlot r.die r.core = none → exec .spawnRequest s = .next (answer s 0))
        ∧ (s.freeSlot r.die r.core = some k →
          let i : SlotId := ⟨r.die, r.core, k⟩
          let u := s.startThread i r.pc r.arg ⟨r.frmode, r.wlim, r.dom, r.jnl⟩
          let w : Word := 0#44 ++ (u.slot i).inc ++ k ++ 0#7 ++ 1#1
          exec .spawnRequest s = .next (answer (u.modSlot i fun x =>
            { x with exitTo := if r.notice then some (r.frm.die, r.frm.core) else none, jparent := r.jparent, jresult := w }) w)))
      ∧ (s.packet s.ev.id = some (.spawned r v) → (s.slot r.frm).inc = r.inc → (s.slot r.frm).await = .answer s.ev.id →
        exec .spawnAnswer s = .next ((((s.dropPacket s.ev.id).writeReg r.frm ((s.slot r.frm).parkDst.getD 0) v).modSlot r.frm
          fun y => { y with pc := y.pc + 4 }).wake r.frm))
      ∧ (let d := s.ev.die
        let c := s.ev.core
        (s.core d c).deque = e :: rest → s.freeSlot d c = some k → s.forkReady e = true →
        exec .dequePop s = .next ((s.modCore d c fun x => { x with deque := rest }).startChild ⟨d, c, k⟩ e))
      ∧ (let d := s.ev.die
        let c := s.ev.core
        s.freeSlot d c = some k → s.victim d c = some (vd, vc) → s.loot vd vc d c = some e → (s.core d c).deque = [] →
        s.readyCount d c = 0 → (s.core d c).suspect = false → (s.core d c).failed = false →
        exec .steal s = .next ((s.modCore vd vc fun y =>
          { y with deque := y.deque.filter (·.id != e.id) }).startChild ⟨d, c, k⟩ e)))

/-- 09 R286 to R288: JOIN waits until JCNT is 0 and is then an acquire at p; a join notice lowers JCNT of its parent;
YIELD lets the other slots that are READY issue first; SELF reads the executing slot's name; EXIT, with nothing of its
thread outstanding, sends what it owes and leaves its slot FREE. 02 R69; 09 R286, R287: what an EXIT sends and what it
leaves: a join notice to the parent of a forked thread, an exit notice to the core of a supervisor that spawned it; the
slot FREE at its incarnation, with no register of the thread. -/
def Obligations.ThreadsJoinAndExit : Prop :=
  (
    ∀ (s : State) (d : Reg) (p : JoinRef),
      let i := s.cur
      let me := s.slot i
      (me.jcnt = 0 → exec .join s = .next ((s.modCore i.die i.core fun c => { c with l1d := [] }).advance))
      ∧ (me.jcnt ≠ 0 → exec .join s = .next (s.waitData i))
      ∧ (s.packet s.ev.id = some (.joined p) → (s.slot ⟨p.die, p.core, p.slot⟩).inc = p.inc →
        (s.slot ⟨p.die, p.core, p.slot⟩).state ≠ .free →
        exec .joinNotice s = .next ((s.dropPacket s.ev.id).modSlot ⟨p.die, p.core, p.slot⟩ fun x => { x with jcnt := x.jcnt - 1 }))
      ∧ (∃ t, exec .yield s = .next t ∧ (t.slot i).pc = me.pc + 4 ∧ (t.slot i).state = .ready
        ∧ (∀ k, k ∈ (t.slot i).yielding ↔
          k < 16 ∧ k ≠ i.slot.toNat ∧ (s.slot ⟨i.die, i.core, BitVec.ofNat 4 k⟩).state = .ready)
        ∧ (∀ j, j ≠ i → t.slot j = s.slot j) ∧ t.mem = s.mem)
      ∧ (s.plain [] [d] = true →
        exec (.self d) s = .next (s.finish d (0#34 ++ i.die ++ me.inc ++ i.slot ++ 0#1 ++ i.core)))
      ∧ (s.settled i = false → exec .exit s = .next (s.waitData i))
      ∧ (s.settled i = true → s.journaled = false → exec .exit s = .next ((s.exitEffects i me).endThread i)))
  ∧ (
    ∀ (s : State) (i : SlotId) (x : SlotSt) (p : JoinRef), x.role = .plain →
      (x.exitTo = none → x.join = some p → (s.exitEffects i x).net = s.net ++ [{ id := s.nextId, packet := .joined p }])
      ∧ (x.exitTo = none → x.join = none → s.exitEffects i x = s)
      ∧ (∀ d c, x.exitTo = some (d, c) → x.join = none → ∃ m, (s.exitEffects i x).net = s.net ++ [{ id := s.nextId, packet := .mail m }]
        ∧ m.die = d ∧ m.core = c ∧ m.box = 30 ∧ m.words = [0#34 ++ i.die ++ x.inc ++ i.slot ++ 0#1 ++ i.core])
      ∧ (let y := (s.endThread i).slot i
        (s.core i.die i.core).boxes = [] →
        y.state = .free ∧ y.inc = (s.slot i).inc ∧ y.regs = [] ∧ y.win = [] ∧ y.jcnt = 0 ∧ y.role = .plain))

/-- 02 R71: the migration check of a core runs once in each 1,024 aclk; a slot packet enters the lowest FREE user slot
of its target at the next incarnation and is answered; the answer empties the slot it left, or lets its thread resume
there. -/
def Obligations.MigrationMovesThreads : Prop :=
  ∀ (s : State) (p : SlotPacket) (k : SlotNo) (ok : Bool) (b : CoreNo) (i : SlotId),
    (let d := s.ev.die
      let c := s.ev.core
      let x := s.core d c
      let t := s.setCore d c { x with checked := s.aclk.toNat / 1024 }
      x.retired = false → x.halted = false → x.checked < s.aclk.toNat / 1024 →
      t.lightest d (t.skeinMates d c) = some b → t.earliest ((coreSlots d c).filter t.eligible) = some i →
      exec .migrationCheck s = .next
        (if x.thresh.toNat < t.readyCount d c ∧ (t.freeSlot d b).isSome = true ∧ t.readyCount d b + 2 ≤ t.readyCount d c
            ∧ (t.core d b).ctx = x.ctx then
          (t.send (.slotPacket ⟨i, ⟨d, b, 0⟩, packetImage (t.slot i)⟩)).enter i .waitData .departure
        else t))
    ∧ (s.packet s.ev.id = some (.slotPacket p) →
      let d := p.dest.die
      let c := p.dest.core
      let t := s.dropPacket s.ev.id
      (s.freeSlot d c = none → exec .slotPacket s = .next (t.send (.slotAnswer p false)))
      ∧ (s.freeSlot d c = some k → (s.core d c).suspect = false → (s.core d c).failed = false →
        (s.core d c).ctx = (s.core p.frm.die p.frm.core).ctx →
        ∃ u, exec .slotPacket s = .next u
          ∧ (u.slot ⟨d, c, k⟩).state = .ready ∧ (u.slot ⟨d, c, k⟩).inc = (s.slot ⟨d, c, k⟩).inc + 1
          ∧ (u.slot ⟨d, c, k⟩).pc = p.image.pc ∧ (u.slot ⟨d, c, k⟩).regs = p.image.regs
          ∧ u.net = t.net ++ [{ id := s.nextId, packet := .slotAnswer p true }] ∧ u.mem = s.mem))
    ∧ (s.packet s.ev.id = some (.slotAnswer p ok) → (s.slot p.frm).await = .departure →
      exec .migrationAnswer s = .next (if ok then
          (s.dropPacket s.ev.id).modSlot p.frm fun x => emptySlot x (s.coreClock p.frm.die p.frm.core)
        else (s.dropPacket s.ev.id).wake p.frm))

/-- 04 R120; 14 R385: a park that outlives WLIM ends with WAITLIM: at once for a park at the core, and for a wait at a
home after the home has answered that it withdrew the entry; an access that was performed before goes on. -/
def Obligations.WaitLimits : Prop :=
  ∀ (s : State) (id : Nat) (a : Access) (i : SlotId) (sub : Byte),
    let w : SlotId := ⟨s.ev.die, s.ev.core, s.ev.slot⟩
    (s.expired w = true → isPriv w = true ∨ s.parkedRecord w = false → waitLimitSub (s.slot w).state = some sub →
      ((s.slot w).await = .retry → s.trapWaits w = false →
        exec .waitLimitExpiry s = .next (s.takeTrap w 0x06 sub (s.slot w).pc 0 (s.slot w).parkKey 0))
      ∧ ((s.slot w).await = .access id → s.access id = some a → a.stage ≠ .done →
        (∀ q ∈ s.net, ∀ j g, q.packet ≠ .cancelled id j g) →
        ∃ t, exec .waitLimitExpiry s = .next t ∧ t.waits = s.waits.filter (·.access != id)
          ∧ t.net = s.net ++ [{ id := s.nextId, packet := .cancelled id w true }] ∧ t.mem = s.mem))
    ∧ (s.packet s.ev.id = some (.cancelled id i true) → s.access id = some a →
      (s.dropAccess id).trapWaits i = false → waitLimitSub (s.slot i).state = some sub →
      exec .waitCancelAnswer s
        = .next (((s.dropPacket s.ev.id).dropAccess id).takeTrap i 0x06 sub (s.slot i).pc 0 a.va 0))
    ∧ (s.packet s.ev.id = some (.cancelled id i false) → exec .waitCancelAnswer s = .next (s.dropPacket s.ev.id))

/-- 01 R18; 06 R184: a network word that arrives waits at its register behind the earlier ones; the read of a register
that holds a word takes the oldest; one that holds none waits; a register without a link traps NETLINK. -/
def Obligations.NetworkRegisters : Prop :=
  ∀ (s : State) (i : SlotId) (p : BitVec 3) (v w : Word) (ws : List Word) (a d : Reg),
    (s.packet s.ev.id = some (.netWord i p w) → s.wordBehind s.ev.id i p = false → (s.core i.die i.core).retired = false →
      ∃ t, exec .networkWordArrival s = .next t
        ∧ tblGet [] p.toNat (t.core i.die i.core).netIn = tblGet [] p.toNat (s.core i.die i.core).netIn ++ [w]
        ∧ t.net = s.net.filter (·.id != s.ev.id) ∧ t.slots = s.slots ∧ t.mem = s.mem)
    ∧ (isNet a = true → s.hazard [a] [d] = false → d < 32 →
      let me := s.cur
      let port := a.toNat - 32
      (s.hasLink me.die me.core port = false →
        exec (.addi d a 0) s = .next (s.takeTrap me 0x0f 0 (s.slot me).pc s.word (a.zeroExtend 64) 0))
      ∧ (s.hasLink me.die me.core port = true → tblGet [] port s.curCore.netIn = [] →
        exec (.addi d a 0) s = .next (s.waitData me))
      ∧ (s.hasLink me.die me.core port = true → tblGet [] port s.curCore.netIn = v :: ws →
        exec (.addi d a 0) s = .next ((s.modCore me.die me.core fun c =>
          { c with netIn := tblSet [] port ws c.netIn }).finish d v)))
    ∧ (isNet d = true → s.plain [a] [] = true → s.hazard [a] [d] = false →
      s.hasLink s.cur.die s.cur.core (d.toNat - 32) = false →
      exec (.addi d a 0) s = .next (s.takeTrap s.cur 0x0f 0 (s.slot s.cur).pc s.word (d.zeroExtend 64) 0))

/-- 09 R291: the directory of a core: DIRADD adds a VALID entry or gives 2 for a key that is there and 1 when it is
full; DIRDEL removes a VALID entry, DIRFIND gives its address, and both say when there is none. 09 R294; 16 R428:
DIRMOVE of a VALID entry sends its move on the reed and waits; the move installs the entry at its destination and an Ack
deletes it at its source, or a refusal restores it; rd then says which. 09 R294; 16 R428: a forward of a solicit starts
its responder where the tile is VALID and has not answered, follows a tile that has moved on, goes back once from a core
without the tile, and is then counted without a value. -/
def Obligations.TilesAndDirectories : Prop :=
  (
    ∀ (s : State) (d a b : Reg), s.journaled = false →
      let i := s.cur
      let c := s.curCore
      let key := s.reg i a
      (s.plain [a, b] [d] = true →
        exec (.diradd d a b) s = .next
          (if (c.entry key).isSome = true then s.finish d 2
          else if 64 ≤ c.dir.length then s.finish d 1
          else (s.setCore i.die i.core { c with dir := c.dir ++ [⟨key, s.reg i b, .valid, []⟩] }).finish d 0))
      ∧ (s.plain [a] [d] = true →
        (∀ e, c.entry key = some e → e.state = .valid →
          exec (.dirdel d a) s = .next ((s.setCore i.die i.core { c with dir := c.dir.filter (·.key != key) }).finish d 0)
          ∧ exec (.dirfind d a) s = .next (s.finish d e.addr))
        ∧ (c.entry key = none →
          exec (.dirdel d a) s = .next (s.finish d 1) ∧ exec (.dirfind d a) s = .next (s.finish d (-1)))))
  ∧ (
    ∀ (s : State) (d a b : Reg) (e : DirEntry) (c : CoreNo) (q : ReedItem) (i : SlotId) (key addr n : Word) (l : List Word)
        (at' : Die × CoreNo),
      (s.plain [a, b, d] [d] = true → s.journaled = false → handleOk (s.reg s.cur b) = true →
        handleCore (s.reg s.cur b) = some c → s.curCore.entry (s.reg s.cur a) = some e → e.state = .valid →
        let td : Die := (s.reg s.cur b).extractLsb' 58 6
        (s.dieThere s.cur.die td = false ∨ (s.core td c).retired = true ∨ (s.core td c).failed = true →
          exec (.dirmove d a b) s = .next (s.finish d 3))
        ∧ (s.dieThere s.cur.die td = true → (s.core td c).retired = false → (s.core td c).failed = false →
          let u := s.modCore s.cur.die s.cur.core fun y =>
            y.modEntry (s.reg s.cur a) fun e => { e with state := .inflight td c }
          exec (.dirmove d a b) s = .next
            ((((u.sendReed (.core s.cur.die s.cur.core) (.core td c)
              (.move s.cur (s.reg s.cur a) (if s.reg s.cur d = 0 then e.addr else s.reg s.cur d) e.answered)).modSlot s.cur
                fun y => { y with parkDst := some d }).enter s.cur .waitData (.answer s.nextId)))))
      ∧ (s.reedItem s.ev.id = some q → s.reedReady q = true → q.path = [.core at'.1 at'.2] →
        let t := s.dropReed q.id
        let x := s.core at'.1 at'.2
        (q.msg = .move i key addr l → x.retired = false → x.failed = false → s.dieThere i.die at'.1 = true →
          (x.entry key = none → x.dir.length < 64 →
            exec .moveArrival s = .next ((t.setCore at'.1 at'.2 { x with dir := x.dir ++ [⟨key, addr, .valid, l⟩] }).sendReed
              (.core at'.1 at'.2) (.core i.die i.core) (.ack i key)))
          ∧ ((x.entry key).isSome = true →
            exec .moveArrival s = .next (t.sendReed (.core at'.1 at'.2) (.core i.die i.core) (.refuse i key 4)))
          ∧ (x.entry key = none → 64 ≤ x.dir.length →
            exec .moveArrival s = .next (t.sendReed (.core at'.1 at'.2) (.core i.die i.core) (.refuse i key 2))))
        ∧ (q.msg = .ack i key → exec .ackArrival s = .next ((t.modCore at'.1 at'.2 fun y => y.dropEntry key).answered i 0))
        ∧ (q.msg = .refuse i key n →
          exec .refuseArrival s = .next ((t.modCore at'.1 at'.2 fun y =>
            y.modEntry key fun e => { e with state := .valid }).answered i n))))
  ∧ (
    ∀ (s : State) (q : ReedItem) (o : Die × CoreNo) (p : Pending) (back : Bool) (e : DirEntry) (td : Die) (tc : CoreNo)
        (at' : Die × CoreNo),
      let t := s.dropReed q.id
      let x := s.core at'.1 at'.2
      s.reedItem s.ev.id = some q → s.reedReady q = true → q.path = [.core at'.1 at'.2] → q.msg = .forward o p back →
      x.retired = false → x.failed = false →
      (x.entry p.key = some e → e.state = .valid → p.census ∉ e.answered →
        exec .forwardArrival s = .next ((t.modCore at'.1 at'.2 fun y => y.modEntry p.key (·.answer p.census)).modCore
          at'.1 at'.2 fun y => { y with pending := y.pending ++ [{ p with addr := e.addr }] }))
      ∧ (x.entry p.key = some e → e.state = .inflight td tc →
        exec .forwardArrival s = .next (t.sendReed (.core at'.1 at'.2) (.core td tc) (.forward o p false)))
      ∧ (x.entry p.key = none → back = false →
        exec .forwardArrival s = .next (t.sendReed (.core at'.1 at'.2) (.core o.1 o.2) (.forward o p true)))
      ∧ (x.entry p.key = none → back = true → exec .forwardArrival s = .next (t.countAnswer p.census none false)))

/-- 09 R292, R293; 14 R379; 16 R428: a SOLICIT opens a census of the executing core, sends its solicit to the cores of
its domain and returns the census's name; CWAIT, CPOLL and CRESULT of it, when it is complete, invalidate the L1D as
acquires and return its counts, 1 and its value; one that is not complete parks CWAIT and CRESULT and gives CPOLL 0; a
name of no open census traps CENSUS. 09 R292: the value of a census: sums modulo 2^64, signed minima and maxima, with
their values when no responder gave one; the count of responses. -/
def Obligations.CensusInstructionsAndValues : Prop :=
  (
    ∀ (s : State) (x : Scope) (cm : Combine) (d a b : Reg) (k : BitVec 3) (r : Census),
      let i := s.cur
      let me := s.slot i
      let c := s.curCore
      let v := s.reg i a
      let w := s.reg i b
      let pc : Word := (w.extractLsb' 0 57).zeroExtend 64
      let ident : Word := 0#16 ++ c.censusSeq ++ 0#2 ++ i.die ++ 0#10 ++ k ++ i.core
      (s.plain [a, b] [d] = true → s.journaled = false →
        (pc.toNat % 4 ≠ 0 → exec (.solicit x cm d a b) s = .next (s.takeTrap i 0x20 2 me.pc s.word pc 0))
        ∧ (pc.toNat % 4 = 0 → c.freeCensus = none → exec (.solicit x cm d a b) s = .next (s.waitData i))
        ∧ (pc.toNat % 4 = 0 → c.freeCensus = some k → d < 32 →
          ∃ t o, exec (.solicit x cm d a b) s = .next t
            ∧ (t.core i.die i.core).censuses = c.censuses ++ [o] ∧ o.ident = ident ∧ o.dom = x ∧ o.combine = cm ∧ o.key = v
            ∧ o.notify = (if w.getLsbD 63 then some (w.extractLsb' 58 5) else none) ∧ o.complete = false
            ∧ o.answered = 0 ∧ o.owed = 0 ∧ (t.core i.die i.core).censusSeq = c.censusSeq + 1
            ∧ t.reed.length = s.reed.length + 1 ∧ (d ≠ 0 → (t.slot i).g d = ident) ∧ (t.slot i).pc = me.pc + 4
            ∧ t.mem = s.mem))
      ∧ (s.plain [a] [d] = true →
        let inval : State → State := fun t => if r.dom = .s then t else t.modCore i.die i.core fun c => { c with l1d := [] }
        (s.ownCensus v = none →
          let trap : Result := .next (s.takeTrap i 0x0c 0 me.pc s.word v 0)
          exec (.cwait d a) s = trap ∧ exec (.cpoll d a) s = trap ∧ exec (.cresult d a) s = trap)
        ∧ (s.ownCensus v = some r → r.complete = true →
          exec (.cwait d a) s = .next ((inval s).finish d (BitVec.ofNat 32 r.lost ++ BitVec.ofNat 32 r.answered))
          ∧ exec (.cpoll d a) s = .next ((inval s).finish d 1)
          ∧ exec (.cresult d a) s = .next (((inval s).modCore i.die i.core fun c =>
              { c with censuses := c.censuses.filter (·.ident != r.ident) }).finish d (r.result (Config.freeWord s.tick))))
        ∧ (s.ownCensus v = some r → r.complete = false →
          let park := (s.modSlot i fun y => { y with parkKey := v }).enter i .parkCensus .retry
          exec (.cwait d a) s = .next park ∧ exec (.cresult d a) s = .next park
          ∧ exec (.cpoll d a) s = .next (s.finish d 0))))
  ∧ (
    ∀ (r : Census) (v : Word) (free : Word),
      (r.combine = .sum → { r with value := r.combined v }.result free = r.value.getD 0 + v)
      ∧ (r.combine = .min → ({ r with value := r.combined v }.result free).toInt
          = min (({ r with value := r.value } : Census).result free).toInt v.toInt)
      ∧ (r.combine = .max → ({ r with value := r.combined v }.result free).toInt
          = max (({ r with value := r.value } : Census).result free).toInt v.toInt)
      ∧ (r.value = none → (r.combine = .sum → r.result free = 0)
        ∧ (r.combine = .min → (r.result free).toInt = 2 ^ 63 - 1) ∧ (r.combine = .max → (r.result free).toInt = -2 ^ 63)))

/-- 09 R292 to R294; 16 R428: a solicit goes down the tree of its domain to each core and
shed of it; a core with a VALID entry of the key that
has not answered the census owes one responder, which waits there for a FREE slot and starts with the tile's address in
g1, the key in g2 and the census in g3; a core without the key, or a shed, reports that it owes none. 09 R293; 16 R428:
a census is complete once every core and shed of its domain has reported and every owed responder is counted; its waiting slots are READY, or
its message goes to the mailbox asked for and the census closes. -/
def Obligations.CensusesRun : Prop :=
  (
    ∀ (s : State) (q : ReedItem) (p : Pending) (dom : Scope) (e : DirEntry) (rest : List Pending) (n : SlotNo) (d : Die)
        (c : CoreNo) (k : BitVec 7) (h : ShedNo),
      let x := s.core d c
      (s.reedItem s.ev.id = some q → q.msg = .solicit p dom →
        let t := s.dropReed q.id
        (s.reedReady q = true → q.path = [.core d c] →
          (x.entry p.key = none → exec .solicitArrival s = .next (t.report p.census (coreKey d c) 0))
          ∧ (x.entry p.key = some e → x.retired = false → x.failed = false → e.state = .valid → p.census ∉ e.answered →
            exec .solicitArrival s = .next (((t.modCore d c fun y => y.modEntry p.key (·.answer p.census)).modCore d c
              fun y => { y with pending := y.pending ++ [{ p with addr := e.addr }] }).report p.census (coreKey d c) 1))
          ∧ (x.entry p.key = some e → x.retired = false → x.failed = false → e.state = .valid → p.census ∈ e.answered →
            exec .solicitArrival s = .next (t.report p.census (coreKey d c) 0)))
        ∧ (s.reedReady q = true → q.path = [.shed d h] →
          exec .solicitArrival s = .next (t.report p.census (131072 + d.toNat * 512 + h.toNat) 0))
        ∧ (s.reedFirst q = true → q.path = [.skein d k] →
          ∃ u, exec .solicitArrival s = .next u ∧ u.cores = s.cores ∧ u.slots = s.slots ∧ u.mem = s.mem
            ∧ u.reed.map (fun r => (r.here, r.path)) = t.reed.map (fun r => (r.here, r.path))
              ++ ((List.range 16).map fun j => (ReedNode.skein d k, [ReedNode.core d (k ++ BitVec.ofNat 4 j)]))
              ++ (List.range 4).map fun j => (ReedNode.skein d k, [ReedNode.shed d (k ++ BitVec.ofNat 2 j)])))
      ∧ (s.ev.die = d → s.ev.core = c → x.pending = p :: rest → s.freeSlot d c = some n →
        ∃ t, exec .responderStart s = .next t
          ∧ (t.core d c).pending = rest
          ∧ (t.slot ⟨d, c, n⟩).state = .ready ∧ (t.slot ⟨d, c, n⟩).pc = p.pc
          ∧ (t.slot ⟨d, c, n⟩).g 1 = p.addr ∧ (t.slot ⟨d, c, n⟩).g 2 = p.key ∧ (t.slot ⟨d, c, n⟩).g 3 = p.census
          ∧ (t.slot ⟨d, c, n⟩).role = .responder p.census false ∧ t.mem = s.mem))
  ∧ (
    ∀ (s : State) (r : Census) (b : BitVec 5),
      let d := s.ev.die
      let c := s.ev.core
      (s.core d c).censuses.find? (fun x => x.idx.toNat == s.ev.unit) = some r → r.complete = false →
      (r.answered ≠ r.owed → exec .censusComplete s = .next s)
      ∧ (r.answered = r.owed → (∀ k ∈ s.domainLeaves r.dom (d, c), k ∈ r.reported) → r.lost = 0 →
        (r.notify = none →
          exec .censusComplete s = .next
            (((s.modCensus r.ident fun y => { y with complete := true }).censusWaiters r.ident).foldl (fun t i => t.wake i)
              (s.modCensus r.ident fun y => { y with complete := true })))
        ∧ (r.notify = some b →
          ∃ m, exec .censusComplete s = .next ((s.modCore d c fun y =>
              { y with censuses := y.censuses.filter (·.ident != r.ident) }).send (.mail m))
            ∧ m.die = d ∧ m.core = c ∧ m.box = b
            ∧ m.words = [r.ident, BitVec.ofNat 32 r.lost ++ BitVec.ofNat 32 r.answered,
                r.result (Config.freeWord s.tick)])))

/-- 09 R289, R290; 16 R420: the barrier instructions start one access to their object, with the ordering of their kind;
WAITPH and ARRWAIT wait for it; a misaligned object traps MISALIGN, and an arrival in a journaled slot JNLOP. 09 R290:
an arrival at an object returns its phase; the arrival that makes the count reach the target advances the phase and
clears the count, any other only raises the count. A wait for phase n is over while the object's phase is 1 to 2^31
beyond n. -/
def Obligations.Barriers : Prop :=
  (
    ∀ (s : State) (x : Scope) (d a b : Reg),
      let i := s.cur
      let me := s.slot i
      let va := s.reg i a
      let acc : MemOp → Scope → Bool → Bool → Access := fun op x acq rel => s.newAccess i op x acq rel va
      let put : Access → State := fun q => { s with accs := s.accs ++ [q], nextId := s.nextId + 1 }
      let goesOn : Access → Result := fun q => .next (put q).advance
      let waits : Access → Result := fun q => .next ((put q).enter i .waitData (.access q.id))
      (va.toNat % 16 = 0 → va.toNat < 2 ^ 57 →
        (s.plain [a] [d] = true → s.journaled = false →
          exec (.arriveRlx d a) s = goesOn { acc .arrive .s false false with dst := d }
          ∧ exec (.arriveRel x d a) s = goesOn { acc .arrive x false true with dst := d }
          ∧ exec (.arrwait x d a) s = waits { acc .arriveWait x true true with dst := d })
        ∧ (s.plain [a, b] [0] = true →
          exec (.waitph x a b) s = waits { acc .waitPhase x true false with data := s.reg i b }))
      ∧ (va.toNat % 16 ≠ 0 → va.toNat < 2 ^ 57 → s.plain [a, b] [0] = true →
        exec (.waitph x a b) s = .next (s.takeTrap i 0x20 4 me.pc s.word va 0))
      ∧ (s.journaled = true →
        let trap : Result := .next (s.takeTrap i 0x45 0 me.pc s.word 0 0)
        exec (.arriveRlx d a) s = trap ∧ exec (.arriveRel x d a) s = trap ∧ exec (.arrwait x d a) s = trap))
  ∧ (
    ∀ (s : State) (key : Byte) (pa : Nat) (ph n : BitVec 32), (s.keySlot key pa).xts = false →
      (s.keySlot key (pa + 8)).xts = false →
      let target : BitVec 32 := (s.readHome key pa 8).extractLsb' 0 32
      let phase : BitVec 32 := (s.readHome key pa 8).extractLsb' 32 32
      let count : BitVec 32 := (s.readHome key (pa + 8) 4).extractLsb' 0 32 + 1
      let r := s.arriveAt key pa
      r.2.1 = phase
      ∧ (target.toNat ≤ count.toNat →
        r.2.2 = true
        ∧ r.1.mem = writeRaw (pa + 8) (bytesOfWord 8 0) (writeRaw pa (bytesOfWord 8 ((phase + 1) ++ target)) s.mem))
      ∧ (count.toNat < target.toNat →
        r.2.2 = false ∧ r.1.mem = writeRaw (pa + 8) (bytesOfWord 8 (count.zeroExtend 64)) s.mem)
      ∧ (phaseDone ph n = true ↔ 1 ≤ (ph - n).toNat ∧ (ph - n).toNat ≤ 2 ^ 31))

/-- 14 R370, R371, R376; 09 R314, R374: a trap of a user slot makes it TRAPPED at the resume PC and puts one record at
the tail of its core's trap queue, and changes no register, no memory and no other slot but a supervisor in WFI; a trap
of slot 15 is enqueued on no trap queue; TRAP takes that trap with the next word as resume PC; ERET makes a TRAPPED slot
READY at its PC. -/
def Obligations.TrapsAndReturns : Prop :=
  (∀ (s : State) (i : SlotId) (cause sub : Byte) (pc : Word) (word : Inst) (val aux : Word),
    let t := s.takeTrap i cause sub pc word val aux
    let record : TrapRec :=
      { cause, sub, slot := i.slot, inc := (s.slot i).inc, gone := false, parks := true, pc, word, val, aux, len := 0
        scope := 0, multi := false, msg := [] }
    t.mem = s.mem ∧ t.accs = s.accs ∧ (∀ r, (t.slot i).g r = (s.slot i).g r)
    ∧ (∀ j : SlotId, j ≠ i → j ≠ ⟨i.die, i.core, 15⟩ → t.slot j = s.slot j)
    ∧ (isPriv i = false → s.trapWaits i = false →
      (t.slot i).state = .trapped ∧ (t.slot i).pc = pc ∧ (t.core i.die i.core).traps = (s.core i.die i.core).traps ++ [record])
    ∧ (isPriv i = false → s.trapWaits i = true → t = s.waitData i)
    ∧ (isPriv i = false → s.parkedRecord i = true → s.trapWaits i = true)
    ∧ (∀ a ∈ s.slotAccs i, a.stage ≠ .done → isPriv i = false → s.trapWaits i = true)
    ∧ (isPriv i = true →
      (t.slot i).state = .trapped ∧ (t.slot i).pc = pc ∧ (t.core i.die i.core).traps = (s.core i.die i.core).traps
      ∧ ((s.die i.die).faultEn = false → (t.die i.die).errsum.getLsbD 8 = true)
      ∧ ((s.die i.die).faultEn = true → (s.die i.die).faultCore ≠ i.core →
        ∃ m rest, t.net = s.net ++ [{ id := s.nextId, src := some (i, (s.slot i).inc), packet := .mail m }] ++ rest
          ∧ m.core = (s.die i.die).faultCore ∧ m.box = (s.die i.die).faultBox ∧ m.scope = .d
          ∧ m.words = [0#21 ++ i.core ++ 0#10 ++ i.die ++ sub ++ cause, pc, 0#32 ++ word, val, aux, 0])))
  ∧ (∀ (s : State) (a : Reg), s.plain [a] [] = true →
    let i := s.cur
    let w := s.reg i a
    let target : SlotId := ⟨i.die, i.core, w.extractLsb' 0 4⟩
    let code : BitVec 4 → Result := fun n => .next (s.modSlot i fun x => { x with svstat := n }).advance
    exec (.trap a) s = .next (s.takeTrap i 0x05 0 ((s.slot i).pc + 4) s.word w 0)
    ∧ (isPriv i = true →
      (target.slot = 15 → exec (.eret a) s = code 1)
      ∧ (target.slot ≠ 15 → s.curCore.rslot.getLsbD target.slot.toNat = false →
        ((s.slot target).inc ≠ w.extractLsb' 4 8 → exec (.eret a) s = code 2)
        ∧ ((s.slot target).inc = w.extractLsb' 4 8 → (s.slot target).state ≠ .trapped → exec (.eret a) s = code 3)
        ∧ ((s.slot target).inc = w.extractLsb' 4 8 → (s.slot target).state = .trapped →
          (s.slotAccs i ≠ [] → exec (.eret a) s = .next (s.waitData i))
          ∧ (s.slotAccs i = [] → ∃ t, exec (.eret a) s = .next t
            ∧ (t.slot target).state = .ready ∧ (t.slot target).pc = (s.slot target).pc
            ∧ (t.slot target).regs = (s.slot target).regs ∧ (t.slot i).svstat = 0 ∧ (t.slot i).pc = (s.slot i).pc + 4
            ∧ (t.core i.die i.core).l1d = [] ∧ t.mem = s.mem)))))

/-- 06 R187; 09 R313; 14 R372, R374, R378: SYSR reads and SYSW writes each register of its table; registers without an
unprivileged view trap PRIV in a user slot; reserved numbers trap ILL. -/
def Obligations.SystemRegisters : Prop :=
  ∀ (s : State) (d a : Reg), s.plain [a] [d] = true →
    let i := s.cur
    let me := s.slot i
    let c := s.curCore
    let w := s.reg i a
    let reads : BitVec 12 → Word → Prop := fun n v => exec (.sysr d n) s = .next (s.finish d v)
    let writes : BitVec 12 → State → Prop := fun n t => exec (.sysw n a) s = .next t.advance
    let traps : BitVec 12 → Byte → Byte → Prop := fun n cause sub =>
      let trap : Result := .next (s.takeTrap i cause sub me.pc s.word (n.zeroExtend 64) 0)
      exec (.sysr d n) s = trap ∧ exec (.sysw n a) s = trap
    let privileged : List (BitVec 12) :=
      [0x100, 0x101, 0x102, 0x110, 0x111, 0x112, 0x113, 0x114, 0x115, 0x116, 0x117, 0x118, 0x119, 0x11a, 0x11b, 0x11c, 0x11d]
    (reads 1 (0#59 ++ me.fflags) ∧ reads 2 (0#61 ++ me.frm) ∧ reads 4 (0#32 ++ me.wlim) ∧ reads 5 (0#61 ++ me.dom)
      ∧ reads 6 (0#48 ++ me.inc ++ 0#4 ++ bit (isPriv i) ++ bit me.pin ++ bit (me.pre && !isPriv i) ++ bit (s.jnlOf i))
      ∧ reads 7 (0#32 ++ me.lfsr) ∧ reads 8 (0#34 ++ i.die ++ me.inc ++ i.slot ++ 0#1 ++ i.core))
    ∧ (writes 1 (s.modSlot i fun x => { x with fflags := w.extractLsb' 0 5 })
      ∧ writes 2 (s.modSlot i fun x => { x with frm := w.extractLsb' 0 3 })
      ∧ writes 4 (s.modSlot i fun x => { x with wlim := w.extractLsb' 0 32 })
      ∧ ((w.extractLsb' 0 3).toNat ≤ 4 → writes 5 (s.modSlot i fun x => { x with dom := w.extractLsb' 0 3 }))
      ∧ (4 < (w.extractLsb' 0 3).toNat →
        exec (.sysw 5 a) s = .next (s.takeTrap i 0x01 3 me.pc s.word 5 0))
      ∧ (w.extractLsb' 0 32 ≠ 0 → writes 7 (s.modSlot i fun x => { x with lfsr := w.extractLsb' 0 32 }))
      ∧ writes 8 s)
    ∧ (isPriv i = true →
      reads 0x101 (0#32 ++ c.pkey ++ 0#7 ++ bit c.phys ++ 0#4 ++ c.ctx) ∧ reads 0x102 (0#59 ++ c.thresh)
      ∧ (c.traps = [] → reads 0x110 0)
      ∧ (c.traps ≠ [] → exec (.sysr d 0x110) s = .next
        ((s.modCore i.die i.core fun x => { x with l1d := [] }).finish d (BitVec.ofNat 64 c.traps.length)))
      ∧ reads 0x117 (0#60 ++ me.svstat)
      ∧ writes 0x101 (s.modCore i.die i.core fun x =>
        { x with ctx := w.extractLsb' 0 12, phys := w.getLsbD 16, pkey := w.extractLsb' 24 8 })
      ∧ ((w.extractLsb' 0 5).toNat ≤ 16 → writes 0x102 (s.modCore i.die i.core fun x => { x with thresh := w.extractLsb' 0 5 }))
      ∧ (16 < (w.extractLsb' 0 5).toNat →
        exec (.sysw 0x102 a) s = .next (s.takeTrap i 0x01 3 me.pc s.word 0x102 0))
      ∧ (∀ r rest, c.traps = r :: rest →
        reads 0x111 (0#41 ++ bit r.multi ++ r.scope ++ r.len ++ r.sub ++ r.cause)
        ∧ reads 0x112 (0#50 ++ bit r.parks ++ bit r.gone ++ r.inc ++ r.slot) ∧ reads 0x113 r.pc ∧ reads 0x114 (0#32 ++ r.word)
        ∧ reads 0x115 r.val ∧ reads 0x116 r.aux ∧ (∀ k : Nat, k < 6 → reads (0x118 + BitVec.ofNat 12 k) (r.msg.getD k 0))
        ∧ (w.getLsbD 8 = true → r.len = 0 → writes 0x110 (s.modCore i.die i.core fun x => { x with traps := rest })))
      ∧ (c.traps = [] → ∀ n ∈ privileged, 0x111 ≤ n.toNat → n ≠ 0x117 → reads n 0)
      ∧ (w.getLsbD 8 = false → writes 0x110 s))
    ∧ (isPriv i = false → ∀ n ∈ privileged, traps n 0x02 1)
    ∧ (∀ n, n ∉ privileged → n ∉ [1, 2, 4, 5, 6, 7, 8] → traps n 0x01 4)

/-- 06 R193; 09 R314 to R316; 14 R375, R387: each privileged instruction traps PRIV in a user slot. 09 R314, R316; 04
R139; 14 R374: WFI ends at once while a record or message waits and parks its slot otherwise; HALT stops its core when
its accesses are performed; TLBINV removes from every core of the die the entries that its operands name. -/
def Obligations.PrivilegedInstructions : Prop :=
  (
    ∀ (s : State) (d a b : Reg) (i : Instr), isPriv s.cur = false →
      i ∈ [.eret a, .wfi a, .spill a b, .fillslot d a, .slotregR d a b, .slotregW d a b, .tlbinv, .tlbinvAsid a, .tlbinvPage a b,
          .halt, .heddleRep d a b, .heddleRet d a b, .heddlePub d a b, .heddleSw a, .heddleRd d a] →
      exec i s = .next (s.takeTrap s.cur 0x02 0 (s.slot s.cur).pc s.word 0 0))
  ∧ (
    ∀ (s : State) (a b : Reg) (c : CoreNo), isPriv s.cur = true →
      let i := s.cur
      let mask : BitVec 32 := (s.reg i a).extractLsb' 0 32
      let asid : BitVec 16 := (s.reg i b).extractLsb' 0 16
      (s.plain [a] [] = true →
        (s.curCore.traps ≠ [] ∨ s.curCore.anyMessage mask = true →
          exec (.wfi a) s = .next (s.modCore i.die i.core fun x => { x with l1d := [] }).advance)
        ∧ (s.curCore.traps = [] → s.curCore.anyMessage mask = false → ∃ t, exec (.wfi a) s = .next t
          ∧ (t.slot i).state = .parkMsg ∧ (t.slot i).pc = (s.slot i).pc ∧ (t.slot i).parkKey = 0#32 ++ mask
          ∧ (∀ j, j ≠ i → t.slot j = s.slot j) ∧ t.cores = s.cores ∧ t.mem = s.mem))
      ∧ (s.coreBusy i.die i.core = false →
        exec .halt s = .next (s.advance.modCore i.die i.core fun x => { x with halted := true }))
      ∧ (s.coreBusy i.die i.core = true → exec .halt s = .next (s.waitData i))
      ∧ (tblWf {} s.cores = true →
        (∃ t : State, exec .tlbinv s = .next t.advance ∧ (t.core i.die c).tlb = [] ∧ (t.die i.die).walks = []
          ∧ t.mem = s.mem ∧ t.slots = s.slots)
        ∧ (s.plain [b] [] = true → ∃ t : State, exec (.tlbinvAsid b) s = .next t.advance
          ∧ (t.core i.die c).tlb = (s.core i.die c).tlb.filter (fun e => e.asid ≠ asid ∨ e.leaf.getLsbD 11)
          ∧ (∀ d, d ≠ i.die → t.core d c = s.core d c) ∧ t.mem = s.mem ∧ t.slots = s.slots)
        ∧ (s.plain [a, b] [] = true → ∃ t : State, exec (.tlbinvPage a b) s = .next t.advance
          ∧ (t.core i.die c).tlb = (s.core i.die c).tlb.filter (fun e => !e.covers asid (s.reg i a).toNat)
          ∧ (∀ d, d ≠ i.die → t.core d c = s.core d c) ∧ t.mem = s.mem ∧ t.slots = s.slots)))

/-- 02 R80, Table 2-7; 09 R315; 14 R387: SPILL stores the image of a slot that has nothing outstanding and leaves the
slot FREE at its incarnation; FILLSLOT gives an image the lowest FREE user slot, at its next incarnation, and all ones
where none is; the image holds the thread. 09 R314, R315; 14 R375: SLOTREG reads and writes the registers, the PC and
the system registers of a slot that is TRAPPED or parked; its codes for a slot word that names none. -/
def Obligations.SpillFillAndSlotRegisters : Prop :=
  (
    (∀ (s : State) (d a b : Reg) (k : SlotNo) (ws : List Word) (x : SlotSt) (t : State) (src : CoreNo), isPriv s.cur = true →
      let own := s.cur
      let va := s.reg own a
      let w := s.reg own b
      (s.plain [b, a] [] = true →
        let i : SlotId := ⟨own.die, own.core, w.extractLsb' 0 4⟩
        let q := s.cancelWait i
        i.slot ≠ 15 → s.curCore.rslot.getLsbD i.slot.toNat = false → (s.slot i).inc = w.extractLsb' 4 8 →
        (s.slot i).state ≠ .free → (s.slot i).pre = true → s.spillWaits i = false → s.addressFault own va 6 = none →
        q.StoresRecord va 6 (q.imageWords i) t →
        let y := t.slot i
        let kept : Spilled := ⟨va, q.imageWords i, y.pinned, y.log, y.jrec, y.jord, y.jparent, y.jresult, y.fails⟩
        let u := t.modCore i.die i.core fun c => { c with spilled := c.spilled.filter (·.addr != va) ++ [kept] }
        exec (.spill b a) s =
          .next (((((u.leaveRow i).dropFailed i).modSlot i fun z => emptySlot z (u.coreClock i.die i.core)).setSvstat 0).advance))
      ∧ (s.plain [a] [d] = true → s.ReadsRecord va 6 48 ws t → t.cur = own →
        let code : BitVec 4 → State := fun n => t.modSlot own fun z => { z with svstat := n }
        (t.freeSlot own.die own.core = none → exec (.fillslot d a) s = .next ((code 1).finish d (BitVec.allOnes 64)))
        ∧ (t.freeSlot own.die own.core = some k → threadOfImage ws = none →
          exec (.fillslot d a) s = .next ((code 4).finish d (BitVec.allOnes 64)))
        ∧ (t.freeSlot own.die own.core = some k → threadOfImage ws = some (x, src) →
          let i : SlotId := ⟨own.die, own.core, k⟩
          let old := t.slot i
          let y : SlotSt := { x with since := t.coreClock own.die own.core, inc := old.inc + 1, svstat := old.svstat, lastIssue := old.lastIssue }
          let filled : State → Result := fun u => .next
            (((u.dropL1d own.die own.core).modSlot own fun z => { z with svstat := 0 }).finish d (0#60 ++ k))
          (t.keptOf own.die src va ws = none → (t.core own.die src).ctx = t.curCore.ctx →
            exec (.fillslot d a) s = filled (t.setSlot i
              { y with log := [], jrec := none, jord := 0, jparent := none, jresult := 0, fails := [] }))
          ∧ (∀ home q, t.keptOf own.die src va ws = some (home, q) → (t.core home src).ctx = t.curCore.ctx →
            (q.log = [] ∨ (home = own.die ∧ src = own.core) →
              exec (.fillslot d a) s = filled ((t.modCore home src fun c => { c with spilled := c.spilled.filter (· != q) }).setSlot i
                { y with log := q.log, jrec := q.jrec, jord := q.jord, jparent := q.jparent, jresult := q.jresult
                         fails := q.fails }))
            ∧ (q.log ≠ [] → ¬(home = own.die ∧ src = own.core) →
              exec (.fillslot d a) s = .next ((code 4).finish d (BitVec.allOnes 64)))))))
    ∧ (∀ (s : State) (i : SlotId), isPriv i = false → (∃ y, threadOfImage (s.imageWords i) = some (y, i.core)
      ∧ (let x := s.slot i
        y.pc = x.pc ∧ (∀ r, r < 32 → y.g r = x.g r) ∧ (∀ k, k < 6 → y.mw k = x.mw k) ∧ y.mb = x.mb ∧ y.fflags = x.fflags
        ∧ y.frm = x.frm ∧ y.wlim = x.wlim ∧ y.dom = x.dom ∧ y.pre = x.pre ∧ y.pin = x.pin ∧ y.lfsr = x.lfsr ∧ y.role = x.role
        ∧ y.pinned = x.pinned ∧ y.join = x.join ∧ y.exitTo = x.exitTo
        ∧ y.state = if x.state = .trapped ∨ x.state = .free then x.state else .ready))))
  ∧ (
    ∀ (s : State) (d a b : Reg) (r : Reg), isPriv s.cur = true →
      let own := s.cur
      let w := s.reg own a
      let i : SlotId := ⟨own.die, own.core, w.extractLsb' 0 4⟩
      let v := s.reg own d
      let code : BitVec 4 → State := fun n => s.modSlot own fun z => { z with svstat := n }
      (s.plain [a, b] [d] = true →
        (i.slot = 15 → exec (.slotregR d a b) s = .next ((code 1).finish d 0))
        ∧ (i.slot ≠ 15 → s.curCore.rslot.getLsbD i.slot.toNat = false →
          ((s.slot i).inc ≠ w.extractLsb' 4 8 → exec (.slotregR d a b) s = .next ((code 2).finish d 0))
          ∧ ((s.slot i).inc = w.extractLsb' 4 8 →
            ((s.slot i).state ∈ [.free, .ready, .waitData, .mx] → exec (.slotregR d a b) s = .next ((code 3).finish d 0))
            ∧ ((s.slot i).state ∉ [.free, .ready, .waitData, .mx] →
              (s.reg own b = 0x40 → exec (.slotregR d a b) s = .next ((code 0).finish d (s.slot i).pc))
              ∧ (s.reg own b = 0#58 ++ r → r ≠ 0 → r < 32 → s.awaited i = [] →
                exec (.slotregR d a b) s = .next ((code 0).finish d ((s.slot i).g r)))
              ∧ (s.reg own b = 0x1002 → exec (.slotregR d a b) s = .next ((code 0).finish d (0#61 ++ (s.slot i).frm)))
              ∧ (s.reg own b = 0 → exec (.slotregR d a b) s = .next ((code 5).finish d 0))))))
      ∧ (s.plain [a, b, d] [] = true → i.slot ≠ 15 → s.curCore.rslot.getLsbD i.slot.toNat = false →
        (s.slot i).inc = w.extractLsb' 4 8 → (s.slot i).state ∉ [.free, .ready, .waitData, .mx] →
        (s.reg own b = 0x40 → exec (.slotregW d a b) s =
          .next ((s.modSlot i fun y => { y with pc := v }).modSlot own fun z => { z with svstat := 0 }).advance)
        ∧ (s.reg own b = 0#58 ++ r → r ≠ 0 → r < 32 → s.awaited i = [] →
          exec (.slotregW d a b) s =
            .next ((s.modSlot i fun y => y.setG r v).modSlot own fun z => { z with svstat := 0 }).advance)
        ∧ (s.reg own b = 0x1002 → exec (.slotregW d a b) s =
            .next ((s.modSlot i fun y => { y with frm := v.extractLsb' 0 3 }).modSlot own fun z => { z with svstat := 0 }).advance)
        ∧ (s.reg own b = 0 → exec (.slotregW d a b) s = .next (code 5).advance)))

/-- 04 R137; 15 R394, R395, R397: a page walk that finds a page sends its access home with its physical address and key;
one that faults on a thread's access fails it at once while XFDST.EN is 0, and otherwise holds it in the lowest free
entry of the die's table, at the entry's next generation, with one message of LEN 6 to the fault core; the thread goes
on behind an instruction that waited for the access. 04 R118; 07 R202, R231; 08 R229, R232, R252; 09 R290; 15 R405: the
result of a performed access is written to its register, an acquire at c or wider empties the L1D, and a slot that
waited for it goes on behind its instruction; the completion of a waiter elsewhere travels as a message; a polling
operation tries again after its period; a node's access delivers its tokens. -/
def Obligations.AccessesTranslateAndComplete : Prop :=
  (
    ∀ (s : State) (a : Access) (i : SlotId) (inc : Byte) (pa : Nat) (key : Byte) (t : State) (cause sub : Byte) (addr : Word),
      s.access s.ev.id = some a → a.agent = .slot i inc → a.stage = .walk →
      (s.accessReach a = .ok pa key t → a.op.isBarrier = false ∨ paDie pa = i.die →
        exec .pageWalk s =
          .next ((t.unhold i.die (.access a.id)).modAccess a.id fun b => { b with stage := .home, pa, key }))
      ∧ (s.accessReach a = .notReady → exec .pageWalk s = .next s)
      ∧ (s.accessReach a = .fault cause sub addr → (s.slot i).inc = inc →
        ((s.die i.die).xfEn = false ∨ s.exempt i = true → (s.slot i).state ≠ .trapped →
          exec .pageWalk s = .next (((s.unhold i.die (.access a.id)).markFailed a.id).modSlot i fun x =>
            { x with fails := x.fails ++ [⟨cause, sub, addr, a.pc⟩] }))
        ∧ ((s.die i.die).xfEn = true → s.exempt i = false → (s.die i.die).held = [] →
          ∃ u b m, exec .pageWalk s = .next u ∧ u.access s.ev.id = some b ∧ b.stage = .held ∧ b.op = a.op ∧ b.va = a.va
            ∧ (u.die i.die).held = [{ fid := 0, gen := tblGet 0 0 (s.die i.die).gens + 1, who := .access a.id, cause, sub, va := addr }]
            ∧ u.net = s.net ++ [{ id := s.nextId, packet := .mail m }] ∧ m.core = (s.die i.die).xfCore
            ∧ m.box = (s.die i.die).xfBox ∧ m.words.length = 6 ∧ m.words.getD 1 0 = addr ∧ m.words.getD 3 0 = a.pc
            ∧ u.mem = s.mem
            ∧ ((s.slot i).await ≠ .access a.id → u.slots = s.slots)
            ∧ ((s.slot i).await = .access a.id → (u.slot i).pc = (s.slot i).pc + 4 ∧ (u.slot i).state = .ready))))
  ∧ (
    (∀ (s : State) (a : Access) (i : SlotId) (inc : Byte) (lo : LoadOp) (q : ReedItem),
      let after : State → State := fun t => (t.modSlot i fun x => { x with pc := x.pc + 4 }).wake i
      let noL1d : State → State := fun t => if a.scope = .s ∧ a.host = false then t else t.modCore i.die i.core fun c => { c with l1d := [] }
      a.agent = .slot i inc → (s.slot i).inc = inc → a.ok = true → a.detached = false →
      (s.access s.ev.id = some a → a.stage = .done → s.completionSent a.id = false →
        (a.op = .load lo → a.acq = false → (s.slot i).await ≠ .access a.id →
          exec .accessResult s = .next ((s.writeReg i a.dst a.result).dropAccess a.id))
        ∧ (a.op = .fe .lde ∨ a.op = .fe .take → a.acq = true → (s.slot i).await = .access a.id → (s.slot i).state ≠ .trapped →
          exec .accessResult s = .next ((after (noL1d (s.writeReg i a.dst a.result))).dropAccess a.id)))
      ∧ (s.packet s.ev.id = some (.feDone a.id) → s.access a.id = some a → a.op = .fe .lde ∨ a.op = .fe .take → a.acq = true →
        (s.slot i).await = .access a.id → (s.slot i).state ≠ .trapped →
        exec .remoteFeCompletion s
          = .next ((after (noL1d ((s.dropPacket s.ev.id).writeReg i a.dst a.result))).dropAccess a.id))
      ∧ (s.reedItem s.ev.id = some q → s.reedReady q = true → s.access a.id = some a → a.op = .waitPhase → a.acq = true →
        (q.msg = .barrier a.id true → s.phaseSettled a a.result = true → (s.slot i).await = .access a.id → (s.slot i).state ≠ .trapped →
          exec .remoteArrival s = .next ((after (noL1d (s.dropReed q.id))).dropAccess a.id))
        ∧ (q.msg = .barrier a.id false → s.mayPerform a = true → s.unitTakes a = true → s.objectPoisoned a.pa = false →
          phaseDone (s.phaseOf a.key a.pa) (a.data.extractLsb' 0 32) = true →
          ∃ u b p, exec .remoteArrival s = .next u ∧ u.access a.id = some b ∧ b.stage = .done
            ∧ p ∈ u.reed ∧ p.msg = .barrier a.id true ∧ p.dest = .core i.die i.core ∧ u.mem = s.mem))
      ∧ (s.access s.ev.id = some a → a.stage = .polling →
        ((s.aclk - a.since).toNat < 217 → exec .pollingParkRetry s = .next s)
        ∧ (217 ≤ (s.aclk - a.since).toNat → a.op = .fe .lde → s.orphaned a.pa = false → s.isPoisoned a.pa = false →
          s.isFull a.pa = true →
          ∃ u b, exec .pollingParkRetry s = .next u ∧ u.access s.ev.id = some b ∧ b.stage = .done
            ∧ b.result = s.readHome a.key a.pa 8 ∧ u.mem = s.mem ∧ u.full = s.full)))
    ∧ (∀ (s : State) (a : Access) (d : Die) (h : ShedNo) (n : BitVec 6) (c : BitVec 2) (t u : Target) (lo : LoadOp) (so : StoreOp),
      let x := s.shed d h
      let w := tblGet 0 n.toNat x.words
      s.access s.ev.id = some a → a.agent = .node d h n c → a.stage = .done → x.stopped n.toNat = false → x.fires = true →
      target (w.extractLsb' 9 9) = some t → target (w.extractLsb' 0 9) = some u →
      earlier (s.deliversBefore d h · a) a s.accs = [] →
      let gives : List OutTok → Prop := fun l =>
        exec .memoryNodeCompletion s = .next ((s.dropAccess a.id).emit d h n.toNat l)
      (a.op = .load lo → gives [⟨t, dataTok c a.result⟩, ⟨u, orderTok c 0⟩])
      ∧ (a.op = .store so → gives [⟨t, orderTok c 0⟩, ⟨u, orderTok c 0⟩])
      ∧ (a.op = .fe .trytake → gives
        [⟨t, dataTok c (if a.ok then a.result else 0)⟩, ⟨u, dataTok c (if a.ok then 1 else 0)⟩])))

/-- 00 R11; 04 R142; 10 R319, R333; 14 R374, R376, R377; 15 R396, R397; 16 R411, R423: what each event on a device
register does: written ones clear flags, faults and error bits; TQSTAT.POP removes the head record; HDCUR is writable
only while EN is 0; RDNEXT hands out each index once; a key load takes XKDATA into the slot that XKSEL names and clears
it; RETREQ marks a core suspect; a stale generation of XFRESUME is counted and ignored. 15 R396, R397: a held load of a
thread that firmware retries is walked afresh without the caches; one that firmware fails takes no effect, frees its
entry, and lets its thread trap with the cause, the sub-cause and the address. -/
def Obligations.RegistersAndHeldAccesses : Prop :=
  (
    ∀ (s : State) (o : BitVec 40) (p : Bool) (u : LogUnit) (r : TrapRec) (rest : List TrapRec) (fid gen : Byte),
      let d := s.ev.die
      let c := s.ev.core
      let n := s.ev.shed
      let v := s.ev.val
      let h := s.heddle d
      let k := skeinOf c
      let q := s.skein d k
      let x := s.shed d n
      ((s.core d c).traps = [] → exec .tqstatPop s = .next (s.modCore d c fun y => { y with traps := [] }))
      ∧ ((s.core d c).traps = r :: rest → exec .tqstatPop s = .next (s.modCore d c fun y =>
          { y with traps := rest, resv := if r.len = 0 then y.resv else y.resv - 1 }))
      ∧ exec .errsumClear s = .next (s.modDie d fun y => { y with errsum := y.errsum &&& ~~~(v.extractLsb' 0 9) })
      ∧ exec .sfflagsClear s = .next (s.modShed d n fun y => { y with sfflags :=
          y.sfflags &&& (~~~(v.extractLsb' 0 5) ||| if y.flagAclk = s.aclk then y.flagSet else 0) })
      ∧ (∃ t, exec .sxfaultClear s = .next t ∧ (t.shed d n).sxfault.cause = x.sxfault.cause &&& ~~~(v.extractLsb' 0 8)
          ∧ (t.shed d n).sxfault.item = x.sxfault.item ∧ (t.shed d n).sffault = x.sffault ∧ (t.shed d n).stops = x.stops)
      ∧ (∃ t, exec .sffaultClear s = .next t ∧ (t.shed d n).sffault.cause = x.sffault.cause &&& ~~~(v.extractLsb' 0 8)
          ∧ (t.shed d n).sffault.item = x.sffault.item ∧ (t.shed d n).sxfault = x.sxfault ∧ (t.shed d n).stops = x.stops)
      ∧ (s.ev.load = .logUnit u → ∃ t, exec .elogclr s = .next t ∧ t.log d u = {} ∧ t.slots = s.slots ∧ t.mem = s.mem)
      ∧ exec .hdstatClear s = .next (if v.getLsbD 0 then s.modHeddle d fun y => { y with busy := false } else s)
      ∧ (h.en = false → exec .hdcurWrite s = .next (s.modHeddle d fun y =>
          { y with curs := tblSet 0 (BitVec.ofNat 12 s.ev.unit).toNat v y.curs }))
      ∧ (h.en = true → ∃ t, exec .hdcurWrite s = .next t ∧ (t.heddle d).curs = h.curs ∧ (t.heddle d).elog.cause = 0x54
          ∧ (t.die d).errsum.getLsbD 7 = true ∧ t.slots = s.slots ∧ t.mem = s.mem)
      ∧ exec .rdctlWrite s = .next (s.modSkein d k fun y => { y with nblk := v.extractLsb' 0 32, next := 0, doneBlk := 0 })
      ∧ (q.next.toNat < q.nblk.toNat → exec .rdnextRead s = .next (s.modSkein d k fun y => { y with next := y.next + 1 })
          ∧ (s.readRdnext d k).1 = 0#32 ++ q.next)
      ∧ (q.nblk.toNat ≤ q.next.toNat → exec .rdnextRead s = .next s ∧ (s.readRdnext d k).1 = BitVec.allOnes 64)
      ∧ exec .rdfinWrite s = .next (s.modSkein d k fun y => { y with doneBlk := y.doneBlk + 1 })
      ∧ exec .xkctlGo s = .next (s.modDie d fun y => { y with xkXts := v.getLsbD 1, xkBusy := y.xkBusy || v.getLsbD 0 })
      ∧ (let y := s.die d
        let key : Nat → BitVec 256 := fun j =>
          tblGet 0 (j + 3) y.xkdata ++ tblGet 0 (j + 2) y.xkdata ++ tblGet 0 (j + 1) y.xkdata ++ tblGet 0 j y.xkdata
        y.xkBusy = true → ∃ t, exec .keyLoadComplete s = .next t ∧ (t.die d).xkBusy = false ∧ (t.die d).xkdata = []
          ∧ tblGet {} y.xksel.toNat (t.die d).keys = (if y.xkXts then { xts := true, data := key 0, tweak := key 4 } else {})
          ∧ (∀ j, j ≠ y.xksel.toNat → tblGet {} j (t.die d).keys = tblGet {} j y.keys) ∧ t.mem = s.mem)
      ∧ ((s.core d c).suspect = false → (s.core d c).retired = false →
        ∃ t, exec .retreq s = .next t ∧ (t.core d c).retreq = true ∧ (t.core d c).suspect = true ∧ (t.core d c).elog.cause = 0x4c
          ∧ (t.die d).errsum.getLsbD 0 = true ∧ t.slots = s.slots ∧ t.mem = s.mem)
      ∧ (s.ev.load = .fault fid gen → tblGet 0 fid.toNat (s.die d).gens ≠ gen →
        ∃ t, exec .xfresumeRetry s = .next t ∧ exec .xfresumeFail s = .next t ∧ (t.die d).dieLog.cause = 0x2b
          ∧ (t.die d).dieLog.count = (if (s.die d).dieLog.count = 0xffffffff then 0xffffffff else (s.die d).dieLog.count + 1)
          ∧ (t.die d).held = (s.die d).held ∧ t.slots = s.slots ∧ t.accs = s.accs ∧ t.mem = s.mem)
      ∧ (s.ev.load = .register o p →
        (o = 0x300 → p = true → exec .registerWrite s = .next (s.modDie d fun y =>
          { y with faultCore := v.extractLsb' 0 11, faultBox := v.extractLsb' 11 5, faultEn := v.getLsbD 16 }))
        ∧ (o = 0x300 → p = false → exec .registerWrite s = .next s)
        ∧ (o = 0x318 → p = true → exec .registerWrite s = .next (s.modDie d fun y =>
          { y with xfCore := v.extractLsb' 0 11, xfBox := v.extractLsb' 11 5, xfEn := v.getLsbD 16 }))
        ∧ (o = 0x50000 → exec .registerWrite s = .next (s.modDie d fun y => { y with xksel := v.extractLsb' 0 8 }))
        ∧ (o = 0 → exec .registerWrite s = .next s)))
  ∧ (
    ∀ (s : State) (e : HeldEntry) (a : Access) (i : SlotId) (inc : Byte),
      let d := s.ev.die
      s.ev.load = .fault e.fid e.gen → tblGet 0 e.fid.toNat (s.die d).gens = e.gen →
      (s.die d).held.find? (fun x => x.fid == e.fid && !x.retry && !x.fail) = some e → e.who = .access a.id →
      s.access a.id = some a → a.agent = .slot i inc →
      (∃ t b, exec .xfresumeRetry s = .next t ∧ t.access a.id = some b ∧ b.stage = .walk ∧ b.fresh = true ∧ b.op = a.op
        ∧ b.va = a.va ∧ t.mem = s.mem ∧ (∀ j, t.slot j = s.slot j))
      ∧ ((s.slot i).inc = inc → (s.slot i).state ≠ .trapped →
        ∃ t b, exec .xfresumeFail s = .next t ∧ t.access a.id = some b ∧ b.stage = .failed
        ∧ (t.slot i).fails = (s.slot i).fails ++ [⟨e.cause, e.sub, e.va, a.pc⟩] ∧ (t.slot i).regs = (s.slot i).regs
        ∧ (∀ x ∈ (t.die d).held, x.who ≠ .access a.id) ∧ t.mem = s.mem))

/-- 09 R311, R312; 10 R329; 16 R432: DRAFTGET reads the executing die's entry of CUR or of a live version; DRAFTPIN pins
CUR and DRAFTUNPIN gives the pin back; other uses trap DRAFT; ROUTE gives a handle to a good die and traps for an absent
die or an unlisted endpoint. 10 R319, R326, R327, R330: replication and retirement send one request to the placement
core of the target die and set BUSY, or return 1 while it is set; a publish and a switch begin the protocol at the root
and wait for every die; all ones while it does not run, DRAFT for what breaks its rules; HEDDLE.RD reads a counter. 10
R321 to R323, R326 to R328: each die installs the published version as pending and acknowledges it; the waiting slot
goes on when every die has; a switch makes it CUR and lets the earlier one drain; a die reports once when its hold has
reached zero, and gives the version up when every die has reported; the counters of a window close together; the root's
vector of loads reaches every die. -/
def Obligations.DraftsAndPlacement : Prop :=
  (
    ∀ (s : State) (d a b : Reg) (p : Path) (r : RouteEntry),
      let i := s.cur
      let me := s.slot i
      let w := s.reg i a
      let v := s.reg i b
      let y := s.die i.die
      let h := y.heddle
      let e : Nat := (w.extractLsb' 0 12).toNat
      let trap : Byte → Byte → Word → Word → Result := fun cause sub x z => .next (s.takeTrap i cause sub me.pc s.word x z)
      (s.plain [a, b] [d] = true → s.unitUp i.die readyHeddle = false →
        exec (.draftget d a b) s = .next (s.waitData i) ∧ exec (.draftpin d) s = .next (s.waitData i)
        ∧ exec (.draftunpin a) s = .next (s.waitData i))
      ∧ (s.plain [a, b] [d] = true → s.unitUp i.die readyHeddle = true →
        (v.getLsbD 16 = false ∨ v.extractLsb' 0 16 = h.cur → exec (.draftget d a b) s = .next (s.finish d (tblGet 0 e h.curs)))
        ∧ (v.getLsbD 16 = true → v.extractLsb' 0 16 ≠ h.cur → h.ost ≠ 0 → v.extractLsb' 0 16 = h.other →
          exec (.draftget d a b) s = .next (s.finish d (tblGet 0 e h.oths)))
        ∧ (v.getLsbD 16 = true → v.extractLsb' 0 16 ≠ h.cur → h.ost = 0 ∨ v.extractLsb' 0 16 ≠ h.other →
          exec (.draftget d a b) s = trap 0x47 2 w v))
      ∧ (s.plain [a] [d] = true → s.unitUp i.die readyHeddle = true →
        (me.pinned = none → exec (.draftpin d) s = .next ((s.modSlot i fun x => { x with pinned := some h.cur }).finish d (0#48 ++ h.cur)))
        ∧ (me.pinned ≠ none → exec (.draftpin d) s = trap 0x47 0 0 0)
        ∧ (me.pinned = some (w.extractLsb' 0 16) →
          exec (.draftunpin a) s = .next (s.modSlot i fun x => { x with pinned := none }).advance)
        ∧ (me.pinned ≠ some (w.extractLsb' 0 16) → exec (.draftunpin a) s = trap 0x47 1 w 0))
      ∧ (s.plain [a, b] [d] = true →
        let dest : Die := w.extractLsb' 0 6
        let ep : BitVec 12 := v.extractLsb' 0 12
        (s.dieThere i.die dest = false → exec (.route d a b) s = trap 0x49 0 w v ∧ exec (.routeEsc d a b) s = trap 0x49 0 w v)
        ∧ (s.dieThere i.die dest = true → 0xa46 ≤ ep.toNat →
          exec (.route d a b) s = trap 0x49 1 w v ∧ exec (.routeEsc d a b) s = trap 0x49 1 w v)
        ∧ (s.dieThere i.die dest = true → ep.toNat < 0xa46 →
          (dest = i.die → exec (.route d a b) s = .next (s.finish d (mkHandle dest ep ⟨false, 0, 0⟩))
            ∧ exec (.routeEsc d a b) s = .next (s.finish d (mkHandle dest ep ⟨true, 0, 0⟩)))
          ∧ (dest ≠ i.die → (s.curCore.routes.getD y.routes)[dest.toNat]? = some r →
            (r.esc = some p → exec (.routeEsc d a b) s = .next (s.finish d (mkHandle dest ep p)))
            ∧ (r.norm0 = some p → r.norm1 = none → exec (.route d a b) s = .next (s.finish d (mkHandle dest ep p)))
            ∧ (r.norm0 = none → r.norm1 = some p → exec (.route d a b) s = .next (s.finish d (mkHandle dest ep p)))
            ∧ (r.norm0 = none → r.norm1 = none → exec (.route d a b) s = trap 0x49 0 w v)
            ∧ (r.esc = none → exec (.routeEsc d a b) s = trap 0x49 0 w v)))))
  ∧ (
    ∀ (s : State) (d a b : Reg) (r : Die), isPriv s.cur = true → s.unitUp s.cur.die readyHeddle = true →
      let i := s.cur
      let me := s.slot i
      let w := s.reg i a
      let v := s.reg i b
      let h := s.heddle i.die
      let e : BitVec 12 := w.extractLsb' 0 12
      let p := s.heddle (v.extractLsb' 0 6)
      (s.plain [a, b] [d] = true →
        (∀ j k, (j, k) ∈ [(Instr.heddleRep d a b, (3 : Byte)), (.heddleRet d a b, 4)] →
          (h.busy = true → exec j s = .next (s.finish d 1))
          ∧ (h.busy = false →
            ∃ (t : State) (m : Mail), exec j s = .next (t.finish d 0) ∧ t.net = s.net ++ [{ id := s.nextId, packet := .mail m, src := some (i, me.inc) }]
              ∧ m.die = v.extractLsb' 0 6 ∧ m.core = p.placeCore ∧ m.box = p.placeBox ∧ m.scope = .p
              ∧ m.words = [0#36 ++ e ++ 0#8 ++ k, 0#58 ++ i.die, 0#48 ++ h.cur]
              ∧ (t.heddle i.die).busy = true ∧ (t.heddle i.die).exp = e ∧ t.slots = s.slots ∧ t.mem = s.mem ∧ t.cur = i))
        ∧ (h.en = false ∨ s.rootDie = none → exec (.heddlePub d a b) s = .next (s.finish d (BitVec.allOnes 64)))
        ∧ (s.rootDie = some r → (s.heddle r).en = false ∨ (s.heddle r).ost ≠ 0 →
          exec (.heddlePub d a b) s = .next (s.finish d (BitVec.allOnes 64)))
        ∧ (h.en = true → s.rootDie = some r → (s.heddle r).en = true → (s.heddle r).ost = 0 →
          (s.badList i.die ((s.die i.die).curEntry e) v = true →
            exec (.heddlePub d a b) s = .next (s.takeTrap i 0x47 4 me.pc s.word w v))
          ∧ (s.badList i.die ((s.die i.die).curEntry e) v = false → s.releases = true → s.root.publishing = none →
            s.root.switching = none → ∃ t, exec (.heddlePub d a b) s = .next t
            ∧ t.root.publishing = some ((s.heddle r).cur + 1, e, v) ∧ t.root.waiter = some i ∧ t.root.acks = []
            ∧ (t.slot i).state = .waitData ∧ (t.slot i).parkDst = some d ∧ t.dies = s.dies ∧ t.mem = s.mem)))
      ∧ (s.plain [a] [d] = true →
        exec (.heddleRd d a) s
          = .next (s.finish d ((tblGet ((0 : BitVec 32), (0 : BitVec 32)) e.toNat h.cnts).2 ++ (tblGet ((0 : BitVec 32), (0 : BitVec 32)) e.toNat h.cnts).1))
        ∧ (h.en = false ∨ h.ost ≠ 1 ∨ h.other ≠ w.extractLsb' 0 16 →
          exec (.heddleSw a) s = .next (s.takeTrap i 0x47 3 me.pc s.word w 0))
        ∧ (h.en = true → h.ost = 1 → h.other = w.extractLsb' 0 16 → s.releases = true → s.root.publishing = none →
          s.root.switching = none → ∃ t, exec (.heddleSw a) s = .next t
            ∧ t.root.switching = some h.other ∧ t.root.waiter = some i ∧ t.root.acks = [] ∧ (t.slot i).state = .waitData
            ∧ t.dies = s.dies ∧ t.mem = s.mem)))
  ∧ (
    ∀ (s : State) (v : BitVec 16) (e : BitVec 12) (l : Word) (i : SlotId) (d' : Reg),
      let d := s.ev.die
      let h := s.heddle d
      (s.root.publishing = some (v, e, l) →
        (s.root.acks.contains d.toNat = false → s.goodDies.contains d = true → h.ost = 0 →
          exec .pubArrival s = .next { (s.modHeddle d fun y =>
              { y with oths := tblSet 0 e.toNat l h.curs, other := v, ost := 1, entry := e, drained := false }) with
            root := { s.root with acks := s.root.acks ++ [d.toNat] } })
        ∧ (s.allDies s.root.acks = true → s.root.waiter = some i → (s.slot i).parkDst = some d' →
          ∃ t, exec .pubAcksComplete s = .next t ∧ t.root.publishing = none ∧ t.root.waiter = none
            ∧ (t.slot i).state = .ready ∧ (t.slot i).pc = (s.slot i).pc + 4
            ∧ (d' < 32 → d' ≠ 0 → (t.slot i).g d' = 0#48 ++ v) ∧ t.dies = s.dies ∧ t.mem = s.mem)
        ∧ (s.allDies s.root.acks = false → exec .pubAcksComplete s = .next s))
      ∧ (s.root.switching = some v →
        (s.root.acks.contains d.toNat = false → s.goodDies.contains d = true →
          exec .switchArrival s = .next { ((s.notePins d).modHeddle d fun y =>
              { y with curs := y.oths, oths := y.curs, other := y.cur, cur := v, ost := 2, drained := false
                       busy := y.busy && y.exp != y.entry }) with
            root := { s.root with acks := s.root.acks ++ [d.toNat] } })
        ∧ (s.allDies s.root.acks = true → s.root.waiter = some i →
          ∃ t, exec .switchAcksComplete s = .next t ∧ t.root.switching = none ∧ t.root.waiter = none
            ∧ (t.slot i).state = .ready ∧ (t.slot i).pc = (s.slot i).pc + 4 ∧ (t.slot i).regs = (s.slot i).regs))
      ∧ (h.ost = 2 → h.drained = false → s.holdCount d h.other = 0 →
        exec .drainedReport s = .next { (s.modHeddle d fun y => { y with drained := true }) with
          root := { s.root with drained := s.root.drained ++ [d.toNat] } })
      ∧ (h.ost ≠ 2 ∨ h.drained = true ∨ s.holdCount d h.other ≠ 0 → exec .drainedReport s = .next s)
      ∧ (h.ost = 2 → s.root.switching = none → s.allDies s.root.drained = true →
        exec .retireBroadcast s = .next { (s.modHeddle d fun y => { y with ost := 0, oths := [], other := 0, drained := false }) with
          root := { s.root with retiring := some h.other } })
      ∧ (h.en = false ∨ (s.aclk - h.windowStart).toNat < (if h.win = 0 then 1 else h.win.toNat) * 1024 →
        exec .heddleWindowEnd s = .next s)
      ∧ (h.en = true → (if h.win = 0 then 1 else h.win.toNat) * 1024 ≤ (s.aclk - h.windowStart).toNat → tblWf (0, 0) h.cnts = true →
        ∃ t, exec .heddleWindowEnd s = .next t ∧ (t.heddle d).windowStart = h.windowStart + BitVec.ofNat 64 h.window
          ∧ (∀ k, tblGet (0, 0) k (t.heddle d).cnts = ((tblGet (0, 0) k h.cnts).2, 0)) ∧ (t.heddle d).curs = h.curs
          ∧ t.slots = s.slots ∧ t.mem = s.mem
          ∧ (h.curs = [] → t.net = s.net))
      ∧ (h.en = true → ∃ t, exec .loadVectorBroadcast s = .next t
        ∧ (∀ k, k < 64 → tblGet 0 k (t.heddle d).loads =
          if s.goodDies.contains (BitVec.ofNat 6 k) then (s.heddle (BitVec.ofNat 6 k)).load else 0xffffffff)
        ∧ t.slots = s.slots ∧ t.mem = s.mem))

/-- 09 R300 to R304; 14 R379: VCFG takes the unit for its slot and enters the sequencer, or gives up one that is not owned at once;
the vector instructions of the owner enter the sequencer in order and the slot goes on, or waits while it is full; each reserved
operand traps OPERAND, and a slot that does not own the unit ROWUNIT. 09 R301 to R304: the sequencer performs its head and goes on to
the next instruction: VCFG loads the lane descriptors, sets the cursors to zero and keeps the slices, or gives the unit up; VRUN's last
value and VRED's reduction reach rd with the flags and the LFSR of the owner; a transfer moves its doubles in order; a unit
without instructions or owner does nothing. -/
def Obligations.VectorInstructions : Prop :=
  (
    ∀ (s : State) (d a b : Reg) (f : Fmt3),
      let i := s.cur
      let me := s.slot i
      let row := s.curCore.row
      let w := s.reg i a
      let v := s.reg i b
      let trap : Byte → Byte → Word → Word → Result := fun cause sub x y => .next (s.takeTrap i cause sub me.pc s.word x y)
      let puts : VecItem → List VecOp → State := fun e since =>
        (s.modCore i.die i.core fun c => { c with row := { c.row with owner := some i.slot, queue := c.row.queue ++ [e], since } }).advance
      let item : List VecOp → VecItem := fun ops => { ops, pc := me.pc, mark := s.nextId }
      let enters : VecOp → Result := fun op => .next (puts (item [op]) (row.since ++ [op]))
      (s.plain [a] [] = true →
        (∀ k, row.owner = some k → k ≠ i.slot → exec (.vcfg a) s = trap 0x0d 0 (0#60 ++ k) 0)
        ∧ (row.owner = none → w = 0 → exec (.vcfg a) s = .next s.advance)
        ∧ (row.owner = some i.slot ∨ (row.owner = none ∧ w ≠ 0) →
          (w.toNat % 64 ≠ 0 → exec (.vcfg a) s = trap 0x20 6 w 0)
          ∧ (w.toNat % 64 = 0 → 2 ^ 57 ≤ w.toNat → exec (.vcfg a) s = trap 0x21 0 w 0)
          ∧ (w.toNat % 64 = 0 → w.toNat < 2 ^ 57 →
            (row.queue.length < 16 → exec (.vcfg a) s = .next (puts (item [.cfg w]) []))
            ∧ (16 ≤ row.queue.length → exec (.vcfg a) s = .next (s.waitData i)))))
      ∧ (s.plain [a, b] [d] = true → row.owner ≠ some i.slot ∨ row.leaving = true →
        let none' := trap 0x0d 1 (ownerWord row.owner) 0
        exec (.vrun d a b) s = none' ∧ exec (.vlds a b) s = none' ∧ exec (.vsts a b) s = none' ∧ exec (.vseq a b) s = none'
        ∧ exec (.vredSum f d a) s = none' ∧ exec (.vredMin f d a) s = none' ∧ exec (.vredMax f d a) s = none')
      ∧ (s.plain [a, b] [d] = true → row.owner = some i.slot → row.leaving = false →
        let n := (w.extractLsb' 0 11).toNat
        let fits := 1 ≤ n ∧ n ≤ 1024
        let off := (v.extractLsb' 5 7).toNat
        let len := (v.extractLsb' 12 8).toNat + 1
        let count := (w.extractLsb' 4 11).toNat
        let bytes := count * ((fmt3Fmt .fp32 f).width / 8)
        let red : FpOp → VecOp := fun o => .red o f (w.extractLsb' 0 4).toNat count d me.frm
        let last := (w.extractLsb' 0 4).toNat + 1
        (row.queue.length < 16 →
          (fits → exec (.vrun d a b) s = enters (.run n v d))
          ∧ (off + len ≤ 128 → w.toNat % 8 = 0 → w.toNat < 2 ^ 57 →
            exec (.vlds a b) s = enters (.lds w v) ∧ exec (.vsts a b) s = enters (.sts w v))
          ∧ (count ≠ 0 → bytes ≤ 1024 → ((rmode me.frm).isSome = true → exec (.vredSum f d a) s = enters (red .fadd))
            ∧ exec (.vredMin f d a) s = enters (red .fmin) ∧ exec (.vredMax f d a) s = enters (red .fmax))
          ∧ (last ≤ row.since.length → v ≠ 0 → exec (.vseq a b) s = .next
            (puts { item (row.since.drop (row.since.length - last)) with rep := 1, last := v.toNat } row.since)))
        ∧ (16 ≤ row.queue.length →
          (fits → exec (.vrun d a b) s = .next (s.waitData i))
          ∧ (off + len ≤ 128 → w.toNat % 8 = 0 → w.toNat < 2 ^ 57 →
            exec (.vlds a b) s = .next (s.waitData i) ∧ exec (.vsts a b) s = .next (s.waitData i))
          ∧ (count ≠ 0 → bytes ≤ 1024 → exec (.vredMin f d a) s = .next (s.waitData i)))
        ∧ (¬fits → exec (.vrun d a b) s = trap 0x13 1 w v)
        ∧ (128 < off + len → exec (.vlds a b) s = trap 0x13 1 w v ∧ exec (.vsts a b) s = trap 0x13 1 w v)
        ∧ (off + len ≤ 128 → w.toNat % 8 ≠ 0 → exec (.vlds a b) s = trap 0x20 3 w 0 ∧ exec (.vsts a b) s = trap 0x20 3 w 0)
        ∧ (count = 0 ∨ 1024 < bytes → exec (.vredSum f d a) s = trap 0x13 3 w 0 ∧ exec (.vredMin f d a) s = trap 0x13 3 w 0
          ∧ exec (.vredMax f d a) s = trap 0x13 3 w 0)
        ∧ (count ≠ 0 → bytes ≤ 1024 → rmode me.frm = none → exec (.vredSum f d a) s = trap 0x03 0 (0#61 ++ me.frm) 0)
        ∧ (row.since.length < last → exec (.vseq a b) s = trap 0x13 2 w v)
        ∧ (last ≤ row.since.length → v = 0 → exec (.vseq a b) s = .next s.advance)))
  ∧ (
    ∀ (s : State) (v : VecItem) (rest : List VecItem) (k : SlotNo) (n : Nat) (x : Word) (d : Reg) (o : FpOp) (f : Fmt3)
        (lane count : Nat) (rm : BitVec 3) (va xf : Word) (t : State),
      let i : SlotId := ⟨s.ev.die, s.ev.core, k⟩
      let row := (s.core i.die i.core).row
      let st := (s.slot i).lfsr
      let width := (fmt3Fmt .fp32 f).width / 8
      let elems := (List.range count).map fun j => row.elem lane (j * width) width
      let goesOn : State → State := fun u =>
        u.modCore i.die i.core fun c => { c with row := { c.row with queue := v.next.toList ++ c.row.queue.drop 1 } }
      let flags : State → FpFlags → BitVec 32 → State := fun u fl w =>
        u.modSlot i fun y => { y with lfsr := w, fflags := y.fflags ||| fl }
      (row.queue = [] ∨ row.owner = none → exec .vectorComplete s = .next s)
      ∧ ((v.idx + 1 < v.ops.length → v.next = some { v with idx := v.idx + 1, pos := 0 })
        ∧ (v.ops.length ≤ v.idx + 1 → v.rep < v.last → v.next = some { v with idx := 0, rep := v.rep + 1, pos := 0 })
        ∧ (v.ops.length ≤ v.idx + 1 → v.last ≤ v.rep → v.next = none))
      ∧ (row.queue = v :: rest → row.owner = some k → s.heldWaits i.die (.vector i) = false →
        (v.ops[v.idx]? = some (.run n x d) →
          let r := runElements s.tick x n (0, row, 0, st)
          exec .vectorComplete s
            = .next (goesOn ((flags (s.modCore i.die i.core fun c => { c with row := r.2.1 }) r.2.2.1 r.2.2.2).writeReg i d r.1)))
        ∧ (v.ops[v.idx]? = some (.red o f lane count d rm) →
          let r := reduce o (fmt3Fmt .fp32 f) ((rmode rm).getD .rne) (elems.drop 1) (elems.headD 0, 0, st)
          exec .vectorComplete s = .next (goesOn ((flags s r.2.1 r.2.2).writeReg i d r.1)))
        ∧ (v.ops[v.idx]? = some (.lds va xf) → vecLoad i v ((xferDoubles va xf v.rep).drop v.pos) s = .ok t →
          exec .vectorComplete s = .next (goesOn (t.unhold i.die (.vector i))))
        ∧ (v.ops[v.idx]? = some (.sts va xf) → vecStore i v ((xferDoubles va xf v.rep).drop v.pos) s = .ok t →
          exec .vectorComplete s = .next (goesOn (t.unhold i.die (.vector i))))
        ∧ (v.ops[v.idx]? = some (.cfg 0) → exec .vectorComplete s = .next (goesOn (s.modCore i.die i.core fun c =>
          { c with row := { c.row with owner := if rest = [] then none else some k } })))
        ∧ (v.ops[v.idx]? = some (.cfg va) → va ≠ 0 → vecConfig i v va (List.range 16) [] s = .ok t →
          exec .vectorComplete s = .next (goesOn (t.unhold i.die (.vector i))))))
  ∧ (
    ∀ (i : SlotId) (v : VecItem) (a : Word) (lane off pa : Nat) (key : Byte) (l : List (Word × Nat × Nat)) (ws : List Word) (s u : State),
      let row : State → RowUnit := fun z => (z.core i.die i.core).row
      (vecReach s i v false a = .ok (pa, key, u) → lane < 16 → off + 8 ≤ 1024 →
        ∃ t, vecLoad i v ((a, lane, off) :: l) s = vecLoad i v l t
          ∧ (row t).elem lane off 8 = u.ownDouble i key pa ∧ (row t).lanes = (row u).lanes ∧ (row t).cursors = (row u).cursors
          ∧ t.mem = u.mem ∧ t.slots = u.slots)
      ∧ (vecReach s i v true a = .ok (pa, key, u) → u.jnlOf i = false →
        let w := (row u).elem lane off 8
        vecStore i v ((a, lane, off) :: l) s = vecStore i v l (((u.plainWrite key pa 8 w).storeL1d i.die i.core pa 8 w).vecDouble i))
      ∧ (∃ t, vecConfig i v a [] ws s = .ok t ∧ (∀ k, k < 16 → tblGet 0 k (row t).lanes = ws.getD k 0) ∧ (row t).cursors = []
        ∧ (row t).slices = (row s).slices ∧ (row t).queue = (row s).queue ∧ t.mem = s.mem ∧ t.slots = s.slots))

/-- 03 R108, R109; 09 R305; 14 R379: MXLD reads its 8 KiB image at issue, and the image is in place when the products
under way are done; MXMUL waits for a load, traps OPERAND on another format, and otherwise queues one product and leaves
its slot in MX-WAIT; a product adds one pass to each of its 32 columns, after clearing them or before where the control
bits say so, stores them where asked, and its slot goes on. 03 R94, R96, R105, R106; 09 R306; 14 R379: QTW, DQTW and
BADDQ take their blocks in order: each block is read, quantised under FRM or dequantised, and stored, and the flags and
the LFSR pass from block to block; counts outside 1 to 4,096 trap OPERAND, reserved rounding modes RMRSV where they
quantise, and overlapping runs OPERAND. -/
def Obligations.MatrixAndTwill : Prop :=
  (
    (∀ (s : State) (mf : Mf3) (d a b : Reg) (ws : List Word) (bs : List Byte) (t : State),
      let i := s.cur
      let side := s.curCore.side
      let w := s.reg i a
      let ctl : BitVec 5 := (s.reg i b).extractLsb' 0 5
      let out := s.reg i d
      let blocks := if (mfFmt mf).isTwill then mfDepth mf / 16 else 0
      (s.plain [a] [] = true →
        (side.loading ≠ none → exec (.mxld mf a) s = .next (s.waitData i))
        ∧ (side.loading = none → s.ReadsRecord w 6 1024 ws t → exec (.mxld mf a) s =
          .next ((t.modCore i.die i.core fun c => { c with side := { c.side with loading := some (mf, ws.flatMap (bytesOfWord 8)) } }).advance)))
      ∧ (s.plain [a, b, d] [] = true →
        (side.loading ≠ none → exec (.mxmul mf d a b) s = .next (s.waitData i))
        ∧ (side.loading = none → mf ≠ side.fmt →
          exec (.mxmul mf d a b) s = .next (s.takeTrap i 0x13 0 (s.slot i).pc s.word w (s.reg i b)))
        ∧ (side.loading = none → mf = side.fmt → s.journaled = false → s.addressFault i w 6 = none →
          ctl.getLsbD 2 = false ∨ s.addressFault i out 6 = none → s.ReadsBytes w (192 + 2 * blocks) bs t →
          ∃ u j, exec (.mxmul mf d a b) s = .next u ∧ (u.core i.die i.core).side.queue = (t.core i.die i.core).side.queue ++ [j]
            ∧ j.slot = i.slot ∧ j.mf = mf ∧ j.row = bs.take 192 ∧ j.out = out ∧ j.ctl = ctl ∧ j.skip = []
            ∧ j.scales = (List.range blocks).map (fun n => bs.getD (193 + 2 * n) 0 ++ bs.getD (192 + 2 * n) 0)
            ∧ (u.slot i).state = .mx ∧ (u.slot i).pc = (t.slot i).pc ∧ u.mem = t.mem)))
    ∧ (∀ (s : State) (mf : Mf3) (image : List Byte) (j : MxJob) (rest : List MxJob),
      let d := s.ev.die
      let c := s.ev.core
      let m := (s.core d c).side
      let i : SlotId := ⟨d, c, j.slot⟩
      let key := 32 * (j.ctl.extractLsb' 0 2).toNat
      let col : Nat → BitVec 32 := fun k =>
        (passColumn (rowVals j.mf j.row j.scales) (columnVals j.mf m.image 0x1800 k)
          (if j.ctl.getLsbD 4 then 0 else tblGet 0 (key + k) m.acc)).1
      (m.loading = none → exec .mxldComplete s = .next s)
      ∧ (m.loading = some (mf, image) → m.queue ≠ [] → exec .mxldComplete s = .next s)
      ∧ (m.loading = some (mf, image) → m.queue = [] →
        ∃ t, exec .mxldComplete s = .next t ∧ (t.core d c).side.fmt = mf ∧ (t.core d c).side.loading = none
          ∧ (∀ k, tblGet 0 k (t.core d c).side.image = image.getD k 0) ∧ (t.core d c).side.acc = m.acc ∧ t.mem = s.mem
          ∧ t.slots = s.slots)
      ∧ (m.queue = [] → exec .mxProductComplete s = .next s)
      ∧ (m.queue = j :: rest → s.heldWaits d (.operand i) = false → s.jnlOf i = false →
        ∃ t, exec .mxProductComplete s = .next t ∧ (t.core d c).side.queue = rest ∧ (t.core d c).side.image = m.image
          ∧ (∀ k, k < 32 → tblGet 0 (key + k) (t.core d c).side.acc = if j.ctl.getLsbD 3 then 0 else col k)
          ∧ (∀ n, n < key ∨ key + 32 ≤ n → tblGet 0 n (t.core d c).side.acc = tblGet 0 n m.acc)
          ∧ (t.slot i).state = .ready ∧ (t.slot i).pc = (s.slot i).pc + 4 ∧ (t.slot i).regs = (s.slot i).regs ∧ t.mem = s.mem
          ∧ (j.ctl.getLsbD 2 = false → t.accs = s.accs)
          ∧ (j.ctl.getLsbD 2 = true → ∀ k, k < 16 → ∃ x ∈ t.accs, x.agent = .slot i (s.slot i).inc ∧ x.op = .store .d
            ∧ x.va = j.out + BitVec.ofNat 64 (8 * k) ∧ x.data = col (2 * k + 1) ++ col (2 * k) ∧ x.scope = .s))))
  ∧ (
    ∀ (s : State) (tw : Twf) (d a b : Reg) (m : RMode) (u x y t : Nat → State) (bs cs es fs : Nat → List Byte)
        (acc : Nat → FpFlags × BitVec 32), s.plain [a, b, d] [] = true →
      let i := s.cur
      let me := s.slot i
      let f := twfFmt tw
      let w := f.width
      let z := s.reg i d
      let p := s.reg i a
      let q := s.reg i b
      let n := (q.extractLsb' 0 16).toNat
      let trap : Byte → Byte → Word → Word → Result := fun cause sub v v' => .next (s.takeTrap i cause sub me.pc s.word v v')
      let vals : List Byte → List Byte → List FVal := fun l sc =>
        (unpackBlock w l).zipIdx.map fun e => twillVal f.mag (BitVec.ofNat 16 (bytesNat sc)) e.2 e.1
      let done : Result :=
        .next (((u n).modSlot (u n).cur fun g => { g with fflags := g.fflags ||| (acc n).1, lfsr := (acc n).2 }).advance)
      let puts : List FVal → Nat → Prop := fun vs j =>
        let r := quantise f.mag m (acc j).2 vs
        (t j).StoresParts z (blockParts z w n j r.1 r.2.1) (u (j + 1)) ∧ acc (j + 1) = ((acc j).1 ||| r.2.2.1, r.2.2.2)
      let meet := z ≠ p ∧ z.toNat < p.toNat + n * (2 * w + 2) ∧ p.toNat < z.toNat + n * (2 * w + 2)
      (n = 0 ∨ 4096 < n →
        exec (.qtw tw d a b) s = trap 0x13 5 p q ∧ exec (.dqtw tw d a b) s = trap 0x13 5 p q ∧ exec (.baddq tw d a b) s = trap 0x13 5 p q)
      ∧ (1 ≤ n → n ≤ 4096 → rmode me.frm = none →
        exec (.qtw tw d a b) s = trap 0x03 0 (0#61 ++ me.frm) 0 ∧ exec (.baddq tw d a b) s = trap 0x03 0 (0#61 ++ me.frm) 0)
      ∧ (1 ≤ n → n ≤ 4096 → rmode me.frm = some m → u 0 = s → acc 0 = (0, me.lfsr) →
        (s.addressFault i z 4 = none → s.addressFault i p 2 = none →
          (∀ j, j < n → (u j).ReadsBytes (p + BitVec.ofNat 64 (64 * j)) 64 (bs j) (t j)
            ∧ puts ((List.range 16).map fun k => decodeFp Fmt.fp32.layout (wordOfBytes (((bs j).drop (4 * k)).take 4))) j) →
          exec (.qtw tw d a b) s = done)
        ∧ (s.addressFault i z 4 = none → s.addressFault i p 4 = none →
          (meet → exec (.baddq tw d a b) s = trap 0x13 4 p q)
          ∧ (¬meet →
            (∀ j, j < n → ∃ t1 t2 t3, (u j).ReadsBytes (z + BitVec.ofNat 64 (2 * w * j)) (2 * w) (bs j) t1
              ∧ t1.ReadsBytes (z + BitVec.ofNat 64 (2 * w * n + 2 * j)) 2 (cs j) t2
              ∧ t2.ReadsBytes (p + BitVec.ofNat 64 (2 * w * j)) (2 * w) (es j) t3
              ∧ t3.ReadsBytes (p + BitVec.ofNat 64 (2 * w * n + 2 * j)) 2 (fs j) (t j)
              ∧ puts (List.zipWith sumVal (vals (bs j) (cs j)) (vals (es j) (fs j))) j) →
            exec (.baddq tw d a b) s = done)))
      ∧ (1 ≤ n → n ≤ 4096 → u 0 = s → s.addressFault i z 2 = none → s.addressFault i p 4 = none →
        (∀ j, j < n → (u j).ReadsBytes (p + BitVec.ofNat 64 (2 * w * j)) (2 * w) (bs j) (x j)
          ∧ (x j).ReadsBytes (p + BitVec.ofNat 64 (2 * w * n + 2 * j)) 2 (cs j) (y j)
          ∧ (y j).StoresParts z (cutParts z.toNat 64 (64 * j)
            ((vals (bs j) (cs j)).flatMap fun v => bytesOfWord 4 (v.exact.into Fmt.fp32.layout ⟨.rne, 0⟩).1)) (u (j + 1))) →
        exec (.dqtw tw d a b) s = .next (u n).advance))

/-- 08 R266; 09 R288; 14 R379: REPLY in an escape thread or a responder with nothing outstanding sends its answer once;
in another thread, and a second time, it traps. 02 R75; 08 R265, R266; 16 R413: an ESC node emits what stands next,
gives each token the next ticket and holds a data token until its thread starts; the thread starts on the lowest core of
the mask with a FREE user slot, with the payloads and the origin in g1 to g3; a reply to an open ticket waits to be
emitted, and another is dropped. -/
def Obligations.RepliesAndEscapes : Prop :=
  (
    ∀ (s : State) (a : Reg) (d : Die) (h : ShedNo) (n : BitVec 6) (k : BitVec 32) (c : Word), s.plain [a] [] = true →
      let i := s.cur
      let me := s.slot i
      let w := s.reg i a
      (me.role = .plain → exec (.reply a) s = .next (s.takeTrap i 0x0b 0 me.pc s.word w 0))
      ∧ (me.role = .escape d h n k true ∨ me.role = .responder c true →
        exec (.reply a) s = .next (s.takeTrap i 0x0b 1 me.pc s.word w 0))
      ∧ (me.role = .escape d h n k false → s.settled i = true → s.escSaved d h n k = false → s.escOrdered d h n = false →
        s.journaled = false → ∃ t, exec (.reply a) s = .next t
          ∧ t.net = s.net ++ [{ id := s.nextId, packet := .reply d h n k w i }] ∧ (t.slot i).role = .escape d h n k true
          ∧ (t.slot i).pc = me.pc + 4 ∧ t.mem = s.mem ∧ (∀ j, j ≠ i → t.slot j = s.slot j))
      ∧ (me.role = .responder c false → s.settled i = true → s.journaled = false → exec (.reply a) s = .next
        (((s.countAnswer c (some w) false).modSlot i fun y => { y with role := .responder c true }).advance))
      ∧ (me.role = .responder c false → s.settled i = false → exec (.reply a) s = .next (s.waitData i)))
  ∧ (
    (∀ (s : State) (t u : Target) (v : View) (l : Token) (k : BitVec 6) (e : Nat × Word), s.NodeTurn t u v →
      let n := v.esc
      let note : Token → Word := fun x => 0#59 ++ 1#1 ++ x.kind ++ x.ctx
      let emits : Fired :=
        { eat := [], node := v.node
          outs := let x := ticketToken (tblGet 0 e.1 n.vals) e.2; [⟨t, x⟩, ⟨u, x⟩]
          also := fun z => z.modEsc v.d v.h v.slot fun y =>
            { y with extra := y.extra.erase e, vals := tblDel e.1 y.vals, count2 := y.count2 + 1 } }
      (n.extra.find? (·.1 == n.count2.toNat) = some e → s.Fires (.escOrd k t u) v emits)
      ∧ (n.extra.head? = some e → s.Fires (.escUnord k t u) v emits)
      ∧ (n.extra = [] → n.toks = [] → v.op .l = some l →
        (l.kind = kindData → v.wired .r = false →
          let takes : Fired := { eat := [.l], room := false, node := v.node, also := fun z => z.modEsc v.d v.h v.slot fun y =>
            { y with count := y.count + 1, vals := tblSet 0 y.count.toNat (note l) y.vals, toks := [l] } }
          s.Fires (.escOrd k t u) v takes ∧ s.Fires (.escUnord k t u) v takes)
        ∧ (l.isControl = true →
          s.Fires (.escOrd k t u) v { eat := [.l], room := false, node := v.node, also := fun z => z.modEsc v.d v.h v.slot fun y =>
            { y with count := y.count + 1, vals := tblSet 0 y.count.toNat (note l) y.vals
                     extra := y.extra ++ [((y.count + 1 - 1).toNat, l.payload)] } }
          ∧ s.Fires (.escUnord k t u) v
            { eat := [.l], outs := [⟨t, l⟩, ⟨u, l⟩], node := v.node, also := fun z => z.modEsc v.d v.h v.slot fun y =>
              { y with count := y.count + 1, count2 := y.count2 + 1 } })))
    ∧ (∀ (s : State) (k : Nat) (l : Token) (c : CoreNo) (f : SlotNo),
      let d := s.ev.die
      let h := s.ev.shed
      let x := s.shed d h
      let n : NodeSt := tblGet {} (nodeIx s.ev.unit 0) x.nodes
      let w := x.const (k + 1)
      let cores := ((List.range 16).filter w.getLsbD).map fun j => skeinFacing h ++ BitVec.ofNat 4 j
      x.fires = true → x.stopped s.ev.unit = false → escConst x s.ev.unit = some k → n.toks = [l] → s.ev.unit < 64 →
      (cores.findSome? (fun b => (s.freeSlot d b).map fun g => (b, g)) = some (c, f) →
        let i : SlotId := ⟨d, c, f⟩
        ∃ t, exec .escapeStart s = .next t ∧ (t.slot i).state = .ready ∧ (t.slot i).pc = x.const k
          ∧ (t.slot i).inc = (s.slot i).inc + 1 ∧ (t.slot i).g 1 = l.payload ∧ (t.slot i).g 2 = 0
          ∧ (t.slot i).g 3 = 0#34 ++ d ++ 0#7 ++ h ++ 0#4 ++ l.kind ++ l.ctx
          ∧ (t.slot i).frm = w.extractLsb' 16 3 ∧ (t.slot i).wlim = w.extractLsb' 32 32 ∧ (t.slot i).dom = w.extractLsb' 20 3
          ∧ (t.slot i).jnl = w.getLsbD 19 ∧ (t.slot i).role = .escape d h (BitVec.ofNat 6 s.ev.unit) (n.count - 1) false
          ∧ (tblGet {} (nodeIx s.ev.unit 0) (t.shed d h).nodes : NodeSt).toks = [] ∧ (∀ j, j ≠ i → t.slot j = s.slot j)
          ∧ t.mem = s.mem)
      ∧ (cores.findSome? (fun b => (s.freeSlot d b).map fun g => (b, g)) = none → exec .escapeStart s = .next s))
    ∧ (∀ (s : State) (d : Die) (h : ShedNo) (n : BitVec 6) (t : BitVec 32) (w : Word) (i : SlotId),
      let x := s.shed d h
      let y : NodeSt := tblGet {} (nodeIx n.toNat 0) x.nodes
      s.packet s.ev.id = some (.reply d h n t w i) →
      ((escConst x n.toNat).isSome = true → tblGet 0 t.toNat y.vals ≠ 0 → exec .escReplyArrival s =
        .next ((s.dropPacket s.ev.id).modEsc d h n.toNat fun z => { z with extra := z.extra ++ [(t.toNat, w)] }))
      ∧ (tblGet 0 t.toNat y.vals = 0 → exec .escReplyArrival s = .next (s.dropPacket s.ev.id))))

/-- 02 R46; 09 R295; 16 R412, R416: LEASE with a count that the die can meet queues a request and parks its slot, and
returns all ones where none can; the arbiter grants the lowest-numbered free sheds and the lowest free loom number;
RELEASE frees the sheds and the number of a LEASED loom; a loom that is not the context's traps LOOMCMD. 02 R47, R48,
R78, R79; 09 R296, R297, R299; 14 R379; 16 R412: LOADCFG of a LEASED loom, DRAIN and CKPT of a RUNNING one and RESUME of
a SAVED one begin, and their slot waits; in another state each traps as its table says. -/
def Obligations.LeasesAndPeriods : Prop :=
  (
    (∀ (s : State) (pre : Bool) (lvl : BitVec 2) (d a b : Reg), s.journaled = false →
      let i := s.cur
      let die := i.die
      let w := s.reg i a
      let save := s.reg i b
      let n := (w.extractLsb' 0 10).toNat
      let l : LoomNo := w.extractLsb' 0 7
      (s.plain [a, b] [d] = true → pre = false ∨ s.addressFault i save 12 = none → w.getLsbD 63 = false →
        (s.releases = true → n ≠ 0 → n ≤ (s.usableSheds die).length →
          let r : LeaseReq :=
            { kind := .fresh, who := some (i, (s.slot i).inc), level := lvl, count := n, named := [], pre
              save := if pre then save else 0, ctx := s.curCore.ctx, dst := d }
          exec (.lease pre lvl d a b) s
            = .next ((s.modDie die fun x => { x with leases := x.leases ++ [r] }).enter i .parkLease .retry))
        ∧ (s.releases = true → n = 0 ∨ (s.usableSheds die).length < n →
          exec (.lease pre lvl d a b) s = .next (s.finish d (BitVec.allOnes 64)))
        ∧ (s.releases = false → exec (.lease pre lvl d a b) s = .next (s.waitData i)))
      ∧ (s.plain [a] [] = true →
        (s.mayCommand l = false → exec (.release a) s = .next (s.takeTrap i 0x41 0 (s.slot i).pc s.word w 0))
        ∧ (s.mayCommand l = true → (s.loom die l).failed = none →
          ((s.loom die l).state ≠ .leased → (s.loom die l).state ≠ .saved →
            exec (.release a) s = .next (s.takeTrap i 0x41 1 (s.slot i).pc s.word w 0))
          ∧ ((s.loom die l).state = .leased → (s.loom die l).settling = false →
            ∃ t, exec (.release a) s = .next t ∧ t.loom die l = {} ∧ (∀ h ∈ s.loomSheds die l, (t.shed die h).state = .free)
              ∧ (∀ h, h ∉ s.loomSheds die l → t.shed die h = s.shed die h) ∧ (t.slot i).pc = (s.slot i).pc + 4
              ∧ (t.slot i).state = .ready ∧ t.mem = s.mem))))
    ∧ (∀ (s : State) (r : LeaseReq) (i : SlotId) (inc : Byte) (l : LoomNo),
      let d := s.ev.die
      let hs := (s.freeSheds d).take r.count
      ((s.die d).headLease = none → exec .leaseGrant s = .next s)
      ∧ (s.unitUp d readySheds = false → exec .leaseGrant s = .next s)
      ∧ (s.unitUp d readySheds = true → (s.die d).headLease = some r → r.kind = .fresh → r.named = [] →
        ((s.freeSheds d).length < r.count → exec .leaseGrant s = .next s)
        ∧ (r.count ≤ (s.freeSheds d).length → s.freeLoom d = some l → r.who = some (i, inc) →
          ∃ t, exec .leaseGrant s = .next t ∧ (t.loom d l).state = .leased ∧ (t.loom d l).sheds = hs ∧ (t.loom d l).ctx = r.ctx
            ∧ (t.loom d l).level = r.level ∧ (t.loom d l).pre = r.pre ∧ (t.loom d l).save = r.save
            ∧ (∀ k (h : ShedNo), hs[k]? = some h →
              (t.shed d h).state = .leased ∧ (t.shed d h).loom = l ∧ (t.shed d h).rel = BitVec.ofNat 9 k ∧ (t.shed d h).ctx = r.ctx)
            ∧ (t.die d).leases = (s.die d).leases.erase r ∧ (t.slot i).state = .ready ∧ (t.slot i).pc = (s.slot i).pc + 4
            ∧ (r.dst < 32 → r.dst ≠ 0 → (t.slot i).g r.dst = 0#57 ++ l) ∧ t.mem = s.mem))))
  ∧ (
    ∀ (s : State) (a b : Reg), s.journaled = false →
      let i := s.cur
      let d := i.die
      let w := s.reg i a
      let va := s.reg i b
      let l : LoomNo := w.extractLsb' 0 7
      let x := s.loom d l
      let trap : Byte → Byte → Word → Word → Result := fun cause sub p q => .next (s.takeTrap i cause sub (s.slot i).pc s.word p q)
      let begins : Instr → LoomState → Prop := fun j st => ∃ t, exec j s = .next t
        ∧ (t.loom d l).state = st ∧ (t.loom d l).owner = some i ∧ (t.slot i).state = .waitData ∧ (t.slot i).await = .loom l
        ∧ (t.slot i).pc = (s.slot i).pc ∧ (t.slot i).regs = (s.slot i).regs ∧ t.mem = s.mem
      (isPriv i = false → exec (.loadcfgForce a b) s = trap 0x02 0 0 0)
      ∧ (s.plain [a, b] [] = true → s.mayCommand l = false → exec (.loadcfg a b) s = trap 0x41 0 w va)
      ∧ (s.plain [a] [] = true → s.mayCommand l = false →
        exec (.drain a) s = trap 0x41 0 w 0 ∧ exec (.ckpt a) s = trap 0x41 0 w 0 ∧ exec (.resume a) s = trap 0x41 0 w 0)
      ∧ (s.mayCommand l = true → x.failed = none →
        (s.plain [a, b] [] = true →
          (x.state ≠ .leased → exec (.loadcfg a b) s = trap 0x41 1 w va)
          ∧ (x.state = .leased → s.addressFault i va 6 = none → s.releases = true → s.lacksShed d l = false →
            x.settling = false →
            (begins (.loadcfg a b) .loading
              ∧ ∃ t, exec (.loadcfg a b) s = .next t ∧ (t.loom d l).record = va ∧ (t.loom d l).forced = false
                ∧ ∀ h ∈ s.loomSheds d l, (t.shed d h).state = .loading)
            ∧ (isPriv i = true → begins (.loadcfgForce a b) .loading
              ∧ ∃ t, exec (.loadcfgForce a b) s = .next t ∧ (t.loom d l).record = va ∧ (t.loom d l).forced = true)))
        ∧ (s.plain [a] [] = true →
          (x.state = .running → begins (.drain a) .draining
            ∧ ∃ t, exec (.drain a) s = .next t ∧ ∀ h ∈ s.loomSheds d l, (t.shed d h).state = .draining)
          ∧ (x.state = .saved → exec (.drain a) s = trap 0x0e 3 (0#57 ++ l) 0)
          ∧ (x.state ≠ .running → x.state ≠ .saved → exec (.drain a) s = trap 0x41 1 w 0)
          ∧ (x.pre = false → exec (.ckpt a) s = trap 0x0e 0 (0#57 ++ l) 0)
          ∧ (x.pre = true → x.state ≠ .running → exec (.ckpt a) s = trap 0x0e 1 (0#57 ++ l) 0)
          ∧ (x.pre = true → x.state = .running → begins (.ckpt a) .saving
            ∧ ∃ t, exec (.ckpt a) s = .next t ∧ ∀ h ∈ s.loomSheds d l, (t.shed d h).state = .draining)
          ∧ (x.state ≠ .saved → exec (.resume a) s = trap 0x0e 2 (0#57 ++ l) 0)
          ∧ (x.state = .saved → exec (.resume a) s = .next ((s.modDie d fun y => { y with leases := y.leases ++
            [{ kind := .resume l, who := some (i, (s.slot i).inc), level := x.level, count := x.count, ctx := x.ctx }] }).enter
              i .parkLease .retry)))))

/-- 02 R60; 09 R298; 16 R412: a stream command to a shed of a RUNNING loom enters its scoreboard behind the earlier
ones, and waits while it holds sixteen; a selector that names no shed, a port mask without exactly one port for SBIND,
and a reserved bit trap LOOMCMD, and a misaligned record MISALIGN. 02 R57 to R60; 09 R298; 16 R413: a stream command
takes effect behind the earlier ones of its port, queue or unit, once the streams it waits for are complete: SBIND binds
a descriptor or stops the port, SGO starts the bound stream at its first element, SBAR leaves the scoreboards of its
sheds together, TRIG replaces a trigger and TQ appends an entry. -/
def Obligations.StreamCommands : Prop :=
  (
    ∀ (s : State) (a b : Reg) (h : ShedNo), s.journaled = false → s.plain [a, b] [] = true →
      let i := s.cur
      let d := i.die
      let w := s.reg i a
      let v := s.reg i b
      let l : LoomNo := w.extractLsb' 9 7
      let x := s.loom d l
      let y := s.shed d h
      let m : BitVec 8 := w.extractLsb' 16 8
      let c : BitVec 2 := w.extractLsb' 24 2
      let trap : Byte → Byte → Word → Word → Result := fun cause sub p q => .next (s.takeTrap i cause sub (s.slot i).pc s.word p q)
      let enters : StreamCmd → Result := fun cmd =>
        let q : QueuedCmd := { id := s.nextId, cmd, src := (i, (s.slot i).inc), ctx := s.curCore.ctx }
        .next ((({ s with nextId := s.nextId + 1 } : State).modShed d h fun z => { z with cmds := z.cmds ++ [q] }).advance)
      (s.mayCommand l = false → exec (.sbind a b) s = trap 0x41 0 w v ∧ exec (.sgo a) s = trap 0x41 0 w 0
        ∧ exec (.sbar a) s = trap 0x41 0 w 0 ∧ exec (.trig a b) s = trap 0x41 0 w v ∧ exec (.tq a b) s = trap 0x41 0 w v)
      ∧ (s.mayCommand l = true → x.failed = none →
        (x.state ≠ .running → exec (.sbind a b) s = trap 0x41 1 w v ∧ exec (.sgo a) s = trap 0x41 1 w 0
          ∧ exec (.sbar a) s = trap 0x41 1 w 0 ∧ exec (.trig a b) s = trap 0x41 1 w v ∧ exec (.tq a b) s = trap 0x41 1 w v)
        ∧ (x.state = .running →
          (x.sheds[(w.extractLsb' 0 9).toNat]? = none → exec (.sbind a b) s = trap 0x41 2 w v ∧ exec (.sgo a) s = trap 0x41 2 w 0
            ∧ exec (.trig a b) s = trap 0x41 2 w v ∧ exec (.tq a b) s = trap 0x41 2 w v)
          ∧ (x.sheds[(w.extractLsb' 0 9).toNat]? = some h →
            (maskPorts m = [] → exec (.sbind a b) s = trap 0x41 2 w v)
            ∧ (2 ^ 28 ≤ w.toNat → exec (.trig a b) s = trap 0x41 3 w v ∧ exec (.tq a b) s = trap 0x41 3 w v)
            ∧ (w.toNat < 2 ^ 28 → y.cmds.length < 16 →
              (∀ p, maskPorts m = [p] → y.memoryPort p = false →
                (s.addressFault i v 6 = none → exec (.sbind a b) s = enters (.sbind p v))
                ∧ (v.toNat % 64 ≠ 0 → exec (.sbind a b) s = trap 0x20 6 v 0))
              ∧ ((maskPorts m).any y.memoryPort = false →
                (c.toNat < x.nctx → exec (.sgo a) s = enters (.sgo m c))
                ∧ (x.nctx ≤ c.toNat → exec (.sgo a) s = trap 0x41 3 w 0)
                ∧ (w.getLsbD 26 = false → exec (.sbar a) s = enters (.sbar m)))
              ∧ (s.addressFault i v 5 = none → exec (.trig a b) s = enters (.trig v))
              ∧ exec (.tq a b) s = enters (.tq (w.getLsbD 27) v))
            ∧ (w.toNat < 2 ^ 28 → 16 ≤ y.cmds.length → exec (.tq a b) s = .next (s.waitData i))))))
  ∧ (
    ∀ (s : State) (p : Nat) (va : Word) (w : List Word) (t : State) (m : BitVec 8) (c : BitVec 2) (q : Bool) (e : QueuedCmd),
      let d := s.ev.die
      let h := s.ev.shed
      let id := s.ev.id
      let x := s.shed d h
      let drops : State → State := fun z => z.dropCmd d h id
      (s.boardCmd = none → exec .sbindPerform s = .next s ∧ exec .sgoPerform s = .next s ∧ exec .sbarPerform s = .next s
        ∧ exec .trigPerform s = .next s ∧ exec .tqPerform s = .next s)
      ∧ (s.boardCmd = some (.sbind p va) →
        (x.portBusy id p = true ∨ x.streamDone p = false → exec .sbindPerform s = .next s)
        ∧ (x.portBusy id p = false → x.streamDone p = true → x.streamStopped p = false →
          (s.boardRecord d h p va 8 = .ok (none, t) → exec .sbindPerform s = .next ((drops t).stopItem d h (66 + p) 5))
          ∧ (s.boardRecord d h p va 8 = .ok (some w, t) → Descriptor.ok w = true → (x.port p).en = true →
            (x.port p).out = Descriptor.writes w → exec .sbindPerform s =
              .next (((drops t).modStream d h p fun y => { y with desc := w, ended := false }).noteHull d x.loom
                (Descriptor.writes w) (descHull w)))
          ∧ (s.boardRecord d h p va 8 = .ok (some w, t) → Descriptor.ok w = false →
            exec .sbindPerform s = .next ((drops t).stopItem d h (66 + p) 5))))
      ∧ (s.boardCmd = some (.sgo m c) → let n := s.ev.unit
        n < 8 → m = 1#8 <<< n → x.portBusy id n = false → x.streamDone n = true → x.streamStopped n = false →
        (x.stream n).mayTake c = true →
        ((x.stream n).desc ≠ [] → ∃ u, exec .sgoPerform s = .next u ∧ ((u.shed d h).stream n).running = true
          ∧ ((u.shed d h).stream n).ctx = c ∧ ((u.shed d h).stream n).pos = 0 ∧ ((u.shed d h).stream n).desc = (x.stream n).desc
          ∧ (u.shed d h).cmds = x.cmds.filter (·.id != id) ∧ u.mem = s.mem ∧ u.slots = s.slots)
        ∧ ((x.stream n).desc = [] → exec .sgoPerform s = .next ((drops s).stopItem d h (66 + n) 9)))
      ∧ (s.boardCmd = some (.sbar m) → let sheds := (s.loomOf d h).filter fun g => ((s.shed d g).cmd id).isSome
        ((∀ g ∈ sheds, (s.shed d g).barDone id m = true) →
          exec .sbarPerform s = .next (sheds.foldl (fun z g => z.dropCmd d g id) s))
        ∧ ((∃ g ∈ sheds, (s.shed d g).barDone id m = false) → exec .sbarPerform s = .next s))
      ∧ (s.boardCmd = some (.trig va) → x.before id = [] → x.cmd id = some e → e.words = [] →
        s.boardRecord d h 8 va 4 = .ok (some w, t) → triggerBad w = false →
        let g := triggerOf w
        let u := ((w.getD 0 0).extractLsb' 0 3).toNat
        (tblGet {} u x.trigs).due = false → (tblGet {} u x.trigs).heldPush = false → g.push = false →
        exec .trigPerform s = .next ((drops t).modShed d h fun y => { y with trigs := tblSet {} u g y.trigs }))
      ∧ (s.boardCmd = some (.trig va) → x.before id = [] → x.cmd id = some e → e.words = [] →
        s.boardRecord d h 8 va 4 = .ok (some w, t) → triggerBad w = true →
        exec .trigPerform s = .next ((drops t).nodeFault d h (66 + (triggerOf w).port.toNat) 6))
      ∧ (s.boardCmd = some (.tq q va) → x.before id = [] → x.stopped (queueItem q) = false → va.getLsbD 28 = false →
        let row := (va.extractLsb' 0 4).toNat
        let b : BitVec 2 := va.extractLsb' 4 2
        let passes := (va.extractLsb' 10 16).toNat
        let mac := (va.extractLsb' 6 4).toNat
        let macs := x.queueMacros q mac
        passes ≠ 0 → row < x.rowSlots → b.toNat < x.nctx → mac ≤ 8 → macs ≠ 0 → (x.queue q).entries.length < 8 →
        ∃ u, exec .tqPerform s = .next u ∧ ((u.shed d h).queue q).entries = (x.queue q).entries ++ [⟨macs, row, b, passes⟩]
          ∧ ((u.shed d h).queue q).prio = (if va.getLsbD 26 then va.getLsbD 27 else (x.queue q).prio)
          ∧ (u.shed d h).queue (!q) = x.queue (!q) ∧ u.mem = s.mem ∧ u.slots = s.slots))

/-- 05 R163; 09 R310; 15 R402: CPARM arms a queue and takes back the kicks its tokens have made, CPDISARM disarms it and
keeps its tokens, HQPUSH puts one token behind the others and waits while sixteen are there; the first token of an armed
queue becomes one kick, or one message of LEN 1; an accepted kick stands behind the others of its hart, and a store to
BHKICK waits at the register while sixteen stand there. -/
def Obligations.QueuesAndKicks : Prop :=
  (∀ (s : State) (a b : Reg), s.journaled = false → s.plain [a, b] [] = true →
    let i := s.cur
    let d := i.die
    let w := s.reg i a
    let v := s.reg i b
    let q : HqNo := w.extractLsb' 0 12
    let p : HqNo := v.extractLsb' 0 12
    (s.addressFault i w 6 = none →
      (s.releases = true → ∃ t : State, exec (.cparm a b) s = .next t.advance
        ∧ t.hq d p = { tokens := (s.hq d p).tokens, armed := true, mb := v.getLsbD 20, mbox := v.extractLsb' 21 5
                       hart := v.extractLsb' 12 6, tuse := v.extractLsb' 18 2, tmpl := w, core := i.core, priv := isPriv i
                       heldUntil := none }
        ∧ (∀ r, r ≠ p → t.hq d r = s.hq d r) ∧ t.slots = s.slots ∧ t.mem = s.mem
        ∧ ((s.die d).held = [] → ∀ n, (t.hart d n).queue = (s.hart d n).queue.filter (·.hq ≠ some p)))
      ∧ (s.releases = false → exec (.cparm a b) s = .next (s.waitData i)))
    ∧ (w.toNat % 64 ≠ 0 → exec (.cparm a b) s = .next (s.takeTrap i 0x20 6 (s.slot i).pc s.word w 0))
    ∧ (∃ t : State, exec (.cpdisarm a) s = .next t.advance ∧ t.hq d q = { tokens := (s.hq d q).tokens }
      ∧ (∀ r, r ≠ q → t.hq d r = s.hq d r) ∧ t.slots = s.slots ∧ t.mem = s.mem)
    ∧ (s.releases = true → s.unitUp d readyHq = true → (s.hq d q).tokens.length < 16 → exec (.hqpush a b) s =
      .next ((s.modHq d q fun x => { x with tokens := x.tokens ++ [v] }).advance))
    ∧ (s.releases = false ∨ s.unitUp d readyHq = false ∨ 16 ≤ (s.hq d q).tokens.length → exec (.hqpush a b) s = .next (s.waitData i)))
  ∧ (∀ (s : State) (v : Word) (rest : List Word) (k : Kick) (ks : List Kick),
    let d := s.ev.die
    let q : HqNo := BitVec.ofNat 12 s.ev.unit
    let n : HartNo := BitVec.ofNat 6 s.ev.unit
    let x := s.hq d q
    let y := s.hart d n
    let i : SlotId := ⟨d, s.ev.core, s.ev.slot⟩
    (x.armed = false → exec .hqTokenFire s = .next s)
    ∧ (x.armed = true → x.mb = false → x.tokens[s.firedTokens d q]? = some v →
      ((s.hart d x.hart).room = true → ∃ t e, exec .hqTokenFire s = .next t
        ∧ (t.hart d x.hart).queue = (s.hart d x.hart).queue ++ [e] ∧ e.tmpl = x.tmpl ∧ e.token = v ∧ e.hq = some q
        ∧ e.core = x.core ∧ e.tuse = x.tuse ∧ t.hqs = s.hqs ∧ t.slots = s.slots ∧ t.mem = s.mem)
      ∧ ((s.hart d x.hart).room = false → exec .hqTokenFire s = .next s))
    ∧ (x.armed = true → x.mb = true → x.tokens = v :: rest → x.heldUntil = none → s.firedTokens d q = 0 →
      (s.core d x.core).retired = false → s.boxRoom d x.core x.mbox.toNat = true →
      exec .hqTokenFire s = .next ((s.setHq d q { x with tokens := rest, heldUntil := none }).deliver d x.core x.mbox.toNat [v] .d))
    ∧ (y.room = true → s.ev.val.getLsbD 3 = false → ∃ t e, exec .bhkick s = .next t
      ∧ (t.hart d n).queue = y.queue ++ [e] ∧ e.tmpl = s.ev.val &&& 0x01ffffffffffffc0 ∧ e.slot = some (i, (s.slot i).inc)
      ∧ e.priv = isPriv i ∧ e.hq = none ∧ t.slots = s.slots ∧ t.mem = s.mem)
    ∧ (y.room = true → (s.ev.val.extractLsb' 0 4) = 8 → ((s.slot i).stream 0).bound = false →
      ∃ t, exec .bhkick s = .next t ∧ (t.slot i).stream 0 = { bound := true })
    ∧ (y.retired = false → y.room = false → ∃ t, exec .bhkick s = .next t ∧ (t.hart d n).queue = y.queue
      ∧ (t.hart d n).held.length = y.held.length + 1 ∧ t.slots = s.slots ∧ t.mem = s.mem)
    ∧ (y.held = [] → exec .kickHeldPerform s = .next s)
    ∧ (y.held = k :: ks → k.bind = none → k.access = none → y.queue.length < 16 →
      ∃ t, exec .kickHeldPerform s = .next t ∧ (t.hart d n).held = ks
        ∧ (t.hart d n).queue = y.queue ++ [{ k with busy := false }] ∧ t.slots = s.slots)
    ∧ (y.held = k :: ks → 16 ≤ y.queue.length → exec .kickHeldPerform s = .next s))

/-- 02 R52, R53; 08 R239; 16 R413: a node whose shed does not fire, or that has stopped, has no turn; one that has
tokens to deliver delivers what it can and does not fire; a firing empties the operand ports it consumes and its one
token reaches the operand port it targets. -/
def Obligations.NodesDeliverBeforeFiring : Prop :=
  (∀ (s : State) (t u : Target) (i : Instr) (k : BitVec 6) (m : BitVec 3) (mf : Mf3) (q fb : Bool) (f : Fmt3) (sc : Scope)
      (lo : LoadOp) (so : StoreOp) (fo : FeOp) (uo : UpdOp) (eo : ElemOp),
    let n := s.node
    let x := s.shed n.die n.shed
    let p := s.pump n.die n.shed n.slot.toNat
    i ∈ [.steerT t u, .steerF t u, .mergeP t u, .mergeA t u, .carry k t u, .inv t u, .const k t u, .constC k t u, .gate t u,
      .rowctlStrip t u, .rowctlSplit t u, .rowctlEor t u, .rowctlEog t u, .rowctlEos t u, .widen sc t u, .mma q mf m t u,
      .bload mf m t u, .accRd m t u, .accRdclr m t u, .accClr m t u, .rmax fb f t u, .escOrd k t u, .escUnord k t u,
      .delay k t u, .race k t u, .frame k t u, .unframe k t u, .upd uo t u, .cntD t u, .cntR t u, .lredSum m t u,
      .lredMax m t u, .lredMin m t u, .scale t u, .explk k t u, .elementwiseNode eo t u, .graphLoadNode lo t u,
      .graphStoreNode so t u, .graphFeNode sc fo t u] →
    (x.fires = false ∨ x.stopped n.slot.toNat = true → exec i s = .next s)
    ∧ (x.fires = true → x.stopped n.slot.toNat = false → (p.shed n.die n.shed).out n.slot.toNat ≠ [] → exec i s = .next p))
  ∧ (∀ (v : View) (eat : List NodePort) (k : Token) (node : NodeSt) (n : BitVec 6) (dst : NodePort),
    v.x = v.s.shed v.d v.h → v.x.out v.slot = [] → k.ctx = v.ctx → v.c < 4 → v.slot < 64 → dst ≠ .s →
    v.x.operand n.toNat dst v.c = none →
    let t := State.apply v { eat, outs := [⟨.node n dst, k⟩], node }
    (t.shed v.d v.h).operand n.toNat dst v.c = some k
    ∧ (∀ q ∈ eat, q ≠ dst ∨ n.toNat ≠ v.slot → (t.shed v.d v.h).operand v.slot q v.c = none)
    ∧ tblGet {} (nodeIx v.slot v.c) (t.shed v.d v.h).nodes = node ∧ t.mem = v.s.mem ∧ t.slots = v.s.slots)

/-- 08 R244 to R251: STEER, MERGE, CARRY, INV, CONST, GATE, ROWCTL and WIDEN on the tokens at their ports. 08 R264,
R269: CNT emits its count before the token that ends a group; RACE forwards and numbers the first n data tokens of a
row, discards the rest, and recounts the shape tokens. -/
def Obligations.SteeringAndCountingNodes : Prop :=
  (
    ∀ (s : State) (t u : Target) (v : View) (l r q : Token) (k : BitVec 6) (sc : Scope), s.NodeTurn t u v →
      let fires : Instr → List NodePort → List OutTok → NodeSt → Prop := fun i eat outs node => s.Fires i v { eat, outs, node }
      let sends : Instr → List NodePort → Token → Prop := fun i eat x => fires i eat [⟨t, x⟩, ⟨u, x⟩] v.node
      let st := v.node
      (v.op .l = some l → l.isData = true → v.op .p = some q → q.isData = true →
        (q.payload ≠ 0 → sends (.steerT t u) [.l, .p] l ∧ fires (.steerF t u) [.l, .p] [] st)
        ∧ (q.payload = 0 → fires (.steerT t u) [.l, .p] [] st ∧ sends (.steerF t u) [.l, .p] l))
      ∧ (v.op .l = some l → l.isScale = true → sends (.steerT t u) [.l] l ∧ sends (.steerF t u) [.l] l ∧ sends (.gate t u) [.l] l)
      ∧ (v.op .l = some l → l.isControl = true → v.op .r = none →
        sends (.steerT t u) [.l] l ∧ sends (.steerF t u) [.l] l ∧ sends (.gate t u) [.l] l ∧ sends (.const k t u) [.l] l
        ∧ sends (.constC k t u) [.l] l)
      ∧ (v.op .p = some q →
        (q.payload ≠ 0 → v.op .l = some l → sends (.mergeP t u) [.p, .l] l)
        ∧ (q.payload = 0 → v.op .r = some r → sends (.mergeP t u) [.p, .r] r))
      ∧ (v.op .l = some l → v.op .r = none → sends (.mergeA t u) [.l] l)
      ∧ (v.op .l = none → v.op .r = some r → sends (.mergeA t u) [.r] r)
      ∧ (v.op .l = some l → v.op .r = some r →
        ((v.stamp .r).ult (v.stamp .l) = true → sends (.mergeA t u) [.r] r)
        ∧ ((v.stamp .r).ult (v.stamp .l) = false → sends (.mergeA t u) [.l] l))
      ∧ (st.primed = true → v.op .l = some l →
        (l.endsGroup = false → sends (.carry k t u) [.l] l)
        ∧ (l.endsGroup = true → fires (.carry k t u) [.l] [⟨t, l⟩, ⟨u, l⟩] { st with primed := false }))
      ∧ (st.primed = false → v.c = 0 → 0 < v.x.nctx → fires (.carry k t u) []
        [⟨t, dataTok v.ctx (v.x.const k.toNat)⟩, ⟨u, dataTok v.ctx (v.x.const k.toNat)⟩] { st with primed := true, count := 1 })
      ∧ (v.op .r = some r → r.isData = true →
        s.Fires (.inv t u) v { eat := [.r], room := false, node := { st with latch := some r } })
      ∧ (v.op .r = none → v.op .l = some l → l.isData = true → st.latch = some q →
        sends (.inv t u) [.l] (dataTok v.ctx q.payload))
      ∧ (v.op .r = none → v.op .l = some l → l.endsGroup = true →
        fires (.inv t u) [.l] [⟨t, l⟩, ⟨u, l⟩] { st with latch := none })
      ∧ (v.op .l = some l → l.isData = true →
        sends (.const k t u) [.l] (dataTok v.ctx (v.x.const k.toNat))
        ∧ sends (.constC k t u) [.l] { payload := v.x.const k.toNat, kind := kindControl, ctx := v.ctx }
        ∧ (v.op .r = some r → r.isData = true → sends (.gate t u) [.l, .r] l)
        ∧ sends (.rowctlStrip t u) [.l] l ∧ fires (.rowctlSplit t u) [.l] [⟨t, l⟩] st)
      ∧ (v.op .l = some l → l.isControl = true →
        s.Fires (.rowctlStrip t u) v { eat := [.l], room := false, node := st }
        ∧ fires (.rowctlSplit t u) [.l] [⟨u, l⟩] st)
      ∧ (v.op .l = some l → v.op .r = none →
        let n : BitVec 32 := if l.isControl then 0 else if l.isScale then st.count else st.count + 1
        fires (.rowctlEor t u) [.l] [⟨t, l⟩, ⟨u, l⟩] { st with count := n }
        ∧ fires (.rowctlEog t u) [.l] [⟨t, l⟩, ⟨u, l⟩] { st with count := n }
        ∧ fires (.rowctlEos t u) [.l] [⟨t, l⟩, ⟨u, l⟩] { st with count := n })
      ∧ (v.op .l = none → v.op .r = some r →
        let shape : BitVec 4 → List OutTok := fun c => [⟨t, shapeTok v.ctx c st.count⟩, ⟨u, shapeTok v.ctx c st.count⟩]
        fires (.rowctlEor t u) [.r] (shape 1) { st with count := 0 } ∧ fires (.rowctlEog t u) [.r] (shape 2) { st with count := 0 }
        ∧ fires (.rowctlEos t u) [.r] (shape 3) { st with count := 0 })
      ∧ (v.op .l = some l → sends (.widen sc t u) [.l] l))
  ∧ (
    ∀ (s : State) (t u : Target) (v : View) (l : Token) (n : BitVec 6), s.NodeTurn t u v → v.op .l = some l →
      let st := v.node
      let c := tblGet 0 0 st.vals
      let fires : Instr → List OutTok → NodeSt → Prop := fun i outs node => s.Fires i v { eat := [.l], outs, node }
      let counts : Nat → NodeSt := fun k => { st with vals := tblSet 0 0 (c + BitVec.ofNat 64 k) st.vals }
      let both : Token → List OutTok := fun x => [⟨t, x⟩, ⟨u, x⟩]
      (l.endsGroup = true →
        fires (.cntD t u) [⟨u, dataTok v.ctx c⟩, ⟨t, l⟩] { st with vals := [] }
        ∧ fires (.cntR t u) [⟨u, dataTok v.ctx c⟩, ⟨t, l⟩] { st with vals := [] })
      ∧ (l.endsGroup = false →
        fires (.cntD t u) [⟨t, l⟩] (counts (if l.isData then 1 else 0))
        ∧ fires (.cntR t u) [⟨t, l⟩] (counts (if l.isEor then 1 else 0)))
      ∧ (l.isData = true →
        (st.count.toNat < n.toNat → fires (.race n t u)
          (both { l with payload := 0#2 ++ l.payload.extractLsb' 56 6 ++ st.count.extractLsb' 0 8 ++ 0#4 ++ l.payload.extractLsb' 0 44 })
          { counts 1 with count := st.count + 1, count2 := st.count2 + 1 })
        ∧ (n.toNat ≤ st.count.toNat → fires (.race n t u) [] st))
      ∧ (l.isEor = true → fires (.race n t u) (both (shapeTok v.ctx 1 st.count)) { st with count := 0 })
      ∧ (l.isEog = true → fires (.race n t u) (both (shapeTok v.ctx 2 st.count2)) { st with count := 0, count2 := 0 })
      ∧ (l.isEos = true →
        fires (.race n t u) (both (shapeTok v.ctx 3 (c.extractLsb' 0 32))) { st with count := 0, count2 := 0, vals := [] }))

/-- 08 R240 to R243; 03 R107: an element-wise node of a PE that is not twill fires on data at its wired ports, sends the
result of its operation to both targets and ORs its flags into SFFLAGS; in a twill PE the sixteenth result sends a
block; a control token goes on when no block is pending; an SFU operation asks the SFU; a scale token is latched in a
twill PE and without effect in another. -/
def Obligations.ElementwiseNodes : Prop :=
  ∀ (s : State) (t u : Target) (v : View) (l : Token) (o : ElemOp) (fn : SfuOp) (f : Fmt3) (w : Word) (fl : FpFlags) (x : FVal),
    s.NodeTurn t u v → v.op .l = some l →
    let st := if elemRounds o && !elemBlocks v.fmt o then nextLfsr v.rm v.lfsr else v.lfsr
    let others := (elemPorts o).filter v.wired
    let r := elemResult v.fmt (roundingOf v.rm st) o (v.operand .l) (v.operand .r) (v.operand .p)
    let ready := l.isData = true ∧ v.wired .s = false ∧ ∀ q ∈ others, ∃ k, v.op q = some k ∧ k.isData = true
    (ready → (∀ g h, o ≠ .sfu g h) →
      (r = .bits w fl → s.Fires (.elementwiseNode o t u) v
        { eat := .l :: others, outs := [⟨t, dataTok v.ctx w⟩, ⟨u, dataTok v.ctx w⟩], node := v.node, also := v.mark fl st })
      ∧ (r = .twill x fl → v.node.pend.length < 15 → s.Fires (.elementwiseNode o t u) v
        { eat := .l :: others, node := { v.node with pend := v.node.pend ++ [x] }, also := v.mark fl st })
      ∧ (r = .twill x fl → v.node.pend.length = 15 →
        let b := v.block v.lfsr (v.node.pend ++ [x])
        s.Fires (.elementwiseNode o t u) v
          { eat := .l :: others, outs := b.1, node := { v.node with pend := [] }, also := v.mark (fl ||| b.2.1) b.2.2 }))
    ∧ (l.isData = true → v.wired .s = false → v.sfuWaits = false → s.Fires (.elementwiseNode (.sfu fn f) t u) v
      { eat := [.l], node := v.node, also := fun z => z.askSfu v.d v.h
          { agent := .node v.d v.h (BitVec.ofNat 6 v.slot) v.ctx, fn, fmt := f, x := (v.operand .l).bits, dst := 0 } })
    ∧ (l.isControl = true → v.op .r = none → v.sfuOpen = false → v.node.pend = [] → s.Fires (.elementwiseNode o t u) v
      { eat := [.l], outs := [⟨t, l⟩, ⟨u, l⟩]
        node := { v.node with count := if v.wired .r then v.node.count + 1 else v.node.count } })
    ∧ (l.isScale = true → v.fmt.isTwill = false →
      s.Fires (.elementwiseNode o t u) v { eat := [.l], room := false, node := v.node })
    ∧ (l.isScale = true → v.fmt.isTwill = true → s.Fires (.elementwiseNode o t u) v
      { eat := [.l], room := false, node := v.node, also := fun z => z.modShed v.d v.h fun y => y.latchScale v.slot .l v.c l.payload })

/-- 08 R253 to R263: BLOAD writes its macro's image in order and ends its load with the count of doubles; MMA gathers rows of K
elements with their scales, padded where a row ends early; ACC sends or clears the columns of a row-slot, LRED reduces them and SCALE
multiplies them, each behind a pass into the row-slot; RMAX keeps running maxima and at the end of a row sends the new maximum and
the correction; control tokens go on or are consumed as each rule says; a row-slot beyond the context's, a full image and a 129th row
stop the node. -/
def Obligations.MacroNodes : Prop :=
  ∀ (s : State) (t u : Target) (v : View) (l r : Token) (q fb : Bool) (mf : Mf3) (m : BitVec 3) (f : Fmt3), s.NodeTurn t u v →
    v.op .l = some l →
    let st := v.node
    let d := v.d
    let h := v.h
    let both : Token → List OutTok := fun x => [⟨t, x⟩, ⟨u, x⟩]
    let y := v.x.macroAt m.toNat
    let cur := st.count.toNat
    let key := fifoKey q v.c
    let row := tblGet ([], []) key v.x.building
    let full := row.1 ++ [l.payload]
    let scale := (st.latch.map (·.payload)).getD (Config.freeWord v.s.tick)
    let scales := if (mfFmt mf).isTwill && row.1.length % 16 == 0 then row.2 ++ [scale] else row.2
    let slot := (l.payload.extractLsb' 0 4).toNat
    let acc := v.x.accKey v.c slot
    let free : Nat → Prop := fun k => ∀ p, (v.x.macroAt k).pass = some p → ¬(p.ctx.toNat = v.c ∧ p.row = slot)
    let cols := (List.range 128).map fun c => (tblGet 0 (acc + c) y.acc).zeroExtend 64
    let red : FpOp → Word × FpFlags := fun o => (cols.drop 1).foldl (fun p w =>
      let e := fpOp .fp32 ⟨.rne, 0⟩ o p.1 w
      (e.1, p.2 ||| e.2)) (cols.headD 0, 0)
    let ends : Instr → List NodePort → List OutTok → (State → State) → Prop := fun i eat outs also => s.Fires i v { eat, outs, node := st, also }
    let eats : Instr → NodeSt → (State → State) → Prop := fun i node also => s.Fires i v { eat := [.l], room := false, node, also }
    let stops : Instr → List NodePort → Byte → Prop := fun i eat sub => s.Fires i v
      { eat, room := false, node := st, also := fun z => z.stopItem d h v.slot sub }
    let accs : List Instr := [.accRd m t u, .accRdclr m t u, .accClr m t u, .lredSum m t u, .lredMax m t u, .lredMin m t u]
    let clears : State → State := fun z => z.modShed d h fun x => x.modMacro m.toNat fun p => { p with acc := clearColumns acc 128 p.acc }
    (l.isData = true →
      (0x8000 ≤ cur → stops (.bload mf m t u) [.l] 1)
      ∧ (cur < 0x8000 → st.primed = true ∨ y.pass = none →
        eats (.bload mf m t u) { st with primed := true, count := st.count + 8 } fun z => z.modShed d h fun x => x.modMacro m.toNat fun p =>
          { p with loads := if st.primed then p.loads else p.loads + 1, image := imageWrite cur (bytesOfWord 8 l.payload) p.image })
      ∧ (row.1 ≠ [] ∨ (tblGet [] key v.x.rows).length < 2 →
        (full.length ≠ mfDepth mf → eats (.mma q mf m t u) st fun z => z.modShed d h fun x =>
          { x with building := tblSet ([], []) key (full, scales) x.building })
        ∧ (full.length = mfDepth mf → eats (.mma q mf m t u) st fun z => z.modShed d h fun x => x.pushRow key (full, scales)))
      ∧ (v.x.rowSlots ≤ slot → ∀ i ∈ accs, stops i [.l] 2)
      ∧ (slot < v.x.rowSlots → free m.toNat →
        ends (.accClr m t u) [.l] (both (orderTok v.ctx l.payload)) clears
        ∧ (v.twill = false →
          let g := v.columnToks cols [] 0 v.lfsr
          let outs := g.1 ++ both (shapeTok v.ctx 1 128)
          ends (.accRd m t u) [.l] outs (fun z => v.mark g.2.1 g.2.2 z)
          ∧ ends (.accRdclr m t u) [.l] outs (fun z => clears (v.mark g.2.1 g.2.2 z))
          ∧ (v.fmt = .fp32 → g = (cols.flatMap fun w => both (dataTok v.ctx w), 0, v.lfsr)))
        ∧ (v.twill = true →
          let g := v.columnBlocks 8 (cols.map (decodeFp Fmt.fp32.layout)) [] 0 v.lfsr
          let outs := g.1 ++ both (shapeTok v.ctx 1 128)
          ends (.accRd m t u) [.l] outs (fun z => v.mark g.2.1 g.2.2 z)
          ∧ ends (.accRdclr m t u) [.l] outs (fun z => clears (v.mark g.2.1 g.2.2 z)))
        ∧ ends (.lredSum m t u) [.l] (both (dataTok v.ctx (red .fadd).1)) (fun z => z.orShedFlags d h (red .fadd).2)
        ∧ ends (.lredMax m t u) [.l] (both (dataTok v.ctx (red .fmax).1)) (fun z => z.orShedFlags d h (red .fmax).2)
        ∧ ends (.lredMin m t u) [.l] (both (dataTok v.ctx (red .fmin).1)) (fun z => z.orShedFlags d h (red .fmin).2))
      ∧ (v.op .r = some r → r.isData = true →
        let k := (l.payload.extractLsb' 4 3).toNat
        let g := scaleColumns (0#32 ++ r.payload.extractLsb' 0 32) acc 128 (v.x.macroAt k).acc 0
        (v.x.rowSlots ≤ slot → stops (.scale t u) [.l, .r] 2)
        ∧ (slot < v.x.rowSlots → free k → ends (.scale t u) [.l, .r] (both (orderTok v.ctx l.payload))
          fun z => (z.modShed d h fun x => x.modMacro k fun p => { p with acc := g.1 }).orShedFlags d h g.2)))
    ∧ (let fm := fmt3Fmt v.fmt f
      let low := negInf fm
      let top := tblGet low 128 st.vals
      (l.isData = true ∨ l.endsRow = true → 128 ≤ cur → stops (.rmax fb f t u) [.l] 3)
      ∧ (l.isData = true → cur < 128 →
        let g := rowMax fm top l.payload
        s.Fires (.rmax fb f t u) v
          { eat := [.l], node := { st with vals := tblSet low 128 g.1 st.vals }, also := fun z => z.orShedFlags d h g.2 })
      ∧ (l.endsRow = true → cur < 128 →
        let old := tblGet low cur st.vals
        let g := rowMax fm old top
        let e := if FVal.equal (decodeFp fm.layout g.1) (decodeFp fm.layout old) then (0, 0) else fpOp fm ⟨.rne, 0⟩ .fsub old g.1
        let sent := st.count2 + 1
        let vals := tblDel 128 (tblSet low cur g.1 st.vals)
        s.Fires (.rmax fb f t u) v
          { eat := [.l]
            outs := [⟨t, dataTok v.ctx g.1⟩] ++ (if fb then [⟨u, dataTok v.ctx e.1⟩] else [])
              ++ if l.endsGroup then [⟨t, shapeTok v.ctx l.code sent⟩, ⟨u, shapeTok v.ctx l.code (if fb then sent else 0)⟩] else []
            node := { st with
              vals := if l.isEos then [] else vals, count := if l.endsGroup then 0 else st.count + 1,
              count2 := if l.endsGroup then 0 else sent }
            also := fun z => z.orShedFlags d h (g.2 ||| if fb then e.2 else 0) })
      ∧ (l.isPlain = true → ends (.rmax fb f t u) [.l] (both l) id))
    ∧ (l.endsGroup = true → s.Fires (.bload mf m t u) v
      { eat := [.l], outs := both (orderTok v.ctx ((st.count >>> 3) ++ 0#25 ++ m ++ 0#4)),
        node := { st with primed := false, count := 0 },
        also := fun z => z.modShed d h fun x => x.modMacro m.toNat fun p =>
          { p with loads := if st.primed then p.loads - 1 else p.loads } })
    ∧ (l.isEor = true ∨ l.isScale = true → eats (.bload mf m t u) st id)
    ∧ (l.isScale = true → eats (.mma q mf m t u) { st with latch := some l } id
      ∧ (∀ i ∈ .scale t u :: .rmax fb f t u :: accs, eats i st id))
    ∧ (l.endsRow = true →
      (row.1 ≠ [] → eats (.mma q mf m t u) st fun z => z.modShed d h fun x => x.pushRow key (fillRow mf scale row))
      ∧ (row.1 = [] → eats (.mma q mf m t u) st id))
    ∧ (l.isControl = true → v.op .r = none → ∀ i ∈ .scale t u :: accs, ends i [.l] (both l) id)

/-- 07 R229, R232; 08 R252; 15 R392: a memory node with its operands starts one access in the lease's address context
and counts its firing; an address above bit 56 or misaligned starts none and stops the node. -/
def Obligations.MemoryNodesStart : Prop :=
  ∀ (s : State) (t u : Target) (v : View) (l r : Token) (lo : LoadOp) (so : StoreOp) (fo : FeOp) (uo : UpdOp) (sc : Scope),
    s.NodeTurn t u v → v.op .l = some l → l.isData = true → v.wired .o = false →
    let node := { v.node with count := v.node.count + 1 }
    let va := if l.kind = kindOrder then 0 else l.payload
    let data := if r.kind = kindOrder then 0 else r.payload
    let acc : State → MemOp → Scope → Word → Access := fun z op sc w =>
      { id := z.nextId, agent := .node v.d v.h (BitVec.ofNat 6 v.slot) v.ctx, op, scope := sc, acq := false,
        rel := false, va, ctx := v.x.ctx, phys := false, priv := false, data := w, pc := 0,
        since := z.aclk, firing := v.node.count }
    let starts : Instr → List NodePort → Nat → MemOp → Scope → Word → Prop := fun i eat n op sc w =>
      (va.toNat < 2 ^ 57 → va.toNat % 2 ^ n = 0 → s.Fires i v
        { eat, node, also := fun z => { z with accs := z.accs ++ [acc z op sc w], nextId := z.nextId + 1 } })
      ∧ (2 ^ 57 ≤ va.toNat → s.Fires i v { eat, node, also := fun z => z.feederFault v.d v.h v.slot (v.slot - 56) 0x21 })
      ∧ (va.toNat < 2 ^ 57 → va.toNat % 2 ^ n ≠ 0 → s.Fires i v
        { eat, node, also := fun z => z.feederFault v.d v.h v.slot (v.slot - 56) 0x20 })
    let bytes := v.fmt.width / 8
    starts (.graphLoadNode lo t u) [.l] (loadLog2 lo) (.load lo) .s 0
    ∧ (fo ≠ .put → fo ≠ .fill → starts (.graphFeNode sc fo t u) [.l] 3 (.fe fo) sc 0)
    ∧ (v.wired .r = true → v.op .r = some r → r.isData = true →
      starts (.graphStoreNode so t u) [.l, .r] (storeLog2 so) (.store so) .s data
      ∧ starts (.graphFeNode sc .put t u) [.l, .r] 3 (.fe .put) sc data
      ∧ starts (.graphFeNode sc .fill t u) [.l, .r] 3 (.fe .fill) sc data
      ∧ starts (.upd uo t u) [.l, .r] (if v.fmt.width = 64 then 3 else 2) (.upd uo bytes) .s data)

/-- 08 R268, R270 to R272; 10 R317, R331, R332; 02 R77: DELAY tags its gate tokens, keeps a row in order of delay and
expert and lets each token leave at its time; EXPLK routes by the replica list of the version it pinned at the group's
start; in resident mode it sends rows of a resident expert on, forwards rows for another die, and asks for a fill; the
fill's completion makes the context ACTIVE and sends the header on. -/
def Obligations.GatePathNodes : Prop :=
  (∀ (s : State) (t u : Target) (v : View) (l : Token) (k : BitVec 6) (die : Die), s.NodeTurn t u v → v.op .l = some l →
    let st := v.node
    let w := v.x.const k.toNat
    let now := v.s.aclk
    let x := v.s.die v.d
    let e : BitVec 12 := l.payload.extractLsb' 32 12
    let noted := tblGet 0 1 st.vals
    let ver : BitVec 16 := if st.primed then (tblGet 0 0 st.vals).extractLsb' 0 16
      else if noted = 0 then x.heddle.cur else (noted - 1).extractLsb' 0 16
    let reps := replicaDies (x.versionEntry ver e)
    let both : Token → List OutTok := fun y => [⟨t, y⟩, ⟨u, y⟩]
    let version : Token := { payload := 0#34 ++ v.d ++ ver ++ 0x20#8, kind := kindControl, ctx := v.ctx, held := true }
    let held : List (Word × Token) := st.toks.map fun y => (now + (0#56 ++ y.payload.extractLsb' 48 8), y)
    (l.isData = true → 256 ≤ st.toks.length → s.Fires (.delay k t u) v
      { eat := [.l], room := false, node := st, also := fun z => z.stopItem v.d v.h v.slot 4 })
    ∧ (l.isData = true → st.toks.length < 256 →
      let tag := BitVec.ofNat 8 (delayOf w (0#32 ++ l.payload.extractLsb' 0 32))
      let nan := (decodeFp Fmt.fp32.layout (0#32 ++ l.payload.extractLsb' 0 32)).isNan
      let tagged := { l with payload := 0#2 ++ l.payload.extractLsb' 56 6 ++ tag ++ 0#4 ++ l.payload.extractLsb' 0 44 }
      s.Fires (.delay k t u) v
        { eat := [.l], room := false, also := fun z => z.orShedFlags v.d v.h (flagIf nan flagNV)
          node := { st with toks := gateInsert tagged st.toks } })
    ∧ (l.endsRow = true → s.Fires (.delay k t u) v
      { eat := [.l], room := false, also := fun z => z.orShedFlags v.d v.h 0
        node := { st with toks := [], late := st.late ++ held ++ [(now, l)] } })
    ∧ (w.getLsbD 0 = false →
      (l.endsGroup = true → s.Fires (.explk k t u) v
        { eat := [.l], outs := both l, node := { st with primed := false, count := 0 } })
      ∧ (l.isData = true → reps[st.count.toNat % reps.length]? = some die → s.Fires (.explk k t u) v
        { eat := [.l]
          outs := (if st.primed then [] else both version)
            ++ both { l with payload := 0#2 ++ die ++ l.payload.extractLsb' 48 8 ++ 0#4 ++ l.payload.extractLsb' 0 44 }
          node := { st with primed := true, vals := tblSet 0 0 (0#48 ++ ver) [], count := st.count + 1 }
          also := fun z => if st.primed then z else v.holdCopies ver z })
      ∧ (l.isData = true → reps = [] → s.Fires (.explk k t u) v
        { eat := [.l], outs := if st.primed then [] else both version
          node := { st with primed := true, vals := tblSet 0 0 (0#48 ++ ver) [], count := st.count + 1 }
          also := fun z => (if st.primed then z else v.holdCopies ver z).countNotify v.d (.shed v.h) 0x48 }))
    ∧ (w.getLsbD 0 = true → st.toks = [] →
      (l.isData = true →
        (tblGet 0 0 st.vals = 0 → s.Fires (.explk k t u) v { eat := [.l], outs := [⟨t, l⟩], node := st })
        ∧ (tblGet 0 0 st.vals = 1 → s.Fires (.explk k t u) v { eat := [.l], outs := [⟨u, l⟩], node := st }))
      ∧ (l.isHeader = true →
        let x' : BitVec 12 := l.payload.extractLsb' 16 12
        (st.latch.map (·.payload) = some (0#52 ++ x') → s.Fires (.explk k t u) v
          { eat := [.l], outs := [⟨t, l⟩], node := { st with vals := tblSet 0 0 0 st.vals }, also := fun z => z.countRow v.d x' })
        ∧ (st.latch.map (·.payload) ≠ some (0#52 ++ x') → (replicaDies (x.curEntry x')).contains v.d = true →
          v.s.hqRoom v.d (w.extractLsb' 1 12) = true → s.Fires (.explk k t u) v
            { eat := [.l], room := false, node := { st with toks := [l] }
              also := fun z => (z.hqPush v.d (w.extractLsb' 1 12) (0#41 ++ v.h ++ v.ctx ++ x')).setCtx v.d v.x.loom v.c .miss }))))
  ∧ (∀ (s : State) (time : Word) (k : Token) (rest : List (Word × Token)) (t u : Target),
    let d := s.ev.die
    let h := s.ev.shed
    let n := s.ev.unit
    let c := s.ev.ctx.toNat
    let p := s.pump d h n
    let x := p.shed d h
    let st : NodeSt := tblGet {} (nodeIx n c) x.nodes
    x.fires = true → x.stopped n = false → x.out n = [] → st.late = (time, k) :: rest →
    wordTargets (tblGet 0 n x.words) = [t, u] → x.targetRoom t c = true → x.targetRoom u c = true →
    (time.toNat ≤ p.aclk.toNat → exec .delayEmit s =
      .next ((p.setShed d h (x.setNode n c { st with late := rest })).emit d h n [⟨t, k⟩, ⟨u, k⟩]))
    ∧ (p.aclk.toNat < time.toNat → exec .delayEmit s = .next p))
  ∧ (∀ (s : State) (d : Die) (h : ShedNo) (tag : Word) (status : Byte) (slot : Nat) (l : Token) (t : Target) (us : List Target),
    let x := s.shed d h
    let c : BitVec 2 := tag.extractLsb' 12 2
    let e : BitVec 12 := tag.extractLsb' 0 12
    let st : NodeSt := tblGet {} (nodeIx slot c.toNat) x.nodes
    s.packet s.ev.id = some (.fillDone d h tag status) →
    (x.missing c.toNat e = some (slot, l) → wordTargets (tblGet 0 slot x.words) = t :: us →
      exec .contextFillComplete s = .next (((((s.dropPacket s.ev.id).setShed d h (x.setNode slot c.toNat
        { st with latch := some (dataTok c (0#52 ++ e)), toks := [], vals := tblSet 0 0 0 st.vals })).setCtx d x.loom c.toNat
          .active).countRow d e).emit d h slot [⟨t, l⟩]))
    ∧ (x.missing c.toNat e = none → exec .contextFillComplete s = .next (s.dropPacket s.ev.id)))

/-- 08 R273 to R275; 10 R318, R328; 16 R432: FRAME takes the version, header and data of a row, and places the row when
it ends; open frames close when their timer expires; a closed frame leaves with a credit and a route while its copy
stays; a frame whose SEQ was seen is discarded and counted, another enters a buffer; the returned credit frees the copy;
UNFRAME produces the tokens of a frame of its format once and then frees its buffer. -/
def Obligations.FramesTravel : Prop :=
  (∀ (s : State) (t u : Target) (v : View) (l : Token) (k : BitVec 6) (f : Frame), s.NodeTurn t u v →
    let st := v.node
    let g := v.x.frameCfg k
    (v.op .l = some l →
      (l.isVersion = true → s.Fires (.frame k t u) v
        { eat := [.l], room := false, also := v.endHold
          node := { st with primed := l.held
                            vals := tblSet 0 0 ((0#48 ++ l.version) + 1) st.vals } })
      ∧ (l.isData = true → st.toks ≠ [] → st.toks.length ≤ g.rowlen → s.Fires (.frame k t u) v
        { eat := [.l], room := false, node := { st with toks := st.toks ++ [l] } })
      ∧ (l.isEor = true → s.Fires (.frame k t u) v
        { eat := [.l], room := false, node := { st with toks := [] }, also := v.endRow g }))
    ∧ (v.c = 0 → v.x.frameFor v.slot = some f →
      (st.primed = false → f.num 4 1 = g.fmt.toNat → f.num 6 2 = g.rowlen →
        let r := unframeTokens v g f
        s.Fires (.unframe k t u) v
          { eat := [], outs := r.1, node := { st with primed := true }, also := v.mark r.2.1 r.2.2 })
      ∧ (st.primed = true → s.Fires (.unframe k t u) v
        { eat := [], room := false, node := { st with primed := false }, also := fun z => z.freeFrame v.d v.h f })
      ∧ (st.primed = false → f.num 4 1 ≠ g.fmt.toNat ∨ f.num 6 2 ≠ g.rowlen → s.Fires (.unframe k t u) v
        { eat := [], room := false, node := { st with primed := false },
          also := fun z => (z.countNotify v.d (.shed v.h) 0x4b).freeFrame v.d v.h f })))
  ∧ (∀ (s : State) (f : Frame) (slot : Nat) (k : BitVec 6) (src dst : Die) (h : ShedNo) (seq : BitVec 32),
    let d := s.ev.die
    let x := s.shed d s.ev.shed
    let seen := tblGet [] f.src.toNat (s.die f.dst).frameSeen
    (x.frameNode = none → exec .frameTimerExpiry s = .next s)
    ∧ (x.frameNode = some (slot, k) → x.stopped slot = false → x.failed = false →
      let g := x.frameCfg k
      exec .frameTimerExpiry s = .next ((x.opened.filter fun o => g.expired o (s.rowClock d (rowOfShed s.ev.shed)) && !x.inRow slot o.dest).foldl
        (fun z o => z.closeFrame d s.ev.shed g o.dest) s))
    ∧ (let goes := x.closed.find? fun o => decide (s.framesOut o < 8) && (s.frameLeads d s.ev.shed o.dst).passes
      let sent : State → State := fun z => ((z.modShed d s.ev.shed fun y => { y with closed := y.closed.erase f }).modDie d fun y =>
        { y with framesKept := y.framesKept ++ [f] }).send (.frame f)
      (goes = some f → s.frameLeads d s.ev.shed f.dst = .arrives → exec .frameSend s = .next (sent s))
      ∧ (goes = some f → s.frameLeads d s.ev.shed f.dst = .detours src slot → exec .frameSend s =
        .next (sent (s.count src (.link (BitVec.ofNat 2 slot)) 0x51)))
      ∧ (goes = none → exec .frameSend s = .next s))
    ∧ (s.packet s.ev.id = some (.frame f) → s.frameBehind s.ev.id f = false →
      (seen.contains f.seq = true → exec .frameArrival s =
        .next ((((s.dropPacket s.ev.id).count f.dst (.shed f.shed) 0x4b)).send (.frameCredit f.src f.dst f.shed f.seq)))
      ∧ (seen.contains f.seq = false → exec .frameArrival s =
        .next (((s.dropPacket s.ev.id).modDie f.dst fun y =>
            { y with frameSeen := tblSet [] f.src.toNat ((f.seq :: seen).take 256) y.frameSeen }).modShed f.dst f.shed fun y =>
          { y with frames := y.frames ++ [f] })))
    ∧ (s.packet s.ev.id = some (.frameCredit src dst h seq) → exec .frameCreditReturn s =
      .next ((s.dropPacket s.ev.id).modDie src fun y =>
        { y with framesKept := y.framesKept.filter fun o => !(o.dst == dst && o.shed == h && o.seq == seq) })))

/-- 02 R53 to R57: a channel delivers its tokens in order and returns its credits; a free input port passes its head
token where both targets have room; a fixed-rate step moves the rate of every fixed-rate port at once; a trigger whose
count has been reached acts once, its NEXT advances by T, and a push that finds its queue full is held. -/
def Obligations.PortsMoveTokens : Prop :=
  ∀ (s : State) (d : Die) (h : ShedNo) (p : BitVec 4) (k : Token) (rest : List Token),
    let e := s.ev.die
    let g := s.ev.shed
    let n := s.ev.unit
    let x := s.shed e g
    let q := s.pump e g (portOut n)
    let y := q.shed e g
    let w := s.deliverStaged e g
    let z := w.shed e g
    let r := tblGet {} n x.trigs
    let r' : Trigger := { r with due := false, next := r.next + r.period, armed := r.period != 0, heldPush := false }
    (s.packet s.ev.id = some (.token d h p k) → s.tokenBehind s.ev.id d h p = false → exec .channelTokenArrival s =
      .next ((s.dropPacket s.ev.id).modShed d h fun a => a.modPort p.toNat fun b => { b with fifo := b.fifo ++ [k] }))
    ∧ (s.packet s.ev.id = some (.token d h p k) → s.tokenBehind s.ev.id d h p = true → exec .channelTokenArrival s = .next s)
    ∧ (s.packet s.ev.id = some (.credit d h p) → exec .creditReturn s =
      .next ((s.dropPacket s.ev.id).modShed d h fun a => a.modPort p.toNat fun b => { b with credits := b.credits + 1 }))
    ∧ (x.fires = true → (x.port n).en = true → (x.port n).free = true → (x.port n).out = false →
      ((y.portSt n).fifo = k :: rest → y.mayPass n k = true → exec .freePortPass s =
        .next ((q.modShed e g fun a => a.modPort n fun b => { b with fifo := rest }).passInput e g n k))
      ∧ ((y.portSt n).fifo = k :: rest → y.mayPass n k = false → exec .freePortPass s = .next q)
      ∧ ((y.portSt n).fifo = [] → exec .freePortPass s = .next q))
    ∧ (x.fires = false → exec .freePortPass s = .next s ∧ exec .fixedRateStep s = .next s)
    ∧ (x.fires = true →
      (z.stepPorts ≠ [] → (∀ a ∈ z.stepPorts, z.stepReady a = true) → exec .fixedRateStep s =
        .next ((w.setShed e g (z.stepPorts.foldl (fun b a => b.stepPort a) z)).deliverStaged e g))
      ∧ ((z.stepPorts = [] ∨ ∃ a ∈ z.stepPorts, z.stepReady a = false) → exec .fixedRateStep s = .next w))
    ∧ (∀ a : Nat, (x.stepPort a).portSt a = (let b := x.portSt a; let c := (x.port a).rate
        if (x.port a).out then { b with credits := b.credits - c, reserved := b.reserved + c }
        else { b with staged := b.staged ++ b.fifo.take c, fifo := b.fifo.drop c }))
    ∧ (r.due = false → exec .triggerFire s = .next s)
    ∧ (r.due = true → r.push = true →
      (s.hqRoom e r.hq = true → exec .triggerFire s =
        .next ((s.modShed e g fun a => { a with trigs := tblSet {} n r' a.trigs }).hqPush e r.hq r.token))
      ∧ (s.hqRoom e r.hq = false → exec .triggerFire s =
        .next (s.modShed e g fun a => { a with trigs := tblSet {} n { r' with heldPush := true } a.trigs })))
    ∧ (r.due = true → r.push = false → exec .triggerFire s =
      .next (((List.range 8).filter r.amask.getLsbD).foldl (fun b a =>
          (b.modStream e g a fun c => { c with starts := c.starts ++ [r.actx] }).startPending e g a)
        (s.modShed e g fun a => { a with trigs := tblSet {} n r' a.trigs })))
    ∧ (r.heldPush = true → s.hqRoom e r.hq = true → exec .triggerHeldPush s =
      .next ((s.modShed e g fun a => { a with trigs := tblSet {} n { r with heldPush := false } a.trigs }).hqPush e r.hq r.token))
    ∧ (r.heldPush = false ∨ s.hqRoom e r.hq = false → exec .triggerHeldPush s = .next s)

/-- 04 R121, R123, R127; 05 R161; 15 R392: a read stream reads its next element, injects its token behind the others and
steps on; a write stream writes the head token of its port at its next place; an element out of range or misaligned
stops the stream; a miss brings the 48-byte sector from its home; a window point writes the dirty sectors of its range
back and raises SWINCNT. -/
def Obligations.StreamsMoveElements : Prop :=
  ∀ (s : State) (bytes : List Byte) (t : State) (k : Token) (rest : List Token) (pa : Nat) (key : Byte) (a b : Nat)
      (wins : List (Nat × Nat)),
    let d := s.ev.die
    let h := s.ev.shed
    let p := s.ev.unit
    let x := s.shed d h
    let y := x.stream p
    let w := y.desc
    let f := Descriptor.fmt w
    let e := Descriptor.offset w y.pos y.index
    let n := (Descriptor.bitOf w e + f.width + 7) / 8
    let addr := (Descriptor.address w e).toNat
    let fresh := s.heldRetries d (.stream d h p)
    let runs := p < 8 ∧ x.streamStopped p = false ∧ s.heldWaits d (.stream d h p) = false
      ∧ s.feederBusy d h (.stream d h p) = false ∧ w ≠ [] ∧ y.running = true ∧ y.needsIndex = false
    (8 ≤ p ∨ x.streamStopped p = true ∨ w = [] → exec .streamElement s = .next s)
    ∧ (runs → Descriptor.writes w = false → x.injects = true → y.inject = [] → y.ended = false →
      (x.portSt p).fifo.length < (x.port p).depth → x.ctxAt y.ctx.toNat = .active →
      (∀ cause, elementFault w e = some cause → exec .streamElement s = .next (s.feederFault d h (82 + p) p cause))
      ∧ (elementFault w e = none → f.isTwill = false → feederGet d h fresh (chunks 3 addr n) [] s = .ok (bytes, t) →
        exec .streamElement s = .next (((t.unhold d (.stream d h p)).modStream d h p fun _ =>
          { y.step with inject := y.tokens e bytes 0, range := y.reach e n, held := false }).inject d h p)))
    ∧ (runs → Descriptor.writes w = true → x.fires = true → (x.portSt p).fifo = k :: rest → k.kind = kindData →
      f.isTwill = false →
      (∀ cause, elementFault w e = some cause → exec .streamElement s = .next (s.feederFault d h (82 + p) p cause))
      ∧ (elementFault w e = none →
        feederPut d h fresh (cutBytes addr (bytesOfWord (f.width / 8) k.payload)) s = .ok t →
        let u := t.unhold d (.stream d h p)
        let z := (u.shed d h).eatToken p
        exec .streamElement s = .next ((u.setShed d h (z.setStream p
          { (z.stream p).wrote 1 with block := [], range := (z.stream p).reach e (f.width / 8), held := false })).startPending d h p)))
    ∧ (x.bound s.ev.val.toNat = false → exec .fcbMissFill s = .next s)
    ∧ (x.bound s.ev.val.toNat = true → s.feederReach d h s.ev.val needR false false = .ok pa key t → paSpace pa = 0 →
      ((t.shed d h).sector pa ≠ none → exec .fcbMissFill s = .next t)
      ∧ ((t.shed d h).sector pa = none → ((t.shed d h).linesOf (bankSet pa)).length < 4 → ∃ u z, exec .fcbMissFill s = .next u
        ∧ (u.shed d h).sector pa = some z ∧ z.bytes = t.readBytes key (sectorOf pa) 48 ∧ z.dirty = false ∧ z.key = key
        ∧ u.mem = t.mem ∧ u.slots = t.slots))
    ∧ (y.wins = (a, b) :: wins → exec .windowWritebackDone s =
      .next (((s.modStream d h p fun g => { g with wins := wins }).writeBackAll d h fun g => g.va < b && a < g.va + 48).modShed
        d h fun g => { g with swincnt := g.swincnt + 1 }))
    ∧ (y.wins = [] → exec .windowWritebackDone s = .next s)

/-- 02 R58, R59; 03 R109; 08 R258: the head of the queue that the arbiter chooses issues one pass, whose row leaves the
FIFO for each macro it names; a pass adds to each of the 128 columns of its row-slot, and the last one of an entry sends
the completion token to both targets of its MMA node. -/
def Obligations.PassesRun : Prop :=
  ∀ (s : State) (q turn : Bool) (run : Nat) (e : TileEntry) (row : List Word × List Word) (rows : List (List Word × List Word))
      (p : Pass) (slot : Nat) (t u : Target),
    let d := s.ev.die
    let h := s.ev.shed
    let m := s.ev.unit
    let x := s.shed d h
    let y := x.macroAt m
    (x.fires = false ∨ x.arbitrate = none → exec .passIssue s = .next s)
    ∧ (x.fires = true → x.arbitrate = some (q, run, turn) → x.headEntry q = some e →
      tblGet [] (fifoKey q e.ctx.toNat) x.rows = row :: rows →
      ∃ v, exec .passIssue s = .next v ∧ tblGet [] (fifoKey q e.ctx.toNat) (v.shed d h).rows = rows
        ∧ (∀ k, k < 8 → e.macros.getLsbD k = true → ((v.shed d h).macroAt k).pass =
          some { row := e.row, ctx := e.ctx, q, last := e.passes == 1, elems := row.1, scales := row.2 })
        ∧ (∀ k, e.macros.getLsbD k = false → (v.shed d h).macroAt k = x.macroAt k)
        ∧ ((v.shed d h).queue q).entries = (if e.passes ≤ 1 then (x.queue q).entries.drop 1
          else { e with passes := e.passes - 1 } :: (x.queue q).entries.drop 1)
        ∧ (v.shed d h).highRun = run ∧ (v.shed d h).turnB = turn ∧ v.mem = s.mem ∧ v.slots = s.slots)
    ∧ (y.pass = none → exec .passComplete s = .next s)
    ∧ (y.pass = some p → x.failed = false →
      let vals := passVals y.fmt p
      let key := x.accKey p.ctx.toNat p.row
      let r := passColumns y.fmt y.image 0x6000 vals key (List.range 128) y.acc 0
      let z := (s.modShed d h fun g => g.modMacro m fun a => { a with acc := r.1, pass := none }).orShedFlags d h r.2
      (∀ c, c < 128 → tblGet 0 (key + c) r.1 = (passColumn vals (columnVals y.fmt y.image 0x6000 c) (tblGet 0 (key + c) y.acc)).1)
      ∧ (p.last = false → exec .passComplete s = .next z)
      ∧ (p.last = true → x.mmaSlot p.q m = some slot → x.stopped slot = false → (z.shed d h).stopped slot = false →
        wordTargets (tblGet 0 slot (z.shed d h).words) = [t, u] →
        let k := orderTok p.ctx (BitVec.ofNat 64 (p.row % 16 + 16 * (m % 8)))
        exec .passComplete s = .next (z.emit d h slot [⟨t, k⟩, ⟨u, k⟩])))

/-- 02 R47, R48, R78, R79; 08 R276; 09 R296, R297, R299; 16 R410, R411, R414, R416: LOADCFG takes effect when no token
is in motion: it loads and starts every shed, or leaves the loom LEASED and its slot traps; a drain ends when nothing
can happen any more; CKPT then writes one save area after another; RESUME takes the sheds it is granted, then repeats
LOADCFG and takes the save areas back. A load starts a shed with accumulators of +0 and no token, and keeps the
macros' images. Where a part has failed meanwhile, nothing is said of the drain here. -/
def Obligations.PeriodsLoadDrainAndSave : Prop :=
  ∀ (s : State) (i : SlotId) (inc : Byte) (g : ConfigRec) (t : State) (h : Nat) (f : Refused) (r : LeaseReq) (n : LoomNo)
      (hs : List ShedNo) (w w' : State),
    let d := s.ev.die
    let l : LoomNo := BitVec.ofNat 7 s.ev.unit
    let x := s.loom d l
    let q := { s with cur := i, word := x.word }
    let counted := q.modLoom d l fun y => { y with resumes := y.resumes + 1 }
    let rest := ((s.loomSheds d l).map fun b => (s.shed d b).residual).sum
    let reads := ∀ k, q.withConfig x.record x.sheds.length k = k g t
    let env : CheckEnv :=
      { all := g.sheds, sheds := x.sheds.length, nctx := g.nctx, pre := x.pre, retired := 0, bound := t.boundElsewhere d l }
    let checks := checkSheds env (fun k => (t.shed d (x.sheds.getD k 0)).retiredMacros) [] g.sheds
    let refused : Nat → Refused → Word → Result := fun b e aux =>
      let u := q.endLoading d l
      .next (u.takeTrap i 0x40 e.check (u.slot i).pc x.word (refusalWord b e) aux)
    (x.owner = some i → x.state = .loading →
      (s.inMotion d l = true → exec .configurationLoad s = .next s)
      ∧ (s.inMotion d l = false →
        (x.forced = false → rest ≠ 0 → ∃ b, exec .configurationLoad s = refused b { check := 0x0d } (BitVec.ofNat 64 rest))
        ∧ (x.forced = true ∨ rest = 0 → reads →
          (g.badHeader = true → exec .configurationLoad s = refused 0x1ff { check := 0x01 } x.record)
          ∧ (g.badHeader = false → checks = some (h, f) → exec .configurationLoad s = refused h f x.record)
          ∧ (g.badHeader = false → checks = none → exec .configurationLoad s = .next (t.loadLoom d l g).advance))))
    ∧ (x.settling = false →
      (x.state ≠ .draining → x.state ≠ .saving → exec .drainComplete s = .next s)
      ∧ (x.state = .draining → (∀ b ∈ s.loomSheds d l, s.shedBusy d b false = false) → s.faultyShed d l = none → x.owner = some i →
        ∃ u, exec .drainComplete s = .next u ∧ (u.loom d l).state = .leased ∧ (u.loom d l).owner = none
          ∧ (∀ b ∈ s.loomSheds d l, (u.shed d b).state = .leased) ∧ (u.slot i).state = .ready
          ∧ (u.slot i).pc = (s.slot i).pc + 4 ∧ (u.core i.die i.core).l1d = [] ∧ (u.slot i).regs = (s.slot i).regs)
      ∧ (x.state = .draining → (∃ b ∈ s.loomSheds d l, s.shedBusy d b false = true) → exec .drainComplete s = .next s)
      ∧ (x.state = .saving → (∃ b ∈ s.loomSheds d l, s.shedBusy d b true = true) → exec .drainComplete s = .next s)
      ∧ (x.state = .saving → (∀ b ∈ s.loomSheds d l, s.shedBusy d b true = false) → ∃ u, exec .drainComplete s = .next u
        ∧ (∀ b ∈ s.loomSheds d l, (u.shed d b).state = .saved) ∧ (u.loom d l).state = .saving ∧ u.slots = s.slots))
    ∧ (let b := s.ev.shed
      let y := s.shed d b
      let z := s.loom d y.loom
      let places := savePlaces z.save.toNat y.rel.toNat ((0x10000 + 0x1200) / 8)
      let data := places.zipIdx.map fun e => (e.1, bytesOfWord 8 (y.saveWord e.2))
      let who : HeldWho := .descriptor d b 9
      (y.state ≠ .saved ∨ z.state ≠ .saving → exec .checkpointWritten s = .next s)
      ∧ (y.state = .saved → z.state = .saving → s.heldWaits d who = false → s.feederBusy d b who = false → s.heldFails d who = false →
        z.owner = some i →
        feederPut d b (s.heldRetries d who) data s = .ok t → t.loom d y.loom = z → (t.shed d b).state = .saved →
        ∃ u, exec .checkpointWritten s = .next u ∧ (u.shed d b).state = .free
          ∧ (u.loomSheds d y.loom = [] → (u.loom d y.loom).state = .saved ∧ (u.slot i).state = .ready
            ∧ (u.slot i).pc = (t.slot i).pc + 4)
          ∧ (u.loomSheds d y.loom ≠ [] → (u.loom d y.loom).state = .saving ∧ u.slots = t.slots)))
    ∧ (s.ev.val.getLsbD 0 = false →
      ((s.die d).headLease = some r → r.kind = .resume n → s.pickSheds d r = some hs → r.who = some (i, inc) →
        (s.slot i).role = .plain →
        ∃ u, exec .resumeGrant s = .next u ∧ (u.loom d n).state = .resuming ∧ (u.loom d n).sheds = hs
          ∧ (∀ b ∈ hs, (u.shed d b).state = .loading) ∧ (u.slot i).state = .waitData ∧ (u.slot i).await = .loom n
          ∧ (u.slot i).pc = (s.slot i).pc)
      ∧ ((s.die d).headLease = none → exec .resumeGrant s = .next s))
    ∧ (s.ev.val.getLsbD 0 = true →
      (x.state ≠ .resuming → exec .resumeGrant s = .next s)
      ∧ (x.state = .resuming → x.owner = some i → (∀ k, counted.withConfig x.record x.sheds.length k = k g t) →
        g.badHeader = false → checks = none → (t.loadLoom d l g).restoreSheds d l x.sheds = .ok w →
        w.refill d (x.sheds.flatMap fun b => (w.shed d b).fills b) = some w' →
        exec .resumeGrant s = .next ((w'.modLoom d l fun y => { y with images := [] }).wakeNext i)))
    ∧ (∀ (y : ShedSt) (b : ShedNo) (bs : List ShedNo) (count : BitVec 32) (loads : Nat → Nat) (e : ShedRec) (j : Nat),
      let z := y.load b g bs count loads e
      z.state = .running ∧ (j < 64 → tblGet 0 j z.lfsr = peSeed g.seed count b j) ∧ (∀ m c, tblGet 0 c (z.macroAt m).acc = 0)
        ∧ (j < 8 → (z.macroAt j).image = (y.macroAt j).image) ∧ z.operands = [] ∧ z.nodes = [] ∧ z.streams = [] ∧ z.stops = [])

/-- 04 R129, R130, R133; 09 R307 to R309; 15 R400, R401: a hart reads the template of its next kick and starts it or
ends it with the cause found; each element is read, then written, filled, delivered to the bound register or put into
a macro's image, in order; where CSCOPE covers no core, so that the completion orders nothing (05 R163), a write may
wait and is performed later, in order; an address out of range ends the copy; the last element completes it with one
message of LEN 3. -/
def Obligations.CopiesRun : Prop :=
  ∀ (s : State) (k : Kick) (ks : List Kick) (bs : List Byte) (t t' : State) (cause : Byte) (src dst : Nat)
      (l : List (Nat × Byte × List Byte)) (post : PostedWrite) (posts : List PostedWrite),
    let d := s.ev.die
    let n : HartNo := BitVec.ofNat 6 s.ev.unit
    let x := s.hart d n
    let who : HeldWho := .hart d n
    let w := x.tmpl
    let c := s.core k.die k.core
    let phys := if k.priv && c.phys then some c.pkey else none
    let at0 := (List.range 16).map fun j => (k.tmpl.toNat + 8 * j, 8)
    let tmpl := Template.fill ((List.range 16).map fun j => wordOfBytes ((bs.drop (8 * j)).take 8)) k.tuse d k.token
    let sp := if Template.sphys w then some (Template.pkey w) else none
    let dp := if Template.dphys w then some (Template.pkey w) else none
    let fills := Template.dfe w == 1
    let fresh := s.heldRetries d who
    (x.running = none → x.queue = [] → exec .copyStart s = .next s)
    ∧ (x.running ≠ none → exec .copyStart s = .next s)
    ∧ (x.running = none → x.queue = k :: ks → s.heldWaits d who = false → x.retired = false → x.mayMeet k.tmpl.toNat 128 = false →
      hartGet d k phys fresh at0 [] s = .ok (bs, t) →
      let u := (t.unhold d who).takeKick d n k
      (u.badHandle d (Template.compl tmpl) = false →
        (u.templateFault d k tmpl = none →
          exec .copyStart s = .next (u.modHart d n fun y => { y with running := some k, tmpl, elem := 0, pc := 0, regs := tblSet 0 1 k.tmpl [] }))
        ∧ (u.templateFault d k tmpl = some cause → exec .copyStart s =
          .next (u.refuseCopy d n k (Template.compl tmpl) (Template.tag tmpl) (Template.cscope tmpl) cause)))
      ∧ (u.badHandle d (Template.compl tmpl) = true → exec .copyStart s =
        .next (u.refuseCopy d n k 0 (Template.tag tmpl) (Template.cscope tmpl) 0x30)))
    ∧ (x.running = none → x.posted = [] → exec .copyElement s = .next s)
    ∧ (x.micro = [] → x.posted = post :: posts → (s.ev.val.getLsbD 0 = true ∨ x.running = none ∨ x.mustFlush = true) →
      exec .copyElement s = .next ((s.modHart d n fun y => { y with posted := posts }).hartPut post.fills post.pa post.key post.bytes))
    ∧ (x.micro = [] → x.running = some k → x.posted = [] ∨ (s.ev.val.getLsbD 0 = false ∧ x.mustFlush = false) →
      s.heldWaits d who = false → s.copyWaits d k w x.elem = false →
      (Template.source? w x.elem = none ∨ (k.bind = none ∧ Template.dest? w x.elem = none) →
        exec .copyElement s = .next ((s.unhold d who).endCopy d n 0x31))
      ∧ (Template.source? w x.elem = some src → s.elementGet d k sp fresh src (Template.size w) = .ok (bs, t) →
        (k.bind.isSome = true → exec .copyElement s = .next (((t.unhold d who).modBound k fun q =>
          { q with items := q.items ++ [wordOfBytes bs], count := q.count + 1 }).copyNext d n))
        ∧ (k.bind = none → Template.image w = false → Template.dest? w x.elem = some dst →
          hartFind d k dp (t.heldRetries d who) (cutBytes dst bs) [] t = .ok (l, t') →
          (Template.posts w = false → exec .copyElement s =
            .next ((l.foldl (fun z q => z.hartPut fills q.1 q.2.1 q.2.2) (t'.unhold d who)).copyNext d n))
          ∧ (Template.posts w = true → exec .copyElement s = .next (((t'.unhold d who).postWrites d n fills l).copyNext d n)))
        ∧ (k.bind = none → Template.image w = true → Template.dest? w x.elem = some dst → exec .copyElement s =
            .next (((t.unhold d who).modShed d (Template.shed w) fun y => y.modMacro (Template.mac w) fun z =>
              { z with loads := if x.elem = 0 then z.loads + 1 else z.loads,
                       image := imageWrite dst (bs.take (imageBytes - dst)) z.image }).copyNext d n))))
    ∧ (x.running = some k →
      (x.elem + 1 < Template.total w → s.copyNext d n = s.modHart d n fun y => { y with elem := x.elem + 1 })
      ∧ (Template.total w ≤ x.elem + 1 → k.bind = none → Template.image w = false → Template.compl w = 0 →
        ∃ m, (s.copyNext d n).net = s.net ++ [{ id := s.nextId, packet := .mail m }] ∧ m.die = k.die ∧ m.core = k.core ∧ m.box = 31
          ∧ m.words = [Template.tag w, 0#56 ++ 0#2 ++ n, BitVec.ofNat 64 (x.elem + 1)]
          ∧ ((s.copyNext d n).hart d n).running = none))

/-- 11 R336: a module reset gives every register and unit its reset value and empties every full/empty bit; PERST resets
an HK-4S, and only the host port's windows of an HK-4M. What memory stores over a reset is the model's choice (log entry
21). 11 R340 to R342; 16 R434, Table 16-10: the first stages of boot: the image is verified, the identity is derived,
the self-test retires every listed unit; a stage sets the READY bits of what it brings up, and a failed check BOOTERR.
That the first fault stays in BOOTERR is the model's choice. 11 R337, R343, R344; 01 R32; 16 R434: stacks, links and the
panel come up: HBM is ready with every full/empty bit empty, a link that failed does not hold the die, the probe window
numbers the dies and finds the root, and the launch rings are ready once their dispatch threads are parked. -/
def Obligations.ResetAndBoot : Prop :=
  (
    ∀ (s : State),
      (∃ t, exec .moduleReset s = .next t ∧ t.full = [] ∧ t.slots = (State.resetOf s.standalone s.straps).slots ∧ t.cores = State.reset.cores
        ∧ t.sheds = State.reset.sheds ∧ t.looms = State.reset.looms ∧ t.harts = State.reset.harts ∧ t.hqs = State.reset.hqs
        ∧ t.skeins = State.reset.skeins ∧ t.accs = [] ∧ t.waits = [] ∧ t.takes = [] ∧ t.net = [] ∧ t.reed = [] ∧ t.root = State.reset.root ∧ t.aclk = State.reset.aclk
        ∧ (tblWf {} s.dies = true → ∀ d, let b := (s.die d).boot
          t.die d = { boot := { flash := b.flash, repairs := b.repairs, repairSigs := b.repairSigs } })
        ∧ t.standalone = s.standalone ∧ t.straps = s.straps ∧ t.mem = s.mem ∧ t.poison = s.poison)
      ∧ (s.standalone = true → exec .perst s = exec .moduleReset s)
      ∧ (s.standalone = false →
        exec .perst s = .next (s.modDie s.ev.die fun x => { x with wins := [], hostQueue := [] })))
  ∧ (
    ∀ (s : State) (secret : BitVec 256) (l : List RepairEntry),
      let d := s.ev.die
      let b := (s.die d).boot
      let img := b.flash
      let e := flashNum img 0x10
      let k1 := (img.drop 0x40).take 32
      let k2 := (img.drop 0x60).take 1952
      let ed := sha384 k1 = Config.romDigests.1 ∧ Config.ed25519Verifies k1 (img.take e) ((img.drop e).take 64) = true
      let mldsa := sha384 k2 = Config.romDigests.2 ∧ Config.mldsaVerifies k2 (img.take e) ((img.drop (e + 64)).take 3309) = true
      let puf := Config.pufSecret d (img.drop (flashNum img 0x20))
      let keys := Config.deviceKeys secret
      let map := addRepairs b.repairs l
      let t := map.foldl (fun s e => s.retireUnit d e) s
      let u := if map = b.repairs then t else t.writeRepairs d map
      (b.stage = 0 → b.fatal = false →
        (ed → mldsa → exec .imageVerify s = .next (s.modBoot d fun x => { x with stage := 1 }))
        ∧ (¬ed → exec .imageVerify s = .next (s.modBoot d (·.fail 1 0 1)))
        ∧ (ed → ¬mldsa → exec .imageVerify s = .next (s.modBoot d (·.fail 1 0 2))))
      ∧ (b.stage = 1 → b.fatal = false →
        (puf = some secret → exec .identityDerive s = .next (s.modBoot d fun x =>
          { x with ready := x.ready ||| 1#27 <<< 25, stage := 2
                   devid := BitVec.ofNat 128 (bytesNat ((sha384 (keys.1 ++ keys.2)).take 16)) }))
        ∧ (puf = none → exec .identityDerive s = .next (s.modBoot d (·.fail 2 0 3))))
      ∧ (s.ev.load = .repairs l → b.stage = 2 → b.fatal = false →
        ((∀ e ∈ map, lostCore e ≠ some 0) → exec .selfTest s =
          .next (u.modBoot d fun x => { x with ready := x.ready ||| 0x3c000#27, stage := 3 }))
        ∧ ((∃ e ∈ map, lostCore e = some 0) → exec .selfTest s = .next (u.modBoot d fun x => x.fail 3 0 4)))
      ∧ (∀ x : State, ((x.writeRepairs d map).die d).boot.repairs = map)
      ∧ (∀ (e : RepairEntry) (u : State),
        (e.kind = 1 → ((u.retireUnit d e).core d e.unit).rslot = ((u.core d e.unit).rslot ||| 1#16 <<< e.sub.toNat))
        ∧ (e.kind = 2 → e.sub.toNat < 8 → ((u.retireUnit d e).core d e.unit).rslot =
          ((u.core d e.unit).rslot ||| 3#16 <<< (2 * e.sub.toNat)))
        ∧ (e.kind = 1 → e.sub ≠ 15 → (u.retireUnit d e).core d e.unit =
          { u.core d e.unit with rslot := (u.core d e.unit).rslot ||| 1#16 <<< e.sub.toNat })
        ∧ (e.kind = 2 → e.sub.toNat < 7 → (u.retireUnit d e).core d e.unit =
          { u.core d e.unit with rslot := (u.core d e.unit).rslot ||| 3#16 <<< (2 * e.sub.toNat) })
        ∧ (e.kind = 3 ∨ e.kind = 1 ∧ e.sub = 15 ∨ e.kind = 2 ∧ e.sub = 7 →
          ((u.retireUnit d e).core d e.unit).retired = true)
        ∧ (e.kind = 4 → ((u.retireUnit d e).shed d (e.unit.extractLsb' 0 9)).retired = true)
        ∧ (e.kind = 6 → ((u.retireUnit d e).hart d (e.unit.extractLsb' 0 6)).retired = true))
      ∧ (∀ (x : BootSt) (st un code : Nat), x.err = 0 →
        (x.fail st un code).err = BitVec.ofNat 8 code ++ BitVec.ofNat 4 un ++ BitVec.ofNat 4 st))
  ∧ (
    ∀ (s : State) (ok : BitVec 12) (up failed : BitVec 4) (pcie : Bool) (p : Probe) (l : List RingInit) (ctxs : List CtxInit)
        (draft : List (BitVec 12 × Word)),
      let d := s.ev.die
      let b := (s.die d).boot
      let alive := if s.standalone then 0 else up
      (s.ev.load = .stacks ok → b.stage = 3 → b.fatal = false → b.trained = false → ∃ t, exec .hbmTrainingDone s = .next t
        ∧ (∀ pa, paDie pa = d → paSpace pa = 0 → t.full.contains pa = false) ∧ (t.die d).keys = [] ∧ t.mem = s.mem
        ∧ (ok = BitVec.allOnes 12 → (t.die d).boot = { b with ready := b.ready ||| 0x3fff#27, trained := true })
        ∧ (ok ≠ BitVec.allOnes 12 → (t.die d).boot.trained = false
          ∧ (b.err = 0 → (t.die d).boot.err.extractLsb' 0 4 = 4 ∧ (t.die d).boot.err.extractLsb' 8 8 = 5)))
      ∧ (s.ev.load = .links up failed pcie → b.stage = 3 → b.fatal = false → b.linked = false →
        ∃ t, exec .linkTrainingDone s = .next t ∧ (t.die d).boot.linked = true ∧ (t.die d).boot.stage = 3
          ∧ (t.die d).boot.ready = (b.ready ||| alive.zeroExtend 27 <<< 19 ||| if pcie then 1#27 <<< 23 else 0)
          ∧ (t.die d).boot.hostPort = (b.hostPort || pcie) ∧ (t.die d).boot.fatal = false
          ∧ (∀ n, n < 4 → (tblGet {} n (t.die d).links : LinkSt).state = if alive.getLsbD n then .up else .down)
          ∧ (failed ≠ 0 → b.err = 0 → (t.die d).boot.err.extractLsb' 0 4 = 5))
      ∧ (let place := s.place8 d
        let all := s.probed 63 [d]
        let good := s.positions all
        let hosts := s.positions (all.filter fun e => (s.die e).boot.hostPort)
        let c : BootSt := { b with px := BitVec.ofNat 3 place, py := BitVec.ofNat 3 (place / 8), die := d, good
                                   solo := s.standalone, present := true }
        (s.ev.load = .probe p → b.linked = true → b.fatal = false → b.present = false →
          (∀ e ∈ all, (s.die e).boot.present = true → (s.die e).boot.good = good) → goodBelow good place = d.toNat →
          routesOk p.routes = true → p.coreRoutes = [] → ∃ t, exec .probeWindowEnd s = .next t
            ∧ (t.die d).boot = { c with ready := b.ready ||| 1#27 <<< 24, root := rootPosition good hosts == place }
            ∧ (t.die d).routes = p.routes ∧ t.mem = s.mem ∧ t.slots = s.slots)
        ∧ (b.linked = false ∨ b.fatal = true ∨ b.present = true → exec .probeWindowEnd s = .next s)
        ∧ (s.standalone = true → place = 0))
      ∧ (b.ready.getLsbD 24 = false ∨ b.trained = false ∨ b.fatal = true → exec .launchRingsReady s = .next s)
      ∧ (b.ready.getLsbD 24 = true → b.trained = true → b.fatal = false → b.ready.getLsbD 18 = false →
        s.ev.load = .rings l ctxs draft → s.draftDiffers d draft = false → ∃ t, exec .launchRingsReady s = .next t
        ∧ (t.die d).heddle.en = true ∧ (t.die d).heddle.cur = 0 ∧ (t.die d).boot.ready = (b.ready ||| 1#27 <<< 18)
        ∧ (∀ q, ctxs = [q] → let x : CtxReg := tblGet {} q.ctx.toNat (t.die d).ctxs
          x.asid = q.mode.extractLsb' 0 16 ∧ x.en = q.mode.getLsbD 16)
        ∧ (∀ q, draft = [q] → tblGet 0 q.1.toNat (t.die d).heddle.curs = q.2)
        ∧ (∀ r, l = [r] → (tblGet {} 0 (t.die d).boot.rings : Ring) = ⟨r.base, r.slots, r.core⟩)
        ∧ (∀ r, l = [r] → r.slots ≠ 0 → (s.core d r.core).retired = false → (s.slot ⟨d, r.core, 15⟩).state = .free →
          (t.slot ⟨d, r.core, 15⟩).state = .ready ∧ (t.slot ⟨d, r.core, 15⟩).pc = r.pc
            ∧ (t.slot ⟨d, r.core, 15⟩).g 1 = r.base.zeroExtend 64))
      ∧ (b.ready.getLsbD 24 = true → b.trained = true → b.fatal = false → b.ready.getLsbD 18 = true →
        ((∀ e ∈ b.rings, e.2.slots = 0 ∨ s.ringParked d e.2 = true) →
          exec .launchRingsReady s = .next (s.modBoot d fun x => { x with ready := x.ready ||| 1#27 <<< 26 }))
        ∧ ((∃ e ∈ b.rings, e.2.slots ≠ 0 ∧ s.ringParked d e.2 = false) → exec .launchRingsReady s = .next s)))

/-- 11 R345, R347; 14 R388: a launch that was accepted completes once, with a STATUS that its task allows, and not
before; its completion record leaves through the host port that serves its die, with its vector behind it; at the end
of a millisecond a row above its cap loses one sixteenth of DUTY, down to 4, and one well below gains one. 01 R41 to
R44; 15 R393: the host port: an access through a closed window, a fill alias access that is no aligned double and one
to an address that does not exist are counted, and their reads answered Unsupported Request; another is performed in
order, once its units are ready: a write stores its bytes, a fill fills its double, and a read answers with the bytes;
BAR0 reaches the registers of the die, where a reserved offset reads zero. -/
def Obligations.HostAndPower : Prop :=
  (
    ∀ (s : State) (l : LaunchDone) (q : Launch) (h : Die) (m : PowerMeas) (pwr cap die hbm pkg duty : Nat),
      let d := s.ev.die
      let found := (s.die d).launches.find? fun q => q.level == l.level && q.slot == l.ringSlot
      let u := s.modDie d fun x => { x with launches := x.launches.erase q }
      let w : List Word := [q.word 0x48, q.word 0xb8, q.slot ++ 0#14 ++ q.level ++ l.status, s.aclk - q.since]
      let t : State := { u with hostOut := s.hostOut ++ [.record h (q.word 0x38) w] }
      (s.ev.load = .launch l → found = none → exec .launchCompletion s = .next s)
      ∧ (s.ev.load = .launch l → found = some q →
        (s.statusFits d q l.loom l.status = false → exec .launchCompletion s = .next s)
        ∧ (s.statusFits d q l.loom l.status = true →
          s.dispatchReleases d (tblGet {} l.level.toNat (s.die d).boot.rings) = true →
          (s.hostDie d = some h → (q.word 0x40).getLsbD 8 = false → exec .launchCompletion s = .next t)
          ∧ (s.hostDie d = some h → (q.word 0x40).getLsbD 8 = true →
            exec .launchCompletion s = .next (t.msix d ((q.word 0x40).extractLsb' 0 8)))
          ∧ (s.hostDie d = none → exec .launchCompletion s = .next u)))
      ∧ (8 < l.status.toNat → s.statusFits d q l.loom l.status = false)
      ∧ (l.status = 0 → (s.statusFits d q l.loom l.status = true ↔ s.launchRefused d q = false ∧
        (if (q.word 0).getLsbD 0 then ((q.word 0x18).extractLsb' 0 16).toNat ≤ q.notices
          else 1 ≤ q.notices ∧ (s.loom d l.loom).state = .free)))
      ∧ (s.ev.load = .power m → ∃ u, exec .powerDutyUpdate s = .next u
        ∧ (∀ p, p < 16 → let r : PowerRow := tblGet {} p (s.die d).power
          (tblGet {} p (u.die d).power : PowerRow) = { r with pwr := m.rows.getD p 0, duty := BitVec.ofNat 5 (dutyNext
            (m.rows.getD p 0).toNat r.cap.toNat m.die.toNat m.hbm.toNat (s.die d).pkgcap.toNat r.duty.toNat) })
        ∧ (u.die d).diePower = m.die ∧ (u.die d).hbmPower = m.hbm ∧ (u.die d).vcore = m.vcore ∧ (u.die d).tmax = m.tmax
        ∧ u.mem = s.mem ∧ u.slots = s.slots)
      ∧ (cap < pwr ∨ pkg * 16 < die + hbm → dutyNext pwr cap die hbm pkg duty = max (duty - 1) 4)
      ∧ (pwr ≤ cap → die + hbm ≤ pkg * 16 → pwr < cap * 15 / 16 → die + hbm ≤ pkg * 15 →
        dutyNext pwr cap die hbm pkg duty = min (duty + 1) 16)
      ∧ (pwr ≤ cap → die + hbm ≤ pkg * 16 → cap * 15 / 16 ≤ pwr ∨ pkg * 15 < die + hbm →
        dutyNext pwr cap die hbm pkg duty = duty))
  ∧ (
    ∀ (s : State) (win : BitVec 4) (o : BitVec 32) (bs : List Byte) (n : Nat) (off : BitVec 30) (v : Option Word),
      let d := s.ev.die
      let w : HostWin := tblGet {} win.toNat (s.die d).wins
      let pa := (w.base ++ o).toNat
      let there := (s.badPa d pa).isNone ∧ (s.badPa d (pa + (n - 1))).isNone
      let ur : State → State := fun t => { t with hostOut := t.hostOut ++ [HostOut.answer d none] }
      let idle : State → State := fun t => t.modDie d fun x => { x with hostQueue := [] }
      let does : Bool → Option (List Byte) → Result := fun fill data =>
        .next ((idle s).performHost d { pa, key := w.key, fill, data, n })
      (s.die d).boot.hostPort = true → (s.die d).hostQueue = [] →
      (s.ev.load = .hostWrite win o bs → bs.length = n →
        (w.en = false → exec .hostDirectWrite s = .next (s.countNotify d .hostPort 0x2d))
        ∧ (w.en = true → (s.badPa d pa).isSome → exec .hostDirectWrite s = .next (s.countNotify d .hostPort 0x26))
        ∧ (w.en = true → there → s.unitsReady d pa = true → exec .hostDirectWrite s = does false (some bs))
        ∧ (o.toNat % 8 ≠ 0 ∨ n ≠ 8 → exec .fillAliasWrite s = .next (s.countNotify d .hostPort 0x2e))
        ∧ (o.toNat % 8 = 0 → n = 8 → w.en = false → exec .fillAliasWrite s = .next (s.countNotify d .hostPort 0x2d))
        ∧ (o.toNat % 8 = 0 → n = 8 → w.en = true → there → s.unitsReady d pa = true →
          exec .fillAliasWrite s = does true (some bs)))
      ∧ (s.ev.load = .hostRead win o n →
        (w.en = false → exec .hostDirectRead s = .next (ur (idle (s.countNotify d .hostPort 0x2d)))
          ∧ exec .fillAliasRead s = .next (ur (idle (s.countNotify d .hostPort 0x2d))))
        ∧ (w.en = true → (s.badPa d pa).isSome → exec .hostDirectRead s = .next (ur (idle (s.countNotify d .hostPort 0x26))))
        ∧ (w.en = true → there → s.unitsReady d pa = true → exec .hostDirectRead s = does false none
          ∧ exec .fillAliasRead s = does true none))
      ∧ (∀ (q : HostReq) (t : State), paSpace q.pa ≠ 2 → q.fixed = none →
        (q.data = some bs → q.fill = true → t.performHost d q =
          State.fillDouble { t with hostFull := setAdd (doubleOf q.pa) t.hostFull } q.key q.pa (wordOfBytes bs))
        ∧ (q.data = none → (∀ k, k < q.n → t.isPoisoned (q.pa + k) = false) → t.performHost d q =
          { t with hostOut := t.hostOut ++ [HostOut.answer d (some (t.readBytes q.key q.pa q.n))] })
        ∧ (q.data = none → (∃ k, k < q.n ∧ t.isPoisoned (q.pa + k) = true) → t.performHost d q = ur t))
      ∧ (s.ev.load = .bar0 off v →
        (regBlock off.toNat = false → v = none → exec .bar0Access s =
          .next { idle s with hostOut := s.hostOut ++ [HostOut.answer d (some (List.replicate 8 0))] })
        ∧ (regBlock off.toNat = false → v ≠ none → exec .bar0Access s = .next s)))

/-- 15 R406, R407: a correctable error is counted in its unit's log; an uncorrectable one is logged where it is found:
at the controller or memory of the double's home or the L2 slice that serves it, the double is poisoned and empty; in
an L1D that holds the line, that copy is poisoned. The unit notifies. 16 R423: a core whose last 16 correctable errors
lie within a second is suspect; a suspect core whose slots are free is retired, counted, noted in the repair map, and
its supervisor slot is free. 16 R419, R422, R428: a failed core's threads end: a journaled one is re-run elsewhere
from its last sealed record, another is lost; the core is retired and its memory poisoned; a failed register-file bank
costs its two slots, and bank 7 the core. A core or bank that is already out of use does not fail again. -/
def Obligations.PartsFail : Prop :=
  (
    ∀ (s : State) (u : LogUnit) (c : CoreNo),
      let d := s.ev.die
      let pa := s.ev.val.toNat
      (s.ev.load = .logUnit u → (∀ c, u ≠ .core c) → exec .eccCorrectable s = .next (s.count d u 0x38))
      ∧ (s.ev.load = .logUnit (.core c) → let t := s.count d (.core c) 0x38
        exec .eccCorrectable s = .next (t.modCore d c fun x => { x with errs := (t.aclk :: x.errs).take 16 }))
      ∧ (paSpace pa = 2 ∨ (s.badPa (paDie pa) pa).isSome → exec .eccUncorrectable s = .next s)
      ∧ (paSpace pa ≠ 2 → s.badPa (paDie pa) pa = none →
        let home : LogUnit → Result := fun v => .next (((s.setEmpty pa).setPoison pa).countNotify (paDie pa) v 0x39)
        (paSpace pa = 1 ∨ s.ev.load = .none → exec .eccUncorrectable s = home (errorUnit pa))
        ∧ (∀ n, paSpace pa = 0 → s.ev.load = .logUnit (.l2 n) → n.toNat = sliceOf (paOffset pa) →
          exec .eccUncorrectable s = home (.l2 n))
        ∧ (paSpace pa = 0 → s.ev.load = .logUnit (.core c) →
          (tblGet [] (lineOf pa) (s.core d c).l1d = [] → exec .eccUncorrectable s = home (errorUnit pa))
          ∧ (tblGet [] (lineOf pa) (s.core d c).l1d ≠ [] →
            exec .eccUncorrectable s = .next ((s.poisonL1d d c pa).countNotify d (.core c) 0x39))))
      ∧ (paSpace pa = 0 → errorUnit pa = .hbm (BitVec.ofNat 4 (stackOf (paOffset pa)))))
  ∧ (
    ∀ (s : State),
      let d := s.ev.die
      let c := s.ev.core
      let x := s.core d c
      (x.errorProne = true → exec .coresusp s = .next (s.suspectCore d c))
      ∧ (x.errorProne = false → exec .coresusp s = .next s)
      ∧ (x.errorProne = true ↔ 16 ≤ x.errs.length ∧ (x.errs.headD 0 - x.errs.getLastD 0).toNat ≤ 1100000000)
      ∧ (x.suspect = false ∨ x.retired = true ∨ s.coreEmpty d c = false → exec .coreret s = .next s)
      ∧ (x.suspect = true → x.retired = false → s.coreEmpty d c = true → ∃ t, exec .coreret s = .next t
        ∧ (t.core d c).retired = true ∧ (t.slot ⟨d, c, 15⟩).state = .free ∧ t.mem = s.mem
        ∧ ({ kind := 3, unit := c, sub := 0 } : RepairEntry) ∈ (t.die d).boot.repairs
        ∧ (∀ i : SlotId, i ≠ ⟨d, c, 15⟩ → t.slot i = s.slot i))
      ∧ (s.coreEmpty d c = true → ∀ n : SlotNo, n ≠ 15 → (s.slot ⟨d, c, n⟩).state = .free))
  ∧ (
    ∀ (s : State),
      let d := s.ev.die
      let c := s.ev.core
      let b := s.ev.unit % 8
      let placed : State → State := fun t => t.placeReruns d (t.die d).reruns.length
      (exec .coreFail s = .next (placed (s.failCore d c 0)) ∧ exec .coreHeartbeatLoss s = .next (placed (s.failCore d c 0)))
      ∧ ((s.core d c).retired = true → (∀ sub, s.failCore d c sub = s) ∧ exec .bankFail s = .next s)
      ∧ ((s.core d c).retired = false → (s.die d).reruns = [] → (∀ n : SlotNo, (s.slot ⟨d, c, n⟩).state = .free) →
        ∃ t, exec .coreFail s = .next t ∧ (t.core d c).retired = true ∧ (t.core d c).failed = true
          ∧ (∀ k, k < 0x4000 → t.isPoisoned (paOf d 1 (c.toNat * 0x20000) + 8 * k) = true)
          ∧ (∀ k, k < 0x10000 → t.isPoisoned (paOf d 1 (0x40000000 + c.toNat * 0x80000) + 8 * k) = true)
          ∧ t.mem = s.mem ∧ ({ kind := 3, unit := c, sub := 0 } : RepairEntry) ∈ (t.die d).boot.repairs)
      ∧ (∀ (t : State) (i : SlotId), t.jnlOf i = true → (t.slot i).state ≠ .free → t.movedAway i = false →
        let u := t.failThread i
        (u.slot i).state = .free ∧ ∃ r ∈ (u.die i.die).reruns, r.old = i ∧ r.inc = (t.slot i).inc)
      ∧ ((s.core d c).retired = false → b = 7 → exec .bankFail s = .next (placed (s.failCore d c 1)))
      ∧ ((s.core d c).retired = false → b < 7 →
        ((s.core d c).rslot.getLsbD (2 * b) = true → (s.core d c).rslot.getLsbD (2 * b + 1) = true →
          exec .bankFail s = .next (placed s))
        ∧ ((s.core d c).rslot.getLsbD (2 * b) = false → (s.die d).reruns = [] →
          (s.slot ⟨d, c, BitVec.ofNat 4 (2 * b)⟩).state = .free → (s.slot ⟨d, c, BitVec.ofNat 4 (2 * b + 1)⟩).state = .free →
          ∃ t, exec .bankFail s = .next t ∧ (t.core d c).rslot = ((s.core d c).rslot ||| 3#16 <<< (2 * b))
            ∧ (t.core d c).retired = false ∧ t.mem = s.mem ∧ t.slots = s.slots)))

/-- 16 R416, R417: a failed shed loses its state, leaves its loom, which is LEASED, and the arbiter is asked for a
substitute; a thread that waits for the loom takes SHEDFAIL; one that does not pass its self-test is retired. 16 R420,
R421: the engine performs the first sealed record of a die that is not done: its entries in program order, then the
effect of its REPLY and that of its EXIT; without one it does nothing. -/
def Obligations.ShedsFailAndJournals : Prop :=
  (
    ∀ (s : State) (ok : Bool),
      let d := s.ev.die
      let h := s.ev.shed
      let x := s.shed d h
      let y := s.loom d x.loom
      (x.retired = true → exec .shedfail s = .next s)
      ∧ (s.ev.load = .passed ok → x.retired = false → x.state = .free →
        (ok = true → exec .shedfail s = .next ((s.dropShed d h).modShed d h (·.cleared true)))
        ∧ (ok = false → exec .shedfail s =
          .next ((((s.dropShed d h).modShed d h (·.cleared false)).orphanShed d h).noteRepair d { kind := 4, unit := 0#2 ++ h, sub := 0 })))
      ∧ (s.ev.load = .passed ok → x.retired = false → x.state ≠ .free → ∃ t, exec .shedfail s = .next t
        ∧ (t.shed d h).retired = !ok ∧ (t.shed d h).fcb = [] ∧ (t.loom d x.loom).owner = none
        ∧ (t.loom d x.loom).state = .leased
        ∧ (∀ i, y.owner = some i → isPriv i = false → s.takes = [] → s.trapWaits i = false →
          (t.slot i).state = .trapped ∧ (t.loom d x.loom).failed = none)
        ∧ (y.owner = none → (t.loom d x.loom).failed = some (x.rel.toNat, !y.noReplay))
        ∧ (x.rel.toNat < y.sheds.length → (∀ g, g ≠ h → (s.shed d g).loom = x.loom → (s.shed d g).rel ≠ x.rel) →
          ∃ r ∈ (t.die d).leases, r.kind = .substitute x.loom x.rel.toNat))
      ∧ (∀ (z : ShedSt), (z.cleared ok).state = .free ∧ (z.cleared ok).retired = (z.retired || !ok)
        ∧ (z.cleared ok).words = [] ∧ (z.cleared ok).elog = z.elog ∧ (z.cleared ok).sxfault = z.sxfault))
  ∧ (
    ∀ (s : State) (r : JournalRec) (i : SlotId) (inc : Byte) (e : LogEntry),
      let d := s.ev.die
      let first := (s.die d).journal.find? fun q => q.closed && !q.done
      let t := r.stores.foldl (fun u e => u.performEntry i inc e) s
      let done : State → State := fun u =>
        let v := ((u.slots.filter fun e => e.2.jrec == some r.seq).map fun e => keyCore (e.1 / 16)).foldl
          (fun w c => w.dropL1d c.1 c.2) u
        (v.modDie d fun x => { x with journal := x.journal.map fun q => if q.seq == r.seq then { q with done := true } else q }).prune d
      (first = none → exec .journalPerform s = .next s)
      ∧ (first = some r → r.owner = .slot i inc →
        (r.reply = none → r.exit = false → exec .journalPerform s = .next (done t))
        ∧ (∀ v, r.reply = some v → r.exit = false → exec .journalPerform s = .next (done (t.replyEffects i r.image.role v)))
        ∧ (r.reply = none → r.exit = true →
          exec .journalPerform s = .next (done (t.exitEffects i { r.image with inc := inc }))))
      ∧ (∀ n, e.op = .store n → paSpace e.pa ≠ 2 →
        s.performEntry i inc e = (s.plainWrite e.key e.pa n e.data).dropLine i.die i.core e.pa)
      ∧ (∀ m, e.op = .mail m → s.performEntry i inc e = s.send (.mail m))
      ∧ (∀ f, e.op = .fill f → s.performEntry i inc e = (s.fillDouble e.key e.pa e.data).dropLine i.die i.core e.pa)
      ∧ (e.op = .purge → s.isPoisoned e.pa = false → s.orphaned e.pa = false →
        s.performEntry i inc e = (s.setEmpty e.pa).scanWaiters e.key e.pa))

/-- 16 R429, R431; 06 R184: a replay is counted; after eight failed replays of a flit its link trains again at both
ends, and training that ends well brings it up; a flit in order is accepted, one with a bad CRC or behind a gap is
replayed, a duplicate is discarded, and one of another generation is dropped with its packet; the words of a network
register arrive in order. 16 R427, R430, R431, R433: training that fails takes a link down at both ends, each of which
notifies, and a die that is cut off leaves the panel; so does one whose heartbeat is lost: its GOOD bit is cleared and
its units are gone. A rebuilt tree gives every die its routes; a generation that advances is known to every receiver. -/
def Obligations.LinksAndDies : Prop :=
  (
    ∀ (s : State) (f : LinkFlit) (e : Die) (i : SlotId) (p : BitVec 3) (w : Word),
      let d := s.ev.die
      let n := s.ev.unit % 4
      let l := s.link d n
      let replayed : State → Die → Nat → State := fun t a k =>
        (t.count a (.link (BitVec.ofNat 2 k)) 0x4e).modLink a k fun x => { x with replays := x.replays + 1 }
      let set : State → LinkState → Bool → State := fun t st clear => t.modBothEnds d n fun x =>
        if clear then { x with state := st, replays := 0 } else { x with state := st }
      (l.state = .up → exec .linkretry s = .next (replayed s d n))
      ∧ (l.state ≠ .up → exec .linkretry s = .next s ∧ exec .linkRetrain s = .next s)
      ∧ (l.state = .up → (8 ≤ l.replays → exec .linkRetrain s = .next (set s .training false))
        ∧ (l.replays < 8 → exec .linkRetrain s = .next s))
      ∧ (l.state = .training → exec .linkRetrained s = .next (set s .up true))
      ∧ (l.state ≠ .training → exec .linkRetrained s = .next s)
      ∧ (∀ (t : State) (g : LinkSt → LinkSt), t.neighbour d n = some e → e ≠ d →
        (t.modBothEnds d n g).link d n = g (t.link d n) ∧ (t.modBothEnds d n g).link e (linkBack n) = g (t.link e (linkBack n)))
      ∧ (s.ev.load = .flit f → s.neighbour d n = some e →
        (l.state ≠ .up → exec .flitArrival s = .next s)
        ∧ (l.state = .up → let t := s.noteFlit e (linkBack n) f
          let at0 := (t.link d n).recvSeq
          (f.crcOk = false ∨ (0 < f.seq - at0 ∧ f.seq - at0 < 0x800) →
            exec .flitArrival s = .next (replayed t e (linkBack n)))
          ∧ (f.crcOk = true → 0x800 ≤ f.seq - at0 → exec .flitArrival s = .next t)
          ∧ (f.crcOk = true → f.seq = at0 →
            let u := (t.modLink d n fun x => { x with recvSeq := x.recvSeq + 1 }).modLink e (linkBack n) fun x => { x with replays := 0 }
            (u.acceptsGen d f.source f.gen = true → exec .flitArrival s = .next u)
            ∧ (u.acceptsGen d f.source f.gen = false →
              exec .flitArrival s = .next ((u.dropPacket f.packet).countNotify d (.link (BitVec.ofNat 2 n)) 0x50)))))
      ∧ (s.packet s.ev.id = some (.netWord i p w) →
        (s.wordBehind s.ev.id i p = true → exec .networkWordArrival s = .next s)
        ∧ (s.wordBehind s.ev.id i p = false → (s.core i.die i.core).retired = true →
          exec .networkWordArrival s = .next (s.dropPacket s.ev.id))
        ∧ (s.wordBehind s.ev.id i p = false → (s.core i.die i.core).retired = false → exec .networkWordArrival s =
          .next ((s.dropPacket s.ev.id).modCore i.die i.core fun c =>
            { c with netIn := tblSet [] p.toNat (tblGet [] p.toNat c.netIn ++ [w]) c.netIn }))))
  ∧ (
    ∀ (s : State) (l : List RouteTable) (e : Die),
      let d := s.ev.die
      let n := s.ev.unit % 4
      let down := ((s.modBothEnds d n fun x => { x with state := .lost }).countNotify d (.link (BitVec.ofNat 2 n)) 0x4f)
      ((s.link d n).state ≠ .training → exec .linkdown s = .next s)
      ∧ ((s.link d n).state = .training → down.neighbour d n = some e →
        let t := down.countNotify e (.link (BitVec.ofNat 2 (linkBack n))) 0x4f
        t.neighbour d n = some e → t.cutOff d = false → t.cutOff e = false → exec .linkdown s = .next t)
      ∧ ((s.die d).boot.present = false → exec .dieHeartbeatLoss s = .next s)
      ∧ ((s.die d).boot.present = true → ∃ t, exec .dieHeartbeatLoss s = .next t
        ∧ (∀ i : SlotId, i.die = d → t.slot i = {}) ∧ (∀ c, t.core d c = {}) ∧ (∀ h, t.shed d h = {})
        ∧ (∀ pa, paDie pa = d → t.byteAt pa = 0) ∧ (∀ pa, paDie pa ≠ d → t.byteAt pa = s.byteAt pa)
        ∧ (∀ c : Die, c ≠ d → (t.die c).boot.present = true →
          (t.die c).boot.good.getLsbD ((s.die d).boot.py.toNat * 8 + (s.die d).boot.px.toNat) = false))
      ∧ (s.ev.load = .routes l → ∃ t, exec .spanningTreeRebuild s = .next t
        ∧ (∀ r, l = [r] → r.core = none → (t.die r.die).routes = r.entries)
        ∧ (∀ r c, l = [r] → r.core = some c → (t.core r.die c).routes = some r.entries) ∧ t.mem = s.mem ∧ t.slots = s.slots
        ∧ (∀ (c : Die) (k : Nat), (t.link c k).state ≠ .lost))
      ∧ (∃ t, exec .generationAdvance s = .next t ∧ (t.die d).gen = (s.die d).gen + 1 ∧ t.mem = s.mem ∧ t.slots = s.slots
        ∧ (∀ c ∈ t.dies, tblGet 0 d.toNat c.2.peerGens = (s.die d).gen + 1)))

/-- 06 R174 to R178, the worked encodings: the words decode to the instructions that they are written out for. -/
def Obligations.WorkedEncodingsDecode : Prop :=
  decodeThread 0x02385030 = some (.add false 5 6 7)
  ∧ decodeThread 0x09fc5e35 = some (.addi 5 6 (-3))
  ∧ decodeThread 0x601ffe16 = some (.beq 2 3 (-2))
  ∧ decodeThread 0x20385832 = some (.fmul .e4m3 5 6 7)
  ∧ decodeGraph 0x2089e0fc = some (.elementwiseNode (.fp .fmul .e4m3) (.node 30 .l) (.node 31 .o))
  ∧ decodeThread 0 = some .ill ∧ decodeGraph 0 = none
  ∧ isHeader 0xfe061400 = true ∧ decodeThread 0xfe061400 = none
  ∧ bytesOf 0x02385030 = [0x30, 0x50, 0x38, 0x02] ∧ decodeTableWord 32 0x02385030 = some (.add false 5 6 7)

/-- 06 R174 to R192: the word that the encoding tables give a well-formed instruction decodes to that instruction, with
every operand at every value; it is no block header. 06 R186, R192: a word that decodes is the word of its instruction:
every bit of it has its meaning, and two words never stand for one instruction. -/
def Obligations.WordsAndInstructionsAgree : Prop :=
  (
    ∀ (i : Instr) (w : Inst), i.wf = true → encode i = some w →
      ((threadFields i).isSome = true → decodeThread w = some i ∧ isHeader w = false)
      ∧ ((threadFields i).isSome = false → decodeGraph w = some i))
  ∧ (
    ∀ (w : Inst) (i : Instr),
      (decodeThread w = some i → i.wf = true ∧ encode i = some w) ∧ (decodeGraph w = some i → i.wf = true ∧ encode i = some w))

/-- 06 R180, R192; 14 R378: a step runs the instruction that the word fetched at the PC of the slot stands for, a node
fires the instruction of its slot, and an event acts; a header is passed over, and an unassigned word traps ILLEGAL 0.
Which agent has the turn is the model's choice (log entry 1). -/
def Obligations.StepRunsTheDecoded : Prop :=
  ∀ (s t : State) (i : SlotId) (n : NodeId) (e : EvArg) (w : Inst) (x : Instr) (pa : Nat) (key : Byte),
    let after : Result → Result → Prop := fun a b =>
      (∀ u, a = .next u → b = .next u.settle) ∧ (∀ f, a = .fault f → b = .fault f) ∧ (∀ r, a = .refused r → b = .refused r)
    (s.turn = .slot i → (s.slot i).retries = false → s.beginTurn i = .word w t →
      (decodeThread w = some x → after (exec x t) (step s))
      ∧ (decodeThread w = none → after (t.perform (.trap 0x01 0 0 0)) (step s)))
    ∧ (s.turn = .slot i → (s.slot i).retries = false ∨ s.reports i = true → s.beginTurn i = .ended t → step s = .next t.settle)
    ∧ (s.turn = .slot i → (s.slot i).retries = true → s.reports i = false →
      step s = .next s.settle ∨ step s = .next (s.wake i).settle)
    ∧ (s.turn = .slot i → s.reports i = false → (s.slot i).state = .ready → (s.slot i).fails = [] → s.jnlOf i = false →
      let pc := (s.slot i).pc
      let c := t.unhold i.die (.fetch i)
      fetchFault pc = none → s.reach i pc needX false ((s.die i.die).held.any (·.who == .fetch i)) = .ok pa key t →
      c.isPoisoned pa = false → tblGet none pa (c.core i.die i.core).l1i = none →
      let word : Inst := (c.readHome key pa 4).extractLsb' 0 32
      let d := c.modCore i.die i.core fun y => { y with
        l1i := tblSet none pa (some word) (makeRoom l1iWords c.tick (tblDel pa y.l1i)) }
      (isHeader word = false → decodeThread word = some x → after (exec x { d.turnOf i with word := word }) (step s))
      ∧ (isHeader word = true → (decodeHeader word).isSome = true →
        step s = .next (d.modSlot i fun y => { y with pc := y.pc + 4 }).settle))
    ∧ (s.turn = .node n → decodeGraph (tblGet 0 n.slot.toNat (s.shed n.die n.shed).words) = some x →
      after (exec x { s with node := n }) (step s))
    ∧ (s.turn = .node n → decodeGraph (tblGet 0 n.slot.toNat (s.shed n.die n.shed).words) = none → step s = .next s.settle)
    ∧ (s.turn = .event x e → after (exec x { s with ev := e }) (step s))
    ∧ (s.turn = .idle → step s = .next s.settle)

/-- 06 R183 to R185: what an instruction changes when it completes with a result: the register that rd names (g0
discards it, a network register sends it to the neighbour), the PC, which is at the next word, and nothing else: no
other register, no flag, no other slot, no byte of memory. 01 R34; 04 R114, R141; 07 R227: what a write at its home
changes: the bytes it covers, which then read as written; no other byte, full/empty bit or register. Under an XTS key
the stored bytes are those of the sectors it touches. -/
def Obligations.ResultAndWriteFrames : Prop :=
  (
    ∀ (s : State) (d : Reg) (v : Word),
      let t := s.finish d v
      let x := s.slot s.cur
      let y := t.slot s.cur
      y.pc = x.pc + 4 ∧ y.state = .ready
      ∧ (∀ r, y.g r = if r = d ∧ d ≠ 0 ∧ d < 32 then v else x.g r)
      ∧ (∀ k, y.mw k = if 48 ≤ d ∧ d < 54 ∧ d.toNat = 48 + k then v else x.mw k)
      ∧ { y with pc := x.pc, state := x.state, await := x.await, since := x.since, limit := x.limit, regs := x.regs, win := x.win } = x
      ∧ (∀ i, i ≠ s.cur → t.slot i = s.slot i)
      ∧ { t with slots := s.slots, net := s.net, nextId := s.nextId } = s
      ∧ (isNet d = false → t.net = s.net ∧ t.nextId = s.nextId)
      ∧ (∀ c, isNet d = true → netPartner s.cur.core (d.toNat - 32) = some c → t.net = s.net ++
        [{ id := s.nextId, packet := .netWord ⟨s.cur.die, c, 0⟩ (BitVec.ofNat 3 (netOpposite (d.toNat - 32))) v }]))
  ∧ (
    ∀ (s : State) (key : Byte) (pa : Nat) (bs : List Byte),
      let t := s.writeBytes key pa bs
      { t with mem := s.mem } = s
      ∧ (s.MemoryOk → t.MemoryOk)
      ∧ ((s.keySlot key pa).xts = false →
        (∀ k, (h : k < bs.length) → t.byteAt (pa + k) = bs[k])
        ∧ (∀ a, a < pa ∨ pa + bs.length ≤ a → t.byteAt a = s.byteAt a)
        ∧ t.readBytes key pa bs.length = bs)
      ∧ ((s.keySlot key pa).xts = true → bs.length ≤ 48 → ∀ a,
        a < pa - paOffset pa % 48 ∨ pa - paOffset pa % 48 + 96 ≤ a → t.byteAt a = s.byteAt a)
      ∧ (paSpace pa ≠ 0 → (s.keySlot key pa).xts = false))

/-- 11 R336, R337; 04 R114, R140; 02 R62: what reset leaves: slot 15 of core 0 READY, privileged and physical, every
other slot FREE, every full/empty bit empty, no READY bit set, every key slot a bypass slot, no loom, and the power, log
and boot registers at the values of their tables. 02 R63; 11 R337: at reset the boot slot may issue, and memory, which
lists nothing, has its canonical form. Which slot has the first turn is the model's choice (log entry 1). -/
def Obligations.ResetValues : Prop :=
  (
    ∀ (d : Die) (c : CoreNo) (n : SlotNo) (h : ShedNo) (l : LoomNo) (p : Nat),
      let s := State.reset
      let x := s.die d
      let y := s.slot ⟨d, c, n⟩
      (c = 0 → n = 15 → y.state = .ready) ∧ (¬(c = 0 ∧ n = 15) → y.state = .free) ∧ y.inc = (if c = 0 ∧ n = 15 then 1 else 0)
      ∧ (s.core d c).phys = true ∧ isPriv ⟨d, c, 15⟩ = true ∧ s.full = [] ∧ s.net = [] ∧ s.accs = []
      ∧ x.boot.ready = 0 ∧ x.boot.err = 0 ∧ x.errsum = 0 ∧ x.pkgcap = 0x0708 ∧ x.keys = []
      ∧ (tblGet {} p x.power : PowerRow) = { pwr := 0, cap := 0xffff, duty := 16 }
      ∧ (s.core d c).thresh = 8 ∧ (s.core d c).suspect = false ∧ (s.core d c).retired = false
      ∧ (s.shed d h).state = .free ∧ (s.loom d l).state = .free ∧ s.aclk = 0)
  ∧ (
    State.TurnOk State.reset ∧ State.MemoryOk State.reset)

/-- 02 R52, R61, R63; 09 R287: the turn that a step gives is one that the rotations give: a slot's is the one that the
issue stage of its core takes, or that of a slot that leaves WAIT-DATA or reports a failed access; a node's is one
that has tokens to deliver, or is in the context that its contexts' rotation gives; every step keeps this. -/
def Obligations.TurnsKeepToRotation : Prop :=
  Kept State.TurnOk
end

