-- ==== Sys2Proof/Laws/Tbl.lean ====
section
/-!
SUPPORT. Laws of the sparse tables: what an entry reads as after a write, and that the canonical form is kept.
-/

namespace Sys2Proof

variable {α : Type}

@[simp] theorem tblGet_nil (d : α) (k : Nat) : tblGet d k [] = d := rfl

theorem tblGet_del_self (d : α) (k : Nat) (t : Tbl α) : tblGet d k (tblDel k t) = d := by
  induction t with
  | nil => rfl
  | cons e r ih =>
    obtain ⟨i, x⟩ := e
    by_cases h : i = k <;> simp [tblDel, tblGet, h, ih]

theorem tblGet_del_ne (d : α) {k j : Nat} (h : j ≠ k) (t : Tbl α) : tblGet d j (tblDel k t) = tblGet d j t := by
  induction t with
  | nil => rfl
  | cons e r ih =>
    obtain ⟨i, x⟩ := e
    by_cases hi : i = k
    · subst hi; simp [tblDel, tblGet, ih, Ne.symm h]
    · simp [tblDel, tblGet, hi, ih]

theorem mem_tblDel {k : Nat} {e : Nat × α} {t : Tbl α} (h : e ∈ tblDel k t) : e ∈ t ∧ e.1 ≠ k := by
  induction t with
  | nil => simp [tblDel] at h
  | cons x r ih =>
    obtain ⟨i, y⟩ := x
    by_cases hi : i = k
    · simp only [tblDel, hi, ↓reduceIte] at h
      exact ⟨List.mem_cons_of_mem _ (ih h).1, (ih h).2⟩
    · simp only [tblDel, hi, ↓reduceIte, List.mem_cons] at h
      obtain rfl | h := h
      · exact ⟨List.mem_cons_self, hi⟩
      · exact ⟨List.mem_cons_of_mem _ (ih h).1, (ih h).2⟩

theorem mem_tblInsert {k : Nat} {v : α} {e : Nat × α} {t : Tbl α} (h : e ∈ tblInsert k v t) : e = (k, v) ∨ e ∈ t := by
  induction t with
  | nil => simpa [tblInsert] using h
  | cons x r ih =>
    obtain ⟨i, y⟩ := x
    by_cases hi : k < i
    · simpa [tblInsert, hi] using h
    · simp only [tblInsert, hi, ↓reduceIte, List.mem_cons] at h ⊢
      obtain rfl | h := h
      · simp
      · obtain h | h := ih h
        · simp [h]
        · simp [h]

theorem tblGet_insert_self (d : α) (k : Nat) (v : α) (t : Tbl α) (h : ∀ e ∈ t, e.1 ≠ k) :
    tblGet d k (tblInsert k v t) = v := by
  induction t with
  | nil => simp [tblInsert, tblGet]
  | cons e r ih =>
    obtain ⟨i, x⟩ := e
    have hik : i ≠ k := h (i, x) List.mem_cons_self
    by_cases hi : k < i
    · simp [tblInsert, hi, tblGet]
    · simp [tblInsert, hi, tblGet, hik, ih fun e he => h e (List.mem_cons_of_mem _ he)]

theorem tblGet_insert_ne (d : α) {k j : Nat} (h : j ≠ k) (v : α) (t : Tbl α) :
    tblGet d j (tblInsert k v t) = tblGet d j t := by
  induction t with
  | nil => simp [tblInsert, tblGet, Ne.symm h]
  | cons e r ih =>
    obtain ⟨i, x⟩ := e
    by_cases hi : k < i
    · simp [tblInsert, hi, tblGet, Ne.symm h]
    · simp [tblInsert, hi, tblGet, ih]

variable [DecidableEq α]

@[simp] theorem tblGet_set_self (d : α) (k : Nat) (v : α) (t : Tbl α) : tblGet d k (tblSet d k v t) = v := by
  by_cases h : v = d
  · simp [tblSet, h, tblGet_del_self]
  · simp only [tblSet, h, ↓reduceIte]
    exact tblGet_insert_self d k v _ fun e he => (mem_tblDel he).2

theorem tblGet_set_ne (d : α) {k j : Nat} (h : j ≠ k) (v : α) (t : Tbl α) :
    tblGet d j (tblSet d k v t) = tblGet d j t := by
  by_cases hv : v = d
  · simp [tblSet, hv, tblGet_del_ne d h]
  · simp [tblSet, hv, tblGet_insert_ne d h, tblGet_del_ne d h]

/-! The canonical form -/

/-- The canonical form, as a statement about all entries. -/
theorem tblWf_iff (d : α) (t : Tbl α) : tblWf d t = true ↔ (t.map (·.1)).Pairwise (· < ·) ∧ ∀ e ∈ t, e.2 ≠ d := by
  induction t with
  | nil => simp [tblWf]
  | cons e r ih =>
    obtain ⟨i, x⟩ := e
    cases r with
    | nil => simp [tblWf]
    | cons f r =>
      obtain ⟨j, y⟩ := f
      simp only [tblWf, Bool.and_eq_true, decide_eq_true_eq, bne_iff_ne, ih, List.map_cons, List.pairwise_cons,
        List.mem_cons]
      constructor
      · rintro ⟨⟨hx, hij⟩, ⟨hj, hr⟩, hn⟩
        refine ⟨⟨?_, hj, hr⟩, ?_⟩
        · rintro a (rfl | ha)
          · exact hij
          · exact hij.trans (hj a ha)
        · rintro e (rfl | he)
          · exact hx
          · exact hn e he
      · rintro ⟨⟨hi, hj, hr⟩, hn⟩
        exact ⟨⟨hn _ (.inl rfl), hi j (.inl rfl)⟩, ⟨hj, hr⟩, fun e he => hn e (.inr he)⟩

theorem tblWf_filter (d : α) (p : Nat × α → Bool) {t : Tbl α} (h : tblWf d t = true) :
    tblWf d (t.filter p) = true := by
  rw [tblWf_iff] at h ⊢
  exact ⟨h.1.sublist (List.filter_sublist.map _), fun e he => h.2 e (List.mem_of_mem_filter he)⟩

omit [DecidableEq α] in
theorem tblDel_eq_filter (k : Nat) (t : Tbl α) : tblDel k t = t.filter fun e => e.1 != k := by
  induction t with
  | nil => rfl
  | cons e r ih =>
    obtain ⟨i, x⟩ := e
    by_cases h : i = k <;> simp [tblDel, h, ih]

theorem tblWf_del (d : α) (k : Nat) {t : Tbl α} (h : tblWf d t = true) : tblWf d (tblDel k t) = true := by
  rw [tblDel_eq_filter]; exact tblWf_filter d _ h

omit [DecidableEq α] in
theorem pairwise_tblInsert {k : Nat} (v : α) {t : Tbl α} (h : (t.map (·.1)).Pairwise (· < ·))
    (hk : ∀ e ∈ t, e.1 ≠ k) : ((tblInsert k v t).map (·.1)).Pairwise (· < ·) := by
  induction t with
  | nil => simp [tblInsert]
  | cons e r ih =>
    obtain ⟨i, x⟩ := e
    rw [List.map_cons, List.pairwise_cons] at h
    by_cases hi : k < i
    · simp only [tblInsert, hi, ↓reduceIte, List.map_cons, List.pairwise_cons, List.mem_cons]
      refine ⟨?_, h⟩
      rintro a (rfl | ha)
      · exact hi
      · exact hi.trans (h.1 a ha)
    · simp only [tblInsert, hi, ↓reduceIte, List.map_cons, List.pairwise_cons]
      refine ⟨?_, ih h.2 fun e he => hk e (List.mem_cons_of_mem _ he)⟩
      intro a ha
      obtain ⟨e, he, rfl⟩ := List.mem_map.1 ha
      obtain rfl | he := mem_tblInsert he
      · have := hk (i, x) List.mem_cons_self
        simp only at this ⊢
        omega
      · exact h.1 _ (List.mem_map.2 ⟨e, he, rfl⟩)

/-- A write keeps the canonical form. -/
theorem tblWf_set (d : α) (k : Nat) (v : α) {t : Tbl α} (h : tblWf d t = true) : tblWf d (tblSet d k v t) = true := by
  have hd := tblWf_del d k h
  by_cases hv : v = d
  · simpa [tblSet, hv] using hd
  · simp only [tblSet, hv, ↓reduceIte]
    rw [tblWf_iff] at hd ⊢
    refine ⟨pairwise_tblInsert v hd.1 fun e he => (mem_tblDel he).2, fun e he => ?_⟩
    obtain rfl | he := mem_tblInsert he
    · exact hv
    · exact hd.2 e he

/-- Two tables in canonical form that read alike are one table. -/
theorem tbl_ext (d : α) {t u : Tbl α} (ht : tblWf d t = true) (hu : tblWf d u = true)
    (h : ∀ k, tblGet d k t = tblGet d k u) : t = u := by
  rw [tblWf_iff] at ht hu
  induction t generalizing u with
  | nil =>
    cases u with
    | nil => rfl
    | cons e r => exact absurd (by simpa [tblGet] using (h e.1).symm) (hu.2 e List.mem_cons_self)
  | cons e t ih =>
    obtain ⟨i, x⟩ := e
    cases u with
    | nil => exact absurd (by simpa [tblGet] using h i) (ht.2 (i, x) List.mem_cons_self)
    | cons f u =>
      obtain ⟨j, y⟩ := f
      have keyLt {a b : Nat} {z : α} {r : Tbl α} (hp : ((b, z) :: r |>.map (·.1)).Pairwise (· < ·)) (hab : a < b) :
          tblGet d a ((b, z) :: r) = d := by
        clear ih ht hu h
        induction r generalizing b z with
        | nil => simp [tblGet, hab.ne']
        | cons g r ih =>
          obtain ⟨c, w⟩ := g
          rw [List.map_cons, List.pairwise_cons] at hp
          have hbc : b < c := hp.1 c (by simp)
          rw [tblGet, if_neg hab.ne']
          exact ih hp.2 (hab.trans hbc)
      obtain hlt | rfl | hlt := lt_trichotomy i j
      · exact absurd ((by simpa [tblGet] using h i : x = _).trans (keyLt hu.1 hlt)) (ht.2 _ List.mem_cons_self)
      · have hxy : x = y := by simpa [tblGet] using h i
        subst hxy
        have hti := ht.1; have hui := hu.1
        rw [List.map_cons, List.pairwise_cons] at hti hui
        congr 1
        refine ih ⟨hti.2, fun e he => ht.2 e (List.mem_cons_of_mem _ he)⟩
          ⟨hui.2, fun e he => hu.2 e (List.mem_cons_of_mem _ he)⟩ fun k => ?_
        by_cases hk : i = k
        · subst hk
          have low {r : Tbl α} (hr : ∀ a ∈ r.map (·.1), i < a) : tblGet d i r = d := by
            clear ih ht hu h hti hui
            induction r with
            | nil => rfl
            | cons g r ihr =>
              obtain ⟨c, w⟩ := g
              have : i < c := hr c (by simp)
              rw [tblGet, if_neg this.ne']
              exact ihr fun a ha => hr a (by simp [ha])
          rw [low hti.1, low hui.1]
        · simpa [tblGet, hk] using h k
      · exact absurd ((by simpa [tblGet] using (h j).symm : y = _).trans (keyLt ht.1 hlt)) (hu.2 _ List.mem_cons_self)

end Sys2Proof
end

