-- ==== Sys2Proof/Laws/State.lean ====
section
/-!
SUPPORT. Laws of State: one lemma per field and update, and what a unit reads as after a unit is written. The keys of
units of one kind differ.
-/

namespace Sys2Proof.Machine

variable (s : State)

/-! Keys -/

theorem coreKey_inj {d e : Die} {c k : CoreNo} : coreKey d c = coreKey e k ↔ d = e ∧ c = k := by
  constructor
  · intro h
    have hc := c.isLt; have hk := k.isLt
    simp only [coreKey] at h
    exact ⟨BitVec.eq_of_toNat_eq (by omega), BitVec.eq_of_toNat_eq (by omega)⟩
  · rintro ⟨rfl, rfl⟩; rfl

theorem slotKey_inj {i j : SlotId} : slotKey i = slotKey j ↔ i = j := by
  constructor
  · intro h
    have hi := i.slot.isLt; have hj := j.slot.isLt
    simp only [slotKey] at h
    have hk : coreKey i.die i.core = coreKey j.die j.core := by omega
    have hs : i.slot = j.slot := BitVec.eq_of_toNat_eq (by omega)
    obtain ⟨hd, hc⟩ := coreKey_inj.1 hk
    cases i; cases j; simp_all
  · rintro rfl; rfl

theorem shedKey_inj {d e : Die} {h k : ShedNo} : shedKey d h = shedKey e k ↔ d = e ∧ h = k := by
  constructor
  · intro x
    have hc := h.isLt; have hk := k.isLt
    simp only [shedKey] at x
    exact ⟨BitVec.eq_of_toNat_eq (by omega), BitVec.eq_of_toNat_eq (by omega)⟩
  · rintro ⟨rfl, rfl⟩; rfl

/-! slot -/

@[simp] theorem State.setSlot_turn (i : SlotId) (x : SlotSt) : (s.setSlot i x).turn = s.turn := rfl
@[simp] theorem State.modSlot_turn (i : SlotId) (f : SlotSt → SlotSt) : (s.modSlot i f).turn = s.turn := rfl
@[simp] theorem State.setSlot_inputs (i : SlotId) (x : SlotSt) : (s.setSlot i x).inputs = s.inputs := rfl
@[simp] theorem State.modSlot_inputs (i : SlotId) (f : SlotSt → SlotSt) : (s.modSlot i f).inputs = s.inputs := rfl
@[simp] theorem State.setSlot_tick (i : SlotId) (x : SlotSt) : (s.setSlot i x).tick = s.tick := rfl
@[simp] theorem State.modSlot_tick (i : SlotId) (f : SlotSt → SlotSt) : (s.modSlot i f).tick = s.tick := rfl
@[simp] theorem State.setSlot_aclk (i : SlotId) (x : SlotSt) : (s.setSlot i x).aclk = s.aclk := rfl
@[simp] theorem State.modSlot_aclk (i : SlotId) (f : SlotSt → SlotSt) : (s.modSlot i f).aclk = s.aclk := rfl
@[simp] theorem State.setSlot_cur (i : SlotId) (x : SlotSt) : (s.setSlot i x).cur = s.cur := rfl
@[simp] theorem State.modSlot_cur (i : SlotId) (f : SlotSt → SlotSt) : (s.modSlot i f).cur = s.cur := rfl
@[simp] theorem State.setSlot_word (i : SlotId) (x : SlotSt) : (s.setSlot i x).word = s.word := rfl
@[simp] theorem State.modSlot_word (i : SlotId) (f : SlotSt → SlotSt) : (s.modSlot i f).word = s.word := rfl
@[simp] theorem State.setSlot_node (i : SlotId) (x : SlotSt) : (s.setSlot i x).node = s.node := rfl
@[simp] theorem State.modSlot_node (i : SlotId) (f : SlotSt → SlotSt) : (s.modSlot i f).node = s.node := rfl
@[simp] theorem State.setSlot_ev (i : SlotId) (x : SlotSt) : (s.setSlot i x).ev = s.ev := rfl
@[simp] theorem State.modSlot_ev (i : SlotId) (f : SlotSt → SlotSt) : (s.modSlot i f).ev = s.ev := rfl
@[simp] theorem State.setSlot_mem (i : SlotId) (x : SlotSt) : (s.setSlot i x).mem = s.mem := rfl
@[simp] theorem State.modSlot_mem (i : SlotId) (f : SlotSt → SlotSt) : (s.modSlot i f).mem = s.mem := rfl
@[simp] theorem State.setSlot_full (i : SlotId) (x : SlotSt) : (s.setSlot i x).full = s.full := rfl
@[simp] theorem State.modSlot_full (i : SlotId) (f : SlotSt → SlotSt) : (s.modSlot i f).full = s.full := rfl
@[simp] theorem State.setSlot_poison (i : SlotId) (x : SlotSt) : (s.setSlot i x).poison = s.poison := rfl
@[simp] theorem State.modSlot_poison (i : SlotId) (f : SlotSt → SlotSt) : (s.modSlot i f).poison = s.poison := rfl
@[simp] theorem State.setSlot_accs (i : SlotId) (x : SlotSt) : (s.setSlot i x).accs = s.accs := rfl
@[simp] theorem State.modSlot_accs (i : SlotId) (f : SlotSt → SlotSt) : (s.modSlot i f).accs = s.accs := rfl
@[simp] theorem State.setSlot_waits (i : SlotId) (x : SlotSt) : (s.setSlot i x).waits = s.waits := rfl
@[simp] theorem State.modSlot_waits (i : SlotId) (f : SlotSt → SlotSt) : (s.modSlot i f).waits = s.waits := rfl
@[simp] theorem State.setSlot_takes (i : SlotId) (x : SlotSt) : (s.setSlot i x).takes = s.takes := rfl
@[simp] theorem State.modSlot_takes (i : SlotId) (f : SlotSt → SlotSt) : (s.modSlot i f).takes = s.takes := rfl
@[simp] theorem State.setSlot_net (i : SlotId) (x : SlotSt) : (s.setSlot i x).net = s.net := rfl
@[simp] theorem State.modSlot_net (i : SlotId) (f : SlotSt → SlotSt) : (s.modSlot i f).net = s.net := rfl
@[simp] theorem State.setSlot_reed (i : SlotId) (x : SlotSt) : (s.setSlot i x).reed = s.reed := rfl
@[simp] theorem State.modSlot_reed (i : SlotId) (f : SlotSt → SlotSt) : (s.modSlot i f).reed = s.reed := rfl
@[simp] theorem State.setSlot_hostOut (i : SlotId) (x : SlotSt) : (s.setSlot i x).hostOut = s.hostOut := rfl
@[simp] theorem State.modSlot_hostOut (i : SlotId) (f : SlotSt → SlotSt) : (s.modSlot i f).hostOut = s.hostOut := rfl
@[simp] theorem State.setSlot_nextId (i : SlotId) (x : SlotSt) : (s.setSlot i x).nextId = s.nextId := rfl
@[simp] theorem State.modSlot_nextId (i : SlotId) (f : SlotSt → SlotSt) : (s.modSlot i f).nextId = s.nextId := rfl
@[simp] theorem State.setSlot_dies (i : SlotId) (x : SlotSt) : (s.setSlot i x).dies = s.dies := rfl
@[simp] theorem State.modSlot_dies (i : SlotId) (f : SlotSt → SlotSt) : (s.modSlot i f).dies = s.dies := rfl
@[simp] theorem State.setSlot_cores (i : SlotId) (x : SlotSt) : (s.setSlot i x).cores = s.cores := rfl
@[simp] theorem State.modSlot_cores (i : SlotId) (f : SlotSt → SlotSt) : (s.modSlot i f).cores = s.cores := rfl
@[simp] theorem State.setSlot_skeins (i : SlotId) (x : SlotSt) : (s.setSlot i x).skeins = s.skeins := rfl
@[simp] theorem State.modSlot_skeins (i : SlotId) (f : SlotSt → SlotSt) : (s.modSlot i f).skeins = s.skeins := rfl
@[simp] theorem State.setSlot_sheds (i : SlotId) (x : SlotSt) : (s.setSlot i x).sheds = s.sheds := rfl
@[simp] theorem State.modSlot_sheds (i : SlotId) (f : SlotSt → SlotSt) : (s.modSlot i f).sheds = s.sheds := rfl
@[simp] theorem State.setSlot_looms (i : SlotId) (x : SlotSt) : (s.setSlot i x).looms = s.looms := rfl
@[simp] theorem State.modSlot_looms (i : SlotId) (f : SlotSt → SlotSt) : (s.modSlot i f).looms = s.looms := rfl
@[simp] theorem State.setSlot_harts (i : SlotId) (x : SlotSt) : (s.setSlot i x).harts = s.harts := rfl
@[simp] theorem State.modSlot_harts (i : SlotId) (f : SlotSt → SlotSt) : (s.modSlot i f).harts = s.harts := rfl
@[simp] theorem State.setSlot_hqs (i : SlotId) (x : SlotSt) : (s.setSlot i x).hqs = s.hqs := rfl
@[simp] theorem State.modSlot_hqs (i : SlotId) (f : SlotSt → SlotSt) : (s.modSlot i f).hqs = s.hqs := rfl
@[simp] theorem State.setSlot_root (i : SlotId) (x : SlotSt) : (s.setSlot i x).root = s.root := rfl
@[simp] theorem State.modSlot_root (i : SlotId) (f : SlotSt → SlotSt) : (s.modSlot i f).root = s.root := rfl
@[simp] theorem State.setSlot_self (i : SlotId) (x : SlotSt) : (s.setSlot i x).slot i = x := tblGet_set_self ..
@[simp] theorem State.modSlot_self (i : SlotId) (f : SlotSt → SlotSt) : (s.modSlot i f).slot i = f (s.slot i) := tblGet_set_self ..
@[simp] theorem State.setSlot_core (i : SlotId) (x : SlotSt) (e : Die) (j : CoreNo) : (s.setSlot i x).core e j = s.core e j := rfl
@[simp] theorem State.modSlot_core (i : SlotId) (f : SlotSt → SlotSt) (e : Die) (j : CoreNo) : (s.modSlot i f).core e j = s.core e j := rfl
@[simp] theorem State.setSlot_die (i : SlotId) (x : SlotSt) (e : Die) : (s.setSlot i x).die e = s.die e := rfl
@[simp] theorem State.modSlot_die (i : SlotId) (f : SlotSt → SlotSt) (e : Die) : (s.modSlot i f).die e = s.die e := rfl
@[simp] theorem State.setSlot_skein (i : SlotId) (x : SlotSt) (e : Die) (j : BitVec 7) : (s.setSlot i x).skein e j = s.skein e j := rfl
@[simp] theorem State.modSlot_skein (i : SlotId) (f : SlotSt → SlotSt) (e : Die) (j : BitVec 7) : (s.modSlot i f).skein e j = s.skein e j := rfl
@[simp] theorem State.setSlot_shed (i : SlotId) (x : SlotSt) (e : Die) (j : ShedNo) : (s.setSlot i x).shed e j = s.shed e j := rfl
@[simp] theorem State.modSlot_shed (i : SlotId) (f : SlotSt → SlotSt) (e : Die) (j : ShedNo) : (s.modSlot i f).shed e j = s.shed e j := rfl
@[simp] theorem State.setSlot_loom (i : SlotId) (x : SlotSt) (e : Die) (j : LoomNo) : (s.setSlot i x).loom e j = s.loom e j := rfl
@[simp] theorem State.modSlot_loom (i : SlotId) (f : SlotSt → SlotSt) (e : Die) (j : LoomNo) : (s.modSlot i f).loom e j = s.loom e j := rfl
@[simp] theorem State.setSlot_hart (i : SlotId) (x : SlotSt) (e : Die) (j : HartNo) : (s.setSlot i x).hart e j = s.hart e j := rfl
@[simp] theorem State.modSlot_hart (i : SlotId) (f : SlotSt → SlotSt) (e : Die) (j : HartNo) : (s.modSlot i f).hart e j = s.hart e j := rfl
@[simp] theorem State.setSlot_hq (i : SlotId) (x : SlotSt) (e : Die) (j : HqNo) : (s.setSlot i x).hq e j = s.hq e j := rfl
@[simp] theorem State.modSlot_hq (i : SlotId) (f : SlotSt → SlotSt) (e : Die) (j : HqNo) : (s.modSlot i f).hq e j = s.hq e j := rfl

/-! core -/

@[simp] theorem State.setCore_turn (d : Die) (c : CoreNo) (x : CoreSt) : (s.setCore d c x).turn = s.turn := rfl
@[simp] theorem State.modCore_turn (d : Die) (c : CoreNo) (f : CoreSt → CoreSt) : (s.modCore d c f).turn = s.turn := rfl
@[simp] theorem State.setCore_inputs (d : Die) (c : CoreNo) (x : CoreSt) : (s.setCore d c x).inputs = s.inputs := rfl
@[simp] theorem State.modCore_inputs (d : Die) (c : CoreNo) (f : CoreSt → CoreSt) : (s.modCore d c f).inputs = s.inputs := rfl
@[simp] theorem State.setCore_tick (d : Die) (c : CoreNo) (x : CoreSt) : (s.setCore d c x).tick = s.tick := rfl
@[simp] theorem State.modCore_tick (d : Die) (c : CoreNo) (f : CoreSt → CoreSt) : (s.modCore d c f).tick = s.tick := rfl
@[simp] theorem State.setCore_aclk (d : Die) (c : CoreNo) (x : CoreSt) : (s.setCore d c x).aclk = s.aclk := rfl
@[simp] theorem State.modCore_aclk (d : Die) (c : CoreNo) (f : CoreSt → CoreSt) : (s.modCore d c f).aclk = s.aclk := rfl
@[simp] theorem State.setCore_cur (d : Die) (c : CoreNo) (x : CoreSt) : (s.setCore d c x).cur = s.cur := rfl
@[simp] theorem State.modCore_cur (d : Die) (c : CoreNo) (f : CoreSt → CoreSt) : (s.modCore d c f).cur = s.cur := rfl
@[simp] theorem State.setCore_word (d : Die) (c : CoreNo) (x : CoreSt) : (s.setCore d c x).word = s.word := rfl
@[simp] theorem State.modCore_word (d : Die) (c : CoreNo) (f : CoreSt → CoreSt) : (s.modCore d c f).word = s.word := rfl
@[simp] theorem State.setCore_node (d : Die) (c : CoreNo) (x : CoreSt) : (s.setCore d c x).node = s.node := rfl
@[simp] theorem State.modCore_node (d : Die) (c : CoreNo) (f : CoreSt → CoreSt) : (s.modCore d c f).node = s.node := rfl
@[simp] theorem State.setCore_ev (d : Die) (c : CoreNo) (x : CoreSt) : (s.setCore d c x).ev = s.ev := rfl
@[simp] theorem State.modCore_ev (d : Die) (c : CoreNo) (f : CoreSt → CoreSt) : (s.modCore d c f).ev = s.ev := rfl
@[simp] theorem State.setCore_mem (d : Die) (c : CoreNo) (x : CoreSt) : (s.setCore d c x).mem = s.mem := rfl
@[simp] theorem State.modCore_mem (d : Die) (c : CoreNo) (f : CoreSt → CoreSt) : (s.modCore d c f).mem = s.mem := rfl
@[simp] theorem State.setCore_full (d : Die) (c : CoreNo) (x : CoreSt) : (s.setCore d c x).full = s.full := rfl
@[simp] theorem State.modCore_full (d : Die) (c : CoreNo) (f : CoreSt → CoreSt) : (s.modCore d c f).full = s.full := rfl
@[simp] theorem State.setCore_poison (d : Die) (c : CoreNo) (x : CoreSt) : (s.setCore d c x).poison = s.poison := rfl
@[simp] theorem State.modCore_poison (d : Die) (c : CoreNo) (f : CoreSt → CoreSt) : (s.modCore d c f).poison = s.poison := rfl
@[simp] theorem State.setCore_accs (d : Die) (c : CoreNo) (x : CoreSt) : (s.setCore d c x).accs = s.accs := rfl
@[simp] theorem State.modCore_accs (d : Die) (c : CoreNo) (f : CoreSt → CoreSt) : (s.modCore d c f).accs = s.accs := rfl
@[simp] theorem State.setCore_waits (d : Die) (c : CoreNo) (x : CoreSt) : (s.setCore d c x).waits = s.waits := rfl
@[simp] theorem State.modCore_waits (d : Die) (c : CoreNo) (f : CoreSt → CoreSt) : (s.modCore d c f).waits = s.waits := rfl
@[simp] theorem State.setCore_takes (d : Die) (c : CoreNo) (x : CoreSt) : (s.setCore d c x).takes = s.takes := rfl
@[simp] theorem State.modCore_takes (d : Die) (c : CoreNo) (f : CoreSt → CoreSt) : (s.modCore d c f).takes = s.takes := rfl
@[simp] theorem State.setCore_net (d : Die) (c : CoreNo) (x : CoreSt) : (s.setCore d c x).net = s.net := rfl
@[simp] theorem State.modCore_net (d : Die) (c : CoreNo) (f : CoreSt → CoreSt) : (s.modCore d c f).net = s.net := rfl
@[simp] theorem State.setCore_reed (d : Die) (c : CoreNo) (x : CoreSt) : (s.setCore d c x).reed = s.reed := rfl
@[simp] theorem State.modCore_reed (d : Die) (c : CoreNo) (f : CoreSt → CoreSt) : (s.modCore d c f).reed = s.reed := rfl
@[simp] theorem State.setCore_hostOut (d : Die) (c : CoreNo) (x : CoreSt) : (s.setCore d c x).hostOut = s.hostOut := rfl
@[simp] theorem State.modCore_hostOut (d : Die) (c : CoreNo) (f : CoreSt → CoreSt) : (s.modCore d c f).hostOut = s.hostOut := rfl
@[simp] theorem State.setCore_nextId (d : Die) (c : CoreNo) (x : CoreSt) : (s.setCore d c x).nextId = s.nextId := rfl
@[simp] theorem State.modCore_nextId (d : Die) (c : CoreNo) (f : CoreSt → CoreSt) : (s.modCore d c f).nextId = s.nextId := rfl
@[simp] theorem State.setCore_dies (d : Die) (c : CoreNo) (x : CoreSt) : (s.setCore d c x).dies = s.dies := rfl
@[simp] theorem State.modCore_dies (d : Die) (c : CoreNo) (f : CoreSt → CoreSt) : (s.modCore d c f).dies = s.dies := rfl
@[simp] theorem State.setCore_skeins (d : Die) (c : CoreNo) (x : CoreSt) : (s.setCore d c x).skeins = s.skeins := rfl
@[simp] theorem State.modCore_skeins (d : Die) (c : CoreNo) (f : CoreSt → CoreSt) : (s.modCore d c f).skeins = s.skeins := rfl
@[simp] theorem State.setCore_slots (d : Die) (c : CoreNo) (x : CoreSt) : (s.setCore d c x).slots = s.slots := rfl
@[simp] theorem State.modCore_slots (d : Die) (c : CoreNo) (f : CoreSt → CoreSt) : (s.modCore d c f).slots = s.slots := rfl
@[simp] theorem State.setCore_sheds (d : Die) (c : CoreNo) (x : CoreSt) : (s.setCore d c x).sheds = s.sheds := rfl
@[simp] theorem State.modCore_sheds (d : Die) (c : CoreNo) (f : CoreSt → CoreSt) : (s.modCore d c f).sheds = s.sheds := rfl
@[simp] theorem State.setCore_looms (d : Die) (c : CoreNo) (x : CoreSt) : (s.setCore d c x).looms = s.looms := rfl
@[simp] theorem State.modCore_looms (d : Die) (c : CoreNo) (f : CoreSt → CoreSt) : (s.modCore d c f).looms = s.looms := rfl
@[simp] theorem State.setCore_harts (d : Die) (c : CoreNo) (x : CoreSt) : (s.setCore d c x).harts = s.harts := rfl
@[simp] theorem State.modCore_harts (d : Die) (c : CoreNo) (f : CoreSt → CoreSt) : (s.modCore d c f).harts = s.harts := rfl
@[simp] theorem State.setCore_hqs (d : Die) (c : CoreNo) (x : CoreSt) : (s.setCore d c x).hqs = s.hqs := rfl
@[simp] theorem State.modCore_hqs (d : Die) (c : CoreNo) (f : CoreSt → CoreSt) : (s.modCore d c f).hqs = s.hqs := rfl
@[simp] theorem State.setCore_root (d : Die) (c : CoreNo) (x : CoreSt) : (s.setCore d c x).root = s.root := rfl
@[simp] theorem State.modCore_root (d : Die) (c : CoreNo) (f : CoreSt → CoreSt) : (s.modCore d c f).root = s.root := rfl
@[simp] theorem State.setCore_self (d : Die) (c : CoreNo) (x : CoreSt) : (s.setCore d c x).core d c = x := tblGet_set_self ..
@[simp] theorem State.modCore_self (d : Die) (c : CoreNo) (f : CoreSt → CoreSt) : (s.modCore d c f).core d c = f (s.core d c) := tblGet_set_self ..
@[simp] theorem State.setCore_slot (d : Die) (c : CoreNo) (x : CoreSt) (j : SlotId) : (s.setCore d c x).slot j = s.slot j := rfl
@[simp] theorem State.modCore_slot (d : Die) (c : CoreNo) (f : CoreSt → CoreSt) (j : SlotId) : (s.modCore d c f).slot j = s.slot j := rfl
@[simp] theorem State.setCore_die (d : Die) (c : CoreNo) (x : CoreSt) (e : Die) : (s.setCore d c x).die e = s.die e := rfl
@[simp] theorem State.modCore_die (d : Die) (c : CoreNo) (f : CoreSt → CoreSt) (e : Die) : (s.modCore d c f).die e = s.die e := rfl
@[simp] theorem State.setCore_skein (d : Die) (c : CoreNo) (x : CoreSt) (e : Die) (j : BitVec 7) : (s.setCore d c x).skein e j = s.skein e j := rfl
@[simp] theorem State.modCore_skein (d : Die) (c : CoreNo) (f : CoreSt → CoreSt) (e : Die) (j : BitVec 7) : (s.modCore d c f).skein e j = s.skein e j := rfl
@[simp] theorem State.setCore_shed (d : Die) (c : CoreNo) (x : CoreSt) (e : Die) (j : ShedNo) : (s.setCore d c x).shed e j = s.shed e j := rfl
@[simp] theorem State.modCore_shed (d : Die) (c : CoreNo) (f : CoreSt → CoreSt) (e : Die) (j : ShedNo) : (s.modCore d c f).shed e j = s.shed e j := rfl
@[simp] theorem State.setCore_loom (d : Die) (c : CoreNo) (x : CoreSt) (e : Die) (j : LoomNo) : (s.setCore d c x).loom e j = s.loom e j := rfl
@[simp] theorem State.modCore_loom (d : Die) (c : CoreNo) (f : CoreSt → CoreSt) (e : Die) (j : LoomNo) : (s.modCore d c f).loom e j = s.loom e j := rfl
@[simp] theorem State.setCore_hart (d : Die) (c : CoreNo) (x : CoreSt) (e : Die) (j : HartNo) : (s.setCore d c x).hart e j = s.hart e j := rfl
@[simp] theorem State.modCore_hart (d : Die) (c : CoreNo) (f : CoreSt → CoreSt) (e : Die) (j : HartNo) : (s.modCore d c f).hart e j = s.hart e j := rfl
@[simp] theorem State.setCore_hq (d : Die) (c : CoreNo) (x : CoreSt) (e : Die) (j : HqNo) : (s.setCore d c x).hq e j = s.hq e j := rfl
@[simp] theorem State.modCore_hq (d : Die) (c : CoreNo) (f : CoreSt → CoreSt) (e : Die) (j : HqNo) : (s.modCore d c f).hq e j = s.hq e j := rfl

/-! die -/

@[simp] theorem State.setDie_turn (d : Die) (x : DieSt) : (s.setDie d x).turn = s.turn := rfl
@[simp] theorem State.modDie_turn (d : Die) (f : DieSt → DieSt) : (s.modDie d f).turn = s.turn := rfl
@[simp] theorem State.setDie_inputs (d : Die) (x : DieSt) : (s.setDie d x).inputs = s.inputs := rfl
@[simp] theorem State.modDie_inputs (d : Die) (f : DieSt → DieSt) : (s.modDie d f).inputs = s.inputs := rfl
@[simp] theorem State.setDie_tick (d : Die) (x : DieSt) : (s.setDie d x).tick = s.tick := rfl
@[simp] theorem State.modDie_tick (d : Die) (f : DieSt → DieSt) : (s.modDie d f).tick = s.tick := rfl
@[simp] theorem State.setDie_aclk (d : Die) (x : DieSt) : (s.setDie d x).aclk = s.aclk := rfl
@[simp] theorem State.modDie_aclk (d : Die) (f : DieSt → DieSt) : (s.modDie d f).aclk = s.aclk := rfl
@[simp] theorem State.setDie_cur (d : Die) (x : DieSt) : (s.setDie d x).cur = s.cur := rfl
@[simp] theorem State.modDie_cur (d : Die) (f : DieSt → DieSt) : (s.modDie d f).cur = s.cur := rfl
@[simp] theorem State.setDie_word (d : Die) (x : DieSt) : (s.setDie d x).word = s.word := rfl
@[simp] theorem State.modDie_word (d : Die) (f : DieSt → DieSt) : (s.modDie d f).word = s.word := rfl
@[simp] theorem State.setDie_node (d : Die) (x : DieSt) : (s.setDie d x).node = s.node := rfl
@[simp] theorem State.modDie_node (d : Die) (f : DieSt → DieSt) : (s.modDie d f).node = s.node := rfl
@[simp] theorem State.setDie_ev (d : Die) (x : DieSt) : (s.setDie d x).ev = s.ev := rfl
@[simp] theorem State.modDie_ev (d : Die) (f : DieSt → DieSt) : (s.modDie d f).ev = s.ev := rfl
@[simp] theorem State.setDie_mem (d : Die) (x : DieSt) : (s.setDie d x).mem = s.mem := rfl
@[simp] theorem State.modDie_mem (d : Die) (f : DieSt → DieSt) : (s.modDie d f).mem = s.mem := rfl
@[simp] theorem State.setDie_full (d : Die) (x : DieSt) : (s.setDie d x).full = s.full := rfl
@[simp] theorem State.modDie_full (d : Die) (f : DieSt → DieSt) : (s.modDie d f).full = s.full := rfl
@[simp] theorem State.setDie_poison (d : Die) (x : DieSt) : (s.setDie d x).poison = s.poison := rfl
@[simp] theorem State.modDie_poison (d : Die) (f : DieSt → DieSt) : (s.modDie d f).poison = s.poison := rfl
@[simp] theorem State.setDie_accs (d : Die) (x : DieSt) : (s.setDie d x).accs = s.accs := rfl
@[simp] theorem State.modDie_accs (d : Die) (f : DieSt → DieSt) : (s.modDie d f).accs = s.accs := rfl
@[simp] theorem State.setDie_waits (d : Die) (x : DieSt) : (s.setDie d x).waits = s.waits := rfl
@[simp] theorem State.modDie_waits (d : Die) (f : DieSt → DieSt) : (s.modDie d f).waits = s.waits := rfl
@[simp] theorem State.setDie_takes (d : Die) (x : DieSt) : (s.setDie d x).takes = s.takes := rfl
@[simp] theorem State.modDie_takes (d : Die) (f : DieSt → DieSt) : (s.modDie d f).takes = s.takes := rfl
@[simp] theorem State.setDie_net (d : Die) (x : DieSt) : (s.setDie d x).net = s.net := rfl
@[simp] theorem State.modDie_net (d : Die) (f : DieSt → DieSt) : (s.modDie d f).net = s.net := rfl
@[simp] theorem State.setDie_reed (d : Die) (x : DieSt) : (s.setDie d x).reed = s.reed := rfl
@[simp] theorem State.modDie_reed (d : Die) (f : DieSt → DieSt) : (s.modDie d f).reed = s.reed := rfl
@[simp] theorem State.setDie_hostOut (d : Die) (x : DieSt) : (s.setDie d x).hostOut = s.hostOut := rfl
@[simp] theorem State.modDie_hostOut (d : Die) (f : DieSt → DieSt) : (s.modDie d f).hostOut = s.hostOut := rfl
@[simp] theorem State.setDie_nextId (d : Die) (x : DieSt) : (s.setDie d x).nextId = s.nextId := rfl
@[simp] theorem State.modDie_nextId (d : Die) (f : DieSt → DieSt) : (s.modDie d f).nextId = s.nextId := rfl
@[simp] theorem State.setDie_cores (d : Die) (x : DieSt) : (s.setDie d x).cores = s.cores := rfl
@[simp] theorem State.modDie_cores (d : Die) (f : DieSt → DieSt) : (s.modDie d f).cores = s.cores := rfl
@[simp] theorem State.setDie_skeins (d : Die) (x : DieSt) : (s.setDie d x).skeins = s.skeins := rfl
@[simp] theorem State.modDie_skeins (d : Die) (f : DieSt → DieSt) : (s.modDie d f).skeins = s.skeins := rfl
@[simp] theorem State.setDie_slots (d : Die) (x : DieSt) : (s.setDie d x).slots = s.slots := rfl
@[simp] theorem State.modDie_slots (d : Die) (f : DieSt → DieSt) : (s.modDie d f).slots = s.slots := rfl
@[simp] theorem State.setDie_sheds (d : Die) (x : DieSt) : (s.setDie d x).sheds = s.sheds := rfl
@[simp] theorem State.modDie_sheds (d : Die) (f : DieSt → DieSt) : (s.modDie d f).sheds = s.sheds := rfl
@[simp] theorem State.setDie_looms (d : Die) (x : DieSt) : (s.setDie d x).looms = s.looms := rfl
@[simp] theorem State.modDie_looms (d : Die) (f : DieSt → DieSt) : (s.modDie d f).looms = s.looms := rfl
@[simp] theorem State.setDie_harts (d : Die) (x : DieSt) : (s.setDie d x).harts = s.harts := rfl
@[simp] theorem State.modDie_harts (d : Die) (f : DieSt → DieSt) : (s.modDie d f).harts = s.harts := rfl
@[simp] theorem State.setDie_hqs (d : Die) (x : DieSt) : (s.setDie d x).hqs = s.hqs := rfl
@[simp] theorem State.modDie_hqs (d : Die) (f : DieSt → DieSt) : (s.modDie d f).hqs = s.hqs := rfl
@[simp] theorem State.setDie_root (d : Die) (x : DieSt) : (s.setDie d x).root = s.root := rfl
@[simp] theorem State.modDie_root (d : Die) (f : DieSt → DieSt) : (s.modDie d f).root = s.root := rfl
@[simp] theorem State.setDie_self (d : Die) (x : DieSt) : (s.setDie d x).die d = x := tblGet_set_self ..
@[simp] theorem State.modDie_self (d : Die) (f : DieSt → DieSt) : (s.modDie d f).die d = f (s.die d) := tblGet_set_self ..
@[simp] theorem State.setDie_slot (d : Die) (x : DieSt) (j : SlotId) : (s.setDie d x).slot j = s.slot j := rfl
@[simp] theorem State.modDie_slot (d : Die) (f : DieSt → DieSt) (j : SlotId) : (s.modDie d f).slot j = s.slot j := rfl
@[simp] theorem State.setDie_core (d : Die) (x : DieSt) (e : Die) (j : CoreNo) : (s.setDie d x).core e j = s.core e j := rfl
@[simp] theorem State.modDie_core (d : Die) (f : DieSt → DieSt) (e : Die) (j : CoreNo) : (s.modDie d f).core e j = s.core e j := rfl
@[simp] theorem State.setDie_skein (d : Die) (x : DieSt) (e : Die) (j : BitVec 7) : (s.setDie d x).skein e j = s.skein e j := rfl
@[simp] theorem State.modDie_skein (d : Die) (f : DieSt → DieSt) (e : Die) (j : BitVec 7) : (s.modDie d f).skein e j = s.skein e j := rfl
@[simp] theorem State.setDie_shed (d : Die) (x : DieSt) (e : Die) (j : ShedNo) : (s.setDie d x).shed e j = s.shed e j := rfl
@[simp] theorem State.modDie_shed (d : Die) (f : DieSt → DieSt) (e : Die) (j : ShedNo) : (s.modDie d f).shed e j = s.shed e j := rfl
@[simp] theorem State.setDie_loom (d : Die) (x : DieSt) (e : Die) (j : LoomNo) : (s.setDie d x).loom e j = s.loom e j := rfl
@[simp] theorem State.modDie_loom (d : Die) (f : DieSt → DieSt) (e : Die) (j : LoomNo) : (s.modDie d f).loom e j = s.loom e j := rfl
@[simp] theorem State.setDie_hart (d : Die) (x : DieSt) (e : Die) (j : HartNo) : (s.setDie d x).hart e j = s.hart e j := rfl
@[simp] theorem State.modDie_hart (d : Die) (f : DieSt → DieSt) (e : Die) (j : HartNo) : (s.modDie d f).hart e j = s.hart e j := rfl
@[simp] theorem State.setDie_hq (d : Die) (x : DieSt) (e : Die) (j : HqNo) : (s.setDie d x).hq e j = s.hq e j := rfl
@[simp] theorem State.modDie_hq (d : Die) (f : DieSt → DieSt) (e : Die) (j : HqNo) : (s.modDie d f).hq e j = s.hq e j := rfl

/-! skein -/

@[simp] theorem State.setSkein_turn (d : Die) (k : BitVec 7) (x : SkeinSt) : (s.setSkein d k x).turn = s.turn := rfl
@[simp] theorem State.modSkein_turn (d : Die) (k : BitVec 7) (f : SkeinSt → SkeinSt) : (s.modSkein d k f).turn = s.turn := rfl
@[simp] theorem State.setSkein_inputs (d : Die) (k : BitVec 7) (x : SkeinSt) : (s.setSkein d k x).inputs = s.inputs := rfl
@[simp] theorem State.modSkein_inputs (d : Die) (k : BitVec 7) (f : SkeinSt → SkeinSt) : (s.modSkein d k f).inputs = s.inputs := rfl
@[simp] theorem State.setSkein_tick (d : Die) (k : BitVec 7) (x : SkeinSt) : (s.setSkein d k x).tick = s.tick := rfl
@[simp] theorem State.modSkein_tick (d : Die) (k : BitVec 7) (f : SkeinSt → SkeinSt) : (s.modSkein d k f).tick = s.tick := rfl
@[simp] theorem State.setSkein_aclk (d : Die) (k : BitVec 7) (x : SkeinSt) : (s.setSkein d k x).aclk = s.aclk := rfl
@[simp] theorem State.modSkein_aclk (d : Die) (k : BitVec 7) (f : SkeinSt → SkeinSt) : (s.modSkein d k f).aclk = s.aclk := rfl
@[simp] theorem State.setSkein_cur (d : Die) (k : BitVec 7) (x : SkeinSt) : (s.setSkein d k x).cur = s.cur := rfl
@[simp] theorem State.modSkein_cur (d : Die) (k : BitVec 7) (f : SkeinSt → SkeinSt) : (s.modSkein d k f).cur = s.cur := rfl
@[simp] theorem State.setSkein_word (d : Die) (k : BitVec 7) (x : SkeinSt) : (s.setSkein d k x).word = s.word := rfl
@[simp] theorem State.modSkein_word (d : Die) (k : BitVec 7) (f : SkeinSt → SkeinSt) : (s.modSkein d k f).word = s.word := rfl
@[simp] theorem State.setSkein_node (d : Die) (k : BitVec 7) (x : SkeinSt) : (s.setSkein d k x).node = s.node := rfl
@[simp] theorem State.modSkein_node (d : Die) (k : BitVec 7) (f : SkeinSt → SkeinSt) : (s.modSkein d k f).node = s.node := rfl
@[simp] theorem State.setSkein_ev (d : Die) (k : BitVec 7) (x : SkeinSt) : (s.setSkein d k x).ev = s.ev := rfl
@[simp] theorem State.modSkein_ev (d : Die) (k : BitVec 7) (f : SkeinSt → SkeinSt) : (s.modSkein d k f).ev = s.ev := rfl
@[simp] theorem State.setSkein_mem (d : Die) (k : BitVec 7) (x : SkeinSt) : (s.setSkein d k x).mem = s.mem := rfl
@[simp] theorem State.modSkein_mem (d : Die) (k : BitVec 7) (f : SkeinSt → SkeinSt) : (s.modSkein d k f).mem = s.mem := rfl
@[simp] theorem State.setSkein_full (d : Die) (k : BitVec 7) (x : SkeinSt) : (s.setSkein d k x).full = s.full := rfl
@[simp] theorem State.modSkein_full (d : Die) (k : BitVec 7) (f : SkeinSt → SkeinSt) : (s.modSkein d k f).full = s.full := rfl
@[simp] theorem State.setSkein_poison (d : Die) (k : BitVec 7) (x : SkeinSt) : (s.setSkein d k x).poison = s.poison := rfl
@[simp] theorem State.modSkein_poison (d : Die) (k : BitVec 7) (f : SkeinSt → SkeinSt) : (s.modSkein d k f).poison = s.poison := rfl
@[simp] theorem State.setSkein_accs (d : Die) (k : BitVec 7) (x : SkeinSt) : (s.setSkein d k x).accs = s.accs := rfl
@[simp] theorem State.modSkein_accs (d : Die) (k : BitVec 7) (f : SkeinSt → SkeinSt) : (s.modSkein d k f).accs = s.accs := rfl
@[simp] theorem State.setSkein_waits (d : Die) (k : BitVec 7) (x : SkeinSt) : (s.setSkein d k x).waits = s.waits := rfl
@[simp] theorem State.modSkein_waits (d : Die) (k : BitVec 7) (f : SkeinSt → SkeinSt) : (s.modSkein d k f).waits = s.waits := rfl
@[simp] theorem State.setSkein_takes (d : Die) (k : BitVec 7) (x : SkeinSt) : (s.setSkein d k x).takes = s.takes := rfl
@[simp] theorem State.modSkein_takes (d : Die) (k : BitVec 7) (f : SkeinSt → SkeinSt) : (s.modSkein d k f).takes = s.takes := rfl
@[simp] theorem State.setSkein_net (d : Die) (k : BitVec 7) (x : SkeinSt) : (s.setSkein d k x).net = s.net := rfl
@[simp] theorem State.modSkein_net (d : Die) (k : BitVec 7) (f : SkeinSt → SkeinSt) : (s.modSkein d k f).net = s.net := rfl
@[simp] theorem State.setSkein_reed (d : Die) (k : BitVec 7) (x : SkeinSt) : (s.setSkein d k x).reed = s.reed := rfl
@[simp] theorem State.modSkein_reed (d : Die) (k : BitVec 7) (f : SkeinSt → SkeinSt) : (s.modSkein d k f).reed = s.reed := rfl
@[simp] theorem State.setSkein_hostOut (d : Die) (k : BitVec 7) (x : SkeinSt) : (s.setSkein d k x).hostOut = s.hostOut := rfl
@[simp] theorem State.modSkein_hostOut (d : Die) (k : BitVec 7) (f : SkeinSt → SkeinSt) : (s.modSkein d k f).hostOut = s.hostOut := rfl
@[simp] theorem State.setSkein_nextId (d : Die) (k : BitVec 7) (x : SkeinSt) : (s.setSkein d k x).nextId = s.nextId := rfl
@[simp] theorem State.modSkein_nextId (d : Die) (k : BitVec 7) (f : SkeinSt → SkeinSt) : (s.modSkein d k f).nextId = s.nextId := rfl
@[simp] theorem State.setSkein_dies (d : Die) (k : BitVec 7) (x : SkeinSt) : (s.setSkein d k x).dies = s.dies := rfl
@[simp] theorem State.modSkein_dies (d : Die) (k : BitVec 7) (f : SkeinSt → SkeinSt) : (s.modSkein d k f).dies = s.dies := rfl
@[simp] theorem State.setSkein_cores (d : Die) (k : BitVec 7) (x : SkeinSt) : (s.setSkein d k x).cores = s.cores := rfl
@[simp] theorem State.modSkein_cores (d : Die) (k : BitVec 7) (f : SkeinSt → SkeinSt) : (s.modSkein d k f).cores = s.cores := rfl
@[simp] theorem State.setSkein_slots (d : Die) (k : BitVec 7) (x : SkeinSt) : (s.setSkein d k x).slots = s.slots := rfl
@[simp] theorem State.modSkein_slots (d : Die) (k : BitVec 7) (f : SkeinSt → SkeinSt) : (s.modSkein d k f).slots = s.slots := rfl
@[simp] theorem State.setSkein_sheds (d : Die) (k : BitVec 7) (x : SkeinSt) : (s.setSkein d k x).sheds = s.sheds := rfl
@[simp] theorem State.modSkein_sheds (d : Die) (k : BitVec 7) (f : SkeinSt → SkeinSt) : (s.modSkein d k f).sheds = s.sheds := rfl
@[simp] theorem State.setSkein_looms (d : Die) (k : BitVec 7) (x : SkeinSt) : (s.setSkein d k x).looms = s.looms := rfl
@[simp] theorem State.modSkein_looms (d : Die) (k : BitVec 7) (f : SkeinSt → SkeinSt) : (s.modSkein d k f).looms = s.looms := rfl
@[simp] theorem State.setSkein_harts (d : Die) (k : BitVec 7) (x : SkeinSt) : (s.setSkein d k x).harts = s.harts := rfl
@[simp] theorem State.modSkein_harts (d : Die) (k : BitVec 7) (f : SkeinSt → SkeinSt) : (s.modSkein d k f).harts = s.harts := rfl
@[simp] theorem State.setSkein_hqs (d : Die) (k : BitVec 7) (x : SkeinSt) : (s.setSkein d k x).hqs = s.hqs := rfl
@[simp] theorem State.modSkein_hqs (d : Die) (k : BitVec 7) (f : SkeinSt → SkeinSt) : (s.modSkein d k f).hqs = s.hqs := rfl
@[simp] theorem State.setSkein_root (d : Die) (k : BitVec 7) (x : SkeinSt) : (s.setSkein d k x).root = s.root := rfl
@[simp] theorem State.modSkein_root (d : Die) (k : BitVec 7) (f : SkeinSt → SkeinSt) : (s.modSkein d k f).root = s.root := rfl
@[simp] theorem State.setSkein_self (d : Die) (k : BitVec 7) (x : SkeinSt) : (s.setSkein d k x).skein d k = x := tblGet_set_self ..
@[simp] theorem State.modSkein_self (d : Die) (k : BitVec 7) (f : SkeinSt → SkeinSt) : (s.modSkein d k f).skein d k = f (s.skein d k) := tblGet_set_self ..
@[simp] theorem State.setSkein_slot (d : Die) (k : BitVec 7) (x : SkeinSt) (j : SlotId) : (s.setSkein d k x).slot j = s.slot j := rfl
@[simp] theorem State.modSkein_slot (d : Die) (k : BitVec 7) (f : SkeinSt → SkeinSt) (j : SlotId) : (s.modSkein d k f).slot j = s.slot j := rfl
@[simp] theorem State.setSkein_core (d : Die) (k : BitVec 7) (x : SkeinSt) (e : Die) (j : CoreNo) : (s.setSkein d k x).core e j = s.core e j := rfl
@[simp] theorem State.modSkein_core (d : Die) (k : BitVec 7) (f : SkeinSt → SkeinSt) (e : Die) (j : CoreNo) : (s.modSkein d k f).core e j = s.core e j := rfl
@[simp] theorem State.setSkein_die (d : Die) (k : BitVec 7) (x : SkeinSt) (e : Die) : (s.setSkein d k x).die e = s.die e := rfl
@[simp] theorem State.modSkein_die (d : Die) (k : BitVec 7) (f : SkeinSt → SkeinSt) (e : Die) : (s.modSkein d k f).die e = s.die e := rfl
@[simp] theorem State.setSkein_shed (d : Die) (k : BitVec 7) (x : SkeinSt) (e : Die) (j : ShedNo) : (s.setSkein d k x).shed e j = s.shed e j := rfl
@[simp] theorem State.modSkein_shed (d : Die) (k : BitVec 7) (f : SkeinSt → SkeinSt) (e : Die) (j : ShedNo) : (s.modSkein d k f).shed e j = s.shed e j := rfl
@[simp] theorem State.setSkein_loom (d : Die) (k : BitVec 7) (x : SkeinSt) (e : Die) (j : LoomNo) : (s.setSkein d k x).loom e j = s.loom e j := rfl
@[simp] theorem State.modSkein_loom (d : Die) (k : BitVec 7) (f : SkeinSt → SkeinSt) (e : Die) (j : LoomNo) : (s.modSkein d k f).loom e j = s.loom e j := rfl
@[simp] theorem State.setSkein_hart (d : Die) (k : BitVec 7) (x : SkeinSt) (e : Die) (j : HartNo) : (s.setSkein d k x).hart e j = s.hart e j := rfl
@[simp] theorem State.modSkein_hart (d : Die) (k : BitVec 7) (f : SkeinSt → SkeinSt) (e : Die) (j : HartNo) : (s.modSkein d k f).hart e j = s.hart e j := rfl
@[simp] theorem State.setSkein_hq (d : Die) (k : BitVec 7) (x : SkeinSt) (e : Die) (j : HqNo) : (s.setSkein d k x).hq e j = s.hq e j := rfl
@[simp] theorem State.modSkein_hq (d : Die) (k : BitVec 7) (f : SkeinSt → SkeinSt) (e : Die) (j : HqNo) : (s.modSkein d k f).hq e j = s.hq e j := rfl

/-! shed -/

@[simp] theorem State.setShed_turn (d : Die) (h : ShedNo) (x : ShedSt) : (s.setShed d h x).turn = s.turn := rfl
@[simp] theorem State.modShed_turn (d : Die) (h : ShedNo) (f : ShedSt → ShedSt) : (s.modShed d h f).turn = s.turn := rfl
@[simp] theorem State.setShed_inputs (d : Die) (h : ShedNo) (x : ShedSt) : (s.setShed d h x).inputs = s.inputs := rfl
@[simp] theorem State.modShed_inputs (d : Die) (h : ShedNo) (f : ShedSt → ShedSt) : (s.modShed d h f).inputs = s.inputs := rfl
@[simp] theorem State.setShed_tick (d : Die) (h : ShedNo) (x : ShedSt) : (s.setShed d h x).tick = s.tick := rfl
@[simp] theorem State.modShed_tick (d : Die) (h : ShedNo) (f : ShedSt → ShedSt) : (s.modShed d h f).tick = s.tick := rfl
@[simp] theorem State.setShed_aclk (d : Die) (h : ShedNo) (x : ShedSt) : (s.setShed d h x).aclk = s.aclk := rfl
@[simp] theorem State.modShed_aclk (d : Die) (h : ShedNo) (f : ShedSt → ShedSt) : (s.modShed d h f).aclk = s.aclk := rfl
@[simp] theorem State.setShed_cur (d : Die) (h : ShedNo) (x : ShedSt) : (s.setShed d h x).cur = s.cur := rfl
@[simp] theorem State.modShed_cur (d : Die) (h : ShedNo) (f : ShedSt → ShedSt) : (s.modShed d h f).cur = s.cur := rfl
@[simp] theorem State.setShed_word (d : Die) (h : ShedNo) (x : ShedSt) : (s.setShed d h x).word = s.word := rfl
@[simp] theorem State.modShed_word (d : Die) (h : ShedNo) (f : ShedSt → ShedSt) : (s.modShed d h f).word = s.word := rfl
@[simp] theorem State.setShed_node (d : Die) (h : ShedNo) (x : ShedSt) : (s.setShed d h x).node = s.node := rfl
@[simp] theorem State.modShed_node (d : Die) (h : ShedNo) (f : ShedSt → ShedSt) : (s.modShed d h f).node = s.node := rfl
@[simp] theorem State.setShed_ev (d : Die) (h : ShedNo) (x : ShedSt) : (s.setShed d h x).ev = s.ev := rfl
@[simp] theorem State.modShed_ev (d : Die) (h : ShedNo) (f : ShedSt → ShedSt) : (s.modShed d h f).ev = s.ev := rfl
@[simp] theorem State.setShed_mem (d : Die) (h : ShedNo) (x : ShedSt) : (s.setShed d h x).mem = s.mem := rfl
@[simp] theorem State.modShed_mem (d : Die) (h : ShedNo) (f : ShedSt → ShedSt) : (s.modShed d h f).mem = s.mem := rfl
@[simp] theorem State.setShed_full (d : Die) (h : ShedNo) (x : ShedSt) : (s.setShed d h x).full = s.full := rfl
@[simp] theorem State.modShed_full (d : Die) (h : ShedNo) (f : ShedSt → ShedSt) : (s.modShed d h f).full = s.full := rfl
@[simp] theorem State.setShed_poison (d : Die) (h : ShedNo) (x : ShedSt) : (s.setShed d h x).poison = s.poison := rfl
@[simp] theorem State.modShed_poison (d : Die) (h : ShedNo) (f : ShedSt → ShedSt) : (s.modShed d h f).poison = s.poison := rfl
@[simp] theorem State.setShed_accs (d : Die) (h : ShedNo) (x : ShedSt) : (s.setShed d h x).accs = s.accs := rfl
@[simp] theorem State.modShed_accs (d : Die) (h : ShedNo) (f : ShedSt → ShedSt) : (s.modShed d h f).accs = s.accs := rfl
@[simp] theorem State.setShed_waits (d : Die) (h : ShedNo) (x : ShedSt) : (s.setShed d h x).waits = s.waits := rfl
@[simp] theorem State.modShed_waits (d : Die) (h : ShedNo) (f : ShedSt → ShedSt) : (s.modShed d h f).waits = s.waits := rfl
@[simp] theorem State.setShed_takes (d : Die) (h : ShedNo) (x : ShedSt) : (s.setShed d h x).takes = s.takes := rfl
@[simp] theorem State.modShed_takes (d : Die) (h : ShedNo) (f : ShedSt → ShedSt) : (s.modShed d h f).takes = s.takes := rfl
@[simp] theorem State.setShed_net (d : Die) (h : ShedNo) (x : ShedSt) : (s.setShed d h x).net = s.net := rfl
@[simp] theorem State.modShed_net (d : Die) (h : ShedNo) (f : ShedSt → ShedSt) : (s.modShed d h f).net = s.net := rfl
@[simp] theorem State.setShed_reed (d : Die) (h : ShedNo) (x : ShedSt) : (s.setShed d h x).reed = s.reed := rfl
@[simp] theorem State.modShed_reed (d : Die) (h : ShedNo) (f : ShedSt → ShedSt) : (s.modShed d h f).reed = s.reed := rfl
@[simp] theorem State.setShed_hostOut (d : Die) (h : ShedNo) (x : ShedSt) : (s.setShed d h x).hostOut = s.hostOut := rfl
@[simp] theorem State.modShed_hostOut (d : Die) (h : ShedNo) (f : ShedSt → ShedSt) : (s.modShed d h f).hostOut = s.hostOut := rfl
@[simp] theorem State.setShed_nextId (d : Die) (h : ShedNo) (x : ShedSt) : (s.setShed d h x).nextId = s.nextId := rfl
@[simp] theorem State.modShed_nextId (d : Die) (h : ShedNo) (f : ShedSt → ShedSt) : (s.modShed d h f).nextId = s.nextId := rfl
@[simp] theorem State.setShed_dies (d : Die) (h : ShedNo) (x : ShedSt) : (s.setShed d h x).dies = s.dies := rfl
@[simp] theorem State.modShed_dies (d : Die) (h : ShedNo) (f : ShedSt → ShedSt) : (s.modShed d h f).dies = s.dies := rfl
@[simp] theorem State.setShed_cores (d : Die) (h : ShedNo) (x : ShedSt) : (s.setShed d h x).cores = s.cores := rfl
@[simp] theorem State.modShed_cores (d : Die) (h : ShedNo) (f : ShedSt → ShedSt) : (s.modShed d h f).cores = s.cores := rfl
@[simp] theorem State.setShed_skeins (d : Die) (h : ShedNo) (x : ShedSt) : (s.setShed d h x).skeins = s.skeins := rfl
@[simp] theorem State.modShed_skeins (d : Die) (h : ShedNo) (f : ShedSt → ShedSt) : (s.modShed d h f).skeins = s.skeins := rfl
@[simp] theorem State.setShed_slots (d : Die) (h : ShedNo) (x : ShedSt) : (s.setShed d h x).slots = s.slots := rfl
@[simp] theorem State.modShed_slots (d : Die) (h : ShedNo) (f : ShedSt → ShedSt) : (s.modShed d h f).slots = s.slots := rfl
@[simp] theorem State.setShed_looms (d : Die) (h : ShedNo) (x : ShedSt) : (s.setShed d h x).looms = s.looms := rfl
@[simp] theorem State.modShed_looms (d : Die) (h : ShedNo) (f : ShedSt → ShedSt) : (s.modShed d h f).looms = s.looms := rfl
@[simp] theorem State.setShed_harts (d : Die) (h : ShedNo) (x : ShedSt) : (s.setShed d h x).harts = s.harts := rfl
@[simp] theorem State.modShed_harts (d : Die) (h : ShedNo) (f : ShedSt → ShedSt) : (s.modShed d h f).harts = s.harts := rfl
@[simp] theorem State.setShed_hqs (d : Die) (h : ShedNo) (x : ShedSt) : (s.setShed d h x).hqs = s.hqs := rfl
@[simp] theorem State.modShed_hqs (d : Die) (h : ShedNo) (f : ShedSt → ShedSt) : (s.modShed d h f).hqs = s.hqs := rfl
@[simp] theorem State.setShed_root (d : Die) (h : ShedNo) (x : ShedSt) : (s.setShed d h x).root = s.root := rfl
@[simp] theorem State.modShed_root (d : Die) (h : ShedNo) (f : ShedSt → ShedSt) : (s.modShed d h f).root = s.root := rfl
@[simp] theorem State.setShed_self (d : Die) (h : ShedNo) (x : ShedSt) : (s.setShed d h x).shed d h = x := tblGet_set_self ..
@[simp] theorem State.modShed_self (d : Die) (h : ShedNo) (f : ShedSt → ShedSt) : (s.modShed d h f).shed d h = f (s.shed d h) := tblGet_set_self ..
@[simp] theorem State.setShed_slot (d : Die) (h : ShedNo) (x : ShedSt) (j : SlotId) : (s.setShed d h x).slot j = s.slot j := rfl
@[simp] theorem State.modShed_slot (d : Die) (h : ShedNo) (f : ShedSt → ShedSt) (j : SlotId) : (s.modShed d h f).slot j = s.slot j := rfl
@[simp] theorem State.setShed_core (d : Die) (h : ShedNo) (x : ShedSt) (e : Die) (j : CoreNo) : (s.setShed d h x).core e j = s.core e j := rfl
@[simp] theorem State.modShed_core (d : Die) (h : ShedNo) (f : ShedSt → ShedSt) (e : Die) (j : CoreNo) : (s.modShed d h f).core e j = s.core e j := rfl
@[simp] theorem State.setShed_die (d : Die) (h : ShedNo) (x : ShedSt) (e : Die) : (s.setShed d h x).die e = s.die e := rfl
@[simp] theorem State.modShed_die (d : Die) (h : ShedNo) (f : ShedSt → ShedSt) (e : Die) : (s.modShed d h f).die e = s.die e := rfl
@[simp] theorem State.setShed_skein (d : Die) (h : ShedNo) (x : ShedSt) (e : Die) (j : BitVec 7) : (s.setShed d h x).skein e j = s.skein e j := rfl
@[simp] theorem State.modShed_skein (d : Die) (h : ShedNo) (f : ShedSt → ShedSt) (e : Die) (j : BitVec 7) : (s.modShed d h f).skein e j = s.skein e j := rfl
@[simp] theorem State.setShed_loom (d : Die) (h : ShedNo) (x : ShedSt) (e : Die) (j : LoomNo) : (s.setShed d h x).loom e j = s.loom e j := rfl
@[simp] theorem State.modShed_loom (d : Die) (h : ShedNo) (f : ShedSt → ShedSt) (e : Die) (j : LoomNo) : (s.modShed d h f).loom e j = s.loom e j := rfl
@[simp] theorem State.setShed_hart (d : Die) (h : ShedNo) (x : ShedSt) (e : Die) (j : HartNo) : (s.setShed d h x).hart e j = s.hart e j := rfl
@[simp] theorem State.modShed_hart (d : Die) (h : ShedNo) (f : ShedSt → ShedSt) (e : Die) (j : HartNo) : (s.modShed d h f).hart e j = s.hart e j := rfl
@[simp] theorem State.setShed_hq (d : Die) (h : ShedNo) (x : ShedSt) (e : Die) (j : HqNo) : (s.setShed d h x).hq e j = s.hq e j := rfl
@[simp] theorem State.modShed_hq (d : Die) (h : ShedNo) (f : ShedSt → ShedSt) (e : Die) (j : HqNo) : (s.modShed d h f).hq e j = s.hq e j := rfl

/-! loom -/

@[simp] theorem State.setLoom_turn (d : Die) (l : LoomNo) (x : Loom) : (s.setLoom d l x).turn = s.turn := rfl
@[simp] theorem State.modLoom_turn (d : Die) (l : LoomNo) (f : Loom → Loom) : (s.modLoom d l f).turn = s.turn := rfl
@[simp] theorem State.setLoom_inputs (d : Die) (l : LoomNo) (x : Loom) : (s.setLoom d l x).inputs = s.inputs := rfl
@[simp] theorem State.modLoom_inputs (d : Die) (l : LoomNo) (f : Loom → Loom) : (s.modLoom d l f).inputs = s.inputs := rfl
@[simp] theorem State.setLoom_tick (d : Die) (l : LoomNo) (x : Loom) : (s.setLoom d l x).tick = s.tick := rfl
@[simp] theorem State.modLoom_tick (d : Die) (l : LoomNo) (f : Loom → Loom) : (s.modLoom d l f).tick = s.tick := rfl
@[simp] theorem State.setLoom_aclk (d : Die) (l : LoomNo) (x : Loom) : (s.setLoom d l x).aclk = s.aclk := rfl
@[simp] theorem State.modLoom_aclk (d : Die) (l : LoomNo) (f : Loom → Loom) : (s.modLoom d l f).aclk = s.aclk := rfl
@[simp] theorem State.setLoom_cur (d : Die) (l : LoomNo) (x : Loom) : (s.setLoom d l x).cur = s.cur := rfl
@[simp] theorem State.modLoom_cur (d : Die) (l : LoomNo) (f : Loom → Loom) : (s.modLoom d l f).cur = s.cur := rfl
@[simp] theorem State.setLoom_word (d : Die) (l : LoomNo) (x : Loom) : (s.setLoom d l x).word = s.word := rfl
@[simp] theorem State.modLoom_word (d : Die) (l : LoomNo) (f : Loom → Loom) : (s.modLoom d l f).word = s.word := rfl
@[simp] theorem State.setLoom_node (d : Die) (l : LoomNo) (x : Loom) : (s.setLoom d l x).node = s.node := rfl
@[simp] theorem State.modLoom_node (d : Die) (l : LoomNo) (f : Loom → Loom) : (s.modLoom d l f).node = s.node := rfl
@[simp] theorem State.setLoom_ev (d : Die) (l : LoomNo) (x : Loom) : (s.setLoom d l x).ev = s.ev := rfl
@[simp] theorem State.modLoom_ev (d : Die) (l : LoomNo) (f : Loom → Loom) : (s.modLoom d l f).ev = s.ev := rfl
@[simp] theorem State.setLoom_mem (d : Die) (l : LoomNo) (x : Loom) : (s.setLoom d l x).mem = s.mem := rfl
@[simp] theorem State.modLoom_mem (d : Die) (l : LoomNo) (f : Loom → Loom) : (s.modLoom d l f).mem = s.mem := rfl
@[simp] theorem State.setLoom_full (d : Die) (l : LoomNo) (x : Loom) : (s.setLoom d l x).full = s.full := rfl
@[simp] theorem State.modLoom_full (d : Die) (l : LoomNo) (f : Loom → Loom) : (s.modLoom d l f).full = s.full := rfl
@[simp] theorem State.setLoom_poison (d : Die) (l : LoomNo) (x : Loom) : (s.setLoom d l x).poison = s.poison := rfl
@[simp] theorem State.modLoom_poison (d : Die) (l : LoomNo) (f : Loom → Loom) : (s.modLoom d l f).poison = s.poison := rfl
@[simp] theorem State.setLoom_accs (d : Die) (l : LoomNo) (x : Loom) : (s.setLoom d l x).accs = s.accs := rfl
@[simp] theorem State.modLoom_accs (d : Die) (l : LoomNo) (f : Loom → Loom) : (s.modLoom d l f).accs = s.accs := rfl
@[simp] theorem State.setLoom_waits (d : Die) (l : LoomNo) (x : Loom) : (s.setLoom d l x).waits = s.waits := rfl
@[simp] theorem State.modLoom_waits (d : Die) (l : LoomNo) (f : Loom → Loom) : (s.modLoom d l f).waits = s.waits := rfl
@[simp] theorem State.setLoom_takes (d : Die) (l : LoomNo) (x : Loom) : (s.setLoom d l x).takes = s.takes := rfl
@[simp] theorem State.modLoom_takes (d : Die) (l : LoomNo) (f : Loom → Loom) : (s.modLoom d l f).takes = s.takes := rfl
@[simp] theorem State.setLoom_net (d : Die) (l : LoomNo) (x : Loom) : (s.setLoom d l x).net = s.net := rfl
@[simp] theorem State.modLoom_net (d : Die) (l : LoomNo) (f : Loom → Loom) : (s.modLoom d l f).net = s.net := rfl
@[simp] theorem State.setLoom_reed (d : Die) (l : LoomNo) (x : Loom) : (s.setLoom d l x).reed = s.reed := rfl
@[simp] theorem State.modLoom_reed (d : Die) (l : LoomNo) (f : Loom → Loom) : (s.modLoom d l f).reed = s.reed := rfl
@[simp] theorem State.setLoom_hostOut (d : Die) (l : LoomNo) (x : Loom) : (s.setLoom d l x).hostOut = s.hostOut := rfl
@[simp] theorem State.modLoom_hostOut (d : Die) (l : LoomNo) (f : Loom → Loom) : (s.modLoom d l f).hostOut = s.hostOut := rfl
@[simp] theorem State.setLoom_nextId (d : Die) (l : LoomNo) (x : Loom) : (s.setLoom d l x).nextId = s.nextId := rfl
@[simp] theorem State.modLoom_nextId (d : Die) (l : LoomNo) (f : Loom → Loom) : (s.modLoom d l f).nextId = s.nextId := rfl
@[simp] theorem State.setLoom_dies (d : Die) (l : LoomNo) (x : Loom) : (s.setLoom d l x).dies = s.dies := rfl
@[simp] theorem State.modLoom_dies (d : Die) (l : LoomNo) (f : Loom → Loom) : (s.modLoom d l f).dies = s.dies := rfl
@[simp] theorem State.setLoom_cores (d : Die) (l : LoomNo) (x : Loom) : (s.setLoom d l x).cores = s.cores := rfl
@[simp] theorem State.modLoom_cores (d : Die) (l : LoomNo) (f : Loom → Loom) : (s.modLoom d l f).cores = s.cores := rfl
@[simp] theorem State.setLoom_skeins (d : Die) (l : LoomNo) (x : Loom) : (s.setLoom d l x).skeins = s.skeins := rfl
@[simp] theorem State.modLoom_skeins (d : Die) (l : LoomNo) (f : Loom → Loom) : (s.modLoom d l f).skeins = s.skeins := rfl
@[simp] theorem State.setLoom_slots (d : Die) (l : LoomNo) (x : Loom) : (s.setLoom d l x).slots = s.slots := rfl
@[simp] theorem State.modLoom_slots (d : Die) (l : LoomNo) (f : Loom → Loom) : (s.modLoom d l f).slots = s.slots := rfl
@[simp] theorem State.setLoom_sheds (d : Die) (l : LoomNo) (x : Loom) : (s.setLoom d l x).sheds = s.sheds := rfl
@[simp] theorem State.modLoom_sheds (d : Die) (l : LoomNo) (f : Loom → Loom) : (s.modLoom d l f).sheds = s.sheds := rfl
@[simp] theorem State.setLoom_harts (d : Die) (l : LoomNo) (x : Loom) : (s.setLoom d l x).harts = s.harts := rfl
@[simp] theorem State.modLoom_harts (d : Die) (l : LoomNo) (f : Loom → Loom) : (s.modLoom d l f).harts = s.harts := rfl
@[simp] theorem State.setLoom_hqs (d : Die) (l : LoomNo) (x : Loom) : (s.setLoom d l x).hqs = s.hqs := rfl
@[simp] theorem State.modLoom_hqs (d : Die) (l : LoomNo) (f : Loom → Loom) : (s.modLoom d l f).hqs = s.hqs := rfl
@[simp] theorem State.setLoom_root (d : Die) (l : LoomNo) (x : Loom) : (s.setLoom d l x).root = s.root := rfl
@[simp] theorem State.modLoom_root (d : Die) (l : LoomNo) (f : Loom → Loom) : (s.modLoom d l f).root = s.root := rfl
@[simp] theorem State.setLoom_self (d : Die) (l : LoomNo) (x : Loom) : (s.setLoom d l x).loom d l = x := tblGet_set_self ..
@[simp] theorem State.modLoom_self (d : Die) (l : LoomNo) (f : Loom → Loom) : (s.modLoom d l f).loom d l = f (s.loom d l) := tblGet_set_self ..
@[simp] theorem State.setLoom_slot (d : Die) (l : LoomNo) (x : Loom) (j : SlotId) : (s.setLoom d l x).slot j = s.slot j := rfl
@[simp] theorem State.modLoom_slot (d : Die) (l : LoomNo) (f : Loom → Loom) (j : SlotId) : (s.modLoom d l f).slot j = s.slot j := rfl
@[simp] theorem State.setLoom_core (d : Die) (l : LoomNo) (x : Loom) (e : Die) (j : CoreNo) : (s.setLoom d l x).core e j = s.core e j := rfl
@[simp] theorem State.modLoom_core (d : Die) (l : LoomNo) (f : Loom → Loom) (e : Die) (j : CoreNo) : (s.modLoom d l f).core e j = s.core e j := rfl
@[simp] theorem State.setLoom_die (d : Die) (l : LoomNo) (x : Loom) (e : Die) : (s.setLoom d l x).die e = s.die e := rfl
@[simp] theorem State.modLoom_die (d : Die) (l : LoomNo) (f : Loom → Loom) (e : Die) : (s.modLoom d l f).die e = s.die e := rfl
@[simp] theorem State.setLoom_skein (d : Die) (l : LoomNo) (x : Loom) (e : Die) (j : BitVec 7) : (s.setLoom d l x).skein e j = s.skein e j := rfl
@[simp] theorem State.modLoom_skein (d : Die) (l : LoomNo) (f : Loom → Loom) (e : Die) (j : BitVec 7) : (s.modLoom d l f).skein e j = s.skein e j := rfl
@[simp] theorem State.setLoom_shed (d : Die) (l : LoomNo) (x : Loom) (e : Die) (j : ShedNo) : (s.setLoom d l x).shed e j = s.shed e j := rfl
@[simp] theorem State.modLoom_shed (d : Die) (l : LoomNo) (f : Loom → Loom) (e : Die) (j : ShedNo) : (s.modLoom d l f).shed e j = s.shed e j := rfl
@[simp] theorem State.setLoom_hart (d : Die) (l : LoomNo) (x : Loom) (e : Die) (j : HartNo) : (s.setLoom d l x).hart e j = s.hart e j := rfl
@[simp] theorem State.modLoom_hart (d : Die) (l : LoomNo) (f : Loom → Loom) (e : Die) (j : HartNo) : (s.modLoom d l f).hart e j = s.hart e j := rfl
@[simp] theorem State.setLoom_hq (d : Die) (l : LoomNo) (x : Loom) (e : Die) (j : HqNo) : (s.setLoom d l x).hq e j = s.hq e j := rfl
@[simp] theorem State.modLoom_hq (d : Die) (l : LoomNo) (f : Loom → Loom) (e : Die) (j : HqNo) : (s.modLoom d l f).hq e j = s.hq e j := rfl

/-! hart -/

@[simp] theorem State.setHart_turn (d : Die) (h : HartNo) (x : HartSt) : (s.setHart d h x).turn = s.turn := rfl
@[simp] theorem State.modHart_turn (d : Die) (h : HartNo) (f : HartSt → HartSt) : (s.modHart d h f).turn = s.turn := rfl
@[simp] theorem State.setHart_inputs (d : Die) (h : HartNo) (x : HartSt) : (s.setHart d h x).inputs = s.inputs := rfl
@[simp] theorem State.modHart_inputs (d : Die) (h : HartNo) (f : HartSt → HartSt) : (s.modHart d h f).inputs = s.inputs := rfl
@[simp] theorem State.setHart_tick (d : Die) (h : HartNo) (x : HartSt) : (s.setHart d h x).tick = s.tick := rfl
@[simp] theorem State.modHart_tick (d : Die) (h : HartNo) (f : HartSt → HartSt) : (s.modHart d h f).tick = s.tick := rfl
@[simp] theorem State.setHart_aclk (d : Die) (h : HartNo) (x : HartSt) : (s.setHart d h x).aclk = s.aclk := rfl
@[simp] theorem State.modHart_aclk (d : Die) (h : HartNo) (f : HartSt → HartSt) : (s.modHart d h f).aclk = s.aclk := rfl
@[simp] theorem State.setHart_cur (d : Die) (h : HartNo) (x : HartSt) : (s.setHart d h x).cur = s.cur := rfl
@[simp] theorem State.modHart_cur (d : Die) (h : HartNo) (f : HartSt → HartSt) : (s.modHart d h f).cur = s.cur := rfl
@[simp] theorem State.setHart_word (d : Die) (h : HartNo) (x : HartSt) : (s.setHart d h x).word = s.word := rfl
@[simp] theorem State.modHart_word (d : Die) (h : HartNo) (f : HartSt → HartSt) : (s.modHart d h f).word = s.word := rfl
@[simp] theorem State.setHart_node (d : Die) (h : HartNo) (x : HartSt) : (s.setHart d h x).node = s.node := rfl
@[simp] theorem State.modHart_node (d : Die) (h : HartNo) (f : HartSt → HartSt) : (s.modHart d h f).node = s.node := rfl
@[simp] theorem State.setHart_ev (d : Die) (h : HartNo) (x : HartSt) : (s.setHart d h x).ev = s.ev := rfl
@[simp] theorem State.modHart_ev (d : Die) (h : HartNo) (f : HartSt → HartSt) : (s.modHart d h f).ev = s.ev := rfl
@[simp] theorem State.setHart_mem (d : Die) (h : HartNo) (x : HartSt) : (s.setHart d h x).mem = s.mem := rfl
@[simp] theorem State.modHart_mem (d : Die) (h : HartNo) (f : HartSt → HartSt) : (s.modHart d h f).mem = s.mem := rfl
@[simp] theorem State.setHart_full (d : Die) (h : HartNo) (x : HartSt) : (s.setHart d h x).full = s.full := rfl
@[simp] theorem State.modHart_full (d : Die) (h : HartNo) (f : HartSt → HartSt) : (s.modHart d h f).full = s.full := rfl
@[simp] theorem State.setHart_poison (d : Die) (h : HartNo) (x : HartSt) : (s.setHart d h x).poison = s.poison := rfl
@[simp] theorem State.modHart_poison (d : Die) (h : HartNo) (f : HartSt → HartSt) : (s.modHart d h f).poison = s.poison := rfl
@[simp] theorem State.setHart_accs (d : Die) (h : HartNo) (x : HartSt) : (s.setHart d h x).accs = s.accs := rfl
@[simp] theorem State.modHart_accs (d : Die) (h : HartNo) (f : HartSt → HartSt) : (s.modHart d h f).accs = s.accs := rfl
@[simp] theorem State.setHart_waits (d : Die) (h : HartNo) (x : HartSt) : (s.setHart d h x).waits = s.waits := rfl
@[simp] theorem State.modHart_waits (d : Die) (h : HartNo) (f : HartSt → HartSt) : (s.modHart d h f).waits = s.waits := rfl
@[simp] theorem State.setHart_takes (d : Die) (h : HartNo) (x : HartSt) : (s.setHart d h x).takes = s.takes := rfl
@[simp] theorem State.modHart_takes (d : Die) (h : HartNo) (f : HartSt → HartSt) : (s.modHart d h f).takes = s.takes := rfl
@[simp] theorem State.setHart_net (d : Die) (h : HartNo) (x : HartSt) : (s.setHart d h x).net = s.net := rfl
@[simp] theorem State.modHart_net (d : Die) (h : HartNo) (f : HartSt → HartSt) : (s.modHart d h f).net = s.net := rfl
@[simp] theorem State.setHart_reed (d : Die) (h : HartNo) (x : HartSt) : (s.setHart d h x).reed = s.reed := rfl
@[simp] theorem State.modHart_reed (d : Die) (h : HartNo) (f : HartSt → HartSt) : (s.modHart d h f).reed = s.reed := rfl
@[simp] theorem State.setHart_hostOut (d : Die) (h : HartNo) (x : HartSt) : (s.setHart d h x).hostOut = s.hostOut := rfl
@[simp] theorem State.modHart_hostOut (d : Die) (h : HartNo) (f : HartSt → HartSt) : (s.modHart d h f).hostOut = s.hostOut := rfl
@[simp] theorem State.setHart_nextId (d : Die) (h : HartNo) (x : HartSt) : (s.setHart d h x).nextId = s.nextId := rfl
@[simp] theorem State.modHart_nextId (d : Die) (h : HartNo) (f : HartSt → HartSt) : (s.modHart d h f).nextId = s.nextId := rfl
@[simp] theorem State.setHart_dies (d : Die) (h : HartNo) (x : HartSt) : (s.setHart d h x).dies = s.dies := rfl
@[simp] theorem State.modHart_dies (d : Die) (h : HartNo) (f : HartSt → HartSt) : (s.modHart d h f).dies = s.dies := rfl
@[simp] theorem State.setHart_cores (d : Die) (h : HartNo) (x : HartSt) : (s.setHart d h x).cores = s.cores := rfl
@[simp] theorem State.modHart_cores (d : Die) (h : HartNo) (f : HartSt → HartSt) : (s.modHart d h f).cores = s.cores := rfl
@[simp] theorem State.setHart_skeins (d : Die) (h : HartNo) (x : HartSt) : (s.setHart d h x).skeins = s.skeins := rfl
@[simp] theorem State.modHart_skeins (d : Die) (h : HartNo) (f : HartSt → HartSt) : (s.modHart d h f).skeins = s.skeins := rfl
@[simp] theorem State.setHart_slots (d : Die) (h : HartNo) (x : HartSt) : (s.setHart d h x).slots = s.slots := rfl
@[simp] theorem State.modHart_slots (d : Die) (h : HartNo) (f : HartSt → HartSt) : (s.modHart d h f).slots = s.slots := rfl
@[simp] theorem State.setHart_sheds (d : Die) (h : HartNo) (x : HartSt) : (s.setHart d h x).sheds = s.sheds := rfl
@[simp] theorem State.modHart_sheds (d : Die) (h : HartNo) (f : HartSt → HartSt) : (s.modHart d h f).sheds = s.sheds := rfl
@[simp] theorem State.setHart_looms (d : Die) (h : HartNo) (x : HartSt) : (s.setHart d h x).looms = s.looms := rfl
@[simp] theorem State.modHart_looms (d : Die) (h : HartNo) (f : HartSt → HartSt) : (s.modHart d h f).looms = s.looms := rfl
@[simp] theorem State.setHart_hqs (d : Die) (h : HartNo) (x : HartSt) : (s.setHart d h x).hqs = s.hqs := rfl
@[simp] theorem State.modHart_hqs (d : Die) (h : HartNo) (f : HartSt → HartSt) : (s.modHart d h f).hqs = s.hqs := rfl
@[simp] theorem State.setHart_root (d : Die) (h : HartNo) (x : HartSt) : (s.setHart d h x).root = s.root := rfl
@[simp] theorem State.modHart_root (d : Die) (h : HartNo) (f : HartSt → HartSt) : (s.modHart d h f).root = s.root := rfl
@[simp] theorem State.setHart_self (d : Die) (h : HartNo) (x : HartSt) : (s.setHart d h x).hart d h = x := tblGet_set_self ..
@[simp] theorem State.modHart_self (d : Die) (h : HartNo) (f : HartSt → HartSt) : (s.modHart d h f).hart d h = f (s.hart d h) := tblGet_set_self ..
@[simp] theorem State.setHart_slot (d : Die) (h : HartNo) (x : HartSt) (j : SlotId) : (s.setHart d h x).slot j = s.slot j := rfl
@[simp] theorem State.modHart_slot (d : Die) (h : HartNo) (f : HartSt → HartSt) (j : SlotId) : (s.modHart d h f).slot j = s.slot j := rfl
@[simp] theorem State.setHart_core (d : Die) (h : HartNo) (x : HartSt) (e : Die) (j : CoreNo) : (s.setHart d h x).core e j = s.core e j := rfl
@[simp] theorem State.modHart_core (d : Die) (h : HartNo) (f : HartSt → HartSt) (e : Die) (j : CoreNo) : (s.modHart d h f).core e j = s.core e j := rfl
@[simp] theorem State.setHart_die (d : Die) (h : HartNo) (x : HartSt) (e : Die) : (s.setHart d h x).die e = s.die e := rfl
@[simp] theorem State.modHart_die (d : Die) (h : HartNo) (f : HartSt → HartSt) (e : Die) : (s.modHart d h f).die e = s.die e := rfl
@[simp] theorem State.setHart_skein (d : Die) (h : HartNo) (x : HartSt) (e : Die) (j : BitVec 7) : (s.setHart d h x).skein e j = s.skein e j := rfl
@[simp] theorem State.modHart_skein (d : Die) (h : HartNo) (f : HartSt → HartSt) (e : Die) (j : BitVec 7) : (s.modHart d h f).skein e j = s.skein e j := rfl
@[simp] theorem State.setHart_shed (d : Die) (h : HartNo) (x : HartSt) (e : Die) (j : ShedNo) : (s.setHart d h x).shed e j = s.shed e j := rfl
@[simp] theorem State.modHart_shed (d : Die) (h : HartNo) (f : HartSt → HartSt) (e : Die) (j : ShedNo) : (s.modHart d h f).shed e j = s.shed e j := rfl
@[simp] theorem State.setHart_loom (d : Die) (h : HartNo) (x : HartSt) (e : Die) (j : LoomNo) : (s.setHart d h x).loom e j = s.loom e j := rfl
@[simp] theorem State.modHart_loom (d : Die) (h : HartNo) (f : HartSt → HartSt) (e : Die) (j : LoomNo) : (s.modHart d h f).loom e j = s.loom e j := rfl
@[simp] theorem State.setHart_hq (d : Die) (h : HartNo) (x : HartSt) (e : Die) (j : HqNo) : (s.setHart d h x).hq e j = s.hq e j := rfl
@[simp] theorem State.modHart_hq (d : Die) (h : HartNo) (f : HartSt → HartSt) (e : Die) (j : HqNo) : (s.modHart d h f).hq e j = s.hq e j := rfl

/-! hq -/

@[simp] theorem State.setHq_turn (d : Die) (q : HqNo) (x : HqSt) : (s.setHq d q x).turn = s.turn := rfl
@[simp] theorem State.modHq_turn (d : Die) (q : HqNo) (f : HqSt → HqSt) : (s.modHq d q f).turn = s.turn := rfl
@[simp] theorem State.setHq_inputs (d : Die) (q : HqNo) (x : HqSt) : (s.setHq d q x).inputs = s.inputs := rfl
@[simp] theorem State.modHq_inputs (d : Die) (q : HqNo) (f : HqSt → HqSt) : (s.modHq d q f).inputs = s.inputs := rfl
@[simp] theorem State.setHq_tick (d : Die) (q : HqNo) (x : HqSt) : (s.setHq d q x).tick = s.tick := rfl
@[simp] theorem State.modHq_tick (d : Die) (q : HqNo) (f : HqSt → HqSt) : (s.modHq d q f).tick = s.tick := rfl
@[simp] theorem State.setHq_aclk (d : Die) (q : HqNo) (x : HqSt) : (s.setHq d q x).aclk = s.aclk := rfl
@[simp] theorem State.modHq_aclk (d : Die) (q : HqNo) (f : HqSt → HqSt) : (s.modHq d q f).aclk = s.aclk := rfl
@[simp] theorem State.setHq_cur (d : Die) (q : HqNo) (x : HqSt) : (s.setHq d q x).cur = s.cur := rfl
@[simp] theorem State.modHq_cur (d : Die) (q : HqNo) (f : HqSt → HqSt) : (s.modHq d q f).cur = s.cur := rfl
@[simp] theorem State.setHq_word (d : Die) (q : HqNo) (x : HqSt) : (s.setHq d q x).word = s.word := rfl
@[simp] theorem State.modHq_word (d : Die) (q : HqNo) (f : HqSt → HqSt) : (s.modHq d q f).word = s.word := rfl
@[simp] theorem State.setHq_node (d : Die) (q : HqNo) (x : HqSt) : (s.setHq d q x).node = s.node := rfl
@[simp] theorem State.modHq_node (d : Die) (q : HqNo) (f : HqSt → HqSt) : (s.modHq d q f).node = s.node := rfl
@[simp] theorem State.setHq_ev (d : Die) (q : HqNo) (x : HqSt) : (s.setHq d q x).ev = s.ev := rfl
@[simp] theorem State.modHq_ev (d : Die) (q : HqNo) (f : HqSt → HqSt) : (s.modHq d q f).ev = s.ev := rfl
@[simp] theorem State.setHq_mem (d : Die) (q : HqNo) (x : HqSt) : (s.setHq d q x).mem = s.mem := rfl
@[simp] theorem State.modHq_mem (d : Die) (q : HqNo) (f : HqSt → HqSt) : (s.modHq d q f).mem = s.mem := rfl
@[simp] theorem State.setHq_full (d : Die) (q : HqNo) (x : HqSt) : (s.setHq d q x).full = s.full := rfl
@[simp] theorem State.modHq_full (d : Die) (q : HqNo) (f : HqSt → HqSt) : (s.modHq d q f).full = s.full := rfl
@[simp] theorem State.setHq_poison (d : Die) (q : HqNo) (x : HqSt) : (s.setHq d q x).poison = s.poison := rfl
@[simp] theorem State.modHq_poison (d : Die) (q : HqNo) (f : HqSt → HqSt) : (s.modHq d q f).poison = s.poison := rfl
@[simp] theorem State.setHq_accs (d : Die) (q : HqNo) (x : HqSt) : (s.setHq d q x).accs = s.accs := rfl
@[simp] theorem State.modHq_accs (d : Die) (q : HqNo) (f : HqSt → HqSt) : (s.modHq d q f).accs = s.accs := rfl
@[simp] theorem State.setHq_waits (d : Die) (q : HqNo) (x : HqSt) : (s.setHq d q x).waits = s.waits := rfl
@[simp] theorem State.modHq_waits (d : Die) (q : HqNo) (f : HqSt → HqSt) : (s.modHq d q f).waits = s.waits := rfl
@[simp] theorem State.setHq_takes (d : Die) (q : HqNo) (x : HqSt) : (s.setHq d q x).takes = s.takes := rfl
@[simp] theorem State.modHq_takes (d : Die) (q : HqNo) (f : HqSt → HqSt) : (s.modHq d q f).takes = s.takes := rfl
@[simp] theorem State.setHq_net (d : Die) (q : HqNo) (x : HqSt) : (s.setHq d q x).net = s.net := rfl
@[simp] theorem State.modHq_net (d : Die) (q : HqNo) (f : HqSt → HqSt) : (s.modHq d q f).net = s.net := rfl
@[simp] theorem State.setHq_reed (d : Die) (q : HqNo) (x : HqSt) : (s.setHq d q x).reed = s.reed := rfl
@[simp] theorem State.modHq_reed (d : Die) (q : HqNo) (f : HqSt → HqSt) : (s.modHq d q f).reed = s.reed := rfl
@[simp] theorem State.setHq_hostOut (d : Die) (q : HqNo) (x : HqSt) : (s.setHq d q x).hostOut = s.hostOut := rfl
@[simp] theorem State.modHq_hostOut (d : Die) (q : HqNo) (f : HqSt → HqSt) : (s.modHq d q f).hostOut = s.hostOut := rfl
@[simp] theorem State.setHq_nextId (d : Die) (q : HqNo) (x : HqSt) : (s.setHq d q x).nextId = s.nextId := rfl
@[simp] theorem State.modHq_nextId (d : Die) (q : HqNo) (f : HqSt → HqSt) : (s.modHq d q f).nextId = s.nextId := rfl
@[simp] theorem State.setHq_dies (d : Die) (q : HqNo) (x : HqSt) : (s.setHq d q x).dies = s.dies := rfl
@[simp] theorem State.modHq_dies (d : Die) (q : HqNo) (f : HqSt → HqSt) : (s.modHq d q f).dies = s.dies := rfl
@[simp] theorem State.setHq_cores (d : Die) (q : HqNo) (x : HqSt) : (s.setHq d q x).cores = s.cores := rfl
@[simp] theorem State.modHq_cores (d : Die) (q : HqNo) (f : HqSt → HqSt) : (s.modHq d q f).cores = s.cores := rfl
@[simp] theorem State.setHq_skeins (d : Die) (q : HqNo) (x : HqSt) : (s.setHq d q x).skeins = s.skeins := rfl
@[simp] theorem State.modHq_skeins (d : Die) (q : HqNo) (f : HqSt → HqSt) : (s.modHq d q f).skeins = s.skeins := rfl
@[simp] theorem State.setHq_slots (d : Die) (q : HqNo) (x : HqSt) : (s.setHq d q x).slots = s.slots := rfl
@[simp] theorem State.modHq_slots (d : Die) (q : HqNo) (f : HqSt → HqSt) : (s.modHq d q f).slots = s.slots := rfl
@[simp] theorem State.setHq_sheds (d : Die) (q : HqNo) (x : HqSt) : (s.setHq d q x).sheds = s.sheds := rfl
@[simp] theorem State.modHq_sheds (d : Die) (q : HqNo) (f : HqSt → HqSt) : (s.modHq d q f).sheds = s.sheds := rfl
@[simp] theorem State.setHq_looms (d : Die) (q : HqNo) (x : HqSt) : (s.setHq d q x).looms = s.looms := rfl
@[simp] theorem State.modHq_looms (d : Die) (q : HqNo) (f : HqSt → HqSt) : (s.modHq d q f).looms = s.looms := rfl
@[simp] theorem State.setHq_harts (d : Die) (q : HqNo) (x : HqSt) : (s.setHq d q x).harts = s.harts := rfl
@[simp] theorem State.modHq_harts (d : Die) (q : HqNo) (f : HqSt → HqSt) : (s.modHq d q f).harts = s.harts := rfl
@[simp] theorem State.setHq_root (d : Die) (q : HqNo) (x : HqSt) : (s.setHq d q x).root = s.root := rfl
@[simp] theorem State.modHq_root (d : Die) (q : HqNo) (f : HqSt → HqSt) : (s.modHq d q f).root = s.root := rfl
@[simp] theorem State.setHq_self (d : Die) (q : HqNo) (x : HqSt) : (s.setHq d q x).hq d q = x := tblGet_set_self ..
@[simp] theorem State.modHq_self (d : Die) (q : HqNo) (f : HqSt → HqSt) : (s.modHq d q f).hq d q = f (s.hq d q) := tblGet_set_self ..
@[simp] theorem State.setHq_slot (d : Die) (q : HqNo) (x : HqSt) (j : SlotId) : (s.setHq d q x).slot j = s.slot j := rfl
@[simp] theorem State.modHq_slot (d : Die) (q : HqNo) (f : HqSt → HqSt) (j : SlotId) : (s.modHq d q f).slot j = s.slot j := rfl
@[simp] theorem State.setHq_core (d : Die) (q : HqNo) (x : HqSt) (e : Die) (j : CoreNo) : (s.setHq d q x).core e j = s.core e j := rfl
@[simp] theorem State.modHq_core (d : Die) (q : HqNo) (f : HqSt → HqSt) (e : Die) (j : CoreNo) : (s.modHq d q f).core e j = s.core e j := rfl
@[simp] theorem State.setHq_die (d : Die) (q : HqNo) (x : HqSt) (e : Die) : (s.setHq d q x).die e = s.die e := rfl
@[simp] theorem State.modHq_die (d : Die) (q : HqNo) (f : HqSt → HqSt) (e : Die) : (s.modHq d q f).die e = s.die e := rfl
@[simp] theorem State.setHq_skein (d : Die) (q : HqNo) (x : HqSt) (e : Die) (j : BitVec 7) : (s.setHq d q x).skein e j = s.skein e j := rfl
@[simp] theorem State.modHq_skein (d : Die) (q : HqNo) (f : HqSt → HqSt) (e : Die) (j : BitVec 7) : (s.modHq d q f).skein e j = s.skein e j := rfl
@[simp] theorem State.setHq_shed (d : Die) (q : HqNo) (x : HqSt) (e : Die) (j : ShedNo) : (s.setHq d q x).shed e j = s.shed e j := rfl
@[simp] theorem State.modHq_shed (d : Die) (q : HqNo) (f : HqSt → HqSt) (e : Die) (j : ShedNo) : (s.modHq d q f).shed e j = s.shed e j := rfl
@[simp] theorem State.setHq_loom (d : Die) (q : HqNo) (x : HqSt) (e : Die) (j : LoomNo) : (s.setHq d q x).loom e j = s.loom e j := rfl
@[simp] theorem State.modHq_loom (d : Die) (q : HqNo) (f : HqSt → HqSt) (e : Die) (j : LoomNo) : (s.modHq d q f).loom e j = s.loom e j := rfl
@[simp] theorem State.setHq_hart (d : Die) (q : HqNo) (x : HqSt) (e : Die) (j : HartNo) : (s.setHq d q x).hart e j = s.hart e j := rfl
@[simp] theorem State.modHq_hart (d : Die) (q : HqNo) (f : HqSt → HqSt) (e : Die) (j : HartNo) : (s.modHq d q f).hart e j = s.hart e j := rfl

/-! Another unit of the same kind -/

theorem State.setSlot_ne {i j : SlotId} (h : j ≠ i) (x : SlotSt) : (s.setSlot i x).slot j = s.slot j :=
  tblGet_set_ne _ (fun e => h (slotKey_inj.1 e)) ..
theorem State.modSlot_ne {i j : SlotId} (h : j ≠ i) (f : SlotSt → SlotSt) : (s.modSlot i f).slot j = s.slot j :=
  s.setSlot_ne h _
theorem State.setCore_ne {d e : Die} {c k : CoreNo} (h : ¬(e = d ∧ k = c)) (x : CoreSt) :
    (s.setCore d c x).core e k = s.core e k :=
  tblGet_set_ne _ (fun q => h (coreKey_inj.1 q)) ..
theorem State.modCore_ne {d e : Die} {c k : CoreNo} (h : ¬(e = d ∧ k = c)) (f : CoreSt → CoreSt) :
    (s.modCore d c f).core e k = s.core e k :=
  s.setCore_ne h _
theorem State.setDie_ne {d e : Die} (h : e ≠ d) (x : DieSt) : (s.setDie d x).die e = s.die e :=
  tblGet_set_ne _ (fun q => h (BitVec.eq_of_toNat_eq q)) ..
theorem State.modDie_ne {d e : Die} (h : e ≠ d) (f : DieSt → DieSt) : (s.modDie d f).die e = s.die e :=
  s.setDie_ne h _
theorem State.setShed_ne {d e : Die} {h k : ShedNo} (n : ¬(e = d ∧ k = h)) (x : ShedSt) :
    (s.setShed d h x).shed e k = s.shed e k :=
  tblGet_set_ne _ (fun q => n (shedKey_inj.1 q)) ..
theorem State.modShed_ne {d e : Die} {h k : ShedNo} (n : ¬(e = d ∧ k = h)) (f : ShedSt → ShedSt) :
    (s.modShed d h f).shed e k = s.shed e k :=
  s.setShed_ne n _

/-! Packets and accesses -/

@[simp] theorem State.send_turn (p : Packet) : (s.send p).turn = s.turn := rfl
@[simp] theorem State.sendRelease_turn (p : Packet) (i : SlotId) : (s.sendRelease p i).turn = s.turn := rfl
@[simp] theorem State.dropPacket_turn (n : Nat) : (s.dropPacket n).turn = s.turn := rfl
@[simp] theorem State.modAccess_turn (n : Nat) (f : Access → Access) : (s.modAccess n f).turn = s.turn := rfl
@[simp] theorem State.dropAccess_turn (n : Nat) : (s.dropAccess n).turn = s.turn := rfl
@[simp] theorem State.send_inputs (p : Packet) : (s.send p).inputs = s.inputs := rfl
@[simp] theorem State.sendRelease_inputs (p : Packet) (i : SlotId) : (s.sendRelease p i).inputs = s.inputs := rfl
@[simp] theorem State.dropPacket_inputs (n : Nat) : (s.dropPacket n).inputs = s.inputs := rfl
@[simp] theorem State.modAccess_inputs (n : Nat) (f : Access → Access) : (s.modAccess n f).inputs = s.inputs := rfl
@[simp] theorem State.dropAccess_inputs (n : Nat) : (s.dropAccess n).inputs = s.inputs := rfl
@[simp] theorem State.send_tick (p : Packet) : (s.send p).tick = s.tick := rfl
@[simp] theorem State.sendRelease_tick (p : Packet) (i : SlotId) : (s.sendRelease p i).tick = s.tick := rfl
@[simp] theorem State.dropPacket_tick (n : Nat) : (s.dropPacket n).tick = s.tick := rfl
@[simp] theorem State.modAccess_tick (n : Nat) (f : Access → Access) : (s.modAccess n f).tick = s.tick := rfl
@[simp] theorem State.dropAccess_tick (n : Nat) : (s.dropAccess n).tick = s.tick := rfl
@[simp] theorem State.send_aclk (p : Packet) : (s.send p).aclk = s.aclk := rfl
@[simp] theorem State.sendRelease_aclk (p : Packet) (i : SlotId) : (s.sendRelease p i).aclk = s.aclk := rfl
@[simp] theorem State.dropPacket_aclk (n : Nat) : (s.dropPacket n).aclk = s.aclk := rfl
@[simp] theorem State.modAccess_aclk (n : Nat) (f : Access → Access) : (s.modAccess n f).aclk = s.aclk := rfl
@[simp] theorem State.dropAccess_aclk (n : Nat) : (s.dropAccess n).aclk = s.aclk := rfl
@[simp] theorem State.send_cur (p : Packet) : (s.send p).cur = s.cur := rfl
@[simp] theorem State.sendRelease_cur (p : Packet) (i : SlotId) : (s.sendRelease p i).cur = s.cur := rfl
@[simp] theorem State.dropPacket_cur (n : Nat) : (s.dropPacket n).cur = s.cur := rfl
@[simp] theorem State.modAccess_cur (n : Nat) (f : Access → Access) : (s.modAccess n f).cur = s.cur := rfl
@[simp] theorem State.dropAccess_cur (n : Nat) : (s.dropAccess n).cur = s.cur := rfl
@[simp] theorem State.send_word (p : Packet) : (s.send p).word = s.word := rfl
@[simp] theorem State.sendRelease_word (p : Packet) (i : SlotId) : (s.sendRelease p i).word = s.word := rfl
@[simp] theorem State.dropPacket_word (n : Nat) : (s.dropPacket n).word = s.word := rfl
@[simp] theorem State.modAccess_word (n : Nat) (f : Access → Access) : (s.modAccess n f).word = s.word := rfl
@[simp] theorem State.dropAccess_word (n : Nat) : (s.dropAccess n).word = s.word := rfl
@[simp] theorem State.send_node (p : Packet) : (s.send p).node = s.node := rfl
@[simp] theorem State.sendRelease_node (p : Packet) (i : SlotId) : (s.sendRelease p i).node = s.node := rfl
@[simp] theorem State.dropPacket_node (n : Nat) : (s.dropPacket n).node = s.node := rfl
@[simp] theorem State.modAccess_node (n : Nat) (f : Access → Access) : (s.modAccess n f).node = s.node := rfl
@[simp] theorem State.dropAccess_node (n : Nat) : (s.dropAccess n).node = s.node := rfl
@[simp] theorem State.send_ev (p : Packet) : (s.send p).ev = s.ev := rfl
@[simp] theorem State.sendRelease_ev (p : Packet) (i : SlotId) : (s.sendRelease p i).ev = s.ev := rfl
@[simp] theorem State.dropPacket_ev (n : Nat) : (s.dropPacket n).ev = s.ev := rfl
@[simp] theorem State.modAccess_ev (n : Nat) (f : Access → Access) : (s.modAccess n f).ev = s.ev := rfl
@[simp] theorem State.dropAccess_ev (n : Nat) : (s.dropAccess n).ev = s.ev := rfl
@[simp] theorem State.send_mem (p : Packet) : (s.send p).mem = s.mem := rfl
@[simp] theorem State.sendRelease_mem (p : Packet) (i : SlotId) : (s.sendRelease p i).mem = s.mem := rfl
@[simp] theorem State.dropPacket_mem (n : Nat) : (s.dropPacket n).mem = s.mem := rfl
@[simp] theorem State.modAccess_mem (n : Nat) (f : Access → Access) : (s.modAccess n f).mem = s.mem := rfl
@[simp] theorem State.dropAccess_mem (n : Nat) : (s.dropAccess n).mem = s.mem := rfl
@[simp] theorem State.send_full (p : Packet) : (s.send p).full = s.full := rfl
@[simp] theorem State.sendRelease_full (p : Packet) (i : SlotId) : (s.sendRelease p i).full = s.full := rfl
@[simp] theorem State.dropPacket_full (n : Nat) : (s.dropPacket n).full = s.full := rfl
@[simp] theorem State.modAccess_full (n : Nat) (f : Access → Access) : (s.modAccess n f).full = s.full := rfl
@[simp] theorem State.dropAccess_full (n : Nat) : (s.dropAccess n).full = s.full := rfl
@[simp] theorem State.send_poison (p : Packet) : (s.send p).poison = s.poison := rfl
@[simp] theorem State.sendRelease_poison (p : Packet) (i : SlotId) : (s.sendRelease p i).poison = s.poison := rfl
@[simp] theorem State.dropPacket_poison (n : Nat) : (s.dropPacket n).poison = s.poison := rfl
@[simp] theorem State.modAccess_poison (n : Nat) (f : Access → Access) : (s.modAccess n f).poison = s.poison := rfl
@[simp] theorem State.dropAccess_poison (n : Nat) : (s.dropAccess n).poison = s.poison := rfl
@[simp] theorem State.send_accs (p : Packet) : (s.send p).accs = s.accs := rfl
@[simp] theorem State.sendRelease_accs (p : Packet) (i : SlotId) : (s.sendRelease p i).accs = s.accs := rfl
@[simp] theorem State.dropPacket_accs (n : Nat) : (s.dropPacket n).accs = s.accs := rfl
@[simp] theorem State.send_waits (p : Packet) : (s.send p).waits = s.waits := rfl
@[simp] theorem State.sendRelease_waits (p : Packet) (i : SlotId) : (s.sendRelease p i).waits = s.waits := rfl
@[simp] theorem State.dropPacket_waits (n : Nat) : (s.dropPacket n).waits = s.waits := rfl
@[simp] theorem State.modAccess_waits (n : Nat) (f : Access → Access) : (s.modAccess n f).waits = s.waits := rfl
@[simp] theorem State.send_takes (p : Packet) : (s.send p).takes = s.takes := rfl
@[simp] theorem State.sendRelease_takes (p : Packet) (i : SlotId) : (s.sendRelease p i).takes = s.takes := rfl
@[simp] theorem State.dropPacket_takes (n : Nat) : (s.dropPacket n).takes = s.takes := rfl
@[simp] theorem State.modAccess_takes (n : Nat) (f : Access → Access) : (s.modAccess n f).takes = s.takes := rfl
@[simp] theorem State.dropAccess_takes (n : Nat) : (s.dropAccess n).takes = s.takes := rfl
@[simp] theorem State.modAccess_net (n : Nat) (f : Access → Access) : (s.modAccess n f).net = s.net := rfl
@[simp] theorem State.dropAccess_net (n : Nat) : (s.dropAccess n).net = s.net := rfl
@[simp] theorem State.send_reed (p : Packet) : (s.send p).reed = s.reed := rfl
@[simp] theorem State.sendRelease_reed (p : Packet) (i : SlotId) : (s.sendRelease p i).reed = s.reed := rfl
@[simp] theorem State.dropPacket_reed (n : Nat) : (s.dropPacket n).reed = s.reed := rfl
@[simp] theorem State.modAccess_reed (n : Nat) (f : Access → Access) : (s.modAccess n f).reed = s.reed := rfl
@[simp] theorem State.dropAccess_reed (n : Nat) : (s.dropAccess n).reed = s.reed := rfl
@[simp] theorem State.send_hostOut (p : Packet) : (s.send p).hostOut = s.hostOut := rfl
@[simp] theorem State.sendRelease_hostOut (p : Packet) (i : SlotId) : (s.sendRelease p i).hostOut = s.hostOut := rfl
@[simp] theorem State.dropPacket_hostOut (n : Nat) : (s.dropPacket n).hostOut = s.hostOut := rfl
@[simp] theorem State.modAccess_hostOut (n : Nat) (f : Access → Access) : (s.modAccess n f).hostOut = s.hostOut := rfl
@[simp] theorem State.dropAccess_hostOut (n : Nat) : (s.dropAccess n).hostOut = s.hostOut := rfl
@[simp] theorem State.dropPacket_nextId (n : Nat) : (s.dropPacket n).nextId = s.nextId := rfl
@[simp] theorem State.modAccess_nextId (n : Nat) (f : Access → Access) : (s.modAccess n f).nextId = s.nextId := rfl
@[simp] theorem State.dropAccess_nextId (n : Nat) : (s.dropAccess n).nextId = s.nextId := rfl
@[simp] theorem State.send_dies (p : Packet) : (s.send p).dies = s.dies := rfl
@[simp] theorem State.sendRelease_dies (p : Packet) (i : SlotId) : (s.sendRelease p i).dies = s.dies := rfl
@[simp] theorem State.dropPacket_dies (n : Nat) : (s.dropPacket n).dies = s.dies := rfl
@[simp] theorem State.modAccess_dies (n : Nat) (f : Access → Access) : (s.modAccess n f).dies = s.dies := rfl
@[simp] theorem State.dropAccess_dies (n : Nat) : (s.dropAccess n).dies = s.dies := rfl
@[simp] theorem State.send_cores (p : Packet) : (s.send p).cores = s.cores := rfl
@[simp] theorem State.sendRelease_cores (p : Packet) (i : SlotId) : (s.sendRelease p i).cores = s.cores := rfl
@[simp] theorem State.dropPacket_cores (n : Nat) : (s.dropPacket n).cores = s.cores := rfl
@[simp] theorem State.modAccess_cores (n : Nat) (f : Access → Access) : (s.modAccess n f).cores = s.cores := rfl
@[simp] theorem State.dropAccess_cores (n : Nat) : (s.dropAccess n).cores = s.cores := rfl
@[simp] theorem State.send_skeins (p : Packet) : (s.send p).skeins = s.skeins := rfl
@[simp] theorem State.sendRelease_skeins (p : Packet) (i : SlotId) : (s.sendRelease p i).skeins = s.skeins := rfl
@[simp] theorem State.dropPacket_skeins (n : Nat) : (s.dropPacket n).skeins = s.skeins := rfl
@[simp] theorem State.modAccess_skeins (n : Nat) (f : Access → Access) : (s.modAccess n f).skeins = s.skeins := rfl
@[simp] theorem State.dropAccess_skeins (n : Nat) : (s.dropAccess n).skeins = s.skeins := rfl
@[simp] theorem State.send_slots (p : Packet) : (s.send p).slots = s.slots := rfl
@[simp] theorem State.sendRelease_slots (p : Packet) (i : SlotId) : (s.sendRelease p i).slots = s.slots := rfl
@[simp] theorem State.dropPacket_slots (n : Nat) : (s.dropPacket n).slots = s.slots := rfl
@[simp] theorem State.modAccess_slots (n : Nat) (f : Access → Access) : (s.modAccess n f).slots = s.slots := rfl
@[simp] theorem State.dropAccess_slots (n : Nat) : (s.dropAccess n).slots = s.slots := rfl
@[simp] theorem State.send_sheds (p : Packet) : (s.send p).sheds = s.sheds := rfl
@[simp] theorem State.sendRelease_sheds (p : Packet) (i : SlotId) : (s.sendRelease p i).sheds = s.sheds := rfl
@[simp] theorem State.dropPacket_sheds (n : Nat) : (s.dropPacket n).sheds = s.sheds := rfl
@[simp] theorem State.modAccess_sheds (n : Nat) (f : Access → Access) : (s.modAccess n f).sheds = s.sheds := rfl
@[simp] theorem State.dropAccess_sheds (n : Nat) : (s.dropAccess n).sheds = s.sheds := rfl
@[simp] theorem State.send_looms (p : Packet) : (s.send p).looms = s.looms := rfl
@[simp] theorem State.sendRelease_looms (p : Packet) (i : SlotId) : (s.sendRelease p i).looms = s.looms := rfl
@[simp] theorem State.dropPacket_looms (n : Nat) : (s.dropPacket n).looms = s.looms := rfl
@[simp] theorem State.modAccess_looms (n : Nat) (f : Access → Access) : (s.modAccess n f).looms = s.looms := rfl
@[simp] theorem State.dropAccess_looms (n : Nat) : (s.dropAccess n).looms = s.looms := rfl
@[simp] theorem State.send_harts (p : Packet) : (s.send p).harts = s.harts := rfl
@[simp] theorem State.sendRelease_harts (p : Packet) (i : SlotId) : (s.sendRelease p i).harts = s.harts := rfl
@[simp] theorem State.dropPacket_harts (n : Nat) : (s.dropPacket n).harts = s.harts := rfl
@[simp] theorem State.modAccess_harts (n : Nat) (f : Access → Access) : (s.modAccess n f).harts = s.harts := rfl
@[simp] theorem State.dropAccess_harts (n : Nat) : (s.dropAccess n).harts = s.harts := rfl
@[simp] theorem State.send_hqs (p : Packet) : (s.send p).hqs = s.hqs := rfl
@[simp] theorem State.sendRelease_hqs (p : Packet) (i : SlotId) : (s.sendRelease p i).hqs = s.hqs := rfl
@[simp] theorem State.dropPacket_hqs (n : Nat) : (s.dropPacket n).hqs = s.hqs := rfl
@[simp] theorem State.modAccess_hqs (n : Nat) (f : Access → Access) : (s.modAccess n f).hqs = s.hqs := rfl
@[simp] theorem State.dropAccess_hqs (n : Nat) : (s.dropAccess n).hqs = s.hqs := rfl
@[simp] theorem State.send_root (p : Packet) : (s.send p).root = s.root := rfl
@[simp] theorem State.sendRelease_root (p : Packet) (i : SlotId) : (s.sendRelease p i).root = s.root := rfl
@[simp] theorem State.dropPacket_root (n : Nat) : (s.dropPacket n).root = s.root := rfl
@[simp] theorem State.modAccess_root (n : Nat) (f : Access → Access) : (s.modAccess n f).root = s.root := rfl
@[simp] theorem State.dropAccess_root (n : Nat) : (s.dropAccess n).root = s.root := rfl
@[simp] theorem State.send_slot (p : Packet) (i : SlotId) : (s.send p).slot i = s.slot i := rfl
@[simp] theorem State.dropPacket_slot (n : Nat) (i : SlotId) : (s.dropPacket n).slot i = s.slot i := rfl
@[simp] theorem State.modAccess_slot (n : Nat) (f : Access → Access) (i : SlotId) : (s.modAccess n f).slot i = s.slot i := rfl
@[simp] theorem State.dropAccess_slot (n : Nat) (i : SlotId) : (s.dropAccess n).slot i = s.slot i := rfl
@[simp] theorem State.send_core (p : Packet) (d : Die) (c : CoreNo) : (s.send p).core d c = s.core d c := rfl
@[simp] theorem State.dropPacket_core (n : Nat) (d : Die) (c : CoreNo) : (s.dropPacket n).core d c = s.core d c := rfl
@[simp] theorem State.modAccess_core (n : Nat) (f : Access → Access) (d : Die) (c : CoreNo) : (s.modAccess n f).core d c = s.core d c := rfl
@[simp] theorem State.dropAccess_core (n : Nat) (d : Die) (c : CoreNo) : (s.dropAccess n).core d c = s.core d c := rfl
@[simp] theorem State.send_die (p : Packet) (d : Die) : (s.send p).die d = s.die d := rfl
@[simp] theorem State.dropPacket_die (n : Nat) (d : Die) : (s.dropPacket n).die d = s.die d := rfl
@[simp] theorem State.modAccess_die (n : Nat) (f : Access → Access) (d : Die) : (s.modAccess n f).die d = s.die d := rfl
@[simp] theorem State.dropAccess_die (n : Nat) (d : Die) : (s.dropAccess n).die d = s.die d := rfl
@[simp] theorem State.send_skein (p : Packet) (d : Die) (k : BitVec 7) : (s.send p).skein d k = s.skein d k := rfl
@[simp] theorem State.dropPacket_skein (n : Nat) (d : Die) (k : BitVec 7) : (s.dropPacket n).skein d k = s.skein d k := rfl
@[simp] theorem State.modAccess_skein (n : Nat) (f : Access → Access) (d : Die) (k : BitVec 7) : (s.modAccess n f).skein d k = s.skein d k := rfl
@[simp] theorem State.dropAccess_skein (n : Nat) (d : Die) (k : BitVec 7) : (s.dropAccess n).skein d k = s.skein d k := rfl
@[simp] theorem State.send_shed (p : Packet) (d : Die) (h : ShedNo) : (s.send p).shed d h = s.shed d h := rfl
@[simp] theorem State.dropPacket_shed (n : Nat) (d : Die) (h : ShedNo) : (s.dropPacket n).shed d h = s.shed d h := rfl
@[simp] theorem State.modAccess_shed (n : Nat) (f : Access → Access) (d : Die) (h : ShedNo) : (s.modAccess n f).shed d h = s.shed d h := rfl
@[simp] theorem State.dropAccess_shed (n : Nat) (d : Die) (h : ShedNo) : (s.dropAccess n).shed d h = s.shed d h := rfl
@[simp] theorem State.send_loom (p : Packet) (d : Die) (l : LoomNo) : (s.send p).loom d l = s.loom d l := rfl
@[simp] theorem State.dropPacket_loom (n : Nat) (d : Die) (l : LoomNo) : (s.dropPacket n).loom d l = s.loom d l := rfl
@[simp] theorem State.modAccess_loom (n : Nat) (f : Access → Access) (d : Die) (l : LoomNo) : (s.modAccess n f).loom d l = s.loom d l := rfl
@[simp] theorem State.dropAccess_loom (n : Nat) (d : Die) (l : LoomNo) : (s.dropAccess n).loom d l = s.loom d l := rfl
@[simp] theorem State.send_hart (p : Packet) (d : Die) (h : HartNo) : (s.send p).hart d h = s.hart d h := rfl
@[simp] theorem State.dropPacket_hart (n : Nat) (d : Die) (h : HartNo) : (s.dropPacket n).hart d h = s.hart d h := rfl
@[simp] theorem State.modAccess_hart (n : Nat) (f : Access → Access) (d : Die) (h : HartNo) : (s.modAccess n f).hart d h = s.hart d h := rfl
@[simp] theorem State.dropAccess_hart (n : Nat) (d : Die) (h : HartNo) : (s.dropAccess n).hart d h = s.hart d h := rfl
@[simp] theorem State.send_hq (p : Packet) (d : Die) (q : HqNo) : (s.send p).hq d q = s.hq d q := rfl
@[simp] theorem State.dropPacket_hq (n : Nat) (d : Die) (q : HqNo) : (s.dropPacket n).hq d q = s.hq d q := rfl
@[simp] theorem State.modAccess_hq (n : Nat) (f : Access → Access) (d : Die) (q : HqNo) : (s.modAccess n f).hq d q = s.hq d q := rfl
@[simp] theorem State.dropAccess_hq (n : Nat) (d : Die) (q : HqNo) : (s.dropAccess n).hq d q = s.hq d q := rfl

/-! Registers of a slot -/

@[simp] theorem SlotSt.g_zero (x : SlotSt) : x.g 0 = 0 := rfl
@[simp] theorem SlotSt.setG_zero (x : SlotSt) (v : Word) : x.setG 0 v = x := rfl
theorem SlotSt.g_setG_self (x : SlotSt) {r : Reg} (h : r ≠ 0) (v : Word) : (x.setG r v).g r = v := by
  rw [SlotSt.setG, if_neg h, SlotSt.g, if_neg h]
  exact tblGet_set_self ..
theorem SlotSt.g_setG_ne (x : SlotSt) {r q : Reg} (h : q ≠ r) (v : Word) : (x.setG r v).g q = x.g q := by
  by_cases hr : r = 0
  · rw [SlotSt.setG, if_pos hr]
  · have hq : q.toNat ≠ r.toNat := fun e => h (BitVec.eq_of_toNat_eq e)
    rw [SlotSt.setG, if_neg hr, SlotSt.g, SlotSt.g]
    simp only [tblGet_set_ne _ hq]
@[simp] theorem SlotSt.mw_setMw_self (x : SlotSt) (k : Nat) (v : Word) : (x.setMw k v).mw k = v := tblGet_set_self ..
theorem SlotSt.mw_setMw_ne (x : SlotSt) {k j : Nat} (h : j ≠ k) (v : Word) : (x.setMw k v).mw j = x.mw j :=
  tblGet_set_ne _ h ..
@[simp] theorem SlotSt.stream_setStream_self (x : SlotSt) (k : Nat) (q : StreamReg) : (x.setStream k q).stream k = q :=
  tblGet_set_self ..
theorem SlotSt.stream_setStream_ne (x : SlotSt) {k j : Nat} (h : j ≠ k) (q : StreamReg) :
    (x.setStream k q).stream j = x.stream j :=
  tblGet_set_ne _ h ..

@[simp] theorem SlotSt.setG_pc (x : SlotSt) (r : Reg) (v : Word) : (x.setG r v).pc = x.pc := by
  simp only [SlotSt.setG]; split <;> rfl
@[simp] theorem SlotSt.setG_state (x : SlotSt) (r : Reg) (v : Word) : (x.setG r v).state = x.state := by
  simp only [SlotSt.setG]; split <;> rfl
@[simp] theorem SlotSt.setG_await (x : SlotSt) (r : Reg) (v : Word) : (x.setG r v).await = x.await := by
  simp only [SlotSt.setG]; split <;> rfl
@[simp] theorem SlotSt.setG_since (x : SlotSt) (r : Reg) (v : Word) : (x.setG r v).since = x.since := by
  simp only [SlotSt.setG]; split <;> rfl
@[simp] theorem SlotSt.setG_lastIssue (x : SlotSt) (r : Reg) (v : Word) : (x.setG r v).lastIssue = x.lastIssue := by
  simp only [SlotSt.setG]; split <;> rfl
@[simp] theorem SlotSt.setG_fflags (x : SlotSt) (r : Reg) (v : Word) : (x.setG r v).fflags = x.fflags := by
  simp only [SlotSt.setG]; split <;> rfl
@[simp] theorem SlotSt.setG_frm (x : SlotSt) (r : Reg) (v : Word) : (x.setG r v).frm = x.frm := by
  simp only [SlotSt.setG]; split <;> rfl
@[simp] theorem SlotSt.setG_wlim (x : SlotSt) (r : Reg) (v : Word) : (x.setG r v).wlim = x.wlim := by
  simp only [SlotSt.setG]; split <;> rfl
@[simp] theorem SlotSt.setG_dom (x : SlotSt) (r : Reg) (v : Word) : (x.setG r v).dom = x.dom := by
  simp only [SlotSt.setG]; split <;> rfl
@[simp] theorem SlotSt.setG_jnl (x : SlotSt) (r : Reg) (v : Word) : (x.setG r v).jnl = x.jnl := by
  simp only [SlotSt.setG]; split <;> rfl
@[simp] theorem SlotSt.setG_pre (x : SlotSt) (r : Reg) (v : Word) : (x.setG r v).pre = x.pre := by
  simp only [SlotSt.setG]; split <;> rfl
@[simp] theorem SlotSt.setG_pin (x : SlotSt) (r : Reg) (v : Word) : (x.setG r v).pin = x.pin := by
  simp only [SlotSt.setG]; split <;> rfl
@[simp] theorem SlotSt.setG_inc (x : SlotSt) (r : Reg) (v : Word) : (x.setG r v).inc = x.inc := by
  simp only [SlotSt.setG]; split <;> rfl
@[simp] theorem SlotSt.setG_lfsr (x : SlotSt) (r : Reg) (v : Word) : (x.setG r v).lfsr = x.lfsr := by
  simp only [SlotSt.setG]; split <;> rfl
@[simp] theorem SlotSt.setG_win (x : SlotSt) (r : Reg) (v : Word) : (x.setG r v).win = x.win := by
  simp only [SlotSt.setG]; split <;> rfl
@[simp] theorem SlotSt.setG_mbBox (x : SlotSt) (r : Reg) (v : Word) : (x.setG r v).mbBox = x.mbBox := by
  simp only [SlotSt.setG]; split <;> rfl
@[simp] theorem SlotSt.setG_mbLen (x : SlotSt) (r : Reg) (v : Word) : (x.setG r v).mbLen = x.mbLen := by
  simp only [SlotSt.setG]; split <;> rfl
@[simp] theorem SlotSt.setG_lastBox (x : SlotSt) (r : Reg) (v : Word) : (x.setG r v).lastBox = x.lastBox := by
  simp only [SlotSt.setG]; split <;> rfl
@[simp] theorem SlotSt.setG_role (x : SlotSt) (r : Reg) (v : Word) : (x.setG r v).role = x.role := by
  simp only [SlotSt.setG]; split <;> rfl
@[simp] theorem SlotSt.setG_pinned (x : SlotSt) (r : Reg) (v : Word) : (x.setG r v).pinned = x.pinned := by
  simp only [SlotSt.setG]; split <;> rfl
@[simp] theorem SlotSt.setG_jcnt (x : SlotSt) (r : Reg) (v : Word) : (x.setG r v).jcnt = x.jcnt := by
  simp only [SlotSt.setG]; split <;> rfl
@[simp] theorem SlotSt.setG_join (x : SlotSt) (r : Reg) (v : Word) : (x.setG r v).join = x.join := by
  simp only [SlotSt.setG]; split <;> rfl
@[simp] theorem SlotSt.setG_exitTo (x : SlotSt) (r : Reg) (v : Word) : (x.setG r v).exitTo = x.exitTo := by
  simp only [SlotSt.setG]; split <;> rfl
@[simp] theorem SlotSt.setG_svstat (x : SlotSt) (r : Reg) (v : Word) : (x.setG r v).svstat = x.svstat := by
  simp only [SlotSt.setG]; split <;> rfl
@[simp] theorem SlotSt.setG_streams (x : SlotSt) (r : Reg) (v : Word) : (x.setG r v).streams = x.streams := by
  simp only [SlotSt.setG]; split <;> rfl
@[simp] theorem SlotSt.setG_log (x : SlotSt) (r : Reg) (v : Word) : (x.setG r v).log = x.log := by
  simp only [SlotSt.setG]; split <;> rfl
@[simp] theorem SlotSt.setG_fails (x : SlotSt) (r : Reg) (v : Word) : (x.setG r v).fails = x.fails := by
  simp only [SlotSt.setG]; split <;> rfl
@[simp] theorem SlotSt.setG_parkKey (x : SlotSt) (r : Reg) (v : Word) : (x.setG r v).parkKey = x.parkKey := by
  simp only [SlotSt.setG]; split <;> rfl
@[simp] theorem SlotSt.setG_parkDst (x : SlotSt) (r : Reg) (v : Word) : (x.setG r v).parkDst = x.parkDst := by
  simp only [SlotSt.setG]; split <;> rfl
@[simp] theorem SlotSt.setG_yielding (x : SlotSt) (r : Reg) (v : Word) : (x.setG r v).yielding = x.yielding := by
  simp only [SlotSt.setG]; split <;> rfl
@[simp] theorem SlotSt.setG_jrec (x : SlotSt) (r : Reg) (v : Word) : (x.setG r v).jrec = x.jrec := by
  simp only [SlotSt.setG]; split <;> rfl
@[simp] theorem SlotSt.setG_jord (x : SlotSt) (r : Reg) (v : Word) : (x.setG r v).jord = x.jord := by
  simp only [SlotSt.setG]; split <;> rfl
@[simp] theorem SlotSt.setG_jparent (x : SlotSt) (r : Reg) (v : Word) : (x.setG r v).jparent = x.jparent := by
  simp only [SlotSt.setG]; split <;> rfl
@[simp] theorem SlotSt.setG_jresult (x : SlotSt) (r : Reg) (v : Word) : (x.setG r v).jresult = x.jresult := by
  simp only [SlotSt.setG]; split <;> rfl
@[simp] theorem SlotSt.setMw_regs (x : SlotSt) (k : Nat) (v : Word) : (x.setMw k v).regs = x.regs := rfl
@[simp] theorem SlotSt.setMw_pc (x : SlotSt) (k : Nat) (v : Word) : (x.setMw k v).pc = x.pc := rfl
@[simp] theorem SlotSt.setMw_state (x : SlotSt) (k : Nat) (v : Word) : (x.setMw k v).state = x.state := rfl
@[simp] theorem SlotSt.setMw_await (x : SlotSt) (k : Nat) (v : Word) : (x.setMw k v).await = x.await := rfl
@[simp] theorem SlotSt.setMw_since (x : SlotSt) (k : Nat) (v : Word) : (x.setMw k v).since = x.since := rfl
@[simp] theorem SlotSt.setMw_lastIssue (x : SlotSt) (k : Nat) (v : Word) : (x.setMw k v).lastIssue = x.lastIssue := rfl
@[simp] theorem SlotSt.setMw_fflags (x : SlotSt) (k : Nat) (v : Word) : (x.setMw k v).fflags = x.fflags := rfl
@[simp] theorem SlotSt.setMw_frm (x : SlotSt) (k : Nat) (v : Word) : (x.setMw k v).frm = x.frm := rfl
@[simp] theorem SlotSt.setMw_wlim (x : SlotSt) (k : Nat) (v : Word) : (x.setMw k v).wlim = x.wlim := rfl
@[simp] theorem SlotSt.setMw_dom (x : SlotSt) (k : Nat) (v : Word) : (x.setMw k v).dom = x.dom := rfl
@[simp] theorem SlotSt.setMw_jnl (x : SlotSt) (k : Nat) (v : Word) : (x.setMw k v).jnl = x.jnl := rfl
@[simp] theorem SlotSt.setMw_pre (x : SlotSt) (k : Nat) (v : Word) : (x.setMw k v).pre = x.pre := rfl
@[simp] theorem SlotSt.setMw_pin (x : SlotSt) (k : Nat) (v : Word) : (x.setMw k v).pin = x.pin := rfl
@[simp] theorem SlotSt.setMw_inc (x : SlotSt) (k : Nat) (v : Word) : (x.setMw k v).inc = x.inc := rfl
@[simp] theorem SlotSt.setMw_lfsr (x : SlotSt) (k : Nat) (v : Word) : (x.setMw k v).lfsr = x.lfsr := rfl
@[simp] theorem SlotSt.setMw_mbBox (x : SlotSt) (k : Nat) (v : Word) : (x.setMw k v).mbBox = x.mbBox := rfl
@[simp] theorem SlotSt.setMw_mbLen (x : SlotSt) (k : Nat) (v : Word) : (x.setMw k v).mbLen = x.mbLen := rfl
@[simp] theorem SlotSt.setMw_lastBox (x : SlotSt) (k : Nat) (v : Word) : (x.setMw k v).lastBox = x.lastBox := rfl
@[simp] theorem SlotSt.setMw_role (x : SlotSt) (k : Nat) (v : Word) : (x.setMw k v).role = x.role := rfl
@[simp] theorem SlotSt.setMw_pinned (x : SlotSt) (k : Nat) (v : Word) : (x.setMw k v).pinned = x.pinned := rfl
@[simp] theorem SlotSt.setMw_jcnt (x : SlotSt) (k : Nat) (v : Word) : (x.setMw k v).jcnt = x.jcnt := rfl
@[simp] theorem SlotSt.setMw_join (x : SlotSt) (k : Nat) (v : Word) : (x.setMw k v).join = x.join := rfl
@[simp] theorem SlotSt.setMw_exitTo (x : SlotSt) (k : Nat) (v : Word) : (x.setMw k v).exitTo = x.exitTo := rfl
@[simp] theorem SlotSt.setMw_svstat (x : SlotSt) (k : Nat) (v : Word) : (x.setMw k v).svstat = x.svstat := rfl
@[simp] theorem SlotSt.setMw_streams (x : SlotSt) (k : Nat) (v : Word) : (x.setMw k v).streams = x.streams := rfl
@[simp] theorem SlotSt.setMw_log (x : SlotSt) (k : Nat) (v : Word) : (x.setMw k v).log = x.log := rfl
@[simp] theorem SlotSt.setMw_fails (x : SlotSt) (k : Nat) (v : Word) : (x.setMw k v).fails = x.fails := rfl
@[simp] theorem SlotSt.setMw_parkKey (x : SlotSt) (k : Nat) (v : Word) : (x.setMw k v).parkKey = x.parkKey := rfl
@[simp] theorem SlotSt.setMw_parkDst (x : SlotSt) (k : Nat) (v : Word) : (x.setMw k v).parkDst = x.parkDst := rfl
@[simp] theorem SlotSt.setMw_yielding (x : SlotSt) (k : Nat) (v : Word) : (x.setMw k v).yielding = x.yielding := rfl
@[simp] theorem SlotSt.setMw_jrec (x : SlotSt) (k : Nat) (v : Word) : (x.setMw k v).jrec = x.jrec := rfl
@[simp] theorem SlotSt.setMw_jord (x : SlotSt) (k : Nat) (v : Word) : (x.setMw k v).jord = x.jord := rfl
@[simp] theorem SlotSt.setMw_jparent (x : SlotSt) (k : Nat) (v : Word) : (x.setMw k v).jparent = x.jparent := rfl
@[simp] theorem SlotSt.setMw_jresult (x : SlotSt) (k : Nat) (v : Word) : (x.setMw k v).jresult = x.jresult := rfl
@[simp] theorem SlotSt.setStream_regs (x : SlotSt) (k : Nat) (q : StreamReg) : (x.setStream k q).regs = x.regs := rfl
@[simp] theorem SlotSt.setStream_pc (x : SlotSt) (k : Nat) (q : StreamReg) : (x.setStream k q).pc = x.pc := rfl
@[simp] theorem SlotSt.setStream_state (x : SlotSt) (k : Nat) (q : StreamReg) : (x.setStream k q).state = x.state := rfl
@[simp] theorem SlotSt.setStream_await (x : SlotSt) (k : Nat) (q : StreamReg) : (x.setStream k q).await = x.await := rfl
@[simp] theorem SlotSt.setStream_since (x : SlotSt) (k : Nat) (q : StreamReg) : (x.setStream k q).since = x.since := rfl
@[simp] theorem SlotSt.setStream_lastIssue (x : SlotSt) (k : Nat) (q : StreamReg) : (x.setStream k q).lastIssue = x.lastIssue := rfl
@[simp] theorem SlotSt.setStream_fflags (x : SlotSt) (k : Nat) (q : StreamReg) : (x.setStream k q).fflags = x.fflags := rfl
@[simp] theorem SlotSt.setStream_frm (x : SlotSt) (k : Nat) (q : StreamReg) : (x.setStream k q).frm = x.frm := rfl
@[simp] theorem SlotSt.setStream_wlim (x : SlotSt) (k : Nat) (q : StreamReg) : (x.setStream k q).wlim = x.wlim := rfl
@[simp] theorem SlotSt.setStream_dom (x : SlotSt) (k : Nat) (q : StreamReg) : (x.setStream k q).dom = x.dom := rfl
@[simp] theorem SlotSt.setStream_jnl (x : SlotSt) (k : Nat) (q : StreamReg) : (x.setStream k q).jnl = x.jnl := rfl
@[simp] theorem SlotSt.setStream_pre (x : SlotSt) (k : Nat) (q : StreamReg) : (x.setStream k q).pre = x.pre := rfl
@[simp] theorem SlotSt.setStream_pin (x : SlotSt) (k : Nat) (q : StreamReg) : (x.setStream k q).pin = x.pin := rfl
@[simp] theorem SlotSt.setStream_inc (x : SlotSt) (k : Nat) (q : StreamReg) : (x.setStream k q).inc = x.inc := rfl
@[simp] theorem SlotSt.setStream_lfsr (x : SlotSt) (k : Nat) (q : StreamReg) : (x.setStream k q).lfsr = x.lfsr := rfl
@[simp] theorem SlotSt.setStream_win (x : SlotSt) (k : Nat) (q : StreamReg) : (x.setStream k q).win = x.win := rfl
@[simp] theorem SlotSt.setStream_mbBox (x : SlotSt) (k : Nat) (q : StreamReg) : (x.setStream k q).mbBox = x.mbBox := rfl
@[simp] theorem SlotSt.setStream_mbLen (x : SlotSt) (k : Nat) (q : StreamReg) : (x.setStream k q).mbLen = x.mbLen := rfl
@[simp] theorem SlotSt.setStream_lastBox (x : SlotSt) (k : Nat) (q : StreamReg) : (x.setStream k q).lastBox = x.lastBox := rfl
@[simp] theorem SlotSt.setStream_role (x : SlotSt) (k : Nat) (q : StreamReg) : (x.setStream k q).role = x.role := rfl
@[simp] theorem SlotSt.setStream_pinned (x : SlotSt) (k : Nat) (q : StreamReg) : (x.setStream k q).pinned = x.pinned := rfl
@[simp] theorem SlotSt.setStream_jcnt (x : SlotSt) (k : Nat) (q : StreamReg) : (x.setStream k q).jcnt = x.jcnt := rfl
@[simp] theorem SlotSt.setStream_join (x : SlotSt) (k : Nat) (q : StreamReg) : (x.setStream k q).join = x.join := rfl
@[simp] theorem SlotSt.setStream_exitTo (x : SlotSt) (k : Nat) (q : StreamReg) : (x.setStream k q).exitTo = x.exitTo := rfl
@[simp] theorem SlotSt.setStream_svstat (x : SlotSt) (k : Nat) (q : StreamReg) : (x.setStream k q).svstat = x.svstat := rfl
@[simp] theorem SlotSt.setStream_log (x : SlotSt) (k : Nat) (q : StreamReg) : (x.setStream k q).log = x.log := rfl
@[simp] theorem SlotSt.setStream_fails (x : SlotSt) (k : Nat) (q : StreamReg) : (x.setStream k q).fails = x.fails := rfl
@[simp] theorem SlotSt.setStream_parkKey (x : SlotSt) (k : Nat) (q : StreamReg) : (x.setStream k q).parkKey = x.parkKey := rfl
@[simp] theorem SlotSt.setStream_parkDst (x : SlotSt) (k : Nat) (q : StreamReg) : (x.setStream k q).parkDst = x.parkDst := rfl
@[simp] theorem SlotSt.setStream_yielding (x : SlotSt) (k : Nat) (q : StreamReg) : (x.setStream k q).yielding = x.yielding := rfl
@[simp] theorem SlotSt.setStream_jrec (x : SlotSt) (k : Nat) (q : StreamReg) : (x.setStream k q).jrec = x.jrec := rfl
@[simp] theorem SlotSt.setStream_jord (x : SlotSt) (k : Nat) (q : StreamReg) : (x.setStream k q).jord = x.jord := rfl
@[simp] theorem SlotSt.setStream_jparent (x : SlotSt) (k : Nat) (q : StreamReg) : (x.setStream k q).jparent = x.jparent := rfl
@[simp] theorem SlotSt.setStream_jresult (x : SlotSt) (k : Nat) (q : StreamReg) : (x.setStream k q).jresult = x.jresult := rfl

end Sys2Proof.Machine
end

