-- ==== Sys2Proof/Laws/Operands.lean ====
section
/-!
SUPPORT. Laws of the operand forms and of issue: what reading, issuing, finishing and waiting do to the state.
-/

namespace Sys2Proof.Machine

variable (s : State)

/-! Entering a state -/

theorem State.enter_slot (i : SlotId) (st : SlotState) (aw : Await) :
    (s.enter i st aw).slot i =
      { s.slot i with
        state := st, await := aw
        since := if (s.slot i).state = st then (s.slot i).since else s.coreClock i.die i.core
        limit := if (s.slot i).state = st then (s.slot i).limit else (s.slot i).wlim } := by
  simp [State.enter]

theorem State.enter_ne {i j : SlotId} (h : j ≠ i) (st : SlotState) (aw : Await) :
    (s.enter i st aw).slot j = s.slot j := by
  rw [State.enter, State.modSlot_ne s h]

theorem State.enter_only (i : SlotId) (st : SlotState) (aw : Await) :
    { s.enter i st aw with slots := s.slots } = s := rfl

/-- WAIT-DATA changes only the slot's state, what it waits for and since when. -/
theorem State.waitData_slot (i : SlotId) :
    (s.waitData i).slot i =
      { s.slot i with
        state := .waitData, await := .retry
        since := if (s.slot i).state = .waitData then (s.slot i).since else s.coreClock i.die i.core
        limit := if (s.slot i).state = .waitData then (s.slot i).limit else (s.slot i).wlim } :=
  s.enter_slot i _ _

/-- A completed instruction: the PC is at the next word, and the slot is READY. -/
theorem State.advance_slot :
    s.advance.slot s.cur =
      { s.slot s.cur with
        pc := (s.slot s.cur).pc + 4, state := .ready, await := .retry
        since := if (s.slot s.cur).state = .ready then (s.slot s.cur).since else s.coreClock s.cur.die s.cur.core
        limit := if (s.slot s.cur).state = .ready then (s.slot s.cur).limit else (s.slot s.cur).wlim } := by
  simp [State.advance, State.wake, State.enter_slot]
  rfl

theorem State.advance_ne {j : SlotId} (h : j ≠ s.cur) : s.advance.slot j = s.slot j := by
  rw [State.advance, State.wake, State.enter_ne _ h, State.modSlot_ne _ h]

theorem State.advance_only : { s.advance with slots := s.slots } = s := rfl

/-! Results -/

@[simp] theorem State.writeReg_zero (i : SlotId) (v : Word) : s.writeReg i 0 v = s.modSlot i fun x => x := rfl

theorem State.writeReg_general (i : SlotId) {r : Reg} (h : r < 32) (v : Word) :
    s.writeReg i r v = s.modSlot i fun x => x.setG r v := by
  rw [State.writeReg, if_pos h]

theorem State.writeReg_ne {i j : SlotId} (h : j ≠ i) (r : Reg) (v : Word) : (s.writeReg i r v).slot j = s.slot j := by
  simp only [State.writeReg]
  split
  · exact State.modSlot_ne s h _
  · split
    · split <;> simp
    · split
      · exact State.modSlot_ne s h _
      · rfl

theorem State.writeReg_mem (i : SlotId) (r : Reg) (v : Word) : (s.writeReg i r v).mem = s.mem := by
  simp only [State.writeReg]
  split
  · simp
  · split
    · split <;> simp
    · split <;> simp

@[simp] theorem State.writeReg_cur (i : SlotId) (r : Reg) (v : Word) : (s.writeReg i r v).cur = s.cur := by
  simp only [State.writeReg]
  split
  · simp
  · split
    · split <;> simp
    · split <;> simp

/-! Operands -/

theorem State.readReg_plain {i : SlotId} {r : Reg} (hn : isNet r = false) (hs : isStream r = false) :
    s.readReg i r = .val (s.reg i r) s := by
  simp [State.readReg, hn, hs]

theorem readOperands_plain (i : SlotId) (k : List Word → State → Act) (rs : List Reg) (vs : List Word)
    (h : ∀ r ∈ rs, isNet r = false ∧ isStream r = false) :
    readOperands i rs vs s k = k (vs ++ rs.map (s.reg i)) s := by
  induction rs generalizing vs with
  | nil => simp [readOperands]
  | cons r rs ih =>
    have hr := h r List.mem_cons_self
    rw [readOperands, s.readReg_plain hr.1 hr.2]
    simp only
    rw [ih _ fun q hq => h q (List.mem_cons_of_mem _ hq)]
    simp

theorem dstReady_plain (ds : List Reg) (h : ∀ r ∈ ds, isNet r = false) : dstReady s ds = none := by
  induction ds with
  | nil => rfl
  | cons d ds ih =>
    rw [dstReady, h d List.mem_cons_self]
    simpa using ih fun r hr => h r (List.mem_cons_of_mem _ hr)

/-- Issue with operands that consume nothing and destinations that take their result at once: the effect is that of the
instruction on the values of its sources. -/
theorem State.issue_plain {srcs dsts : List Reg} (h : s.plain srcs dsts = true) (k : List Word → State → Act) :
    s.issue srcs dsts k = s.perform (k (srcs.map (s.reg s.cur)) s) := by
  simp only [State.plain, Bool.and_eq_true, List.all_eq_true, Bool.not_eq_true'] at h
  obtain ⟨⟨hh, hs⟩, hd⟩ := h
  simp only [State.issue, hh, Bool.false_eq_true, ↓reduceIte]
  rw [dstReady_plain s dsts hd]
  simp only
  rw [readOperands_plain s s.cur k srcs [] fun r hr => hs r hr]
  rfl

theorem State.issue1_plain {d a : Reg} (h : s.plain [a] [d] = true) (f : Word → Word) :
    s.issue1 d a f = .next (s.finish d (f (s.reg s.cur a))) := by
  rw [State.issue1, s.issue_plain h]; rfl

theorem State.issue2_plain {d a b : Reg} (h : s.plain [a, b] [d] = true) (f : Word → Word → Word) :
    s.issue2 d a b f = .next (s.finish d (f (s.reg s.cur a) (s.reg s.cur b))) := by
  rw [State.issue2, s.issue_plain h]; rfl

/-- While an operand or the destination awaits a result, the slot waits and nothing else happens (07 R202). -/
theorem State.issue_hazard {srcs dsts : List Reg} (h : s.hazard srcs dsts = true) (k : List Word → State → Act) :
    s.issue srcs dsts k = .next (s.waitData s.cur) := by
  simp [State.issue, h, State.perform]

/-! Traps -/

/-- A user slot's trap: the slot is TRAPPED at the resume PC (14 R370). -/
theorem State.takeTrap_slot {i : SlotId} (hu : isPriv i = false) (hp : s.trapWaits i = false) (cause sub : Byte)
    (pc : Word) (word : Inst) (val aux : Word) :
    ((s.takeTrap i cause sub pc word val aux).slot i).state = .trapped
      ∧ ((s.takeTrap i cause sub pc word val aux).slot i).pc = pc := by
  have h15 : (⟨i.die, i.core, 15⟩ : SlotId) ≠ i := by
    intro e
    rw [isPriv, ← e] at hu
    simp at hu
  simp only [State.takeTrap, State.pushTrap, hu, hp, Bool.false_eq_true, ↓reduceIte, State.wakeSupervisor]
  split
  · rw [State.wakeNext, State.wake, State.enter_ne _ h15.symm, State.modSlot_ne _ h15.symm]
    simp [State.enter_slot]
  · simp [State.enter_slot]

end Sys2Proof.Machine
end

