-- ==== Sys2Proof/Laws/Memory.lean ====
section
/-!
SUPPORT. Laws of memory: what a byte reads as after a write, and that every memory operation keeps the canonical form.
-/

namespace Sys2Proof.Machine

/-! Bytes -/

theorem writeRaw_outside (pa : Nat) (bs : List Byte) (m : Tbl Byte) (a : Nat) (h : a < pa ∨ pa + bs.length ≤ a) :
    tblGet unlistedByte a (writeRaw pa bs m) = tblGet unlistedByte a m := by
  induction bs generalizing pa m with
  | nil => rfl
  | cons b bs ih =>
    have hne : a ≠ pa := by simp only [List.length_cons] at h; omega
    rw [writeRaw, ih _ _ (by simp only [List.length_cons] at h; omega), tblGet_set_ne _ hne]

theorem writeRaw_inside (pa : Nat) (bs : List Byte) (m : Tbl Byte) (k : Nat) (h : k < bs.length) :
    tblGet unlistedByte (pa + k) (writeRaw pa bs m) = bs[k] := by
  induction bs generalizing pa m k with
  | nil => simp at h
  | cons b bs ih =>
    cases k with
    | zero => rw [writeRaw, writeRaw_outside _ _ _ _ (.inl (by omega))]; simp
    | succ k =>
      have hk : k < bs.length := by simpa using h
      rw [writeRaw, show pa + (k + 1) = pa + 1 + k by omega, ih _ _ _ hk]
      simp

/-! The canonical form -/

theorem writeRaw_wf (pa : Nat) (bs : List Byte) {m : Tbl Byte} (h : Memory.wf m = true) :
    Memory.wf (writeRaw pa bs m) = true := by
  induction bs generalizing pa m with
  | nil => exact h
  | cons b bs ih => exact ih _ (tblWf_set _ _ _ h)

variable {s : State}

theorem State.writeSector_wf (k : KeySlot) (base off : Nat) (bs : List Byte) (h : s.MemoryOk) :
    (s.writeSector k base off bs).MemoryOk := by
  simp only [State.MemoryOk, State.writeSector]
  exact writeRaw_wf _ _ h

theorem State.writeBytes_wf (key : Byte) (pa : Nat) (bs : List Byte) (h : s.MemoryOk) :
    (s.writeBytes key pa bs).MemoryOk := by
  simp only [State.writeBytes]
  split
  · simp only [State.MemoryOk]
    exact writeRaw_wf _ _ h
  · split
    · exact State.writeSector_wf _ _ _ _ h
    · exact State.writeSector_wf _ _ _ _ (State.writeSector_wf _ _ _ _ h)

theorem State.writeHome_wf (key : Byte) (pa n : Nat) (v : Word) (h : s.MemoryOk) : (s.writeHome key pa n v).MemoryOk :=
  State.writeBytes_wf _ _ _ h

theorem State.dropLine_mem (d : Die) (c : CoreNo) (pa : Nat) : (s.dropLine d c pa).mem = s.mem := by
  simp only [State.dropLine]
  split <;> simp

/-- The completion of a slot's access stores nothing. -/
theorem State.completeSlot_mem (i : SlotId) (inc : Byte) (a : Access) (v : Word) (ok : Bool) :
    (s.completeSlot i inc a v ok).mem = s.mem := by
  simp only [State.completeSlot]
  split
  · simp
  · simp only [State.dropAccess_mem]
    repeat' split
    all_goals simp [State.wake, State.enter, State.dropL1d, State.writeReg_mem]

/-- The completion of a waiter stores nothing. -/
theorem State.completeWaiter_mem (w : WaitEntry) (v : Word) : (s.completeWaiter w v).mem = s.mem := by
  simp only [State.completeWaiter]
  repeat' split
  all_goals simp [State.completeSlot_mem, State.dropLine_mem]

theorem State.count_mem (d : Die) (u : LogUnit) (n : Byte) : (s.count d u n).mem = s.mem := by
  simp only [State.count, State.modLog]
  split <;> simp

theorem State.noteTake_mem (pa : Nat) (who : Agent) : (s.noteTake pa who).mem = s.mem := by
  simp only [State.noteTake]
  split
  · rfl
  · rw [State.count_mem]
    rfl

/-- Each operation of a scan keeps the canonical form (04 R119). -/
theorem State.scanOne_wf (key : Byte) (w : WaitEntry) (h : s.MemoryOk) : (s.scanOne key w).MemoryOk := by
  have hn : (s.noteHost w.access w.pa).MemoryOk := by
    simp only [State.noteHost]
    split <;> exact h
  simp only [State.MemoryOk, State.scanOne]
  repeat' split
  all_goals
    rw [State.completeWaiter_mem]
    first
    | exact hn
    | (rw [State.noteTake_mem]; exact hn)
    | exact State.writeHome_wf _ _ _ _ hn

theorem scanPass_wf (key : Byte) (ws : List WaitEntry) {s : State} (p : Bool) (h : s.MemoryOk) :
    (scanPass key ws s p).1.MemoryOk := by
  induction ws generalizing s p with
  | nil => exact h
  | cons w ws ih =>
    rw [scanPass]
    split
    · exact ih _ (State.scanOne_wf key w h)
    · exact ih _ h

theorem scanLoop_wf (key : Byte) (pa n : Nat) {s : State} (h : s.MemoryOk) : (scanLoop key pa n s).MemoryOk := by
  induction n generalizing s with
  | zero => exact h
  | succ n ih =>
    simp only [scanLoop]
    split
    · exact ih (scanPass_wf key _ _ h)
    · exact scanPass_wf key _ _ h

theorem State.scanWaiters_wf (key : Byte) (pa : Nat) (h : s.MemoryOk) : (s.scanWaiters key pa).MemoryOk :=
  scanLoop_wf key pa _ h

theorem State.plainWrite_wf (key : Byte) (pa n : Nat) (v : Word) (h : s.MemoryOk) :
    (s.plainWrite key pa n v).MemoryOk := by
  simp only [State.plainWrite, State.cleanDouble]
  repeat' split
  · exact State.scanWaiters_wf key pa (State.writeHome_wf key pa n v h)
  · exact State.writeHome_wf key pa n v h
  · exact State.writeHome_wf key pa n v h

theorem State.fillDouble_wf (key : Byte) (pa : Nat) (v : Word) (h : s.MemoryOk) : (s.fillDouble key pa v).MemoryOk :=
  State.scanWaiters_wf key pa (State.writeHome_wf key pa 8 v h)

theorem State.reset_memoryOk : State.reset.MemoryOk := rfl

/-! What else a write touches: nothing -/

theorem State.writeSector_eq (k : KeySlot) (base off : Nat) (bs : List Byte) (m : Tbl Byte) :
    { s.writeSector k base off bs with mem := m } = { s with mem := m } := by
  simp only [State.writeSector]

theorem State.writeBytes_eq (key : Byte) (pa : Nat) (bs : List Byte) :
    { s.writeBytes key pa bs with mem := s.mem } = s := by
  simp only [State.writeBytes]
  split
  · rfl
  · split
    · rw [State.writeSector_eq]
    · rw [State.writeSector_eq, State.writeSector_eq]

/-- Under a bypass key the stored bytes are the plain ones (04 R141). -/
theorem State.writeBytes_bypass (key : Byte) (pa : Nat) (bs : List Byte) (h : (s.keySlot key pa).xts = false) :
    s.writeBytes key pa bs = { s with mem := writeRaw pa bs s.mem } := by
  simp [State.writeBytes, h]

/-- Outside HBM every key slot is a bypass slot (04 R140). -/
theorem State.keySlot_outside (key : Byte) (pa : Nat) (h : paSpace pa ≠ 0) : (s.keySlot key pa).xts = false := by
  simp [State.keySlot, h]

/-! Walks (R137) that use no cached entry -/

/-- A walk that finds a pointer to a table goes on at the level below. -/
theorem walkFrom_table (s : State) (d : Die) (c : CtxReg) (va : Nat) (need : Need) (via : Option CoreNo) (level table ptr : Nat) (pte : Word)
    (got : List WalkEntry) (ha : table + 8 * (va / 2 ^ (12 + 9 * level) % 512) = ptr) (hb : s.badPa d ptr via = none)
    (hu : s.unitsReady d ptr = true) (hp : s.isPoisoned ptr = false) (hr : s.readHome c.tkey ptr 8 = pte)
    (hv : pte.getLsbD 0 = true) (hc : reservedCase pte (level + 1) = none) (hl : pte.getLsbD 1 = false) :
    walkFrom s d c va need true via (level + 1) table got = walkFrom s d c va need true via level (ptePa pte)
      (if 3 ≤ level + 1 then ⟨c.asid, level + 1, va / 2 ^ (12 + 9 * level), pte⟩ :: got else got) := by
  simp only [walkFrom, ha]
  generalize (s.die d).walks.find? (fun e => e.asid == c.asid && e.level == level + 1
    && e.tag == va / 2 ^ (12 + 9 * level)) = cached
  cases cached <;> simp only [hb, hu, hp, Option.isNone_none, Option.getD_none, hr, hv, hc, hl, Bool.not_true,
    Bool.false_and, Bool.and_false, Bool.false_eq_true, if_false]

/-- A walk that finds a leaf granting the access ends there. -/
theorem walkFrom_leaf (s : State) (d : Die) (c : CtxReg) (va : Nat) (need : Need) (via : Option CoreNo) (level table ptr : Nat) (pte : Word)
    (got : List WalkEntry) (ha : table + 8 * (va / 2 ^ (12 + 9 * level) % 512) = ptr) (hb : s.badPa d ptr via = none)
    (hu : s.unitsReady d ptr = true) (hp : s.isPoisoned ptr = false) (hr : s.readHome c.tkey ptr 8 = pte)
    (hv : pte.getLsbD 0 = true) (hc : reservedCase pte (level + 1) = none) (hl : pte.getLsbD 1 = true)
    (hf : leafFault pte need = none) :
    walkFrom s d c va need true via (level + 1) table got = .ok (pte, level + 1, ptr, got) := by
  simp only [walkFrom, ha]
  generalize (s.die d).walks.find? (fun e => e.asid == c.asid && e.level == level + 1
    && e.tag == va / 2 ^ (12 + 9 * level)) = cached
  cases cached <;> simp only [hb, hu, hp, Option.isNone_none, Option.getD_none, hr, hv, hc, hl, hf, Bool.not_true,
    Bool.false_and, Bool.and_false, Bool.false_eq_true, if_false, if_true]

/-- A translation that uses no cached entry sets the bits of the leaf it finds, and caches it (R137 to R139). -/
theorem translate_of_walk (s : State) (d : Die) (ctx : BitVec 12) (tlb : List TlbEntry) (va : Nat) (need : Need) (via : Option CoreNo) (c : CtxReg)
    (leaf : Word) (level ptr : Nat) (got : List WalkEntry) (hx : tblGet {} ctx.toNat (s.die d).ctxs = c) (hen : c.en = true)
    (hw : walkFrom s d c va need true via 5 (c.root.toNat * 4096) [] = .ok (leaf, level, ptr, got)) :
    let group := leaf.getLsbD 8 && Config.formsGroup s.tick
    let set := leaf ||| 0x40 ||| (if storeClass need then 0x80 else 0)
    let e := formTlb c va set level ptr group
    s.translate d ctx tlb va need true via
      = (.ok (e.pa va) (set.extractLsb' 12 8) ((s.setLeafAD c.tkey ptr group (storeClass need)).modDie d fun x =>
          { x with walks := got ++ x.walks.filter fun e => !got.contains e }),
        e :: (tlb.filter fun e => !e.covers c.asid va).filter fun t => !t.covers c.asid va) := by
  simp only [State.translate, hx, hen, if_true, Bool.not_true, Bool.false_eq_true, if_false, hw, Bool.false_and]
  split <;> rfl

end Sys2Proof.Machine
end

