-- ==== Sys2Proof/Laws/Nodes.lean ====
section
/-!
SUPPORT. The turn of a graph node: what it does where the node has its turn and its behaviour fires.
-/

namespace Sys2Proof.Machine

/-- A node that has its turn and whose behaviour fires does that firing. -/
theorem fire_of_turn {s : State} {t u : Target} {v : View} {b : View → Option Fired} {f : Fired} (h : s.NodeTurn t u v)
    (hb : b v = some f) : s.fire t u b = State.apply v f := by
  obtain ⟨h1, h2, h3, hv, h4, h5⟩ := h
  have hvt : v.t = t := by rw [hv]; rfl
  have hvu : v.u = u := by rw [hv]; rfl
  simp only [State.fire, h1, h2]
  simp only [← hv, h3, hb, Fired.hasRoom, hvt, hvu, h4, h5]
  simp

/-- A node that has its turn and whose behaviour does not fire has no effect. -/
theorem fire_idle {s : State} {t u : Target} {v : View} {b : View → Option Fired} (h : s.NodeTurn t u v) (hb : b v = none) :
    s.fire t u b = s := by
  obtain ⟨h1, h2, h3, hv, h4, h5⟩ := h
  simp only [State.fire, h1, h2]
  simp only [← hv, h3, hb]
  simp

/-- The targets of a view are those of the node's word. -/
theorem turn_targets {s : State} {t u : Target} {v : View} (h : s.NodeTurn t u v) : v.t = t ∧ v.u = u := by
  obtain ⟨-, -, -, rfl, -⟩ := h
  exact ⟨rfl, rfl⟩

end Sys2Proof.Machine
end

