-- ==== Sys2Proof/Laws/PerInstr.lean ====
section
/-!
SUPPORT. What holds of every instruction as syntax, one lemma for each.
-/

namespace Sys2Proof.Laws.OneForm

/-- An instruction has the fields of one layout at most (06 R186): a thread instruction has no graph form of its own, a
graph-only one no thread form, and an event neither. -/
def Statement (i : Instr) : Prop := threadFields i = none ∨ graphFields i = none

theorem add (a b c d) : Statement (.add a b c d) := .inr rfl
theorem sub (a b c d) : Statement (.sub a b c d) := .inr rfl
theorem and (a b c d) : Statement (.and a b c d) := .inr rfl
theorem or (a b c d) : Statement (.or a b c d) := .inr rfl
theorem xor (a b c d) : Statement (.xor a b c d) := .inr rfl
theorem andn (a b c d) : Statement (.andn a b c d) := .inr rfl
theorem orn (a b c d) : Statement (.orn a b c d) := .inr rfl
theorem xnor (a b c d) : Statement (.xnor a b c d) := .inr rfl
theorem shl (a b c d) : Statement (.shl a b c d) := .inr rfl
theorem shr (a b c d) : Statement (.shr a b c d) := .inr rfl
theorem sra (a b c d) : Statement (.sra a b c d) := .inr rfl
theorem rol (a b c d) : Statement (.rol a b c d) := .inr rfl
theorem ror (a b c d) : Statement (.ror a b c d) := .inr rfl
theorem slt (a b c d) : Statement (.slt a b c d) := .inr rfl
theorem sltu (a b c d) : Statement (.sltu a b c d) := .inr rfl
theorem min (a b c d) : Statement (.min a b c d) := .inr rfl
theorem max (a b c d) : Statement (.max a b c d) := .inr rfl
theorem minu (a b c d) : Statement (.minu a b c d) := .inr rfl
theorem maxu (a b c d) : Statement (.maxu a b c d) := .inr rfl
theorem mul (a b c d) : Statement (.mul a b c d) := .inr rfl
theorem mulh (a b c) : Statement (.mulh a b c) := .inr rfl
theorem mulhu (a b c) : Statement (.mulhu a b c) := .inr rfl
theorem mulhsu (a b c) : Statement (.mulhsu a b c) := .inr rfl
theorem div (a b c d) : Statement (.div a b c d) := .inr rfl
theorem divu (a b c d) : Statement (.divu a b c d) := .inr rfl
theorem rem (a b c d) : Statement (.rem a b c d) := .inr rfl
theorem remu (a b c d) : Statement (.remu a b c d) := .inr rfl
theorem clz (a b c) : Statement (.clz a b c) := .inr rfl
theorem ctz (a b c) : Statement (.ctz a b c) := .inr rfl
theorem popc (a b c) : Statement (.popc a b c) := .inr rfl
theorem brev (a b c) : Statement (.brev a b c) := .inr rfl
theorem bswap (a b c) : Statement (.bswap a b c) := .inr rfl
theorem sextb (a b) : Statement (.sextb a b) := .inr rfl
theorem sexth (a b) : Statement (.sexth a b) := .inr rfl
theorem sextw (a b) : Statement (.sextw a b) := .inr rfl
theorem zextw (a b) : Statement (.zextw a b) := .inr rfl
theorem addi (a b c) : Statement (.addi a b c) := .inr rfl
theorem andi (a b c) : Statement (.andi a b c) := .inr rfl
theorem ori (a b c) : Statement (.ori a b c) := .inr rfl
theorem xori (a b c) : Statement (.xori a b c) := .inr rfl
theorem shli (a b c d) : Statement (.shli a b c d) := .inr rfl
theorem shri (a b c d) : Statement (.shri a b c d) := .inr rfl
theorem srai (a b c d) : Statement (.srai a b c d) := .inr rfl
theorem roli (a b c d) : Statement (.roli a b c d) := .inr rfl
theorem rori (a b c d) : Statement (.rori a b c d) := .inr rfl
theorem slti (a b c) : Statement (.slti a b c) := .inr rfl
theorem sltiu (a b c) : Statement (.sltiu a b c) := .inr rfl
theorem lui (a b) : Statement (.lui a b) := .inr rfl
theorem auipc (a b) : Statement (.auipc a b) := .inr rfl
theorem addx (a b c d) : Statement (.addx a b c d) := .inr rfl
theorem subx (a b c d) : Statement (.subx a b c d) := .inr rfl
theorem mulx (a b c d) : Statement (.mulx a b c d) := .inr rfl
theorem cselNz (a b c d) : Statement (.cselNz a b c d) := .inr rfl
theorem cselZ (a b c d) : Statement (.cselZ a b c d) := .inr rfl
theorem fadd (a b c d) : Statement (.fadd a b c d) := .inr rfl
theorem fsub (a b c d) : Statement (.fsub a b c d) := .inr rfl
theorem fmul (a b c d) : Statement (.fmul a b c d) := .inr rfl
theorem fdiv (a b c d) : Statement (.fdiv a b c d) := .inr rfl
theorem fmin (a b c d) : Statement (.fmin a b c d) := .inr rfl
theorem fmax (a b c d) : Statement (.fmax a b c d) := .inr rfl
theorem fsqrt (a b c) : Statement (.fsqrt a b c) := .inr rfl
theorem fma (a b c d) : Statement (.fma a b c d) := .inr rfl
theorem fms (a b c d) : Statement (.fms a b c d) := .inr rfl
theorem fnma (a b c d) : Statement (.fnma a b c d) := .inr rfl
theorem fnms (a b c d) : Statement (.fnms a b c d) := .inr rfl
theorem feq (a b c d) : Statement (.feq a b c d) := .inr rfl
theorem flt (a b c d) : Statement (.flt a b c d) := .inr rfl
theorem fle (a b c d) : Statement (.fle a b c d) := .inr rfl
theorem funord (a b c d) : Statement (.funord a b c d) := .inr rfl
theorem fcvt (a b c d) : Statement (.fcvt a b c d) := .inr rfl
theorem fclass (a b c) : Statement (.fclass a b c) := .inr rfl
theorem icvtToInt (a b c d) : Statement (.icvtToInt a b c d) := .inr rfl
theorem icvtFromInt (a b c) : Statement (.icvtFromInt a b c) := .inr rfl
theorem exp2 (a b c) : Statement (.exp2 a b c) := .inr rfl
theorem log2 (a b c) : Statement (.log2 a b c) := .inr rfl
theorem rcp (a b c) : Statement (.rcp a b c) := .inr rfl
theorem rsq (a b c) : Statement (.rsq a b c) := .inr rfl
theorem sin (a b c) : Statement (.sin a b c) := .inr rfl
theorem cos (a b c) : Statement (.cos a b c) := .inr rfl
theorem tanh (a b c) : Statement (.tanh a b c) := .inr rfl
theorem ldB (a b c) : Statement (.ldB a b c) := .inr rfl
theorem ldH (a b c) : Statement (.ldH a b c) := .inr rfl
theorem ldW (a b c) : Statement (.ldW a b c) := .inr rfl
theorem ldD (a b c) : Statement (.ldD a b c) := .inr rfl
theorem ldBu (a b c) : Statement (.ldBu a b c) := .inr rfl
theorem ldHu (a b c) : Statement (.ldHu a b c) := .inr rfl
theorem ldWu (a b c) : Statement (.ldWu a b c) := .inr rfl
theorem stB (a b c) : Statement (.stB a b c) := .inr rfl
theorem stH (a b c) : Statement (.stH a b c) := .inr rfl
theorem stW (a b c) : Statement (.stW a b c) := .inr rfl
theorem stD (a b c) : Statement (.stD a b c) := .inr rfl
theorem lde (a b c) : Statement (.lde a b c) := .inr rfl
theorem take (a b c) : Statement (.take a b c) := .inr rfl
theorem put (a b c) : Statement (.put a b c) := .inr rfl
theorem fill (a b c) : Statement (.fill a b c) := .inr rfl
theorem purge (a) : Statement (.purge a) := .inr rfl
theorem festat (a b) : Statement (.festat a b) := .inr rfl
theorem waitf (a b) : Statement (.waitf a b) := .inr rfl
theorem trytake (a b c d) : Statement (.trytake a b c d) := .inr rfl
theorem amoSwap (a b c d) : Statement (.amoSwap a b c d) := .inr rfl
theorem amoAdd (a b c d) : Statement (.amoAdd a b c d) := .inr rfl
theorem amoAnd (a b c d) : Statement (.amoAnd a b c d) := .inr rfl
theorem amoOr (a b c d) : Statement (.amoOr a b c d) := .inr rfl
theorem amoXor (a b c d) : Statement (.amoXor a b c d) := .inr rfl
theorem amoMin (a b c d) : Statement (.amoMin a b c d) := .inr rfl
theorem amoMax (a b c d) : Statement (.amoMax a b c d) := .inr rfl
theorem amoMaxu (a b c d) : Statement (.amoMaxu a b c d) := .inr rfl
theorem amoSwapScoped (a b c d e) : Statement (.amoSwapScoped a b c d e) := .inr rfl
theorem amoAddScoped (a b c d e) : Statement (.amoAddScoped a b c d e) := .inr rfl
theorem amoAndScoped (a b c d e) : Statement (.amoAndScoped a b c d e) := .inr rfl
theorem amoOrScoped (a b c d e) : Statement (.amoOrScoped a b c d e) := .inr rfl
theorem amoXorScoped (a b c d e) : Statement (.amoXorScoped a b c d e) := .inr rfl
theorem amoMinScoped (a b c d e) : Statement (.amoMinScoped a b c d e) := .inr rfl
theorem amoMaxScoped (a b c d e) : Statement (.amoMaxScoped a b c d e) := .inr rfl
theorem amoMaxuScoped (a b c d e) : Statement (.amoMaxuScoped a b c d e) := .inr rfl
theorem cas (a b c d e) : Statement (.cas a b c d e) := .inr rfl
theorem fenceFull (a) : Statement (.fenceFull a) := .inr rfl
theorem fenceAcq (a) : Statement (.fenceAcq a) := .inr rfl
theorem fenceRel (a) : Statement (.fenceRel a) := .inr rfl
theorem fenceSyncwin (a b c) : Statement (.fenceSyncwin a b c) := .inr rfl
theorem fenceIfence (a) : Statement (.fenceIfence a) := .inr rfl
theorem beq (a b c) : Statement (.beq a b c) := .inr rfl
theorem bne (a b c) : Statement (.bne a b c) := .inr rfl
theorem blt (a b c) : Statement (.blt a b c) := .inr rfl
theorem bge (a b c) : Statement (.bge a b c) := .inr rfl
theorem bltu (a b c) : Statement (.bltu a b c) := .inr rfl
theorem bgeu (a b c) : Statement (.bgeu a b c) := .inr rfl
theorem jal (a b) : Statement (.jal a b) := .inr rfl
theorem jalr (a b c) : Statement (.jalr a b c) := .inr rfl
theorem bnzd (a b) : Statement (.bnzd a b) := .inr rfl
theorem send (a b c d) : Statement (.send a b c d) := .inr rfl
theorem sendm (a b c d) : Statement (.sendm a b c d) := .inr rfl
theorem recv (a b) : Statement (.recv a b) := .inr rfl
theorem tryrecv (a b) : Statement (.tryrecv a b) := .inr rfl
theorem peek (a b) : Statement (.peek a b) := .inr rfl
theorem waitmsg (a) : Statement (.waitmsg a) := .inr rfl
theorem spawn (a b c) : Statement (.spawn a b c) := .inr rfl
theorem fork (a b c) : Statement (.fork a b c) := .inr rfl
theorem self (a) : Statement (.self a) := .inr rfl
theorem joinwait (a b) : Statement (.joinwait a b) := .inr rfl
theorem arriveRlx (a b) : Statement (.arriveRlx a b) := .inr rfl
theorem arriveRel (a b c) : Statement (.arriveRel a b c) := .inr rfl
theorem waitph (a b c) : Statement (.waitph a b c) := .inr rfl
theorem arrwait (a b c) : Statement (.arrwait a b c) := .inr rfl
theorem solicit (a b c d e) : Statement (.solicit a b c d e) := .inr rfl
theorem cwait (a b) : Statement (.cwait a b) := .inr rfl
theorem cpoll (a b) : Statement (.cpoll a b) := .inr rfl
theorem cresult (a b) : Statement (.cresult a b) := .inr rfl
theorem diradd (a b c) : Statement (.diradd a b c) := .inr rfl
theorem dirdel (a b) : Statement (.dirdel a b) := .inr rfl
theorem dirmove (a b c) : Statement (.dirmove a b c) := .inr rfl
theorem dirfind (a b) : Statement (.dirfind a b) := .inr rfl
theorem trset (a) : Statement (.trset a) := .inr rfl
theorem trclr (a) : Statement (.trclr a) := .inr rfl
theorem tren (a b) : Statement (.tren a b) := .inr rfl
theorem mxld (a b) : Statement (.mxld a b) := .inr rfl
theorem mxmul (a b c d) : Statement (.mxmul a b c d) := .inr rfl
theorem reply (a) : Statement (.reply a) := .inr rfl
theorem lease (a b c d e) : Statement (.lease a b c d e) := .inr rfl
theorem release (a) : Statement (.release a) := .inr rfl
theorem loadcfg (a b) : Statement (.loadcfg a b) := .inr rfl
theorem loadcfgForce (a b) : Statement (.loadcfgForce a b) := .inr rfl
theorem sbind (a b) : Statement (.sbind a b) := .inr rfl
theorem sgo (a) : Statement (.sgo a) := .inr rfl
theorem sbar (a) : Statement (.sbar a) := .inr rfl
theorem drain (a) : Statement (.drain a) := .inr rfl
theorem ckpt (a) : Statement (.ckpt a) := .inr rfl
theorem resume (a) : Statement (.resume a) := .inr rfl
theorem trig (a b) : Statement (.trig a b) := .inr rfl
theorem tq (a b) : Statement (.tq a b) := .inr rfl
theorem vcfg (a) : Statement (.vcfg a) := .inr rfl
theorem vrun (a b c) : Statement (.vrun a b c) := .inr rfl
theorem vseq (a b) : Statement (.vseq a b) := .inr rfl
theorem vlds (a b) : Statement (.vlds a b) := .inr rfl
theorem vsts (a b) : Statement (.vsts a b) := .inr rfl
theorem vredSum (a b c) : Statement (.vredSum a b c) := .inr rfl
theorem vredMin (a b c) : Statement (.vredMin a b c) := .inr rfl
theorem vredMax (a b c) : Statement (.vredMax a b c) := .inr rfl
theorem baddq (a b c d) : Statement (.baddq a b c d) := .inr rfl
theorem qtw (a b c d) : Statement (.qtw a b c d) := .inr rfl
theorem dqtw (a b c d) : Statement (.dqtw a b c d) := .inr rfl
theorem cparm (a b) : Statement (.cparm a b) := .inr rfl
theorem cpdisarm (a) : Statement (.cpdisarm a) := .inr rfl
theorem hqpush (a b) : Statement (.hqpush a b) := .inr rfl
theorem sysr (a b) : Statement (.sysr a b) := .inr rfl
theorem sysw (a b) : Statement (.sysw a b) := .inr rfl
theorem trap (a) : Statement (.trap a) := .inr rfl
theorem eret (a) : Statement (.eret a) := .inr rfl
theorem wfi (a) : Statement (.wfi a) := .inr rfl
theorem spill (a b) : Statement (.spill a b) := .inr rfl
theorem fillslot (a b) : Statement (.fillslot a b) := .inr rfl
theorem slotregR (a b c) : Statement (.slotregR a b c) := .inr rfl
theorem slotregW (a b c) : Statement (.slotregW a b c) := .inr rfl
theorem tlbinvAsid (a) : Statement (.tlbinvAsid a) := .inr rfl
theorem tlbinvPage (a b) : Statement (.tlbinvPage a b) := .inr rfl
theorem draftget (a b c) : Statement (.draftget a b c) := .inr rfl
theorem draftpin (a) : Statement (.draftpin a) := .inr rfl
theorem draftunpin (a) : Statement (.draftunpin a) := .inr rfl
theorem heddleRep (a b c) : Statement (.heddleRep a b c) := .inr rfl
theorem heddleRet (a b c) : Statement (.heddleRet a b c) := .inr rfl
theorem heddlePub (a b c) : Statement (.heddlePub a b c) := .inr rfl
theorem heddleSw (a) : Statement (.heddleSw a) := .inr rfl
theorem heddleRd (a b) : Statement (.heddleRd a b) := .inr rfl
theorem route (a b c) : Statement (.route a b c) := .inr rfl
theorem routeEsc (a b c) : Statement (.routeEsc a b c) := .inr rfl
theorem steerT (a b) : Statement (.steerT a b) := .inl rfl
theorem steerF (a b) : Statement (.steerF a b) := .inl rfl
theorem mergeP (a b) : Statement (.mergeP a b) := .inl rfl
theorem mergeA (a b) : Statement (.mergeA a b) := .inl rfl
theorem carry (a b c) : Statement (.carry a b c) := .inl rfl
theorem inv (a b) : Statement (.inv a b) := .inl rfl
theorem const (a b c) : Statement (.const a b c) := .inl rfl
theorem constC (a b c) : Statement (.constC a b c) := .inl rfl
theorem gate (a b) : Statement (.gate a b) := .inl rfl
theorem rowctlStrip (a b) : Statement (.rowctlStrip a b) := .inl rfl
theorem rowctlSplit (a b) : Statement (.rowctlSplit a b) := .inl rfl
theorem rowctlEor (a b) : Statement (.rowctlEor a b) := .inl rfl
theorem rowctlEog (a b) : Statement (.rowctlEog a b) := .inl rfl
theorem rowctlEos (a b) : Statement (.rowctlEos a b) := .inl rfl
theorem widen (a b c) : Statement (.widen a b c) := .inl rfl
theorem mma (a b c d e) : Statement (.mma a b c d e) := .inl rfl
theorem bload (a b c d) : Statement (.bload a b c d) := .inl rfl
theorem accRd (a b c) : Statement (.accRd a b c) := .inl rfl
theorem accRdclr (a b c) : Statement (.accRdclr a b c) := .inl rfl
theorem accClr (a b c) : Statement (.accClr a b c) := .inl rfl
theorem rmax (a b c d) : Statement (.rmax a b c d) := .inl rfl
theorem escOrd (a b c) : Statement (.escOrd a b c) := .inl rfl
theorem escUnord (a b c) : Statement (.escUnord a b c) := .inl rfl
theorem delay (a b c) : Statement (.delay a b c) := .inl rfl
theorem race (a b c) : Statement (.race a b c) := .inl rfl
theorem frame (a b c) : Statement (.frame a b c) := .inl rfl
theorem unframe (a b c) : Statement (.unframe a b c) := .inl rfl
theorem upd (a b c) : Statement (.upd a b c) := .inl rfl
theorem cntD (a b) : Statement (.cntD a b) := .inl rfl
theorem cntR (a b) : Statement (.cntR a b) := .inl rfl
theorem lredSum (a b c) : Statement (.lredSum a b c) := .inl rfl
theorem lredMax (a b c) : Statement (.lredMax a b c) := .inl rfl
theorem lredMin (a b c) : Statement (.lredMin a b c) := .inl rfl
theorem scale (a b) : Statement (.scale a b) := .inl rfl
theorem explk (a b c) : Statement (.explk a b c) := .inl rfl
theorem elementwiseNode (a b c) : Statement (.elementwiseNode a b c) := .inl rfl
theorem graphLoadNode (a b c) : Statement (.graphLoadNode a b c) := .inl rfl
theorem graphStoreNode (a b c) : Statement (.graphStoreNode a b c) := .inl rfl
theorem graphFeNode (a b c d) : Statement (.graphFeNode a b c d) := .inl rfl
theorem ill : Statement .ill := .inr rfl
theorem join : Statement .join := .inr rfl
theorem exit : Statement .exit := .inr rfl
theorem yield : Statement .yield := .inr rfl
theorem tlbinv : Statement .tlbinv := .inr rfl
theorem halt : Statement .halt := .inr rfl
theorem moduleReset : Statement .moduleReset := .inl rfl
theorem perst : Statement .perst := .inl rfl
theorem imageVerify : Statement .imageVerify := .inl rfl
theorem identityDerive : Statement .identityDerive := .inl rfl
theorem selfTest : Statement .selfTest := .inl rfl
theorem hbmTrainingDone : Statement .hbmTrainingDone := .inl rfl
theorem linkTrainingDone : Statement .linkTrainingDone := .inl rfl
theorem probeWindowEnd : Statement .probeWindowEnd := .inl rfl
theorem launchRingsReady : Statement .launchRingsReady := .inl rfl
theorem hostDirectWrite : Statement .hostDirectWrite := .inl rfl
theorem hostDirectRead : Statement .hostDirectRead := .inl rfl
theorem fillAliasWrite : Statement .fillAliasWrite := .inl rfl
theorem fillAliasRead : Statement .fillAliasRead := .inl rfl
theorem bar0Access : Statement .bar0Access := .inl rfl
theorem launchCompletion : Statement .launchCompletion := .inl rfl
theorem powerDutyUpdate : Statement .powerDutyUpdate := .inl rfl
theorem dequePop : Statement .dequePop := .inl rfl
theorem steal : Statement .steal := .inl rfl
theorem migrationCheck : Statement .migrationCheck := .inl rfl
theorem slotPacket : Statement .slotPacket := .inl rfl
theorem migrationAnswer : Statement .migrationAnswer := .inl rfl
theorem spawnRequest : Statement .spawnRequest := .inl rfl
theorem spawnAnswer : Statement .spawnAnswer := .inl rfl
theorem joinNotice : Statement .joinNotice := .inl rfl
theorem messageArrival : Statement .messageArrival := .inl rfl
theorem messageReturn : Statement .messageReturn := .inl rfl
theorem heldMessageReoffer : Statement .heldMessageReoffer := .inl rfl
theorem treadleEvaluate : Statement .treadleEvaluate := .inl rfl
theorem remoteFeCompletion : Statement .remoteFeCompletion := .inl rfl
theorem waitLimitExpiry : Statement .waitLimitExpiry := .inl rfl
theorem waitCancelAnswer : Statement .waitCancelAnswer := .inl rfl
theorem pollingParkRetry : Statement .pollingParkRetry := .inl rfl
theorem accessResult : Statement .accessResult := .inl rfl
theorem pageWalk : Statement .pageWalk := .inl rfl
theorem sfuGrant : Statement .sfuGrant := .inl rfl
theorem sfuResult : Statement .sfuResult := .inl rfl
theorem vectorComplete : Statement .vectorComplete := .inl rfl
theorem mxProductComplete : Statement .mxProductComplete := .inl rfl
theorem leaseGrant : Statement .leaseGrant := .inl rfl
theorem resumeGrant : Statement .resumeGrant := .inl rfl
theorem configurationLoad : Statement .configurationLoad := .inl rfl
theorem drainComplete : Statement .drainComplete := .inl rfl
theorem checkpointWritten : Statement .checkpointWritten := .inl rfl
theorem fixedRateStep : Statement .fixedRateStep := .inl rfl
theorem freePortPass : Statement .freePortPass := .inl rfl
theorem channelTokenArrival : Statement .channelTokenArrival := .inl rfl
theorem creditReturn : Statement .creditReturn := .inl rfl
theorem triggerFire : Statement .triggerFire := .inl rfl
theorem triggerHeldPush : Statement .triggerHeldPush := .inl rfl
theorem sbindPerform : Statement .sbindPerform := .inl rfl
theorem sgoPerform : Statement .sgoPerform := .inl rfl
theorem sbarPerform : Statement .sbarPerform := .inl rfl
theorem trigPerform : Statement .trigPerform := .inl rfl
theorem tqPerform : Statement .tqPerform := .inl rfl
theorem streamElement : Statement .streamElement := .inl rfl
theorem windowWritebackDone : Statement .windowWritebackDone := .inl rfl
theorem fcbMissFill : Statement .fcbMissFill := .inl rfl
theorem passIssue : Statement .passIssue := .inl rfl
theorem passComplete : Statement .passComplete := .inl rfl
theorem escapeStart : Statement .escapeStart := .inl rfl
theorem escReplyArrival : Statement .escReplyArrival := .inl rfl
theorem contextFillComplete : Statement .contextFillComplete := .inl rfl
theorem delayEmit : Statement .delayEmit := .inl rfl
theorem frameTimerExpiry : Statement .frameTimerExpiry := .inl rfl
theorem frameSend : Statement .frameSend := .inl rfl
theorem frameArrival : Statement .frameArrival := .inl rfl
theorem frameCreditReturn : Statement .frameCreditReturn := .inl rfl
theorem bhkick : Statement .bhkick := .inl rfl
theorem kickHeldPerform : Statement .kickHeldPerform := .inl rfl
theorem copyStart : Statement .copyStart := .inl rfl
theorem copyElement : Statement .copyElement := .inl rfl
theorem hqTokenFire : Statement .hqTokenFire := .inl rfl
theorem heddleWindowEnd : Statement .heddleWindowEnd := .inl rfl
theorem loadVectorBroadcast : Statement .loadVectorBroadcast := .inl rfl
theorem pubArrival : Statement .pubArrival := .inl rfl
theorem pubAcksComplete : Statement .pubAcksComplete := .inl rfl
theorem switchArrival : Statement .switchArrival := .inl rfl
theorem switchAcksComplete : Statement .switchAcksComplete := .inl rfl
theorem drainedReport : Statement .drainedReport := .inl rfl
theorem retireBroadcast : Statement .retireBroadcast := .inl rfl
theorem hdcurWrite : Statement .hdcurWrite := .inl rfl
theorem hdstatClear : Statement .hdstatClear := .inl rfl
theorem solicitArrival : Statement .solicitArrival := .inl rfl
theorem responderStart : Statement .responderStart := .inl rfl
theorem censusComplete : Statement .censusComplete := .inl rfl
theorem moveArrival : Statement .moveArrival := .inl rfl
theorem ackArrival : Statement .ackArrival := .inl rfl
theorem refuseArrival : Statement .refuseArrival := .inl rfl
theorem forwardArrival : Statement .forwardArrival := .inl rfl
theorem remoteArrival : Statement .remoteArrival := .inl rfl
theorem rdctlWrite : Statement .rdctlWrite := .inl rfl
theorem rdnextRead : Statement .rdnextRead := .inl rfl
theorem rdfinWrite : Statement .rdfinWrite := .inl rfl
theorem xkctlGo : Statement .xkctlGo := .inl rfl
theorem keyLoadComplete : Statement .keyLoadComplete := .inl rfl
theorem xfresumeRetry : Statement .xfresumeRetry := .inl rfl
theorem xfresumeFail : Statement .xfresumeFail := .inl rfl
theorem tqstatPop : Statement .tqstatPop := .inl rfl
theorem elogclr : Statement .elogclr := .inl rfl
theorem errsumClear : Statement .errsumClear := .inl rfl
theorem sfflagsClear : Statement .sfflagsClear := .inl rfl
theorem sxfaultClear : Statement .sxfaultClear := .inl rfl
theorem sffaultClear : Statement .sffaultClear := .inl rfl
theorem retreq : Statement .retreq := .inl rfl
theorem registerWrite : Statement .registerWrite := .inl rfl
theorem eccCorrectable : Statement .eccCorrectable := .inl rfl
theorem eccUncorrectable : Statement .eccUncorrectable := .inl rfl
theorem coresusp : Statement .coresusp := .inl rfl
theorem coreret : Statement .coreret := .inl rfl
theorem coreFail : Statement .coreFail := .inl rfl
theorem coreHeartbeatLoss : Statement .coreHeartbeatLoss := .inl rfl
theorem bankFail : Statement .bankFail := .inl rfl
theorem shedfail : Statement .shedfail := .inl rfl
theorem journalPerform : Statement .journalPerform := .inl rfl
theorem linkretry : Statement .linkretry := .inl rfl
theorem linkRetrain : Statement .linkRetrain := .inl rfl
theorem linkdown : Statement .linkdown := .inl rfl
theorem spanningTreeRebuild : Statement .spanningTreeRebuild := .inl rfl
theorem generationAdvance : Statement .generationAdvance := .inl rfl
theorem flitArrival : Statement .flitArrival := .inl rfl
theorem dieHeartbeatLoss : Statement .dieHeartbeatLoss := .inl rfl
theorem networkWordArrival : Statement .networkWordArrival := .inl rfl
theorem homeBankOperation : Statement .homeBankOperation := .inl rfl
theorem memoryNodeCompletion : Statement .memoryNodeCompletion := .inl rfl
theorem linkRetrained : Statement .linkRetrained := .inl rfl
theorem mxldComplete : Statement .mxldComplete := .inl rfl
theorem messageAcceptance : Statement .messageAcceptance := .inl rfl

end Sys2Proof.Laws.OneForm
end

