-- ==== Sys2Proof/Laws/Records.lean ====
section
/-!
SUPPORT. Operand records: what an instruction that reads or stores a record finds, as a function without the instruction's
continuation, and that a record so found meets the conditions of Safety.
-/

namespace Sys2Proof.Machine

/-- What reading doubles finds; none where the instruction waits, traps or fails. -/
def doublesFound (i : SlotId) (need : Need) (va : Word) : List Nat → List Word → State → Option (List Word × State)
  | [], ws, s => some (ws, s.unhold i.die (.operand i))
  | n :: ns, ws, s =>
    let a := va + BitVec.ofNat 64 (8 * n)
    match s.addressFault i a 0, s.reach i a need false (s.heldRetries i.die (.operand i)) with
    | none, .ok pa key s =>
      if s.mustWait i (.load .d) a pa || s.isPoisoned pa then none
      else doublesFound i need va ns (ws ++ [s.ownDouble i key pa]) (s.dropLine i.die i.core pa)
    | _, _ => none

theorem readDoubles_of_found (i : SlotId) (need : Need) (va : Word) (ns : List Nat) (ws : List Word) (s : State)
    (ws' : List Word) (t : State) (h : doublesFound i need va ns ws s = some (ws', t))
    (k : List Word → State → Act) : readDoubles i need va ns ws s k = k ws' t := by
  induction ns generalizing ws s with
  | nil =>
    simp only [doublesFound, Option.some.injEq, Prod.mk.injEq] at h
    simp only [readDoubles, h.1, h.2]
  | cons n ns ih =>
    simp only [doublesFound] at h
    simp only [readDoubles]
    split at h
    · rename_i pa key u hf hr
      split at h
      · exact absurd h (by simp)
      · rename_i hw
        simp only [Bool.or_eq_true, not_or, Bool.not_eq_true] at hw
        rw [hf, hr]
        simp only [hw.1, hw.2, Bool.false_eq_true, if_false]
        exact ih _ _ h
    · exact absurd h (by simp)

theorem readsRecord_of_found (s : State) (va : Word) (log2 n : Nat) (ws : List Word) (t : State)
    (ha : s.addressFault s.cur va log2 = none) (h : doublesFound s.cur needR va (List.range n) [] s = some (ws, t)) :
    s.ReadsRecord va log2 n ws t := by
  intro k
  simp only [State.withRecord, ha]
  exact readDoubles_of_found _ _ _ _ _ _ _ _ h k

theorem readsBytes_of_found (s : State) (va : Word) (n : Nat) (ws : List Word) (t : State)
    (h : doublesFound s.cur needR (va - BitVec.ofNat 64 (va.toNat % 8)) (List.range ((va.toNat % 8 + n + 7) / 8)) [] s
      = some (ws, t)) :
    s.ReadsBytes va n (((ws.flatMap (bytesOfWord 8)).drop (va.toNat % 8)).take n) t := by
  intro k
  simp only [State.withBytes]
  exact readDoubles_of_found _ _ _ _ _ _ _ _ h _

/-- What storing parts leads to; none where the instruction waits, traps or fails. -/
def partsStored (i : SlotId) (va : Word) : List (Nat × Nat × Word) → State → Option State
  | [], s => some (s.unhold i.die (.operand i))
  | (off, n, w) :: ps, s =>
    let a := va + BitVec.ofNat 64 off
    match s.addressFault i a 0, s.reach i a needW false (s.heldRetries i.die (.operand i)) with
    | none, .ok pa key s =>
      if s.mustWait i (.store .d) a pa then none else partsStored i va ps (s.ownStore i a key pa n w)
    | _, _ => none

theorem writeParts_of_stored (i : SlotId) (va : Word) (ps : List (Nat × Nat × Word)) (s t : State)
    (h : partsStored i va ps s = some t) (k : State → Act) : writeParts i va ps s k = k t := by
  induction ps generalizing s with
  | nil =>
    simp only [partsStored, Option.some.injEq] at h
    simp only [writeParts, h]
  | cons p ps ih =>
    obtain ⟨off, n, w⟩ := p
    simp only [partsStored] at h
    simp only [writeParts]
    split at h
    · rename_i pa key u hf hr
      split at h
      · exact absurd h (by simp)
      · rename_i hw
        simp only [Bool.not_eq_true] at hw
        rw [hf, hr]
        simp only [hw, Bool.false_eq_true, if_false]
        exact ih _ h
    · exact absurd h (by simp)

theorem storesParts_of_stored (s : State) (va : Word) (ps : List (Nat × Nat × Word)) (t : State)
    (hj : s.journaled = false) (h : partsStored s.cur va ps s = some t) : s.StoresParts va ps t := by
  intro k
  simp only [State.storeParts, hj, Bool.false_and, Bool.false_eq_true, if_false]
  exact writeParts_of_stored _ _ _ _ _ h k

theorem storesRecord_of_stored (s : State) (va : Word) (log2 : Nat) (ws : List Word) (t : State)
    (ha : s.addressFault s.cur va log2 = none) (hj : s.journaled = false)
    (h : partsStored s.cur va (ws.zipIdx.map fun p => (8 * p.2, 8, p.1)) s = some t) : s.StoresRecord va log2 ws t := by
  intro k
  simp only [State.storeRecord, ha]
  exact storesParts_of_stored s va _ t hj h k

/-- A feeder that reaches every double of a record with nothing changed reads the record with nothing changed. -/
theorem boardRead_of_steady (d : Die) (h : ShedNo) (fresh : Bool) (va : Word) (s : State) (key : Byte) (pa : Nat → Nat)
    (ns : List Nat) (ws : List Word)
    (hr : ∀ n ∈ ns, s.feederReach d h (va + BitVec.ofNat 64 (8 * n)) needR false fresh = .ok (pa n) key s)
    (hp : ∀ n ∈ ns, s.isPoisoned (pa n) = false) :
    boardRead d h fresh va ns ws s = .ok (ws ++ ns.map fun n => s.readHome key (pa n) 8, s) := by
  induction ns generalizing ws with
  | nil => simp only [boardRead, List.map_nil, List.append_nil]
  | cons n ns ih =>
    simp only [boardRead, hr n (List.mem_cons_self ..), hp n (List.mem_cons_self ..), Bool.false_eq_true, if_false]
    rw [ih _ (fun m hm => hr m (List.mem_cons_of_mem _ hm)) (fun m hm => hp m (List.mem_cons_of_mem _ hm))]
    simp only [List.map_cons, List.append_assoc, List.singleton_append]

/-- The record that a feeder so reads; nothing of it is held any longer. -/
theorem boardRecord_of_steady (s : State) (d : Die) (h : ShedNo) (p : Nat) (va : Word) (n : Nat) (key : Byte) (pa : Nat → Nat)
    (hw : s.heldWaits d (.descriptor d h p) = false) (hq : s.feederBusy d h (.descriptor d h p) = false)
    (hf : s.heldFails d (.descriptor d h p) = false)
    (hr : ∀ m ∈ List.range n, s.feederReach d h (va + BitVec.ofNat 64 (8 * m)) needR false
      (s.heldRetries d (.descriptor d h p)) = .ok (pa m) key s)
    (hp : ∀ m ∈ List.range n, s.isPoisoned (pa m) = false) :
    s.boardRecord d h p va n
      = .ok (some ((List.range n).map fun m => s.readHome key (pa m) 8), s.unhold d (.descriptor d h p)) := by
  simp only [State.boardRecord, hw, hq, hf, Bool.or_self, Bool.false_eq_true, if_false,
    boardRead_of_steady _ _ _ _ _ _ _ _ _ hr hp, List.nil_append]

/-- A feeder that reaches every double it writes, none of them bound, with nothing changed finds where all of them go. -/
theorem feederFind_of_steady (d : Die) (h : ShedNo) (fresh : Bool) (s : State) (key : Byte) (pa : Nat → Nat)
    (l : List (Nat × List Byte)) (acc : List (Nat × Nat × Byte × List Byte))
    (hr : ∀ e ∈ l, s.feederReach d h (BitVec.ofNat 64 e.1) needW false fresh = .ok (pa e.1) key s)
    (hb : ∀ e ∈ l, (s.shed d h).banked e.1 (pa e.1) = false) :
    feederFind d h fresh l acc s = .ok (acc ++ l.map fun e => (e.1, pa e.1, key, e.2), s) := by
  induction l generalizing acc with
  | nil => simp only [feederFind, List.map_nil, List.append_nil]
  | cons e l ih =>
    simp only [feederFind, hr e (List.mem_cons_self ..), hb e (List.mem_cons_self ..), Bool.false_and, Bool.false_eq_true,
      if_false]
    rw [ih _ (fun m hm => hr m (List.mem_cons_of_mem _ hm)) (fun m hm => hb m (List.mem_cons_of_mem _ hm))]
    simp only [List.map_cons, List.append_assoc, List.singleton_append]

/-- A write that is not bound and covers no poisoned double leaves everything but memory as it is. -/
theorem feederWrite_frame (s : State) (d : Die) (h : ShedNo) (va pa : Nat) (key : Byte) (bs : List Byte)
    (hb : (s.shed d h).banked va pa = false) (hp : ∀ k, s.isPoisoned (pa + k) = false) :
    ∃ u, s.feederWrite d h va pa key bs = some u ∧ { u with mem := s.mem } = s := by
  simp only [State.feederWrite, hb, Bool.false_eq_true, if_false, Option.some.injEq, exists_eq_left']
  have hw := State.writeBytes_eq (s := s) key pa bs
  have hp' : ∀ k, (s.writeBytes key pa bs).isPoisoned (pa + k) = false := by
    intro k
    have h5 := congrArg State.poison hw
    simpa only [State.isPoisoned, ← h5] using hp k
  have h : ∀ (l : List Nat) (t : State), (∀ k, t.isPoisoned (pa + k) = false) →
      l.foldl (fun s k => s.cleanDouble key (pa + k)) t = t := by
    intro l t ht
    induction l with
    | nil => rfl
    | cons k l ih => rw [List.foldl_cons, State.cleanDouble, ht k]; exact ih
  rw [h _ _ hp']
  exact hw

/-- Writes none of which is bound, while no double is poisoned, leave everything but memory as it is. -/
theorem feederWrites_frame (d : Die) (h : ShedNo) (l : List (Nat × Nat × Byte × List Byte)) (s : State)
    (hb : ∀ q ∈ l, (s.shed d h).banked q.1 q.2.1 = false) (hp : ∀ pa, s.isPoisoned pa = false) :
    { l.foldl (fun t q => (t.feederWrite d h q.1 q.2.1 q.2.2.1 q.2.2.2).getD t) s with mem := s.mem } = s := by
  induction l generalizing s with
  | nil => rfl
  | cons q l ih =>
    obtain ⟨u, hu, hs⟩ := feederWrite_frame s d h q.1 q.2.1 q.2.2.1 q.2.2.2 (hb q (List.mem_cons_self ..)) fun _ => hp _
    have h1 := congrArg State.sheds hs
    have h2 := congrArg State.poison hs
    dsimp only at h1 h2
    rw [List.foldl_cons, hu, Option.getD_some]
    have := ih u (fun r hr => by simpa only [State.shed, h1] using hb r (List.mem_cons_of_mem _ hr))
      fun pa => by simpa only [State.isPoisoned, h2] using hp pa
    exact (congrArg (fun t : State => { t with mem := s.mem }) this).trans hs

/-! Configuration records -/

/-- A configuration record whose header and entries have been read, as its reader gets it. -/
theorem withConfig_of_read (s : State) (va : Word) (n m : Nat) (ws es : List Word) (t u v : State) (rs : List ShedRec)
    (h1 : s.ReadsRecord va 6 8 ws t) (hb : headerBad ws n = false) (hm : ((ws.getD 0 0).extractLsb' 0 10).toNat = m)
    (h2 : t.ReadsRecord (va + 0x40) 6 (32 * m) es u)
    (h3 : ∀ k, readBlocks ((List.range m).map fun i => (es.drop (32 * i)).take 32) [] u k = k rs v)
    (k : ConfigRec → State → Act) :
    s.withConfig va n k
      = k ⟨2 ^ ((ws.getD 0 0).extractLsb' 10 2).toNat, (ws.getD 1 0).extractLsb' 0 32, false, rs⟩ v := by
  refine (h1 _).trans ?_
  simp only [hb, Bool.false_eq_true, if_false, hm]
  exact (h2 _).trans (h3 _)

theorem withConfig_of_bad (s : State) (va : Word) (n : Nat) (ws : List Word) (t : State) (h1 : s.ReadsRecord va 6 8 ws t)
    (hb : headerBad ws n = true) (k : ConfigRec → State → Act) :
    s.withConfig va n k
      = k ⟨2 ^ ((ws.getD 0 0).extractLsb' 10 2).toNat, (ws.getD 1 0).extractLsb' 0 32, true, []⟩ t := by
  refine (h1 _).trans ?_
  simp only [hb, if_true]

/-- An entry whose block is not aligned has no header. -/
theorem readBlocks_of_odd (e : List Word) (es : List (List Word)) (acc : List ShedRec) (t : State)
    (k : List ShedRec → State → Act) (h : (e.getD 0 0).toNat % 4 ≠ 0) :
    readBlocks (e :: es) acc t k = readBlocks es (acc ++ [shedRec e]) t k := by
  simp only [readBlocks, bne_iff_ne, ne_eq, h, not_false_eq_true, if_true]

/-- An entry with a graph block. -/
theorem readBlocks_of_block (e : List Word) (es : List (List Word)) (acc : List ShedRec) (t u v : State) (bs cs : List Byte)
    (g : Header) (k : List ShedRec → State → Act) (h : (e.getD 0 0).toNat % 4 = 0)
    (h1 : t.ReadsBytes (e.getD 0 0) 4 bs u) (hg : decodeHeader ((wordOfBytes bs).extractLsb' 0 32) = some g)
    (hk : g.kind = .graph) (h2 : u.ReadsBytes (e.getD 0 0 + 4) (blockBytes (e.getD 0 0) g) cs v) :
    readBlocks (e :: es) acc t k
      = readBlocks es (acc ++ [{ shedRec e with head := some ((wordOfBytes bs).extractLsb' 0 32) }.withBlock g cs]) v k := by
  have hk' : (g.kind == BlockKind.graph) = true := by rw [hk]; rfl
  simp only [readBlocks, h, bne_self_eq_false, Bool.false_eq_true, if_false]
  refine (h1 _).trans ?_
  simp only [hg, hk', if_true]
  exact h2 _

end Sys2Proof.Machine
end

