-- ==== Sys2Proof/Tests/Slice0.lean ====
section
/-!
SUPPORT. Tests: ill-formed terms, words of the manual, steps on small states, and for the claims states that meet their
hypotheses.
-/

open Sys2Proof Sys2Proof.Machine

namespace Sys2Proof.Tests

set_option maxRecDepth 40000

/-! Helpers -/

/-- The first user slot. -/
def user : SlotId := ⟨0, 0, 0⟩

/-- A user thread with values in g1 to g4: 6, 7, all ones and the least signed double. -/
def thread0 : SlotSt :=
  ((({ state := .ready, pc := 0x1000, inc := 1 } : SlotSt).setG 1 6).setG 2 7).setG 3 (-1) |>.setG 4 (1#64 <<< 63)

/-- Reset with every unit of die 0 ready, and a user thread that executes. -/
def w0 : State :=
  { (State.reset.setSlot user thread0).modDie 0 fun x => { x with boot := { x.boot with ready := BitVec.allOnes 27 } } with
    cur := user }

/-- w0 with a value in g1. -/
def w1 (v : Word) : State := w0.modSlot user fun x => x.setG 1 v

/-- The state that an outcome holds meets a condition. -/
def leads (r : Result) (p : State → Bool) : Bool :=
  match r with
  | .next t => p t
  | .fault _ => false
  | .refused _ => false

/-- An access of the user thread at its home, to a double of core 0's scratchpad. -/
def acc0 (op : MemOp) : Access :=
  { id := 5, agent := .slot user 1, op, scope := .s, acq := false, rel := false, va := 0x40, ctx := 0, phys := false,
    priv := false, pc := 0x1000, pa := paOf 0 1 0x40, stage := .home, dst := 3, data := 0x1122334455667788 }

/-- w0 with that access, about to be performed. -/
def wHome (op : MemOp) : State := { w0 with accs := [acc0 op], nextId := 6, ev := { id := 5 } }

/-- A state in which an event acts. -/
def evAt (s : State) (e : EvArg) : State := { s with ev := e }

/-- The state that an outcome holds. -/
def after (r : Result) : State :=
  match r with
  | .next t => t
  | .fault _ => w0
  | .refused _ => w0

/-! A word for every other instruction, from its encoding in Tables 6-1, 6-12 and 6-13: rd, rs1, rs2, rs3 are 5, 6, 7, 8 -/

/-- R204 to R212: integer arithmetic. -/
theorem words_alu : ([(0x023c5030, .add true 5 6 7), (0x023c5031, .sub true 5 6 7), (0x023c5032, .and true 5 6 7),
    (0x023c5033, .or true 5 6 7), (0x023c5034, .xor true 5 6 7), (0x023c5035, .andn true 5 6 7),
    (0x023c5036, .orn true 5 6 7), (0x023c5037, .xnor true 5 6 7), (0x023c5230, .shl true 5 6 7),
    (0x023c5231, .shr true 5 6 7), (0x023c5232, .sra true 5 6 7), (0x023c5233, .rol true 5 6 7),
    (0x023c5234, .ror true 5 6 7), (0x023c5235, .slt true 5 6 7), (0x023c5236, .sltu true 5 6 7),
    (0x023c5237, .min true 5 6 7), (0x023c5430, .max true 5 6 7), (0x023c5431, .minu true 5 6 7),
    (0x023c5432, .maxu true 5 6 7), (0x043c5030, .mul true 5 6 7), (0x04385031, .mulh 5 6 7),
    (0x04385032, .mulhu 5 6 7), (0x04385033, .mulhsu 5 6 7), (0x043c5034, .div true 5 6 7),
    (0x043c5035, .divu true 5 6 7), (0x043c5036, .rem true 5 6 7), (0x043c5037, .remu true 5 6 7),
    (0x06045030, .clz true 5 6), (0x06045031, .ctz true 5 6), (0x06045032, .popc true 5 6),
    (0x06045033, .brev true 5 6), (0x06045034, .bswap true 5 6), (0x06005035, .sextb 5 6),
    (0x06005036, .sexth 5 6), (0x06005037, .sextw 5 6), (0x06005230, .zextw 5 6),
    (0x09a85636, .addi 5 6 0x1a9e), (0x0ba85636, .andi 5 6 0x1a9e), (0x0da85636, .ori 5 6 0x1a9e),
    (0x0fa85636, .xori 5 6 0x1a9e)] : List (Inst × Instr)).all (fun e => decodeThread e.1 == some e.2) = true := by decide
/-- R204 to R212: integer arithmetic. -/
theorem words_alu2 : ([(0x13a85636, .slti 5 6 0x1a9e), (0x15a85636, .sltiu 5 6 0x1a9e), (0x10205435, .shli true 5 6 0x15),
    (0x10245435, .shri true 5 6 0x15), (0x10285435, .srai true 5 6 0x15), (0x102c5435, .roli true 5 6 0x15),
    (0x10305435, .rori true 5 6 0x15), (0x17545a9e, .lui 5 0x55a9e), (0x19545a9e, .auipc 5 0x55a9e),
    (0x1a3c5030, .addx true 5 6 7), (0x1a3c5031, .subx true 5 6 7), (0x1a3c5032, .mulx true 5 6 7),
    (0x1c385230, .cselNz 5 6 7 8), (0x1c3c5230, .cselZ 5 6 7 8)] : List (Inst × Instr)).all (fun e => decodeThread e.1 == some e.2) = true := by decide
/-- R214 to R220: floating point. -/
theorem words_float : ([(0x20385230, .fadd .f32 5 6 7), (0x20385231, .fsub .f32 5 6 7), (0x20385232, .fmul .f32 5 6 7),
    (0x20385233, .fdiv .f32 5 6 7), (0x20385234, .fmin .f32 5 6 7), (0x20385235, .fmax .f32 5 6 7),
    (0x20005236, .fsqrt .f32 5 6), (0x22385230, .fma .f32 5 6 7), (0x22385231, .fms .f32 5 6 7),
    (0x22385232, .fnma .f32 5 6 7), (0x22385233, .fnms .f32 5 6 7), (0x24385230, .feq .f32 5 6 7),
    (0x24385231, .flt .f32 5 6 7), (0x24385232, .fle .f32 5 6 7), (0x24385233, .funord .f32 5 6 7),
    (0x26005831, .fcvt .e4m3 .f32 5 6), (0x28005230, .fclass .f32 5 6), (0x2a005232, .icvtToInt .i16 .f32 5 6),
    (0x2a005234, .icvtFromInt .f32 5 6), (0x2c005230, .exp2 .f32 5 6), (0x2c005231, .log2 .f32 5 6),
    (0x2c005232, .rcp .f32 5 6), (0x2c005233, .rsq .f32 5 6), (0x2c005234, .sin .f32 5 6),
    (0x2c005235, .cos .f32 5 6), (0x2c005236, .tanh .f32 5 6)] : List (Inst × Instr)).all (fun e => decodeThread e.1 == some e.2) = true := by decide
/-- R226 to R237: memory. -/
theorem words_memory : ([(0x41a85636, .ldB 5 6 0x1a9e), (0x43a85636, .ldH 5 6 0x1a9e), (0x45a85636, .ldW 5 6 0x1a9e),
    (0x47a85636, .ldD 5 6 0x1a9e), (0x49a85636, .ldBu 5 6 0x1a9e), (0x4ba85636, .ldHu 5 6 0x1a9e),
    (0x4da85636, .ldWu 5 6 0x1a9e), (0x4e3ea636, .stB 7 6 0x1a9e), (0x503ea636, .stH 7 6 0x1a9e),
    (0x523ea636, .stW 7 6 0x1a9e), (0x543ea636, .stD 7 6 0x1a9e), (0x56005430, .lde .k 5 6),
    (0x56005431, .take .k 5 6), (0x56380432, .put .k 7 6), (0x56380433, .fill .k 7 6),
    (0x56000034, .purge 6), (0x56005035, .festat 5 6), (0x56000436, .waitf .k 6),
    (0x56385437, .trytake .k 5 7 6), (0x583c5030, .amoSwap true 5 7 6), (0x583c5031, .amoAdd true 5 7 6),
    (0x583c5032, .amoAnd true 5 7 6), (0x583c5033, .amoOr true 5 7 6), (0x583c5034, .amoXor true 5 7 6),
    (0x583c5035, .amoMin true 5 7 6), (0x583c5036, .amoMax true 5 7 6), (0x583c5037, .amoMaxu true 5 7 6),
    (0x5a3c5430, .amoSwapScoped true .k 5 7 6), (0x5a3c5431, .amoAddScoped true .k 5 7 6), (0x5a3c5432, .amoAndScoped true .k 5 7 6),
    (0x5a3c5433, .amoOrScoped true .k 5 7 6), (0x5a3c5434, .amoXorScoped true .k 5 7 6), (0x5a3c5435, .amoMinScoped true .k 5 7 6),
    (0x5a3c5436, .amoMaxScoped true .k 5 7 6), (0x5a3c5437, .amoMaxuScoped true .k 5 7 6), (0x5c3c5430, .cas true .k 5 7 6),
    (0x5e000400, .fenceFull .k), (0x5e000401, .fenceAcq .k), (0x5e000402, .fenceRel .k),
    (0x5e000404, .fenceIfence .k)] : List (Inst × Instr)).all (fun e => decodeThread e.1 == some e.2) = true := by decide
/-- R226 to R237: memory. -/
theorem words_memory2 : ([(0x5e380433, .fenceSyncwin .k 6 7)] : List (Inst × Instr)).all (fun e => decodeThread e.1 == some e.2) = true := by decide
/-- R222 to R225, R279 to R288: control flow, messages and threads. -/
theorem words_control : ([(0x00000000, .ill), (0x603ea636, .beq 6 7 0x1a9e), (0x623ea636, .bne 6 7 0x1a9e),
    (0x643ea636, .blt 6 7 0x1a9e), (0x663ea636, .bge 6 7 0x1a9e), (0x683ea636, .bltu 6 7 0x1a9e),
    (0x6a3ea636, .bgeu 6 7 0x1a9e), (0x6d545a9e, .jal 5 0x55a9e), (0x6fa85636, .jalr 5 6 0x1a9e),
    (0x7006a636, .bnzd 6 0x1a9e), (0x74380432, .send .k 6 7 2), (0x76380432, .sendm .k 6 7 2),
    (0x78005030, .recv 5 6), (0x78005031, .tryrecv 5 6), (0x78005032, .peek 5 6),
    (0x7801f003, .waitmsg 31), (0x88000030, .trset 6), (0x88000031, .trclr 6),
    (0x88380032, .tren 6 7), (0x7e005035, .joinwait 5 6), (0x7c385030, .spawn 5 6 7),
    (0x7e385030, .fork 5 6 7), (0x7e000001, .join), (0x7e000002, .exit),
    (0x7e000003, .yield), (0x7e005004, .self 5), (0x8e000030, .reply 6)] : List (Inst × Instr)).all (fun e => decodeThread e.1 == some e.2) = true := by decide
/-- R290 to R312: barriers, censuses, periods, vectors and copies. -/
theorem words_network : ([(0x80005030, .arriveRlx 5 6), (0x80005431, .arriveRel .k 5 6), (0x80380432, .waitph .k 6 7),
    (0x80005433, .arrwait .k 5 6), (0x86385030, .diradd 5 6 7), (0x86005031, .dirdel 5 6),
    (0x86005033, .dirfind 5 6), (0x82385433, .solicit .k .max 5 6 7), (0x84005030, .cwait 5 6),
    (0x84005031, .cpoll 5 6), (0x84005032, .cresult 5 6), (0x86385032, .dirmove 5 6 7),
    (0x90385c30, .lease true 2 5 6 7), (0x90000031, .release 6), (0x92380030, .loadcfg 6 7),
    (0x92380031, .loadcfgForce 6 7), (0x94380030, .sbind 6 7), (0x96000030, .sgo 6),
    (0x98000030, .sbar 6), (0x9c380030, .trig 6 7), (0x9e380030, .tq 6 7),
    (0x9a000030, .drain 6), (0x9a000031, .ckpt 6), (0x9a000032, .resume 6),
    (0xa0000030, .vcfg 6), (0xa2385030, .vrun 5 6 7), (0xa6380030, .vlds 6 7),
    (0xa6380031, .vsts 6 7), (0xa4380030, .vseq 6 7), (0xa8005630, .vredSum .bf16 5 6),
    (0xa8005631, .vredMin .bf16 5 6), (0xa8005632, .vredMax .bf16 5 6), (0x8c000830, .mxld .tw6 6),
    (0x8c385831, .mxmul .tw6 5 6 7), (0xaa385430, .baddq .tw8 5 6 7), (0xac385430, .qtw .tw8 5 6 7),
    (0xac385431, .dqtw .tw8 5 6 7), (0xb0380030, .cparm 6 7), (0xb2000030, .cpdisarm 6),
    (0xb4380030, .hqpush 6 7)] : List (Inst × Instr)).all (fun e => decodeThread e.1 == some e.2) = true := by decide
/-- R290 to R312: barriers, censuses, periods, vectors and copies. -/
theorem words_network2 : ([(0xcc385030, .route 5 6 7), (0xcc385031, .routeEsc 5 6 7)] : List (Inst × Instr)).all (fun e => decodeThread e.1 == some e.2) = true := by decide
/-- R313 to R316, R326 to R330: the supervisor and placement. -/
theorem words_system : ([(0xb8945403, .sysr 5 0x953), (0xb9940433, .sysw 0x953 6), (0xba000030, .trap 6),
    (0xba000032, .wfi 6), (0xba000031, .eret 6), (0xbc380030, .spill 6 7),
    (0xbc005031, .fillslot 5 6), (0xbe385030, .slotregR 5 6 7), (0xbe385031, .slotregW 5 6 7),
    (0xc0000000, .tlbinv), (0xc0000031, .tlbinvAsid 6), (0xc0380032, .tlbinvPage 6 7),
    (0xc4000000, .halt), (0xc8385032, .heddlePub 5 6 7), (0xc8000033, .heddleSw 6),
    (0xc6385030, .draftget 5 6 7), (0xc6005001, .draftpin 5), (0xc6000032, .draftunpin 6),
    (0xc8385030, .heddleRep 5 6 7), (0xc8385031, .heddleRet 5 6 7), (0xc8005034, .heddleRd 5 6)] : List (Inst × Instr)).all (fun e => decodeThread e.1 == some e.2) = true := by decide
/-- Table 8-1: nodes. -/
theorem words_graph : ([(0xd00044f0, .steerT (.node 4 .p) (.node 30 .l)), (0xd10044f0, .steerF (.node 4 .p) (.node 30 .l)), (0xd20044f0, .mergeP (.node 4 .p) (.node 30 .l)),
    (0xd30044f0, .mergeA (.node 4 .p) (.node 30 .l)), (0xd42444f0, .carry 9 (.node 4 .p) (.node 30 .l)), (0xd60044f0, .inv (.node 4 .p) (.node 30 .l)),
    (0xd82444f0, .const 9 (.node 4 .p) (.node 30 .l)), (0xd92444f0, .constC 9 (.node 4 .p) (.node 30 .l)), (0xda0044f0, .gate (.node 4 .p) (.node 30 .l)),
    (0xdc0044f0, .rowctlStrip (.node 4 .p) (.node 30 .l)), (0xdc0444f0, .rowctlSplit (.node 4 .p) (.node 30 .l)), (0xdc0844f0, .rowctlEor (.node 4 .p) (.node 30 .l)),
    (0xdc0c44f0, .rowctlEog (.node 4 .p) (.node 30 .l)), (0xdc1044f0, .rowctlEos (.node 4 .p) (.node 30 .l)), (0xde4044f0, .widen .k (.node 4 .p) (.node 30 .l)),
    (0xe19444f0, .mma true .tw6 5 (.node 4 .p) (.node 30 .l)), (0xe29444f0, .bload .tw6 5 (.node 4 .p) (.node 30 .l)), (0xe41444f0, .accRd 5 (.node 4 .p) (.node 30 .l)),
    (0xe43444f0, .accRdclr 5 (.node 4 .p) (.node 30 .l)), (0xe45444f0, .accClr 5 (.node 4 .p) (.node 30 .l)), (0xe72044f0, .rmax true .f32 (.node 4 .p) (.node 30 .l)),
    (0xe82444f0, .escOrd 9 (.node 4 .p) (.node 30 .l)), (0xe92444f0, .escUnord 9 (.node 4 .p) (.node 30 .l)), (0xea2444f0, .delay 9 (.node 4 .p) (.node 30 .l)),
    (0xec5444f0, .race 0x15 (.node 4 .p) (.node 30 .l)), (0xee2444f0, .frame 9 (.node 4 .p) (.node 30 .l)), (0xf02444f0, .unframe 9 (.node 4 .p) (.node 30 .l)),
    (0xf22044f0, .upd .fadd (.node 4 .p) (.node 30 .l)), (0xf40044f0, .cntD (.node 4 .p) (.node 30 .l)), (0xf50044f0, .cntR (.node 4 .p) (.node 30 .l)),
    (0xf61444f0, .lredSum 5 (.node 4 .p) (.node 30 .l)), (0xf63444f0, .lredMax 5 (.node 4 .p) (.node 30 .l)), (0xf65444f0, .lredMin 5 (.node 4 .p) (.node 30 .l)),
    (0xf80044f0, .scale (.node 4 .p) (.node 30 .l)), (0xfa2444f0, .explk 9 (.node 4 .p) (.node 30 .l))] : List (Inst × Instr)).all (fun e => decodeGraph e.1 == some e.2) = true := by decide

/-! Well-formedness: an ill-formed term for each check -/

theorem smoke_rd : (Instr.add false 40 1 2).wf = false ∧ (Instr.add false 47 1 2).wf = false ∧ (Instr.add false 54 1 2).wf = false
    ∧ (Instr.add false 39 1 2).wf = true ∧ (Instr.add false 53 1 2).wf = true := by decide
theorem smoke_rs : (Instr.add false 1 58 2).wf = false ∧ (Instr.add false 1 2 63).wf = false
    ∧ (Instr.add false 1 57 57).wf = true := by decide
theorem smoke_shift_amount : (Instr.shli true 1 2 32).wf = false ∧ (Instr.shli true 1 2 31).wf = true
    ∧ (Instr.shli false 1 2 63).wf = true := by decide
theorem smoke_general : (Instr.cselNz 1 2 3 32).wf = false ∧ (Instr.bnzd 0 1).wf = false ∧ (Instr.bnzd 32 1).wf = false := by
  decide
theorem smoke_format : (Instr.fadd .tw 1 2 3).wf = false ∧ (Instr.exp2 .f64 1 2).wf = false
    ∧ (Instr.fcvt .f32 .f32 1 2).wf = false := by decide
theorem smoke_scope : (Instr.solicit .c .none 1 2 3).wf = false ∧ (Instr.arriveRel .s 1 2).wf = false
    ∧ (Instr.send .h 1 2 0).wf = false := by decide
theorem smoke_length : (Instr.send .s 1 2 6).wf = false ∧ (Instr.send .s 1 2 5).wf = true := by decide
theorem smoke_trytake : (Instr.trytake .s 3 3 1).wf = false ∧ (Instr.trytake .s 0 0 1).wf = true
    ∧ (Instr.trytake .s 3 32 1).wf = false := by decide
theorem smoke_targets : (Instr.gate .none (.node 1 .l)).wf = false ∧ (Instr.gate (.node 1 .l) .none).wf = true := by decide
theorem smoke_graph_operands : (Instr.race 0 (.node 1 .l) .none).wf = false ∧ (Instr.widen .s (.node 1 .l) .none).wf = false
    ∧ (Instr.elementwiseNode (.fcvt .f16 .f16) (.node 1 .l) .none).wf = false
    ∧ (Instr.elementwiseNode (.sfu .sin .f64) (.node 1 .l) .none).wf = false
    ∧ (Instr.graphFeNode .c .purge (.node 1 .l) .none).wf = false := by decide

/-! Words of the manual: the worked encodings of 06, 07, 08 and 09 -/

theorem word_add : decodeThread 0x02385030 = some (.add false 5 6 7) := by decide
theorem word_addi : decodeThread 0x09fc5e35 = some (.addi 5 6 (-3)) := by decide
theorem word_srai : decodeThread 0x10289057 = some (.srai true 9 10 7) := by decide
theorem word_divu : decodeThread 0x042c3025 = some (.divu true 3 4 5) := by decide
theorem word_csel : decodeThread 0x1c30402f = some (.cselNz 4 5 6 7) := by decide
theorem word_beq : decodeThread 0x601ffe16 = some (.beq 2 3 (-2)) := by decide
theorem word_fmul : decodeThread 0x20385832 = some (.fmul .e4m3 5 6 7) := by decide
theorem word_send : decodeThread 0x7430042a = some (.send .k 5 6 2) := by decide
theorem word_recv : decodeThread 0x78007040 = some (.recv 7 8) := by decide
theorem word_sysr : decodeThread 0xb8005200 = some (.sysr 5 0x008) := by decide
theorem word_sysw : decodeThread 0xb9000034 = some (.sysw 4 6) := by decide
theorem word_elementwise : decodeGraph 0x2089e0fc = some (.elementwiseNode (.fp .fmul .e4m3) (.node 30 .l) (.node 31 .o)) := by
  decide
theorem word_graph_add : decodeGraph 0x0200adff = some (.elementwiseNode (.alu .add) (.shed 10) .none) := by decide
theorem word_mma : decodeGraph 0xe02141ff = some (.mma false .e4m3 0 (.node 20 .l) .none) := by decide
theorem word_acc : decodeGraph 0xe4008dff = some (.accRd 0 (.shed 8) .none) := by decide
theorem word_rmax : decodeGraph 0xe7209c56 = some (.rmax true .f32 (.shed 9) (.shed 10)) := by decide
theorem word_header : isHeader 0xfe061400 = true ∧ decodeHeader 0xfe061400 = some ⟨.graph, 3, 2, true⟩ := by decide

/-! Words written out from Tables 6-1, 6-12 and 6-13, one or more for each further family -/

/-- ld.w g5, 8(g6): immediate layout, OP 0x22, imm13 = 8. -/
theorem word_load : decodeThread (0x22#7 ++ 0#7 ++ 5#6 ++ 1#3 ++ 6#6 ++ 0#3) = some (.ldW 5 6 8) := by decide
/-- st.d g5, -8(g6): store layout, OP 0x2A, rs2 = 5, imm13 = 0x1FF8. -/
theorem word_store : decodeThread (0x2a#7 ++ 5#6 ++ 1#1 ++ 0x3f#6 ++ 7#3 ++ 6#6 ++ 0#3) = some (.stD 5 6 (-8)) := by decide
/-- take.k g5, g6: OP 0x2B, f = 0b010, g = 1. -/
theorem word_take : decodeThread (0x2b#7 ++ 0#6 ++ 0#1 ++ 5#6 ++ 2#3 ++ 6#6 ++ 1#3) = some (.take .k 5 6) := by decide
/-- amo.add.w g5, g7, g6: OP 0x2C, s = 1, g = 1. -/
theorem word_amo : decodeThread (0x2c#7 ++ 7#6 ++ 1#1 ++ 5#6 ++ 0#3 ++ 6#6 ++ 1#3) = some (.amoAdd true 5 7 6) := by decide
/-- fence.acq.d: OP 0x2F, f = 0b011, g = 1. -/
theorem word_fence : decodeThread (0x2f#7 ++ 0#6 ++ 0#1 ++ 0#6 ++ 3#3 ++ 0#6 ++ 1#3) = some (.fenceAcq .d) := by decide
/-- jal g1, 1: long layout, OP 0x36. -/
theorem word_jal : decodeThread (0x36#7 ++ 0#7 ++ 1#6 ++ 1#12) = some (.jal 1 1) := by decide
/-- fma.f32 g5, g6, g7: OP 0x11, f = 0b001, g = 0. -/
theorem word_fma : decodeThread (0x11#7 ++ 7#6 ++ 0#1 ++ 5#6 ++ 1#3 ++ 6#6 ++ 0#3) = some (.fma .f32 5 6 7) := by decide
/-- fcvt.e4m3.f32 g5, g6: OP 0x13, f = 0b100, g = 0b001. -/
theorem word_fcvt : decodeThread (0x13#7 ++ 0#6 ++ 0#1 ++ 5#6 ++ 4#3 ++ 6#6 ++ 1#3) = some (.fcvt .e4m3 .f32 5 6) := by decide
/-- rsq.f16 g5, g6: OP 0x16, f = 0b010, g = 3. -/
theorem word_sfu : decodeThread (0x16#7 ++ 0#6 ++ 0#1 ++ 5#6 ++ 2#3 ++ 6#6 ++ 3#3) = some (.rsq .f16 5 6) := by decide
/-- fork g5, g6, g7: OP 0x3F, g = 0. -/
theorem word_fork : decodeThread (0x3f#7 ++ 7#6 ++ 0#1 ++ 5#6 ++ 0#3 ++ 6#6 ++ 0#3) = some (.fork 5 6 7) := by decide
/-- arrwait.d g5, g6: OP 0x40, f = 0b011, g = 3. -/
theorem word_barrier : decodeThread (0x40#7 ++ 0#6 ++ 0#1 ++ 5#6 ++ 3#3 ++ 6#6 ++ 3#3) = some (.arrwait .d 5 6) := by decide
/-- solicit.p.max g5, g6, g7: OP 0x41, f = 0b100, g = 3. -/
theorem word_census : decodeThread (0x41#7 ++ 7#6 ++ 0#1 ++ 5#6 ++ 4#3 ++ 6#6 ++ 3#3) = some (.solicit .p .max 5 6 7) := by decide
/-- dirmove g5, g6, g7: OP 0x43, g = 2. -/
theorem word_directory : decodeThread (0x43#7 ++ 7#6 ++ 0#1 ++ 5#6 ++ 0#3 ++ 6#6 ++ 2#3) = some (.dirmove 5 6 7) := by decide
/-- tren g6, g7: OP 0x44, g = 2. -/
theorem word_treadle : decodeThread (0x44#7 ++ 7#6 ++ 0#1 ++ 0#6 ++ 0#3 ++ 6#6 ++ 2#3) = some (.tren 6 7) := by decide
/-- mxmul.tw6 g5, g6, g7: OP 0x46, f = MF3 0b100, g = 1. -/
theorem word_matrix : decodeThread (0x46#7 ++ 7#6 ++ 0#1 ++ 5#6 ++ 4#3 ++ 6#6 ++ 1#3) = some (.mxmul .tw6 5 6 7) := by decide
/-- lease g5, g6, g7 at level 2, pre-emptible: OP 0x48, f = 0b110, g = 0. -/
theorem word_lease : decodeThread (0x48#7 ++ 7#6 ++ 0#1 ++ 5#6 ++ 6#3 ++ 6#6 ++ 0#3) = some (.lease true 2 5 6 7) := by decide
/-- sbar g6: OP 0x4C. -/
theorem word_stream : decodeThread (0x4c#7 ++ 0#6 ++ 0#1 ++ 0#6 ++ 0#3 ++ 6#6 ++ 0#3) = some (.sbar 6) := by decide
/-- vred.max.bf16 g5, g6: OP 0x54, f = 0b011, g = 2. -/
theorem word_vector : decodeThread (0x54#7 ++ 0#6 ++ 0#1 ++ 5#6 ++ 3#3 ++ 6#6 ++ 2#3) = some (.vredMax .bf16 5 6) := by decide
/-- dqtw.tw8 g5, g6, g7: OP 0x56, f = TWF 0b010, g = 1. -/
theorem word_twill : decodeThread (0x56#7 ++ 7#6 ++ 0#1 ++ 5#6 ++ 2#3 ++ 6#6 ++ 1#3) = some (.dqtw .tw8 5 6 7) := by decide
/-- hqpush g6, g7: OP 0x5A. -/
theorem word_queue : decodeThread (0x5a#7 ++ 7#6 ++ 0#1 ++ 0#6 ++ 0#3 ++ 6#6 ++ 0#3) = some (.hqpush 6 7) := by decide
/-- eret g6: OP 0x5D, g = 1. -/
theorem word_supervisor : decodeThread (0x5d#7 ++ 0#6 ++ 0#1 ++ 0#6 ++ 0#3 ++ 6#6 ++ 1#3) = some (.eret 6) := by decide
/-- slotreg.w g5, g6, g7: OP 0x5F, g = 1. -/
theorem word_slotreg : decodeThread (0x5f#7 ++ 7#6 ++ 0#1 ++ 5#6 ++ 0#3 ++ 6#6 ++ 1#3) = some (.slotregW 5 6 7) := by decide
/-- tlbinv by page and ASID: OP 0x60, g = 2. -/
theorem word_tlbinv : decodeThread (0x60#7 ++ 7#6 ++ 0#1 ++ 0#6 ++ 0#3 ++ 6#6 ++ 2#3) = some (.tlbinvPage 6 7) := by decide
/-- heddle.rd g5, g6 and route of the escape class g5, g6, g7: OP 0x64 g = 4, OP 0x66 g = 1. -/
theorem word_placement : decodeThread (0x64#7 ++ 0#6 ++ 0#1 ++ 5#6 ++ 0#3 ++ 6#6 ++ 4#3) = some (.heddleRd 5 6)
    ∧ decodeThread (0x66#7 ++ 7#6 ++ 0#1 ++ 5#6 ++ 0#3 ++ 6#6 ++ 1#3) = some (.routeEsc 5 6 7) := by decide
/-- carry with constant 3 to 4.p, and widen.d: OP 0x6A, OP 0x6F x[23:21] = 0b011. -/
theorem word_steering : decodeGraph (0x6a#7 ++ 0#1 ++ 3#6 ++ (4#6 ++ 2#3) ++ 0x1ff#9) = some (.carry 3 (.node 4 .p) .none)
    ∧ decodeGraph (0x6f#7 ++ 0#1 ++ 0x18#6 ++ (4#6 ++ 0#3) ++ 0x1ff#9) = some (.widen .d (.node 4 .l) .none) := by decide
/-- A graph load of a double: OP 0x23 with x = 0. -/
theorem word_memory_node : decodeGraph (0x23#7 ++ 0#1 ++ 0#6 ++ (4#6 ++ 0#3) ++ 0x1ff#9) = some (.graphLoadNode .d (.node 4 .l) .none) := by
  decide
/-- A word with a reserved operand, and one with a reserved OP, decode to nothing. -/
theorem word_reserved : decodeThread (0x01#7 ++ 7#6 ++ 0#1 ++ 58#6 ++ 0#3 ++ 6#6 ++ 0#3) = none
    ∧ decodeThread (0x1f#7 ++ 0#25) = none ∧ decodeGraph (0x30#7 ++ 0#25) = none := by decide

/-! Witnesses and steps: arithmetic -/

theorem witness_AluResults : w0.plain [1, 2] [3] = true ∧ w0.plain [1, 1] [1] = true ∧ w0.plain [54, 53] [0] = true := by decide
theorem witness_MultiplyDivideAndExact : w0.plain [4, 3] [5] = true ∧ w0.reg user 4 = BitVec.intMin 64 ∧ w0.reg user 3 = -1 := by
  decide
theorem witness_BitsImmediatesAndSelects : w0.plain [1] [2] = true ∧ w0.plain [] [2] = true ∧ w0.plain [1, 2, 3] [4] = true
    ∧ (31#6).toNat < 32 := by decide
theorem witness_ControlFlow : w0.plain [1, 2] [] = true ∧ w0.plain [] [1] = true ∧ w0.plain [1] [1] = true := by decide

/-- 07 R204, R205: x + y wraps; at the border of DIV. -/
theorem test_add : leads (exec (.add false 5 1 3) w0) (fun t => t.reg user 5 == 5 && (t.slot user).pc == 0x1004) = true := by decide
theorem test_div : leads (exec (.div false 5 4 3) w0) (fun t => t.reg user 5 == 1#64 <<< 63) = true := by decide
theorem test_addi : leads (exec (.addi 1 1 (-3)) w0) (fun t => t.reg user 1 == 3) = true := by decide
/-- 07 R204: a .w shift takes its amount modulo 32 and clears the upper half. -/
theorem test_shl_w : leads (exec (.shl true 5 3 2) w0) (fun t => t.reg user 5 == 0xffffff80) = true := by decide
/-- 07 R211: 2^63 does not fit; the trap leaves rd and names its operands. -/
theorem test_subx : leads (exec (.subx false 5 4 1) w0) (fun t => (t.slot user).state == .trapped && t.reg user 5 == 0
    && ((t.core 0 0).traps.map fun r => (r.cause, r.sub, r.val, r.aux)) == [((4 : Byte), (1 : Byte), 1#64 <<< 63, (6 : Word))]) = true := by decide
/-- 07 R223: a branch two words back. -/
theorem test_beq : leads (exec (.beq 1 1 (-2)) w0) (fun t => (t.slot user).pc == 0xff8) = true := by decide
theorem test_bnzd : leads (exec (.bnzd 1 1) (w1 1)) (fun t => (t.slot user).pc == 0x1004 && t.reg user 1 == 0) = true := by decide

/-! Floating point -/

theorem witness_FloatingPoint : w0.plain [1, 2] [3] = true ∧ w0.plain [1] [3] = true ∧ w0.plain [1, 2, 3] [3] = true
    ∧ rmode (w0.slot user).frm = some .rne ∧ rmode 7 = none := by decide
theorem witness_ComparisonsAndClasses : (decodeFp Fmt.fp32.layout 0x7fc00000).isNan = true ∧ (decodeFp Fmt.fp32.layout 0x7f800001).isSnan = true
    ∧ (cmpOp Fmt.fp32 .flt 0x3f800000 0x40000000).1 = 1 := by decide

/-- 03 R104, worked: 300 becomes 288, 500 saturates, 0.0013 becomes the least subnormal of E4M3. -/
theorem test_fcvt : leads (exec (.fcvt .e4m3 .f32 5 1) (w1 0x43960000))
    (fun t => t.reg user 5 == 0x79 && (t.slot user).fflags == flagNX) = true := by decide
theorem test_fcvt_saturates : leads (exec (.fcvt .e4m3 .f32 5 1) (w1 0x43fa0000))
    (fun t => t.reg user 5 == 0x7e && (t.slot user).fflags == flagOF ||| flagNX) = true := by decide
theorem test_fcvt_subnormal : leads (exec (.fcvt .e4m3 .f32 5 1) (w1 0x3aaa64c3))
    (fun t => t.reg user 5 == 1 && (t.slot user).fflags == flagUF ||| flagNX) = true := by decide

/-- A skein whose SFU queue holds one request of the user thread. -/
def sfuReq0 : SfuReq := { agent := .slot user 1, fn := .rcp, fmt := .f32, x := 0x40000000, dst := 3 }
def wSfu : State := evAt (w0.modSkein 0 0 fun k => { k with serving := [sfuReq0] }) {}
/-- The SFU may begin to service the request in its queue. -/
def wBegin : State := evAt (w0.modSkein 0 0 fun k => { k with queue := [sfuReq0] }) { val := 1 }
def wGrant : State :=
  evAt ((w0.modSkein 0 0 fun k => { k with waiting := [(0, sfuReq0)] }).enter user .waitData .sfu) {}

theorem witness_SpecialFunctions : w0.plain [1] [3] = true ∧ (wSfu.skein 0 0).serving = [sfuReq0]
    ∧ (wBegin.skein 0 0).queue = [sfuReq0] ∧ (wBegin.skein 0 0).begun ≠ some wBegin.aclk ∧ wBegin.ev.val.getLsbD 0 = true
    ∧ wSfu.ev.val.getLsbD 0 = false ∧ (wGrant.skein 0 0).room wGrant.aclk = true ∧ sfuReq0.src = none ∧ (wGrant.skein 0 0).nextGrant = some (0, sfuReq0) ∧ (wGrant.slot user).await = .sfu := by
  decide
/-- 07 R220: 1/2. -/
theorem test_rcp : leads (exec .sfuResult wSfu) (fun t => t.reg user 3 == 0x3f000000 && (t.skein 0 0).serving.isEmpty) = true := by
  decide
/-- 07 R221: the entry is free when its service begins; the result is still to return. -/
theorem test_sfu_begins : leads (exec .sfuResult wBegin) (fun t => (t.skein 0 0).queue.isEmpty && (t.skein 0 0).serving == [sfuReq0]
    && t.reg user 3 == -1) = true := by decide
theorem test_grant : leads (exec .sfuGrant wGrant) (fun t => (t.skein 0 0).queue == [sfuReq0] && (t.skein 0 0).waiting.isEmpty
    && (t.slot user).state == .ready && (t.slot user).pc == 0x1004) = true := by decide

/-! Memory -/

/-- w0 as a journaled slot: JNL is 1 and the die has a journal. -/
def wJnl : State := (w0.modDie 0 fun d => { d with jnlSize := 4 }).modSlot user fun x => { x with jnl := true }

theorem witness_AccessesStart : w0.plain [1] [3] = true ∧ w0.plain [1, 2] [] = true ∧ w0.plain [1] [3, 0] = true
    ∧ w0.plain [1] [0, 0] = true ∧ w0.plain [1] [3, 2] = true ∧ w0.plain [1, 2] [3] = true ∧ w0.plain [1, 2, 3] [3] = true
    ∧ w0.journaled = false ∧ 4 > w0.outstanding user ∧ isPriv user = false
    ∧ ((w1 (2 ^ 57 - 8)).reg user 1).toNat % 8 = 0 ∧ ((w1 (2 ^ 57 - 8)).reg user 1).toNat < 2 ^ 57
    ∧ ((w1 4).reg user 1).toNat % 8 ≠ 0 ∧ ((w1 4).reg user 1).toNat % 4 = 0 ∧ wJnl.journaled = true := by decide
/-- 15 R390, R391: the last aligned double below bit 57 starts an access; one byte on it is misaligned; the next double is
out of range. -/
theorem test_ld_starts : leads (exec (.ldD 3 1 (-8)) (w1 (2 ^ 57))) (fun t => t.accs.map (·.va) == [2 ^ 57 - 8]) = true := by decide
theorem test_ld_traps : leads (exec (.ldD 3 1 0) (w1 (2 ^ 57))) (fun t => (t.core 0 0).traps.map (·.cause) == [0x21])
    && leads (exec (.ldD 3 1 1) (w1 8)) (fun t => (t.core 0 0).traps.map (fun r => (r.cause, r.sub)) == [(0x20, 3)]) = true := by
  decide
theorem test_take_waits : leads (exec (.take .c 3 1) (w1 8)) (fun t => (t.slot user).state == .waitData && t.accs.length == 1)
    = true := by decide
theorem test_cas_in_journal : leads (exec (.cas false .c 3 2 1) wJnl) (fun t => (t.core 0 0).traps.map (·.cause) == [0x45])
    = true := by decide

/-- The shed's window count is one past, or one before, the awaited count. -/
def wWin (n : BitVec 32) : State := (w1 0).modShed 0 0 fun x => { x with swincnt := n }
theorem witness_FencesComplete : w0.allPerformed = true ∧ (wHome (.store .d)).allPerformed = false ∧ w0.readsOpen = false
    ∧ (wHome (.load .d)).readsOpen = true ∧ (wWin 7).dieThere 0 0 = true ∧ (wWin 7).plain [1, 2] [] = true := by decide
/-- Another thread's full fence at c stands, and its store before it is still to be performed. -/
def wFenced : State :=
  { w0 with accs := [{ acc0 (.store .d) with agent := .slot ⟨0, 0, 1⟩ 1 }], fences := [⟨⟨0, 0, 1⟩, 1, .c, 6⟩], nextId := 7 }
theorem witness_FencesComplete_order : wFenced.readsOpen = false ∧ wFenced.fenceBehind user 1 .c = true ∧ w0.fenceBehind user 1 .c = false
    ∧ (wWin 7).dieThere 0 9 = false := by decide
/-- 05 R150: a full fence waits for reads and for the fences it comes after; a store that is open does not hold it. -/
theorem test_fences : leads (exec (.fenceFull .d) w0) (fun t => (t.slot user).pc == 0x1004)
    && leads (exec (.fenceFull .d) (wHome (.load .d))) (fun t => (t.slot user).state == .waitData)
    && leads (exec (.fenceFull .c) wFenced) (fun t => (t.slot user).state == .waitData)
    && leads (exec (.fenceFull .d) (wHome (.store .d))) (fun t => (t.slot user).pc == 0x1004 && t.accs.length == 2) = true := by decide
theorem test_syncwin : leads (exec (.fenceSyncwin .d 1 2) (wWin 7)) (fun t => (t.slot user).pc == 0x1004)
    && leads (exec (.fenceSyncwin .d 1 2) (wWin 6)) (fun t => (t.slot user).state == .waitData) = true := by decide

/-- The hypotheses of the claims about an access at its home. -/
def atHome (s : State) (op : MemOp) : Bool :=
  s.access s.ev.id == some (acc0 op) && s.mayPerform (acc0 op) && s.unitTakes (acc0 op) && paSpace (acc0 op).pa != 2 && paSpace (acc0 op).pa != 0
    && !s.isPoisoned (acc0 op).pa && !(s.keySlot 0 (acc0 op).pa).xts && (acc0 op).pa % 8 == 0 && !s.orphaned (acc0 op).pa
    && !s.retakes (acc0 op) && s.waits.isEmpty
/-- wHome with the double full, holding 9. -/
def wFull (op : MemOp) : State := ((wHome op).writeHome 0 (acc0 op).pa 8 9).setFull (acc0 op).pa

theorem witness_AccessesAtHome : atHome (wHome (.load .w)) (.load .w) = true ∧ atHome (wHome (.store .h)) (.store .h) = true
    ∧ atHome (wHome (.amo .add false)) (.amo .add false) = true ∧ atHome (wHome (.cas true)) (.cas true) = true := by decide
theorem witness_AccessesAtHome_empty : ∀ o ∈ [FeOp.lde, .take, .put, .fill, .purge, .festat, .waitf, .trytake],
    atHome (wHome (.fe o)) (.fe o) = true ∧ (wHome (.fe o)).isFull (acc0 (.fe o)).pa = false := by decide
theorem witness_AccessesAtHome_full : ∀ o ∈ [FeOp.lde, .take, .put, .fill, .purge, .festat, .waitf, .trytake],
    atHome (wFull (.fe o)) (.fe o) = true ∧ (wFull (.fe o)).isFull (acc0 (.fe o)).pa = true := by decide
/-- What an access finds and leaves: its stage, its result, the full/empty bit and the double. -/
def outcome (s : State) : Option (Option (Stage × Word × Bool) × Bool × Word) :=
  match exec .homeBankOperation s with
  | .next t => some ((t.access 5).map fun a => (a.stage, a.result, a.ok), t.isFull (paOf 0 1 0x40), t.readHome 0 (paOf 0 1 0x40) 8)
  | .fault _ => none
  | .refused _ => none
theorem test_store_h : outcome (wHome (.store .h)) = some (some (.done, 0, true), false, 0x7788) := by decide
theorem test_load_d : outcome (wFull (.load .d)) = some (some (.done, 9, true), true, 9) := by decide
theorem test_amo_add : outcome (wFull (.amo .add true)) = some (some (.done, 9, true), true, 0x55667791) := by decide
theorem test_cas_keeps : outcome (wFull (.cas false)) = some (some (.done, 9, true), true, 9) := by decide
theorem test_take : outcome (wFull (.fe .take)) = some (some (.done, 9, true), false, 9)
    ∧ outcome (wHome (.fe .take)) = some (some (.parked, 0, true), false, 0) := by decide
theorem test_trytake : outcome (wHome (.fe .trytake)) = some (some (.done, 0, false), false, 0) := by decide
theorem test_fill : outcome (wFull (.fe .fill)) = some (some (.done, 0, true), true, 0x1122334455667788) := by decide
theorem test_put : outcome (wHome (.fe .put)) = some (some (.done, 0, true), true, 0x1122334455667788)
    ∧ outcome (wFull (.fe .put)) = some (some (.parked, 0, true), true, 9) := by decide
theorem test_purge : outcome (wFull (.fe .purge)) = some (some (.done, 0, true), false, 9) := by decide
theorem test_festat : outcome (wFull (.fe .festat)) = some (some (.done, 1, true), true, 9) := by decide
theorem test_waitf : outcome (wFull (.fe .waitf)) = some (some (.done, 9, true), true, 9) := by decide
/-- Table 7-10: a negative byte. -/
theorem test_load_extends : extendLoad .b 0x180 = 0xffffffffffffff80 ∧ extendLoad .bu 0x180 = 0x80 := by decide

/-! Messages -/

/-- w0 with a handle in g1 and a destination word in g2. -/
def wSend (h w : Word) : State := (w1 h).modSlot user fun x => x.setG 2 w
/-- A message to mailbox 3 of core 0. -/
def mail0 : Mail :=
  { src := .thread user 1, die := 0, core := 0, box := 3, words := [1, 2], scope := .c, chk := none, multi := false, handle := 0,
    destWord := 3 }
def wMail (m : Mail) : State := evAt { w0 with net := [{ id := 5, packet := .mail m }], nextId := 6 } { id := 5 }
/-- w0 with a message in mailbox 3 of its core, with others before and behind it. -/
def msg0 (n : Word) : BoxMsg := { words := [n, 4], scope := .c, claim := none }
def wBox : State := (w1 8).modCore 0 0 fun c => { c with boxes := tblSet [] 3 [msg0 1, msg0 2] c.boxes }

/-- A result is outstanding to the first double of the window. -/
def wOwed : State := { w1 8 with accs := [{ acc0 (.load .d) with dst := 48 }], nextId := 6 }
theorem witness_window_owed : wOwed.hazard (windowRegs 1) [] = true ∧ wOwed.hazard (windowRegs 6) [] = true
    ∧ wOwed.plain [1, 2] [] = true ∧ (wSend 0 3).hazard (windowRegs 6) [] = false ∧ wBox.hazard (windowRegs 6) [] = false := by decide
/-- 07 R202: a message is not sent while one of its doubles is still to come. -/
theorem test_send_waits : leads (exec (.send .c 1 2 0) wOwed) (fun t => t.net.isEmpty && (t.slot user).state == .waitData) = true := by
  decide
theorem witness_SendsLeave : (wSend 0 3).plain [1, 2] [] = true ∧ handleOk 0 = true ∧ handleCore 0 = some 0
    ∧ (wSend 0 3).journaled = false ∧ (wSend 0 3).curCore.resv < 64 ∧ handleOk 0x0080000000000000 = true
    ∧ handleOk 0x0200000000000000 = false ∧ handleCore 0x0080000000000000 = none
    ∧ ((wSend 0 3).modCore 0 0 fun c => { c with resv := 64 }).curCore.resv = 64 := by decide
theorem test_send : leads (exec (.send .c 1 2 1) (wSend 0 3)) (fun t => t.net.length == 1 && (t.core 0 0).resv == 1
    && (t.slot user).pc == 0x1004) = true := by decide
theorem test_sendm : leads (exec (.sendm .c 1 2 0) (wSend 0 0x8001000000000003)) (fun t =>
    t.net.map (fun q => match q.packet with | .mail m => m.core.toNat | _ => 99) == [0, 15]) = true := by decide

theorem witness_ReceiptsTakeMessages : wBox.plain [1] [4] = true ∧ wBox.curCore.forbidden 0 8 = false
    ∧ wBox.curCore.choose 0 (wBox.slot user).lastBox 8 = some (3, 0) ∧ (wBox.curCore.box 3)[0]? = some (msg0 1)
    ∧ wBox.curCore.choose 0 (wBox.slot user).lastBox 0x80000000 = none ∧ wBox.curCore.forbidden 0 0x80000000 = false
    ∧ (msg0 1).words.length ≤ 6 := by decide
theorem witness_ReceiptsTakeMessages_owned :
    ((wBox.modCore 0 0 fun c => { c with treadles := tblSet {} 2 { mask := 8, en := true } c.treadles }).curCore.forbidden 0 8) = true := by
  decide
theorem test_recv : leads (exec (.recv 4 1) wBox) (fun t => t.reg user 4 == 3 && (t.slot user).mw 0 == 1 && (t.slot user).mw 5 == 0
    && (t.core 0 0).box 3 == [msg0 2]) = true := by decide
theorem test_peek : leads (exec (.peek 4 1) wBox) (fun t => t.reg user 4 == 3 && (t.slot user).mw 1 == 4
    && ((t.core 0 0).box 3).length == 2) = true := by decide
theorem test_tryrecv : leads (exec (.tryrecv 4 1) w0) (fun t => t.reg user 4 == BitVec.allOnes 64) = true := by decide
theorem test_waitmsg : leads (exec (.waitmsg 4) wBox) (fun t => (t.slot user).state == .parkMsg) = true := by decide

/-- A pattern on mailbox 3, for a handler (MODE 0) or for the slot parked on it (MODE 1). -/
def wTreadle (wake : Bool) : State :=
  let s := wBox.modCore 0 0 fun c => { c with treadles := tblSet {} 2 { mask := 8, en := true, wake := wake, handler := 0x2000 } c.treadles }
  evAt (if wake then ((s.modSlot user fun x => { x with parkKey := 2, parkDst := some 4 }).enter user .parkJoin .retry) else s) {}
/-- A thread whose g1 holds the address of a pattern record: pattern 2, on mailbox 3, handler 0x2000. -/
def wRecord (ws : List Word) : State :=
  let s := { w1 (BitVec.ofNat 64 (paOf 0 1 0x80)) with cur := ⟨0, 0, 15⟩ }
  let s := s.setSlot ⟨0, 0, 15⟩ ((s.slot ⟨0, 0, 15⟩).setG 1 (BitVec.ofNat 64 (paOf 0 1 0x80)))
  { s with mem := writeRaw (paOf 0 1 0x80) (ws.flatMap (bytesOfWord 8)) s.mem }
def patternWord : Word := 0x0000002100000008
theorem witness_Treadles : (wTreadle false).curCore.patternFull 8 = true ∧ ((wTreadle false).curCore.treadle 2).en = true
    ∧ (wTreadle false).freeSlot 0 0 = some 1 ∧ (wTreadle true).joinSlot 0 0 2 = some user
    ∧ ((wTreadle true).curCore.treadle 2).wake = true ∧ (wBox.curCore.treadle 2).en = false := by decide
theorem witness_Treadles_instructions : w0.plain [1] [] = true ∧ w0.plain [1, 2] [] = true ∧ w0.plain [1] [4] = true
    ∧ w0.joinSlot 0 0 6 = none ∧ ((wTreadle true).joinSlot 0 0 2).isSome = true
    ∧ patternWord.extractLsb' 34 2 = 0 ∧ patternWord.extractLsb' 40 24 = 0 := by decide
theorem test_trset : leads (exec (.trset 1) (wRecord [patternWord, 0x2000])) (fun t =>
    let r := (t.core 0 0).treadle 2
    r.mask == 8 && r.en && !r.wake && r.handler == 0x2000 && (t.slot ⟨0, 0, 15⟩).pc == bootPc 0 + 4) = true := by decide
theorem test_treadle_starts : leads (exec .treadleEvaluate (wTreadle false)) (fun t =>
    (t.slot ⟨0, 0, 1⟩).pc == 0x2000 && (t.slot ⟨0, 0, 1⟩).g 1 == 8 && (t.slot ⟨0, 0, 1⟩).g 2 == 2
    && (t.slot ⟨0, 0, 1⟩).inc == 1) = true := by decide
theorem test_treadle_wakes : leads (exec .treadleEvaluate (wTreadle true)) (fun t =>
    (t.slot user).state == .ready && t.reg user 4 == 8 && (t.slot user).pc == 0x1004) = true := by decide

/-- wMail at a full mailbox. -/
def fullBox (s : State) : State :=
  s.modCore 0 0 fun c => { c with boxes := tblSet [] 3 (List.replicate 64 (msg0 1)) c.boxes }
theorem witness_MessagesArriveAndReturn : (wMail mail0).net.find? (·.id == 5) = some { id := 5, packet := .mail mail0 }
    ∧ (wMail mail0).overtakes 5 mail0 = false ∧ ((wMail mail0).net.find? (·.id == 5)).all (fun q => (wMail mail0).mailReleased q mail0) = true
    ∧ w0.unsettled user = false ∧ (wMail mail0).leads 0 0 = .arrives
    ∧ (wMail mail0).boxRoom 0 0 3 = true ∧ ((wMail mail0).core 0 0).retired = false ∧ ((wMail mail0).slot user).inc = 1
    ∧ (wMail mail0).packet 5 ≠ some (.accepted user) := by decide
theorem test_message_arrives : leads (exec .messageArrival (wMail mail0)) (fun t => ((t.core 0 0).box 3).length == 1
    && t.net.map (·.packet) == [.accepted user]) = true := by decide
theorem test_message_stale : leads (exec .messageArrival (wMail { mail0 with chk := some (0, 2) })) (fun t =>
    t.net.map (·.packet) == [.returned { mail0 with chk := some (0, 2) } 0x07 0]) = true := by decide
theorem test_message_returns :
    leads (exec .messageReturn (evAt { w0 with net := [{ id := 5, packet := .returned mail0 0x08 0 }] } { id := 5 })) (fun t =>
    (t.slot user).state == .trapped && (t.core 0 0).traps.map (·.cause) == [0x08]) = true := by decide

/-! Threads -/

/-- w0 that spawns: g1 the handle of core 0, g2 the argument, g3 the PC. -/
def wSpawn : State := (w1 0).modSlot user fun x => x.setG 3 0x2000
/-- w0 that forks at an aligned PC. -/
def wFork : State := w1 0x2000
def entry0 : ForkEntry :=
  { pc := 0x2000, arg := 7, dom := 1, frm := 0, wlim := 0, jnl := false, parent := ⟨0, 0, 0, 1⟩, jparent := none, id := 5 }
/-- The deque of core 0 holds entries. -/
def wDeque (n : Nat) : State := wFork.modCore 0 0 fun c => { c with deque := List.replicate n entry0 }

theorem witness_ThreadsStart_requests : (wSpawn.slot user).jrec = none ∧ wSpawn.journaled = false ∧ wSpawn.plain [1, 2, 3] [3] = true
    ∧ handleOk (wSpawn.reg user 1) = true ∧ handleCore (wSpawn.reg user 1) = some 0 ∧ wSpawn.leads 0 0 = .arrives
    ∧ (wSpawn.reg user 3).toNat % 4 = 0 ∧ (w0.reg user 3).toNat % 4 ≠ 0 ∧ wFork.plain [1, 2] [3] = true
    ∧ (wDeque 31).curCore.deque.length < 32 ∧ 32 ≤ (wDeque 32).curCore.deque.length := by decide
theorem test_spawn : leads (exec (.spawn 3 1 2) wSpawn) (fun t => t.net.length == 1 && (t.slot user).state == .waitData
    && (t.slot user).parkDst == some 3) = true := by decide
theorem test_fork : leads (exec (.fork 5 1 2) (wDeque 31)) (fun t => (t.core 0 0).deque.length == 32 && t.reg user 5 == 1
    && (t.slot user).jcnt == 1) && leads (exec (.fork 5 1 2) (wDeque 32)) (fun t => t.reg user 5 == 0 && (t.slot user).jcnt == 0)
    = true := by decide

/-- A spawn request to core 0, and its answer. -/
def req0 : SpawnReq :=
  { frm := user, inc := 1, die := 0, core := 0, pc := 0x2000, arg := 7, dom := 3, frmode := 1, wlim := 9, jnl := false, notice := true,
    jparent := none }
def wReq : State := evAt { w0 with net := [{ id := 5, packet := .spawn req0 }], nextId := 6 } { id := 5 }
def wAnswer : State :=
  evAt { (w0.modSlot user fun x => { x with parkDst := some 5 }).enter user .waitData (.answer 5) with
    net := [{ id := 5, packet := .spawned req0 0x1011 }] } { id := 5 }
theorem witness_ThreadsStart : wReq.packet 5 = some (.spawn req0) ∧ wReq.released none 5 = true ∧ wReq.unitUp 0 readySkeins = true ∧ wReq.dieThere 0 0 = true
    ∧ (wReq.core 0 0).suspect = false ∧ (wReq.core 0 0).failed = false ∧ wReq.freeSlot 0 0 = some 1
    ∧ wReq.freeSlot 0 1 = some 0 ∧ wAnswer.packet 5 = some (.spawned req0 0x1011) ∧ (wAnswer.slot user).await = .answer 5
    ∧ (wDeque 1).freeSlot 0 0 = some 1 ∧ (wDeque 1).forkReady entry0 = true := by decide
/-- Core 1 of the skein has no work. -/
def wSteal : State := evAt (wDeque 1) { core := 1 }
theorem witness_ThreadsStart_steal : wSteal.freeSlot 0 1 = some 0 ∧ wSteal.victim 0 1 = some (0, 0)
    ∧ wSteal.loot 0 0 0 1 = some entry0 ∧ (wSteal.core 0 1).deque = [] ∧ wSteal.readyCount 0 1 = 0
    ∧ (wSteal.core 0 1).suspect = false ∧ (wSteal.core 0 1).failed = false := by decide
theorem test_spawn_starts : leads (exec .spawnRequest wReq) (fun t =>
    let x := t.slot ⟨0, 0, 1⟩
    x.pc == 0x2000 && x.g 1 == 7 && x.frm == 1 && x.wlim == 9 && x.dom == 3 && x.inc == 1 && x.exitTo == some (0, 0)
    && t.net.map (·.packet) == [.spawned req0 0x1101]) = true := by decide
theorem test_spawn_answer : leads (exec .spawnAnswer wAnswer) (fun t => t.reg user 5 == 0x1011 && (t.slot user).pc == 0x1004
    && (t.slot user).state == .ready) = true := by decide
theorem test_steal : leads (exec .steal wSteal) (fun t => (t.core 0 0).deque.isEmpty && (t.slot ⟨0, 1, 0⟩).pc == 0x2000
    && (t.slot ⟨0, 1, 0⟩).join == some ⟨0, 0, 0, 1⟩) = true := by decide
theorem test_deque_pop : leads (exec .dequePop (evAt (wDeque 1) {})) (fun t => (t.slot ⟨0, 0, 1⟩).pc == 0x2000) = true := by decide

/-- A join notice to the user thread, which has a child. -/
def wJoin : State :=
  evAt { (w0.modSlot user fun x => { x with jcnt := 1 }) with net := [{ id := 5, packet := .joined ⟨0, 0, 0, 1⟩ }] } { id := 5 }
theorem witness_ThreadsJoinAndExit : (w0.slot user).jcnt = 0 ∧ (wJoin.slot user).jcnt ≠ 0 ∧ (wJoin.slot user).inc = 1
    ∧ wJoin.packet 5 = some (.joined ⟨0, 0, 0, 1⟩) ∧ (wJoin.slot user).state ≠ .free ∧ w0.plain [] [3] = true
    ∧ w0.settled user = true ∧ (wHome (.store .d)).settled user = false ∧ w0.journaled = false
    ∧ (w0.slot user).role = .plain ∧ (w0.core 0 0).boxes = [] := by decide
theorem test_join : leads (exec .join wJoin) (fun t => (t.slot user).state == .waitData)
    && leads (exec .joinNotice wJoin) (fun t => (t.slot user).jcnt == 0 && t.net.isEmpty) = true := by decide
theorem test_yield : leads (exec .yield w0) (fun t => (t.slot user).yielding == [15] && (t.slot user).pc == 0x1004) = true := by decide
theorem test_self : leads (exec (.self 5) (evAt { w0 with cur := ⟨0, 0, 15⟩ } {})) (fun t => (t.slot ⟨0, 0, 15⟩).g 5 == 0x1f000) = true := by
  decide
theorem test_exit : leads (exec .exit { w0 with slots := tblSet {} 0 { thread0 with join := some ⟨0, 0, 5, 9⟩ } w0.slots })
    (fun t => (t.slot user).state == .free && (t.slot user).inc == 1 && t.net.map (·.packet) == [.joined ⟨0, 0, 5, 9⟩]) = true := by decide

/-- Core 0 is due for its check and holds more READY threads than its threshold. -/
def wCheck : State :=
  evAt { (List.range 12).foldl (fun (s : State) k => s.setSlot ⟨0, 0, BitVec.ofNat 4 k⟩ thread0) (w0.modCore 0 0 fun c => { c with thresh := 8 })
    with aclk := 2048 } {}
def image0 : SlotPacket := { frm := user, dest := ⟨0, 1, 0⟩, image := thread0 }
def wPacket : State := evAt { w0 with net := [{ id := 5, packet := .slotPacket image0 }], nextId := 6 } { id := 5 }
def wMoved (ok : Bool) : State :=
  evAt { w0.enter user .waitData .departure with net := [{ id := 5, packet := .slotAnswer image0 ok }] } { id := 5 }
theorem witness_MigrationMovesThreads : wPacket.packet 5 = some (.slotPacket image0) ∧ wPacket.freeSlot 0 1 = some 0
    ∧ (wPacket.core 0 1).suspect = false ∧ (wPacket.core 0 1).failed = false ∧ (wPacket.core 0 1).ctx = (wPacket.core 0 0).ctx
    ∧ ((wPacket.modCore 0 1 fun c => { c with retired := true }).freeSlot 0 1) = none
    ∧ ((wMoved true).slot user).await = .departure ∧ (wMoved true).packet 5 = some (.slotAnswer image0 true) := by decide
theorem witness_MigrationMovesThreads_check : (wCheck.core 0 0).retired = false ∧ (wCheck.core 0 0).halted = false
    ∧ (wCheck.core 0 0).checked < wCheck.aclk.toNat / 1024
    ∧ (let t := wCheck.setCore 0 0 { wCheck.core 0 0 with checked := 2 }
      (t.lightest 0 (t.skeinMates 0 0)).isSome ∧ (t.earliest ((coreSlots 0 0).filter t.eligible)).isSome
      ∧ (t.core 0 0).thresh.toNat < t.readyCount 0 0) := by decide
theorem test_slot_packet : leads (exec .slotPacket wPacket) (fun t => (t.slot ⟨0, 1, 0⟩).pc == 0x1000 && (t.slot ⟨0, 1, 0⟩).g 2 == 7
    && (t.slot ⟨0, 1, 0⟩).inc == 1 && t.net.map (·.packet) == [.slotAnswer image0 true]) = true := by decide
theorem test_migration_answer : leads (exec .migrationAnswer (wMoved true)) (fun t => (t.slot user).state == .free)
    && leads (exec .migrationAnswer (wMoved false)) (fun t => (t.slot user).state == .ready && (t.slot user).pc == 0x1000) = true := by decide

/-- The user thread is parked longer than its WLIM, at its core or at a home. -/
def wLimit (st : SlotState) (aw : Await) : State :=
  evAt { (w0.modSlot user fun x => { x with wlim := 1 }).enter user st aw with aclk := 4096 } {}
def wLimitHome : State :=
  { wLimit .parkWord (.access 5) with accs := [{ acc0 (.fe .take) with stage := .parked }] }
theorem witness_WaitLimits : (wLimit .parkMsg .retry).expired user = true ∧ (wLimit .parkMsg .retry).parkedRecord user = false
    ∧ (wLimit .parkMsg .retry).trapWaits user = false ∧ (wLimitHome.dropAccess 5).trapWaits user = false
    ∧ waitLimitSub .parkMsg = some 2 ∧ wLimitHome.expired user = true ∧ (wLimitHome.slot user).await = .access 5
    ∧ (wLimitHome.access 5).map (·.stage) = some .parked ∧ wLimitHome.net = []
    ∧ (evAt { wLimitHome with net := [{ id := 5, packet := .cancelled 5 user true }] } { id := 5 }).packet 5
      = some (.cancelled 5 user true) := by decide
theorem test_wait_limit : leads (exec .waitLimitExpiry (wLimit .parkMsg .retry)) (fun t =>
    (t.core 0 0).traps.map (fun r => (r.cause, r.sub)) == [(6, 2)]) = true := by decide
theorem test_wait_cancel : leads (exec .waitLimitExpiry wLimitHome) (fun t => t.net.map (·.packet) == [.cancelled 5 user true]) = true := by
  decide

/-- A network word for register n1 of core 0, and one that waits there. -/
def wNet : State :=
  evAt { (w0.modCore 0 0 fun c => { c with netIn := tblSet [] 1 [42] c.netIn }) with net := [{ id := 5, packet := .netWord user 1 43 }] } { id := 5 }
theorem witness_NetworkRegisters : wNet.packet 5 = some (.netWord user 1 43) ∧ wNet.wordBehind 5 user 1 = false
    ∧ (wNet.core 0 0).retired = false ∧ isNet 33 = true ∧ wNet.hazard [33] [5] = false ∧ wNet.parkedRecord user = false
    ∧ wNet.hasLink 0 0 1 = true ∧ wNet.hasLink 0 0 0 = false ∧ tblGet [] 1 wNet.curCore.netIn = [42]
    ∧ wNet.hasLink 0 0 2 = true ∧ tblGet [] 2 wNet.curCore.netIn = [] ∧ wNet.plain [1] [] = true
    ∧ wNet.hazard [1] [32] = false := by decide
theorem test_net_read : leads (exec (.addi 5 33 0) wNet) (fun t => t.reg user 5 == 42 && tblGet [] 1 (t.core 0 0).netIn == []) = true := by
  decide
theorem test_net_arrival : leads (exec .networkWordArrival wNet) (fun t => tblGet [] 1 (t.core 0 0).netIn == [42, 43]) = true := by decide

/-! Censuses, the directory and barriers -/

def entryOf (key : Word) (st : TileState) (l : List Word) : DirEntry := ⟨key, 0x500, st, l⟩
/-- The directory of core 0 holds key 6 (g1), in a state. -/
def wDir (st : TileState) : State := w0.modCore 0 0 fun c => { c with dir := [entryOf 6 st []] }
/-- The directory of core 0 holds n other keys. -/
def wDirN (n : Nat) : State :=
  w0.modCore 0 0 fun c => { c with dir := (List.range n).map fun k => entryOf (BitVec.ofNat 64 (k + 100)) .valid [] }
/-- g2 is the handle of core 1 of the die. -/
def wMove : State := (wDir .valid).modSlot user fun x => (x.setG 2 (1 <<< 44)).setG 3 0
theorem witness_TilesAndDirectories : w0.journaled = false ∧ w0.plain [1, 2] [3] = true ∧ ((wDir .valid).curCore.entry 6).isSome = true
    ∧ (wDirN 63).curCore.dir.length = 63 ∧ (wDirN 63).curCore.entry 6 = none ∧ 64 ≤ (wDirN 64).curCore.dir.length
    ∧ w0.plain [1] [3] = true ∧ (wDir .valid).curCore.entry 6 = some (entryOf 6 .valid [])
    ∧ wMove.plain [1, 2, 3] [3] = true ∧ handleOk (wMove.reg user 2) = true ∧ handleCore (wMove.reg user 2) = some 1
    ∧ (wMove.core 0 1).retired = false ∧ (wMove.core 0 1).failed = false := by decide
theorem test_diradd : leads (exec (.diradd 3 1 2) (wDirN 63)) (fun t => t.reg user 3 == 0 && (t.core 0 0).dir.length == 64
    && ((t.core 0 0).entry 6).map (·.addr) == some 7) = true
    ∧ leads (exec (.diradd 3 1 2) (wDirN 64)) (fun t => t.reg user 3 == 1) = true := by decide
theorem test_dirdel : leads (exec (.dirdel 3 1) (wDir .valid)) (fun t => t.reg user 3 == 0 && (t.core 0 0).dir == []) = true
    ∧ leads (exec (.dirdel 3 1) (wDir (.inflight 0 1))) (fun t => t.reg user 3 == 1 && (t.core 0 0).dir.length == 1) = true := by decide
theorem test_dirfind : leads (exec (.dirfind 3 1) (wDir .valid)) (fun t => t.reg user 3 == 0x500) = true
    ∧ leads (exec (.dirfind 3 1) w0) (fun t => t.reg user 3 == BitVec.allOnes 64) = true := by decide
theorem test_dirmove : leads (exec (.dirmove 3 1 2) wMove) (fun t =>
    ((t.core 0 0).entry 6).map (·.state) == some (.inflight 0 1) && (t.slot user).state == .waitData
    && t.reed.map (·.msg) == [.move user 6 0x500 []] && t.reed.map (·.dest) == [.core 0 1]) = true := by decide

/-- A reed message that has reached the skein node above core 1 of the die, its destination. -/
def wReed (m : ReedMsg) : State :=
  evAt { w0 with reed := [{ id := 5, msg := m, here := .skein 0 0, path := [.core 0 1] }], nextId := 6 } { id := 5 }
def entry1 (st : TileState) (l : List Word) (m : ReedMsg) : State := (wReed m).modCore 0 1 fun c => { c with dir := [entryOf 6 st l] }
def full1 : State := (wReed (.move user 6 0x500 [])).modCore 0 1 fun c => { c with dir := (wDirN 64).curCore.dir }
def wAck (m : ReedMsg) : State :=
  evAt { ((wDir (.inflight 0 1)).modSlot user fun x => { x with parkDst := some 3 }).enter user .waitData (.answer 4) with
    reed := [{ id := 5, msg := m, here := .skein 0 0, path := [.core 0 0] }], nextId := 6 } { id := 5 }
def pend0 : Pending := { census := 0x01000000, key := 6, addr := 0, pc := 0x2000, frm := 1, wlim := 0, dom := 0, jnl := false }
theorem witness_TilesAndDirectories_arrivals :
    ((wReed (.move user 6 0x500 [])).reedItem 5).isSome = true ∧ ((wReed (.move user 6 0x500 [])).reedItem 5).all (wReed (.move user 6 0x500 [])).reedReady = true
    ∧ ((wReed (.move user 6 0x500 [])).core 0 1).entry 6 = none
    ∧ (((entry1 .valid [] (.move user 6 0x500 [])).core 0 1).entry 6).isSome = true ∧ 64 ≤ (full1.core 0 1).dir.length
    ∧ (full1.core 0 1).entry 6 = none ∧ (full1.core 0 1).retired = false ∧ (full1.core 0 1).failed = false
    ∧ ((wAck (.ack user 6)).reedItem 5).all (wAck (.ack user 6)).reedReady = true
    ∧ ((wAck (.refuse user 6 4)).reedItem 5).all (wAck (.refuse user 6 4)).reedReady = true := by decide
theorem test_move_arrival : leads (exec .moveArrival (wReed (.move user 6 0x500 []))) (fun t =>
    ((t.core 0 1).entry 6).map (·.addr) == some 0x500 && t.reed.map (·.msg) == [.ack user 6]) = true
    ∧ leads (exec .moveArrival (entry1 .valid [] (.move user 6 0x500 []))) (fun t => t.reed.map (·.msg) == [.refuse user 6 4]) = true := by
  decide
theorem test_ack_arrival : leads (exec .ackArrival (wAck (.ack user 6))) (fun t => t.reg user 3 == 0 && (t.core 0 0).dir == []
    && (t.slot user).state == .ready && (t.slot user).pc == 0x1004) = true := by decide
theorem test_refuse_arrival : leads (exec .refuseArrival (wAck (.refuse user 6 4))) (fun t => t.reg user 3 == 4
    && ((t.core 0 0).entry 6).map (·.state) == some .valid) = true := by decide
def wFwd (st : TileState) (l : List Word) (back : Bool) : State := entry1 st l (.forward (0, 0) pend0 back)
theorem witness_TilesAndDirectories_forwards :
    ((wFwd .valid [] false).reedItem 5).all (wFwd .valid [] false).reedReady = true
    ∧ ((wFwd .valid [] false).core 0 1).entry 6 = some (entryOf 6 .valid [])
    ∧ ((wFwd (.inflight 0 2) [] false).core 0 1).entry 6 = some (entryOf 6 (.inflight 0 2) [])
    ∧ ((wReed (.forward (0, 0) pend0 true)).core 0 1).entry 6 = none := by decide
theorem test_forward : leads (exec .forwardArrival (wFwd .valid [] false)) (fun t => (t.core 0 1).pending.map (·.addr) == [0x500]) = true
    ∧ leads (exec .forwardArrival (wFwd (.inflight 0 2) [] false)) (fun t => t.reed.map (·.dest) == [.core 0 2]) = true := by decide
/-- 01 R30, 09 R294: from core 1 up to the skein node and down to core 2; to another skein of the stripe and segment by way of
the node above both. -/
theorem test_reed_path : w0.reedPath (.core 0 1) (.core 0 2) = [.skein 0 0, .core 0 2]
    ∧ w0.reedPath (.core 0 1) (.core 0 17) = [.skein 0 0, .quad 0 0, .skein 0 1, .core 0 17] := by decide

/-- An open census of core 0 on its skein; g1 is its name. -/
def census0 (cm : Combine) (v : Option Word) (done : Bool) (note : Option (BitVec 5)) : Census :=
  { idx := 0, ident := 0, dom := .k, combine := cm, key := 6, notify := note, reported := List.range 16 ++ (List.range 4).map (131072 + ·), owed := 2, answered := 2,
    lost := 0, value := v, complete := done }
def wCensus (cm : Combine) (v : Option Word) (done : Bool) (note : Option (BitVec 5)) : State :=
  evAt ((w1 0).modCore 0 0 fun c => { c with censuses := [census0 cm v done note], censusSeq := 1 }) {}
theorem witness_CensusInstructionsAndValues : (w1 0).plain [1, 2] [3] = true ∧ ((w0.reg user 2).extractLsb' 0 57).toNat % 4 ≠ 0
    ∧ w0.curCore.freeCensus = some 0 ∧ (w0.modCore 0 0 fun c =>
        { c with censuses := (List.range 8).map fun k => { census0 .sum none false none with idx := BitVec.ofNat 3 k } }).curCore.freeCensus = none
    ∧ w0.ownCensus 6 = none ∧ (wCensus .sum none true none).ownCensus 0 = some (census0 .sum none true none)
    ∧ (wCensus .sum none false none).ownCensus 0 = some (census0 .sum none false none)
    ∧ (census0 .min none true none).combine = .min ∧ (census0 .max none true none).value = none := by decide
theorem test_solicit : leads (exec (.solicit .k .max 3 1 2) ((w1 6).modSlot user fun x => x.setG 2 0x8c00000000002000)) (fun t =>
    t.reg user 3 == 0 && (t.core 0 0).censuses.map (fun c => (c.dom, c.combine, c.notify)) == [(Scope.k, Combine.max, some (3 : BitVec 5))]
    && t.reed.map (·.msg) == [.solicit { pend0 with census := 0, frm := 0 } .k]) = true := by decide
theorem test_cwait : leads (exec (.cwait 3 1) (wCensus .sum none true none)) (fun t => t.reg user 3 == 2) = true
    ∧ leads (exec (.cwait 3 1) (wCensus .sum none false none)) (fun t => (t.slot user).state == .parkCensus) = true := by decide
theorem test_cpoll : leads (exec (.cpoll 3 1) (wCensus .sum none true none)) (fun t => t.reg user 3 == 1) = true
    ∧ leads (exec (.cpoll 3 1) (w1 0)) (fun t => (t.core 0 0).traps.map (·.cause) == [0x0c]) = true := by decide
theorem test_cresult : leads (exec (.cresult 3 1) (wCensus .max (some 9) true none)) (fun t => t.reg user 3 == 9
    && (t.core 0 0).censuses == []) = true
    ∧ leads (exec (.cresult 3 1) (wCensus .max none true none)) (fun t => t.reg user 3 == 0x8000000000000000) = true := by decide

/-- A solicit of core 0 that stands before core 1. -/
def wSolicit (l : List Word) : State :=
  (entry1 .valid l (.solicit { pend0 with census := 0 } .k)).modCore 0 0 fun c =>
    { c with censuses := [{ census0 .sum none false none with reported := [], owed := 0, answered := 0 }] }
def wSolicit1 (l : List Word) : State := { wSolicit l with ev := { id := 5, core := 1 } }
def wRespond : State := evAt (w0.modCore 0 1 fun c => { c with pending := [{ pend0 with addr := 0x500 }] }) { core := 1 }
/-- The solicit comes to a node. -/
def solicitAt (n : ReedNode) : ReedItem := { id := 5, msg := .solicit { pend0 with census := 0 } .k, here := .quad 0 0, path := [n] }
def wSolicitAt (n : ReedNode) : State := { wSolicit1 [] with reed := [solicitAt n] }
theorem witness_CensusesRun : ((wSolicit1 []).reedItem 5).map (·.msg) = some (.solicit { pend0 with census := 0 } .k)
    ∧ ((wSolicit1 []).reedItem 5).all (wSolicit1 []).reedReady = true
    ∧ ((wSolicit1 []).reedItem 5).map (·.path) = some [.core 0 1]
    ∧ (wSolicitAt (.skein 0 0)).reedReady (solicitAt (.skein 0 0)) = true ∧ (wSolicitAt (.skein 0 0)).reedFirst (solicitAt (.skein 0 0)) = true
    ∧ ((wSolicit1 []).core 0 1).entry 6 = some (entryOf 6 .valid [])
    ∧ ((wSolicit1 [0]).core 0 1).entry 6 = some (entryOf 6 .valid [0]) ∧ ((wSolicit1 []).core 0 2).entry 6 = none
    ∧ (wRespond.core 0 1).pending = [{ pend0 with addr := 0x500 }] ∧ wRespond.freeSlot 0 1 = some 0
    ∧ ((wCensus .sum none false none).core 0 0).censuses.find? (fun x => x.idx.toNat == 0) = some (census0 .sum none false none)
    ∧ (census0 .sum none false none).answered = (census0 .sum none false none).owed
    ∧ (∀ k ∈ (wCensus .sum none false none).domainLeaves .k (0, 0), k ∈ (census0 .sum none false none).reported) := by decide
theorem test_solicit_arrival : leads (exec .solicitArrival (wSolicit1 [])) (fun t =>
    (t.core 0 1).pending.map (fun p => (p.addr, p.key, p.pc)) == [((0x500 : Word), (6 : Word), (0x2000 : Word))]
    && (t.core 0 0).censuses.map (fun c => (c.owed, c.reported)) == [(1, [1])] && t.reed == []) = true
    ∧ leads (exec .solicitArrival (wSolicit1 [0])) (fun t => (t.core 0 0).censuses.map (fun c => (c.owed, c.reported)) == [(0, [1])])
      = true := by decide
/-- 01 R30: a skein node has 16 cores and 4 sheds below it; a shed owes nothing. -/
theorem test_solicit_tree : leads (exec .solicitArrival (wSolicitAt (.skein 0 0))) (fun t => t.reed.length == 20) = true
    ∧ leads (exec .solicitArrival (wSolicitAt (.shed 0 2))) (fun t => (t.core 0 0).censuses.map (fun c => (c.owed, c.reported))
      == [(0, [131074])]) = true := by decide
theorem test_responder_start : leads (exec .responderStart wRespond) (fun t =>
    let x := t.slot ⟨0, 1, 0⟩
    x.pc == 0x2000 && x.g 1 == 0x500 && x.g 2 == 6 && x.g 3 == 0x01000000 && x.frm == 1) = true := by decide
theorem test_census_complete : leads (exec .censusComplete (wCensus .sum (some 9) false none)) (fun t =>
    (t.core 0 0).censuses.map (·.complete) == [true]) = true
    ∧ leads (exec .censusComplete (wCensus .sum (some 9) false (some 3))) (fun t => (t.core 0 0).censuses == []
      && t.net.map (fun q => match q.packet with | .mail m => (m.box, m.words) | _ => ((0 : BitVec 5), [])) == [((3 : BitVec 5), [0, 2, 9])])
      = true := by decide

/-- A barrier object at g1 = 0x40 of the scratchpad with target 2, phase 7 and a count. -/
def wBarrier (n : Word) (op : MemOp) (v : Word) : State :=
  let s := wHome op
  let s := s.writeHome 0 (paOf 0 1 0x40) 8 0x0000000700000002
  let s := s.writeHome 0 (paOf 0 1 0x48) 8 n
  { s with accs := [{ acc0 op with data := v }] }
/-- The user thread is journaled. -/
def wLogged : State := (w0.modSlot user fun x => { x with jnl := true, jrec := some 0 }).modDie 0 fun x => { x with jnlSize := 64 }
theorem witness_Barriers : 4 > (w1 0x40).outstanding user ∧ isPriv user = false ∧ (w1 0x40).plain [1] [3] = true
    ∧ (w1 0x40).plain [1, 2] [0] = true ∧ (w1 0x48).plain [1, 2] [0] = true ∧ w0.journaled = false
    ∧ wLogged.journaled = true
    ∧ ((wBarrier 0 .arrive 0).keySlot 0 (paOf 0 1 0x40)).xts = false
    ∧ ((wBarrier 0 .arrive 0).keySlot 0 (paOf 0 1 0x40 + 8)).xts = false := by decide
theorem witness_Barriers_phases :
    ((wBarrier 1 .arrive 0).arriveAt 0 (paOf 0 1 0x40)).2 = (7, true) ∧ ((wBarrier 0 .arrive 0).arriveAt 0 (paOf 0 1 0x40)).2 = (7, false)
    ∧ phaseDone 8 7 = true ∧ phaseDone 7 7 = false ∧ phaseDone 0x80000000 0 = true ∧ phaseDone 0x80000001 0 = false := by decide
theorem test_arrive : leads (exec (.arriveRlx 3 1) (w1 0x40)) (fun t => t.accs.map (·.op) == [.arrive] && (t.slot user).state == .ready)
    = true ∧ leads (exec (.arriveRel .d 3 1) (w1 0x40)) (fun t => t.accs.map (fun a => (a.rel, a.scope)) == [(true, Scope.d)]) = true := by
  decide
theorem test_waitph : leads (exec (.waitph .p 1 2) (w1 0x40)) (fun t => t.accs.map (fun a => (a.op, a.data)) == [(.waitPhase, (7 : Word))]
    && (t.slot user).state == .waitData) = true
    ∧ leads (exec (.waitph .p 1 2) (w1 0x48)) (fun t => (t.core 0 0).traps.map (fun r => (r.cause, r.sub)) == [(0x20, 4)]) = true := by decide
theorem test_arrwait : leads (exec (.arrwait .p 3 1) (w1 0x40)) (fun t => t.accs.map (fun a => (a.op, a.acq, a.rel)) == [(.arriveWait, true, true)])
    = true ∧ leads (exec .homeBankOperation (wBarrier 0 .arriveWait 0)) (fun t => t.accs.map (·.stage) == [.parked]) = true := by decide
theorem test_arrive_home : leads (exec .homeBankOperation (wBarrier 1 .arrive 0)) (fun t =>
    t.readHome 0 (paOf 0 1 0x40) 8 == 0x0000000800000002 && t.readHome 0 (paOf 0 1 0x48) 8 == 0 && t.accs.map (·.stage) == [.done]
    && t.accs.map (·.result) == [7]) = true
    ∧ leads (exec .homeBankOperation (wBarrier 0 .waitPhase 7)) (fun t => t.accs.map (·.stage) == [.parked]) = true := by decide

/-! Traps, system registers and the supervisor -/

/-- The supervisor's slot of core 0. -/
def boss : SlotId := ⟨0, 0, 15⟩
/-- The supervisor executes, with values in g1, g2 and g3; the user thread is in a state. -/
def wBoss (st : SlotState) (a b c : Word) : State :=
  let x : SlotSt := ((({ state := .ready, pc := 0x9000 } : SlotSt).setG 1 a).setG 2 b).setG 3 c
  evAt { (w0.setSlot user { thread0 with state := st }).setSlot boss x with cur := boss } {}
def rec0 : TrapRec :=
  { cause := 5, sub := 0, slot := 0, inc := 1, gone := false, parks := true, pc := 0x1004, word := 0x77, val := 9, aux := 3, len := 0
    scope := 0, multi := false, msg := [] }
/-- The same with a record in the trap queue. -/
def wTrapped (a : Word) : State := (wBoss .trapped a 0 0).modCore 0 0 fun c => { c with traps := [rec0] }
/-- The slot word of the user thread. -/
def userWord : Word := 0x10

theorem witness_TrapsAndReturns : isPriv user = false ∧ w0.parkedRecord user = false ∧ isPriv boss = true
    ∧ ((wBoss .ready 0 0 0).die 0).faultEn = false
    ∧ (((wBoss .ready 0 0 0).modDie 0 fun d => { d with faultEn := true, faultCore := 5 }).die 0).faultEn = true
    ∧ w0.plain [1] [] = true ∧ (wTrapped 0x1f).plain [1] [] = true ∧ (0x1f#64).extractLsb' 0 4 = (15 : BitVec 4)
    ∧ ((wTrapped 0x20).slot user).inc ≠ (0x20#64).extractLsb' 4 8
    ∧ ((wBoss .ready userWord 0 0).slot user).state ≠ .trapped ∧ ((wTrapped userWord).slot user).state = .trapped
    ∧ (wTrapped userWord).slotAccs boss = [] ∧ (wTrapped userWord).curCore.rslot.getLsbD 0 = false := by decide
theorem test_trap : leads (exec (.trap 1) w0) (fun t => (t.slot user).state == .trapped && (t.slot user).pc == 0x1004
    && (t.core 0 0).traps.map (fun r => (r.cause, r.val, r.pc)) == [((5 : Byte), (6 : Word), (0x1004 : Word))]) = true := by decide
theorem test_eret : leads (exec (.eret 1) (wTrapped userWord)) (fun t => (t.slot user).state == .ready && (t.slot user).pc == 0x1000
    && (t.slot boss).pc == 0x9004) = true
    ∧ leads (exec (.eret 1) (wTrapped 0x20)) (fun t => (t.slot boss).svstat == 2) = true := by decide
theorem test_supervisor_fault : leads (.next ((wBoss .ready 0 0 0).takeTrap boss 0x20 0 0x9000 0 0x41 0))
    (fun t => (t.slot boss).state == .trapped && (t.core 0 0).traps == [] && (t.die 0).errsum == 0x100) = true := by decide

theorem witness_SystemRegisters : w0.plain [1] [3] = true ∧ (wTrapped 0x100).plain [1] [3] = true
    ∧ ((wTrapped 0x100).core 0 0).traps = [rec0] ∧ (0x100#64).getLsbD 8 = true ∧ rec0.len = 0
    ∧ ((wBoss .ready 0 0 0).core 0 0).traps = [] ∧ (4#64).extractLsb' 0 3 = (4 : BitVec 3)
    ∧ ((5#64).extractLsb' 0 3 : BitVec 3).toNat > 4 ∧ ((16#64).extractLsb' 0 5 : BitVec 5).toNat ≤ 16
    ∧ ((17#64).extractLsb' 0 5 : BitVec 5).toNat > 16 := by decide
theorem test_sysr : leads (exec (.sysr 3 0x113) (wTrapped 0)) (fun t => t.reg boss 3 == 0x1004) = true
    ∧ leads (exec (.sysr 3 6) (wTrapped 0)) (fun t => t.reg boss 3 == 8) = true := by decide
theorem test_sysw : leads (exec (.sysw 0x110 1) (wTrapped 0x100)) (fun t => (t.core 0 0).traps == []) = true
    ∧ leads (exec (.sysw 0x101 1) (wTrapped 0xab010123)) (fun t => (t.core 0 0).ctx == 0x123 && (t.core 0 0).phys
      && (t.core 0 0).pkey == 0xab) = true := by decide
theorem test_sysw_traps : leads (exec (.sysw 5 1) w0) (fun t => (t.core 0 0).traps.map (fun r => (r.cause, r.sub, r.val)) ==
      [((1 : Byte), (3 : Byte), (5 : Word))]) = true
    ∧ leads (exec (.sysr 3 0x110) w0) (fun t => (t.core 0 0).traps.map (fun r => (r.cause, r.sub)) == [((2 : Byte), (1 : Byte))]) = true := by
  decide

/-- A message in mailbox 3 of core 0. -/
def wBossBox : State := (wBoss .ready 8 0 0).modCore 0 0 fun c => { c with boxes := tblSet [] 3 [⟨[1], .c, none⟩] c.boxes }
def tlb0 (asid : BitVec 16) (v : Nat) (g : Bool) : TlbEntry := ⟨asid, v, 0, 4096, if g then 0x800 else 0⟩
/-- TLB entries of core 1: two of ASID 7, one of them global, and one of ASID 8. -/
def wTlb : State :=
  ((wBoss .ready 0x3008 7 0).modCore 0 1 fun c => { c with tlb := [tlb0 7 0x3000 false, tlb0 7 0x5000 true, tlb0 8 0x3000 false] }).modDie 0
    fun d => { d with walks := [⟨7, 2, 0, 1⟩] }
theorem witness_PrivilegedInstructions : isPriv w0.cur = false ∧ isPriv wBossBox.cur = true ∧ wBossBox.plain [1] [] = true
    ∧ (wTrapped 0).curCore.traps ≠ [] ∧ wBossBox.curCore.anyMessage 8 = true ∧ (wBoss .ready 8 0 0).curCore.traps = []
    ∧ (wBoss .ready 8 0 0).curCore.anyMessage 8 = false ∧ wBossBox.coreBusy 0 0 = false ∧ (wHome (.store .d)).coreBusy 0 0 = true
    ∧ tblWf {} wTlb.cores = true ∧ wTlb.plain [2] [] = true ∧ wTlb.plain [1, 2] [] = true := by decide
theorem test_priv : leads (exec .halt w0) (fun t => (t.core 0 0).traps.map (fun r => (r.cause, r.sub)) == [((2 : Byte), (0 : Byte))]
    && !(t.core 0 0).halted) = true ∧ leads (exec .halt wBossBox) (fun t => (t.core 0 0).halted) = true := by decide
theorem test_wfi : leads (exec (.wfi 1) wBossBox) (fun t => (t.slot boss).pc == 0x9004 && (t.slot boss).state == .ready) = true
    ∧ leads (exec (.wfi 1) (wBoss .ready 8 0 0)) (fun t => (t.slot boss).pc == 0x9000 && (t.slot boss).state == .parkMsg) = true := by decide
theorem test_tlbinv : leads (exec .tlbinv wTlb) (fun t => (t.core 0 1).tlb == [] && (t.die 0).walks == []) = true
    ∧ leads (exec (.tlbinvAsid 2) wTlb) (fun t => (t.core 0 1).tlb == [tlb0 7 0x5000 true, tlb0 8 0x3000 false]) = true
    ∧ leads (exec (.tlbinvPage 1 2) wTlb) (fun t => (t.core 0 1).tlb == [tlb0 7 0x5000 true, tlb0 8 0x3000 false]) = true := by decide

/-- SPILL of the user thread, whose word is in g1, to 0x400 of the scratchpad (g2); the image at that address. -/
def wSpill : State := wBoss .trapped userWord (bootPc 0 + 0x400) 0
def wSpilled : State := ((partsStored boss (bootPc 0 + 0x400)
  (((wSpill.cancelWait user).imageWords user).zipIdx.map fun p => (8 * p.2, 8, p.1)) (wSpill.cancelWait user))).getD wSpill
def wImage : State :=
  (wSpilled.setSlot user { thread0 with state := .free }).setSlot boss (((wBoss .free 0 0 0).slot boss).setG 1 (bootPc 0 + 0x400))
theorem witness_SpillFillAndSlotRegisters : wSpill.plain [2, 1] [] = true ∧ (wSpill.slot user).inc = 1 ∧ (wSpill.slot user).pre = true
    ∧ wSpill.spillWaits user = false ∧ wSpill.addressFault boss (bootPc 0 + 0x400) 6 = none
    ∧ (partsStored boss (bootPc 0 + 0x400) (((wSpill.cancelWait user).imageWords user).zipIdx.map fun p => (8 * p.2, 8, p.1))
      (wSpill.cancelWait user)).isSome = true ∧ (wSpill.cancelWait user).journaled = false ∧ (wSpill.cancelWait user).cur = boss
    ∧ (wSpill.cancelWait user).addressFault boss (bootPc 0 + 0x400) 6 = none := by decide
theorem witness_SpillFillAndSlotRegisters_stores : (wSpill.cancelWait user).StoresRecord (bootPc 0 + 0x400) 6
    ((wSpill.cancelWait user).imageWords user) wSpilled :=
  storesRecord_of_stored _ _ _ _ _ (by decide) (by decide) (by decide)
theorem witness_SpillFillAndSlotRegisters_reads : wImage.plain [1] [3] = true ∧ ∃ ws t, wImage.ReadsRecord (bootPc 0 + 0x400) 6 48 ws t
    ∧ t.cur = boss ∧ t.freeSlot 0 0 = some 0 ∧ (threadOfImage ws).map (·.2) = some 0 ∧ (t.core 0 0).spilled = []
    ∧ (t.core 0 0).ctx = t.curCore.ctx :=
  ⟨by decide, ((doublesFound boss needR (bootPc 0 + 0x400) (List.range 48) [] wImage).getD ([], wImage)).1,
    ((doublesFound boss needR (bootPc 0 + 0x400) (List.range 48) [] wImage).getD ([], wImage)).2,
    readsRecord_of_found _ _ _ _ _ _ (by decide) (by decide), by decide⟩
theorem test_spill : leads (exec (.spill 1 2) wSpill) (fun t => (t.slot user).state == .free && (t.slot user).inc == 1
    && (t.slot user).regs == [] && t.readHome 0 (paOf 0 1 0x400) 8 == 6 && t.readHome 0 (paOf 0 1 0x4f8) 8 == 0x1000
    && t.readHome 0 (paOf 0 1 0x508) 8 == 0x03e00000000a0200) = true := by decide
theorem test_fillslot : leads (exec (.fillslot 3 1) wImage) (fun t => t.reg boss 3 == 0 && (t.slot user).state == .trapped
    && (t.slot user).inc == 2 && (t.slot user).g 1 == 6 && (t.slot user).g 4 == (1#64 <<< 63) && (t.slot user).pc == 0x1000) = true := by
  decide
/-- SLOTREG of a register of the TRAPPED user thread. -/
def wSlotreg (n : Word) : State := wBoss .trapped userWord n 0x55
theorem witness_SpillFillAndSlotRegisters_registers : isPriv boss = true ∧ (wSlotreg 2).plain [1, 2] [3] = true ∧ (wSlotreg 2).plain [1, 2, 3] [] = true
    ∧ ((wSlotreg 2).slot user).inc = 1 ∧ ((wSlotreg 2).slot user).state ∉ [SlotState.free, .ready, .waitData, .mx]
    ∧ (wSlotreg 2).awaited user = [] ∧ (wSlotreg 0x40).reg boss 2 = 0x40 ∧ (wSlotreg 2).reg boss 2 = 0#58 ++ 2#6
    ∧ ((wBoss .ready userWord 2 0).slot user).state ∈ [SlotState.free, .ready, .waitData, .mx] := by decide
theorem test_slotreg_r : leads (exec (.slotregR 3 1 2) (wSlotreg 2)) (fun t => t.reg boss 3 == 7 && (t.slot boss).svstat == 0) = true
    ∧ leads (exec (.slotregR 3 1 2) (wSlotreg 0x40)) (fun t => t.reg boss 3 == 0x1000) = true := by decide
theorem test_slotreg_w : leads (exec (.slotregW 3 1 2) (wSlotreg 2)) (fun t => t.reg user 2 == 0x55) = true
    ∧ leads (exec (.slotregW 3 1 2) (wSlotreg 0)) (fun t => (t.slot boss).svstat == 5) = true := by decide

/-! The life of an access, the draft, device registers -/

/-- The supervisor, whose core is in PHYS, has started an access of the scratchpad. -/
def wStarted (i : Instr) : State := { after (exec i (wBoss .ready (bootPc 0 + 0x40) 0 0)) with ev := { id := 0 } }
def acc1 (i : Instr) : Access := ((wStarted i).access 0).getD (acc0 .arrive)
/-- The core's context is on and its tables are empty, so that every walk faults. -/
def wUnmapped (xf : Bool) (i : Instr) : State :=
  { after (exec i ((((w1 0x1040).modCore 0 0 fun c => { c with phys := false })).modDie 0 fun d =>
      { d with boot := { d.boot with ready := BitVec.allOnes 27, present := true, good := 1 }, xfEn := xf, xfCore := 9, xfBox := 2, ctxs := tblSet {} 0 { root := 0x10, en := true } d.ctxs })) with ev := { id := 0 } }
theorem witness_AccessesTranslateAndComplete :
    (wStarted (.ldD 3 1 0)).access 0 = some (acc1 (.ldD 3 1 0)) ∧ (acc1 (.ldD 3 1 0)).stage = .walk
    ∧ (wStarted (.ldD 3 1 0)).finderBlocked (acc1 (.ldD 3 1 0)) = false ∧ (acc1 (.ldD 3 1 0)).op.isBarrier = false
    ∧ (match (wStarted (.ldD 3 1 0)).accessReach (acc1 (.ldD 3 1 0)) with
        | .ok pa _ _ => pa == paOf 0 1 0x40
        | _ => false) = true
    ∧ (match (wUnmapped true (.ldD 3 1 0)).accessReach (acc1 (.ldD 3 1 0)) with
        | .fault _ _ _ => true
        | _ => false) = true
    ∧ (match (wUnmapped false (.ldD 3 1 0)).accessReach (((wUnmapped true (.ldD 3 1 0)).access 0).getD (acc0 .arrive)) with
        | .fault _ _ _ => true
        | _ => false) = true
    ∧ ((wUnmapped true (.ldD 3 1 0)).die 0).held = [] ∧ (wUnmapped true (.ldD 3 1 0)).exempt user = false
    ∧ ((wUnmapped true (.ldD 3 1 0)).slot user).await ≠ .access 0
    ∧ ((wUnmapped true (.take .c 3 1)).slot user).await = .access 0 := by decide
theorem test_page_walk : leads (exec .pageWalk (wStarted (.ldD 3 1 0))) (fun t =>
    t.accs.map (fun a => (a.stage, a.pa)) == [(.home, paOf 0 1 0x40)]) = true
    ∧ leads (exec .pageWalk (wUnmapped true (.take .c 3 1))) (fun t => t.accs.map (fun a => (a.stage, a.detached)) == [(.held, true)]
      && (t.slot user).pc == 0x1004 && (t.slot user).state == .ready && (t.die 0).held.map (·.fid) == [0]
      && t.net.map (fun q => match q.packet with | .mail m => (m.core, m.box) | _ => (0, 0)) == [((9 : CoreNo), (2 : BitVec 5))]) = true := by
  decide
theorem test_walk_fails : leads (exec .pageWalk (wUnmapped false (.ldD 3 1 0))) (fun t => t.accs.map (·.stage) == [.failed]
    && (t.slot user).fails.length == 1) = true := by decide

/-- The access of the user thread is performed, with a result. -/
def wDone (op : MemOp) (acq wait : Bool) : State :=
  let s := { w0 with accs := [{ acc0 op with stage := .done, result := 99, acq }], ev := { id := 5 } }
  if wait then s.enter user .waitData (.access 5) else s
def wFeDone : State :=
  evAt { wDone (.fe .take) true true with net := [{ id := 7, packet := .feDone 5 }] } { id := 7 }
def wBack (b : Bool) : State :=
  { ((wBarrier 0 .waitPhase 6).enter user .waitData (.access 5)) with
    accs := [{ acc0 .waitPhase with acq := true, data := 6 }]
    reed := [{ id := 7, msg := .barrier 5 b, here := .skein 0 0, path := [.core 0 0] }], nextId := 8, ev := { id := 7 } }
def wPoll (op : MemOp) (n : Word) : State :=
  { (wDone op true true).setFull (paOf 0 1 0x40) with
    accs := [{ acc0 op with stage := .polling, acq := true }], ev := { id := 5 }, aclk := n }
theorem witness_AccessesTranslateAndComplete_ends : (wDone (.load .d) false false).access 5 = some { acc0 (.load .d) with stage := .done, result := 99 }
    ∧ (wDone (.load .d) false false).completionSent 5 = false ∧ (w0.slot user).inc = 1 ∧ (w0.slot user).await ≠ .access 5
    ∧ ((wDone (.fe .take) true true).slot user).await = .access 5 ∧ ((wDone (.fe .take) true true).slot user).state ≠ .trapped
    ∧ wFeDone.packet 7 = some (.feDone 5) ∧ (wFeDone.access 5).map (·.ok) = some true
    ∧ ((wBack true).reedItem 7).all (wBack true).reedReady = true ∧ (wBack false).objectPoisoned (paOf 0 1 0x40) = false
    ∧ (wBack false).mayPerform { acc0 .waitPhase with acq := true, data := 6 } = true
    ∧ phaseDone ((wBack false).phaseOf 0 (paOf 0 1 0x40)) 6 = true ∧ (0 : Nat) < 217
    ∧ ((wPoll (.fe .lde) 217).aclk - 0).toNat = 217 ∧ (wPoll (.fe .lde) 217).orphaned (paOf 0 1 0x40) = false
    ∧ (wPoll (.fe .lde) 217).isPoisoned (paOf 0 1 0x40) = false ∧ (wPoll (.fe .lde) 217).isFull (paOf 0 1 0x40) = true := by decide
theorem test_access_result : leads (exec .accessResult (wDone (.load .d) false false)) (fun t => t.reg user 3 == 99 && t.accs == []
    && (t.slot user).pc == 0x1000) = true
    ∧ leads (exec .accessResult (wDone (.fe .take) true true)) (fun t => t.reg user 3 == 99 && (t.slot user).pc == 0x1004) = true := by decide
theorem test_fe_completion : leads (exec .remoteFeCompletion wFeDone) (fun t => t.reg user 3 == 99 && (t.slot user).pc == 0x1004
    && t.net == []) = true := by decide
theorem test_remote_arrival : leads (exec .remoteArrival (wBack true)) (fun t => (t.slot user).pc == 0x1004 && t.reed == []) = true
    ∧ leads (exec .remoteArrival (wBack false)) (fun t => t.reed.map (·.msg) == [.barrier 5 true]) = true := by decide
theorem test_polling : leads (exec .pollingParkRetry (wPoll (.fe .lde) 216)) (fun t => t.accs.map (·.stage) == [.polling]) = true
    ∧ leads (exec .pollingParkRetry (wPoll (.fe .lde) 217)) (fun t => t.accs.map (·.stage) == [.done]) = true := by decide

/-- Shed 0 runs; slot 56 holds a word, and its access is performed. -/
def wNodeAcc (w : Inst) (op : MemOp) (ok : Bool) : State :=
  { (w0.modShed 0 0 fun x => { x with state := .running, words := [(56, w)], nctx := 1 }) with
    accs := [{ acc0 op with agent := .node 0 0 56 0, stage := .done, result := 99, ok }], ev := { id := 5 } }
theorem witness_AccessesTranslateAndComplete_nodes : (wNodeAcc 0x8807ffff (.load .d) true).access 5
      = some { acc0 (.load .d) with agent := .node 0 0 56 0, stage := .done, result := 99 }
    ∧ ((wNodeAcc 0x8807ffff (.load .d) true).shed 0 0).stopped 56 = false ∧ ((wNodeAcc 0x8807ffff (.load .d) true).shed 0 0).fires = true
    ∧ target ((0x8807ffff#32).extractLsb' 9 9) = some .none ∧ target ((0x8807ffff#32).extractLsb' 0 9) = some .none
    ∧ (wNodeAcc 0x8807ffff (.fe .trytake) false).accs.length = 1 := by decide
theorem test_node_completion : leads (exec .memoryNodeCompletion (wNodeAcc 0x8807ffff (.load .d) true)) (fun t => t.accs == []) = true := by
  decide

/-- The draft of die 0: CUR is 5 and holds a list at expert 6 (g1). -/
def draft0 : HeddleSt := { en := true, cur := 5, other := 6, ost := 1, curs := [(6, 0x111)], oths := [(6, 0x222)], placeCore := 3, placeBox := 4 }
def wDraft (b : Word) : State := (w0.modSlot user fun x => x.setG 2 b).modHeddle 0 fun _ => draft0
theorem witness_DraftsAndPlacement : (wDraft 0).plain [1, 2] [3] = true ∧ (0x10005#64).getLsbD 16 = true
    ∧ ((wDraft 0).heddle 0).cur = 5 ∧ ((wDraft 0).heddle 0).ost ≠ 0 ∧ ((wDraft 0).slot user).pinned = none
    ∧ (((wDraft 0).modSlot user fun x => { x with pinned := some 6 }).slot user).pinned = some (((wDraft 0).reg user 1).extractLsb' 0 16)
    ∧ (wDraft 0).dieThere 0 6 = false ∧ (wDraft 0).dieThere 0 0 = true ∧ (0xa46 ≤ (0xa46#64 : Word).toNat) := by decide
theorem test_draftget : leads (exec (.draftget 3 1 2) (wDraft 0)) (fun t => t.reg user 3 == 0x111) = true
    ∧ leads (exec (.draftget 3 1 2) (wDraft 0x10006)) (fun t => t.reg user 3 == 0x222) = true := by decide
theorem test_draftpin : leads (exec (.draftpin 3) (wDraft 0)) (fun t => t.reg user 3 == 5 && (t.slot user).pinned == some 5) = true
    ∧ leads (exec (.draftunpin 1) (wDraft 0)) (fun t => (t.core 0 0).traps.map (fun r => (r.cause, r.sub)) == [((0x47 : Byte), (1 : Byte))])
      = true := by decide
def wRoute (a b : Word) : State := (w1 a).modSlot user fun x => x.setG 2 b
/-- Dies 0 and 1 are there, with a path between them. -/
def path0 : Path := { esc := false, hops := 1, turns := 2 }
def wRouted : State :=
  ((wRoute 1 0xa45).modDie 0 fun d => { d with
    boot := { d.boot with good := 3, present := true }, routes := [⟨none, none, none⟩, ⟨some path0, none, some path0⟩] }).modDie 1 fun d =>
    { d with boot := { d.boot with good := 3, die := 1, present := true } }
theorem witness_DraftsAndPlacement_routes : wRouted.dieThere 0 1 = true ∧ (wRouted.die 0).routes[1]? = some ⟨some path0, none, some path0⟩
    ∧ (0xa45#12).toNat < 0xa46 := by decide
theorem test_route : leads (exec (.routeEsc 3 1 2) wRouted) (fun t => t.reg user 3 == 0x04a4501000000002) = true
    ∧ leads (exec (.route 3 1 2) (wRoute 0 0xa46)) (fun t =>
      (t.core 0 0).traps.map (fun r => (r.cause, r.sub)) == [((0x49 : Byte), (1 : Byte))]) = true := by decide

/-- The supervisor with placement commands: g1 the expert or version 6, g2 a list or a die. -/
def wPlace (h : HeddleSt) : State :=
  ((wBoss .ready 6 0 0).modHeddle 0 fun _ => h).modDie 0 fun d =>
    { d with boot := { d.boot with stage := 3, trained := true, linked := true, root := true, good := 1, present := true } }
theorem witness_DraftsAndPlacement_commands : isPriv (wPlace draft0).cur = true ∧ (wPlace draft0).plain [1, 2] [3] = true
    ∧ ((wPlace draft0).heddle 0).busy = false ∧ ((wPlace { draft0 with busy := true }).heddle 0).busy = true
    ∧ (wPlace draft0).rootDie = some 0 ∧ (wPlace draft0).releases = true
    ∧ (wPlace draft0).badList 0 (((wPlace draft0).die 0).curEntry 6) 0x9000000000000 = true
    ∧ (wPlace { draft0 with ost := 0, curs := [] }).badList 0 (((wPlace { draft0 with ost := 0, curs := [] }).die 0).curEntry 6) 0x1000000000000 = false
    ∧ (wPlace draft0).root.publishing = none ∧ (wPlace draft0).root.switching = none ∧ draft0.other = (6#64).extractLsb' 0 16 := by decide
theorem test_heddle_rep : leads (exec (.heddleRep 3 1 2) (wPlace draft0)) (fun t => t.reg boss 3 == 0 && (t.heddle 0).busy
    && t.net.map (fun q => match q.packet with | .mail m => (m.core, m.box, m.words) | _ => (0, 0, [])) ==
      [((3 : CoreNo), (4 : BitVec 5), [(0x60003 : Word), 0, 5])]) = true := by decide
theorem test_heddle_ret : leads (exec (.heddleRet 3 1 2) (wPlace { draft0 with busy := true })) (fun t => t.reg boss 3 == 1 && t.net == []) = true := by
  decide
theorem test_heddle_sw : leads (exec (.heddleSw 1) (wPlace draft0)) (fun t => t.root.switching == some 6 && (t.slot boss).state == .waitData) = true
    ∧ leads (exec (.heddleSw 1) (wPlace { draft0 with ost := 2 })) (fun t => (t.slot boss).state == .trapped) = true := by decide
theorem test_heddle_pub : leads (exec (.heddlePub 3 1 2) (wPlace { draft0 with en := false })) (fun t => t.reg boss 3 == BitVec.allOnes 64) = true
    ∧ leads (exec (.heddlePub 3 1 2) (((wPlace { draft0 with ost := 0, curs := [] }).modSlot boss fun x => x.setG 2 0x1000000000000)))
      (fun t => t.root.publishing == some (6, 6, 0x1000000000000)) = true := by decide
theorem test_heddle_rd : leads (exec (.heddleRd 3 1) (wPlace { draft0 with cnts := [(6, (3, 4))] })) (fun t => t.reg boss 3 == 0x400000003) = true := by
  decide

/-- The root publishes version 6, or switches to it; the supervisor waits. -/
def wRoot (h : HeddleSt) (p : Option (BitVec 16 × BitVec 12 × Word)) (v : Option (BitVec 16)) (l : List Nat) : State :=
  { ((wPlace h).modSlot boss fun x => { x with parkDst := some 3 }).enter boss .waitData .retry with
    root := { publishing := p, switching := v, acks := l, waiter := some boss } }
theorem witness_DraftsAndPlacement_protocol : (wRoot { draft0 with ost := 0 } (some (6, 6, 9)) none []).goodDies.contains 0 = true
    ∧ (wRoot { draft0 with ost := 0 } (some (6, 6, 9)) none [0]).allDies [0] = true
    ∧ (wRoot draft0 none (some 6) []).allDies [] = false ∧ (wPlace { draft0 with ost := 2 }).holdCount 0 6 = 0
    ∧ (wPlace { draft0 with ost := 2 }).root.switching = none ∧ tblWf (0, 0) draft0.cnts = true
    ∧ ((wPlace draft0).aclk - 0).toNat < 0x400 * 1024 ∧ 1 * 1024 ≤ (1024 : Word).toNat := by decide
theorem test_pub : leads (exec .pubArrival (wRoot { draft0 with ost := 0 } (some (6, 6, 9)) none [])) (fun t => t.root.acks == [0]
    && (t.heddle 0).ost == 1 && (t.heddle 0).oths == [(6, 9)]) = true
    ∧ leads (exec .pubAcksComplete (wRoot draft0 (some (6, 6, 9)) none [0])) (fun t => t.reg boss 3 == 6 && (t.slot boss).state == .ready)
      = true := by decide
theorem test_switch : leads (exec .switchArrival (wRoot draft0 none (some 6) [])) (fun t => (t.heddle 0).cur == 6 && (t.heddle 0).other == 5
    && (t.heddle 0).ost == 2 && (t.heddle 0).curs == [(6, 0x222)]) = true
    ∧ leads (exec .switchAcksComplete (wRoot draft0 none (some 6) [0])) (fun t => (t.slot boss).pc == 0x9004) = true := by decide
theorem test_drained : leads (exec .drainedReport (wPlace { draft0 with ost := 2 })) (fun t => t.root.drained == [0]) = true
    ∧ leads (exec .retireBroadcast { wPlace { draft0 with ost := 2 } with root := { drained := [0] } }) (fun t => (t.heddle 0).ost == 0
      && (t.heddle 0).oths == []) = true := by decide
theorem test_heddle_window : leads (exec .heddleWindowEnd { wPlace { draft0 with win := 1, curs := [], cnts := [(6, (3, 4))] } with aclk := 1024 })
    (fun t => (t.heddle 0).cnts == [(6, (4, 0))] && (t.heddle 0).windowStart == 1024) = true := by decide
theorem test_load_vector : leads (exec .loadVectorBroadcast (wPlace { draft0 with load := 77 })) (fun t => tblGet 0 0 (t.heddle 0).loads == 77
    && tblGet 0 1 (t.heddle 0).loads == 0xffffffff) = true := by decide

/-- Events on device registers. -/
def wReg (f : DieSt → DieSt) (v : Word) (l : Payload) : State := evAt (w0.modDie 0 f) { val := v, load := l }
theorem witness_RegistersAndHeldAccesses : (w0.core 0 0).traps = [] ∧ ((wTrapped 0).core 0 0).traps = [rec0]
    ∧ (evAt w0 { load := .logUnit .heddle }).ev.load = .logUnit .heddle ∧ (w0.heddle 0).en = false ∧ ((wPlace draft0).heddle 0).en = true
    ∧ ((w0.modSkein 0 0 fun q => { q with nblk := 2, next := 1 }).skein 0 0).next.toNat < 2 ∧ (w0.skein 0 0).nblk.toNat ≤ (w0.skein 0 0).next.toNat
    ∧ ((wReg (fun d => { d with xkBusy := true }) 0 .none).die 0).xkBusy = true ∧ (w0.core 0 0).suspect = false ∧ (w0.core 0 0).retired = false
    ∧ tblGet 0 0 (w0.die 0).gens ≠ 1 ∧ (wReg id 0 (.register 0x300 true)).ev.load = .register 0x300 true := by decide
theorem test_registers : leads (exec .errsumClear (wReg (fun d => { d with errsum := 0x1ff }) 0x101 .none)) (fun t => (t.die 0).errsum == 0xfe) = true
    ∧ leads (exec .registerWrite (wReg id 0x11009 (.register 0x300 true))) (fun t => (t.die 0).faultCore == 9 && (t.die 0).faultBox == 2
      && (t.die 0).faultEn) = true := by decide
theorem test_sfflags : leads (exec .sfflagsClear (evAt (w0.modShed 0 0 fun x => { x with sfflags := 0x1f }) { val := 1 }))
    (fun t => (t.shed 0 0).sfflags == 0x1e) = true := by decide
theorem test_rdnext : leads (exec .rdnextRead (evAt (w0.modSkein 0 0 fun q => { q with nblk := 2, next := 1 }) {})) (fun t => (t.skein 0 0).next == 2)
    = true ∧ leads (exec .rdctlWrite (evAt w0 { val := 7 })) (fun t => (t.skein 0 0).nblk == 7) = true := by decide
theorem test_key_load : leads (exec .keyLoadComplete (wReg (fun d => { d with xkBusy := true, xkXts := true, xksel := 3, xkdata := [(0, 5), (7, 6)] }) 0 .none))
    (fun t => tblGet ({} : KeySlot) 3 (t.die 0).keys == { xts := true, data := 5, tweak := 6#64 ++ 0#192 } && (t.die 0).xkdata == []) = true := by decide
theorem test_retreq : leads (exec .retreq (evAt w0 {})) (fun t => (t.core 0 0).suspect && (t.core 0 0).retreq) = true := by decide
/-- The held access, answered. -/
def wHeld (g : Byte) : State := evAt (after (exec .pageWalk (wUnmapped true (.ldD 3 1 0)))) { load := .fault 0 g }
theorem witness_RegistersAndHeldAccesses_answers : tblGet 0 0 ((wHeld 1).die 0).gens = 1
    ∧ (((wHeld 1).die 0).held.find? (fun x => x.fid == 0 && !x.retry && !x.fail)).map (·.who) = some (.access 0)
    ∧ ((wHeld 1).access 0).map (·.agent) = some (.slot user 1) ∧ ((wHeld 1).slot user).inc = 1 := by decide
theorem test_xfresume : leads (exec .xfresumeRetry (wHeld 1)) (fun t => t.accs.map (fun a => (a.stage, a.fresh)) == [(.walk, true)]) = true
    ∧ leads (exec .xfresumeFail (wHeld 1)) (fun t => t.accs.map (·.stage) == [.failed] && (t.slot user).fails.length == 1 && (t.die 0).held == []) = true := by decide
theorem test_xfresume_stale : leads (exec .xfresumeFail (wHeld 2)) (fun t => t.accs.length == 1 && (t.die 0).dieLog.cause == 0x2b) = true := by decide

/-! The row unit, the side macro and twill blocks -/

def run1 : VecOp := .run 4 0 5
/-- The user thread owns the row unit, with instructions queued. -/
def wRow (n : Nat) (a b : Word) : State :=
  let item : VecItem := { ops := [run1], pc := 0x1000, mark := 0 }
  ((w1 a).modSlot user fun x => x.setG 2 b).modCore 0 0 fun c =>
    { c with row := { c.row with owner := some 0, queue := List.replicate n item, since := List.replicate n run1 } }
theorem witness_VectorInstructions : (wRow 0 4 0).plain [1, 2] [5] = true ∧ (wRow 0 4 0).plain [1] [] = true
    ∧ (wRow 0 4 0).curCore.row.owner = some 0 ∧ w0.curCore.row.owner = none ∧ (wRow 0 0 0).reg user 1 = 0
    ∧ ((wRow 0 0 0).modCore 0 0 fun c => { c with row := { c.row with owner := some 3 } }).curCore.row.owner = some 3
    ∧ (wRow 15 4 0).curCore.row.queue.length < 16 ∧ (wRow 1 4 0).curCore.row.queue ≠ []
    ∧ ((1024#64).extractLsb' 0 11).toNat = 1024 ∧ ((1025#64).extractLsb' 0 11).toNat = 1025 ∧ rmode ((w0.slot user).frm) = some .rne
    ∧ rmode 7 = none ∧ (wRow 2 1 3).curCore.row.since.length = 2 := by decide
/-- The supervisor configures lanes from 0x400 of the scratchpad; lane 0 adds its second operand, the scalar, and writes. -/
def wVcfg : State :=
  (wBoss .ready (bootPc 0 + 0x400) 0 0).writeHome 0 (paOf 0 1 0x400) 8 0x0000000600fc0000
/-- The sequencer's head is one instruction of the user thread; slices of lane 0 hold 3, 4 and 5 as doubles. -/
def wVec (op : VecOp) : State :=
  let item : VecItem := { ops := [op], pc := 0x1000, mark := 0 }
  evAt (w0.modCore 0 0 fun c => { c with row :=
    { c.row with owner := some 0, queue := [item], lanes := [(0, 0x0000000600fc0000)], slices := [(0, 3), (8, 4), (16, 5)] } }) {}
/-- The supervisor's VCFG stands at the head of the sequencer. -/
def wVcfgQueued : State := evAt (after (exec (.vcfg 1) wVcfg)) {}
def cfgItem : VecItem := ((wVcfgQueued.core 0 0).row.queue.head?).getD { ops := [], pc := 0, mark := 0 }
theorem witness_VectorInstructions_cfg : (wVcfg.reg boss 1).toNat % 64 = 0 ∧ (wVcfg.reg boss 1).toNat < 2 ^ 57 ∧ wVcfg.plain [1] [] = true
    ∧ wVcfg.curCore.row.owner = none ∧ cfgItem.ops = [.cfg (bootPc 0 + 0x400)] ∧ (wVcfgQueued.core 0 0).row.owner = some 15
    ∧ (match vecConfig boss cfgItem (bootPc 0 + 0x400) (List.range 16) [] wVcfgQueued with
        | .ok _ => true
        | .error _ => false) = true
    ∧ (match vecReach wVcfgQueued boss cfgItem false (bootPc 0 + 0x400), vecReach wVcfgQueued boss cfgItem true (bootPc 0 + 0x400) with
        | .ok _, .ok _ => true
        | _, _ => false) = true ∧ wVcfgQueued.jnlOf boss = false := by decide
/-- 09 R300, R301: the address enters the sequencer, which then loads the lanes; 0 in a slot that owns nothing does nothing. -/
theorem test_vcfg : leads (exec (.vcfg 1) wVcfg) (fun t => (t.core 0 0).row.owner == some 15 && (t.core 0 0).row.lanes == []
      && (t.slot boss).pc == 0x9004)
    && leads (exec .vectorComplete wVcfgQueued) (fun t => (t.core 0 0).row.lanes == [(0, 0x0000000600fc0000)] && (t.core 0 0).row.queue == [])
    = true := by decide
theorem test_vcfg_leaves : leads (exec (.vcfg 1) (wRow 0 0 0)) (fun t => (t.core 0 0).row.queue.map (·.ops) == [[.cfg 0]])
    && leads (exec .vectorComplete (wVec (.cfg 0))) (fun t => (t.core 0 0).row.owner == none) = true := by decide
theorem test_vrun : leads (exec (.vrun 5 1 2) (wRow 0 4 9)) (fun t => (t.core 0 0).row.queue.map (·.ops) == [[.run 4 9 5]]
    && (t.slot user).pc == 0x1004) = true
    ∧ leads (exec (.vrun 5 1 2) (wRow 0 1025 0)) (fun t => (t.core 0 0).traps.map (fun r => (r.cause, r.sub)) == [((0x13 : Byte), (1 : Byte))])
      = true := by decide
theorem test_vlds : leads (exec (.vlds 1 2) (wRow 0 0x1000 0x7000)) (fun t => (t.core 0 0).row.queue.map (·.ops) == [[.lds 0x1000 0x7000]]) = true := by
  decide
theorem test_vsts : leads (exec (.vsts 1 2) (wRow 0 0x1000 0x7020)) (fun t => (t.core 0 0).row.queue.map (·.ops) == [[.sts 0x1000 0x7020]])
    = true ∧ leads (exec (.vsts 1 2) (wRow 0 0x1000 0x7f020)) (fun t => (t.core 0 0).traps.map (fun r => (r.cause, r.sub)) ==
      [((0x13 : Byte), (1 : Byte))]) = true := by decide
theorem test_vseq : leads (exec (.vseq 1 2) (wRow 2 1 3)) (fun t => (t.core 0 0).row.queue.map (fun v => (v.ops.length, v.rep, v.last)) ==
      [(1, 0, 0), (1, 0, 0), (2, 1, 3)]) = true
    ∧ leads (exec (.vseq 1 2) (wRow 2 2 3)) (fun t => (t.core 0 0).traps.map (fun r => (r.cause, r.sub)) == [((0x13 : Byte), (2 : Byte))]) = true := by
  decide
theorem test_vred : leads (exec (.vredMin .f32 5 1) (wRow 0 0x42 0)) (fun t =>
      (t.core 0 0).row.queue.map (·.ops) == [[.red .fmin .f32 2 4 5 0]]) = true
    ∧ leads (exec (.vredMax .f32 5 1) (wRow 0 0x1012 0)) (fun t => (t.core 0 0).traps.map (fun r => (r.cause, r.sub)) ==
      [((0x13 : Byte), (3 : Byte))]) = true := by decide

def wVecBoss (op : VecOp) : State :=
  let item : VecItem := { ops := [op], pc := 0x9000, mark := 5 }
  evAt ((wBoss .ready 0 0 0).modCore 0 0 fun c => { c with row :=
    { c.row with owner := some 15, queue := [item], slices := [(0, 3), (8, 4), (16, 5)] } }) {}
theorem witness_VectorInstructions_perform : (w0.core 0 0).row.queue = [] ∧ ((wVec run1).core 0 0).row.owner = some 0
    ∧ { w0.curCore.row with owner := some 0, queue := [{ ops := [.cfg 0], pc := 0, mark := 0 }] }.leaving = true ∧ (wVec run1).heldWaits 0 (.vector user) = false
    ∧ (match vecLoad boss { ops := [.lds (bootPc 0) 0x1000], pc := 0x9000, mark := 5 } ((xferDoubles (bootPc 0) 0x1000 0).drop 0)
        (wVecBoss (.lds (bootPc 0) 0x1000)) with
        | .ok _ => true
        | .error _ => false) = true
    ∧ (match vecStore boss { ops := [.sts (bootPc 0) 0x1000], pc := 0x9000, mark := 5 } ((xferDoubles (bootPc 0) 0x1000 0).drop 0)
        (wVecBoss (.sts (bootPc 0) 0x1000)) with
        | .ok _ => true
        | .error _ => false) = true := by decide
theorem test_vector_complete : leads (exec .vectorComplete (wVec (.red .fmax .f64 0 3 5 0))) (fun t => t.reg user 5 == 5
    && (t.core 0 0).row.queue == []) = true
    ∧ leads (exec .vectorComplete (wVecBoss (.sts (bootPc 0) 0x1000))) (fun t => t.readHome 0 (paOf 0 1 8) 8 == 4) = true := by decide

/-- The side macro: the user thread has a product under way, or an image is being loaded. -/
def job0 (ctl : BitVec 5) : MxJob := { slot := 0, mf := .int8, row := 2 :: List.replicate 191 0, scales := [], out := 0x4000, ctl, pc := 0x1000 }
def wSide (q : List MxJob) (l : Option (Mf3 × List Byte)) : State :=
  evAt ((w0.enter user .mx .retry).modCore 0 0 fun c => { c with side := { c.side with queue := q, loading := l, image := [(0, 5)], acc := [(0, 0x42c80000)] } }) {}
def wMxmul (mf : Mf3) : State := (wBoss .ready (bootPc 0 + 0x400) 0 0).modCore 0 0 fun c => { c with side := { c.side with fmt := mf } }
theorem witness_MatrixAndTwill : (wMxmul .int8).plain [1] [] = true ∧ (wMxmul .int8).plain [1, 2, 3] [] = true
    ∧ (wMxmul .int8).curCore.side.loading = none ∧ (wSide [] (some (.int8, []))).curCore.side.loading ≠ none
    ∧ Mf3.int8 ≠ (wMxmul .e4m3).curCore.side.fmt ∧ (wMxmul .int8).addressFault boss (bootPc 0 + 0x400) 6 = none
    ∧ (wMxmul .int8).journaled = false ∧ ((wSide [job0 4] none).core 0 0).side.queue = [job0 4]
    ∧ (wSide [job0 4] none).heldWaits 0 (.operand user) = false ∧ (wSide [job0 4] none).jnlOf user = false := by decide
theorem witness_MatrixAndTwill_product : ∃ bs t, (wMxmul .int8).ReadsBytes (bootPc 0 + 0x400) 192 bs t :=
  ⟨_, ((doublesFound boss needR (bootPc 0 + 0x400) (List.range 24) [] (wMxmul .int8)).getD ([], w0)).2,
    readsBytes_of_found _ _ _ ((doublesFound boss needR (bootPc 0 + 0x400) (List.range 24) [] (wMxmul .int8)).getD ([], w0)).1 _ (by decide)⟩
theorem test_mxmul : leads (exec (.mxmul .int8 3 1 2) (wMxmul .int8)) (fun t => (t.slot boss).state == .mx
    && (t.core 0 0).side.queue.map (·.slot) == [15]) = true
    ∧ leads (exec (.mxmul .int8 3 1 2) (wMxmul .e4m3)) (fun t => (t.slot boss).state == .trapped) = true := by decide
theorem test_mxld : leads (exec (.mxld .int8 1) (wSide [] (some (.int8, [])))) (fun t => (t.slot user).state == .waitData) = true := by decide
theorem test_mxld_complete : leads (exec .mxldComplete (wSide [] (some (.e4m3, [7, 8])))) (fun t => (t.core 0 0).side.fmt == .e4m3
    && (t.core 0 0).side.image == [(0, 7), (1, 8)]) = true
    ∧ leads (exec .mxldComplete (wSide [job0 0] (some (.e4m3, [7])))) (fun t => (t.core 0 0).side.fmt == .int8) = true := by decide
theorem test_mx_product : leads (exec .mxProductComplete (wSide [job0 4] none)) (fun t => tblGet 0 0 (t.core 0 0).side.acc == 0x42dc0000
    && (t.slot user).state == .ready && (t.slot user).pc == 0x1004 && t.accs.length == 16 && (t.accs.map (·.data)).head? == some 0x42dc0000) = true := by
  decide

/-- The supervisor works on blocks: g1 the source, g2 the count, g3 the destination, in the scratchpad. -/
def wTwill (n : Word) (frm : BitVec 3) : State :=
  ((wBoss .ready (bootPc 0 + 0x400) n (bootPc 0 + 0x800)).modSlot boss fun x => { x with frm }).writeHome 0 (paOf 0 1 0x400) 8
    0x4040000040000000
def wTwillRead : State := ((doublesFound boss needR (bootPc 0 + 0x400) (List.range 8) [] (wTwill 1 0)).getD ([], w0)).2
def blockBytes0 : List Byte :=
  ((((doublesFound boss needR (bootPc 0 + 0x400) (List.range 8) [] (wTwill 1 0)).getD ([], w0)).1.flatMap (bytesOfWord 8)).drop 0).take 64
def parts0 : List (Nat × Nat × Word) :=
  let r := quantise Fmt.tw8.mag .rne 1 ((List.range 16).map fun k => decodeFp Fmt.fp32.layout (wordOfBytes ((blockBytes0.drop (4 * k)).take 4)))
  blockParts (bootPc 0 + 0x800) 8 1 0 r.1 r.2.1
theorem witness_MatrixAndTwill_blocks : (wTwill 1 0).plain [1, 2, 3] [] = true ∧ rmode 0 = some .rne ∧ rmode 7 = none
    ∧ (wTwill 1 0).addressFault boss (bootPc 0 + 0x800) 4 = none ∧ (wTwill 1 0).addressFault boss (bootPc 0 + 0x400) 2 = none
    ∧ ((wTwill 0 0).reg boss 2).extractLsb' 0 16 = (0#16) ∧ ((wTwill 4097 0).reg boss 2).extractLsb' 0 16 = 4097#16 := by decide
theorem witness_MatrixAndTwill_reads : (wTwill 1 0).ReadsBytes (bootPc 0 + 0x400) 64 blockBytes0 wTwillRead :=
  readsBytes_of_found _ _ _ ((doublesFound boss needR (bootPc 0 + 0x400) (List.range 8) [] (wTwill 1 0)).getD ([], w0)).1 _ (by decide)
theorem witness_MatrixAndTwill_stores : ∃ u, wTwillRead.StoresParts (bootPc 0 + 0x800) parts0 u :=
  ⟨(partsStored boss (bootPc 0 + 0x800) parts0 wTwillRead).getD w0, storesParts_of_stored _ _ _ _ (by decide) (by decide)⟩
theorem test_qtw : leads (exec (.qtw .tw8 3 1 2) (wTwill 1 0)) (fun t => t.readHome 0 (paOf 0 1 0x800) 2 == 0x6040
    && (t.slot boss).pc == 0x9004) = true
    ∧ leads (exec (.qtw .tw8 3 1 2) (wTwill 1 7)) (fun t => (t.slot boss).state == .trapped) = true := by decide
theorem test_dqtw : leads (exec (.dqtw .tw8 3 1 2) (wTwill 1 7)) (fun t => (t.slot boss).pc == 0x9004) = true
    ∧ leads (exec (.dqtw .tw8 3 1 2) (wTwill 0 0)) (fun t => (t.slot boss).state == .trapped) = true := by decide
theorem test_baddq : leads (exec (.baddq .tw8 3 1 2) (wTwill 1 0)) (fun t => (t.slot boss).pc == 0x9004) = true
    ∧ leads (exec (.baddq .tw8 3 1 2) ((wTwill 1 0).modSlot boss fun x => x.setG 3 (bootPc 0 + 0x410))) (fun t => (t.slot boss).state == .trapped)
      = true := by decide

/-- The user thread is an escape thread, or a responder. -/
def wRole (r : Role) : State := w0.modSlot user fun x => { x with role := r }
theorem witness_RepliesAndEscapes : w0.plain [1] [] = true ∧ (w0.slot user).role = .plain
    ∧ ((wRole (.escape 0 1 2 3 true)).slot user).role = .escape 0 1 2 3 true ∧ ((wRole (.responder 0 false)).slot user).role = .responder 0 false
    ∧ (wRole (.escape 0 1 2 3 false)).settled user = true ∧ (wRole (.escape 0 1 2 3 false)).escSaved 0 1 2 3 = false
    ∧ (wRole (.escape 0 1 2 3 false)).escOrdered 0 1 2 = false ∧ w0.journaled = false ∧ (wHome (.store .d)).settled user = false := by decide
theorem test_reply : leads (exec (.reply 1) (wRole (.escape 0 1 2 3 false))) (fun t => t.net.map (·.packet) == [.reply 0 1 2 3 6 user]
    && (t.slot user).role == .escape 0 1 2 3 true) = true
    ∧ leads (exec (.reply 1) w0) (fun t => (t.core 0 0).traps.map (fun r => (r.cause, r.sub)) == [((0x0b : Byte), (0 : Byte))]) = true := by decide

/-! Looms, streams and queues from threads -/

/-- The user thread asks for sheds, g1 the request and g2 the save area. -/
def wLease (a : Word) : State := (w1 a).modSlot user fun x => x.setG 2 0x1000
def request0 : LeaseReq :=
  { kind := .fresh, who := some (user, 1), level := 1, count := 2, named := [], pre := true, save := 0x1000, ctx := 0, dst := 3 }
def wLease0 : State := evAt ((w0.enter user .parkLease .retry).modDie 0 fun x => { x with leases := [request0] }) {}
/-- Loom 5 of the user's context with sheds 7 and 9 in a state; g1 names it and g2 is the record's address. -/
def wLoom (st : LoomState) (sh : ShedState) (a b : Word) : State :=
  let s := ((w1 a).modSlot user fun x => x.setG 2 b).setLoom 0 5 { state := st, sheds := [7, 9], pre := true, count := 2, level := 1, save := 0x1000 }
  (s.modShed 0 7 fun x => { x with state := sh, loom := 5 }).modShed 0 9 fun x => { x with state := sh, loom := 5, rel := 1 }
theorem witness_LeasesAndPeriods : (wLease 2).plain [1, 2] [3] = true ∧ (wLease 2).addressFault user 0x1000 12 = none
    ∧ (2#64).getLsbD 63 = false ∧ (wLease 2).releases = true ∧ (wHome (.store .d)).releases = false
    ∧ (wLoom .leased .leased 5 0x2000).mayCommand 5 = true ∧ (wLoom .leased .leased 6 0x2000).mayCommand 6 = false
    ∧ ((wLoom .leased .leased 5 0x2000).loom 0 5).failed = none ∧ ((wLoom .leased .leased 5 0x2000).loom 0 5).settling = false
    ∧ (w0.die 0).headLease = none ∧ (wLease0.die 0).headLease = some request0
    ∧ (wLoom .leased .leased 5 0x2000).addressFault user 0x2000 6 = none ∧ (wLoom .leased .leased 5 0x2000).lacksShed 0 5 = false
    ∧ (wLoom .running .running 5 0).plain [1] [] = true ∧ (wLoom .running .running 5 0).journaled = false := by decide
theorem witness_LeasesAndPeriods_sheds : (allSheds.filter fun h => !(wLease 2 |>.shed 0 h).retired).length = 512
    ∧ (wLease0.freeSheds 0).take 2 = [0, 1] ∧ wLease0.freeLoom 0 = some 0 := by decide
theorem test_lease : leads (exec (.lease true 1 3 1 2) (wLease 2)) (fun t => (t.die 0).leases == [request0]
    && (t.slot user).state == .parkLease && (t.slot user).pc == 0x1000) = true
    ∧ leads (exec (.lease true 1 3 1 2) (wLease 513)) (fun t => t.reg user 3 == BitVec.allOnes 64) = true := by decide
theorem test_lease_grant : leads (exec .leaseGrant wLease0) (fun t => t.reg user 3 == 0 && (t.slot user).pc == 0x1004
    && (t.loom 0 0).sheds == [0, 1] && (t.loom 0 0).save == 0x1000 && (t.shed 0 1).rel == 1 && (t.shed 0 1).state == .leased) = true := by decide
theorem test_release : leads (exec (.release 1) (wLoom .leased .leased 5 0)) (fun t => t.loom 0 5 == {} && (t.shed 0 9).state == .free
    && (t.slot user).pc == 0x1004) = true
    ∧ leads (exec (.release 1) (wLoom .running .running 5 0)) (fun t =>
      (t.core 0 0).traps.map (fun r => (r.cause, r.sub)) == [((0x41 : Byte), (1 : Byte))]) = true := by decide
theorem test_loadcfg : leads (exec (.loadcfg 1 2) (wLoom .leased .leased 5 0x2000)) (fun t => (t.loom 0 5).state == .loading
    && (t.loom 0 5).record == 0x2000 && (t.shed 0 9).state == .loading && (t.slot user).await == .loom 5) = true
    ∧ leads (exec (.loadcfg 1 2) (wLoom .leased .leased 6 0x2000)) (fun t =>
      (t.core 0 0).traps.map (fun r => (r.cause, r.sub)) == [((0x41 : Byte), (0 : Byte))]) = true := by decide
theorem test_loadcfg_force : leads (exec (.loadcfgForce 1 2) (wLoom .leased .leased 5 0x2000)) (fun t =>
      (t.core 0 0).traps.map (fun r => (r.cause, r.sub)) == [((2 : Byte), (0 : Byte))]) = true := by decide
theorem test_drain : leads (exec (.drain 1) (wLoom .running .running 5 0)) (fun t => (t.loom 0 5).state == .draining
    && (t.shed 0 9).state == .draining) = true
    ∧ leads (exec (.drain 1) (wLoom .saved .saved 5 0)) (fun t =>
      (t.core 0 0).traps.map (fun r => (r.cause, r.sub, r.val)) == [((0xe : Byte), (3 : Byte), (5 : Word))]) = true := by decide
theorem test_ckpt : leads (exec (.ckpt 1) (wLoom .running .running 5 0)) (fun t => (t.loom 0 5).state == .saving
    && (t.shed 0 9).state == .draining) = true
    ∧ leads (exec (.ckpt 1) (wLoom .leased .leased 5 0)) (fun t =>
      (t.core 0 0).traps.map (fun r => (r.cause, r.sub)) == [((0xe : Byte), (1 : Byte))]) = true := by decide
theorem test_resume : leads (exec (.resume 1) (wLoom .saved .free 5 0)) (fun t => (t.die 0).leases.map (fun r => (r.kind, r.count)) == [(.resume 5, 2)]
    && (t.slot user).state == .parkLease) = true := by decide

/-- g1 selects shed 1 of loom 5, whose shed has n queued commands. -/
def wStream (a b : Word) (n : Nat) : State :=
  (wLoom .running .running (a + 0xa01) b).modShed 0 9 fun x => { x with cmds := List.replicate n { id := 0, cmd := .sgo 0 0, src := (user, 1), ctx := 0 } }
theorem witness_StreamCommands : (wStream 0x10000 0x2000 0).plain [1, 2] [] = true ∧ (wStream 0 0 0).mayCommand 5 = true
    ∧ ((wStream 0 0 0).loom 0 5).state = .running ∧ ((wStream 0 0 0).loom 0 5).sheds[((0xa01#64).extractLsb' 0 9).toNat]? = some 9
    ∧ ((wStream 0 0 0).loom 0 5).sheds[((0xa02#64).extractLsb' 0 9).toNat]? = none ∧ maskPorts 0 = [] ∧ maskPorts 1 = [0]
    ∧ ((wStream 0 0 0).shed 0 9).memoryPort 0 = false ∧ (wStream 0 0 0).addressFault user 0x2000 6 = none
    ∧ ((wStream 0 0 15).shed 0 9).cmds.length = 15 := by decide
theorem test_sbind : leads (exec (.sbind 1 2) (wStream 0x10000 0x2000 0)) (fun t => (t.shed 0 9).cmds.map (·.cmd) == [.sbind 0 0x2000]
    && (t.slot user).pc == 0x1004) = true
    ∧ leads (exec (.sbind 1 2) (wStream 0x30000 0x2000 0)) (fun t =>
      (t.core 0 0).traps.map (fun r => (r.cause, r.sub)) == [((0x41 : Byte), (2 : Byte))]) = true := by decide
theorem test_sgo : leads (exec (.sgo 1) (wStream 0x30000 0 15)) (fun t => (t.shed 0 9).cmds.length == 16) = true
    ∧ leads (exec (.sgo 1) (wStream 0x1030000 0 0)) (fun t =>
      (t.core 0 0).traps.map (fun r => (r.cause, r.sub)) == [((0x41 : Byte), (3 : Byte))]) = true := by decide
theorem test_sbar : leads (exec (.sbar 1) (wStream 0x10000 0 0)) (fun t => (t.shed 0 9).cmds.map (·.cmd) == [.sbar 1]) = true := by decide
theorem test_trig : leads (exec (.trig 1 2) (wStream 0 0x2020 0)) (fun t => (t.shed 0 9).cmds.map (·.cmd) == [.trig 0x2020]) = true := by decide
theorem test_tq : leads (exec (.tq 1 2) (wStream 0x8000000 77 0)) (fun t => (t.shed 0 9).cmds.map (·.cmd) == [.tq true 77]) = true
    ∧ leads (exec (.tq 1 2) (wStream 0 0 16)) (fun t => (t.slot user).state == .waitData) = true := by decide

/-- Queue 3 of die 0 has tokens; hart 1 has kicks. -/
def kick0 : Kick := { tmpl := 0x2000, die := 0, core := 0, slot := some (user, 1), priv := false, qb := 0 }
def wQueue (mb : Bool) (l : List Word) (n : Nat) : State :=
  evAt ((w0.setHq 0 3 { tokens := l, armed := true, mb, mbox := 4, hart := 1, tmpl := 0x2000 }).setHart 0 1 { queue := List.replicate n kick0 })
    { unit := 3 }
def wHart (n : Nat) (v : Word) : State := evAt (w0.setHart 0 1 { queue := List.replicate n kick0 }) { unit := 1, val := v }
def wArm : State := ((wQueue false [7] 0).modSlot user fun x => (x.setG 1 0x2000).setG 2 0x1001003)
theorem witness_QueuesAndKicks : wArm.plain [1, 2] [] = true ∧ wArm.journaled = false ∧ wArm.addressFault user 0x2000 6 = none
    ∧ wArm.releases = true ∧ (wArm.die 0).held = [] ∧ (w0.reg user 2).toNat % 64 ≠ 0 ∧ ((wQueue false [] 0).hq 0 3).tokens.length < 16
    ∧ (w0.hq 0 3).armed = false ∧ ((wQueue false [9] 0).hq 0 3).armed = true ∧ ((wQueue false [9] 0).hq 0 3).tokens[(wQueue false [9] 0).firedTokens 0 3]? = some 9
    ∧ ((wQueue false [9] 0).hart 0 1).room = true ∧ ((wQueue false [9] 16).hart 0 1).room = false
    ∧ (wQueue true [9] 0).boxRoom 0 0 4 = true ∧ (wQueue true [9] 0).firedTokens 0 3 = 0 ∧ ((wHart 15 0).hart 0 1).room = true
    ∧ ((wHart 16 0).hart 0 1).room = false ∧ ((w0.slot user).stream 0).bound = false ∧ kick0.bind = none ∧ kick0.access = none := by decide
theorem test_cparm : leads (exec (.cparm 1 2) wArm) (fun t => t.hq 0 3 == { tokens := [7], armed := true, hart := 1, tmpl := 0x2000, mbox := 8 }) = true
    ∧ leads (exec (.cparm 1 2) w0) (fun t => (t.core 0 0).traps.map (fun r => (r.cause, r.sub)) == [((0x20 : Byte), (6 : Byte))]) = true := by decide
theorem test_cpdisarm : leads (exec (.cpdisarm 1) ((wQueue false [7] 0).modSlot user fun x => x.setG 1 3)) (fun t => t.hq 0 3 == { tokens := [7] }) = true := by
  decide
theorem test_hqpush : leads (exec (.hqpush 1 2) ((wQueue false [7] 0).modSlot user fun x => (x.setG 1 3).setG 2 8)) (fun t => (t.hq 0 3).tokens == [7, 8])
    = true ∧ leads (exec (.hqpush 1 2) ((wQueue false (List.replicate 16 7) 0).modSlot user fun x => (x.setG 1 3).setG 2 8))
      (fun t => (t.slot user).state == .waitData) = true := by decide
theorem test_hq_fire : leads (exec .hqTokenFire (wQueue false [9] 0)) (fun t => (t.hart 0 1).queue.map (fun k => (k.token, k.tmpl, k.hq)) ==
      [((9 : Word), (0x2000 : Word), some (3 : HqNo))]) = true
    ∧ leads (exec .hqTokenFire (wQueue true [9] 0)) (fun t => (t.hq 0 3).tokens == [] && (tblGet [] 4 (t.core 0 0).boxes).map (·.words) == [[9]])
      = true := by decide
theorem test_bhkick : leads (exec .bhkick (wHart 15 0x2048)) (fun t => (t.hart 0 1).queue.length == 16 && (t.slot user).stream 0 == { bound := true })
    = true ∧ leads (exec .bhkick (wHart 16 0x2040)) (fun t => (t.hart 0 1).held.length == 1) = true := by decide
theorem test_kick_held : leads (exec .kickHeldPerform (evAt (w0.setHart 0 1 { held := [kick0] }) { unit := 1 })) (fun t => (t.hart 0 1).held == []
    && (t.hart 0 1).queue == [kick0]) = true := by decide

/-! Graph nodes -/

def tL : Target := .node 2 .l
def tR : Target := .node 3 .l
/-- Shed 0 runs; the node in a slot holds tokens at its ports and a state. -/
def wNode (slot : BitVec 6) (ops : List (NodePort × Token)) (n : NodeSt) : State :=
  { w0.modShed 0 0 fun x =>
      { (ops.foldl (fun x q => x.setOperand slot.toNat q.1 0 (some q.2)) x).setNode slot.toNat 0 n with
        state := .running, consts := [77, 9], loom := 5 } with node := { slot } }
def dat (w : Word) : Token := ⟨w, kindData, 0, false⟩
def sca (w : Word) : Token := ⟨w, kindScale, 0, false⟩
def ctl (w : Word) : Token := ⟨w, kindControl, 0, false⟩
/-- What an outcome leaves at the left ports of slots 2 and 3. -/
def sent (r : Result) : Option Token × Option Token :=
  (((after r).shed 0 0).operand 2 .l 0, ((after r).shed 0 0).operand 3 .l 0)
def held (r : Result) (q : NodePort) : Option Token := ((after r).shed 0 0).operand 1 q 0
def nodeOf (r : Result) : NodeSt := tblGet {} 4 ((after r).shed 0 0).nodes
/-- The node's view in its turn. -/
def viewOf (s : State) : View := s.view s.node tL tR
def wBusy : State := (wNode 1 [(.l, dat 5)] {}).modShed 0 0 fun x => x.setOut 1 [⟨tL, dat 1⟩]

theorem witness_NodesDeliverBeforeFiring : (w0.shed 0 0).fires = false ∧ (wBusy.shed 0 0).fires = true
    ∧ ((((wBusy.modShed 0 0 fun x => x.setOut 1 [⟨tL, dat 1⟩, ⟨tL, dat 2⟩]).pump 0 0 1).shed 0 0).out 1) = [⟨tL, dat 2⟩] := by decide
theorem witness_NodesDeliverBeforeFiring_apply :
    let v := viewOf (wNode 1 [(.l, dat 5)] {})
    v.x = v.s.shed v.d v.h ∧ v.x.out v.slot = [] ∧ (dat 5).ctx = v.ctx ∧ v.c < 4 ∧ v.slot < 64 ∧ v.x.operand 2 .l v.c = none := by
  refine ⟨rfl, by decide, by decide, by decide, by decide, by decide⟩
theorem witness_node_turn : (wNode 1 [(.l, dat 5)] {}).NodeTurn tL tR (viewOf (wNode 1 [(.l, dat 5)] {})) :=
  ⟨by decide, by decide, by decide, rfl, by decide, by decide⟩
theorem test_delivery : sent (exec (.gate .none .none) wBusy) = (some (dat 1), none) := by decide

theorem witness_SteeringAndCountingNodes : let v := viewOf (wNode 1 [(.l, dat 5), (.r, ctl 3), (.p, dat 0)] { primed := true, latch := some (dat 8) })
    v.op .l = some (dat 5) ∧ (dat 5).isData = true ∧ v.op .p = some (dat 0) ∧ v.op .r = some (ctl 3) ∧ (ctl 3).endsGroup = true
    ∧ (ctl 1).isEor = true ∧ (ctl 2).isEog = true ∧ (ctl 3).isEos = true ∧ (sca 1).isScale = true ∧ (ctl 1).endsGroup = false
    ∧ v.node.primed = true ∧ v.node.latch = some (dat 8) ∧ v.c = 0 ∧ 0 < v.x.nctx ∧ (viewOf (wNode 1 [] {})).op .l = none := by decide
theorem test_steer : sent (exec (.steerT tL tR) (wNode 1 [(.l, dat 5), (.p, dat 1)] {})) = (some (dat 5), some (dat 5))
    ∧ sent (exec (.steerF tL tR) (wNode 1 [(.l, dat 5), (.p, dat 1)] {})) = (none, none)
    ∧ held (exec (.steerF tL tR) (wNode 1 [(.l, dat 5), (.p, dat 1)] {})) .l = none := by decide
theorem test_merge : sent (exec (.mergeP tL tR) (wNode 1 [(.l, dat 5), (.r, dat 6), (.p, dat 0)] {})) = (some (dat 6), some (dat 6))
    ∧ held (exec (.mergeP tL tR) (wNode 1 [(.l, dat 5), (.r, dat 6), (.p, dat 0)] {})) .l = some (dat 5)
    ∧ sent (exec (.mergeA tL tR) (wNode 1 [(.l, dat 5), (.r, dat 6)] {})) = (some (dat 5), some (dat 5)) := by decide
theorem test_carry : sent (exec (.carry 0 tL tR) (wNode 1 [(.l, dat 5)] {})) = (some (dat 77), some (dat 77))
    ∧ (nodeOf (exec (.carry 0 tL tR) (wNode 1 [(.l, ctl 2)] { primed := true }))).primed = false := by decide
theorem test_inv : (nodeOf (exec (.inv tL tR) (wNode 1 [(.l, dat 5), (.r, dat 9)] {}))).latch = some (dat 9)
    ∧ sent (exec (.inv tL tR) (wNode 1 [(.l, dat 5)] { latch := some (dat 9) })) = (some (dat 9), some (dat 9)) := by decide
theorem test_const : sent (exec (.const 1 tL tR) (wNode 1 [(.l, dat 5)] {})) = (some (dat 9), some (dat 9))
    ∧ sent (exec (.constC 1 tL tR) (wNode 1 [(.l, dat 5)] {})) = (some (ctl 9), some (ctl 9)) := by decide
theorem test_gate : sent (exec (.gate tL tR) (wNode 1 [(.l, dat 5), (.r, dat 6)] {})) = (some (dat 5), some (dat 5))
    ∧ sent (exec (.gate tL tR) (wNode 1 [(.l, dat 5)] {})) = (none, none) := by decide
theorem test_rowctl : sent (exec (.rowctlStrip tL tR) (wNode 1 [(.l, ctl 1)] {})) = (none, none)
    ∧ sent (exec (.rowctlSplit tL tR) (wNode 1 [(.l, ctl 1)] {})) = (none, some (ctl 1)) := by decide
theorem test_rowctl_shape : sent (exec (.rowctlEor tL tR) (wNode 1 [(.r, dat 0)] { count := 3 })) = (some (ctl 0x300000001), some (ctl 0x300000001))
    ∧ sent (exec (.rowctlEog tL tR) (wNode 1 [(.r, dat 0)] { count := 3 })) = (some (ctl 0x300000002), some (ctl 0x300000002))
    ∧ (nodeOf (exec (.rowctlEos tL tR) (wNode 1 [(.l, dat 0)] { count := 3 }))).count = 4 := by decide
theorem test_widen : sent (exec (.widen .p tL tR) (wNode 1 [(.l, dat 5)] {})) = (some (dat 5), some (dat 5)) := by decide
theorem test_cnt : sent (exec (.cntD tL tR) (wNode 1 [(.l, ctl 2)] { vals := [(0, 6)] })) = (some (ctl 2), some (dat 6))
    ∧ (nodeOf (exec (.cntR tL tR) (wNode 1 [(.l, ctl 1)] { vals := [(0, 6)] }))).vals = [(0, 7)] := by decide
theorem test_race : sent (exec (.race 2 tL tR) (wNode 1 [(.l, dat 0xff00000000000011)] { count := 1 })) =
      (some (dat 0x3f01000000000011), some (dat 0x3f01000000000011))
    ∧ sent (exec (.race 2 tL tR) (wNode 1 [(.l, dat 0)] { count := 2 })) = (none, none) := by decide

/-- The PE of slot 1 has a format; its right port is wired from slot 0. -/
def wElem (f : BitVec 4) (ops : List (NodePort × Token)) (n : NodeSt) : State :=
  (wNode 1 ops n).modShed 0 0 fun x => { x with fmts := tblSet 0 1 f x.fmts, words := [(0, 0x13ff)] }
theorem witness_ElementwiseNodes : let v := viewOf (wElem 0 [(.l, dat 5), (.r, dat 6)] {})
    v.op .l = some (dat 5) ∧ v.wired .r = true ∧ v.wired .s = false ∧ (elemPorts (.alu .add)).filter v.wired = [.r]
    ∧ v.op .r = some (dat 6) ∧ v.fmt.isTwill = false ∧ v.sfuWaits = false ∧ v.sfuOpen = false ∧ v.node.pend = []
    ∧ (viewOf (wElem 10 [(.l, sca 5)] {})).fmt.isTwill = true := by decide
theorem test_elementwise : sent (exec (.elementwiseNode (.alu .add) tL tR) (wElem 3 [(.l, dat 5), (.r, dat 6)] {})) = (some (dat 11), some (dat 11))
    ∧ held (exec (.elementwiseNode (.alu .add) tL tR) (wElem 3 [(.l, dat 5), (.r, dat 6)] {})) .r = none := by decide

theorem witness_MacroNodes : let v := viewOf (wNode 1 [(.l, dat 5), (.r, dat 6)] {})
    v.op .l = some (dat 5) ∧ (viewOf (wNode 1 [] { count := 0x8000 })).node.count.toNat = 0x8000 ∧ (v.x.macroAt 0).pass = none
    ∧ v.x.rowSlots = 16 ∧ ((dat 5).payload.extractLsb' 0 4).toNat < 16 ∧ 128 ≤ (viewOf (wNode 1 [] { count := 128 })).node.count.toNat
    ∧ (ctl 3).endsGroup = true ∧ (ctl 1).endsRow = true ∧ v.op .r = some (dat 6) := by decide
theorem test_bload : (((after (exec (.bload .int8 2 tL tR) (wNode 1 [(.l, dat 0x0807060504030201)] { count := 8, primed := true }))).shed 0 0).macroAt 2).image =
      [(8, 1), (9, 2), (10, 3), (11, 4), (12, 5), (13, 6), (14, 7), (15, 8)]
    ∧ sent (exec (.bload .int8 2 tL tR) (wNode 1 [(.l, ctl 2)] { count := 16, primed := true })) =
      (some ⟨0x200000020, kindOrder, 0, false⟩, some ⟨0x200000020, kindOrder, 0, false⟩) := by decide
theorem test_mma : ((after (exec (.mma true .int8 0 tL tR) (wNode 1 [(.l, dat 5)] {}))).shed 0 0).building = [(4, ([5], []))] := by decide
/-- Row-slot 2 of macro 1 holds 3.0 and 1.0 in its first columns. -/
def wAcc (l : Token) (ops : List (NodePort × Token)) : State :=
  (wNode 1 ((.l, l) :: ops) {}).modShed 0 0 fun x => x.modMacro 1 fun y => { y with acc := [(256, 0x40400000), (257, 0x3f800000)] }
theorem test_acc_clear : (((after (exec (.accClr 1 tL tR) (wAcc (dat 2) []))).shed 0 0).macroAt 1).acc = []
    ∧ sent (exec (.accClr 1 tL tR) (wAcc (dat 2) [])) = (some ⟨2, kindOrder, 0, false⟩, some ⟨2, kindOrder, 0, false⟩) := by decide
theorem test_acc_slot : ((after (exec (.accRd 1 tL tR) ((wAcc (dat 9) []).modShed 0 0 fun x => { x with nctx := 2 }))).shed 0 0).stops = [1] := by decide
theorem test_lred : sent (exec (.lredMax 1 tL tR) (wAcc (dat 2) [])) = (some (dat 0x40400000), some (dat 0x40400000)) := by decide
theorem test_scale : (tblGet 0 256 (((after (exec (.scale tL tR) (wAcc (dat 0x12) [(.r, dat 0x40000000)]))).shed 0 0).macroAt 1).acc) = 0x40c00000 := by
  decide
theorem test_rmax : (tblGet 0 128 (nodeOf (exec (.rmax false .f32 tL tR) ((wNode 1 [(.l, dat 0x40400000)] {}).modShed 0 0 fun x =>
    { x with fmts := [(1, 5)] }))).vals) = 0x40400000 := by decide

theorem witness_MemoryNodesStart : let v := viewOf (wNode 56 [(.l, dat 0x2000), (.r, dat 6)] {})
    v.op .l = some (dat 0x2000) ∧ v.wired .o = false ∧ (0x2000#64).toNat % 2 ^ 3 = 0 ∧ (0x2004#64).toNat % 2 ^ 3 ≠ 0
    ∧ 2 ^ 57 ≤ (0x0200000000000000#64).toNat ∧ v.op .r = some (dat 6)
    ∧ (viewOf ((wNode 56 [] {}).modShed 0 0 fun x => { x with words := [(0, 0x383ff)] })).wired .r = true := by decide
theorem test_load_node : (after (exec (.graphLoadNode .d tL tR) (wNode 56 [(.l, dat 0x2000)] {}))).accs.map (fun a => (a.va, a.agent, a.op)) =
      [((0x2000 : Word), .node 0 0 56 0, .load .d)]
    ∧ ((after (exec (.graphLoadNode .d tL tR) (wNode 56 [(.l, dat 0x2004)] {}))).shed 0 0).sxfault.cause = 0x20 := by decide
theorem test_store_node : (after (exec (.graphStoreNode .w tL tR) (wNode 56 [(.l, dat 0x2004), (.r, dat 9)] {}))).accs.map (fun a => (a.va, a.op)) =
      [((0x2004 : Word), .store .w)] := by decide
theorem test_fe_node : (after (exec (.graphFeNode .d .take tL tR) (wNode 56 [(.l, dat 0x2000)] {}))).accs.map (fun a => (a.scope, a.op)) =
      [(.d, .fe .take)] := by decide
theorem test_upd_node : (after (exec (.upd (.int .add) tL tR) ((wNode 56 [(.l, dat 0x2004), (.r, dat 9)] {}).modShed 0 0 fun x =>
      { x with fmts := [(56, 2)] }))).accs.map (fun a => (a.va, a.op)) = [((0x2004 : Word), .upd (.int .add) 4)] := by decide

/-! The gate path and frames -/

/-- The word of a graph instruction. -/
def wordOf (i : Instr) : Inst := (encode i).getD 0
/-- Slot 1 of shed 0 holds an instruction. -/
def wGate (i : Instr) (ops : List (NodePort × Token)) (n : NodeSt) : State :=
  (wNode 1 ops n).modShed 0 0 fun x => { x with words := [(1, wordOf i)] }
/-- An ESC node whose token waits for its thread: handler 0x3000, any of the skein's first two cores, mode 1, limit 7. -/
def wEsc (l : List Token) (n : NodeSt) : State :=
  evAt ((wGate (.escOrd 0 .none .none) [] { n with toks := l }).modShed 0 0 fun x => { x with consts := [0x3000, 0x700010003] }) { unit := 1 }
theorem witness_RepliesAndEscapes_nodes : (viewOf (wGate (.escOrd 0 tL tR) [] { extra := [(0, 8)] })).esc.extra.find? (·.1 == 0) = some (0, 8)
    ∧ (viewOf (wGate (.escOrd 0 tL tR) [(.l, dat 5)] {})).esc.extra = [] ∧ (viewOf (wGate (.escOrd 0 tL tR) [(.l, dat 5)] {})).op .l = some (dat 5)
    ∧ (viewOf (wGate (.escOrd 0 tL tR) [(.l, dat 5)] {})).wired .r = false ∧ (viewOf (wGate (.escOrd 0 tL tR) [(.l, ctl 0)] {})).op .l = some (ctl 0)
    ∧ ((wEsc [dat 5] {}).shed 0 0).fires = true ∧ escConst ((wEsc [dat 5] {}).shed 0 0) 1 = some 0 ∧ (wEsc [dat 5] {}).freeSlot 0 0 = some 1
    ∧ escConst (((evAt (wEsc [] { vals := [(2, 16)] }) { id := 5 })).shed 0 0) 1 = some 0 := by decide
theorem test_esc : (nodeOf (exec (.escOrd 0 tL tR) (wGate (.escOrd 0 tL tR) [(.l, dat 5)] {}))).toks = [dat 5]
    ∧ sent (exec (.escOrd 0 tL tR) (wGate (.escOrd 0 tL tR) [] { count2 := 1, vals := [(1, 16)], extra := [(0, 8), (1, 9)] })) =
      (some (dat 9), some (dat 9))
    ∧ sent (exec (.escUnord 0 tL tR) (wGate (.escUnord 0 tL tR) [] { vals := [(2, 24)], extra := [(2, 8)] })) = (some (ctl 8), some (ctl 8)) := by decide
theorem test_escape_start : leads (exec .escapeStart (wEsc [dat 5] { count := 1 })) (fun t =>
    let x := t.slot ⟨0, 0, 1⟩
    x.pc == 0x3000 && x.g 1 == 5 && x.frm == 1 && x.wlim == 7 && x.role == .escape 0 0 1 0 false && x.inc == 1) = true := by decide
theorem test_esc_reply : leads (exec .escReplyArrival { wEsc [] { vals := [(2, 16)] } with
      net := [{ id := 5, packet := .reply 0 0 1 2 99 user }], ev := { id := 5 } }) (fun t =>
      (tblGet ({} : NodeSt) 4 (t.shed 0 0).nodes).extra == [(2, 99)] && t.net == []) = true
    ∧ leads (exec .escReplyArrival { wEsc [] {} with net := [{ id := 5, packet := .reply 0 0 1 2 99 user }], ev := { id := 5 } }) (fun t =>
      (tblGet ({} : NodeSt) 4 (t.shed 0 0).nodes).extra == [] && t.net == []) = true := by decide

/-- An EXPLK node of die 0, whose version CUR sends expert 6 to die 3. -/
def wExplk (k : Word) (ops : List (NodePort × Token)) (n : NodeSt) : State :=
  (((wGate (.explk 0 tL tR) ops n).modShed 0 0 fun x => { x with consts := [k] }).setLoom 0 5 { state := .running, sheds := [0] }).modHeddle 0 fun _ =>
    { en := true, cur := 5, curs := [(6, 0x1000000000003), (7, 0x1000000000000)] }
def gateTok : Token := dat 0x0000000600001111
/-- The version token that the node emits, which its die counts until it is closed. -/
def heldVersion : Token := { ctl 0x520 with held := true }
theorem witness_GatePathNodes : (viewOf (wNode 1 [(.l, dat 5)] {})).op .l = some (dat 5) ∧ (viewOf (wNode 1 [(.l, ctl 1)] {})).op .l = some (ctl 1)
    ∧ (viewOf (wNode 1 [] { toks := List.replicate 256 (dat 0) })).node.toks.length = 256
    ∧ (replicaDies (((wExplk 0 [(.l, gateTok)] {}).die 0).versionEntry 5 6))[0 % 1]? = some 3
    ∧ replicaDies (((wExplk 0 [(.l, dat 0)] {}).die 0).versionEntry 5 0) = [] ∧ (1#64).getLsbD 0 = true
    ∧ (viewOf (wExplk 1 [(.l, ctl 0x70010)] {})).op .l = some (ctl 0x70010) ∧ (ctl 0x70010).isHeader = true
    ∧ (replicaDies (((wExplk 1 [] {}).die 0).curEntry 7)).contains 0 = true ∧ (wExplk 1 [] {}).hqRoom 0 0 = true := by decide
theorem test_delay : (nodeOf (exec (.delay 0 tL tR) ((wNode 1 [(.l, dat 0x600000000)] {}).modShed 0 0 fun x =>
      { x with consts := [0x4080000040000000] }))).toks = [dat 0x0008000600000000]
    ∧ (nodeOf (exec (.delay 0 tL tR) (wNode 1 [(.l, ctl 1)] { toks := [dat 0x0008000600000000] }))).late = [(8, dat 0x0008000600000000), (0, ctl 1)] := by
  decide
theorem test_explk : sent (exec (.explk 0 tL tR) (wExplk 0 [(.l, gateTok)] { primed := true, vals := [(0, 5)] })) =
      (some (dat 0x0300000600001111), some (dat 0x0300000600001111))
    ∧ sent (exec (.explk 0 tL tR) (wExplk 0 [(.l, gateTok)] {})) = (some heldVersion, some heldVersion) := by decide
theorem test_explk_fill : ((after (exec (.explk 0 tL tR) (wExplk 1 [(.l, ctl 0x70010)] {}))).hq 0 0).tokens = [7]
    ∧ ((after (exec (.explk 0 tL tR) (wExplk 1 [(.l, ctl 0x70010)] {}))).shed 0 0).ctxState = [(0, .miss)]
    ∧ sent (exec (.explk 0 tL tR) (wExplk 1 [(.l, ctl 0x70010)] { latch := some (dat 7) })) = (some (ctl 0x70010), none) := by decide
/-- A DELAY node whose token leaves at aclk 8. -/
def wLate (now : Word) : State :=
  { wGate (.delay 0 tL tR) [] { late := [(8, dat 1)] } with ev := { unit := 1 }, aclk := now }
def wFilled : State :=
  { wExplk 1 [] { toks := [ctl 0x70010] } with net := [{ id := 5, packet := .fillDone 0 0 7 0 }], ev := { id := 5 } }
theorem witness_GatePathNodes_events : ((wLate 8).pump 0 0 1 |>.shed 0 0 |>.out 1) = [] ∧ wordTargets (wordOf (.delay 0 tL tR)) = [tL, tR]
    ∧ wFilled.packet 5 = some (.fillDone 0 0 7 0) ∧ (wFilled.shed 0 0).missing 0 7 = some (1, ctl 0x70010)
    ∧ (wFilled.shed 0 0).missing 0 8 = none := by decide
theorem test_delay_emit : sent (exec .delayEmit (wLate 8)) = (some (dat 1), some (dat 1)) ∧ sent (exec .delayEmit (wLate 7)) = (none, none) := by decide
theorem test_context_fill : sent (exec .contextFillComplete wFilled) = (some (ctl 0x70010), none)
    ∧ (nodeOf (exec .contextFillComplete wFilled)).latch = some (dat 7) := by decide

/-- FRAME or UNFRAME, of rows of two FP32 elements, with frames for channel port 0. -/
def wFrame (i : Instr) (ops : List (NodePort × Token)) (n : NodeSt) (l : List Frame) : State :=
  (wGate i ops n).modShed 0 0 fun x => { x with consts := [0x205, 0], frames := l, fmts := [(1, 5)], cfg := [(8, { en := true, ta := .node 1 .l })] }
/-- A frame of version 5 from die 1 for it: one row for expert 6, of elements 1.0 and 2.0. -/
def frame0 : Frame :=
  { src := 1, sender := 0, dst := 0, shed := 0, port := 0, seq := 9, version := 5,
    bytes := [5, 0, 1, 1, 5, 1, 2, 0] ++ List.replicate 8 0 ++ [6, 0] ++ List.replicate 30 0 ++ [0x77, 0, 0, 0, 0, 0, 0, 0]
      ++ List.replicate 40 0 ++ [0, 0, 0x80, 0x3f, 0, 0, 0, 0x40] }
theorem witness_FramesTravel : (viewOf (wNode 1 [(.l, ctl 0x520)] {})).op .l = some (ctl 0x520) ∧ (ctl 0x520).isVersion = true
    ∧ (ctl 1).isEor = true ∧ ((wFrame (.unframe 0 tL tR) [] {} [frame0]).shed 0 0).frameFor 1 = some frame0
    ∧ frame0.num 4 1 = 5 ∧ frame0.num 6 2 = 2 ∧ (((wFrame (.unframe 0 tL tR) [] {} [frame0]).shed 0 0).frameCfg 0).rowlen = 2
    ∧ (((wFrame (.unframe 0 tL tR) [] {} [frame0]).shed 0 0).frameCfg 0).fmt = 5 := by decide
theorem test_frame : (nodeOf (exec (.frame 0 tL tR) (wFrame (.frame 0 tL tR) [(.l, dat 3)] { toks := [ctl 0x60010] } []))).toks = [ctl 0x60010, dat 3]
    ∧ (nodeOf (exec (.frame 0 tL tR) (wFrame (.frame 0 tL tR) [(.l, ctl 0x520)] {} []))).vals = [(0, 6)] := by decide
theorem test_unframe : (((after (exec (.unframe 0 tL tR) (wFrame (.unframe 0 tL tR) [] {} [frame0]))).shed 0 0).operand 2 .l 0) = some (ctl 0x01000520)
    ∧ (((after (exec (.unframe 0 tL tR) (wFrame (.unframe 0 tL tR) [] {} [frame0]))).shed 0 0).out 1).map (·.tok) =
      [ctl 0x7700060110, ctl 0x7700060110, dat 0x3f800000, dat 0x3f800000, dat 0x40000000, dat 0x40000000, ctl 0x200000001, ctl 0x200000001, ctl 0x100000002, ctl 0x100000002] := by decide
def wPackets (q : Packet) (seen : List (BitVec 32)) : State :=
  { (w0.modDie 0 fun d => { d with frameSeen := [(1, seen)], framesKept := [{ frame0 with dst := 2 }] }) with
    net := [{ id := 5, packet := q }], ev := { id := 5 } }
def wClosed : State := evAt (w0.modShed 0 0 fun x => { x with closed := [frame0] }) {}
theorem witness_FramesTravel_events : (w0.shed 0 0).frameNode = none
    ∧ ((wFrame (.frame 0 tL tR) [] {} []).shed 0 0).frameNode = some (1, 0)
    ∧ ((wClosed.shed 0 0).closed.find? fun o => decide (wClosed.framesOut o < 8) && (wClosed.frameLeads 0 0 o.dst).passes) = some frame0
    ∧ wClosed.frameLeads 0 0 0 = .arrives
    ∧ (wPackets (.frame frame0) []).packet 5 = some (.frame frame0) ∧ (wPackets (.frame frame0) []).frameBehind 5 frame0 = false
    ∧ (wPackets (.frameCredit 0 2 0 9) []).packet 5 = some (.frameCredit 0 2 0 9) := by decide
theorem test_frame_arrival : leads (exec .frameArrival (wPackets (.frame frame0) [8])) (fun t => (t.shed 0 0).frames == [frame0]
      && (t.die 0).frameSeen == [(1, [9, 8])]) = true
    ∧ leads (exec .frameArrival (wPackets (.frame frame0) [9])) (fun t => (t.shed 0 0).frames == []
      && t.net.map (·.packet) == [.frameCredit 1 0 0 9] && (t.shed 0 0).elog.cause == 0x4b) = true := by decide
theorem test_frame_send : leads (exec .frameSend wClosed) (fun t => t.net.map (·.packet) == [.frame frame0] && (t.die 0).framesKept == [frame0]) = true := by
  decide
theorem test_frame_credit : leads (exec .frameCreditReturn (wPackets (.frameCredit 0 2 0 9) [])) (fun t => (t.die 0).framesKept == []) = true := by decide
theorem test_frame_timer : leads (exec .frameTimerExpiry (evAt { (wFrame (.frame 0 tL tR) [] {} []) with aclk := 100000 } {})) (fun t => t.net == []) = true := by
  decide

/-! Ports, streams, passes, periods and copies -/

/-- Die 0 is up; context 0 maps the page at 0x1000 to itself, through one table at 0x2000 that its entry 0 points to again. -/
def paged (s : State) : State :=
  let s := s.modDie 0 fun d => { d with
    boot := { d.boot with ready := BitVec.allOnes 27, present := true, good := 1 }, ctxs := tblSet {} 0 { root := 2, en := true } d.ctxs }
  (s.writeHome 0 0x2000 8 0x200001).writeHome 0 0x2008 8 0x1000ff
/-- Shed 0 of loom 5 runs. -/
def wShed (f : ShedSt → ShedSt) (u : Nat) : State :=
  { (w0.modShed 0 0 fun x => f { x with state := .running, loom := 5 }).setLoom 0 5 { state := .running, sheds := [0] } with ev := { unit := u, id := 5 } }
def inPort (fifo : List Token) : ShedSt → ShedSt := fun x =>
  { x with cfg := [(8, { en := true, free := true, depth := 8, ta := tL })], ports := tblSet {} 8 { fifo } x.ports }
def wToken (q : Packet) : State := { wShed (inPort []) 8 with net := [{ id := 5, packet := q }] }
def fixedIn (n : Nat) : ShedSt → ShedSt := fun x =>
  { x with cfg := [(8, { en := true, rate := 2, depth := 8, ta := tL })], ports := tblSet {} 8 { fifo := List.replicate n (dat 4) } x.ports }
def trigger0 (push : Bool) : Trigger :=
  { port := 8, push, amask := 1, actx := 0, hq := 3, next := 10, period := 4, token := 0x77, armed := true, due := true }
theorem witness_PortsMoveTokens : (wToken (.token 0 0 8 (dat 4))).packet 5 = some (.token 0 0 8 (dat 4))
    ∧ (wToken (.token 0 0 8 (dat 4))).tokenBehind 5 0 0 8 = false
    ∧ ({ wToken (.token 0 0 8 (dat 4)) with net := [{ id := 4, packet := .token 0 0 8 (dat 3) }, { id := 5, packet := .token 0 0 8 (dat 4) }] } : State).tokenBehind 5 0 0 8 = true
    ∧ (wToken (.credit 0 0 8)).packet 5 = some (.credit 0 0 8) ∧ ((wShed (inPort [dat 4]) 8).shed 0 0).fires = true
    ∧ (((wShed (inPort [dat 4]) 8).pump 0 0 (portOut 8)).shed 0 0).mayPass 8 (dat 4) = true
    ∧ (((wShed (fun x => (inPort [dat 4] x).setOperand 2 .l 0 (some (dat 1))) 8).pump 0 0 (portOut 8)).shed 0 0).mayPass 8 (dat 4) = false
    ∧ (((wShed (fixedIn 2) 0).deliverStaged 0 0).shed 0 0).stepPorts = [8]
    ∧ (((wShed (fixedIn 2) 0).deliverStaged 0 0).shed 0 0).stepReady 8 = true ∧ (((wShed (fixedIn 1) 0).deliverStaged 0 0).shed 0 0).stepReady 8 = false
    ∧ (w0.shed 0 0).fires = false ∧ (tblGet {} 0 ((wShed (fun x => { x with trigs := [(0, trigger0 true)] }) 0).shed 0 0).trigs : Trigger).due = true
    ∧ (wShed id 0).hqRoom 0 3 = true ∧ ((wShed id 0).setHq 0 3 { tokens := List.replicate 16 0 }).hqRoom 0 3 = false := by decide
theorem test_channel_token : leads (exec .channelTokenArrival (wToken (.token 0 0 8 (dat 4)))) (fun t => ((t.shed 0 0).portSt 8).fifo == [dat 4]) = true
    ∧ leads (exec .creditReturn (wToken (.credit 0 0 8))) (fun t => ((t.shed 0 0).portSt 8).credits == 1 && t.net == []) = true := by decide
theorem test_free_port : leads (exec .freePortPass (wShed (inPort [dat 4, dat 5]) 8)) (fun t => (t.shed 0 0).operand 2 .l 0 == some (dat 4)
    && ((t.shed 0 0).portSt 8).fifo == [dat 5]) = true := by decide
theorem test_fixed_rate : leads (exec .fixedRateStep (wShed (fixedIn 3) 0)) (fun t => ((t.shed 0 0).portSt 8).fifo == [dat 4]
    && (t.shed 0 0).operand 2 .l 0 == some (dat 4) && ((t.shed 0 0).portSt 8).staged == [dat 4]) = true := by decide
theorem test_trigger : leads (exec .triggerFire (wShed (fun x => { x with trigs := [(0, trigger0 true)] }) 0)) (fun t => (t.hq 0 3).tokens == [0x77]
    && (tblGet ({} : Trigger) 0 (t.shed 0 0).trigs).next == 14) = true
    ∧ leads (exec .triggerFire (wShed (fun x => { x with trigs := [(0, trigger0 false)] }) 0)) (fun t => ((t.shed 0 0).stream 0).starts == []
      && (t.shed 0 0).stops == [66]) = true := by decide
theorem test_trigger_push : leads (exec .triggerHeldPush (wShed (fun x => { x with trigs := [(0, { trigger0 true with heldPush := true })] }) 0))
    (fun t => (t.hq 0 3).tokens == [0x77]) = true := by decide

/-- A descriptor of sixteen INT64 elements at 0x1000 for a direction. -/
def desc0 (write : Bool) : List Word := [0x1000, if write then 0x13 else 3, 16, 0, 1, 0, 0, 0]
/-- Feeder port 0, and the command numbered 5 at the head of the scoreboard. -/
def feeder (write : Bool) : ShedSt → ShedSt := fun x =>
  { x with cfg := [(0, { en := true, out := write, free := true, depth := 8, ta := if write then .none else tL })] }
def wCmd (c : StreamCmd) (f : ShedSt → ShedSt) (u : Nat) : State :=
  paged (wShed (fun x => { f (feeder false x) with cmds := [{ id := 5, cmd := c, src := (user, 1), ctx := 0 }] }) u)
/-- Shed 0 of die 0 in a period, its pages and a record in memory; every walk reads the tables anew and changes nothing. -/
def wSteady (who : HeldWho) (mem : Tbl Byte) (x : ShedSt) : State :=
  { State.reset with
    cur := user, mem := mem ++ [(0x2000, 1), (0x2002, 0x20), (0x2008, 0xff), (0x200a, 0x10)], ev := { id := 5 }
    looms := [(5, { state := .running, sheds := [0] })]
    sheds := [(0, { x with state := .running, loom := 5, tlb := [⟨0, 0x1000, 0x1000, 4096, 0x1000ff⟩] })]
    dies := [(0, { boot := { ready := BitVec.allOnes 27, present := true, good := 1 }, ctxs := [(0, { root := 2, en := true })]
                   held := [⟨0, 0, who, 0x20, 0, 0, true, false⟩]
                   walks := [⟨0, 3, 0, 0x200001⟩, ⟨0, 4, 0, 0x200001⟩, ⟨0, 5, 0, 0x200001⟩] })] }
def wBind (f : ShedSt → ShedSt) : State :=
  wSteady (.descriptor 0 0 0) [(0x1801, 0x10), (0x1808, 3), (0x1810, 16), (0x1820, 1)]
    (f (feeder false { cmds := [{ id := 5, cmd := .sbind 0 0x1800, src := (user, 1), ctx := 0 }] }))
def wTrig (a : Byte) : State :=
  wSteady (.descriptor 0 0 8) ([(0x1800, 0x45), (0x1801, 3)] ++ (if a = 0 then [] else [(0x1804, a)]) ++ [(0x1808, 1), (0x180c, 4)])
    { cmds := [{ id := 5, cmd := .trig 0x1800, src := (user, 1), ctx := 0 }] }
def mma0 : ShedSt → ShedSt := fun x => { x with words := [(1, wordOf (.mma false .int8 2 tL tR))], nctx := 2 }
theorem witness_StreamCommands_perform : w0.boardCmd = none ∧ (wBind id).boardCmd = some (.sbind 0 0x1800)
    ∧ ((wBind id).shed 0 0).portBusy 5 0 = false ∧ ((wBind id).shed 0 0).streamDone 0 = true ∧ ((wBind id).shed 0 0).streamStopped 0 = false
    ∧ Descriptor.ok (desc0 false) = true ∧ Descriptor.writes (desc0 false) = false ∧ Descriptor.ok [0, 0x800, 0, 0, 0, 0, 0, 0] = false
    ∧ (((wBind fun x => x.setStream 0 { running := true })).shed 0 0).streamDone 0 = false
    ∧ (wCmd (.sgo 1 1) (fun x => x.setStream 0 { desc := desc0 false }) 0).boardCmd = some (.sgo 1 1) ∧ (1#8) = 1#8 <<< 0
    ∧ (wCmd (.sbar 1) id 0).boardCmd = some (.sbar 1) ∧ ((wCmd (.sbar 1) id 0).shed 0 0).barDone 5 1 = true
    ∧ ((wCmd (.sbar 1) (fun x => x.setStream 0 { running := true }) 0).shed 0 0).barDone 5 1 = false
    ∧ (wTrig 0).boardCmd = some (.trig 0x1800) ∧ ((wTrig 0).shed 0 0).before 5 = []
    ∧ (match (wTrig 0).boardRecord 0 0 8 0x1800 4 with
        | .ok (some w, _) => !triggerBad w
        | _ => false) = true
    ∧ (match (wTrig 1).boardRecord 0 0 8 0x1800 4 with
        | .ok (some w, _) => triggerBad w
        | _ => false) = true
    ∧ (wCmd (.tq false 0x0002883) mma0 0).boardCmd = some (.tq false 0x2883) ∧ ((wCmd (.tq false 0x2883) mma0 0).shed 0 0).stopped (queueItem false) = false
    ∧ ((wCmd (.tq false 0x2883) mma0 0).shed 0 0).queueMacros false 2 = 4 ∧ ((wCmd (.tq false 0x2883) mma0 0).shed 0 0).rowSlots = 8 := by decide
theorem record_wBind : (wBind id).boardRecord 0 0 0 0x1800 8 = .ok (some (desc0 false), (wBind id).unhold 0 (.descriptor 0 0 0)) := by
  rw [boardRecord_of_steady (wBind id) 0 0 0 0x1800 8 0 (fun m => 0x1800 + 8 * m) (by decide) (by decide) (by decide)
    (fun m hm => match m, List.mem_range.mp hm with
      | 0, _ | 1, _ | 2, _ | 3, _ | 4, _ | 5, _ | 6, _ | 7, _ => rfl) (by decide)]
  have h : ((List.range 8).map fun m => (wBind id).readHome 0 (0x1800 + 8 * m) 8) = desc0 false := by decide
  rw [h]
theorem test_sbind_perform : leads (exec .sbindPerform (wBind id)) (fun t => ((t.shed 0 0).stream 0).desc == desc0 false && (t.shed 0 0).cmds == []) = true := by
  have hc : (wBind id).boardCmd = some (.sbind 0 0x1800) := by decide
  have hb : (((wBind id).shed 0 0).portBusy 5 0 || !((wBind id).shed 0 0).streamDone 0) = false := by decide
  have hs : ((wBind id).shed 0 0).streamStopped 0 = false := by decide
  have he : (wBind id).ev = { id := 5 } := rfl
  show leads (execSbindPerform (wBind id)) _ = true
  simp only [execSbindPerform, hc, he, hb, hs, record_wBind, Bool.false_eq_true, if_false]
  decide
theorem test_sgo_perform : leads (exec .sgoPerform (wCmd (.sgo 1 1) (fun x => x.setStream 0 { desc := desc0 false }) 0)) (fun t =>
      ((t.shed 0 0).stream 0).running && ((t.shed 0 0).stream 0).ctx == 1) = true
    ∧ leads (exec .sgoPerform (wCmd (.sgo 1 1) id 0)) (fun t => (t.shed 0 0).stops == [66] && (t.shed 0 0).sffault.sub == 9) = true := by decide
theorem test_sbar_perform : leads (exec .sbarPerform (wCmd (.sbar 1) id 0)) (fun t => (t.shed 0 0).cmds == []) = true
    ∧ leads (exec .sbarPerform (wCmd (.sbar 1) (fun x => x.setStream 0 { running := true }) 0)) (fun t => (t.shed 0 0).cmds.length == 1) = true := by decide
theorem test_trig_perform : leads (exec .trigPerform (wTrig 0)) (fun t =>
    let r : Trigger := tblGet {} 5 (t.shed 0 0).trigs
    r.port == 8 && r.what == 2 && r.push && r.next == 1 && r.period == 4 && r.armed) = true
    ∧ leads (exec .trigPerform (wTrig 1)) (fun t => (t.shed 0 0).sffault.sub == 6) = true := by decide
theorem test_tq_perform : leads (exec .tqPerform (wCmd (.tq false 0x2883) mma0 0)) (fun t => (t.shed 0 0).tqa.entries == [⟨4, 3, 0, 10⟩]) = true := by decide

/-- A stream at its second element; memory holds 0x99 there. -/
def wElemStream (write : Bool) (f : ShedSt → ShedSt) : State :=
  (paged (wShed (fun x => f ((feeder write x).setStream 0 { desc := desc0 write, running := true, pos := 1 })) 0)).writeHome 0 0x1008 8 0x99
def bankSector : Sector := { bytes := List.replicate 48 1, dirty := true, key := 0, va := 0x1000 }
def wPoint : State := wElemStream false fun x =>
  { x.setStream 0 { desc := desc0 false, wins := [(0x1000, 0x1010)] } with bbase := 0x1000, blen := 0xc0, fcb := [(0x1000 - 0x1000 % 48, some bankSector)] }
def wMiss : State := { (wElemStream false fun x => { x with bbase := 0x1000, blen := 0xfc0 }) with ev := { val := 0x1008 } }
theorem witness_StreamsMoveElements : ((wElemStream false id).shed 0 0).streamStopped 0 = false ∧ ((wElemStream false id).shed 0 0).injects = true
    ∧ (((wElemStream false id).shed 0 0).stream 0).needsIndex = false ∧ ((wElemStream false id).shed 0 0).ctxAt 0 = .active
    ∧ (((wElemStream false id).shed 0 0).portSt 0).fifo.length < (((wElemStream false id).shed 0 0).port 0).depth
    ∧ elementFault (desc0 false) (Descriptor.offset (desc0 false) 1 none) = none
    ∧ elementFault [0x1004, 3, 16, 0, 1, 0, 0, 0] 0 = some 0x20 ∧ elementFault [0x01fffffffffffff8, 3, 16, 0, 1, 0, 0, 0] 1 = some 0x21
    ∧ (match feederGet 0 0 false (chunks 3 0x1008 8) [] (wElemStream false id) with
        | .ok (bs, _) => bs == bytesOfWord 8 0x99
        | .error _ => false) = true
    ∧ (match feederPut 0 0 false (cutBytes 0x1008 (bytesOfWord 8 7)) (wElemStream true id) with
        | .ok _ => true
        | .error _ => false) = true
    ∧ (wMiss.shed 0 0).bound 0x1008 = true ∧ (w0.shed 0 0).bound 0 = false
    ∧ (match wMiss.feederReach 0 0 0x1008 needR false false with
        | .ok pa _ t => pa == 0x1008 && (t.shed 0 0).sector pa == none && decide (((t.shed 0 0).linesOf (bankSet pa)).length < 4)
        | _ => false) = true
    ∧ ((wPoint.shed 0 0).stream 0).wins = [(0x1000, 0x1010)] ∧ ((wMiss.shed 0 0).stream 0).wins = [] := by decide
theorem test_stream_read : leads (exec .streamElement (wElemStream false id)) (fun t => ((t.shed 0 0).portSt 0).fifo == [dat 0x99]
    && ((t.shed 0 0).stream 0).pos == 2) = true := by decide
theorem test_stream_write : leads (exec .streamElement (wElemStream true fun x => { x with ports := tblSet {} 0 { fifo := [dat 7] } x.ports }))
    (fun t => t.readHome 0 0x1008 8 == 7 && ((t.shed 0 0).portSt 0).fifo == []) = true := by decide
theorem test_fcb_fill : leads (exec .fcbMissFill wMiss) (fun t => ((t.shed 0 0).sector 0x1008).map (fun z => (z.bytes.length, z.dirty)) == some (48, false)) = true := by
  decide
theorem test_window : leads (exec .windowWritebackDone wPoint) (fun t => (t.shed 0 0).swincnt == 1 && ((t.shed 0 0).stream 0).wins == []
    && t.readHome 0 0x1000 1 == 1) = true := by decide

/-- Tile queue A has an entry for macro 1 in row-slot 2, and a row of bytes 3 and 5 that MMA in slot 1 gathered. -/
def wPass (f : ShedSt → ShedSt) : State :=
  wShed (fun x => f { x with
    words := [(1, wordOf (.mma false .e5m2 1 tL tR))], tqa := { entries := [⟨2, 2, 0, 1⟩] }, rows := [(0, [([0x3c, 0x40], [])])]
    macros := tblSet {} 1 { fmt := .e5m2, image := [(0, 0x3c), (1, 0x44)] } [] }) 1
def pass0 : Pass := { row := 2, ctx := 0, q := false, last := true, elems := [0x3c, 0x40], scales := [] }
theorem witness_PassesRun : (w0.shed 0 0).fires = false ∧ ((wPass id).shed 0 0).arbitrate = some (false, 0, true)
    ∧ ((wPass id).shed 0 0).headEntry false = some ⟨2, 2, 0, 1⟩ ∧ tblGet [] (fifoKey false 0) ((wPass id).shed 0 0).rows = [([0x3c, 0x40], [])]
    ∧ (((wPass id).shed 0 0).macroAt 1).pass = none
    ∧ (((wPass fun x => x.modMacro 1 fun y => { y with pass := some pass0 }).shed 0 0).macroAt 1).pass = some pass0
    ∧ ((wPass id).shed 0 0).mmaSlot false 1 = some 1 ∧ ((wPass id).shed 0 0).stopped 1 = false
    ∧ wordTargets (tblGet 0 1 ((wPass id).shed 0 0).words) = [tL, tR] := by decide
theorem test_pass_issue : leads (exec .passIssue (wPass id)) (fun t => ((t.shed 0 0).macroAt 1).pass == some pass0 && (t.shed 0 0).tqa.entries == []
    && (t.shed 0 0).rows == [] && (t.shed 0 0).turnB) = true := by decide
theorem test_pass_column : (passColumn (passVals .e5m2 pass0) (columnVals .e5m2 [(0, 0x3c), (1, 0x44)] 0x6000 0) 0).1 = 0x41100000
    ∧ passToken pass0 1 = ⟨0x12, kindOrder, 0, false⟩ := by decide

/-! Periods and copies -/

/-- Loom 5 of shed 0 loads the record at 0x400 of the supervisor's scratchpad: one shed, whose block is at an address. -/
def wLoad (n : Byte) (block : Byte) (f : ShedSt → ShedSt) : State :=
  let a := paOf 0 1 0x400
  { State.reset with
    mem := [(a, n), (a + 0x40, block), (a + 0x41, 6), (a + 0x45, 1), (a + 0x203, 0xfe)], ev := { unit := 5 }
    sheds := [(0, f { state := .leased, loom := 5 })]
    looms := [(5, { state := .loading, sheds := [0], owner := some boss, record := bootPc 0 + 0x400 })] }
def qLoad (n block : Byte) : State := { wLoad n block id with cur := boss, word := ((wLoad n block id).loom 0 5).word }
def rec8 (n block : Byte) : List Word × State := (doublesFound boss needR (bootPc 0 + 0x400) (List.range 8) [] (qLoad n block)).getD ([], w0)
def rec32 (n block : Byte) : List Word × State :=
  (doublesFound boss needR (bootPc 0 + 0x440) (List.range 32) [] (rec8 n block).2).getD ([], w0)
def recHead : List Word × State := (doublesFound boss needR (bootPc 0 + 0x600) [0] [] (rec32 1 0).2).getD ([], w0)
def recWord : List Word × State := (doublesFound boss needR (bootPc 0 + 0x600) [0] [] recHead.2).getD ([], w0)
theorem reads_bad : ∀ k, (qLoad 0 0).withConfig (bootPc 0 + 0x400) 1 k = k ⟨1, 0, true, []⟩ (rec8 0 0).2 :=
  withConfig_of_bad _ _ _ (rec8 0 0).1 _ (readsRecord_of_found _ _ _ _ _ _ (by decide) (by decide)) (by decide)
/-- The record whose entry names no word (its block's address is odd), and the one whose block has one empty slot. -/
def recOdd : ConfigRec := ⟨1, 0, false, [shedRec (rec32 1 1).1]⟩
def recOne : ConfigRec := ⟨1, 0, false, [{ shedRec (rec32 1 0).1 with head := some 0xfe000000 }.withBlock ⟨.graph, 0, 0, false⟩ [0, 0, 0, 0]]⟩
theorem reads_odd : ∀ k, (qLoad 1 1).withConfig (bootPc 0 + 0x400) 1 k = k recOdd (rec32 1 1).2 :=
  withConfig_of_read _ _ _ 1 (rec8 1 1).1 (rec32 1 1).1 (rec8 1 1).2 _ _ _
    (readsRecord_of_found _ _ _ _ _ _ (by decide) (by decide)) (by decide) (by decide)
    (readsRecord_of_found _ _ _ _ _ _ (by decide) (by decide)) fun k => readBlocks_of_odd (rec32 1 1).1 [] [] _ k (by decide)
theorem bytes_head : (rec32 1 0).2.ReadsBytes (bootPc 0 + 0x600) 4 [0, 0, 0, 0xfe] recHead.2 := by
  have h := readsBytes_of_found (rec32 1 0).2 (bootPc 0 + 0x600) 4 recHead.1 recHead.2 (by decide)
  rwa [show ((recHead.1.flatMap (bytesOfWord 8)).drop ((bootPc 0 + 0x600).toNat % 8)).take 4 = [0, 0, 0, 0xfe] by decide] at h
theorem bytes_word : recHead.2.ReadsBytes (bootPc 0 + 0x604) 4 [0, 0, 0, 0] recWord.2 := by
  have h := readsBytes_of_found recHead.2 (bootPc 0 + 0x604) 4 recWord.1 recWord.2 (by decide)
  rwa [show ((recWord.1.flatMap (bytesOfWord 8)).drop ((bootPc 0 + 0x604).toNat % 8)).take 4 = [0, 0, 0, 0] by decide] at h
theorem reads_one : ∀ k, (qLoad 1 0).withConfig (bootPc 0 + 0x400) 1 k = k recOne recWord.2 :=
  withConfig_of_read _ _ _ 1 (rec8 1 0).1 (rec32 1 0).1 (rec8 1 0).2 (rec32 1 0).2 _ _
    (readsRecord_of_found _ _ _ _ _ _ (by decide) (by decide)) (by decide) (by decide)
    (readsRecord_of_found _ _ _ _ _ _ (by decide) (by decide)) fun k =>
      readBlocks_of_block (rec32 1 0).1 [] [] _ recHead.2 _ [0, 0, 0, 0xfe] [0, 0, 0, 0] ⟨.graph, 0, 0, false⟩ k (by decide)
        (by rw [show (rec32 1 0).1.getD 0 0 = bootPc 0 + 0x600 by decide]; exact bytes_head) (by decide) rfl
        (by rw [show (rec32 1 0).1.getD 0 0 = bootPc 0 + 0x600 by decide]; exact bytes_word)
/-- What the load checks of a record. -/
def env0 (g : ConfigRec) (t : State) : CheckEnv :=
  { all := g.sheds, sheds := 1, nctx := g.nctx, pre := false, retired := 0, bound := t.boundElsewhere 0 5 }
theorem witness_PeriodsLoadDrainAndSave_loads : ((wLoad 1 0 id).loom 0 5).owner = some boss ∧ ((wLoad 1 0 id).loom 0 5).state = .loading
    ∧ (wLoad 1 0 id).inMotion 0 5 = false
    ∧ ({ wLoad 1 0 id with net := [{ id := 0, packet := .token 0 0 8 (dat 4) }] } : State).inMotion 0 5 = true
    ∧ (((wLoad 1 0 id).loomSheds 0 5).map fun b => ((wLoad 1 0 id).shed 0 b).residual).sum = 0
    ∧ (((wLoad 1 0 (inPort [dat 4])).loomSheds 0 5).map fun b => ((wLoad 1 0 (inPort [dat 4])).shed 0 b).residual).sum = 1
    ∧ recOne.badHeader = false ∧ checkSheds (env0 recOne recWord.2) (fun k => (recWord.2.shed 0 ([0].getD k 0)).retiredMacros) [] recOne.sheds = none
    ∧ (checkSheds (env0 recOdd (rec32 1 1).2) (fun k => ((rec32 1 1).2.shed 0 ([0].getD k 0)).retiredMacros) [] recOdd.sheds).isSome = true := by
  decide
/-- Loom 5 of shed 0 writes its save area at 0x200000, in a page of 2 MB; every walk reads the tables anew. -/
def wCkpt : State :=
  { State.reset with
    mem := [(0x2000, 1), (0x2002, 0x20), (0x2008, 0xff), (0x200b, 0x20)]
    looms := [(5, { state := .saving, sheds := [0], owner := some boss, save := 0x200000 })]
    sheds := [(0, { state := .saved, loom := 5, tlb := [⟨0, 0x200000, 0x200000, 0x200000, 0x200000ff⟩] })]
    dies := [(0, { boot := { ready := BitVec.allOnes 27, present := true, good := 1 }, ctxs := [(0, { root := 2, en := true })]
                   held := [⟨0, 0, .descriptor 0 0 9, 0x20, 0, 0, true, false⟩]
                   walks := [⟨0, 3, 0, 0x200001⟩, ⟨0, 4, 0, 0x200001⟩, ⟨0, 5, 0, 0x200001⟩] })] }

theorem walk_wide (va : Nat) (h1 : 0x200000 ≤ va) (h2 : va < 0x400000) :
    walkFrom wCkpt 0 { root := 2, en := true } va (needW ||| needU) true none 5 0x2000 []
      = .ok (0x200000ff, 2, 0x2008, [⟨0, 3, 0, 0x200001⟩, ⟨0, 4, 0, 0x200001⟩, ⟨0, 5, 0, 0x200001⟩]) := by
  have e5 : va / 2 ^ (12 + 9 * 4) = 0 := Nat.div_eq_of_lt (by omega)
  have e4 : va / 2 ^ (12 + 9 * 3) = 0 := Nat.div_eq_of_lt (by omega)
  have e3 : va / 2 ^ (12 + 9 * 2) = 0 := Nat.div_eq_of_lt (by omega)
  have e2 : va / 2 ^ (12 + 9 * 1) = 1 := by omega
  rw [walkFrom_table wCkpt 0 _ va _ none 4 0x2000 0x2000 0x200001 _ (by rw [e5]) (by decide) (by decide) (by decide) (by decide) (by decide) (by decide) (by decide), e5]
  rw [show ptePa 0x200001 = 0x2000 by decide]
  rw [walkFrom_table wCkpt 0 _ va _ none 3 0x2000 0x2000 0x200001 _ (by rw [e4]) (by decide) (by decide) (by decide) (by decide) (by decide) (by decide) (by decide), e4]
  rw [show ptePa 0x200001 = 0x2000 by decide]
  rw [walkFrom_table wCkpt 0 _ va _ none 2 0x2000 0x2000 0x200001 _ (by rw [e3]) (by decide) (by decide) (by decide) (by decide) (by decide) (by decide) (by decide), e3]
  rw [show ptePa 0x200001 = 0x2000 by decide]
  exact walkFrom_leaf wCkpt 0 _ va _ none 1 0x2000 0x2008 0x200000ff _ (by rw [e2]) (by decide) (by decide) (by decide) (by decide) (by decide) (by decide) (by decide) (by decide)
abbrev wide : TlbEntry := ⟨0, 0x200000, 0x200000, 0x200000, 0x200000ff⟩
theorem reach_wide (va : Nat) (h1 : 0x200000 ≤ va) (h2 : va < 0x400000) :
    wCkpt.feederReach 0 0 (BitVec.ofNat 64 va) needW false true = .ok va 0 wCkpt := by
  have hv : (BitVec.ofNat 64 va).toNat = va := by rw [BitVec.toNat_ofNat]; omega
  have hc : wide.covers 0 va = true := by simp [TlbEntry.covers]; omega
  have hp : wide.pa va = va := by simp only [TlbEntry.pa]; omega
  have hf : formTlb { root := 2, en := true } va 0x200000ff 2 0x2008 false = wide := by
    have h3 : va - va % 0x200000 = 0x200000 := by omega
    simp only [formTlb, Bool.false_eq_true, if_false, show ¬ (2 = 1) by decide, h3]
    decide
  have ht : wCkpt.translate 0 0 [wide] va (needW ||| needU) true = (.ok va 0 wCkpt, [wide]) := by
    have hfil : [wide].filter (fun e => !e.covers 0 va) = [] := by rw [List.filter_cons, hc]; rfl
    rw [translate_of_walk wCkpt 0 0 [wide] va (needW ||| needU) none { root := 2, en := true } _ _ _ _ (by decide) rfl (walk_wide va h1 h2)]
    show (Walked.ok ((formTlb { root := 2, en := true } va 0x200000ff 2 0x2008 false).pa va) _ _,
      (formTlb { root := 2, en := true } va 0x200000ff 2 0x2008 false) :: ([wide].filter (fun e => !e.covers 0 va)).filter _) = _
    rw [hfil, hf, hp]
    rfl
  have hpl : wCkpt.place 0 va 0 false (BitVec.ofNat 64 va) = .ok va 0 wCkpt := by
    have d1 : paDie va = 0 := by simp only [paDie]; rw [show va / 2 ^ 42 = 0 by omega]; rfl
    have d2 : paSpace va = 0 := by simp only [paSpace]; omega
    have d3 : paOffset va = va := by simp only [paOffset]; omega
    have hb : wCkpt.badPa 0 va = none := by
      have : ¬ 2 ^ 48 ≤ va := by omega
      have h3 : ¬ 0xbffffffd00 ≤ va := by omega
      simp only [State.badPa, this, if_false, d1, State.dieReached, beq_self_eq_true, Bool.true_or, Bool.not_true,
        Bool.false_eq_true, d2, d3, h3]
    have hu : wCkpt.unitsReady 0 va = true := by
      have hs : stackOf va < 12 := Nat.mod_lt _ (by decide)
      have hr : (wCkpt.die 0).boot.ready = BitVec.allOnes 27 := by decide
      simp only [State.unitsReady, d1, hr, d2, d3, beq_self_eq_true, Bool.true_or, Bool.true_and, BitVec.getLsbD_allOnes]
      simp; omega
    simp only [State.place, hb, d2, hu, if_true]
    rfl
  simp only [State.feederReach, hv]
  show (match wCkpt.translate 0 0 [wide] va (needW ||| needU) true with
    | (.ok pa key t, tlb) => (t.modShed 0 0 fun y => { y with tlb }).place 0 pa key false _
    | (.fault cause sub addr, _) => .fault cause sub addr
    | (.notReady, _) => .notReady) = _
  rw [ht]
  exact hpl
theorem places_wide (n : Nat) (hn : n ≤ 0x10000) (x : ShedSt) :
    ∀ e ∈ (savePlaces 0x200000 0 n).zipIdx.map fun e => (e.1, bytesOfWord 8 (x.saveWord e.2)),
      0x200000 ≤ e.1 ∧ e.1 < 0x400000 := by
  intro e he
  obtain ⟨q, hq, rfl⟩ := List.mem_map.mp he
  rw [savePlaces] at hq
  obtain ⟨k, hk, h⟩ := List.mem_map.mp (List.fst_mem_of_mem_zipIdx hq)
  have := List.mem_range.mp hk
  simp only [saveBytes] at h
  simp only; omega
theorem saves_wide (l : List (Nat × List Byte)) (hin : ∀ e ∈ l, 0x200000 ≤ e.1 ∧ e.1 < 0x400000) :
    ∃ t, feederPut 0 0 true l wCkpt = .ok t ∧ t.loom 0 5 = wCkpt.loom 0 5 ∧ (t.shed 0 0).state = .saved := by
  have hb : ∀ va, (wCkpt.shed 0 0).banked va va = false := by
    intro va
    have : (wCkpt.shed 0 0).bound va = false := by
      simp only [ShedSt.bound, show (wCkpt.shed 0 0).blen = 0 by decide, show (wCkpt.shed 0 0).bbase = 0 by decide]
      simp
    simp only [ShedSt.banked, this, Bool.false_and]
  have hf := feederFind_of_steady 0 0 true wCkpt 0 id l [] (fun e he => reach_wide e.1 (hin e he).1 (hin e he).2) (fun e _ => hb e.1)
  have hw := feederWrites_frame 0 0 (l.map fun e => (e.1, id e.1, (0 : Byte), e.2)) wCkpt (by
    intro q hq
    obtain ⟨e, _, rfl⟩ := List.mem_map.mp hq
    exact hb e.1) fun _ => rfl
  have h1 := congrArg State.sheds hw
  have h2 := congrArg State.looms hw
  dsimp only at h1 h2
  simp only [feederPut, hf, List.nil_append]
  refine ⟨_, rfl, ?_, ?_⟩
  · simp only [State.loom, h2]
  · simp only [State.shed, h1]; decide
theorem witness_PeriodsLoadDrainAndSave_saves : (wCkpt.shed 0 0).state = .saved ∧ (wCkpt.loom 0 5).state = .saving
    ∧ wCkpt.heldWaits 0 (.descriptor 0 0 9) = false ∧ wCkpt.heldFails 0 (.descriptor 0 0 9) = false
    ∧ wCkpt.feederBusy 0 0 (.descriptor 0 0 9) = false ∧ wCkpt.heldRetries 0 (.descriptor 0 0 9) = true ∧ (wCkpt.loom 0 5).owner = some boss
    ∧ ∃ t, feederPut 0 0 true ((savePlaces 0x200000 0 ((0x10000 + 0x1200) / 8)).zipIdx.map fun e =>
        (e.1, bytesOfWord 8 ((wCkpt.shed 0 0).saveWord e.2))) wCkpt = .ok t
      ∧ t.loom 0 5 = wCkpt.loom 0 5 ∧ (t.shed 0 0).state = .saved :=
  ⟨by decide, by decide, by decide, by decide, by decide, by decide, by decide, saves_wide _ (places_wide _ (by decide) _)⟩
theorem test_configuration_load : leads (exec .configurationLoad (wLoad 0 0 id)) (fun t => (t.loom 0 5).state == .leased
      && (t.slot boss).state == .trapped) = true
    ∧ leads (exec .configurationLoad (wLoad 1 0 id)) (fun t => (t.loom 0 5).state == .running && (t.shed 0 0).state == .running
      && (t.slot boss).pc == bootPc 0 + 4) = true := by decide

/-- Loom 5 drains for its slot; a token that a slot can still take makes it busy. -/
def wDrain (st : ShedState) (f : ShedSt → ShedSt) : State :=
  { (State.reset.modSlot boss fun x => { x with state := .waitData }) with
    ev := { unit := 5 }, sheds := [(0, f { state := st, loom := 5 })]
    looms := [(5, { state := .draining, sheds := [0], owner := some boss })] }
/-- The supervisor's request to resume loom 5, which was saved with one shed. -/
def wResume : State :=
  ({ (State.reset.modSlot boss fun x => { x with state := .waitData }) with
    ev := { unit := 5 }, looms := [(5, { state := .saved, sheds := [3], images := [{ loom := 5, state := .saved }] })] } : State).modDie 0 fun d =>
      { d with leases := [{ kind := .resume 5, who := some (boss, 0), level := 0, count := 1 }] }
theorem witness_PeriodsLoadDrainAndSave_drains : ((wDrain .draining id).loom 0 5).settling = false
    ∧ ((wDrain .draining id).loom 0 5).state = .draining ∧ (wDrain .draining id).shedBusy 0 0 false = false
    ∧ (wDrain .draining (inPort [dat 4])).shedBusy 0 0 false = true
    ∧ (wDrain .draining id).faultyShed 0 5 = none
    ∧ (w0.loom 0 5).state ≠ .draining ∧ (w0.loom 0 5).state ≠ .saving
    ∧ ((wResume.die 0).headLease.map (·.kind)) = some (.resume 5) ∧ (w0.die 0).headLease = none
    ∧ wResume.pickSheds 0 { kind := .resume 5, who := some (boss, 0), level := 0, count := 1 } = some [0]
    ∧ (wResume.slot boss).role = .plain := by decide
theorem test_drain_complete : leads (exec .drainComplete (wDrain .draining id)) (fun t => (t.loom 0 5).state == .leased
      && (t.shed 0 0).state == .leased && (t.slot boss).pc == bootPc 0 + 4 && (t.slot boss).state == .ready) = true
    ∧ leads (exec .drainComplete (wDrain .draining (inPort [dat 4]))) (fun t => (t.loom 0 5).state == .draining) = true := by decide
theorem test_resume_grant : leads (exec .resumeGrant wResume) (fun t => (t.loom 0 5).state == .resuming && (t.loom 0 5).sheds == [0]
    && (t.shed 0 0).state == .loading && (t.slot boss).pc == bootPc 0 && (t.slot boss).await == .loom 5) = true := by decide

/-- Loom 5 is restored from the record of wLoad; its save area could not be read. -/
def wRestore : State :=
  { (wLoad 1 0 id) with
    ev := { unit := 5, val := 1 }
    looms := [(5, { state := .resuming, sheds := [0], owner := some boss, record := bootPc 0 + 0x400, images := [{}] })]
    dies := [(0, { held := [⟨0, 0, .descriptor 0 0 9, 0x20, 0, 0, false, true⟩] })] }
def qRestore : State := { wRestore with cur := boss, word := (wRestore.loom 0 5).word }.modLoom 0 5 fun y => { y with resumes := y.resumes + 1 }
def back8 : List Word × State := (doublesFound boss needR (bootPc 0 + 0x400) (List.range 8) [] qRestore).getD ([], w0)
def back32 : List Word × State := (doublesFound boss needR (bootPc 0 + 0x440) (List.range 32) [] back8.2).getD ([], w0)
def backHead : List Word × State := (doublesFound boss needR (bootPc 0 + 0x600) [0] [] back32.2).getD ([], w0)
def backWord : List Word × State := (doublesFound boss needR (bootPc 0 + 0x600) [0] [] backHead.2).getD ([], w0)
theorem back_head : back32.2.ReadsBytes (bootPc 0 + 0x600) 4 [0, 0, 0, 0xfe] backHead.2 := by
  have h := readsBytes_of_found back32.2 (bootPc 0 + 0x600) 4 backHead.1 backHead.2 (by decide)
  rwa [show ((backHead.1.flatMap (bytesOfWord 8)).drop ((bootPc 0 + 0x600).toNat % 8)).take 4 = [0, 0, 0, 0xfe] by decide] at h
theorem back_word : backHead.2.ReadsBytes (bootPc 0 + 0x604) 4 [0, 0, 0, 0] backWord.2 := by
  have h := readsBytes_of_found backHead.2 (bootPc 0 + 0x604) 4 backWord.1 backWord.2 (by decide)
  rwa [show ((backWord.1.flatMap (bytesOfWord 8)).drop ((bootPc 0 + 0x604).toNat % 8)).take 4 = [0, 0, 0, 0] by decide] at h
theorem reads_back : ∀ k, qRestore.withConfig (bootPc 0 + 0x400) 1 k = k recOne backWord.2 := by
  have h32 : back32.1 = (rec32 1 0).1 := by decide
  have h := withConfig_of_read qRestore (bootPc 0 + 0x400) 1 1 back8.1 back32.1 back8.2 back32.2 backWord.2 _
    (readsRecord_of_found _ _ _ _ _ _ (by decide) (by decide)) (by decide) (by decide)
    (readsRecord_of_found _ _ _ _ _ _ (by decide) (by decide)) fun k =>
      readBlocks_of_block back32.1 [] [] _ backHead.2 _ [0, 0, 0, 0xfe] [0, 0, 0, 0] ⟨.graph, 0, 0, false⟩ k (by decide)
        (by rw [show back32.1.getD 0 0 = bootPc 0 + 0x600 by decide]; exact back_head) (by decide) rfl
        (by rw [show back32.1.getD 0 0 = bootPc 0 + 0x600 by decide]; exact back_word)
  intro k
  rw [h k, h32]
  congr 1
theorem restore_words (x y : ShedSt) (ws : List Word) (hx : x.words = []) : (x.restore y ws).words = [] := by
  have h1 : ∀ (l : List (TokenPlace × Token)) (z : ShedSt), z.words = [] → (l.foldl ShedSt.placeToken z).words = [] := by
    intro l
    induction l with
    | nil => intro z h; exact h
    | cons a l ih =>
      intro z h
      refine ih _ ?_
      obtain ⟨q, k⟩ := a
      cases q <;> simpa [ShedSt.placeToken, ShedSt.modPort] using h
  refine h1 _ _ ?_
  simp [ShedSt.setTickets, ShedSt.escSlots, ShedSt.takeImage, hx]
theorem fault_words (s : State) (item fp : Nat) (cause : Byte) (h : (s.shed 0 0).words = []) :
    ((s.feederFault 0 0 item fp cause).shed 0 0).words = [] := by
  have hn : ∀ (t : State) (b : Nat), (t.notify 0 b).sheds = t.sheds := by
    intro t b
    simp only [State.notify, State.msix]
    split
    · rfl
    · split
      · split <;> rfl
      · rfl
  have hs : ∀ (t : State) (b : Nat), (t.notify 0 b).shed 0 0 = t.shed 0 0 := fun t b => by simp only [State.shed, hn]
  simp only [State.feederFault, State.countNotify, State.count, State.modLog, errsumBit, hs, State.modShed_self]
  exact h
theorem witness_PeriodsLoadDrainAndSave_restores : (wRestore.loom 0 5).state = .resuming ∧ (wRestore.loom 0 5).owner = some boss
    ∧ wRestore.ev.val.getLsbD 0 = true ∧ recOne.badHeader = false
    ∧ checkSheds (env0 recOne backWord.2) (fun k => (backWord.2.shed 0 ([0].getD k 0)).retiredMacros) [] recOne.sheds = none
    ∧ ∃ w w', (backWord.2.loadLoom 0 5 recOne).restoreSheds 0 5 [0] = .ok w
      ∧ w.refill 0 ([0].flatMap fun b => (w.shed 0 b).fills b) = some w' := by
  refine ⟨by decide, by decide, by decide, by decide, by decide, ?_⟩
  generalize hL : backWord.2.loadLoom 0 5 recOne = L
  have h1 : L.heldWaits 0 (.descriptor 0 0 9) = false := by subst hL; decide
  have h2 : L.feederBusy 0 0 (.descriptor 0 0 9) = false := by subst hL; decide
  have h3 : L.heldFails 0 (.descriptor 0 0 9) = true := by subst hL; decide
  have h4 : (L.shed 0 0).words = [] := by subst hL; decide
  simp only [State.restoreSheds, State.restoreShed, h1, h2, h3, Bool.or_self, Bool.false_eq_true, if_false, if_true]
  have hr : ∀ w : State, (w.shed 0 0).words = [] → w.refill 0 ([0].flatMap fun b => (w.shed 0 b).fills b) = some w := by
    intro w hw
    have hf : (w.shed 0 0).fills 0 = [] := by unfold ShedSt.fills; rw [hw]; rfl
    show w.refill 0 ((w.shed 0 0).fills 0 ++ []) = some w
    rw [hf]
    rfl
  refine ⟨_, _, rfl, hr _ (fault_words _ _ _ _ ?_)⟩
  simp only [State.modShed_self]
  exact restore_words _ _ _ h4

/-- The supervisor of core 0 kicked hart 0: two doubles from 0x400 of its scratchpad, 0x11 and 0x22, to 0x500. -/
def kickC : Kick := { tmpl := bootPc 0 + 0x600, die := 0, core := 0, slot := some (boss, 0), priv := true, qb := 0 }
def tmpl0 (ctrl dest : Word) : List Word := [bootPc 0 + 0x400, dest, 2, 0, 0, 0, 0, 0, 8, 0, 8, 0, ctrl, 0, 0x77, 0]
def wCopy (x : HartSt) : State :=
  let a := paOf 0 1 0
  { State.reset with
    harts := [(0, x)]
    mem := [(a + 0x400, 0x11), (a + 0x408, 0x22), (a + 0x601, 4), (a + 0x605, 1), (a + 0x609, 5), (a + 0x60d, 1), (a + 0x610, 2),
      (a + 0x640, 8), (a + 0x650, 8), (a + 0x660, 3), (a + 0x661, 3), (a + 0x670, 0x77)] }
def wRun (k : Kick) (e : Nat) (ctrl dest : Word) : State := wCopy { running := some k, tmpl := tmpl0 ctrl dest, elem := e }
def gotTemplate : List Byte × State :=
  match hartGet 0 kickC (some 0) false ((List.range 16).map fun j => (kickC.tmpl.toNat + 8 * j, 8)) [] (wCopy { queue := [kickC] }) with
  | .ok r => r
  | .error _ => ([], w0)
/-- A kick of the user thread for its stream register 1. -/
def kickB : Kick := { kickC with slot := some (user, 0), qb := 9 }
theorem witness_CopiesRun_start : ((wCopy { queue := [kickC] }).hart 0 0).running = none ∧ ((wCopy { queue := [kickC] }).hart 0 0).queue = [kickC]
    ∧ (wCopy { queue := [kickC] }).heldWaits 0 (.hart 0 0) = false
    ∧ (let tm := Template.fill ((List.range 16).map fun j => wordOfBytes ((gotTemplate.1.drop (8 * j)).take 8)) 0 0 0
       let u := (gotTemplate.2.unhold 0 (.hart 0 0)).takeKick 0 0 kickC
       tm = tmpl0 0x303 (bootPc 0 + 0x500) ∧ u.badHandle 0 (Template.compl tm) = false ∧ u.templateFault 0 kickC tm = none
       ∧ u.templateFault 0 { kickC with priv := false } tm = some 0x32 ∧ u.badHandle 0 0x1 = true) := by decide
def post0 : PostedWrite := ⟨0, paOf 0 1 0x508, 0, bytesOfWord 8 0x22, false⟩
theorem witness_CopiesRun_elements : (wRun kickC 0 0x303 (bootPc 0 + 0x500)).copyWaits 0 kickC (tmpl0 0x303 (bootPc 0 + 0x500)) 0 = false
    ∧ Template.source? (tmpl0 0x303 (bootPc 0 + 0x500)) 1 = some (paOf 0 1 0x408)
    ∧ Template.source? (tmpl0 0x303 (bootPc 0 + 0x500)) 0xfffffffe ≠ none
    ∧ Template.source? ((tmpl0 0x303 0).set 0 0xffffffffffff) 1 = none
    ∧ Template.dest? (tmpl0 0x303 (bootPc 0 + 0x500)) 1 = some (paOf 0 1 0x508)
    ∧ (match (wRun kickC 1 0x303 0).elementGet 0 kickC (some 0) false (paOf 0 1 0x408) 8 with
        | .ok (bs, _) => bs == bytesOfWord 8 0x22
        | .error _ => false) = true
    ∧ (match hartFind 0 kickC (some 0) false (cutBytes (paOf 0 1 0x508) (bytesOfWord 8 0x22)) [] (wRun kickC 1 0x303 0) with
        | .ok (l, _) => l.map (·.1) == [paOf 0 1 0x508]
        | .error _ => false) = true
    ∧ ((wRun kickC 0 0x303 0).hart 0 0).micro = [] ∧ Template.posts (tmpl0 0x303 0) = true ∧ Template.posts (tmpl0 0xf03 0) = false
    ∧ ((wCopy { posted := [post0] }).hart 0 0).posted = [post0] ∧ ((wCopy { posted := [post0] }).hart 0 0).running = none
    ∧ ({ running := some kickC, tmpl := tmpl0 0xf03 0, posted := [post0] } : HartSt).mustFlush = true
    ∧ ({ running := some kickC, tmpl := tmpl0 0x303 0, posted := [post0] } : HartSt).mustFlush = false
    ∧ ({} : HartSt).mayMeet kickC.tmpl.toNat 128 = false ∧ ({} : HartSt).retired = false
    ∧ kickC.bind = none ∧ kickB.bind = some (user, 0, 1) ∧ Template.image (tmpl0 0x303 0) = false ∧ Template.image (tmpl0 0x323 0) = true
    ∧ Template.dest? (tmpl0 0x323 0) 1 = some 8 ∧ Template.total (tmpl0 0x303 0) = 2 ∧ Template.compl (tmpl0 0x303 0) = 0 := by decide
theorem test_copy_start : leads (exec .copyStart (wCopy { queue := [kickC] })) (fun t => (t.hart 0 0).running == some kickC
    && (t.hart 0 0).tmpl == tmpl0 0x303 (bootPc 0 + 0x500) && (t.hart 0 0).queue == []) = true := by decide
theorem test_copy_element : leads (exec .copyElement (wRun kickC 1 0xf03 (bootPc 0 + 0x500))) (fun t =>
      t.readHome 0 (paOf 0 1 0x508) 8 == 0x22 && (t.hart 0 0).running == none && t.net.length == 1) = true
    ∧ leads (exec .copyElement (wRun kickB 0 0x103 0)) (fun t => ((t.slot user).stream 1).items == [0x11] && (t.hart 0 0).elem == 1) = true := by
  decide
theorem test_copy_posted : leads (exec .copyElement (wRun kickC 1 0x303 (bootPc 0 + 0x500))) (fun t =>
      t.readHome 0 (paOf 0 1 0x508) 8 == 0 && ((t.hart 0 0).posted.map (·.bytes)) == [post0.bytes] && t.net.length == 1) = true
    ∧ leads (exec .copyElement (wCopy { posted := [post0] })) (fun t => t.readHome 0 (paOf 0 1 0x508) 8 == 0x22 && (t.hart 0 0).posted == []) = true := by
  decide

/-! Reset, boot, power and the host port -/

/-- Die 0 at a boot stage, with what an event brings. -/
def wBoot (b : BootSt) (x : Payload) : State := { State.reset.modDie 0 (fun d => { d with boot := b }) with ev := { load := x } }
theorem witness_ResetAndBoot : w0.standalone = false ∧ ({ w0 with standalone := true } : State).standalone = true
    ∧ tblWf {} (wBoot { stage := 3 } .none).dies = true := by decide
theorem test_module_reset : leads (exec .moduleReset { w0 with full := [8], mem := [(64, 1)] }) (fun t => t.full == [] && t.mem == [(64, 1)]
    && (t.slot user).state == .free && (t.slot boss).pc == bootPc 0 && t.cur == State.reset.cur) = true := by decide
theorem test_perst : leads (exec .perst (State.reset.modDie 0 fun d => { d with wins := [(0, { en := true })], errsum := 1 }))
    (fun t => (t.die 0).wins == [] && (t.die 0).errsum == 1) = true
    ∧ leads (exec .perst { (State.reset.setSlot user thread0) with standalone := true }) (fun t => (t.slot user).state == .free) = true := by
  decide

set_option maxRecDepth 1000000 in
/-- SHA-384 of the three bytes "abc" (FIPS 180-4). -/
theorem test_sha384 : (sha384 [0x61, 0x62, 0x63]).take 8 = [0xcb, 0x00, 0x75, 0x3f, 0x45, 0xa3, 0x5e, 0x8b] := by decide +kernel
/-- The three outcomes of IMAGE_VERIFY and the two of IDENTITY_DERIVE leave no image and no secret out. -/
theorem witness_ResetAndBoot_keys (ed mldsa : Prop) (puf : Option (BitVec 256)) :
    ((ed ∧ mldsa) ∨ ¬ed ∨ (ed ∧ ¬mldsa)) ∧ ((∃ secret, puf = some secret) ∨ puf = none) := by
  refine ⟨by tauto, ?_⟩
  cases puf <;> simp
theorem witness_ResetAndBoot_early : ((wBoot {} .none).die 0).boot.stage = 0 ∧ ((wBoot {} .none).die 0).boot.fatal = false
    ∧ ((wBoot { stage := 1 } .none).die 0).boot.fatal = false ∧ ((wBoot { stage := 2 } .none).die 0).boot.fatal = false
    ∧ addRepairs [⟨4, 9, 0⟩] [⟨4, 9, 0⟩] = [⟨4, 9, 0⟩] ∧ addRepairs [] [⟨4, 9, 0⟩] ≠ []
    ∧ lostCore { kind := 3, unit := 5, sub := 0 } ≠ some 0 ∧ lostCore { kind := 3, unit := 0, sub := 0 } = some 0
    ∧ lostCore { kind := 1, unit := 0, sub := 15 } = some 0 ∧ lostCore { kind := 2, unit := 0, sub := 7 } = some 0
    ∧ lostCore { kind := 2, unit := 0, sub := 6 } ≠ some 0 ∧ ({} : BootSt).err = 0 := by decide
theorem test_image_and_identity_wait : leads (exec .imageVerify (wBoot { stage := 1 } .none)) (fun t => (t.die 0).boot == { stage := 1 }) = true
    ∧ leads (exec .identityDerive (wBoot { stage := 2 } .none)) (fun t => (t.die 0).boot == { stage := 2 }) = true
    ∧ leads (exec .imageVerify (wBoot { err := 0x0403 } .none)) (fun t => (t.die 0).boot == { err := 0x0403 }) = true := by decide
theorem test_self_test : leads (exec .selfTest (wBoot { stage := 2 } (.repairs [⟨1, 5, 2⟩, ⟨4, 9, 0⟩]))) (fun t =>
      (t.core 0 5).rslot == 4 && (t.shed 0 9).retired && (t.die 0).boot.ready == 0x3c000 && (t.die 0).boot.stage == 3) = true
    ∧ leads (exec .selfTest (wBoot { stage := 2 } (.repairs [⟨3, 0, 0⟩]))) (fun t => (t.die 0).boot.err == 0x0403) = true := by decide
theorem test_repair_word : repairWord ⟨2, 5, 7⟩ = 0x382a ∨ (repairWord ⟨2, 5, 7⟩).extractLsb' 0 3 = 2 := by decide

def probe0 : Probe := { routes := [] }
def up : BootSt := { stage := 3, linked := true, trained := true }
def rung : BootSt := { stage := 3, ready := 0x1000000, trained := true }
def ctx0 : CtxInit := { ctx := 3, table := 0x40, mode := 0x10007 }
def ring0 : RingInit := { base := 0x4000, slots := 8, core := 2, pc := 0x8000 }
theorem witness_ResetAndBoot_late : (wBoot { stage := 3 } (.stacks 0xfff)).ev.load = .stacks (BitVec.allOnes 12)
    ∧ (0x7ff#12 : BitVec 12) ≠ BitVec.allOnes 12 ∧ ((wBoot { stage := 3 } .none).die 0).boot.fatal = false
    ∧ ((wBoot { stage := 3 } .none).die 0).boot.trained = false ∧ ((wBoot { stage := 3 } .none).die 0).boot.linked = false
    ∧ ((wBoot up .none).die 0).boot.present = false ∧ (wBoot up .none).probed 63 [0] = [0] ∧ (wBoot up .none).positions [0] = 1
    ∧ (wBoot up .none).place8 0 = 0 ∧ goodBelow 1 0 = 0 ∧ routesOk probe0.routes = true ∧ probe0.coreRoutes = []
    ∧ rootPosition 1 1 = 0 ∧ rootPosition 3 2 = 1
    ∧ ((wBoot rung .none).die 0).boot.ready.getLsbD 24 = true ∧ ((wBoot rung .none).die 0).boot.ready.getLsbD 18 = false
    ∧ ((wBoot up .none).die 0).boot.ready.getLsbD 24 = false ∧ ((wBoot rung (.rings [ring0] [ctx0] [])).core 0 2).retired = false
    ∧ (wBoot rung .none).draftDiffers 0 [] = false ∧ ((wBoot rung .none).die 0).boot.trained = true
    ∧ ((wBoot rung .none).slot ⟨0, 2, 15⟩).state = .free
    ∧ ((wBoot { rung with ready := 0x1040000 } .none).die 0).boot.ready.getLsbD 18 = true
    ∧ (wBoot { rung with ready := 0x1040000 } .none).ringParked 0 ⟨0x4000, 8, 2⟩ = false
    ∧ ({ wBoot { rung with ready := 0x1040000 } .none with accs := [{ acc0 (.fe .take) with agent := .slot ⟨0, 2, 15⟩ 1, pa := 0x4000 + seqOffset, stage := .parked }] } : State).ringParked 0
      ⟨0x4000, 8, 2⟩ = true := by decide
theorem test_hbm_training : leads (exec .hbmTrainingDone { wBoot { stage := 3 } (.stacks 0xfff) with full := [8] }) (fun t =>
      (t.die 0).boot.ready == 0x3fff && t.full == [] && (t.die 0).boot.trained) = true
    ∧ leads (exec .hbmTrainingDone (wBoot { stage := 3 } (.stacks 0x7ff))) (fun t => (t.die 0).boot.err.extractLsb' 8 8 == 5) = true := by decide
theorem test_link_training : leads (exec .linkTrainingDone (wBoot { stage := 3 } (.links 5 2 true))) (fun t =>
    (t.die 0).boot.ready == 0xa80000 && (tblGet ({} : LinkSt) 2 (t.die 0).links).state == .up
    && (tblGet ({} : LinkSt) 1 (t.die 0).links).state == .down && (t.die 0).boot.err.extractLsb' 0 4 == 5) = true := by decide
theorem test_probe_window : leads (exec .probeWindowEnd (wBoot up (.probe probe0))) (fun t => (t.die 0).boot.root && (t.die 0).boot.present
    && (t.die 0).boot.ready == 0x1000000 && (t.die 0).boot.good == 1) = true := by decide
theorem test_launch_rings : leads (exec .launchRingsReady (wBoot rung (.rings [ring0] [ctx0] []))) (fun t => (t.die 0).heddle.en
      && (tblGet {} 3 (t.die 0).ctxs : CtxReg).asid == 7 && (t.slot ⟨0, 2, 15⟩).pc == 0x8000 && (t.slot ⟨0, 2, 15⟩).g 1 == 0x4000 && (t.die 0).boot.ready == 0x1040000) = true
    ∧ leads (exec .launchRingsReady (wBoot { rung with ready := 0x1040000 } .none)) (fun t => (t.die 0).boot.ready == 0x5040000) = true := by decide

/-- A thread launch of level 2 in slot 3, whose one exit notice has arrived, and its completion; its vector is 4 where it has one. -/
def launch0 (v : Word) (n : Nat) : Launch :=
  { level := 2, slot := 3, since := 0 - 9, notices := n
    words := [5, 0, 0, 1, 0, 0, 0, 0x100, v, 7] ++ List.replicate 13 0 ++ [1] }
def done0 (st : BitVec 32) : LaunchDone := { level := 2, ringSlot := 3, loom := 0, status := st }
def wLaunch (v : Word) (n : Nat) (st : BitVec 32) : State :=
  (wBoot { hostPort := true } (.launch (done0 st))).modDie 0 fun d => { d with launches := [launch0 v n], ctxs := [(0, { en := true })] }
def meas0 : PowerMeas := { rows := [100, 10], die := 50, hbm := 20, vcore := 700, tmax := 60 }
def wPower : State :=
  { State.reset.modDie 0 (fun d => { d with power := [(0, { cap := 90 }), (1, { cap := 90, duty := 9 })] }) with ev := { load := .power meas0 } }
theorem witness_HostAndPower_power : (wLaunch 0 1 0).hostDie 0 = some 0 ∧ (wLaunch 0x104 1 0).ev.load = .launch (done0 0) ∧ wPower.ev.load = .power meas0
    ∧ ((wLaunch 0 1 0).die 0).launches.find? (fun q => q.level == 2 && q.slot == 3) = some (launch0 0 1)
    ∧ (wLaunch 0 1 0).statusFits 0 (launch0 0 1) 0 0 = true ∧ (wLaunch 0 0 0).statusFits 0 (launch0 0 0) 0 0 = false
    ∧ (wLaunch 0 1 0).launchRefused 0 (launch0 0 1) = false ∧ ((launch0 0 1).word 0x40).getLsbD 8 = false
    ∧ ((launch0 0x104 1).word 0x40).getLsbD 8 = true
    ∧ (wLaunch 0 1 0).dispatchReleases 0 (tblGet {} 2 ((wLaunch 0 1 0).die 0).boot.rings) = true
    ∧ ((wLaunch 0 1 0).modDie 0 fun d => { d with boot := {} }).hostDie 0 = none ∧ ((wBoot {} .none).die 0).launches = []
    ∧ dutyNext 91 90 0 0 1 4 = 4 ∧ dutyNext 90 90 8 8 1 9 = 9 ∧ dutyNext 83 90 0 0 1 16 = 16 ∧ dutyNext 0 90 9 8 1 9 = 8
    ∧ (90 : Nat) < 91 ∧ (1 : Nat) * 16 < 9 + 8 ∧ (83 : Nat) < 90 * 15 / 16 ∧ ¬ (84 : Nat) < 90 * 15 / 16 := by decide
theorem test_launch_completion : leads (exec .launchCompletion (wLaunch 0 1 0)) (fun t =>
    t.hostOut == [.record 0 0x100 [7, 1, 0x0003000200000000, 9]] && (t.die 0).launches == []) = true
    ∧ leads (exec .launchCompletion (wLaunch 0x104 1 0)) (fun t => t.hostOut.length == 2) = true
    ∧ leads (exec .launchCompletion (wLaunch 0 0 0)) (fun t => t.hostOut == [] && (t.die 0).launches.length == 1) = true
    ∧ leads (exec .launchCompletion (wLaunch 0 1 1)) (fun t => t.hostOut == []) = true := by decide
theorem test_power_duty : leads (exec .powerDutyUpdate wPower) (fun t => (tblGet ({} : PowerRow) 0 (t.die 0).power).duty == 15
    && (tblGet ({} : PowerRow) 1 (t.die 0).power).duty == 10 && (tblGet ({} : PowerRow) 0 (t.die 0).power).pwr == 100) = true := by decide

/-- Window 1 of die 0 maps the core scratchpads from 0; the host brings an access. -/
def wHost (en : Bool) (x : Payload) : State :=
  { State.reset.modDie 0 (fun d => { d with
      boot := { hostPort := true, ready := BitVec.allOnes 27, present := true, good := 1 }, wins := [(1, { base := 0x100, en })] }) with
    ev := { load := x } }
theorem witness_HostAndPower : ((wHost true .none).die 0).boot.hostPort = true ∧ ((wHost true .none).die 0).hostQueue = []
    ∧ (tblGet ({} : HostWin) 1 ((wHost true .none).die 0).wins).en = true ∧ (tblGet ({} : HostWin) 1 ((wHost false .none).die 0).wins).en = false
    ∧ (((0x100#16 : BitVec 16) ++ (0x40#32 : BitVec 32)).toNat = paOf 0 1 0x40) ∧ (wHost true .none).badPa 0 (paOf 0 1 0x40) = none
    ∧ (wHost true .none).badPa 0 (paOf 0 1 0x47) = none ∧ ((wHost true .none).badPa 0 (paOf 0 1 0xfffffff0)).isSome = true
    ∧ (wHost true .none).unitsReady 0 (paOf 0 1 0x40) = true ∧ paSpace (paOf 0 1 0x40) ≠ 2
    ∧ (0x44#32 : BitVec 32).toNat % 8 ≠ 0 ∧ (wHost true .none).isPoisoned 0x40 = false
    ∧ ({ wHost true .none with poison := [0x40] } : State).isPoisoned 0x47 = true ∧ regBlock 0x3ffffff8 = false := by decide
theorem test_host_write : leads (exec .hostDirectWrite (wHost true (.hostWrite 1 0x41 [5, 6]))) (fun t => t.readHome 0 (paOf 0 1 0x40) 8 == 0x060500) = true
    ∧ leads (exec .hostDirectWrite (wHost false (.hostWrite 1 0x41 [5, 6]))) (fun t => (t.die 0).hostLog.count == 1 && t.mem == []) = true := by decide
theorem test_host_read : leads (exec .hostDirectRead { wHost true (.hostRead 1 0x40 2) with mem := [(paOf 0 1 0x41, 9)] })
      (fun t => match t.hostOut with
        | [.answer _ (some [a, b])] => a == 0 && b == 9
        | _ => false) = true
    ∧ leads (exec .hostDirectRead (wHost false (.hostRead 1 0x40 2))) (fun t => t.hostOut == [.answer 0 none]) = true := by decide
theorem test_fill_alias_write : leads (exec .fillAliasWrite (wHost true (.hostWrite 1 0x40 [5, 0, 0, 0, 0, 0, 0, 0]))) (fun t =>
      t.readHome 0 (paOf 0 1 0x40) 8 == 5 && t.isFull (paOf 0 1 0x40)) = true
    ∧ leads (exec .fillAliasWrite (wHost true (.hostWrite 1 0x41 [5]))) (fun t => (t.die 0).hostLog.cause == 0x2e) = true := by decide
theorem test_fill_alias_read : leads (exec .fillAliasRead (wHost true (.hostRead 1 0x40 8))) (fun t => t.hostOut == [.answer 0 (some [0, 0, 0, 0, 0, 0, 0, 0])]) = true := by
  decide
theorem test_bar0 : leads (exec .bar0Access (wHost true (.bar0 0x3ffffff8 none))) (fun t => t.hostOut == [.answer 0 (some (List.replicate 8 0))]) = true := by decide

/-! Failing parts -/

theorem witness_PartsFail_memory : (evAt w0 { load := .logUnit (.hbm 3) }).ev.load = .logUnit (.hbm 3) ∧ (∀ c, LogUnit.hbm 3 ≠ .core c)
    ∧ (evAt w0 { load := .logUnit (.core 0) }).ev.load = .logUnit (.core 0) ∧ paSpace (paOf 0 2 0) = 2
    ∧ paSpace (paOf 0 1 0x40) ≠ 2 ∧ w0.badPa (paDie (paOf 0 1 0x40)) (paOf 0 1 0x40) = none
    ∧ (w0.badPa 0 (paOf 0 1 0xfffffff0)).isSome = true ∧ paSpace 0xc0 = 0 ∧ stackOf 0xc0 = 1 := by
  refine ⟨by decide, by intro c; simp, ?_⟩
  decide
theorem test_ecc_correctable : leads (exec .eccCorrectable (evAt w0 { load := .logUnit (.hbm 3) })) (fun t =>
      (tblGet {} 3 (t.die 0).hbmLogs : ErrLog) == ⟨0x38, 1⟩) = true
    ∧ leads (exec .eccCorrectable (evAt w0 { load := .logUnit (.core 0) })) (fun t => (t.core 0 0).errs == [0] && (t.core 0 0).elog.count == 1) = true := by
  decide
theorem test_ecc_uncorrectable : leads (exec .eccUncorrectable (evAt { w0 with full := [paOf 0 1 0x40] } { val := BitVec.ofNat 64 (paOf 0 1 0x44) })) (fun t =>
    t.poison == [paOf 0 1 0x40] && t.full == [] && (t.core 0 0).elog.cause == 0x39) = true := by decide

/-- Core 5, suspect and without threads; a core with 16 errors, the last a number of ticks after the first. -/
def wSuspect (x : Bool) : State := evAt (State.reset.modCore 0 5 fun c => { c with suspect := x }) { core := 5 }
def wErrs (n : Word) : State := evAt (State.reset.modCore 0 5 fun c => { c with errs := n :: List.replicate 15 0 }) { core := 5 }
theorem witness_PartsFail_suspects : ((wErrs 1100000000).core 0 5).errorProne = true ∧ ((wErrs 1100000001).core 0 5).errorProne = false
    ∧ ((wSuspect true).core 0 5).suspect = true ∧ ((wSuspect true).core 0 5).retired = false ∧ (wSuspect true).coreEmpty 0 5 = true
    ∧ ((wSuspect false).core 0 5).suspect = false ∧ w0.coreEmpty 0 0 = false := by decide
theorem test_coresusp : leads (exec .coresusp (wErrs 1100000000)) (fun t => (t.core 0 5).suspect) = true
    ∧ leads (exec .coresusp (wErrs 1100000001)) (fun t => (t.core 0 5).suspect) = false := by decide
theorem test_coreret : leads (exec .coreret (wSuspect true)) (fun t => (t.core 0 5).retired && (t.die 0).boot.repairs == [⟨3, 5, 0⟩]) = true
    ∧ leads (exec .coreret (wSuspect false)) (fun t => (t.core 0 5).retired) = false := by decide

/-- Bank 1 of core 5 holds slots 2 and 3. -/
def wBank (b : Nat) : State := evAt State.reset { core := 5, unit := b }
/-- The user thread keeps a journal. -/
def wJournal : State := (w0.modSlot user fun x => { x with jnl := true }).modDie 0 fun d => { d with jnlSize := 1 }
theorem witness_PartsFail_cores : ((wBank 1).core 0 5).retired = false ∧ ((wBank 1).die 0).reruns = []
    ∧ (∀ n : SlotNo, ((wBank 1).slot ⟨0, 5, n⟩).state = .free)
    ∧ ((((wBank 1).modCore 0 5 fun c => { c with retired := true }).core 0 5).retired) = true
    ∧ ((wBank 1).core 0 5).rslot.getLsbD 2 = false ∧ ((wBank 6).core 0 5).rslot.getLsbD 12 = false
    ∧ ((((wBank 1).modCore 0 5 fun c => { c with rslot := 0xc }).core 0 5).rslot.getLsbD 2) = true
    ∧ ((((wBank 1).modCore 0 5 fun c => { c with rslot := 0xc }).core 0 5).rslot.getLsbD 3) = true
    ∧ wJournal.jnlOf user = true ∧ (wJournal.slot user).state ≠ .free ∧ wJournal.movedAway user = false := by
  refine ⟨by decide, by decide, fun n => ?_, by decide⟩
  revert n; decide
theorem test_bank_fail : leads (exec .bankFail (wBank 1)) (fun t => (t.core 0 5).rslot == 0xc && !(t.core 0 5).retired
    && (t.die 0).boot.repairs == [⟨2, 5, 1⟩]) = true := by decide
theorem test_thread_fails : (((wJournal.failThread user).slot user).state = .free)
    ∧ (((wJournal.failThread user).die 0).reruns.map (·.old)) = [user] := by decide

/-- Shed 3 of loom 5, for whose drain the user thread waits. -/
def wFail (st : ShedState) (ok : Bool) : State :=
  { (w0.modSlot user fun x => { x with state := .waitData, await := .loom 5 }) with
    sheds := if st = .free then [] else [(3, { state := st, loom := 5, words := [(1, 0)] })]
    looms := if st = .free then [] else [(5, { state := .draining, sheds := [3], owner := some user })]
    ev := { shed := 3, load := .passed ok } }
theorem witness_ShedsFailAndJournals : ((wFail .free true).shed 0 3).retired = false ∧ ((wFail .free true).shed 0 3).state = .free
    ∧ ((wFail .draining true).shed 0 3).state ≠ .free ∧ (wFail .draining false).ev.load = .passed false
    ∧ ((wFail .draining true).loom 0 5).owner = some user ∧ isPriv user = false ∧ (wFail .draining true).takes = []
    ∧ (wFail .draining true).parkedRecord user = false ∧ ((wFail .draining true).shed 0 3).rel.toNat < ((wFail .draining true).loom 0 5).sheds.length
    ∧ (∀ g : ShedNo, g ≠ 3 → ((wFail .draining true).shed 0 g).loom = 5 → ((wFail .draining true).shed 0 g).rel ≠ 0)
    ∧ ((wFail .free true).modShed 0 3 (fun x => { x with retired := true })).shed 0 3 = { retired := true } := by
  refine ⟨by decide, by decide, by decide, by decide, by decide, by decide, by decide, by decide, by decide, fun g hg h => ?_, by decide⟩
  refine absurd h ?_
  have hk : shedKey 0 g ≠ 3 := fun e => hg (BitVec.eq_of_toNat_eq (by simpa [shedKey] using e))
  have he : (wFail .draining true).shed 0 g = {} := by
    show tblGet ({} : ShedSt) (shedKey 0 g) [(3, _)] = _
    simp only [tblGet, hk.symm, if_false]
  rw [he]; decide
theorem test_shedfail : leads (exec .shedfail (wFail .draining false)) (fun t => (t.shed 0 3).retired && (t.loom 0 5).state == .leased
    && (t.slot user).state == .trapped && ((t.die 0).leases.map (·.kind)) == [.substitute 5 0]
    && (t.die 0).boot.repairs == [⟨4, 3, 0⟩]) = true := by decide

/-- A sealed record of the user thread with one store of 9 to its scratchpad. -/
def jrec0 (reply : Option Word) (exit : Bool) : JournalRec :=
  { seq := 4, owner := .slot user 1, image := thread0, closed := true, pages := 1, parent := none, result := 0, reply, exit
    stores := [{ op := .store 8, pa := paOf 0 1 0x40, data := 9 }] }
def wJrn (r : JournalRec) : State := evAt (w0.modDie 0 fun d => { d with journal := [r] }) {}
theorem witness_ShedsFailAndJournals_journals : ((w0.die 0).journal.find? fun q => q.closed && !q.done) = none
    ∧ (((wJrn (jrec0 none false)).die 0).journal.find? fun q => q.closed && !q.done) = some (jrec0 none false)
    ∧ (((wJrn (jrec0 (some 5) false)).die 0).journal.find? fun q => q.closed && !q.done) = some (jrec0 (some 5) false)
    ∧ (((wJrn (jrec0 none true)).die 0).journal.find? fun q => q.closed && !q.done) = some (jrec0 none true)
    ∧ (jrec0 none true).owner = .slot user 1 ∧ paSpace (paOf 0 1 0x40) ≠ 2 ∧ w0.isPoisoned (paOf 0 1 0x40) = false
    ∧ w0.orphaned (paOf 0 1 0x40) = false := by decide
theorem test_journal_perform : leads (exec .journalPerform (wJrn (jrec0 none false))) (fun t => t.readHome 0 (paOf 0 1 0x40) 8 == 9
    && ((t.die 0).journal.all (·.done))) = true := by decide

/-- Four dies in a square; links between dies 0 and 1 are in a state, those to the two others are up. -/
def wPanel (st : LinkState) (replays : Nat) (e : EvArg) : State :=
  let die := fun (x y : BitVec 3) (l : Tbl LinkSt) => ({ boot := { px := x, py := y, present := true, good := 0x303 }, links := l } : DieSt)
  { State.reset with
    ev := e
    dies := [(0, die 0 0 [(1, { state := st, replays }), (2, { state := .up })]), (1, die 1 0 [(2, { state := .up }), (3, { state := st })]),
      (2, die 0 1 [(0, { state := .up }), (1, { state := .up })]), (3, die 1 1 [(0, { state := .up }), (3, { state := .up })])] }
def wLink (st : LinkState) (replays : Nat) : State := wPanel st replays { unit := 1 }
/-- The frame's path to die 1 begins on a lost link whose detour is up. -/
def wDetour : State :=
  (wPanel .detour 0 {}).modShed 0 0 fun x => { x with closed := [{ frame0 with dst := 1 }], paths := [none, some { path0 with turns := 1 }] }
theorem witness_FramesTravel_detour : wDetour.frameLeads 0 0 1 = .detours 0 1
    ∧ (wDetour.shed 0 0).closed.find? (fun o => decide (wDetour.framesOut o < 8) && (wDetour.frameLeads 0 0 o.dst).passes)
      = some { frame0 with dst := 1 } := by decide
theorem test_frame_detour : leads (exec .frameSend wDetour) (fun t => (t.link 0 1).elog.cause == 0x51 && t.net.length == 1) = true := by
  decide
def flit0 (seq : BitVec 12) (ok : Bool) (g : BitVec 8) : LinkFlit := { source := 1, gen := g, seq, crcOk := ok, packet := 7 }
def wFlit (f : LinkFlit) : State := { wPanel .up 0 { unit := 1, load := .flit f } with net := [{ id := 7, packet := .credit 0 0 8 }] }
def wWords (q : List InFlight) : State := { w0 with net := q, ev := { id := 5 } }
theorem witness_LinksAndDies : ((wLink .up 8).link 0 1).state = .up ∧ ((wLink .up 8).link 0 1).replays = 8 ∧ ((wLink .up 7).link 0 1).replays = 7
    ∧ ((wLink .training 0).link 0 1).state = .training ∧ (wLink .up 0).neighbour 0 1 = some 1 ∧ (1#6 : Die) ≠ 0
    ∧ (((wFlit (flit0 0 true 0)).noteFlit 1 (linkBack 1) (flit0 0 true 0)).link 0 1).recvSeq = 0
    ∧ (0#12 < 1#12 - 0 ∧ 0x7ff#12 - 0 < 0x800) ∧ 0x800#12 ≤ 0x800#12 - 0
    ∧ (wLink .up 0).acceptsGen 0 1 0 = true ∧ (wLink .up 0).acceptsGen 0 1 0xff = true ∧ (wLink .up 0).acceptsGen 0 1 1 = false
    ∧ (wWords [{ id := 5, packet := .netWord user 2 9 }]).packet 5 = some (.netWord user 2 9)
    ∧ (wWords [{ id := 5, packet := .netWord user 2 9 }]).wordBehind 5 user 2 = false
    ∧ (wWords [{ id := 4, packet := .netWord user 2 8 }, { id := 5, packet := .netWord user 2 9 }]).wordBehind 5 user 2 = true
    ∧ (((wWords []).modCore 0 0 fun c => { c with retired := true }).core 0 0).retired = true := by decide
theorem test_linkretry : leads (exec .linkretry (wLink .up 0)) (fun t => (t.link 0 1).replays == 1 && (t.link 0 1).elog.count == 1) = true := by decide
theorem test_link_retrain : leads (exec .linkRetrain (wLink .up 8)) (fun t => (t.link 0 1).state == .training && (t.link 1 3).state == .training) = true
    ∧ leads (exec .linkRetrain (wLink .up 7)) (fun t => (t.link 0 1).state == .up) = true := by decide
theorem test_link_retrained : leads (exec .linkRetrained (wLink .training 8)) (fun t => (t.link 0 1).state == .up && (t.link 0 1).replays == 0) = true := by decide
theorem test_flit : leads (exec .flitArrival (wFlit (flit0 0 true 0))) (fun t => (t.link 0 1).recvSeq == 1 && t.net.length == 1) = true
    ∧ leads (exec .flitArrival (wFlit (flit0 0 true 5))) (fun t => t.net == [] && (t.link 0 1).elog.cause == 0x50) = true := by decide
theorem test_network_word : leads (exec .networkWordArrival (wWords [{ id := 5, packet := .netWord user 2 9 }])) (fun t =>
    tblGet [] 2 (t.core 0 0).netIn == [9] && t.net == []) = true := by decide

theorem witness_LinksAndDies_lost : ((wLink .up 0).link 0 1).state ≠ .training ∧ ((wLink .training 0).link 0 1).state = .training
    ∧ (let down := (((wLink .training 0).modBothEnds 0 1 fun x => { x with state := .lost }).countNotify 0 (.link 1) 0x4f)
       let t := down.countNotify 1 (.link (BitVec.ofNat 2 (linkBack 1))) 0x4f
       down.neighbour 0 1 = some 1 ∧ t.neighbour 0 1 = some 1 ∧ t.cutOff 0 = false ∧ t.cutOff 1 = false)
    ∧ ((wLink .up 0).die 0).boot.present = true ∧ ((wLink .up 0).die 9).boot.present = false := by decide
theorem test_linkdown : leads (exec .linkdown (wLink .training 0)) (fun t => (t.link 0 1).state == .lost && (t.link 1 3).state == .lost
    && (t.link 1 3).elog.cause == 0x4f) = true := by decide
theorem test_die_loss : leads (exec .dieHeartbeatLoss { (wPanel .up 0 { die := 3 }) with mem := [(paOf 0 1 8, 1), (paOf 3 1 8, 1)] }) (fun t =>
    t.mem == [(paOf 0 1 8, 1)] && (t.die 0).boot.good == 0x103 && !(t.die 3).boot.present) = true := by decide
theorem test_tree_rebuild : leads (exec .spanningTreeRebuild (wPanel .lost 0 { load := .routes [⟨0, [], none⟩] })) (fun t => (t.link 0 1).state == .detour) = true := by
  decide
theorem test_generation : leads (exec .generationAdvance (wLink .up 0)) (fun t => (t.die 0).gen == 1 && tblGet 0 0 (t.die 3).peerGens == 1) = true := by decide

/-! Words, steps and the machine as a whole -/

/-- A graph store of a word (OP 0x29) and take.k in graph form (OP 0x2B, scope 0b010, g 1). -/
theorem word_store_and_fe_nodes : decodeGraph (0x29#7 ++ 0#1 ++ 0#6 ++ (4#6 ++ 0#3) ++ 0x1ff#9) = some (.graphStoreNode .w (.node 4 .l) .none)
    ∧ decodeGraph (0x2b#7 ++ 0#1 ++ (2#3 ++ 1#3) ++ (4#6 ++ 0#3) ++ 0x1ff#9) = some (.graphFeNode .k .take (.node 4 .l) .none) := by decide
theorem witness_WordsAndInstructionsAgree : (Instr.add false 5 6 7).wf = true ∧ encode (.add false 5 6 7) = some 0x02385030
    ∧ (threadFields (.add false 5 6 7)).isSome = true ∧ (Instr.carry 3 (.node 4 .p) .none).wf = true
    ∧ (threadFields (.carry 3 (.node 4 .p) .none)).isSome = false ∧ (encode (.carry 3 (.node 4 .p) .none)).isSome = true
    ∧ decodeThread 0x02385030 = some (.add false 5 6 7) ∧ (decodeGraph 0x2089e0fc).isSome = true := by decide

/-- The boot slot fetches a word, laid out where the next step fetches; it has not been fetched before. -/
def wWord (w : Nat) : State := State.reset.withFetchWord 32 w
def bootSlot : SlotId := ⟨0, 0, 15⟩
theorem witness_StepRunsTheDecoded : (wWord 0x02385030).turn = .slot bootSlot ∧ (wWord 0x02385030).reports bootSlot = false
    ∧ ((wWord 0x02385030).slot bootSlot).state = .ready ∧ ((wWord 0x02385030).slot bootSlot).fails = [] ∧ (wWord 0x02385030).jnlOf bootSlot = false
    ∧ (let s := wWord 0x02385030
       let pc := (s.slot bootSlot).pc
       fetchFault pc = none ∧ (s.slot bootSlot).retries = false
       ∧ (match s.reach bootSlot pc needX false ((s.die 0).held.any (·.who == .fetch bootSlot)) with
          | .ok pa key t =>
            let c := t.unhold 0 (.fetch bootSlot)
            !c.isPoisoned pa && (tblGet none pa (c.core 0 0).l1i).isNone && (c.readHome key pa 4).extractLsb' 0 32 == 0x02385030#32
          | _ => false) = true)
    ∧ decodeThread 0x02385030 = some (.add false 5 6 7) ∧ isHeader 0x02385030 = false
    ∧ isHeader 0xfe800000 = true ∧ (decodeHeader 0xfe800000).isSome = true ∧ decodeThread 0x3e000000 = none
    ∧ ({ w0 with turn := .node {} } : State).turn = .node {} ∧ decodeGraph (tblGet 0 0 (w0.shed 0 0).words) = none
    ∧ ({ w0 with turn := .idle } : State).turn = .idle := by decide
theorem witness_StepRunsTheDecoded_word : (match (wWord 0x02385030).beginTurn bootSlot with
    | .word w _ => w == 0x02385030
    | .ended _ => false) = true
    ∧ (match ({ State.reset with turn := .slot user } : State).beginTurn user with
      | .word _ _ => false
      | .ended _ => true) = true := by decide
theorem test_step_add : leads (step (wWord 0x02385030)) (fun t => (t.slot bootSlot).pc == bootPc 0 + 4) = true := by decide
theorem test_step_ill : leads (step (wWord 0)) (fun t => (t.slot bootSlot).state == .trapped) = true := by decide
theorem test_step_header : leads (step { wWord 0 with mem := [((bootPc 0).toNat + 2, 0x80), ((bootPc 0).toNat + 3, 0xfe)] }) (fun t => (t.slot bootSlot).pc == bootPc 0 + 4 && (t.slot bootSlot).state == .ready) = true := by
  decide
theorem test_step_event : leads (step { State.reset with turn := .event .moduleReset {} }) (fun t => (t.slot bootSlot).state == .ready) = true := by decide

theorem witness_ResultAndWriteFrames : isNet 5 = false ∧ isNet 32 = true ∧ netPartner 16 0 = none ∧ netPartner 16 2 = some 20
    ∧ State.MemoryOk State.reset ∧ (State.reset.keySlot 0 0x40).xts = false ∧ paSpace (paOf 0 1 0) ≠ 0
    ∧ ((State.reset.modDie 0 fun d => { d with keys := [(3, { xts := true, data := 1, tweak := 2 })] }).keySlot 3 0x40).xts = true := by
  refine ⟨by decide, by decide, by decide, by decide, rfl, by decide, by decide, by decide⟩
theorem test_result_frame : ((w0.finish 0 9).slot user).regs = (w0.slot user).regs ∧ ((w0.finish 5 9).slot user).g 5 = 9
    ∧ ((w0.finish 53 9).slot user).mw 5 = 9 ∧ ((w0.finish 5 9).slot user).g 1 = 6 := by decide
theorem test_reset : (State.reset.slot ⟨63, 0, 15⟩).state = .ready ∧ (State.reset.slot ⟨0, 0, 14⟩).state = .free
    ∧ (State.reset.slot ⟨0, 1, 15⟩).state = .free ∧ (State.reset.core 5 9).thresh = 8 ∧ (State.reset.die 7).pkgcap = 0x708 := by decide
theorem witness_TurnsKeepToRotation : State.TurnOk (wWord 0x02385030) ∧ (wWord 0x02385030).goesOn = true := by decide
theorem witness_ResetValues : (0 : CoreNo) = 0 ∧ (15 : SlotNo) = 15 ∧ ¬((1 : CoreNo) = 0 ∧ (15 : SlotNo) = 15) := by decide

end Sys2Proof.Tests
end

section
/-!
SUPPORT. The device registers and the answers to held faults: what a counted event changes in a unit's log and in ERRSUM,
what the events on registers do, and the two answers of XFRESUME.
-/

namespace Sys2Proof.Machine

variable (s : State)

/-! Error logs and notification (14 R377) -/

@[simp] theorem State.modLog_mem (d : Die) (u : LogUnit) (f : ErrLog → ErrLog) : (s.modLog d u f).mem = s.mem := by
  cases u <;> rfl
@[simp] theorem State.modLog_slots (d : Die) (u : LogUnit) (f : ErrLog → ErrLog) : (s.modLog d u f).slots = s.slots := by
  cases u <;> rfl
@[simp] theorem State.modLog_accs (d : Die) (u : LogUnit) (f : ErrLog → ErrLog) : (s.modLog d u f).accs = s.accs := by
  cases u <;> rfl

/-- The log of a unit that is changed; those of links, HBM stacks and L2 slices stand in tables of the die. -/
@[simp] theorem State.log_modLog_self (d : Die) (u : LogUnit) (f : ErrLog → ErrLog) :
    (s.modLog d u f).log d u = f (s.log d u) := by
  cases u <;> simp [State.modLog, State.log]

/-- An MSI-X vector goes out to the host, and nothing else changes. -/
theorem State.msix_eq (d : Die) (v : BitVec 8) : ∃ l, s.msix d v = { s with hostOut := l } := by
  simp only [State.msix]
  split
  · exact ⟨_, rfl⟩
  · exact ⟨s.hostOut, rfl⟩

@[simp] theorem State.msix_die (d e : Die) (v : BitVec 8) : (s.msix d v).die e = s.die e := by
  obtain ⟨l, h⟩ := s.msix_eq d v
  exact h ▸ rfl

/-- A notification changes the die's registers and what has gone out to the host. -/
theorem State.notify_eq (d : Die) (b : Nat) : ∃ t l, s.notify d b = { s with dies := t, hostOut := l } := by
  simp only [State.notify]
  split
  · exact ⟨s.dies, s.hostOut, rfl⟩
  · split
    · obtain ⟨l, h⟩ := State.msix_eq (s.setDie d { s.die d with errsum := (s.die d).errsum ||| (1#9 <<< b) }) d
        (s.die d).errVector
      exact ⟨_, l, h⟩
    · exact ⟨_, s.hostOut, rfl⟩

@[simp] theorem State.notify_mem (d : Die) (b : Nat) : (s.notify d b).mem = s.mem := by
  obtain ⟨t, l, h⟩ := s.notify_eq d b
  exact h ▸ rfl
@[simp] theorem State.notify_slots (d : Die) (b : Nat) : (s.notify d b).slots = s.slots := by
  obtain ⟨t, l, h⟩ := s.notify_eq d b
  exact h ▸ rfl
@[simp] theorem State.notify_accs (d : Die) (b : Nat) : (s.notify d b).accs = s.accs := by
  obtain ⟨t, l, h⟩ := s.notify_eq d b
  exact h ▸ rfl
@[simp] theorem State.notify_core (d e : Die) (b : Nat) (c : CoreNo) : (s.notify d b).core e c = s.core e c := by
  obtain ⟨t, l, h⟩ := s.notify_eq d b
  exact h ▸ rfl

/-- A bit that is set already stays as it is. -/
theorem or_shift_of_getLsbD {w : Nat} {x : BitVec w} {b : Nat} (h : x.getLsbD b = true) : x ||| (1#w <<< b) = x := by
  ext j hj
  by_cases hb : j = b
  · subst hb; simp [← BitVec.getLsbD_eq_getElem, h]
  · have : j < b ∨ j - b ≠ 0 := by omega
    obtain hlt | hne := this <;> simp [*]

/-- ERRSUM has the bit after a notification, whether or not it had it before; the die's other registers stay. -/
theorem State.notify_die (d : Die) (b : Nat) :
    (s.notify d b).die d = { s.die d with errsum := (s.die d).errsum ||| (1#9 <<< b) } := by
  simp only [State.notify]
  split
  next h => rw [or_shift_of_getLsbD h]
  next => split <;> simp

/-! Events on registers -/

/-- 14 R374: TQSTAT.POP of an empty queue finds nothing. -/
theorem execTqstatPop_nil (h : (s.core s.ev.die s.ev.core).traps = []) :
    exec .tqstatPop s = .next (s.modCore s.ev.die s.ev.core fun y => { y with traps := [] }) := by
  change Host.Outcome.next (s.popTrap s.ev.die s.ev.core) = _
  simp only [State.popTrap, State.modCore, h]
  rw [← h]

/-- 14 R374: TQSTAT.POP removes the head record, and frees the reservation of a message return. -/
theorem execTqstatPop_cons {r : TrapRec} {rest : List TrapRec} (h : (s.core s.ev.die s.ev.core).traps = r :: rest) :
    exec .tqstatPop s = .next (s.modCore s.ev.die s.ev.core fun y =>
      { y with traps := rest, resv := if r.len = 0 then y.resv else y.resv - 1 }) := by
  change Host.Outcome.next (s.popTrap s.ev.die s.ev.core) = _
  simp only [State.popTrap, State.modCore, h]

/-- 15 Table 15-4: written ones clear bits of the cause of SXFAULT. -/
theorem execSxfaultClear_shed : ∃ t, exec .sxfaultClear s = .next t
    ∧ (t.shed s.ev.die s.ev.shed).sxfault.cause
      = (s.shed s.ev.die s.ev.shed).sxfault.cause &&& ~~~(s.ev.val.extractLsb' 0 8)
    ∧ (t.shed s.ev.die s.ev.shed).sxfault.item = (s.shed s.ev.die s.ev.shed).sxfault.item
    ∧ (t.shed s.ev.die s.ev.shed).sffault = (s.shed s.ev.die s.ev.shed).sffault
    ∧ (t.shed s.ev.die s.ev.shed).stops = (s.shed s.ev.die s.ev.shed).stops :=
  ⟨s.clearSxfault s.ev.die s.ev.shed s.ev.val, rfl, by simp [State.clearSxfault]⟩

/-- 16 Table 16-3: written ones clear bits of the cause of SFFAULT. -/
theorem execSffaultClear_shed : ∃ t, exec .sffaultClear s = .next t
    ∧ (t.shed s.ev.die s.ev.shed).sffault.cause
      = (s.shed s.ev.die s.ev.shed).sffault.cause &&& ~~~(s.ev.val.extractLsb' 0 8)
    ∧ (t.shed s.ev.die s.ev.shed).sffault.item = (s.shed s.ev.die s.ev.shed).sffault.item
    ∧ (t.shed s.ev.die s.ev.shed).sxfault = (s.shed s.ev.die s.ev.shed).sxfault
    ∧ (t.shed s.ev.die s.ev.shed).stops = (s.shed s.ev.die s.ev.shed).stops :=
  ⟨s.clearSffault s.ev.die s.ev.shed s.ev.val, rfl, by simp [State.clearSffault]⟩

/-- 14 R377: ELOGCLR empties the log of its unit. -/
theorem execElogclr_log {u : LogUnit} (h : s.ev.load = .logUnit u) :
    ∃ t, exec .elogclr s = .next t ∧ t.log s.ev.die u = {} ∧ t.slots = s.slots ∧ t.mem = s.mem := by
  refine ⟨s.modLog s.ev.die u fun _ => {}, ?_, s.log_modLog_self .., s.modLog_slots .., s.modLog_mem ..⟩
  change execElogclr s = _
  simp only [execElogclr, h]
  rfl

/-- 10 R320: HDCUR is written while EN is 0. -/
theorem execHdcurWrite_idle (h : (s.heddle s.ev.die).en = false) :
    exec .hdcurWrite s = .next (s.modHeddle s.ev.die fun y =>
      { y with curs := tblSet 0 (BitVec.ofNat 12 s.ev.unit).toNat s.ev.val y.curs }) := by
  change Host.Outcome.next (s.writeDraft s.ev.die (BitVec.ofNat 12 s.ev.unit) s.ev.val) = _
  simp only [State.writeDraft, h, Bool.false_eq_true, ↓reduceIte]

/-- 10 R319: while EN is 1 a write of HDCUR is only counted, with a notification. -/
theorem execHdcurWrite_running (h : (s.heddle s.ev.die).en = true) :
    ∃ t, exec .hdcurWrite s = .next t ∧ (t.heddle s.ev.die).curs = (s.heddle s.ev.die).curs
      ∧ (t.heddle s.ev.die).elog.cause = 0x54 ∧ (t.die s.ev.die).errsum.getLsbD 7 = true
      ∧ t.slots = s.slots ∧ t.mem = s.mem := by
  refine ⟨(s.count s.ev.die .heddle 0x54).notify s.ev.die 7, ?_, ?_⟩
  · change Host.Outcome.next (s.writeDraft s.ev.die (BitVec.ofNat 12 s.ev.unit) s.ev.val) = _
    simp only [State.writeDraft, h, ↓reduceIte]
    rfl
  · simp [State.heddle, State.notify_die, State.count, State.modLog, ErrLog.note]

/-- 10 R333: RDNEXT hands out the next index while fewer than NBLK have been handed out. -/
theorem State.readRdnext_of_lt {d : Die} {k : BitVec 7} (h : (s.skein d k).next.toNat < (s.skein d k).nblk.toNat) :
    s.readRdnext d k = (0#32 ++ (s.skein d k).next, s.modSkein d k fun y => { y with next := y.next + 1 }) := by
  have hult : (s.skein d k).next.ult (s.skein d k).nblk = true := by simpa [BitVec.ult] using h
  have hw : (s.skein d k).next.zeroExtend 64 = 0#32 ++ (s.skein d k).next := BitVec.setWidth_eq_append (by decide)
  simp only [State.readRdnext, hult, ↓reduceIte, hw]

/-- 10 R333: RDNEXT reads all ones once NBLK indices have been handed out. -/
theorem State.readRdnext_of_le {d : Die} {k : BitVec 7} (h : (s.skein d k).nblk.toNat ≤ (s.skein d k).next.toNat) :
    s.readRdnext d k = (BitVec.allOnes 64, s) := by
  have hult : (s.skein d k).next.ult (s.skein d k).nblk = false := by simpa [BitVec.ult] using h
  simp only [State.readRdnext, hult, Bool.false_eq_true, ↓reduceIte]

/-- 10 R333: the state after a read of RDNEXT. -/
theorem execRdnextRead_eq : exec .rdnextRead s = .next (s.readRdnext s.ev.die (skeinOf s.ev.core)).2 := rfl

/-- 04 R142: KEY_LOAD_COMPLETE puts XKDATA into the slot that XKSEL names, clears it, and leaves the other slots. -/
theorem execKeyLoadComplete_busy (h : (s.die s.ev.die).xkBusy = true) :
    ∃ t, exec .keyLoadComplete s = .next t ∧ (t.die s.ev.die).xkBusy = false ∧ (t.die s.ev.die).xkdata = []
      ∧ tblGet {} (s.die s.ev.die).xksel.toNat (t.die s.ev.die).keys
        = (if (s.die s.ev.die).xkXts then
            { xts := true, data := keyOf (s.die s.ev.die) 0, tweak := keyOf (s.die s.ev.die) 4 } else {})
      ∧ (∀ j, j ≠ (s.die s.ev.die).xksel.toNat → tblGet {} j (t.die s.ev.die).keys = tblGet {} j (s.die s.ev.die).keys)
      ∧ t.mem = s.mem := by
  refine ⟨_, congrArg Host.Outcome.next (if_pos h), ?_⟩
  simp only [State.modDie_self, State.modDie_mem, tblGet_set_self, true_and, and_true]
  exact fun j hj => tblGet_set_ne _ hj ..

/-- 16 R423: RETREQ marks a core suspect, and CORESUSP is counted and notified. -/
theorem execRetreq_suspects (hs : (s.core s.ev.die s.ev.core).suspect = false)
    (hr : (s.core s.ev.die s.ev.core).retired = false) :
    ∃ t, exec .retreq s = .next t ∧ (t.core s.ev.die s.ev.core).retreq = true
      ∧ (t.core s.ev.die s.ev.core).suspect = true ∧ (t.core s.ev.die s.ev.core).elog.cause = 0x4c
      ∧ (t.die s.ev.die).errsum.getLsbD 0 = true ∧ t.slots = s.slots ∧ t.mem = s.mem := by
  refine ⟨_, rfl, ?_⟩
  simp [State.retreq, State.suspectCore, hs, hr, State.countNotify, errsumBit, State.notify_die,
    State.count, State.modLog, ErrLog.note]

/-! REGISTER_WRITE (00 R11) -/

/-- A write of an offset of the die control block other than ELOGCLR's is the block's. -/
theorem execRegisterWrite_control {o : BitVec 40} {p : Bool} (h : s.ev.load = .register o p)
    (ho : o.toNat < 0x100000 ∧ o.toNat ≠ 0xf08 ∧ o.toNat ≠ 0xf18) :
    exec .registerWrite s = .next (s.writeControl s.ev.die o.toNat s.ev.val p) := by
  obtain ⟨hlt, hc, hq⟩ := ho
  change execRegisterWrite s = _
  have hlog : logAt o.toNat = if o.toNat = 0xf10 || o.toNat = 0xf18 then some (.queues, o.toNat - 0x10)
    else some (.dieControl, o.toNat) := by simp only [logAt, hlt, ↓reduceIte]
  simp only [execRegisterWrite, h, State.writeRegister, hlog, hlt, ↓reduceIte]
  by_cases hd : o.toNat = 0xf10
  · simp [hd]
  · simp [hd, hq, hc]

/-! XFRESUME (15 R396, R397) -/

/-- 15 R396: an answer with a stale generation is counted, and nothing else happens. -/
theorem State.xfresume_stale {d : Die} {fid gen : Byte} {action : BitVec 2} (ha : action.getLsbD 1 = false)
    (h : tblGet 0 fid.toNat (s.die d).gens ≠ gen) : s.xfresume d fid gen action = s.count d .dieControl 0x2b := by
  simp only [State.xfresume, ha, bne_iff_ne.2 h, Bool.false_eq_true, ↓reduceIte]

/-- An answer with the current generation of an entry that holds an access retries it or fails it. -/
theorem State.xfresume_current {d : Die} {e : HeldEntry} {action : BitVec 2} (ha : action.getLsbD 1 = false)
    (hg : tblGet 0 e.fid.toNat (s.die d).gens = e.gen)
    (he : (s.die d).held.find? (fun x => x.fid == e.fid && !x.retry && !x.fail) = some e) :
    s.xfresume d e.fid e.gen action = if action = 0 then s.retryHeld d e else s.failHeld d e := by
  simp only [State.xfresume, ha, hg, he, bne_self_eq_false, Bool.false_eq_true, ↓reduceIte]

/-- The two events of XFRESUME are its two actions. -/
theorem execXfresume_eq {fid gen : Byte} (h : s.ev.load = .fault fid gen) :
    exec .xfresumeRetry s = .next (s.xfresume s.ev.die fid gen 0)
      ∧ exec .xfresumeFail s = .next (s.xfresume s.ev.die fid gen 1) := by
  change resumeEvent 0 s = _ ∧ resumeEvent 1 s = _
  simp only [resumeEvent, h, and_self]

/-- 15 R396: STALEGEN is counted in the log of die control; the held faults, the slots and the accesses stay. -/
theorem execXfresume_stale {fid gen : Byte} (h : s.ev.load = .fault fid gen)
    (hg : tblGet 0 fid.toNat (s.die s.ev.die).gens ≠ gen) :
    ∃ t, exec .xfresumeRetry s = .next t ∧ exec .xfresumeFail s = .next t ∧ (t.die s.ev.die).dieLog.cause = 0x2b
      ∧ (t.die s.ev.die).dieLog.count = (if (s.die s.ev.die).dieLog.count = 0xffffffff then 0xffffffff
        else (s.die s.ev.die).dieLog.count + 1)
      ∧ (t.die s.ev.die).held = (s.die s.ev.die).held ∧ t.slots = s.slots ∧ t.accs = s.accs ∧ t.mem = s.mem := by
  obtain ⟨hretry, hfail⟩ := execXfresume_eq s h
  rw [s.xfresume_stale (by decide) hg] at hretry hfail
  refine ⟨_, hretry, hfail, ?_⟩
  simp only [State.count, State.modLog, ErrLog.note, State.modDie_self, State.modDie_slots, State.modDie_accs,
    State.modDie_mem, and_self, and_true, true_and]
  split
  next hmax => exact hmax
  next => rfl

/-- The access of a number after a change that keeps the numbers. -/
theorem State.access_modAccess_self (n : Nat) (f : Access → Access) (hf : ∀ a, (f a).id = a.id) :
    (s.modAccess n f).access n = (s.access n).map f := by
  have hid (a : Access) : (if a.id == n then f a else a).id = a.id := by
    split
    · exact hf a
    · rfl
  have hp : ((·.id == n) ∘ fun a : Access => if a.id == n then f a else a) = (·.id == n) :=
    funext fun a => congrArg (· == n) (hid a)
  simp only [State.access, State.modAccess, List.find?_map, hp]
  cases h : s.accs.find? (·.id == n) with
  | none => rfl
  | some a => exact congrArg some (if_pos (List.find?_some h))

/-- The agent of a held access discards entries of its TLB; nothing outside the cores and the sheds changes. -/
theorem State.dropHeldTlb_eq (who : HeldWho) (cause : Byte) (addr : Word) :
    ∃ cs hs, s.dropHeldTlb who cause addr = { s with cores := cs, sheds := hs } := by
  cases who with
  | fetch i | operand i | vector i => exact ⟨_, s.sheds, rfl⟩
  | stream e h p | descriptor e h p => exact ⟨s.cores, _, rfl⟩
  | hart e n => exact ⟨s.cores, s.sheds, rfl⟩
  | access id =>
    simp only [State.dropHeldTlb]
    split
    · exact ⟨s.cores, s.sheds, rfl⟩
    · split
      · exact ⟨_, s.sheds, rfl⟩
      · exact ⟨s.cores, _, rfl⟩

@[simp] theorem State.dropHeldTlb_access (who : HeldWho) (cause : Byte) (addr : Word) (n : Nat) :
    (s.dropHeldTlb who cause addr).access n = s.access n := by
  obtain ⟨cs, hs, h⟩ := s.dropHeldTlb_eq who cause addr
  exact h ▸ rfl
@[simp] theorem State.dropHeldTlb_mem (who : HeldWho) (cause : Byte) (addr : Word) :
    (s.dropHeldTlb who cause addr).mem = s.mem := by
  obtain ⟨cs, hs, h⟩ := s.dropHeldTlb_eq who cause addr
  exact h ▸ rfl
@[simp] theorem State.dropHeldTlb_slot (who : HeldWho) (cause : Byte) (addr : Word) (j : SlotId) :
    (s.dropHeldTlb who cause addr).slot j = s.slot j := by
  obtain ⟨cs, hs, h⟩ := s.dropHeldTlb_eq who cause addr
  exact h ▸ rfl
@[simp] theorem State.modDie_access (d : Die) (f : DieSt → DieSt) (n : Nat) : (s.modDie d f).access n = s.access n := rfl

/-- 15 R396: a held access that is retried is walked afresh without the caches; slots and memory stay. -/
theorem State.retryHeld_access {d : Die} {e : HeldEntry} {a : Access} (hw : e.who = .access a.id)
    (ha : s.access a.id = some a) :
    (s.retryHeld d e).access a.id = some { a with stage := .walk, fresh := true }
      ∧ (s.retryHeld d e).mem = s.mem ∧ ∀ j, (s.retryHeld d e).slot j = s.slot j := by
  simp only [State.retryHeld, hw]
  refine ⟨?_, by simp, by simp⟩
  rw [State.access_modAccess_self]
  · simp [ha]
  · exact fun b => rfl

@[simp] theorem State.unhold_slot (d : Die) (who : HeldWho) (i : SlotId) : (s.unhold d who).slot i = s.slot i := rfl
@[simp] theorem State.unhold_mem (d : Die) (who : HeldWho) : (s.unhold d who).mem = s.mem := rfl
@[simp] theorem State.unhold_access (d : Die) (who : HeldWho) (n : Nat) : (s.unhold d who).access n = s.access n := rfl
@[simp] theorem State.unhold_held (d : Die) (who : HeldWho) :
    ((s.unhold d who).die d).held = (s.die d).held.filter (·.who != who) := by
  simp only [State.unhold, State.modDie_self]

@[simp] theorem State.markFailed_slot (n : Nat) (i : SlotId) : (s.markFailed n).slot i = s.slot i := rfl
@[simp] theorem State.markFailed_die (n : Nat) (d : Die) : (s.markFailed n).die d = s.die d := rfl
@[simp] theorem State.markFailed_mem (n : Nat) : (s.markFailed n).mem = s.mem := rfl
theorem State.markFailed_access (n : Nat) :
    (s.markFailed n).access n = (s.access n).map fun a => { a with stage := .failed } :=
  s.access_modAccess_self n (fun a => { a with stage := .failed }) fun _ => rfl

@[simp] theorem State.failSlot_die (i : SlotId) (cause sub : Byte) (val aux : Word) (d : Die) :
    (s.failSlot i cause sub val aux).die d = s.die d := rfl
@[simp] theorem State.failSlot_mem (i : SlotId) (cause sub : Byte) (val aux : Word) :
    (s.failSlot i cause sub val aux).mem = s.mem := rfl
@[simp] theorem State.failSlot_access (i : SlotId) (cause sub : Byte) (val aux : Word) (n : Nat) :
    (s.failSlot i cause sub val aux).access n = s.access n := rfl
@[simp] theorem State.failSlot_self (i : SlotId) (cause sub : Byte) (val aux : Word) :
    (s.failSlot i cause sub val aux).slot i
      = { s.slot i with fails := (s.slot i).fails ++ [⟨cause, sub, val, aux⟩] } := State.modSlot_self ..

/-- 15 R397: the held access of a thread that goes on takes no effect, frees its entry, and is noted for its trap. -/
theorem State.failHeld_slot {d : Die} {e : HeldEntry} {a : Access} {i : SlotId} {inc : Byte} (hw : e.who = .access a.id)
    (ha : s.access a.id = some a) (hi : a.agent = .slot i inc) (hinc : (s.slot i).inc = inc)
    (hst : (s.slot i).state ≠ .trapped) :
    s.failHeld d e = ((s.unhold d (.access a.id)).markFailed a.id).failSlot i e.cause e.sub e.va a.pc := by
  simp only [State.failHeld, hw, ha, State.failAccess, hi, State.unhold_slot, hinc, bne_self_eq_false,
    beq_eq_false_iff_ne.2 hst, Bool.false_eq_true, ↓reduceIte]

/-- 15 R397: the access has failed, its thread will trap with cause, sub-cause and address, and its entry is free. -/
theorem State.failSlot_markFailed_unhold {d : Die} {a : Access} (i : SlotId) (cause sub : Byte) (val aux : Word)
    (ha : s.access a.id = some a) :
    let t := ((s.unhold d (.access a.id)).markFailed a.id).failSlot i cause sub val aux
    t.access a.id = some { a with stage := .failed }
      ∧ (t.slot i).fails = (s.slot i).fails ++ [⟨cause, sub, val, aux⟩] ∧ (t.slot i).regs = (s.slot i).regs
      ∧ (∀ x ∈ (t.die d).held, x.who ≠ .access a.id) ∧ t.mem = s.mem := by
  refine ⟨by simp [State.markFailed_access, ha], by simp, by simp, fun x hx => ?_, by simp⟩
  simp only [State.failSlot_die, State.markFailed_die, State.unhold_held, List.mem_filter] at hx
  exact bne_iff_ne.1 hx.2

/-! The obligation -/

/-- Settles O30: the events on registers one by one, then the two answers to a thread's held access. -/
theorem registersAndHeldAccesses : Obligations.RegistersAndHeldAccesses := by
  unfold Obligations.RegistersAndHeldAccesses
  constructor
  · intro s o p u r rest fid gen d c n v h k q x
    refine ⟨execTqstatPop_nil s, execTqstatPop_cons s, rfl, rfl, execSxfaultClear_shed s, execSffaultClear_shed s,
      execElogclr_log s, rfl, execHdcurWrite_idle s, execHdcurWrite_running s, rfl, ?_, ?_, rfl, rfl,
      execKeyLoadComplete_busy s, execRetreq_suspects s, execXfresume_stale s, ?_⟩
    · intro hlt
      rw [execRdnextRead_eq, s.readRdnext_of_lt hlt]
      exact ⟨rfl, rfl⟩
    · intro hle
      rw [execRdnextRead_eq, s.readRdnext_of_le hle]
      exact ⟨rfl, rfl⟩
    · intro hload
      refine ⟨?_, ?_, ?_, ?_, ?_⟩
      · rintro rfl rfl
        exact execRegisterWrite_control s hload (by decide)
      · rintro rfl rfl
        exact execRegisterWrite_control s hload (by decide)
      · rintro rfl rfl
        exact execRegisterWrite_control s hload (by decide)
      · rintro rfl
        exact execRegisterWrite_control s hload (by decide)
      · rintro rfl
        exact execRegisterWrite_control s hload (by decide)
  · intro s e a i inc d hload hgen hfind hwho hacc hagent
    obtain ⟨hretry, hfail⟩ := execXfresume_eq s hload
    rw [s.xfresume_current (by decide) hgen hfind] at hretry hfail
    constructor
    · obtain ⟨hwalk, hframe⟩ := s.retryHeld_access hwho hacc
      exact ⟨_, _, hretry, hwalk, rfl, rfl, rfl, rfl, hframe⟩
    · intro hinc hst
      obtain ⟨hfailed, hrest⟩ := s.failSlot_markFailed_unhold (d := d) i e.cause e.sub e.va a.pc hacc
      exact ⟨_, _, hfail.trans (congrArg _ (s.failHeld_slot hwho hacc hagent hinc hst)), hfailed, rfl, hrest⟩

end Sys2Proof.Machine
end

section
/-!
SUPPORT. Network registers: what a read of one gives, what the issue of an instruction that reads or writes one comes to,
and what the arrival of a network word changes.
-/

namespace Sys2Proof.Machine

variable (s : State)

/-! Reads of a network register (06 R184) -/

/-- The general registers are no network registers (Table 6-5). -/
theorem isNet_eq_false_of_lt {r : Reg} (h : r < 32) : isNet r = false := by
  simp only [isNet, Bool.and_eq_false_imp, decide_eq_true_eq, decide_eq_false_iff_not]
  exact fun hle => absurd h (BitVec.not_lt.2 hle)

theorem State.readReg_net_noLink {i : SlotId} {r : Reg} (hr : isNet r = true)
    (hl : s.hasLink i.die i.core (r.toNat - 32) = false) :
    s.readReg i r = .trap 0x0f 0 (r.zeroExtend 64) id := by
  simp [State.readReg, State.readNet, hr, hl]

theorem State.readReg_net_nil {i : SlotId} {r : Reg} (hr : isNet r = true)
    (hl : s.hasLink i.die i.core (r.toNat - 32) = true)
    (hq : tblGet [] (r.toNat - 32) (s.core i.die i.core).netIn = []) :
    s.readReg i r = .wait := by
  simp [State.readReg, State.readNet, hr, hl, hq]

/-- The oldest word is taken, and the later ones stay in order. -/
theorem State.readReg_net_cons {i : SlotId} {r : Reg} {v : Word} {ws : List Word} (hr : isNet r = true)
    (hl : s.hasLink i.die i.core (r.toNat - 32) = true)
    (hq : tblGet [] (r.toNat - 32) (s.core i.die i.core).netIn = v :: ws) :
    s.readReg i r = .val v (s.modCore i.die i.core fun c =>
      { c with netIn := tblSet [] (r.toNat - 32) ws c.netIn }) := by
  simp [State.readReg, State.readNet, hr, hl, hq]

/-! Issue with one operand (07 R200; 14 R370) -/

/-- A trap that changes nothing of the state before its instruction is taken in that state. -/
theorem State.perform_trapIn_id (cause sub : Byte) (val : Word) :
    s.perform (.trapIn id cause sub val)
      = .next (s.takeTrap s.cur cause sub (s.slot s.cur).pc s.word val 0) :=
  (apply_ite Host.Outcome.next ..).symm

section
variable {d a : Reg} (f : Word → Word) (hz : s.hazard [a] [d] = false)
include hz

/-- While nothing is awaited, what stands in the way of the destination decides, before the operand is read. -/
theorem State.issue1_of_dstReady_some {x : Act} (hd : dstReady s [d] = some x) : s.issue1 d a f = s.perform x := by
  simp only [State.issue1, State.issue, hz, hd, Bool.false_eq_true, ↓reduceIte]

/-- While nothing is awaited and the destination takes its result at once, the issue is the read of the operand. -/
theorem State.issue1_of_dstReady_none (hd : dstReady s [d] = none) :
    s.issue1 d a f
      = s.perform (readOperands s.cur [a] [] s fun v t => .go (t.finish d (f (v.getD 0 0)))) := by
  simp only [State.issue1, State.issue, hz, hd, Bool.false_eq_true, ↓reduceIte]

theorem State.issue1_read_val {v : Word} {t : State} (hd : dstReady s [d] = none)
    (hr : s.readReg s.cur a = .val v t) : s.issue1 d a f = .next (t.finish d (f v)) := by
  rw [s.issue1_of_dstReady_none f hz hd, readOperands, hr]
  rfl

theorem State.issue1_read_wait (hd : dstReady s [d] = none) (hr : s.readReg s.cur a = .wait) :
    s.issue1 d a f = .next (s.waitData s.cur) := by
  rw [s.issue1_of_dstReady_none f hz hd, readOperands, hr]
  rfl

theorem State.issue1_read_trap {cause sub : Byte} {val : Word} (hd : dstReady s [d] = none)
    (hr : s.readReg s.cur a = .trap cause sub val id) :
    s.issue1 d a f = .next (s.takeTrap s.cur cause sub (s.slot s.cur).pc s.word val 0) := by
  rw [s.issue1_of_dstReady_none f hz hd, readOperands, hr]
  exact s.perform_trapIn_id cause sub val

end

/-- A network register without a link takes no result: NETLINK (06 R184). -/
theorem dstReady_net_noLink {d : Reg} (hd : isNet d = true)
    (hl : s.hasLink s.cur.die s.cur.core (d.toNat - 32) = false) (ds : List Reg) :
    dstReady s (d :: ds) = some (.trap 0x0f 0 (d.zeroExtend 64) 0) := by
  simp [dstReady, hd, hl]

/-- ADDI with the immediate 0 hands its operand on. -/
theorem execAddi_zero (d a : Reg) : exec (.addi d a 0) s = s.issue1 d a id := by
  have himm : aluImm .add 0 = id := funext fun v => BitVec.add_zero v
  change s.issue1 d a (aluImm .add 0) = _
  rw [himm]

/-! Arrival (01 R18) -/

/-- A word with no earlier one on its way leaves the network for the end of its register's queue, unless the core is
retired. -/
theorem execNetworkWordArrival_first {i : SlotId} {p : BitVec 3} {w : Word}
    (hq : s.packet s.ev.id = some (.netWord i p w)) (hb : s.wordBehind s.ev.id i p = false)
    (hr : (s.core i.die i.core).retired = false) :
    exec .networkWordArrival s = .next ((s.dropPacket s.ev.id).modCore i.die i.core fun c =>
      { c with netIn := tblSet [] p.toNat (tblGet [] p.toNat c.netIn ++ [w]) c.netIn }) := by
  change execNetworkWordArrival s = _
  simp only [execNetworkWordArrival, hq, hb, State.dropPacket_core, hr, Bool.false_eq_true, ↓reduceIte]

/-! The obligation -/

/-- Settles O20: the arrival, then the three fates of a read, then a write without a link. -/
theorem networkRegisters : Obligations.NetworkRegisters := by
  unfold Obligations.NetworkRegisters
  intro s i p v w ws a d
  refine ⟨?_, ?_, ?_⟩
  · intro hq hb hr
    exact ⟨_, execNetworkWordArrival_first s hq hb hr, by simp, rfl, rfl, rfl⟩
  · intro ha hz hd
    have hdst : dstReady s [d] = none := dstReady_plain s [d] (by simpa using isNet_eq_false_of_lt hd)
    rw [execAddi_zero]
    exact ⟨fun hl => s.issue1_read_trap id hz hdst (s.readReg_net_noLink ha hl),
      fun hl hq => s.issue1_read_wait id hz hdst (s.readReg_net_nil ha hl hq),
      fun hl hq => s.issue1_read_val id hz hdst (s.readReg_net_cons ha hl hq)⟩
  · intro hd _ hz hl
    rw [execAddi_zero]
    exact s.issue1_of_dstReady_some id hz (dstReady_net_noLink s hd hl [])

end Sys2Proof.Machine
end

section
/-!
SUPPORT. The choice of the next turn (02 R52, R61, R63; log entry 1): what a graph node would fire does not depend on whose turn
it is, and every move that a state holds ready is one that its rotations give.
-/

namespace Sys2Proof.Machine

/-! What a node would fire -/

/-- The same view in a state that differs in whose turn it is and in the inputs to come. -/
def View.withTurn (v : View) (g : Turn) (l : List Turn) : View := { v with s := { v.s with turn := g, inputs := l } }

section
variable (v : View) (g : Turn) (l : List Turn)

theorem View.rest_withTurn (qs : List NodePort) : (v.withTurn g l).rest qs = v.rest qs := by
  induction qs with
  | nil => rfl
  | cons q qs ih => simp only [View.rest, ih]; rfl

theorem View.lacks_withTurn (qs : List NodePort) : (v.withTurn g l).lacks qs = v.lacks qs := by
  induction qs with
  | nil => rfl
  | cons q qs ih => simp only [View.lacks, ih]; rfl

theorem elemNode_withTurn (o : ElemOp) : elemNode o (v.withTurn g l) = elemNode o v := by
  simp only [elemNode, View.rest_withTurn]
  rfl

theorem memNode_withTurn (o : NodeOp) (sc : Scope) : memNode o sc (v.withTurn g l) = memNode o sc v := by
  simp only [memNode, View.lacks_withTurn]
  rfl

theorem View.columnToks_withTurn (ws : List Word) (ks : List OutTok) (fl : FpFlags) (st : BitVec 32) :
    (v.withTurn g l).columnToks ws ks fl st = v.columnToks ws ks fl st := by
  induction ws generalizing ks fl st with
  | nil => rfl
  | cons w ws ih => exact ih ..

theorem View.columnBlocks_withTurn (n : Nat) (vs : List FVal) (ks : List OutTok) (fl : FpFlags) (st : BitVec 32) :
    (v.withTurn g l).columnBlocks n vs ks fl st = v.columnBlocks n vs ks fl st := by
  induction n generalizing vs ks fl st with
  | zero => rfl
  | succ n ih => exact ih ..

theorem accRead_withTurn (clear : Bool) (m : Nat) (y : MacroSt) (key : Nat) :
    accRead clear m (v.withTurn g l) y key = accRead clear m v y key := by
  simp only [accRead, View.columnToks_withTurn, View.columnBlocks_withTurn]
  rfl

theorem accRdNode_withTurn (m : BitVec 3) : accRdNode m (v.withTurn g l) = accRdNode m v := by
  simp only [accRdNode, accNode, funext fun y => funext fun k => accRead_withTurn v g l false m.toNat y k]
  rfl

theorem accRdclrNode_withTurn (m : BitVec 3) : accRdclrNode m (v.withTurn g l) = accRdclrNode m v := by
  simp only [accRdclrNode, accNode, funext fun y => funext fun k => accRead_withTurn v g l true m.toNat y k]
  rfl

end

theorem behaviour_withTurn {i : Instr} {t u : Target} {b : View → Option Fired} (h : behaviour i = some (t, u, b))
    (v : View) (g : Turn) (l : List Turn) : b (v.withTurn g l) = b v := by
  unfold behaviour at h
  split at h <;> cases h
  case h_18 => exact accRdNode_withTurn ..
  case h_19 => exact accRdclrNode_withTurn ..
  case h_28 => exact memNode_withTurn ..
  case h_36 => exact elemNode_withTurn ..
  case h_37 | h_38 | h_39 => exact memNode_withTurn ..
  all_goals rfl

/-! A turn that a step may give -/

/-- Whether a turn is one that the rotations of a state give; an event is no matter of the rotations. -/
def State.gives (s : State) : Turn → Bool
  | .slot i => s.mayMove (.slot i)
  | .node n => s.mayMove (.node n)
  | .event _ _ | .idle => true

section
variable (s : State)

@[simp] theorem State.gives_slot (i : SlotId) : s.gives (.slot i) = (s.coreTurns i.die i.core).contains i := rfl
@[simp] theorem State.gives_node (n : NodeId) :
    s.gives (.node n) = (!((s.shed n.die n.shed).out n.slot.toNat).isEmpty || (s.nodeTurns n.die n.shed).contains n) := rfl
@[simp] theorem State.gives_event (i : Instr) (x : EvArg) : s.gives (.event i x) = true := rfl
@[simp] theorem State.gives_idle : s.gives .idle = true := rfl

theorem State.gives_of_mayMove {g : Turn} (h : s.mayMove g = true) : s.gives g = true := by
  cases g with
  | slot i => exact h
  | node n => exact h
  | event i x => rfl
  | idle => rfl

/-- Whether a node can fire does not depend on whose turn it is. -/
theorem State.canFire_withTurn (g : Turn) (l : List Turn) (n : NodeId) :
    ({ s with turn := g, inputs := l } : State).canFire n = s.canFire n := by
  have hs : ({ s with turn := g, inputs := l } : State).shed n.die n.shed = s.shed n.die n.shed := rfl
  simp only [State.canFire, hs]
  cases hb : (decodeGraph (tblGet 0 n.slot.toNat (s.shed n.die n.shed).words)).bind behaviour with
  | none => rfl
  | some q =>
    obtain ⟨i, -, hi⟩ := Option.bind_eq_some_iff.1 hb
    have hv : ({ s with turn := g, inputs := l } : State).view n q.1 q.2.1 = (s.view n q.1 q.2.1).withTurn g l := rfl
    simp only [hv, behaviour_withTurn hi]
    rfl

/-- The turn is one that the rotations give if the state in which it was chosen gives it. -/
theorem State.turnOk_withTurn (g : Turn) (l : List Turn) :
    ({ s with turn := g, inputs := l } : State).turnOk = s.gives g := by
  cases g with
  | slot i => rfl
  | node n =>
    change (!_ || (State.nodeTurns _ _ _).contains n) = _
    have hfun := funext (s.canFire_withTurn (.node n) l)
    simp only [State.gives_node, State.nodeTurns, hfun]
    rfl
  | event i x => rfl
  | idle => rfl

/-! The moves that are ready -/

theorem forall_mem_moveIf {p : Turn → Prop} {b : Bool} {g : Turn} : (∀ x ∈ moveIf b g, p x) ↔ (b = true → p g) := by
  cases b <;> simp [moveIf]

/-- The slots that may have a turn at a core are slots of that core. -/
theorem State.mem_coreTurns {d : Die} {c : CoreNo} {i : SlotId} (h : i ∈ s.coreTurns d c) : i.die = d ∧ i.core = c := by
  simp only [State.coreTurns, State.rotation] at h
  split at h
  · simp at h
  · obtain h | h := List.mem_append.1 h
    · have hm := List.mem_of_find?_eq_some (Option.mem_toList.1 h)
      obtain ⟨k, -, rfl⟩ := List.mem_map.1 hm
      exact ⟨rfl, rfl⟩
    · obtain ⟨k, -, rfl⟩ := List.mem_map.1 (List.mem_filter.1 h).1
      exact ⟨rfl, rfl⟩

theorem State.gives_slotMoves : ∀ g ∈ s.slotMoves, s.gives g = true := by
  simp only [State.slotMoves, List.forall_mem_flatMap, List.forall_mem_map]
  intro k _ i hi
  obtain ⟨hd, hc⟩ := s.mem_coreTurns hi
  simpa [hd, hc] using hi

theorem State.mem_nodesOf {d : Die} {h : ShedNo} {n : NodeId} (hn : n ∈ s.nodesOf d h) : n.die = d ∧ n.shed = h := by
  simp only [State.nodesOf, List.mem_flatMap, List.mem_map] at hn
  obtain ⟨w, -, c, -, rfl⟩ := hn
  exact ⟨rfl, rfl⟩

theorem State.mem_nodeTurns {d : Die} {h : ShedNo} {n : NodeId} (hn : n ∈ s.nodeTurns d h) : n.die = d ∧ n.shed = h := by
  simp only [State.nodeTurns] at hn
  split at hn
  · simp at hn
  · obtain ⟨w, -, hw⟩ := List.mem_filterMap.1 hn
    obtain ⟨k, -, rfl⟩ := List.mem_map.1 (List.mem_of_find?_eq_some hw)
    exact ⟨rfl, rfl⟩

theorem State.gives_delivering {d : Die} {h : ShedNo} :
    ∀ n ∈ (s.nodesOf d h).filter fun n => !((s.shed d h).out n.slot.toNat).isEmpty, s.gives (.node n) = true := by
  intro n hn
  obtain ⟨hm, ho⟩ := List.mem_filter.1 hn
  obtain ⟨rfl, rfl⟩ := s.mem_nodesOf hm
  simp [ho]

theorem State.gives_nodeTurns {d : Die} {h : ShedNo} : ∀ n ∈ s.nodeTurns d h, s.gives (.node n) = true := by
  intro n hn
  obtain ⟨rfl, rfl⟩ := s.mem_nodeTurns hn
  simp [hn]

theorem State.gives_commandMoves (d : Die) (h : ShedNo) (q : QueuedCmd) : ∀ g ∈ commandMoves d h q, s.gives g = true := by
  simp only [commandMoves]
  split
  · simp
  · split <;> simp
  · simp
  · simp
  · simp

theorem State.gives_shedMoves (d : Die) (h : ShedNo) : ∀ g ∈ s.shedMoves d h, s.gives g = true := by
  simp only [State.shedMoves]
  split
  · simp [List.forall_mem_append, forall_mem_moveIf, shedMove, -List.mem_append]
  · simp only [List.forall_mem_append, List.forall_mem_map, List.forall_mem_flatMap, forall_mem_moveIf, shedMove,
      State.gives_event, implies_true, and_true]
    exact ⟨⟨fun q _ => s.gives_commandMoves d h q, s.gives_delivering⟩, s.gives_nodeTurns⟩

theorem State.gives_coreMoves (d : Die) (c : CoreNo) (x : CoreSt) : ∀ g ∈ coreMoves d c x, s.gives g = true := by
  simp [coreMoves, List.forall_mem_append, forall_mem_moveIf, coreMove, -List.mem_append]

theorem State.gives_loomMoves (d : Die) (l : Nat) (x : Loom) : ∀ g ∈ loomMoves d l x, s.gives g = true := by
  simp [loomMoves, List.forall_mem_append, forall_mem_moveIf, unitMove, -List.mem_append]

theorem State.gives_hartMoves (d : Die) (n : Nat) (x : HartSt) : ∀ g ∈ s.hartMoves d n x, s.gives g = true := by
  simp [State.hartMoves, List.forall_mem_append, forall_mem_moveIf, unitMove, -List.mem_append]

theorem State.gives_dieMoves (d : Die) (x : DieSt) : ∀ g ∈ s.dieMoves d x, s.gives g = true := by
  simp only [State.dieMoves, List.forall_mem_append, List.forall_mem_map, forall_mem_moveIf, unitMove,
    coreMove, State.gives_event, implies_true, and_true]

theorem State.gives_accessMoves (a : Access) : ∀ g ∈ accessMoves a, s.gives g = true := by
  simp only [accessMoves]
  split
  case h_2 => cases a.agent <;> simp [idMove]
  all_goals simp [idMove]

theorem State.gives_packetMoves (q : InFlight) : ∀ g ∈ packetMoves q, s.gives g = true := by
  simp [packetMoves, idMove]

theorem State.gives_reedMoves (q : ReedItem) : ∀ g ∈ reedMoves q, s.gives g = true := by
  simp only [reedMoves]
  split <;> simp [idMove]

theorem State.gives_limitMoves : ∀ g ∈ s.limitMoves, s.gives g = true := by
  simp only [State.limitMoves, List.forall_mem_filterMap]
  intro e _ g hg
  split at hg <;> cases hg
  rfl

theorem State.gives_stealMoves : ∀ g ∈ s.stealMoves, s.gives g = true := by
  simp only [State.stealMoves]
  split
  · simp
  · simp [List.forall_mem_flatMap, List.forall_mem_filterMap, coreMove, -List.mem_filterMap, -List.mem_flatMap]

theorem State.gives_checkMoves : ∀ g ∈ s.checkMoves, s.gives g = true := by
  simp [State.checkMoves, List.forall_mem_filterMap, coreMove, -List.mem_filterMap]

theorem State.gives_unitMoves : ∀ g ∈ s.unitMoves, s.gives g = true := by
  simp only [State.unitMoves, List.forall_mem_append, List.forall_mem_flatMap, List.forall_mem_map, forall_mem_moveIf,
    unitMove, State.gives_event, implies_true, and_true]
  exact ⟨⟨⟨⟨⟨⟨⟨⟨⟨⟨fun a _ => s.gives_accessMoves a, fun q _ => s.gives_packetMoves q⟩, fun q _ => s.gives_reedMoves q⟩,
    s.gives_limitMoves⟩, fun e _ => s.gives_coreMoves _ _ e.2⟩, s.gives_stealMoves⟩, s.gives_checkMoves⟩,
    fun e _ => s.gives_shedMoves _ _⟩, fun e _ => s.gives_loomMoves _ _ e.2⟩, fun e _ => s.gives_hartMoves _ _ e.2⟩,
    fun e _ => s.gives_dieMoves _ e.2⟩

theorem State.gives_moves : ∀ g ∈ s.moves, s.gives g = true :=
  List.forall_mem_append.2 ⟨s.gives_slotMoves, s.gives_unitMoves⟩

/-! The choice (log entry 1) -/

theorem State.gives_nextTurn {l : List Turn} (h : ∀ g ∈ l, s.gives g = true) : s.gives (s.nextTurn l).1 = true := by
  simp only [State.nextTurn]
  split
  · split
    next hm => exact s.gives_of_mayMove hm
    next => rfl
  · split
    · rfl
    · exact h _ List.mem_cons_self
    next g gs _ =>
      have hlt : Config.pick s.tick % (gs.length + 1) < (g :: gs).length := Nat.mod_lt _ (Nat.succ_pos _)
      rw [List.getD_eq_getElem _ _ hlt]
      exact h _ (List.getElem_mem hlt)

theorem State.choose_turnOk : s.choose.TurnOk :=
  (s.turnOk_withTurn ..).trans (s.gives_nextTurn s.gives_moves)

/-- What an aclk still has to do at its end are events (R282; 14 R385). -/
theorem State.closing_event : ∀ g ∈ s.closing, ∃ i x, g = .event i x := by
  simp only [State.closing, State.limitsDue, List.forall_mem_append, List.forall_mem_map, List.forall_mem_filterMap]
  refine ⟨fun e _ => ⟨_, _, rfl⟩, fun e _ g hg => ?_⟩
  split at hg <;> cases hg
  exact ⟨_, _, rfl⟩

theorem State.settle_turnOk : s.settle.TurnOk := by
  simp only [State.settle]
  split
  · exact State.choose_turnOk _
  · split
    · exact State.choose_turnOk _
    · split
      next c rest hc =>
        obtain ⟨i, x, rfl⟩ := s.closing_event c (hc ▸ List.mem_cons_self)
        rfl
      next => exact State.choose_turnOk _

/-- A step that goes on ends with the choice of the next turn. -/
theorem step_eq_settle {t : State} (h : step s = .next t) : ∃ u, t = State.settle u := by
  unfold step at h
  split at h
  next u _ => exact ⟨u, (Host.Outcome.next.inj h).symm⟩
  all_goals cases h

end

/-- Settles O60: whatever has moved, the turn that is then chosen is given by the rotations. -/
theorem turnsKeepToRotation : Obligations.TurnsKeepToRotation := by
  unfold Obligations.TurnsKeepToRotation
  intro s t _ h
  obtain ⟨u, rfl⟩ := step_eq_settle s h
  exact u.settle_turnOk

end Sys2Proof.Machine
end

section
/-!
SUPPORT. The frame of the operations that issue ends with: entering a state, waiting, waking and completing change slots alone;
a result changes its register, or sends a network word.
-/

namespace Sys2Proof.Machine

variable (s : State)

/-! Entering a state -/

@[simp] theorem State.enter_cur (i : SlotId) (st : SlotState) (aw : Await) : (s.enter i st aw).cur = s.cur := rfl
@[simp] theorem State.enter_ev (i : SlotId) (st : SlotState) (aw : Await) : (s.enter i st aw).ev = s.ev := rfl
@[simp] theorem State.enter_mem (i : SlotId) (st : SlotState) (aw : Await) : (s.enter i st aw).mem = s.mem := rfl
@[simp] theorem State.enter_net (i : SlotId) (st : SlotState) (aw : Await) : (s.enter i st aw).net = s.net := rfl
@[simp] theorem State.enter_nextId (i : SlotId) (st : SlotState) (aw : Await) : (s.enter i st aw).nextId = s.nextId := rfl
@[simp] theorem State.enter_accs (i : SlotId) (st : SlotState) (aw : Await) : (s.enter i st aw).accs = s.accs := rfl
@[simp] theorem State.enter_dies (i : SlotId) (st : SlotState) (aw : Await) : (s.enter i st aw).dies = s.dies := rfl
@[simp] theorem State.enter_cores (i : SlotId) (st : SlotState) (aw : Await) : (s.enter i st aw).cores = s.cores := rfl
@[simp] theorem State.enter_sheds (i : SlotId) (st : SlotState) (aw : Await) : (s.enter i st aw).sheds = s.sheds := rfl
@[simp] theorem State.enter_looms (i : SlotId) (st : SlotState) (aw : Await) : (s.enter i st aw).looms = s.looms := rfl
@[simp] theorem State.enter_core (i : SlotId) (st : SlotState) (aw : Await) (e : Die) (j : CoreNo) : (s.enter i st aw).core e j = s.core e j := rfl
@[simp] theorem State.enter_die (i : SlotId) (st : SlotState) (aw : Await) (e : Die) : (s.enter i st aw).die e = s.die e := rfl
@[simp] theorem State.enter_shed (i : SlotId) (st : SlotState) (aw : Await) (e : Die) (j : ShedNo) : (s.enter i st aw).shed e j = s.shed e j := rfl
@[simp] theorem State.enter_loom (i : SlotId) (st : SlotState) (aw : Await) (e : Die) (j : LoomNo) : (s.enter i st aw).loom e j = s.loom e j := rfl

/-! Waking -/

@[simp] theorem State.wake_cur (i : SlotId) : (s.wake i).cur = s.cur := rfl
@[simp] theorem State.wake_ev (i : SlotId) : (s.wake i).ev = s.ev := rfl
@[simp] theorem State.wake_mem (i : SlotId) : (s.wake i).mem = s.mem := rfl
@[simp] theorem State.wake_net (i : SlotId) : (s.wake i).net = s.net := rfl
@[simp] theorem State.wake_nextId (i : SlotId) : (s.wake i).nextId = s.nextId := rfl
@[simp] theorem State.wake_accs (i : SlotId) : (s.wake i).accs = s.accs := rfl
@[simp] theorem State.wake_dies (i : SlotId) : (s.wake i).dies = s.dies := rfl
@[simp] theorem State.wake_cores (i : SlotId) : (s.wake i).cores = s.cores := rfl
@[simp] theorem State.wake_sheds (i : SlotId) : (s.wake i).sheds = s.sheds := rfl
@[simp] theorem State.wake_looms (i : SlotId) : (s.wake i).looms = s.looms := rfl
@[simp] theorem State.wake_core (i : SlotId) (e : Die) (j : CoreNo) : (s.wake i).core e j = s.core e j := rfl
@[simp] theorem State.wake_die (i : SlotId) (e : Die) : (s.wake i).die e = s.die e := rfl
@[simp] theorem State.wake_shed (i : SlotId) (e : Die) (j : ShedNo) : (s.wake i).shed e j = s.shed e j := rfl
@[simp] theorem State.wake_loom (i : SlotId) (e : Die) (j : LoomNo) : (s.wake i).loom e j = s.loom e j := rfl

/-! Waiting -/

@[simp] theorem State.waitData_cur (i : SlotId) : (s.waitData i).cur = s.cur := rfl
@[simp] theorem State.waitData_ev (i : SlotId) : (s.waitData i).ev = s.ev := rfl
@[simp] theorem State.waitData_mem (i : SlotId) : (s.waitData i).mem = s.mem := rfl
@[simp] theorem State.waitData_net (i : SlotId) : (s.waitData i).net = s.net := rfl
@[simp] theorem State.waitData_nextId (i : SlotId) : (s.waitData i).nextId = s.nextId := rfl
@[simp] theorem State.waitData_accs (i : SlotId) : (s.waitData i).accs = s.accs := rfl
@[simp] theorem State.waitData_dies (i : SlotId) : (s.waitData i).dies = s.dies := rfl
@[simp] theorem State.waitData_cores (i : SlotId) : (s.waitData i).cores = s.cores := rfl
@[simp] theorem State.waitData_sheds (i : SlotId) : (s.waitData i).sheds = s.sheds := rfl
@[simp] theorem State.waitData_looms (i : SlotId) : (s.waitData i).looms = s.looms := rfl
@[simp] theorem State.waitData_core (i : SlotId) (e : Die) (j : CoreNo) : (s.waitData i).core e j = s.core e j := rfl
@[simp] theorem State.waitData_die (i : SlotId) (e : Die) : (s.waitData i).die e = s.die e := rfl
@[simp] theorem State.waitData_shed (i : SlotId) (e : Die) (j : ShedNo) : (s.waitData i).shed e j = s.shed e j := rfl
@[simp] theorem State.waitData_loom (i : SlotId) (e : Die) (j : LoomNo) : (s.waitData i).loom e j = s.loom e j := rfl

/-! Completing what was parked -/

@[simp] theorem State.wakeNext_cur (i : SlotId) : (s.wakeNext i).cur = s.cur := rfl
@[simp] theorem State.wakeNext_ev (i : SlotId) : (s.wakeNext i).ev = s.ev := rfl
@[simp] theorem State.wakeNext_mem (i : SlotId) : (s.wakeNext i).mem = s.mem := rfl
@[simp] theorem State.wakeNext_net (i : SlotId) : (s.wakeNext i).net = s.net := rfl
@[simp] theorem State.wakeNext_nextId (i : SlotId) : (s.wakeNext i).nextId = s.nextId := rfl
@[simp] theorem State.wakeNext_accs (i : SlotId) : (s.wakeNext i).accs = s.accs := rfl
@[simp] theorem State.wakeNext_dies (i : SlotId) : (s.wakeNext i).dies = s.dies := rfl
@[simp] theorem State.wakeNext_cores (i : SlotId) : (s.wakeNext i).cores = s.cores := rfl
@[simp] theorem State.wakeNext_sheds (i : SlotId) : (s.wakeNext i).sheds = s.sheds := rfl
@[simp] theorem State.wakeNext_looms (i : SlotId) : (s.wakeNext i).looms = s.looms := rfl
@[simp] theorem State.wakeNext_core (i : SlotId) (e : Die) (j : CoreNo) : (s.wakeNext i).core e j = s.core e j := rfl
@[simp] theorem State.wakeNext_die (i : SlotId) (e : Die) : (s.wakeNext i).die e = s.die e := rfl
@[simp] theorem State.wakeNext_shed (i : SlotId) (e : Die) (j : ShedNo) : (s.wakeNext i).shed e j = s.shed e j := rfl
@[simp] theorem State.wakeNext_loom (i : SlotId) (e : Die) (j : LoomNo) : (s.wakeNext i).loom e j = s.loom e j := rfl

/-! Completing -/

@[simp] theorem State.advance_cur : (s.advance).cur = s.cur := rfl
@[simp] theorem State.advance_ev : (s.advance).ev = s.ev := rfl
@[simp] theorem State.advance_mem : (s.advance).mem = s.mem := rfl
@[simp] theorem State.advance_net : (s.advance).net = s.net := rfl
@[simp] theorem State.advance_nextId : (s.advance).nextId = s.nextId := rfl
@[simp] theorem State.advance_accs : (s.advance).accs = s.accs := rfl
@[simp] theorem State.advance_dies : (s.advance).dies = s.dies := rfl
@[simp] theorem State.advance_cores : (s.advance).cores = s.cores := rfl
@[simp] theorem State.advance_sheds : (s.advance).sheds = s.sheds := rfl
@[simp] theorem State.advance_looms : (s.advance).looms = s.looms := rfl
@[simp] theorem State.advance_core (e : Die) (j : CoreNo) : (s.advance).core e j = s.core e j := rfl
@[simp] theorem State.advance_die (e : Die) : (s.advance).die e = s.die e := rfl
@[simp] theorem State.advance_shed (e : Die) (j : ShedNo) : (s.advance).shed e j = s.shed e j := rfl
@[simp] theorem State.advance_loom (e : Die) (j : LoomNo) : (s.advance).loom e j = s.loom e j := rfl

theorem State.wake_ne {i j : SlotId} (h : j ≠ i) : (s.wake i).slot j = s.slot j := s.enter_ne h _ _
theorem State.waitData_ne {i j : SlotId} (h : j ≠ i) : (s.waitData i).slot j = s.slot j := s.enter_ne h _ _

/-- A slot that wakes after its instruction: the PC is at the next word, and it is READY; its registers stay. -/
theorem State.wakeNext_slot (i : SlotId) :
    ((s.wakeNext i).slot i).pc = (s.slot i).pc + 4 ∧ ((s.wakeNext i).slot i).state = .ready
      ∧ ((s.wakeNext i).slot i).regs = (s.slot i).regs := by
  simp [State.wakeNext, State.wake, State.enter_slot]

@[simp] theorem State.sendRelease_slot (p : Packet) (i j : SlotId) : (s.sendRelease p i).slot j = s.slot j := rfl

theorem State.send_net (p : Packet) : (s.send p).net = s.net ++ [{ id := s.nextId, packet := p }] := rfl

/-! Results -/

/-- A result goes to a register, and leaves the slot's other fields. -/
theorem State.writeReg_slot_frame (i : SlotId) (r : Reg) (v : Word) :
    ((s.writeReg i r v).slot i).pc = (s.slot i).pc ∧ ((s.writeReg i r v).slot i).jcnt = (s.slot i).jcnt := by
  simp only [State.writeReg]
  repeat' split
  all_goals simp [SlotSt.setMw]

theorem State.writeReg_cores (i : SlotId) (r : Reg) (v : Word) : (s.writeReg i r v).cores = s.cores := by
  simp only [State.writeReg]
  repeat' split
  all_goals simp

/-- A completed instruction with a result: the PC is at the next word, and the slot is READY. -/
theorem State.finish_slot_frame (d : Reg) (v : Word) :
    ((s.finish d v).slot s.cur).pc = (s.slot s.cur).pc + 4 ∧ ((s.finish d v).slot s.cur).state = .ready
      ∧ ((s.finish d v).slot s.cur).jcnt = (s.slot s.cur).jcnt := by
  obtain ⟨hpc, hj⟩ := s.writeReg_slot_frame s.cur d v
  have h := (s.writeReg s.cur d v).advance_slot
  rw [State.writeReg_cur] at h
  rw [State.finish, h]
  exact ⟨congrArg (· + 4) hpc, rfl, hj⟩

/-- A result for a general register stands there. -/
theorem State.finish_g {d : Reg} (hd : d < 32) (h0 : d ≠ 0) (v : Word) : ((s.finish d v).slot s.cur).g d = v := by
  have h := (s.writeReg s.cur d v).advance_slot
  rw [State.writeReg_cur] at h
  rw [State.finish, h, s.writeReg_general _ hd, State.modSlot_self]
  exact SlotSt.g_setG_self _ h0 v

@[simp] theorem State.finish_mem (d : Reg) (v : Word) : (s.finish d v).mem = s.mem := s.writeReg_mem _ _ _

@[simp] theorem State.finish_core (d : Reg) (v : Word) (e : Die) (c : CoreNo) : (s.finish d v).core e c = s.core e c := by
  have h : (s.finish d v).cores = s.cores := s.writeReg_cores ..
  simp only [State.core, h]

/-! Numbers -/

/-- The state after a number has been given out. -/
def State.takeId (s : State) : State := { s with nextId := s.nextId + 1 }

@[simp] theorem State.takeId_cur : s.takeId.cur = s.cur := rfl
@[simp] theorem State.takeId_mem : s.takeId.mem = s.mem := rfl
@[simp] theorem State.takeId_slot (i : SlotId) : s.takeId.slot i = s.slot i := rfl
@[simp] theorem State.takeId_core (d : Die) (c : CoreNo) : s.takeId.core d c = s.core d c := rfl

end Sys2Proof.Machine
end

section
/-!
SUPPORT. Threads start (02 R62 to R69; 09 R284 to R286): what SPAWN and FORK do with readable operands, and what a new thread's
slot holds.
-/

namespace Sys2Proof.Machine

variable (s : State)

/-! Conditions of SPAWN and FORK -/

theorem handleFault_of_ok {h : Word} {c : CoreNo} (ho : handleOk h = true) (hc : handleCore h = some c) (w : Word) :
    handleFault h w = none := by
  simp [handleFault, ho, hc]

theorem pcFault_aligned {pc : Word} (h : pc.toNat % 4 = 0) : pcFault pc = none := by simp [pcFault, h]

theorem pcFault_unaligned {pc : Word} (h : pc.toNat % 4 ≠ 0) : pcFault pc = some (.trap 0x20 2 pc 0) := by
  simp [pcFault, h]

/-- Only a re-run finds a child record (R422). -/
theorem State.childRecord_of_jrec_none {i : SlotId} (h : (s.slot i).jrec = none) : s.childRecord i = none := by
  simp only [State.childRecord, h]

/-! SPAWN (09 R285) -/

section
variable {d a b : Reg} (hp : s.plain [a, b, d] [d] = true) {c : CoreNo} (ho : handleOk (s.reg s.cur a) = true)
  (hc : handleCore (s.reg s.cur a) = some c)
include hp ho hc

theorem execSpawn_unaligned (ha : (s.reg s.cur d).toNat % 4 ≠ 0) :
    exec (.spawn d a b) s
      = .next (s.takeTrap s.cur 0x20 2 (s.slot s.cur).pc s.word (s.reg s.cur d) 0) := by
  change execSpawn d a b s = _
  rw [execSpawn, s.issue_plain hp]
  simp [handleFault_of_ok ho hc, hc, pcFault_unaligned ha, State.perform]

theorem execSpawn_held (hj : (s.slot s.cur).jrec = none) (ha : (s.reg s.cur d).toNat % 4 = 0)
    (hl : s.leads s.cur.die (s.reg s.cur a) = .held) : exec (.spawn d a b) s = .next (s.waitData s.cur) := by
  change execSpawn d a b s = _
  rw [execSpawn, s.issue_plain hp]
  simp [handleFault_of_ok ho hc, hc, pcFault_aligned ha, s.childRecord_of_jrec_none hj, hl, State.perform]

/-- The request leaves as a release, and the slot waits for its answer. -/
theorem execSpawn_arrives (hj : (s.slot s.cur).jrec = none) (ha : (s.reg s.cur d).toNat % 4 = 0)
    (hl : s.leads s.cur.die (s.reg s.cur a) = .arrives) :
    let me := s.slot s.cur
    let r : SpawnReq :=
      { frm := s.cur, inc := me.inc, die := (s.reg s.cur a).extractLsb' 58 6, core := c, pc := s.reg s.cur d
        arg := s.reg s.cur b, dom := me.dom, frmode := me.frm, wlim := me.wlim, jnl := s.journaled
        notice := isPriv s.cur, jparent := none }
    exec (.spawn d a b) s
      = .next ((((s.countChild s.cur).sendRelease (.spawn r) s.cur).modSlot s.cur fun y =>
          { y with parkDst := some d }).enter s.cur .waitData (.answer s.nextId)) := by
  change execSpawn d a b s = _
  rw [execSpawn, s.issue_plain hp]
  simp [handleFault_of_ok ho hc, hc, pcFault_aligned ha, s.childRecord_of_jrec_none hj, hl, State.perform, hj]
  rfl

end

/-! FORK (09 R286) -/

/-- An entry at the head of the deque of the executing slot's core, counted by JCNT and by the slot's FORKs. -/
def State.queueChild (s : State) (e : ForkEntry) : State :=
  (((s.setCore s.cur.die s.cur.core { s.curCore with deque := e :: s.curCore.deque }).takeId).countChild s.cur).modSlot s.cur
    fun y => { y with jcnt := y.jcnt + 1 }

@[simp] theorem State.queueChild_cur (e : ForkEntry) : (s.queueChild e).cur = s.cur := by
  simp [State.queueChild, State.countChild]
@[simp] theorem State.queueChild_mem (e : ForkEntry) : (s.queueChild e).mem = s.mem := by
  simp [State.queueChild, State.countChild]
theorem State.queueChild_deque (e : ForkEntry) :
    ((s.queueChild e).core s.cur.die s.cur.core).deque = e :: s.curCore.deque := by
  simp [State.queueChild, State.countChild]
theorem State.queueChild_slot (e : ForkEntry) :
    ((s.queueChild e).slot s.cur).jcnt = (s.slot s.cur).jcnt + 1 ∧ ((s.queueChild e).slot s.cur).pc = (s.slot s.cur).pc := by
  simp [State.queueChild, State.countChild]

/-- FORK completes with the child in the deque. -/
theorem State.queueChild_finish (e : ForkEntry) (d : Reg) (v : Word) :
    let t := (s.queueChild e).finish d v
    (t.core s.cur.die s.cur.core).deque = e :: s.curCore.deque ∧ (t.slot s.cur).jcnt = (s.slot s.cur).jcnt + 1
      ∧ (t.slot s.cur).pc = (s.slot s.cur).pc + 4 ∧ (t.slot s.cur).state = .ready
      ∧ (d < 32 → d ≠ 0 → (t.slot s.cur).g d = v) ∧ t.mem = s.mem := by
  obtain ⟨hpc, hst, hcnt⟩ := (s.queueChild e).finish_slot_frame d v
  have hg : d < 32 → d ≠ 0 → _ := fun hd h0 => (s.queueChild e).finish_g hd h0 v
  obtain ⟨hcnt', hpc'⟩ := s.queueChild_slot e
  rw [State.queueChild_cur] at hpc hst hcnt hg
  simp only [State.finish_core, State.finish_mem, s.queueChild_deque, hpc, hst, hcnt, hcnt', hpc', State.queueChild_mem,
    true_and, and_true]
  exact hg

section
variable {d a b : Reg} (hp : s.plain [a, b] [d] = true)
include hp

theorem execFork_unaligned (ha : (s.reg s.cur a).toNat % 4 ≠ 0) :
    exec (.fork d a b) s
      = .next (s.takeTrap s.cur 0x20 2 (s.slot s.cur).pc s.word (s.reg s.cur a) 0) := by
  change execFork d a b s = _
  rw [execFork, s.issue_plain hp]
  simp [pcFault_unaligned ha, State.perform]

theorem execFork_refused (hj : (s.slot s.cur).jrec = none) (ha : (s.reg s.cur a).toNat % 4 = 0)
    (hf : 32 ≤ s.curCore.deque.length ∨ (s.slot s.cur).jcnt = 0xffff) :
    exec (.fork d a b) s = .next ((s.countChild s.cur).finish d 0) := by
  change execFork d a b s = _
  rw [execFork, s.issue_plain hp]
  simp only [List.map_cons, List.map_nil, List.getD_cons_zero, pcFault_aligned ha, s.childRecord_of_jrec_none hj]
  rw [if_pos (by rwa [Bool.or_eq_true, decide_eq_true_iff, beq_iff_eq])]
  rfl

/-- The child stands at the head of the deque, JCNT counts it, and rd is 1. -/
theorem execFork_queued (hj : (s.slot s.cur).jrec = none) (ha : (s.reg s.cur a).toNat % 4 = 0)
    (hl : s.curCore.deque.length < 32) (hc : (s.slot s.cur).jcnt ≠ 0xffff) :
    let i := s.cur
    let me := s.slot i
    let e : ForkEntry :=
      { pc := s.reg i a, arg := s.reg i b, dom := me.dom, frm := me.frm, wlim := me.wlim, jnl := s.journaled
        parent := ⟨i.die, i.core, i.slot, me.inc⟩, jparent := none, id := s.nextId }
    exec (.fork d a b) s = .next ((s.queueChild e).finish d 1) := by
  change execFork d a b s = _
  rw [execFork, s.issue_plain hp]
  have hn : ¬((decide (dequeEntries ≤ s.curCore.deque.length) || (s.slot s.cur).jcnt == 0xffff) = true) := by
    rw [Bool.or_eq_true, decide_eq_true_iff, beq_iff_eq, not_or]
    exact ⟨Nat.not_le.2 hl, hc⟩
  simp only [List.map_cons, List.map_nil, List.getD_cons_zero, List.getD_cons_succ, pcFault_aligned ha,
    s.childRecord_of_jrec_none hj, if_neg hn, hj, Option.map_none]
  rfl

end

/-! A new thread (02 R62, R65) -/

/-- What a new thread's slot holds: its start values, with g1 the argument. -/
theorem State.startThread_slot (i : SlotId) (pc arg : Word) (inh : Inherit) :
    (s.startThread i pc arg inh).slot i
      = (newThread i (s.slot i) (s.coreClock i.die i.core) pc inh).setG 1 arg := by
  simp [State.startThread]

theorem State.startThread_ne {i j : SlotId} (h : j ≠ i) (pc arg : Word) (inh : Inherit) :
    (s.startThread i pc arg inh).slot j = s.slot j :=
  s.setSlot_ne h _

/-- Every general register of a new thread but g1 is 0. -/
theorem newThread_g (i : SlotId) (old : SlotSt) (clk pc arg : Word) (inh : Inherit) {r : Reg} (h : r ≠ 1) :
    ((newThread i old clk pc inh).setG 1 arg).g r = 0 := by
  rw [SlotSt.g_setG_ne _ h]
  simp [SlotSt.g, newThread]

/-! Requests, answers, the deque and steals (02 R66, R67, R69) -/

section
variable {q : InFlight} {r : SpawnReq} (hq : s.net.find? (·.id == s.ev.id) = some q) (hr : q.packet = .spawn r)
  (hrel : s.released q.src s.ev.id = true) (hup : s.unitUp r.die readySkeins = true)
  (hthere : s.dieThere r.frm.die r.die = true) (hs : (s.core r.die r.core).suspect = false)
  (hf : (s.core r.die r.core).failed = false)
include hq hr hrel hup hthere hs hf

/-- Without a FREE user slot a request is answered with 0. -/
theorem execSpawnRequest_refused (hk : s.freeSlot r.die r.core = none) :
    exec .spawnRequest s = .next { s with net := s.net.map fun p =>
      if p.id == s.ev.id then { p with packet := .spawned r 0, src := none } else p } := by
  change execSpawnRequest s = _
  simp [execSpawnRequest, hq, hr, hrel, hup, hthere, hs, hf, hk]

/-- The child starts in the lowest FREE user slot, and the answer names it. -/
theorem execSpawnRequest_starts {k : SlotNo} (hk : s.freeSlot r.die r.core = some k) :
    let i : SlotId := ⟨r.die, r.core, k⟩
    let u := s.startThread i r.pc r.arg ⟨r.frmode, r.wlim, r.dom, r.jnl⟩
    let w : Word := 0#44 ++ (u.slot i).inc ++ k ++ 0#7 ++ 1#1
    let v := u.modSlot i fun x =>
      { x with exitTo := if r.notice then some (r.frm.die, r.frm.core) else none, jparent := r.jparent, jresult := w }
    exec .spawnRequest s = .next { v with net := v.net.map fun p =>
      if p.id == s.ev.id then { p with packet := .spawned r w, src := none } else p } := by
  change execSpawnRequest s = _
  simp [execSpawnRequest, hq, hr, hrel, hup, hthere, hs, hf, hk]

end

/-- The answer reaches rd of the SPAWN that waits for it. -/
theorem execSpawnAnswer_awaited {r : SpawnReq} {v : Word} (hp : s.packet s.ev.id = some (.spawned r v))
    (hi : (s.slot r.frm).inc = r.inc) (ha : (s.slot r.frm).await = .answer s.ev.id) :
    exec .spawnAnswer s
      = .next ((((s.dropPacket s.ev.id).writeReg r.frm ((s.slot r.frm).parkDst.getD 0) v).modSlot r.frm
          fun y => { y with pc := y.pc + 4 }).wake r.frm) := by
  change execSpawnAnswer s = _
  simp [execSpawnAnswer, hp, hi, ha, State.answered]

theorem execDequePop_starts {e : ForkEntry} {rest : List ForkEntry} {k : SlotNo}
    (hd : (s.core s.ev.die s.ev.core).deque = e :: rest) (hk : s.freeSlot s.ev.die s.ev.core = some k)
    (hr : s.forkReady e = true) :
    exec .dequePop s = .next ((s.modCore s.ev.die s.ev.core fun x => { x with deque := rest }).startChild
      ⟨s.ev.die, s.ev.core, k⟩ e) := by
  change execDequePop s = _
  simp [execDequePop, hd, hk, hr]

theorem execSteal_starts {e : ForkEntry} {k : SlotNo} {vd : Die} {vc : CoreNo}
    (hk : s.freeSlot s.ev.die s.ev.core = some k) (hv : s.victim s.ev.die s.ev.core = some (vd, vc))
    (he : s.loot vd vc s.ev.die s.ev.core = some e) (hd : (s.core s.ev.die s.ev.core).deque = [])
    (hr : s.readyCount s.ev.die s.ev.core = 0) (hs : (s.core s.ev.die s.ev.core).suspect = false)
    (hf : (s.core s.ev.die s.ev.core).failed = false) :
    exec .steal s = .next ((s.modCore vd vc fun y => { y with deque := y.deque.filter (·.id != e.id) }).startChild
      ⟨s.ev.die, s.ev.core, k⟩ e) := by
  change execSteal s = _
  simp [execSteal, hk, hv, he, hd, hr, hs, hf]

/-! The obligation -/

/-- Settles O16: SPAWN and FORK case by case, then what a new thread's slot holds, then the events that start children. -/
theorem threadsStart : Obligations.ThreadsStart := by
  unfold Obligations.ThreadsStart
  refine ⟨?_, ?_, ?_⟩
  · intro s d a b c i me x y pc req entry hj hn
    refine ⟨fun hp ho hc => ⟨fun ha hl => ?_, execSpawn_unaligned s hp ho hc, execSpawn_held s hp ho hc hj⟩,
      fun hp => ⟨execFork_unaligned s hp, fun ha hl hc => ?_, execFork_refused s hp hj⟩⟩
    · refine ⟨_, execSpawn_arrives s hp ho hc hj ha hl, ?_⟩
      rw [hn]
      refine ⟨?_, ?_, ?_, ?_, ?_, ?_, ?_⟩
      · simp [State.sendRelease, State.countChild, req, i, me, x, y, pc]
      · simp [State.enter_slot, i]
      · simp [State.enter_slot, i]
      · simp [State.enter_slot, i]
      · simp [State.enter_slot, i, me, State.countChild]
      · intro j hne
        rw [State.enter_ne _ hne, State.modSlot_ne _ hne, State.sendRelease_slot]
        exact s.modSlot_ne hne _
      · simp [State.countChild]
    · refine ⟨_, execFork_queued s hp hj ha hl hc, ?_⟩
      rw [hn]
      exact s.queueChild_finish entry d 1
  · intro s i pc arg inh t x
    have hx : x = _ := s.startThread_slot i pc arg inh
    have hg1 : x.g 1 = arg := hx ▸ SlotSt.g_setG_self _ (by decide) _
    have hg : ∀ r, r ≠ 1 → x.g r = 0 := fun r hr => hx ▸ newThread_g _ _ _ _ _ _ hr
    have hne : ∀ j, j ≠ i → t.slot j = s.slot j := fun j hj => s.startThread_ne hj ..
    have hl : (t.core i.die i.core).l1d = [] := congrArg CoreSt.l1d (State.modCore_self ..)
    refine ⟨?_, ?_, ?_, hg1, hg, ?_, ?_, ?_, ?_, ?_, ?_, ?_, ?_, ?_, ?_, ?_, ?_, ?_, ?_, hl, hne, rfl⟩
    all_goals simp [hx, newThread, SlotSt.mw, SlotSt.mb, SlotSt.stream]
  · intro s q r v k e rest vd vc
    exact ⟨fun hq hr hrel hup hthere hs hf =>
        ⟨execSpawnRequest_refused s hq hr hrel hup hthere hs hf, execSpawnRequest_starts s hq hr hrel hup hthere hs hf⟩,
      execSpawnAnswer_awaited s, execDequePop_starts s, execSteal_starts s⟩

end Sys2Proof.Machine
end

section
/-!
SUPPORT. Migration (02 R71): the check of a core, the arrival of a slot packet, and its answer.
-/

namespace Sys2Proof.Machine

variable (s : State)

@[simp] theorem State.dropPacket_freeSlot (n : Nat) (d : Die) (c : CoreNo) :
    (s.dropPacket n).freeSlot d c = s.freeSlot d c := rfl

/-- The check of a core whose period has begun: the earliest eligible slot departs where a lighter core of the skein can take it. -/
theorem execMigrationCheck_due {b : CoreNo} {i : SlotId}
    (hr : (s.core s.ev.die s.ev.core).retired = false) (hh : (s.core s.ev.die s.ev.core).halted = false)
    (hc : (s.core s.ev.die s.ev.core).checked < s.aclk.toNat / 1024) :
    let d := s.ev.die
    let c := s.ev.core
    let x := s.core d c
    let t := s.setCore d c { x with checked := s.aclk.toNat / 1024 }
    t.lightest d (t.skeinMates d c) = some b → t.earliest ((coreSlots d c).filter t.eligible) = some i →
    exec .migrationCheck s = .next
      (if x.thresh.toNat < t.readyCount d c ∧ (t.freeSlot d b).isSome = true ∧ t.readyCount d b + 2 ≤ t.readyCount d c
          ∧ (t.core d b).ctx = x.ctx then
        (t.send (.slotPacket ⟨i, ⟨d, b, 0⟩, packetImage (t.slot i)⟩)).enter i .waitData .departure
      else t) := by
  intro d c x t hb hi
  change execMigrationCheck s = _
  simp only [t, x, d, c] at hb hi
  have hdue : ((s.core s.ev.die s.ev.core).retired || (s.core s.ev.die s.ev.core).halted
      || decide (s.aclk.toNat / 1024 ≤ (s.core s.ev.die s.ev.core).checked)) = false := by
    simpa [hr, hh] using hc
  simp only [execMigrationCheck, hdue, Bool.false_eq_true, ↓reduceIte, hb, hi, Bool.and_eq_true, decide_eq_true_eq, beq_iff_eq, and_assoc]
  rfl

theorem execSlotPacket_refused {p : SlotPacket} (hp : s.packet s.ev.id = some (.slotPacket p))
    (hk : s.freeSlot p.dest.die p.dest.core = none) :
    exec .slotPacket s = .next ((s.dropPacket s.ev.id).send (.slotAnswer p false)) := by
  change execSlotPacket s = _
  simp only [execSlotPacket, hp, State.dropPacket_freeSlot, hk]

/-- The thread goes on in the lowest FREE user slot of the target, at its next incarnation. -/
theorem execSlotPacket_enters {p : SlotPacket} {k : SlotNo} (hp : s.packet s.ev.id = some (.slotPacket p))
    (hk : s.freeSlot p.dest.die p.dest.core = some k) (hs : (s.core p.dest.die p.dest.core).suspect = false)
    (hf : (s.core p.dest.die p.dest.core).failed = false)
    (hc : (s.core p.dest.die p.dest.core).ctx = (s.core p.frm.die p.frm.core).ctx) :
    let i : SlotId := ⟨p.dest.die, p.dest.core, k⟩
    let y : SlotSt :=
      { p.image with state := .ready, since := s.coreClock i.die i.core, inc := (s.slot i).inc + 1
                     svstat := (s.slot i).svstat, lastIssue := (s.slot i).lastIssue }
    exec .slotPacket s
      = .next ((((s.dropPacket s.ev.id).setSlot i y).dropL1d i.die i.core).send (.slotAnswer p true)) := by
  change execSlotPacket s = _
  simp only [execSlotPacket, hp, State.dropPacket_freeSlot, hk, hs, hf, State.dropPacket_core, hc, Bool.or_self, bne_self_eq_false,
    Bool.false_eq_true, ↓reduceIte]
  rfl

theorem execMigrationAnswer_awaited {p : SlotPacket} {ok : Bool} (hp : s.packet s.ev.id = some (.slotAnswer p ok))
    (ha : (s.slot p.frm).await = .departure) :
    exec .migrationAnswer s = .next (if ok then
        (s.dropPacket s.ev.id).modSlot p.frm fun x => emptySlot x (s.coreClock p.frm.die p.frm.core)
      else (s.dropPacket s.ev.id).wake p.frm) := by
  change execMigrationAnswer s = _
  simp only [execMigrationAnswer, hp, State.dropPacket_slot, ha, bne_self_eq_false, Bool.false_eq_true, ↓reduceIte]
  rfl

/-- Settles O18: the check, the arrival with and without a FREE slot, and the answer. -/
theorem migrationMovesThreads : Obligations.MigrationMovesThreads := by
  unfold Obligations.MigrationMovesThreads
  intro s p k ok b i
  refine ⟨fun hr hh hc => execMigrationCheck_due s hr hh hc, fun hp => ⟨execSlotPacket_refused s hp, ?_⟩,
    execMigrationAnswer_awaited s⟩
  intro hk hs hf hc
  refine ⟨_, execSlotPacket_enters s hp hk hs hf hc, ?_⟩
  simp [State.dropL1d, State.send_net]

end Sys2Proof.Machine
end

section
/-!
SUPPORT. Delivery and firing of graph nodes (02 R52, R53): what a node does that has no turn or still has tokens to deliver, and
where the one token of a firing goes.
-/

namespace Sys2Proof.Machine

/-! Turns -/

theorem State.fire_of_stopped {s : State} {t u : Target} {b : View → Option Fired}
    (h : (s.shed s.node.die s.node.shed).fires = false
      ∨ (s.shed s.node.die s.node.shed).stopped s.node.slot.toNat = true) : s.fire t u b = s := by
  have hc : (!(s.shed s.node.die s.node.shed).fires
      || (s.shed s.node.die s.node.shed).stopped s.node.slot.toNat) = true := by simpa using h
  simp only [State.fire, if_pos hc]

/-- A node that was left with tokens to deliver delivers what it can; if it then has some left, it has not fired. -/
theorem State.fire_of_out {s : State} {t u : Target} {b : View → Option Fired}
    (hf : (s.shed s.node.die s.node.shed).fires = true)
    (hs : (s.shed s.node.die s.node.shed).stopped s.node.slot.toNat = false)
    (ho : (s.shed s.node.die s.node.shed).out s.node.slot.toNat ≠ []) :
    s.fire t u b = s.pump s.node.die s.node.shed s.node.slot.toNat := by
  simp [State.fire, hf, hs, ho]

/-! Operand ports -/

/-- An operand port has a key of its own. -/
theorem opKey_inj {a b c e : Nat} {j i : NodePort} (hc : c < 4) (he : e < 4) (h : opKey a j c = opKey b i e) :
    a = b ∧ j = i ∧ c = e := by
  have hp : ∀ j, portNum j < 8 := by intro j; cases j <;> decide
  have hpp := hp j
  have hpq := hp i
  simp only [opKey] at h
  refine ⟨by omega, ?_, by omega⟩
  have hn : portNum j = portNum i := by omega
  revert hn
  cases j <;> cases i <;> decide

namespace ShedSt

variable (x : ShedSt)

theorem operand_setOperand_self (n : Nat) (j : NodePort) (c : Nat) (k : Option Token) :
    (x.setOperand n j c k).operand n j c = k := tblGet_set_self ..

theorem operand_setOperand_ne {n m c e : Nat} {j i : NodePort} (hc : c < 4) (he : e < 4) (h : ¬(m = n ∧ i = j ∧ e = c))
    (k : Option Token) : (x.setOperand n j c k).operand m i e = x.operand m i e :=
  tblGet_set_ne _ (fun hk => h (opKey_inj he hc hk)) ..

/-- The operand ports that a firing consumes are empty. -/
def eatOperands (x : ShedSt) (n c : Nat) (eat : List NodePort) : ShedSt := eat.foldl (fun x j => x.setOperand n j c none) x

theorem eatOperands_eq {c : Nat} (hc : c < 4) (n : Nat) (eat : List NodePort) (m : Nat) (i : NodePort) :
    (x.eatOperands n c eat).operand m i c = if m = n ∧ i ∈ eat then none else x.operand m i c := by
  induction eat generalizing x with
  | nil => simp [eatOperands]
  | cons j eat ih =>
    have h := ih (x.setOperand n j c none)
    change (eatOperands (x.setOperand n j c none) n c eat).operand m i c = _
    rw [h]
    by_cases hk : m = n ∧ i = j
    · obtain ⟨rfl, rfl⟩ := hk
      simp [operand_setOperand_self]
    · rw [operand_setOperand_ne x hc hc (fun e => hk ⟨e.1, e.2.1⟩)]
      have hq : (m = n ∧ i ∈ j :: eat) ↔ (m = n ∧ i ∈ eat) := by
        simp only [List.mem_cons]
        exact ⟨fun ⟨hm, ho⟩ => ⟨hm, ho.resolve_left fun e => hk ⟨hm, e⟩⟩, fun ⟨hm, ho⟩ => ⟨hm, .inr ho⟩⟩
      simp only [hq]

/-- A token that reaches an operand port stands there; the nodes' states and what they have to deliver stay. -/
theorem receive_operands {j : NodePort} (hp : j ≠ .s) (n : Nat) (k : Token) (now : Word) :
    (x.receive n j k now).operands = (x.setOperand n j k.ctx.toNat (some k)).operands
      ∧ (x.receive n j k now).nodes = x.nodes := by
  cases j with
  | s => exact absurd rfl hp
  | l | r | p | o =>
    simp only [receive]
    split <;> exact ⟨rfl, rfl⟩

end ShedSt

/-! One token to an operand port (R52) -/

/-- A slot with one token to deliver, for an operand port with room, delivers it and has nothing left. -/
theorem State.pump_node {s : State} {d : Die} {h : ShedNo} {slot : Nat} {n : BitVec 6} {j : NodePort} {k : Token}
    (ho : (s.shed d h).out slot = [⟨.node n j, k⟩]) (hr : (s.shed d h).targetRoom (.node n j) k.ctx.toNat = true) :
    s.pump d h slot
      = (s.modShed d h fun x => x.receive n.toNat j k s.aclk).modShed d h fun x => x.setOut slot [] := by
  simp [State.pump, ho, pumpList, hr, State.deliverTok]

theorem ShedSt.out_setOut (x : ShedSt) (slot : Nat) (q : List OutTok) : (x.setOut slot q).out slot = q := tblGet_set_self ..

theorem ShedSt.out_eatOperands (x : ShedSt) (n c : Nat) (eat : List NodePort) (slot : Nat) :
    (x.eatOperands n c eat).out slot = x.out slot := by
  induction eat generalizing x with
  | nil => rfl
  | cons j eat ih => exact ih _

/-- Nothing to deliver stays nothing. -/
theorem State.pump_out_nil (s : State) {d : Die} {h : ShedNo} {slot : Nat} (ho : (s.shed d h).out slot = []) :
    ((s.pump d h slot).shed d h).out slot = [] := by
  simp [State.pump, ho, pumpList, ShedSt.out_setOut]

/-- What a firing leaves in its shed before its tokens go out. -/
def View.fired (v : View) (x : ShedSt) (eat : List NodePort) (node : NodeSt) : ShedSt :=
  let y := x.eatOperands v.slot v.c eat
  { y.setNode v.slot v.c node with lastCtx := tblSet 3 v.slot v.c y.lastCtx }

theorem View.fired_operand (v : View) (x : ShedSt) (eat : List NodePort) (node : NodeSt) (n : Nat) (j : NodePort) (c : Nat) :
    (v.fired x eat node).operand n j c = (x.eatOperands v.slot v.c eat).operand n j c := rfl

section
variable {v : View} {eat : List NodePort} {k : Token} {node : NodeSt} {n : BitVec 6} {dst : NodePort}
  (hx : v.x = v.s.shed v.d v.h) (ho : v.x.out v.slot = []) (hk : k.ctx = v.ctx) (hc : v.c < 4)
  (hr : v.x.operand n.toNat dst v.c = none)
include hk hc

/-- A token of a context names it by its number. -/
theorem View.toNat_ctx : k.ctx.toNat = v.c := by
  rw [hk, View.ctx, BitVec.toNat_ofNat, Nat.mod_eq_of_lt (by omega)]

include hx ho hr

/-- A firing with one token for an operand port that is empty: the token stands there, and nothing is left to deliver. -/
theorem State.apply_node :
    State.apply v { eat, outs := [⟨.node n dst, k⟩], node }
      = (((v.s.modShed v.d v.h fun x => v.fired x eat node).modShed v.d v.h fun x =>
          x.setOut v.slot [⟨.node n dst, k⟩]).modShed v.d v.h fun x =>
            x.receive n.toNat dst k v.s.aclk).modShed v.d v.h fun x => x.setOut v.slot [] := by
  have hout : (v.fired v.x eat node).out v.slot = [] := (v.x.out_eatOperands ..).trans ho
  have hroom : ((v.fired v.x eat node).setOut v.slot [⟨.node n dst, k⟩]).targetRoom (.node n dst) k.ctx.toNat = true := by
    have he : ((v.fired v.x eat node).setOut v.slot [⟨.node n dst, k⟩]).operand n.toNat dst v.c = none := by
      change (v.x.eatOperands v.slot v.c eat).operand n.toNat dst v.c = none
      rw [ShedSt.eatOperands_eq _ hc, hr, ite_self]
    rw [View.toNat_ctx hk hc]
    cases dst <;> simp [ShedSt.targetRoom, he]
  have hemit : (v.s.modShed v.d v.h fun x => v.fired x eat node).emit v.d v.h v.slot [⟨.node n dst, k⟩]
      = (((v.s.modShed v.d v.h fun x => v.fired x eat node).modShed v.d v.h fun x =>
          x.setOut v.slot [⟨.node n dst, k⟩])).pump v.d v.h v.slot := by
    simp only [State.emit, State.modShed, State.setShed_self, ← hx, hout]
    rfl
  refine (show _ = _ from hemit).trans (State.pump_node ?_ ?_)
  · simp [ShedSt.out_setOut]
  · simpa [← hx] using hroom

end

/-! The obligation -/

/-- Settles O38: a node without a turn, one with tokens to deliver, and a firing with one token. -/
theorem nodesDeliverBeforeFiring : Obligations.NodesDeliverBeforeFiring := by
  unfold Obligations.NodesDeliverBeforeFiring
  constructor
  · intro s t u i k m mf q fb f sc lo so fo uo eo n x p hi
    have hfire : ∃ b, exec i s = .next (s.fire t u b) := by
      revert i
      simp only [List.forall_mem_cons, List.not_mem_nil, false_implies, implies_true, and_true]
      and_intros
      all_goals exact ⟨_, rfl⟩
    obtain ⟨b, hb⟩ := hfire
    rw [hb]
    exact ⟨fun h => congrArg _ (State.fire_of_stopped h), fun hf hs ho =>
      congrArg _ (State.fire_of_out hf hs fun hn => ho (s.pump_out_nil hn))⟩
  · intro v eat k node n dst hx ho hk hc hslot hd hr t
    have ht : t = _ := State.apply_node (eat := eat) (node := node) hx ho hk hc hr
    have hshed : t.shed v.d v.h = (((v.fired v.x eat node).setOut v.slot [⟨.node n dst, k⟩]).receive n.toNat dst k
        v.s.aclk).setOut v.slot [] := by
      simp only [ht, State.modShed_self, ← hx]
    have hctx := View.toNat_ctx hk hc
    obtain ⟨hops, hnodes⟩ := ((v.fired v.x eat node).setOut v.slot [⟨.node n dst, k⟩]).receive_operands hd n.toNat k v.s.aclk
    rw [hctx] at hops
    have hop : ∀ m j, (t.shed v.d v.h).operand m j v.c
        = ((v.fired v.x eat node).setOperand n.toNat dst v.c (some k)).operand m j v.c := by
      intro m j
      rw [hshed]
      exact congrArg (tblGet none (opKey m j v.c)) hops
    refine ⟨?_, ?_, ?_, ?_, ?_⟩
    · rw [hop, ShedSt.operand_setOperand_self]
    · intro j hj hne
      have hkey : ¬(v.slot = n.toNat ∧ j = dst ∧ v.c = v.c) := fun ⟨hs, he, _⟩ =>
        hne.elim (fun h => h he) fun h => h hs.symm
      rw [hop, ShedSt.operand_setOperand_ne _ hc hc hkey, View.fired_operand, ShedSt.eatOperands_eq _ hc,
        if_pos ⟨rfl, hj⟩]
    · rw [hshed]
      refine (congrArg (tblGet {} (nodeIx v.slot v.c)) hnodes).trans ?_
      exact tblGet_set_self ..
    · simp [ht]
    · simp [ht]

end Sys2Proof.Machine
end

section
/-!
SUPPORT. Passes (02 R58; 03 R109; 08 R258): what the issue of a pass changes in its shed, and what its completion leaves in the
columns of its row-slot.
-/

namespace Sys2Proof.Machine

/-! Macros of a shed -/

namespace ShedSt

variable (x : ShedSt)

@[simp] theorem macroAt_modMacro_self (m : Nat) (f : MacroSt → MacroSt) : (x.modMacro m f).macroAt m = f (x.macroAt m) :=
  tblGet_set_self ..

theorem macroAt_modMacro_ne {m k : Nat} (h : k ≠ m) (f : MacroSt → MacroSt) : (x.modMacro m f).macroAt k = x.macroAt k :=
  tblGet_set_ne _ h ..

/-- The macros of a list take one and the same pass. -/
def givePass (x : ShedSt) (p : Pass) (ms : List Nat) : ShedSt :=
  ms.foldl (fun x m => x.modMacro m fun y => { y with pass := some p }) x

theorem givePass_eq (p : Pass) (ms : List Nat) : ∃ t, x.givePass p ms = { x with macros := t } := by
  induction ms generalizing x with
  | nil => exact ⟨x.macros, rfl⟩
  | cons m ms ih =>
    obtain ⟨t, h⟩ := ih (x.modMacro m fun y => { y with pass := some p })
    exact ⟨t, h⟩

theorem givePass_not_mem (p : Pass) {ms : List Nat} {k : Nat} (hk : k ∉ ms) :
    (x.givePass p ms).macroAt k = x.macroAt k := by
  induction ms generalizing x with
  | nil => rfl
  | cons m ms ih =>
    obtain ⟨hm, hms⟩ := not_or.1 (mt List.mem_cons.2 hk)
    exact (ih _ hms).trans (x.macroAt_modMacro_ne hm _)

theorem givePass_mem (p : Pass) {ms : List Nat} {k : Nat} (hk : k ∈ ms) :
    ((x.givePass p ms).macroAt k).pass = some p := by
  induction ms generalizing x with
  | nil => simp at hk
  | cons m ms ih =>
    by_cases hms : k ∈ ms
    · exact ih _ hms
    · obtain rfl : k = m := (List.mem_cons.1 hk).resolve_right hms
      refine (congrArg MacroSt.pass (givePass_not_mem _ p hms)).trans ?_
      rw [macroAt_modMacro_self]

end ShedSt

/-! The issue of a pass -/

theorem mem_maskMacros {m : BitVec 8} {k : Nat} : k ∈ maskMacros m ↔ m.getLsbD k = true := by
  simp only [maskMacros, List.mem_filter, List.mem_range, and_iff_right_iff_imp]
  exact fun h => BitVec.lt_of_getLsbD h

@[simp] theorem ShedSt.queue_setQueue (x : ShedSt) (q : Bool) (t : TileQueue) : (x.setQueue q t).queue q = t := by
  cases q <;> rfl

/-- The head of a queue issues one pass to its macros, and its row leaves the FIFO. -/
theorem ShedSt.issuePass_of_row (x : ShedSt) {q : Bool} {e : TileEntry} {row : List Word × List Word}
    {rows : List (List Word × List Word)} (h : tblGet [] (fifoKey q e.ctx.toNat) x.rows = row :: rows) :
    let p : Pass := { row := e.row, ctx := e.ctx, q, last := e.passes == 1, elems := row.1, scales := row.2 }
    tblGet [] (fifoKey q e.ctx.toNat) (x.issuePass q e).rows = rows
      ∧ (∀ k, (x.issuePass q e).macroAt k = (x.givePass p (maskMacros e.macros)).macroAt k)
      ∧ ((x.issuePass q e).queue q).entries = if e.passes ≤ 1 then (x.queue q).entries.drop 1
          else { e with passes := e.passes - 1 } :: (x.queue q).entries.drop 1 := by
  intro p
  obtain ⟨t, ht⟩ := x.givePass_eq p (maskMacros e.macros)
  have hq : (x.givePass p (maskMacros e.macros)).queue q = x.queue q := by rw [ht]; rfl
  simp only [ShedSt.issuePass, h]
  refine ⟨tblGet_set_self .., fun k => ?_, ?_⟩
  · cases q <;> rfl
  · refine (congrArg TileQueue.entries (ShedSt.queue_setQueue (x.givePass p (maskMacros e.macros)) q _)).trans ?_
    exact congrArg (fun l : List TileEntry => if e.passes ≤ 1 then l.drop 1
      else { e with passes := e.passes - 1 } :: l.drop 1) (congrArg TileQueue.entries hq)

variable (s : State)

theorem execPassIssue_idle (h : (s.shed s.ev.die s.ev.shed).fires = false ∨ (s.shed s.ev.die s.ev.shed).arbitrate = none) :
    exec .passIssue s = .next s := by
  change execPassIssue s = _
  simp only [execPassIssue]
  obtain h | h := h <;> simp [h]

theorem execPassIssue_issues {q turn : Bool} {run : Nat} {e : TileEntry} (hf : (s.shed s.ev.die s.ev.shed).fires = true)
    (ha : (s.shed s.ev.die s.ev.shed).arbitrate = some (q, run, turn))
    (he : (s.shed s.ev.die s.ev.shed).headEntry q = some e) :
    exec .passIssue s = .next (s.setShed s.ev.die s.ev.shed
      { (s.shed s.ev.die s.ev.shed).issuePass q e with highRun := run, turnB := turn }) := by
  change execPassIssue s = _
  simp only [execPassIssue, hf, ha, he, Bool.not_true, Bool.false_eq_true, ↓reduceIte]

/-! The completion of a pass -/

/-- A pass changes only the columns it is over, each once. -/
theorem passColumns_get (m : Mf3) (image : Tbl Byte) (base : Nat) (a : List FVal) (key c : Nat) {cs : List Nat}
    (hn : cs.Nodup) (acc : Tbl (BitVec 32)) (fl : FpFlags) :
    tblGet 0 (key + c) (passColumns m image base a key cs acc fl).1
      = if c ∈ cs then (passColumn a (columnVals m image base c) (tblGet 0 (key + c) acc)).1
        else tblGet 0 (key + c) acc := by
  induction cs generalizing acc fl with
  | nil => simp [passColumns]
  | cons b cs ih =>
    obtain ⟨hb, hcs⟩ := List.nodup_cons.1 hn
    rw [passColumns, ih hcs]
    by_cases hc : c = b
    · subst hc
      simp [hb]
    · have hk : key + c ≠ key + b := by omega
      simp [hc, tblGet_set_ne _ hk]

theorem execPassComplete_idle (h : ((s.shed s.ev.die s.ev.shed).macroAt s.ev.unit).pass = none) :
    exec .passComplete s = .next s := by
  change execPassComplete s = _
  simp only [execPassComplete, h]

/-- The state in which a pass of a macro has been added to the columns of its row-slot. -/
def State.addPass (s : State) (d : Die) (h : ShedNo) (m : Nat) (p : Pass) : State :=
  let x := s.shed d h
  let y := x.macroAt m
  let r := passColumns y.fmt y.image 0x6000 (passVals y.fmt p) (x.accKey p.ctx.toNat p.row) (List.range 128) y.acc 0
  (s.modShed d h fun g => g.modMacro m fun a => { a with acc := r.1, pass := none }).orShedFlags d h r.2

theorem State.addPass_words (d : Die) (h : ShedNo) (m : Nat) (p : Pass) :
    ((s.addPass d h m p).shed d h).words = (s.shed d h).words := by
  simp [State.addPass, State.orShedFlags, ShedSt.modMacro]

section
variable {p : Pass} (hp : ((s.shed s.ev.die s.ev.shed).macroAt s.ev.unit).pass = some p)
  (hf : (s.shed s.ev.die s.ev.shed).failed = false)
include hp hf

theorem execPassComplete_more (hl : p.last = false) :
    exec .passComplete s = .next (s.addPass s.ev.die s.ev.shed s.ev.unit p) := by
  change execPassComplete s = _
  simp only [execPassComplete, hp, hf, Bool.false_eq_true, ↓reduceIte, hl]
  rfl

/-- The last pass of an entry sends the completion token to both targets of its MMA node. -/
theorem execPassComplete_last {slot : Nat} {t u : Target} (hl : p.last = true)
    (hm : (s.shed s.ev.die s.ev.shed).mmaSlot p.q s.ev.unit = some slot)
    (hs : (s.shed s.ev.die s.ev.shed).stopped slot = false)
    (hw : wordTargets (tblGet 0 slot (s.shed s.ev.die s.ev.shed).words) = [t, u]) :
    exec .passComplete s = .next ((s.addPass s.ev.die s.ev.shed s.ev.unit p).emit s.ev.die s.ev.shed slot
      [⟨t, passToken p s.ev.unit⟩, ⟨u, passToken p s.ev.unit⟩]) := by
  change execPassComplete s = _
  simp only [execPassComplete, hp, hf, Bool.false_eq_true, ↓reduceIte, hl, hm, hs, hw]
  rfl

end

/-- Settles O47: the issue of the pass that the arbiter chooses, then its completion column by column. -/
theorem passesRun : Obligations.PassesRun := by
  unfold Obligations.PassesRun
  intro s q turn run e row rows p slot t u d h m x y
  refine ⟨execPassIssue_idle s, ?_, execPassComplete_idle s, ?_⟩
  · intro hf ha he hr
    obtain ⟨hrows, hmac, hent⟩ := x.issuePass_of_row hr
    refine ⟨_, execPassIssue_issues s hf ha he, ?_⟩
    have hv : ∀ z : ShedSt, (s.setShed s.ev.die s.ev.shed z).shed d h = z := fun z => State.setShed_self ..
    rw [hv]
    refine ⟨hrows, fun k _ hk => ?_, fun k hk => ?_, ?_, rfl, rfl, rfl, rfl⟩
    · exact (congrArg MacroSt.pass (hmac k)).trans (x.givePass_mem _ (mem_maskMacros.2 hk))
    · exact (hmac k).trans (x.givePass_not_mem _ (mt mem_maskMacros.1 (by simp [hk])))
    · exact hent
  · intro hp hf vals key r z
    refine ⟨fun c hc => ?_, execPassComplete_more s hp hf, fun hl hm hs _ hw => ?_⟩
    · rw [passColumns_get _ _ _ _ _ _ List.nodup_range, if_pos (List.mem_range.2 hc)]
    · exact execPassComplete_last s hp hf hl hm hs (s.addPass_words d h m p ▸ hw)

end Sys2Proof.Machine
end

section
/-!
SUPPORT. Ports (02 R53 to R57): channel arrivals, free ports, fixed-rate steps and triggers, each event in its cases.
-/

namespace Sys2Proof.Machine

variable (s : State)

/-! Channels -/

section
variable {d : Die} {h : ShedNo} {p : BitVec 4} {k : Token} (hp : s.packet s.ev.id = some (.token d h p k))
include hp

theorem execChannelTokenArrival_first (hb : s.tokenBehind s.ev.id d h p = false) :
    exec .channelTokenArrival s = .next ((s.dropPacket s.ev.id).modShed d h fun a =>
      a.modPort p.toNat fun b => { b with fifo := b.fifo ++ [k] }) := by
  change execChannelTokenArrival s = _
  simp only [execChannelTokenArrival, hp, hb, Bool.false_eq_true, ↓reduceIte]

theorem execChannelTokenArrival_behind (hb : s.tokenBehind s.ev.id d h p = true) :
    exec .channelTokenArrival s = .next s := by
  change execChannelTokenArrival s = _
  simp only [execChannelTokenArrival, hp, hb, ↓reduceIte]

end

theorem execCreditReturn_returns {d : Die} {h : ShedNo} {p : BitVec 4} (hp : s.packet s.ev.id = some (.credit d h p)) :
    exec .creditReturn s = .next ((s.dropPacket s.ev.id).modShed d h fun a =>
      a.modPort p.toNat fun b => { b with credits := b.credits + 1 }) := by
  change execCreditReturn s = _
  simp only [execCreditReturn, hp]

/-! Free input ports -/

/-- A free input port delivers what it has left; then its head token passes, where it may. -/
theorem execFreePortPass_input (hf : (s.shed s.ev.die s.ev.shed).fires = true)
    (he : ((s.shed s.ev.die s.ev.shed).port s.ev.unit).en = true)
    (hr : ((s.shed s.ev.die s.ev.shed).port s.ev.unit).free = true)
    (ho : ((s.shed s.ev.die s.ev.shed).port s.ev.unit).out = false) :
    let q := s.pump s.ev.die s.ev.shed (portOut s.ev.unit)
    let y := q.shed s.ev.die s.ev.shed
    (∀ k rest, (y.portSt s.ev.unit).fifo = k :: rest → y.mayPass s.ev.unit k = true →
      exec .freePortPass s = .next ((q.modShed s.ev.die s.ev.shed fun a => a.modPort s.ev.unit fun b =>
        { b with fifo := rest }).passInput s.ev.die s.ev.shed s.ev.unit k))
    ∧ (∀ k rest, (y.portSt s.ev.unit).fifo = k :: rest → y.mayPass s.ev.unit k = false → exec .freePortPass s = .next q)
    ∧ ((y.portSt s.ev.unit).fifo = [] → exec .freePortPass s = .next q) := by
  intro q y
  have hrun : exec .freePortPass s = .next (match (y.portSt s.ev.unit).fifo with
      | k :: rest =>
        if y.mayPass s.ev.unit k then (q.setShed s.ev.die s.ev.shed (y.modPort s.ev.unit fun b =>
          { b with fifo := rest })).passInput s.ev.die s.ev.shed s.ev.unit k else q
      | [] => q) := by
    change execFreePortPass s = _
    simp only [execFreePortPass, hf, he, hr, ho, Bool.not_true, Bool.or_self, Bool.false_eq_true, ↓reduceIte]
    rfl
  rw [hrun]
  refine ⟨fun k rest hk hm => ?_, fun k rest hk hm => ?_, fun hk => ?_⟩
  · simp only [hk, hm, ↓reduceIte]
    rfl
  · simp only [hk, hm, Bool.false_eq_true, ↓reduceIte]
  · simp only [hk]

/-! Fixed-rate steps -/

theorem execPorts_stopped (h : (s.shed s.ev.die s.ev.shed).fires = false) :
    exec .freePortPass s = .next s ∧ exec .fixedRateStep s = .next s := by
  change execFreePortPass s = _ ∧ execFixedRateStep s = _
  simp only [execFreePortPass, execFixedRateStep, h, Bool.not_false, Bool.true_or, ↓reduceIte, and_self]

/-- What the last step moved is delivered; then every fixed-rate port takes part in the next step, or none does. -/
theorem execFixedRateStep_fires (hf : (s.shed s.ev.die s.ev.shed).fires = true) :
    let w := s.deliverStaged s.ev.die s.ev.shed
    let z := w.shed s.ev.die s.ev.shed
    (z.stepPorts ≠ [] → (∀ a ∈ z.stepPorts, z.stepReady a = true) → exec .fixedRateStep s =
      .next ((w.setShed s.ev.die s.ev.shed (z.stepPorts.foldl (fun b a => b.stepPort a) z)).deliverStaged
        s.ev.die s.ev.shed))
    ∧ ((z.stepPorts = [] ∨ ∃ a ∈ z.stepPorts, z.stepReady a = false) → exec .fixedRateStep s = .next w) := by
  intro w z
  have hrun : exec .fixedRateStep s = .next (if !z.stepPorts.isEmpty && z.stepPorts.all z.stepReady then
      (w.setShed s.ev.die s.ev.shed (z.stepPorts.foldl (fun b a => b.stepPort a) z)).deliverStaged s.ev.die s.ev.shed
      else w) := by
    change execFixedRateStep s = _
    simp only [execFixedRateStep, hf, Bool.not_true, Bool.false_eq_true, ↓reduceIte]
    rfl
  rw [hrun]
  refine ⟨fun hn ha => ?_, fun h => ?_⟩
  · rw [if_pos (by simpa [hn] using ha)]
  · rw [if_neg]
    obtain h | ⟨a, ha, hr⟩ := h
    · simp [h]
    · simpa using fun _ => ⟨a, ha, hr⟩

/-! Triggers -/

section
variable (r : Trigger) (hr : r = tblGet {} s.ev.unit (s.shed s.ev.die s.ev.shed).trigs)
include hr

/-- The trigger after it has acted, and its shed with it. -/
theorem execTriggerFire_due (hd : r.due = true) :
    let room := s.hqRoom s.ev.die r.hq
    let g : Trigger :=
      { r with due := false, next := r.next + r.period, armed := r.period != 0, heldPush := r.push && !room }
    let t := s.modShed s.ev.die s.ev.shed fun a => { a with trigs := tblSet {} s.ev.unit g a.trigs }
    exec .triggerFire s = .next (if r.push then if room then t.hqPush s.ev.die r.hq r.token else t
      else ((List.range 8).filter r.amask.getLsbD).foldl (fun b a =>
        (b.modStream s.ev.die s.ev.shed a fun c => { c with starts := c.starts ++ [r.actx] }).startPending
          s.ev.die s.ev.shed a) t) := by
  change execTriggerFire s = _
  simp only [execTriggerFire, ← hr, hd, Bool.not_true, Bool.false_eq_true, ↓reduceIte]
  rfl

theorem execTriggerFire_idle (hd : r.due = false) : exec .triggerFire s = .next s := by
  change execTriggerFire s = _
  simp only [execTriggerFire, ← hr, hd, Bool.not_false, ↓reduceIte]

theorem execTriggerHeldPush_room (hh : r.heldPush = true) (hq : s.hqRoom s.ev.die r.hq = true) :
    exec .triggerHeldPush s = .next ((s.modShed s.ev.die s.ev.shed fun a =>
      { a with trigs := tblSet {} s.ev.unit { r with heldPush := false } a.trigs }).hqPush s.ev.die r.hq r.token) := by
  change execTriggerHeldPush s = _
  simp only [execTriggerHeldPush, ← hr, hh, hq, Bool.and_self, ↓reduceIte]
  rfl

theorem execTriggerHeldPush_waits (hh : r.heldPush = false ∨ s.hqRoom s.ev.die r.hq = false) :
    exec .triggerHeldPush s = .next s := by
  change execTriggerHeldPush s = _
  simp only [execTriggerHeldPush, ← hr]
  obtain hh | hh := hh <;> simp [hh]

end

/-- Settles O45: each event of the ports in its cases. -/
theorem portsMoveTokens : Obligations.PortsMoveTokens := by
  unfold Obligations.PortsMoveTokens
  intro s d h p k rest e g n x q y w z r r'
  refine ⟨execChannelTokenArrival_first s, execChannelTokenArrival_behind s, execCreditReturn_returns s,
    fun hf he hr ho => ?_, execPorts_stopped s, execFixedRateStep_fires s, fun a => tblGet_set_self ..,
    execTriggerFire_idle s r rfl, fun hd hp => ?_, fun hd hp => ?_, execTriggerHeldPush_room s r rfl,
    execTriggerHeldPush_waits s r rfl⟩
  · obtain ⟨hpass, hwait, hnone⟩ := execFreePortPass_input s hf he hr ho
    exact ⟨hpass k rest, hwait k rest, hnone⟩
  · rw [execTriggerFire_due s r rfl hd]
    refine ⟨fun hq => ?_, fun hq => ?_⟩
    · have hheld : (r.push && !s.hqRoom s.ev.die r.hq) = false := by rw [hq, Bool.not_true, Bool.and_false]
      rw [if_pos hp, if_pos hq, hheld]
    · have hheld : (r.push && !s.hqRoom s.ev.die r.hq) = true := by rw [hp, hq]; rfl
      rw [if_pos hp, if_neg (by rw [hq]; exact Bool.false_ne_true), hheld]
  · rw [execTriggerFire_due s r rfl hd]
    have hheld : (r.push && !s.hqRoom s.ev.die r.hq) = false := by rw [hp, Bool.false_and]
    rw [if_neg (by rw [hp]; exact Bool.false_ne_true), hheld]

end Sys2Proof.Machine
end

section
/-!
SUPPORT. Stream commands (02 R57 to R60; 09 R298; 16 R412, R413): the checks at issue, case by case, and what each command does
when its turn on the scoreboard has come.
-/

namespace Sys2Proof.Machine

/-! Issue with operands that can be read -/

/-- Operands that can be read at once can be read one by one. -/
theorem State.plain_left {s : State} {a b : Reg} {ds : List Reg} (h : s.plain [a, b] ds = true) : s.plain [a] ds = true := by
  simp only [State.plain, State.hazard, List.cons_append, List.nil_append, List.any_cons, List.all_cons, List.all_nil,
    Bool.and_eq_true, Bool.not_eq_true', Bool.or_eq_false_iff, Bool.and_true] at h ⊢
  obtain ⟨⟨⟨ha, -, hd⟩, hna, -⟩, hnd⟩ := h
  exact ⟨⟨⟨ha, hd⟩, hna⟩, hnd⟩

theorem State.issueOpen_plain {s : State} {srcs dsts : List Reg} (hj : s.journaled = false) (h : s.plain srcs dsts = true)
    (k : List Word → State → Act) : s.issueOpen srcs dsts k = s.perform (k (srcs.map (s.reg s.cur)) s) := by
  rw [State.issueOpen, hj, if_neg Bool.false_ne_true, s.issue_plain h]

section
variable {s : State} {a b : Reg} (hj : s.journaled = false) (hp : s.plain [a, b] [] = true)
include hj hp

theorem exec_sbind : exec (.sbind a b) s = s.perform (streamCommand (s.reg s.cur a) (s.reg s.cur b) (some 6)
    (selMask (s.reg s.cur a)) false (fun _ => false) true
    (.sbind ((maskPorts (selMask (s.reg s.cur a))).headD 0) (s.reg s.cur b)) s) :=
  State.issueOpen_plain hj hp _

theorem exec_sgo : exec (.sgo a) s = s.perform (streamCommand (s.reg s.cur a) 0 none (selMask (s.reg s.cur a)) false
    (fun x => x.nctx ≤ (selCtx (s.reg s.cur a)).toNat) false
    (.sgo (selMask (s.reg s.cur a)) (selCtx (s.reg s.cur a))) s) :=
  State.issueOpen_plain hj (State.plain_left hp) _

theorem exec_sbar : exec (.sbar a) s = s.perform (streamCommand (s.reg s.cur a) 0 none (selMask (s.reg s.cur a))
    (selAll (s.reg s.cur a)) (fun _ => false) false (.sbar (selMask (s.reg s.cur a))) s) :=
  State.issueOpen_plain hj (State.plain_left hp) _

theorem exec_trig : exec (.trig a b) s = s.perform (streamCommand (s.reg s.cur a) (s.reg s.cur b) (some 5) 0 false
    (fun _ => false) false (.trig (s.reg s.cur b)) s) :=
  State.issueOpen_plain hj hp _

theorem exec_tq : exec (.tq a b) s = s.perform (streamCommand (s.reg s.cur a) (s.reg s.cur b) none 0 false
    (fun _ => false) false (.tq (selQueue (s.reg s.cur a)) (s.reg s.cur b)) s) :=
  State.issueOpen_plain hj hp _

end

theorem State.perform_trap (s : State) (cause sub : Byte) (val aux : Word) :
    s.perform (.trap cause sub val aux) = .next (s.takeTrap s.cur cause sub (s.slot s.cur).pc s.word val aux) := rfl

/-! Loom commands (Table 16-4) -/

section
variable {t : State} {l : LoomNo} (a b : Word)

theorem State.withLoom_free (h : t.mayCommand l = false) (k : Loom → Act) : t.withLoom l a b k = .trap 0x41 0 a b := by
  simp only [State.withLoom, h, Bool.not_false, ↓reduceIte]

theorem State.withLoom_own (h : t.mayCommand l = true) (hf : (t.loom t.cur.die l).failed = none) (k : Loom → Act) :
    t.withLoom l a b k = k (t.loom t.cur.die l) := by
  simp only [State.withLoom, h, hf, Bool.not_true, Bool.false_eq_true, ↓reduceIte]

theorem State.withState_free (h : t.mayCommand l = false) (st : List LoomState) (k : Loom → Act) :
    t.withState l a b st k = .trap 0x41 0 a b := State.withLoom_free a b h _

theorem State.withState_other (h : t.mayCommand l = true) (hf : (t.loom t.cur.die l).failed = none) {st : List LoomState}
    (hs : (t.loom t.cur.die l).state ∉ st) (k : Loom → Act) : t.withState l a b st k = .trap 0x41 1 a b := by
  rw [State.withState, State.withLoom_own a b h hf, if_neg (by simpa using hs)]

theorem State.withState_mem (h : t.mayCommand l = true) (hf : (t.loom t.cur.die l).failed = none) {st : List LoomState}
    (hs : (t.loom t.cur.die l).state ∈ st) (k : Loom → Act) : t.withState l a b st k = k (t.loom t.cur.die l) := by
  rw [State.withState, State.withLoom_own a b h hf, if_pos (by simpa using hs)]

end

/-! The checks of a stream command -/

/-- A stream command stands last in the scoreboard of a shed, and its instruction is complete. -/
def State.enterBoard (t : State) (h : ShedNo) (cmd : StreamCmd) : State :=
  let q : QueuedCmd := { id := t.nextId, cmd, src := (t.cur, (t.slot t.cur).inc), ctx := t.curCore.ctx }
  (t.takeId.modShed t.cur.die h fun y => { y with cmds := y.cmds ++ [q] }).advance

section
variable {t : State} {a b : Word} {log2 : Option Nat} {mask : BitVec 8} {all one : Bool} {bad3 : Loom → Bool} {cmd : StreamCmd}

theorem streamCommand_free (hm : t.mayCommand (selLoom a) = false) :
    streamCommand a b log2 mask all bad3 one cmd t = .trap 0x41 0 a b := State.withState_free a b hm _ _

variable (hm : t.mayCommand (selLoom a) = true) (hf : (t.loom t.cur.die (selLoom a)).failed = none)
include hm hf

theorem streamCommand_state (hs : (t.loom t.cur.die (selLoom a)).state ≠ .running) :
    streamCommand a b log2 mask all bad3 one cmd t = .trap 0x41 1 a b :=
  State.withState_other a b hm hf (by simpa using hs) _

variable (hs : (t.loom t.cur.die (selLoom a)).state = .running)
include hs

theorem streamCommand_noShed (hh : (t.loom t.cur.die (selLoom a)).sheds[(selShed a).toNat]? = none) :
    streamCommand a b log2 mask false bad3 one cmd t = .trap 0x41 2 a b := by
  refine (State.withState_mem a b hm hf (by simp [hs]) _).trans ?_
  simp [hh]

variable {h : ShedNo} (hh : (t.loom t.cur.die (selLoom a)).sheds[(selShed a).toNat]? = some h)
include hh

/-- The checks of a command for one shed, in their order. -/
theorem streamCommand_shed :
    streamCommand a b log2 mask false bad3 one cmd t =
      if (one && (maskPorts mask).length != 1) || (maskPorts mask).any (t.shed t.cur.die h).memoryPort then .trap 0x41 2 a b
      else if a.toNat / 2 ^ 28 != 0 || bad3 (t.loom t.cur.die (selLoom a)) then .trap 0x41 3 a b
      else ((log2.bind fun n => t.addressFault t.cur b n).getD
        (if 16 ≤ (t.shed t.cur.die h).cmds.length then .wait else .go (t.enterBoard h cmd))) := by
  refine (State.withState_mem a b hm hf (by simp [hs]) _).trans ?_
  simp only [hh, Bool.false_eq_true, ↓reduceIte, Option.toList_some, List.isEmpty_cons, Bool.false_or, List.any_cons,
    List.any_nil, Bool.or_false, List.foldl_cons, List.foldl_nil]
  split
  · rfl
  · split
    · rfl
    · cases log2.bind fun n => t.addressFault t.cur b n with
      | some f => rfl
      | none => exact if_congr decide_eq_true_iff rfl rfl

variable (hk : ((one && (maskPorts mask).length != 1) || (maskPorts mask).any (t.shed t.cur.die h).memoryPort) = false)
include hk

/-- A reserved bit, or what the command itself refuses (Table 16-4). -/
theorem streamCommand_reserved (hb : 2 ^ 28 ≤ a.toNat ∨ bad3 (t.loom t.cur.die (selLoom a)) = true) :
    streamCommand a b log2 mask false bad3 one cmd t = .trap 0x41 3 a b := by
  rw [streamCommand_shed hm hf hs hh, hk, if_neg Bool.false_ne_true, if_pos]
  obtain hb | hb := hb
  · have hd : a.toNat / 2 ^ 28 ≠ 0 := (Nat.div_pos hb (by decide)).ne'
    exact Bool.or_eq_true_iff.2 (.inl (bne_iff_ne.2 hd))
  · exact Bool.or_eq_true_iff.2 (.inr hb)

variable (hw : a.toNat < 2 ^ 28) (h3 : bad3 (t.loom t.cur.die (selLoom a)) = false)
include hw h3

theorem streamCommand_checked :
    streamCommand a b log2 mask false bad3 one cmd t = ((log2.bind fun n => t.addressFault t.cur b n).getD
      (if 16 ≤ (t.shed t.cur.die h).cmds.length then .wait else .go (t.enterBoard h cmd))) := by
  rw [streamCommand_shed hm hf hs hh, hk, if_neg Bool.false_ne_true, if_neg]
  rw [Nat.div_eq_of_lt hw, h3]
  decide

/-- A command that passes its checks enters a scoreboard with room. -/
theorem streamCommand_enters (ha : (log2.bind fun n => t.addressFault t.cur b n) = none)
    (hl : (t.shed t.cur.die h).cmds.length < 16) :
    streamCommand a b log2 mask false bad3 one cmd t = .go (t.enterBoard h cmd) := by
  rw [streamCommand_checked hm hf hs hh hk hw h3, ha, Option.getD_none, if_neg (Nat.not_le.2 hl)]

end

/-- The trap of a record that is not aligned. -/
theorem State.addressFault_unaligned (s : State) (i : SlotId) {va : Word} {n : Nat} (h : va.toNat % 2 ^ n ≠ 0) :
    s.addressFault i va n = some (.trap 0x20 (BitVec.ofNat 8 n) va 0) := by
  simp only [State.addressFault, bne_iff_ne.2 h, ↓reduceIte]

theorem maskPorts_zero : maskPorts 0 = [] := by decide

/-- The stream commands at issue. -/
theorem streamCommands_issue (s : State) (a b : Reg) (hj : s.journaled = false) (hp : s.plain [a, b] [] = true) :
    let w := s.reg s.cur a
    let v := s.reg s.cur b
    let trap : Byte → Byte → Word → Word → Result := fun cause sub p q =>
      .next (s.takeTrap s.cur cause sub (s.slot s.cur).pc s.word p q)
    (s.mayCommand (selLoom w) = false → exec (.sbind a b) s = trap 0x41 0 w v ∧ exec (.sgo a) s = trap 0x41 0 w 0
      ∧ exec (.sbar a) s = trap 0x41 0 w 0 ∧ exec (.trig a b) s = trap 0x41 0 w v ∧ exec (.tq a b) s = trap 0x41 0 w v)
    ∧ (s.mayCommand (selLoom w) = true → (s.loom s.cur.die (selLoom w)).failed = none →
      (s.loom s.cur.die (selLoom w)).state ≠ .running → exec (.sbind a b) s = trap 0x41 1 w v
        ∧ exec (.sgo a) s = trap 0x41 1 w 0 ∧ exec (.sbar a) s = trap 0x41 1 w 0 ∧ exec (.trig a b) s = trap 0x41 1 w v
        ∧ exec (.tq a b) s = trap 0x41 1 w v) := by
  intro w v trap
  rw [exec_sbind hj hp, exec_sgo hj hp, exec_sbar hj hp, exec_trig hj hp, exec_tq hj hp]
  refine ⟨fun hm => ?_, fun hm hf hs => ?_⟩
  · have h {b log2 mask all bad3 one cmd} := congrArg s.perform
      (streamCommand_free (b := b) (log2 := log2) (mask := mask) (all := all) (bad3 := bad3) (one := one) (cmd := cmd) hm)
    exact ⟨h, h, h, h, h⟩
  · have h {b log2 mask all bad3 one cmd} := congrArg s.perform
      (streamCommand_state (b := b) (log2 := log2) (mask := mask) (all := all) (bad3 := bad3) (one := one) (cmd := cmd) hm hf hs)
    exact ⟨h, h, h, h, h⟩

/-- The stream commands at issue to a shed of a RUNNING loom. -/
theorem streamCommands_toShed (s : State) (a b : Reg) (h : ShedNo) (hj : s.journaled = false) (hp : s.plain [a, b] [] = true) :
    let i := s.cur
    let w := s.reg i a
    let v := s.reg i b
    let x := s.loom i.die (selLoom w)
    let y := s.shed i.die h
    let trap : Byte → Byte → Word → Word → Result := fun cause sub p q => .next (s.takeTrap i cause sub (s.slot i).pc s.word p q)
    s.mayCommand (selLoom w) = true → x.failed = none → x.state = .running →
    (x.sheds[(selShed w).toNat]? = none → exec (.sbind a b) s = trap 0x41 2 w v ∧ exec (.sgo a) s = trap 0x41 2 w 0
      ∧ exec (.trig a b) s = trap 0x41 2 w v ∧ exec (.tq a b) s = trap 0x41 2 w v)
    ∧ (x.sheds[(selShed w).toNat]? = some h →
      (maskPorts (selMask w) = [] → exec (.sbind a b) s = trap 0x41 2 w v)
      ∧ (2 ^ 28 ≤ w.toNat → exec (.trig a b) s = trap 0x41 3 w v ∧ exec (.tq a b) s = trap 0x41 3 w v)
      ∧ (w.toNat < 2 ^ 28 → y.cmds.length < 16 →
        (∀ p, maskPorts (selMask w) = [p] → y.memoryPort p = false →
          (s.addressFault i v 6 = none → exec (.sbind a b) s = .next (s.enterBoard h (.sbind p v)))
          ∧ (v.toNat % 64 ≠ 0 → exec (.sbind a b) s = trap 0x20 6 v 0))
        ∧ ((maskPorts (selMask w)).any y.memoryPort = false →
          ((selCtx w).toNat < x.nctx → exec (.sgo a) s = .next (s.enterBoard h (.sgo (selMask w) (selCtx w))))
          ∧ (x.nctx ≤ (selCtx w).toNat → exec (.sgo a) s = trap 0x41 3 w 0)
          ∧ (selAll w = false → exec (.sbar a) s = .next (s.enterBoard h (.sbar (selMask w)))))
        ∧ (s.addressFault i v 5 = none → exec (.trig a b) s = .next (s.enterBoard h (.trig v)))
        ∧ exec (.tq a b) s = .next (s.enterBoard h (.tq (selQueue w) v)))
      ∧ (w.toNat < 2 ^ 28 → 16 ≤ y.cmds.length → exec (.tq a b) s = .next (s.waitData i))) := by
  intro i w v x y trap hm hf hs
  rw [exec_sbind hj hp, exec_sgo hj hp, exec_sbar hj hp, exec_trig hj hp, exec_tq hj hp]
  refine ⟨fun hh => ?_, fun hh => ⟨fun hk => ?_, fun hw => ?_, fun hw hl => ⟨fun p hk hy => ?_, fun hy => ⟨fun hc => ?_, fun hc => ?_,
    fun ha => ?_⟩, fun ha => ?_, ?_⟩, fun hw hl => ?_⟩⟩
  · have h {b log2 mask bad3 one cmd} := congrArg s.perform
      (streamCommand_noShed (b := b) (log2 := log2) (mask := mask) (bad3 := bad3) (one := one) (cmd := cmd) hm hf hs hh)
    exact ⟨h, h, h, h⟩
  · refine (congrArg s.perform (streamCommand_shed hm hf hs hh)).trans ?_
    have hk' : maskPorts (selMask (s.reg s.cur a)) = [] := hk
    rw [hk']
    rfl
  · have h {b log2 cmd} := congrArg s.perform (streamCommand_reserved (b := b) (log2 := log2) (mask := 0) (one := false)
      (bad3 := fun _ => false) (cmd := cmd) hm hf hs hh rfl (.inl hw))
    exact ⟨h, h⟩
  · have hk' : maskPorts (selMask (s.reg s.cur a)) = [p] := hk
    have hone : ((true && (maskPorts (selMask w)).length != 1) || (maskPorts (selMask w)).any y.memoryPort) = false := by
      rw [hk]
      simpa using hy
    rw [hk']
    refine ⟨fun ha => ?_, fun ha => ?_⟩
    · exact congrArg s.perform (streamCommand_enters (b := v) (log2 := some 6) hm hf hs hh hone hw rfl ha hl)
    · refine (congrArg s.perform (streamCommand_checked hm hf hs hh hone hw rfl)).trans ?_
      have hf6 : (some 6).bind (fun n => s.addressFault s.cur v n) = _ :=
        s.addressFault_unaligned s.cur (n := 6) ha
      rw [hf6]
      rfl
  · exact congrArg s.perform (streamCommand_enters (mask := selMask w) (one := false) hm hf hs hh hy hw
      (decide_eq_false (Nat.not_le.2 hc)) rfl hl)
  · exact congrArg s.perform (streamCommand_reserved (mask := selMask w) (one := false) hm hf hs hh hy
      (.inr (decide_eq_true hc)))
  · have ha' : selAll (s.reg s.cur a) = false := ha
    rw [ha']
    exact congrArg s.perform (streamCommand_enters (mask := selMask w) (one := false) hm hf hs hh hy hw rfl rfl hl)
  · exact congrArg s.perform (streamCommand_enters (b := v) (log2 := some 5) (mask := 0) (one := false) hm hf hs hh rfl hw rfl ha hl)
  · exact congrArg s.perform (streamCommand_enters hm hf hs hh rfl hw rfl rfl hl)
  · refine (congrArg s.perform (streamCommand_checked hm hf hs hh rfl hw rfl)).trans ?_
    exact congrArg s.perform (if_pos hl)

end Sys2Proof.Machine
end

section
/-!
SUPPORT. Stream commands take effect (02 R57 to R60; 09 R298; 16 R413): each perform event in its cases.
-/

namespace Sys2Proof.Machine

variable (s : State)

theorem exec_performs_none (hc : s.boardCmd = none) :
    exec .sbindPerform s = .next s ∧ exec .sgoPerform s = .next s ∧ exec .sbarPerform s = .next s
      ∧ exec .trigPerform s = .next s ∧ exec .tqPerform s = .next s := by
  change execSbindPerform s = _ ∧ execSgoPerform s = _ ∧ execSbarPerform s = _ ∧ execTrigPerform s = _ ∧ execTqPerform s = _
  simp only [execSbindPerform, execSgoPerform, execSbarPerform, execTrigPerform, execTqPerform, hc, and_self]

/-! SBIND -/

section
variable {p : Nat} {va : Word} (hc : s.boardCmd = some (.sbind p va))
include hc

theorem execSbindPerform_waits (h : (s.shed s.ev.die s.ev.shed).portBusy s.ev.id p = true
    ∨ (s.shed s.ev.die s.ev.shed).streamDone p = false) : exec .sbindPerform s = .next s := by
  change execSbindPerform s = _
  simp only [execSbindPerform, hc]
  rw [if_pos (by simpa using h)]

variable (hb : (s.shed s.ev.die s.ev.shed).portBusy s.ev.id p = false)
  (hd : (s.shed s.ev.die s.ev.shed).streamDone p = true) (hs : (s.shed s.ev.die s.ev.shed).streamStopped p = false)
include hb hd hs

theorem execSbindPerform_unread {t : State} (hr : s.boardRecord s.ev.die s.ev.shed p va 8 = .ok (none, t)) :
    exec .sbindPerform s
      = .next ((t.dropCmd s.ev.die s.ev.shed s.ev.id).stopItem s.ev.die s.ev.shed (66 + p) 5) := by
  change execSbindPerform s = _
  simp only [execSbindPerform, hc, hb, hd, hs, hr, Bool.not_true, Bool.or_self, Bool.false_eq_true, ↓reduceIte, portItem]

variable {w : List Word} {t : State} (hr : s.boardRecord s.ev.die s.ev.shed p va 8 = .ok (some w, t))
include hr

/-- A descriptor that fits its port is bound. -/
theorem execSbindPerform_binds (hw : Descriptor.ok w = true) (he : ((s.shed s.ev.die s.ev.shed).port p).en = true)
    (ho : ((s.shed s.ev.die s.ev.shed).port p).out = Descriptor.writes w) :
    exec .sbindPerform s = .next (((t.dropCmd s.ev.die s.ev.shed s.ev.id).modStream s.ev.die s.ev.shed p fun y =>
      { y with desc := w, ended := false }).noteHull s.ev.die (s.shed s.ev.die s.ev.shed).loom (Descriptor.writes w)
        (descHull w)) := by
  change execSbindPerform s = _
  simp only [execSbindPerform, hc, hb, hd, hs, hr, hw, he, ho, Bool.not_true, Bool.or_self, bne_self_eq_false,
    Bool.false_eq_true, ↓reduceIte]

theorem execSbindPerform_bad (hw : Descriptor.ok w = false) :
    exec .sbindPerform s
      = .next ((t.dropCmd s.ev.die s.ev.shed s.ev.id).stopItem s.ev.die s.ev.shed (66 + p) 5) := by
  change execSbindPerform s = _
  simp only [execSbindPerform, hc, hb, hd, hs, hr, hw, Bool.not_true, Bool.not_false, Bool.or_self, Bool.true_or,
    Bool.false_eq_true, ↓reduceIte, portItem]

end

/-! SGO -/

theorem oneShift_getLsbD {n : Nat} (hn : n < 8) : (1#8 <<< n).getLsbD n = true := by
  simp [hn]

theorem oneShift_ne_zero {n : Nat} (hn : n < 8) : 1#8 <<< n ≠ 0 := fun h => by
  have := oneShift_getLsbD hn
  rw [h] at this
  simp at this

/-- A start at the one port that is left takes its command out of the scoreboard, and starts the port's stream. -/
theorem execSgoPerform_last {m : BitVec 8} {c : BitVec 2} (hc : s.boardCmd = some (.sgo m c)) (hn : s.ev.unit < 8)
    (hm : m = 1#8 <<< s.ev.unit) (hb : (s.shed s.ev.die s.ev.shed).portBusy s.ev.id s.ev.unit = false)
    (hd : (s.shed s.ev.die s.ev.shed).streamDone s.ev.unit = true)
    (ht : ((s.shed s.ev.die s.ev.shed).stream s.ev.unit).mayTake c = true) :
    exec .sgoPerform s
      = .next ((s.dropCmd s.ev.die s.ev.shed s.ev.id).startStream s.ev.die s.ev.shed s.ev.unit c) := by
  change execSgoPerform s = _
  have hbit : m.getLsbD s.ev.unit = true := hm ▸ oneShift_getLsbD hn
  have hne : m ≠ 0 := hm ▸ oneShift_ne_zero hn
  have hrest : m &&& ~~~(1#8 <<< s.ev.unit) = 0 := by rw [hm]; exact BitVec.and_not_self _
  simp only [execSgoPerform, hc, if_neg hne, hbit, hb, hd, ht, hrest, Bool.not_true, Bool.or_self,
    Nat.not_le.2 hn, decide_false, Bool.false_eq_true, ↓reduceIte]

theorem State.startStream_unbound {d : Die} {h : ShedNo} {p : Nat} {c : BitVec 2}
    (hs : (s.shed d h).streamStopped p = false) (hd : ((s.shed d h).stream p).desc = []) :
    s.startStream d h p c = s.stopItem d h (portItem p) 9 := by
  simp only [State.startStream, hs, hd, List.isEmpty_nil, Bool.false_eq_true, ↓reduceIte]

@[simp] theorem ShedSt.stream_setStream_self (x : ShedSt) (p : Nat) (y : StreamSt) : (x.setStream p y).stream p = y :=
  tblGet_set_self ..

/-- The stream that is bound to a port starts at its first element; the scoreboard, memory and the slots stay. -/
theorem State.startStream_bound {d : Die} {h : ShedNo} {p : Nat} {c : BitVec 2}
    (hs : (s.shed d h).streamStopped p = false) (hd : ((s.shed d h).stream p).desc ≠ []) :
    ∃ y : StreamSt, y.running = true ∧ y.ctx = c ∧ y.pos = 0 ∧ y.desc = ((s.shed d h).stream p).desc
      ∧ s.startStream d h p c = s.setShed d h ((s.shed d h).setStream p y) := by
  refine ⟨((s.shed d h).stream p).start c, rfl, rfl, rfl, rfl, ?_⟩
  simp only [State.startStream, hs, List.isEmpty_iff, hd, Bool.false_eq_true, ↓reduceIte]

theorem State.dropCmd_shed (d : Die) (h : ShedNo) (id : Nat) :
    (s.dropCmd d h id).shed d h = { s.shed d h with cmds := (s.shed d h).cmds.filter (·.id != id) } := by
  simp [State.dropCmd]

/-! SBAR -/

theorem execSbarPerform_eq {m : BitVec 8} (hc : s.boardCmd = some (.sbar m)) :
    let sheds := (s.loomOf s.ev.die s.ev.shed).filter fun g => ((s.shed s.ev.die g).cmd s.ev.id).isSome
    exec .sbarPerform s = .next (if sheds.all fun g => (s.shed s.ev.die g).barDone s.ev.id m then
      sheds.foldl (fun z g => z.dropCmd s.ev.die g s.ev.id) s else s) := by
  change execSbarPerform s = _
  simp only [execSbarPerform, hc]

/-! TRIG -/

section
variable {va : Word} {e : QueuedCmd} {w : List Word} {t : State} (hc : s.boardCmd = some (.trig va))
  (hb : (s.shed s.ev.die s.ev.shed).before s.ev.id = []) (he : (s.shed s.ev.die s.ev.shed).cmd s.ev.id = some e)
  (hw : e.words = []) (hr : s.boardRecord s.ev.die s.ev.shed 8 va 4 = .ok (some w, t))
include hc hb he hw hr

/-- The first of a scoreboard replaces the trigger of its unit, if that has nothing left to do. -/
theorem execTrigPerform_replaces (hg : triggerBad w = false) :
    let g := triggerOf w
    let u := ((w.getD 0 0).extractLsb' 0 3).toNat
    let x := s.shed s.ev.die s.ev.shed
    (tblGet {} u x.trigs).due = false → (tblGet {} u x.trigs).heldPush = false → g.push = false →
    exec .trigPerform s = .next ((t.dropCmd s.ev.die s.ev.shed s.ev.id).modShed s.ev.die s.ev.shed fun y =>
      { y with trigs := tblSet {} u g y.trigs }) := by
  intro g u x hd hh hp
  change execTrigPerform s = _
  simp only [u, g, x] at hd hh hp
  simp only [execTrigPerform, hc, hb, he, hw, hr, hg, hd, hh, hp, List.any_nil, List.isEmpty_nil, Bool.or_self,
    Bool.false_eq_true, ↓reduceIte]
  rfl

theorem execTrigPerform_bad (hg : triggerBad w = true) :
    exec .trigPerform s = .next ((t.dropCmd s.ev.die s.ev.shed s.ev.id).nodeFault s.ev.die s.ev.shed
      (66 + (triggerOf w).port.toNat) 6) := by
  change execTrigPerform s = _
  simp only [execTrigPerform, hc, hb, he, hw, hr, hg, List.any_nil, List.isEmpty_nil, Bool.false_eq_true, ↓reduceIte,
    portItem]

end

/-! TQ -/

/-- A queue with the priority bit of a queue word and an entry more. -/
def TileQueue.append (t : TileQueue) (w : Word) (e : TileEntry) : TileQueue :=
  let t := if w.getLsbD 26 then { t with prio := w.getLsbD 27 } else t
  { t with entries := t.entries ++ [e] }

theorem TileQueue.append_eq (t : TileQueue) (w : Word) (e : TileEntry) :
    (t.append w e).entries = t.entries ++ [e] ∧ (t.append w e).prio = if w.getLsbD 26 then w.getLsbD 27 else t.prio := by
  simp only [TileQueue.append]
  split <;> exact ⟨rfl, rfl⟩

@[simp] theorem ShedSt.queue_setQueue_not (x : ShedSt) (q : Bool) (t : TileQueue) : (x.setQueue q t).queue (!q) = x.queue (!q) := by
  cases q <;> rfl

theorem execTqPerform_appends {q : Bool} {va : Word} (hc : s.boardCmd = some (.tq q va))
    (hb : (s.shed s.ev.die s.ev.shed).before s.ev.id = []) (hs : (s.shed s.ev.die s.ev.shed).stopped (queueItem q) = false)
    (he : va.getLsbD 28 = false) :
    let x := s.shed s.ev.die s.ev.shed
    let row := (va.extractLsb' 0 4).toNat
    let b : BitVec 2 := va.extractLsb' 4 2
    let passes := (va.extractLsb' 10 16).toNat
    let mac := (va.extractLsb' 6 4).toNat
    let macs := x.queueMacros q mac
    passes ≠ 0 → row < x.rowSlots → b.toNat < x.nctx → mac ≤ 8 → macs ≠ 0 → (x.queue q).entries.length < 8 →
    exec .tqPerform s = .next ((s.dropCmd s.ev.die s.ev.shed s.ev.id).modShed s.ev.die s.ev.shed fun y =>
      y.setQueue q ((x.queue q).append va ⟨macs, row, b, passes⟩)) := by
  intro x row b passes mac macs hp hr hn hm hz hl
  change execTqPerform s = _
  simp only [x, row, b, passes, mac, macs] at hp hr hn hm hz hl
  simp only [execTqPerform, hc, hb, hs, he, hp, hz, List.any_nil, Bool.not_false, Bool.true_and, Nat.not_le.2 hr, Nat.not_le.2 hn,
    Nat.not_lt.2 hm, Nat.not_le.2 hl, decide_false, Bool.or_self, Bool.false_eq_true, ↓reduceIte]
  rfl

/-- Settles O36: the checks at issue, then the events by which the commands take effect. -/
theorem streamCommands : Obligations.StreamCommands := by
  unfold Obligations.StreamCommands
  constructor
  · intro s a b h hj hp i d w v l x y m c trap enters
    obtain ⟨hfree, hstate⟩ := streamCommands_issue s a b hj hp
    exact ⟨hfree, fun hm hf => ⟨hstate hm hf, streamCommands_toShed s a b h hj hp hm hf⟩⟩
  · intro s p va w t m c q e d h id x drops
    refine ⟨exec_performs_none s, fun hc => ⟨execSbindPerform_waits s hc, fun hb hd hs => ⟨execSbindPerform_unread s hc hb hd hs,
      fun hr => execSbindPerform_binds s hc hb hd hs hr, fun hr => execSbindPerform_bad s hc hb hd hs hr⟩⟩, ?_, ?_,
      fun hc hb he hw hr hg => execTrigPerform_replaces s hc hb he hw hr hg,
      fun hc hb he hw hr hg => execTrigPerform_bad s hc hb he hw hr hg, ?_⟩
    · intro hc n hn hm hb hd hs ht
      have hrun := execSgoPerform_last s hc hn hm hb hd ht
      have hx : (s.dropCmd d h id).shed d h = { x with cmds := x.cmds.filter (·.id != id) } := s.dropCmd_shed d h id
      have hs' : ((s.dropCmd d h id).shed d h).streamStopped n = false := by rw [hx]; exact hs
      refine ⟨fun hw => ?_, fun hw => ?_⟩
      · have hw' : (((s.dropCmd d h id).shed d h).stream n).desc ≠ [] := by rw [hx]; exact hw
        obtain ⟨y, hrunning, hctx, hpos, hdesc, hstart⟩ := State.startStream_bound (c := c) _ hs' hw'
        have hu : ∀ z, (((s.dropCmd d h id).setShed d h z).shed d h) = z := fun z => State.setShed_self ..
        refine ⟨_, hrun.trans (congrArg _ hstart), ?_⟩
        rw [hu, ShedSt.stream_setStream_self]
        refine ⟨hrunning, hctx, hpos, hdesc.trans ?_, ?_, rfl, rfl⟩
        · rw [hx]; rfl
        · rw [hx]; rfl
      · have hw' : (((s.dropCmd d h id).shed d h).stream n).desc = [] := by rw [hx]; exact hw
        exact hrun.trans (congrArg _ (State.startStream_unbound _ hs' hw'))
    · intro hc sheds
      rw [execSbarPerform_eq s hc]
      refine ⟨fun ha => congrArg _ (if_pos (List.all_eq_true.2 ha)), fun ⟨g, hg, hd⟩ => congrArg _ (if_neg fun ha => ?_)⟩
      exact absurd (List.all_eq_true.1 ha g hg) (by rw [hd]; decide)
    · intro hc hb hs he row b passes mac macs hp hr hn hm hz hl
      refine ⟨_, execTqPerform_appends s hc hb hs he hp hr hn hm hz hl, ?_⟩
      have hu : (((s.dropCmd d h id).modShed d h fun y => y.setQueue q ((x.queue q).append va ⟨macs, row, b, passes⟩)).shed d h)
          = ((s.dropCmd d h id).shed d h).setQueue q ((x.queue q).append va ⟨macs, row, b, passes⟩) := State.modShed_self ..
      obtain ⟨hent, hprio⟩ := (x.queue q).append_eq va ⟨macs, row, b, passes⟩
      rw [hu, ShedSt.queue_setQueue, ShedSt.queue_setQueue_not, s.dropCmd_shed]
      exact ⟨hent, hprio, by cases q <;> rfl, rfl, rfl⟩

end Sys2Proof.Machine
end

section
/-!
SUPPORT. RESUME (09 R299): the loom notes the word at which its slot waits, beside the request that joins the arbiter's.
-/

namespace Sys2Proof.Machine

/-- RESUME of a SAVED loom: the loom notes the word, the request joins the others, and the slot parks. -/
theorem execResume_saved {s : State} {a : Reg} (hj : s.journaled = false) (hp : s.plain [a] [] = true) :
    let i := s.cur
    let l : LoomNo := (s.reg i a).extractLsb' 0 7
    let x := s.loom i.die l
    s.mayCommand l = true → x.failed = none → x.state = .saved →
    exec (.resume a) s = .next (((s.modLoom i.die l fun y => { y with word := s.word }).modDie i.die fun y =>
      { y with leases := y.leases ++
        [{ kind := .resume l, who := some (i, (s.slot i).inc), level := x.level, count := x.count, ctx := x.ctx }] }).enter
          i .parkLease .retry) := by
  intro i l x hm hf hs
  refine (State.issueOpen_plain hj hp _).trans ?_
  exact (congrArg s.perform ((State.withLoom_own _ _ hm hf _).trans (if_neg (by simpa using hs)))).trans rfl

/-- A module whose loom 0 is SAVED and notes the word 0, while the executing word is 1. -/
def savedLoom : State := { turn := .slot ⟨0, 0, 0⟩, cur := ⟨0, 0, 0⟩, word := 1, looms := [(0, { state := .saved })] }

/-- Refutes O35: RESUME also notes the instruction word in the loom, for the trap of a later refusal; with the SAVED loom 0
whose word is 0 and the word 1 at issue, the state after it is not the one claimed, whose loom keeps the word 0. -/
theorem not_leasesAndPeriods : ¬ Obligations.LeasesAndPeriods := by
  unfold Obligations.LeasesAndPeriods
  rintro ⟨-, hperiods⟩
  obtain ⟨-, -, -, hown⟩ := hperiods savedLoom 0 0 rfl
  obtain ⟨-, hperiod⟩ := hown (by decide) rfl
  obtain ⟨-, -, -, -, -, -, -, hresume⟩ := hperiod (by decide)
  have hclaim := (execResume_saved rfl (by decide) (by decide) rfl rfl).symm.trans (hresume rfl)
  have hword := congrArg (fun t : State => (t.loom 0 0).word) (Host.Outcome.next.inj hclaim)
  exact absurd hword (by decide)

end Sys2Proof.Machine
end

section
/-!
FACTS. What the fields of an image are cut from (02 Table 2-7), and the thread that they give back (09 R315).
-/

namespace Sys2Proof.Machine

/-! The codes -/

theorem stateOfCode_code (x : SlotState) : stateOfCode x.code = some x := by cases x <;> rfl

@[simp] theorem getLsbD_bit (b : Bool) : (bit b).getLsbD 0 = b := by cases b <;> rfl

/-! The fields of concatenated words -/

theorem extractLsb'_append_low {v w p n : Nat} (hi : BitVec v) (lo : BitVec w) (h : p + n ≤ w) :
    (no_index (hi ++ lo)).extractLsb' p n = lo.extractLsb' p n := by
  ext k hk
  simp [BitVec.getLsbD_append, show p + k < w by omega]

theorem extractLsb'_append_high {v w p n : Nat} (hi : BitVec v) (lo : BitVec w) (h : w ≤ p) :
    (no_index (hi ++ lo)).extractLsb' p n = hi.extractLsb' (p - w) n := by
  rw [BitVec.extractLsb'_append_eq_ite, dif_neg (by omega)]

theorem getLsbD_append_low {v w p : Nat} (hi : BitVec v) (lo : BitVec w) (h : p < w) :
    (no_index (hi ++ lo)).getLsbD p = lo.getLsbD p := by
  rw [BitVec.getLsbD_append, if_pos h]

theorem getLsbD_append_high {v w p : Nat} (hi : BitVec v) (lo : BitVec w) (h : w ≤ p) :
    (no_index (hi ++ lo)).getLsbD p = hi.getLsbD (p - w) := by
  rw [BitVec.getLsbD_append, if_neg (by omega)]

/-! The REPLY role -/

/-- The bits that an image reserves in the REPLY role of an ESC ticket are clear. -/
theorem escape_words_reserved (d : Die) (h : ShedNo) (n : BitVec 6) (t : BitVec 32) (r : Bool) :
    (Role.escape d h n t r).words.1 &&& ~~~0x3f01ff3f07#64 = 0 := by
  rw [show ~~~0x3f01ff3f07#64 = BitVec.allOnes 26 ++ 0#6 ++ BitVec.allOnes 7 ++ 0#9 ++ BitVec.allOnes 2 ++ 0#6
    ++ BitVec.allOnes 5 ++ 0#1 ++ 0#2 by decide, Role.words]
  repeat rw [BitVec.and_append]
  simp

theorem roleOf_words (r : Role) : roleOf r.words.1 r.words.2 = some r := by
  cases r with
  | plain => rfl
  | escape d h n t r =>
    have hkind : (Role.escape d h n t r).words.1.extractLsb' 0 2 = 1#2 := by
      simp [Role.words, extractLsb'_append_low]
    simp only [roleOf, hkind, escape_words_reserved]
    simp [Role.words, extractLsb'_append_low, extractLsb'_append_high, getLsbD_append_low, getLsbD_append_high,
      -BitVec.getLsbD_eq_getElem]
  | responder c r =>
    have hkind : (Role.responder c r).words.1.extractLsb' 0 2 = 2#2 := by
      simp [Role.words, extractLsb'_append_low]
    simp only [roleOf, hkind]
    simp [Role.words, extractLsb'_append_high, getLsbD_append_low, getLsbD_append_high, -BitVec.getLsbD_eq_getElem]

/-! The general registers and the message window -/

/-- The registers from g1 on, written one after another. -/
@[irreducible] def SlotSt.setRegs (w : Nat → Word) (n : Nat) (x : SlotSt) : SlotSt :=
  (List.range n).foldl (fun x k => x.setG (BitVec.ofNat 6 (k + 1)) (w k)) x

theorem SlotSt.foldl_setG (w : Nat → Word) (n : Nat) (x : SlotSt) :
    (List.range n).foldl (fun x k => x.setG (BitVec.ofNat 6 (k + 1)) (w k)) x = x.setRegs w n := by
  rw [SlotSt.setRegs]

theorem SlotSt.setRegs_succ (w : Nat → Word) (n : Nat) (x : SlotSt) :
    x.setRegs w (n + 1) = (x.setRegs w n).setG (BitVec.ofNat 6 (n + 1)) (w n) := by
  simp only [SlotSt.setRegs, List.range_succ, List.foldl_append, List.foldl_cons, List.foldl_nil]

theorem SlotSt.setRegs_eq (w : Nat → Word) (n : Nat) (x : SlotSt) :
    x.setRegs w n = { x with regs := (x.setRegs w n).regs } := by
  induction n with
  | zero => simp only [SlotSt.setRegs, List.range_zero, List.foldl_nil]
  | succ n ih =>
    rw [SlotSt.setRegs_succ, ih, SlotSt.setG]
    split <;> rfl

theorem SlotSt.g_setRegs (w : Nat → Word) {n : Nat} (hn : n ≤ 31) (x : SlotSt) {k : Nat} (hk : k < n) :
    (x.setRegs w n).g (BitVec.ofNat 6 (k + 1)) = w k := by
  induction n with
  | zero => omega
  | succ n ih =>
    rw [SlotSt.setRegs_succ]
    by_cases h : k = n
    · subst h
      exact SlotSt.g_setG_self _ (by simp [← BitVec.toNat_inj]; omega) _
    · rw [SlotSt.g_setG_ne _ (by simp [← BitVec.toNat_inj]; omega)]
      exact ih (by omega) (by omega)

/-- The message window, written double by double. -/
@[irreducible] def SlotSt.setWin (w : Nat → Word) (n : Nat) (x : SlotSt) : SlotSt :=
  (List.range n).foldl (fun x k => x.setMw k (w k)) x

theorem SlotSt.foldl_setMw (w : Nat → Word) (n : Nat) (x : SlotSt) :
    (List.range n).foldl (fun x k => x.setMw k (w k)) x = x.setWin w n := by
  rw [SlotSt.setWin]

theorem SlotSt.setWin_succ (w : Nat → Word) (n : Nat) (x : SlotSt) : x.setWin w (n + 1) = (x.setWin w n).setMw n (w n) := by
  simp only [SlotSt.setWin, List.range_succ, List.foldl_append, List.foldl_cons, List.foldl_nil]

theorem SlotSt.setWin_eq (w : Nat → Word) (n : Nat) (x : SlotSt) : x.setWin w n = { x with win := (x.setWin w n).win } := by
  induction n with
  | zero => simp only [SlotSt.setWin, List.range_zero, List.foldl_nil]
  | succ n ih =>
    rw [SlotSt.setWin_succ, ih]
    rfl

theorem SlotSt.mw_setWin (w : Nat → Word) (x : SlotSt) {n k : Nat} (hk : k < n) : (x.setWin w n).mw k = w k := by
  induction n with
  | zero => omega
  | succ n ih =>
    rw [SlotSt.setWin_succ]
    by_cases h : k = n
    · subst h
      exact SlotSt.mw_setMw_self ..
    · rw [SlotSt.mw_setMw_ne _ h]
      exact ih (by omega)

/-! The words of an image -/

theorem State.imageWords_reg (s : State) (i : SlotId) {k : Nat} (hk : k < 31) :
    (s.imageWords i).getD k 0 = (s.slot i).g (BitVec.ofNat 6 (k + 1)) := by
  simp [State.imageWords, List.getElem?_append, hk]

theorem State.imageWords_mw (s : State) (i : SlotId) {k : Nat} (hk : k < 6) :
    (s.imageWords i).getD (36 + k) 0 = (s.slot i).mw k := by
  obtain rfl | rfl | rfl | rfl | rfl | rfl : k = 0 ∨ k = 1 ∨ k = 2 ∨ k = 3 ∨ k = 4 ∨ k = 5 := by omega
  all_goals rfl

/-- FRM and the flags, with WLIM above them. -/
theorem State.imageWords_fp (s : State) (i : SlotId) :
    let w := (s.imageWords i).getD 32 0
    w.extractLsb' 0 5 = (s.slot i).fflags ∧ w.extractLsb' 5 3 = (s.slot i).frm ∧ w.extractLsb' 8 24 = 0
      ∧ w.extractLsb' 32 32 = (s.slot i).wlim := by
  intro w
  have hw : w = (s.slot i).wlim ++ 0#24 ++ (s.slot i).frm ++ (s.slot i).fflags := rfl
  simp [hw, extractLsb'_append_low, extractLsb'_append_high]

theorem State.imageWords_mb (s : State) (i : SlotId) :
    let w := (s.imageWords i).getD 42 0
    w.extractLsb' 0 5 = (s.slot i).mbBox ∧ w.extractLsb' 8 3 = (s.slot i).mbLen ∧ w.extractLsb' 5 3 = 0
      ∧ w.extractLsb' 11 53 = 0 := by
  intro w
  have hw : w = 0#53 ++ (s.slot i).mbLen ++ 0#3 ++ (s.slot i).mbBox := rfl
  simp [hw, extractLsb'_append_low, extractLsb'_append_high]

/-- The pinned vector of a slot as its image holds it. -/
def pinWord (p : Option (BitVec 16)) : BitVec 32 :=
  match p with
  | some v => 0#15 ++ 1#1 ++ v
  | none => 0

theorem pinWord_reserved (p : Option (BitVec 16)) : (0#32 ++ pinWord p : Word).extractLsb' 17 47 = 0 := by
  cases p with
  | none => decide
  | some v =>
    ext k hk
    simp only [pinWord, BitVec.getElem_extractLsb']
    rw [BitVec.getLsbD_append, BitVec.getLsbD_append, if_neg (show ¬ 17 + k < 16 by omega)]
    simp
    omega

theorem State.imageWords_pin (s : State) (i : SlotId) :
    let w := (s.imageWords i).getD 45 0
    w.extractLsb' 17 47 = 0 ∧ (if w.getLsbD 16 then some (w.extractLsb' 0 16) else none) = (s.slot i).pinned := by
  intro w
  have hw : w = 0#32 ++ pinWord (s.slot i).pinned := rfl
  rw [hw]
  refine ⟨pinWord_reserved _, ?_⟩
  cases (s.slot i).pinned <;>
    simp [pinWord, extractLsb'_append_low, getLsbD_append_low, getLsbD_append_high, -BitVec.getLsbD_eq_getElem]

theorem State.imageWords_low (s : State) (i : SlotId) :
    let w := (s.imageWords i).getD 34 0
    w.extractLsb' 0 32 = (s.slot i).lfsr ∧ w.extractLsb' 62 2 = 0
      ∧ (if w.getLsbD 32 then some (JoinRef.mk (w.extractLsb' 44 6) (w.extractLsb' 33 11) (w.extractLsb' 50 4) (w.extractLsb' 54 8))
          else none) = (s.slot i).join := by
  intro w
  have hw : w = joinWord (s.slot i) ++ (s.slot i).lfsr := rfl
  rw [hw]
  cases h : (s.slot i).join <;>
    simp [joinWord, h, extractLsb'_append_low, extractLsb'_append_high,
      getLsbD_append_low, getLsbD_append_high, -BitVec.getLsbD_eq_getElem]

theorem noticeWord_fields (i : SlotId) (x : SlotSt) :
    (noticeWord i x).extractLsb' 0 3 = i.core.extractLsb' 8 3 ∧ (noticeWord i x).extractLsb' 26 6 = 0
      ∧ (noticeWord i x).extractLsb' 21 5 = x.lastBox
      ∧ (if (noticeWord i x).getLsbD 3 then some ((noticeWord i x).extractLsb' 15 6, (noticeWord i x).extractLsb' 4 11)
          else none : Option (Die × CoreNo)) = x.exitTo := by
  cases h : x.exitTo <;>
    simp [noticeWord, h, extractLsb'_append_low, extractLsb'_append_high,
      getLsbD_append_low, getLsbD_append_high, -BitVec.getLsbD_eq_getElem]

theorem smode_fields (s : State) (i : SlotId) (hi : isPriv i = false) :
    (s.smode i).extractLsb' 4 4 = 0 ∧ (s.smode i).getLsbD 1 = (s.slot i).pre ∧ (s.smode i).getLsbD 2 = (s.slot i).pin := by
  simp [State.smode, hi, extractLsb'_append_low, extractLsb'_append_high,
    getLsbD_append_low, getLsbD_append_high, -BitVec.getLsbD_eq_getElem]

theorem State.imageWords_mode (s : State) (i : SlotId) :
    (s.imageWords i).getD 33 0 = noticeWord i (s.slot i) ++ i.core.extractLsb' 0 8 ++ (s.slot i).state.code
      ++ (s.smode i).extractLsb' 0 8 ++ 0#5 ++ (s.slot i).dom := rfl

theorem State.imageWords_mode_low (s : State) (i : SlotId) (hi : isPriv i = false) :
    let w := (s.imageWords i).getD 33 0
    w.extractLsb' 0 3 = (s.slot i).dom ∧ w.extractLsb' 3 5 = 0 ∧ w.extractLsb' 12 4 = 0
      ∧ w.extractLsb' 16 8 = (s.slot i).state.code ∧ w.getLsbD 9 = (s.slot i).pre ∧ w.getLsbD 10 = (s.slot i).pin := by
  obtain ⟨hzero, hpre, hpin⟩ := smode_fields s i hi
  simp only [State.imageWords_mode]
  rw [← hpre, ← hpin]
  simpa [extractLsb'_append_low, extractLsb'_append_high, getLsbD_append_low, getLsbD_append_high, -BitVec.getLsbD_eq_getElem]
    using hzero

theorem State.imageWords_mode_high (s : State) (i : SlotId) :
    let w := (s.imageWords i).getD 33 0
    w.extractLsb' 32 3 ++ w.extractLsb' 24 8 = i.core ∧ w.extractLsb' 58 6 = 0 ∧ w.extractLsb' 53 5 = (s.slot i).lastBox
      ∧ (if w.getLsbD 35 then some (w.extractLsb' 47 6, w.extractLsb' 36 11) else none : Option (Die × CoreNo))
        = (s.slot i).exitTo := by
  obtain ⟨hcore, hzero, hlast, hexit⟩ := noticeWord_fields i (s.slot i)
  simp only [State.imageWords_mode]
  refine ⟨?_, ?_, ?_, ?_⟩
  · simp [extractLsb'_append_low, extractLsb'_append_high, hcore]
    exact BitVec.extractLsb'_append_extractLsb'
  · simpa [extractLsb'_append_high] using hzero
  · simpa [extractLsb'_append_high] using hlast
  · simpa [extractLsb'_append_high, getLsbD_append_high, -BitVec.getLsbD_eq_getElem] using hexit

/-- What the image of a slot holds beside its registers and message window. -/
def imageFields (x : SlotSt) (jnl : Bool) : SlotSt :=
  { pc := x.pc, state := if x.state == .trapped || x.state == .free then x.state else .ready, fflags := x.fflags, frm := x.frm,
    wlim := x.wlim, dom := x.dom, jnl := jnl, pre := x.pre, pin := x.pin, lfsr := x.lfsr, role := x.role, mbBox := x.mbBox,
    mbLen := x.mbLen, lastBox := x.lastBox, pinned := x.pinned, exitTo := x.exitTo, join := x.join }

/-- The thread that the image of a slot gives back. -/
def imageThread (s : State) (i : SlotId) : SlotSt :=
  ((imageFields (s.slot i) (((s.imageWords i).getD 33 0).getLsbD 8)).setRegs (fun k => (s.imageWords i).getD k 0) 31).setWin
    (fun k => (s.imageWords i).getD (36 + k) 0) 6

/-- An image is accepted, as the thread of its slot from the core of the slot. -/
theorem threadOfImage_imageWords (s : State) (i : SlotId) (hi : isPriv i = false) :
    threadOfImage (s.imageWords i) = some (imageThread s i, i.core) := by
  have hpc : (s.imageWords i).getD 31 0 = (s.slot i).pc := rfl
  have hzero : (s.imageWords i).getD 35 0 = 0 ∧ (s.imageWords i).getD 46 0 = 0 ∧ (s.imageWords i).getD 47 0 = 0 := ⟨rfl, rfl, rfl⟩
  have hrole : roleOf ((s.imageWords i).getD 43 0) ((s.imageWords i).getD 44 0) = some (s.slot i).role := roleOf_words _
  obtain ⟨hflags, hfrm, hfp0, hwlim⟩ := s.imageWords_fp i
  obtain ⟨hbox, hlen, hmb0, hmb1⟩ := s.imageWords_mb i
  obtain ⟨hpin0, hpinned⟩ := s.imageWords_pin i
  obtain ⟨hlfsr, hlow0, hjoin⟩ := s.imageWords_low i
  obtain ⟨hdom, hmode0, hmode1, hcode, hpre, hpin⟩ := s.imageWords_mode_low i hi
  obtain ⟨hcore, hmode2, hlast, hexit⟩ := s.imageWords_mode_high i
  simp only [threadOfImage, imageThread, imageFields, SlotSt.foldl_setG, SlotSt.foldl_setMw, stateOfCode_code, hpc, hzero, hrole,
    hflags, hfrm, hfp0, hwlim, hbox, hlen, hmb0, hmb1, hpin0, hpinned, hlfsr, hlow0, hjoin, hdom, hmode0, hmode1, hcode, hpre, hpin,
    hcore, hmode2, hlast, hexit, BEq.rfl, Bool.and_true, Bool.not_true, Bool.false_eq_true, ↓reduceIte]

/-- The thread that an image gives back has the slot's other fields. -/
theorem imageThread_eq (s : State) (i : SlotId) :
    imageThread s i = { imageFields (s.slot i) (((s.imageWords i).getD 33 0).getLsbD 8) with
      regs := (imageThread s i).regs, win := (imageThread s i).win } := by
  unfold imageThread
  rw [SlotSt.setWin_eq, SlotSt.setRegs_eq]

theorem imageThread_g (s : State) (i : SlotId) {r : Reg} (hr : r < 32) : (imageThread s i).g r = (s.slot i).g r := by
  obtain rfl | hpos := eq_or_ne r 0
  · rfl
  · have hlt : r.toNat < 32 := hr
    have hne : r.toNat ≠ 0 := fun h => hpos (BitVec.eq_of_toNat_eq h)
    have hr' : BitVec.ofNat 6 (r.toNat - 1 + 1) = r := by
      rw [Nat.sub_add_cancel (by omega), BitVec.ofNat_toNat, BitVec.setWidth_eq]
    have hset := SlotSt.g_setRegs (fun k => (s.imageWords i).getD k 0) (Nat.le_refl 31)
      (imageFields (s.slot i) (((s.imageWords i).getD 33 0).getLsbD 8)) (show r.toNat - 1 < 31 by omega)
    rw [hr', State.imageWords_reg s i (k := r.toNat - 1) (by omega), hr'] at hset
    rw [imageThread, SlotSt.setWin_eq]
    exact hset

theorem imageThread_mw (s : State) (i : SlotId) {k : Nat} (hk : k < 6) : (imageThread s i).mw k = (s.slot i).mw k :=
  (SlotSt.mw_setWin _ _ hk).trans (State.imageWords_mw s i hk)

end Sys2Proof.Machine
end

section
/-!
OBLIGATION O28. SPILL, FILLSLOT and SLOTREG (02 R80, Table 2-7; 09 R314, R315; 14 R375, R387).
-/

namespace Sys2Proof.Machine

/-! Issue of a privileged instruction -/

/-- In slot 15, an instruction marked P whose operands are plain has its effect on their values. -/
theorem State.issuePriv_plain {s : State} {srcs dsts : List Reg} (hpriv : isPriv s.cur = true) (hp : s.plain srcs dsts = true)
    (k : List Word → State → Act) : s.issuePriv srcs dsts k = s.perform (k (srcs.map (s.reg s.cur)) s) := by
  rw [State.issuePriv, if_pos hpriv, State.issue_plain _ hp]

/-! The slot word -/

theorem State.slotWordCode_own {s : State} {w : Word} (h15 : (s.target w).slot = 15) : s.slotWordCode w = 1 := by
  simp only [State.target] at h15
  simp only [State.slotWordCode, h15, BEq.rfl, Bool.true_or, ↓reduceIte]

theorem State.slotWordCode_other {s : State} {w : Word} (h15 : (s.target w).slot ≠ 15)
    (hr : s.curCore.rslot.getLsbD (s.target w).slot.toNat = false) (hi : (s.slot (s.target w)).inc ≠ w.extractLsb' 4 8) :
    s.slotWordCode w = 2 := by
  have hname : (w.extractLsb' 0 4 == 15#4 || s.curCore.rslot.getLsbD (w.extractLsb' 0 4).toNat) = false :=
    Bool.or_eq_false_iff.mpr ⟨beq_false_of_ne h15, hr⟩
  simp only [State.slotWordCode]
  rw [if_neg (by simpa using hname), if_pos (by simpa using hi)]

/-- A slot word that names a slot of the core at its incarnation has code 0. -/
theorem State.slotWordCode_named {s : State} {w : Word} (h15 : (s.target w).slot ≠ 15)
    (hr : s.curCore.rslot.getLsbD (s.target w).slot.toNat = false) (hi : (s.slot (s.target w)).inc = w.extractLsb' 4 8) :
    s.slotWordCode w = 0 := by
  have hname : (w.extractLsb' 0 4 == 15#4 || s.curCore.rslot.getLsbD (w.extractLsb' 0 4).toNat) = false :=
    Bool.or_eq_false_iff.mpr ⟨beq_false_of_ne h15, hr⟩
  simp only [State.slotWordCode]
  rw [if_neg (by simpa using hname), if_neg (by simpa using hi)]

theorem State.slotregCode_bad {s : State} {w : Word} (h : s.slotWordCode w ≠ 0) : s.slotregCode w = s.slotWordCode w :=
  if_pos (by simpa using h)

/-- The states in which the registers of a slot may not be reached (14 R375). -/
theorem State.slotregCode_running {s : State} {w : Word} (h : s.slotWordCode w = 0)
    (hst : (s.slot (s.target w)).state ∈ [SlotState.free, .ready, .waitData, .mx]) : s.slotregCode w = 3 := by
  simp only [List.mem_cons, List.not_mem_nil, or_false] at hst
  obtain hst | hst | hst | hst := hst <;> simp [State.slotregCode, h, hst]

theorem State.slotregCode_stopped {s : State} {w : Word} (h : s.slotWordCode w = 0)
    (hst : (s.slot (s.target w)).state ∉ [SlotState.free, .ready, .waitData, .mx]) : s.slotregCode w = 0 := by
  simp only [State.slotregCode, h]
  cases hx : (s.slot (s.target w)).state <;> simp_all

/-! The register selector -/

theorem selector_pc : selector 0x40 = .pc := rfl
theorem selector_frm : selector 0x1002 = .sys .frm := rfl
theorem selector_zero : selector 0 = .bad := rfl

theorem selector_reg {r : Reg} (h0 : r ≠ 0) (h : r < 32) : selector (0#58 ++ r) = .reg r := by
  have hbit : ∀ r : BitVec 6, (0#58 ++ r).getLsbD 12 = false := by decide
  have hpc : ∀ r : BitVec 6, r < 32 → ((0#58 ++ r).extractLsb' 0 12 == 0x40) = false := by decide
  have hrange : ∀ r : BitVec 6, r ≠ 0 → r < 32 →
      1 ≤ ((0#58 ++ r).extractLsb' 0 12).toNat ∧ ((0#58 ++ r).extractLsb' 0 12).toNat ≤ 57 := by decide
  have hself : ∀ r : BitVec 6, (0#58 ++ r).extractLsb' 0 6 = r := by decide
  simp only [selector]
  rw [if_neg (by rw [hbit r]; exact Bool.false_ne_true), if_neg (by rw [hpc r h]; exact Bool.false_ne_true),
    if_pos (by simpa using hrange r h0 h)]
  exact congrArg Selected.reg (hself r)

/-- A general register is read and written in place. -/
theorem State.readReg_general (s : State) (i : SlotId) {r : Reg} (h : r < 32) : s.readReg i r = .val ((s.slot i).g r) s := by
  have hkind : ∀ r : BitVec 6, r < 32 → isNet r = false ∧ isStream r = false := by decide
  simp only [State.readReg, (hkind r h).1, (hkind r h).2, Bool.false_eq_true, ↓reduceIte, State.reg, if_pos h]

/-! SLOTREG -/

section
variable {s : State} {d a b : Reg}

/-- SLOTREG.R of a slot that it may not reach gives its code (Table 14-4). -/
theorem execSlotregR_refused (hpriv : isPriv s.cur = true) (hp : s.plain [a, b] [d] = true) {c : BitVec 4}
    (hc : s.slotregCode (s.reg s.cur a) = c) (h0 : c ≠ 0) :
    exec (.slotregR d a b) s = .next ((s.setSvstat c).finish d 0) := by
  change s.issuePriv _ _ _ = _
  rw [State.issuePriv_plain hpriv hp]
  simp only [List.map_cons, List.getD_cons_zero, hc, bne_iff_ne, ne_eq, h0, not_false_eq_true, ↓reduceIte]
  rfl

theorem execSlotregR_pc (hpriv : isPriv s.cur = true) (hp : s.plain [a, b] [d] = true)
    (hc : s.slotregCode (s.reg s.cur a) = 0) (hsel : selector (s.reg s.cur b) = .pc) :
    exec (.slotregR d a b) s = .next ((s.setSvstat 0).finish d (s.slot (s.target (s.reg s.cur a))).pc) := by
  change s.issuePriv _ _ _ = _
  rw [State.issuePriv_plain hpriv hp]
  simp only [List.map_cons, List.getD_cons_zero, List.getD_cons_succ, hc, hsel]
  rfl

theorem execSlotregR_sys (hpriv : isPriv s.cur = true) (hp : s.plain [a, b] [d] = true)
    (hc : s.slotregCode (s.reg s.cur a) = 0) {r : SysReg} (hsel : selector (s.reg s.cur b) = .sys r) :
    exec (.slotregR d a b) s = .next ((s.setSvstat 0).finish d (s.readSys (s.target (s.reg s.cur a)) r)) := by
  change s.issuePriv _ _ _ = _
  rw [State.issuePriv_plain hpriv hp]
  simp only [List.map_cons, List.getD_cons_zero, List.getD_cons_succ, hc, hsel]
  rfl

theorem execSlotregR_bad (hpriv : isPriv s.cur = true) (hp : s.plain [a, b] [d] = true)
    (hc : s.slotregCode (s.reg s.cur a) = 0) (hsel : selector (s.reg s.cur b) = .bad) :
    exec (.slotregR d a b) s = .next ((s.setSvstat 5).finish d 0) := by
  change s.issuePriv _ _ _ = _
  rw [State.issuePriv_plain hpriv hp]
  simp only [List.map_cons, List.getD_cons_zero, List.getD_cons_succ, hc, hsel]
  rfl

theorem execSlotregR_general (hpriv : isPriv s.cur = true) (hp : s.plain [a, b] [d] = true)
    (hc : s.slotregCode (s.reg s.cur a) = 0) {r : Reg} (hsel : selector (s.reg s.cur b) = .reg r) (hr : r < 32)
    (hw : s.awaited (s.target (s.reg s.cur a)) = []) :
    exec (.slotregR d a b) s = .next ((s.setSvstat 0).finish d ((s.slot (s.target (s.reg s.cur a))).g r)) := by
  change s.issuePriv _ _ _ = _
  rw [State.issuePriv_plain hpriv hp]
  simp only [List.map_cons, List.getD_cons_zero, List.getD_cons_succ, hc, hsel, hw, List.contains_nil, State.readReg_general _ _ hr]
  rfl

theorem execSlotregW_pc (hpriv : isPriv s.cur = true) (hp : s.plain [a, b, d] [] = true)
    (hc : s.slotregCode (s.reg s.cur a) = 0) (hsel : selector (s.reg s.cur b) = .pc) :
    exec (.slotregW d a b) s = .next
      (((s.modSlot (s.target (s.reg s.cur a)) fun y => { y with pc := s.reg s.cur d }).setSvstat 0).advance) := by
  change s.issuePriv _ _ _ = _
  rw [State.issuePriv_plain hpriv hp]
  simp only [List.map_cons, List.getD_cons_zero, List.getD_cons_succ, hc, hsel]
  rfl

theorem execSlotregW_frm (hpriv : isPriv s.cur = true) (hp : s.plain [a, b, d] [] = true)
    (hc : s.slotregCode (s.reg s.cur a) = 0) (hsel : selector (s.reg s.cur b) = .sys .frm) :
    exec (.slotregW d a b) s = .next
      (((s.modSlot (s.target (s.reg s.cur a)) fun y => { y with frm := (s.reg s.cur d).extractLsb' 0 3 }).setSvstat 0).advance) := by
  change s.issuePriv _ _ _ = _
  rw [State.issuePriv_plain hpriv hp]
  simp only [List.map_cons, List.getD_cons_zero, List.getD_cons_succ, hc, hsel]
  rfl

theorem execSlotregW_bad (hpriv : isPriv s.cur = true) (hp : s.plain [a, b, d] [] = true)
    (hc : s.slotregCode (s.reg s.cur a) = 0) (hsel : selector (s.reg s.cur b) = .bad) :
    exec (.slotregW d a b) s = .next (s.setSvstat 5).advance := by
  change s.issuePriv _ _ _ = _
  rw [State.issuePriv_plain hpriv hp]
  simp only [List.map_cons, List.getD_cons_zero, List.getD_cons_succ, hc, hsel]
  rfl

theorem execSlotregW_general (hpriv : isPriv s.cur = true) (hp : s.plain [a, b, d] [] = true)
    (hc : s.slotregCode (s.reg s.cur a) = 0) {r : Reg} (hsel : selector (s.reg s.cur b) = .reg r) (hr : r < 32)
    (hw : s.awaited (s.target (s.reg s.cur a)) = []) :
    exec (.slotregW d a b) s = .next
      (((s.modSlot (s.target (s.reg s.cur a)) fun y => y.setG r (s.reg s.cur d)).setSvstat 0).advance) := by
  have hkind : ∀ r : BitVec 6, r < 32 → (isStream r || 54 ≤ r) = false ∧ isNet r = false := by decide
  change s.issuePriv _ _ _ = _
  rw [State.issuePriv_plain hpriv hp]
  simp only [List.map_cons, List.getD_cons_zero, List.getD_cons_succ, hc, hsel, hw, List.contains_nil, (hkind r hr).1, (hkind r hr).2,
    Bool.false_and, Bool.or_false, State.writeReg_general _ _ hr]
  rfl

end

/-! SPILL and FILLSLOT -/

/-- SPILL of a slot of the core that has nothing outstanding. -/
theorem execSpill_stored {s : State} {a b : Reg} (hpriv : isPriv s.cur = true) (hp : s.plain [b, a] [] = true) {t : State} :
    let va := s.reg s.cur a
    let i := s.target (s.reg s.cur b)
    let q := s.cancelWait i
    s.slotWordCode (s.reg s.cur b) = 0 → (s.slot i).state ≠ .free → (s.slot i).pre = true → s.spillWaits i = false →
    s.addressFault s.cur va 6 = none → q.StoresRecord va 6 (q.imageWords i) t →
    let y := t.slot i
    let kept : Spilled := ⟨va, q.imageWords i, y.pinned, y.log, y.jrec, y.jord, y.jparent, y.jresult, y.fails⟩
    let u := t.modCore i.die i.core fun c => { c with spilled := c.spilled.filter (·.addr != va) ++ [kept] }
    exec (.spill b a) s =
      .next (((((u.leaveRow i).dropFailed i).modSlot i fun z => emptySlot z (u.coreClock i.die i.core)).setSvstat 0).advance) := by
  intro va i q hcode hstate hpre hwait hfault hstore y kept u
  have hready : ((s.slot i).state == .free || !(s.slot i).pre) = false := by simp [hstate, hpre]
  change s.issuePriv _ _ _ = _
  rw [State.issuePriv_plain hpriv hp]
  simp only [List.map_cons, List.getD_cons_zero, List.getD_cons_succ]
  rw [hfault, hcode, hready, hwait]
  exact congrArg s.perform (hstore _)

section
variable {s t : State} {d a : Reg} {ws : List Word}

theorem execFillslot_full (hpriv : isPriv s.cur = true) (hp : s.plain [a] [d] = true)
    (hread : s.ReadsRecord (s.reg s.cur a) 6 48 ws t) (hcur : t.cur = s.cur) (hfree : t.freeSlot s.cur.die s.cur.core = none) :
    exec (.fillslot d a) s = .next ((t.setSvstat 1).finish d (BitVec.allOnes 64)) := by
  change s.issuePriv _ _ _ = _
  rw [State.issuePriv_plain hpriv hp]
  simp only [List.map_cons, List.getD_cons_zero]
  rw [hread _]
  simp only [hcur, hfree]
  rfl

theorem execFillslot_badImage (hpriv : isPriv s.cur = true) (hp : s.plain [a] [d] = true)
    (hread : s.ReadsRecord (s.reg s.cur a) 6 48 ws t) (hcur : t.cur = s.cur) {k : SlotNo}
    (hfree : t.freeSlot s.cur.die s.cur.core = some k) (himage : threadOfImage ws = none) :
    exec (.fillslot d a) s = .next ((t.setSvstat 4).finish d (BitVec.allOnes 64)) := by
  change s.issuePriv _ _ _ = _
  rw [State.issuePriv_plain hpriv hp]
  simp only [List.map_cons, List.getD_cons_zero]
  rw [hread _]
  simp only [hcur, hfree, himage]
  rfl

/-- The thread of an accepted image in the slot that it takes, before what the spilling core kept of it. -/
def filledThread (t : State) (i : SlotId) (x : SlotSt) : SlotSt :=
  { x with since := t.coreClock i.die i.core, inc := (t.slot i).inc + 1, svstat := (t.slot i).svstat,
           lastIssue := (t.slot i).lastIssue }

/-- A FILLSLOT that has placed its thread in slot k. -/
def fillDone (own : SlotId) (d : Reg) (k : SlotNo) (u : State) : Result :=
  .next (((u.dropL1d own.die own.core).modSlot own fun z => { z with svstat := 0 }).finish d (0#60 ++ k))

theorem fillDone_eq {u : State} {own : SlotId} (h : u.cur = own) {k : SlotNo} :
    s.perform (.go (((u.dropL1d own.die own.core).setSvstat 0).finish d (k.zeroExtend 64))) = fillDone own d k u := by
  have hk : ∀ k : BitVec 4, (k.zeroExtend 64 : Word) = 0#60 ++ k := by decide
  subst h
  rw [hk]
  rfl

theorem execFillslot_unkept (hpriv : isPriv s.cur = true) (hp : s.plain [a] [d] = true)
    (hread : s.ReadsRecord (s.reg s.cur a) 6 48 ws t) (hcur : t.cur = s.cur) {k : SlotNo}
    (hfree : t.freeSlot s.cur.die s.cur.core = some k) {x : SlotSt} {src : CoreNo} (himage : threadOfImage ws = some (x, src))
    (hkept : t.keptOf s.cur.die src (s.reg s.cur a) ws = none) (hctx : (t.core s.cur.die src).ctx = t.curCore.ctx) :
    exec (.fillslot d a) s = fillDone s.cur d k (t.setSlot ⟨s.cur.die, s.cur.core, k⟩
      { filledThread t ⟨s.cur.die, s.cur.core, k⟩ x with
        log := [], jrec := none, jord := 0, jparent := none, jresult := 0, fails := [] }) := by
  change s.issuePriv _ _ _ = _
  rw [State.issuePriv_plain hpriv hp]
  simp only [List.map_cons, List.getD_cons_zero]
  rw [hread _]
  simp only [hcur, hfree, himage, hkept, Option.map_none, Option.getD_none, hctx, Bool.false_and, Bool.false_or, bne_self_eq_false,
    Bool.false_eq_true, ↓reduceIte]
  refine fillDone_eq ?_
  exact hcur

theorem execFillslot_kept (hpriv : isPriv s.cur = true) (hp : s.plain [a] [d] = true)
    (hread : s.ReadsRecord (s.reg s.cur a) 6 48 ws t) (hcur : t.cur = s.cur) {k : SlotNo}
    (hfree : t.freeSlot s.cur.die s.cur.core = some k) {x : SlotSt} {src : CoreNo} (himage : threadOfImage ws = some (x, src))
    {home : Die} {q : Spilled} (hkept : t.keptOf s.cur.die src (s.reg s.cur a) ws = some (home, q))
    (hctx : (t.core home src).ctx = t.curCore.ctx) (hlog : q.log = [] ∨ (home = s.cur.die ∧ src = s.cur.core)) :
    exec (.fillslot d a) s = fillDone s.cur d k
      ((t.modCore home src fun c => { c with spilled := c.spilled.filter (· != q) }).setSlot ⟨s.cur.die, s.cur.core, k⟩
        { filledThread t ⟨s.cur.die, s.cur.core, k⟩ x with
          log := q.log, jrec := q.jrec, jord := q.jord, jparent := q.jparent, jresult := q.jresult, fails := q.fails }) := by
  have hplace : ((!q.log.isEmpty) && !(home == s.cur.die && src == s.cur.core)) = false := by
    obtain h | ⟨hd, hc⟩ := hlog
    · simp [h]
    · simp [hd, hc]
  change s.issuePriv _ _ _ = _
  rw [State.issuePriv_plain hpriv hp]
  simp only [List.map_cons, List.getD_cons_zero]
  rw [hread _]
  simp only [hcur, hfree, himage, hkept, Option.map_some, Option.getD_some, hctx, hplace, Bool.false_or, bne_self_eq_false,
    Bool.false_eq_true, ↓reduceIte, Option.bind_some]
  refine fillDone_eq ?_
  exact hcur

theorem execFillslot_away (hpriv : isPriv s.cur = true) (hp : s.plain [a] [d] = true)
    (hread : s.ReadsRecord (s.reg s.cur a) 6 48 ws t) (hcur : t.cur = s.cur) {k : SlotNo}
    (hfree : t.freeSlot s.cur.die s.cur.core = some k) {x : SlotSt} {src : CoreNo} (himage : threadOfImage ws = some (x, src))
    {home : Die} {q : Spilled} (hkept : t.keptOf s.cur.die src (s.reg s.cur a) ws = some (home, q))
    (hlog : q.log ≠ []) (hhome : ¬ (home = s.cur.die ∧ src = s.cur.core)) :
    exec (.fillslot d a) s = .next ((t.setSvstat 4).finish d (BitVec.allOnes 64)) := by
  have hplace : ((!q.log.isEmpty) && !(home == s.cur.die && src == s.cur.core)) = true := by
    simp only [Bool.and_eq_true, Bool.not_eq_true', List.isEmpty_eq_false_iff, Bool.and_eq_false_imp, beq_iff_eq, beq_eq_false_iff_ne]
    exact ⟨hlog, fun hd hc => hhome ⟨hd, hc⟩⟩
  change s.issuePriv _ _ _ = _
  rw [State.issuePriv_plain hpriv hp]
  simp only [List.map_cons, List.getD_cons_zero]
  rw [hread _]
  simp only [hcur, hfree, himage, hkept, Option.map_some, Option.getD_some, hplace, Bool.true_or, ↓reduceIte]
  rfl

end

theorem State.readSys_frm (s : State) (i : SlotId) : s.readSys i .frm = 0#61 ++ (s.slot i).frm := by
  have hword : ∀ m : BitVec 3, (m.zeroExtend 64 : Word) = 0#61 ++ m := by decide
  exact hword _

/-- Settles O28: an image gives the thread back field by field; SLOTREG by the code of its slot word and its selector. -/
theorem spillFillAndSlotRegisters : Obligations.SpillFillAndSlotRegisters := by
  unfold Obligations.SpillFillAndSlotRegisters
  refine ⟨⟨?spillFill, ?image⟩, ?slotreg⟩
  case spillFill =>
    intro s d a b k ws x t src hpriv own va w
    refine ⟨?_, ?_⟩
    · intro hp i q h15 hr hinc hstate hpre hwait hfault hstore
      exact execSpill_stored hpriv hp (State.slotWordCode_named h15 hr hinc) hstate hpre hwait hfault hstore
    · intro hp hread hcur code
      have hcode : ∀ n, t.setSvstat n = code n := fun n => by rw [State.setSvstat, hcur]
      refine ⟨fun hfree => ?_, fun hfree himage => ?_, ?_⟩
      · exact hcode 1 ▸ execFillslot_full hpriv hp hread hcur hfree
      · exact hcode 4 ▸ execFillslot_badImage hpriv hp hread hcur hfree himage
      · intro hfree himage i old y filled
        refine ⟨fun hkept hctx => ?_, fun home q hkept hctx => ⟨fun hlog => ?_, fun hlog hhome => ?_⟩⟩
        · exact execFillslot_unkept hpriv hp hread hcur hfree himage hkept hctx
        · exact execFillslot_kept hpriv hp hread hcur hfree himage hkept hctx hlog
        · exact hcode 4 ▸ execFillslot_away hpriv hp hread hcur hfree himage hkept hlog hhome
  case image =>
    intro s i hi
    refine ⟨imageThread s i, threadOfImage_imageWords s i hi, ?_⟩
    have hother := imageThread_eq s i
    refine ⟨by rw [hother]; rfl, fun r hr => imageThread_g s i hr, fun k hk => imageThread_mw s i hk, ?_⟩
    rw [hother]
    simp [imageFields, SlotSt.mb]
  case slotreg =>
    intro s d a b r hpriv own w i v code
    refine ⟨fun hp => ⟨fun h15 => ?_, fun h15 hr => ⟨fun hinc => ?_, fun hinc => ⟨fun hst => ?_, fun hst => ?_⟩⟩⟩,
      fun hp h15 hr hinc hst => ?_⟩
    · have hc := State.slotWordCode_own (s := s) (w := w) h15
      exact execSlotregR_refused hpriv hp ((State.slotregCode_bad (by rw [hc]; decide)).trans hc) (by decide)
    · have hc := State.slotWordCode_other h15 hr hinc
      exact execSlotregR_refused hpriv hp ((State.slotregCode_bad (by rw [hc]; decide)).trans hc) (by decide)
    · have hc := State.slotregCode_running (State.slotWordCode_named h15 hr hinc) hst
      exact execSlotregR_refused hpriv hp hc (by decide)
    · have hc := State.slotregCode_stopped (State.slotWordCode_named h15 hr hinc) hst
      refine ⟨fun hsel => ?_, fun hsel h0 hlt hw => ?_, fun hsel => ?_, fun hsel => ?_⟩
      · exact execSlotregR_pc hpriv hp hc (hsel ▸ selector_pc)
      · exact execSlotregR_general hpriv hp hc (hsel ▸ selector_reg h0 hlt) hlt hw
      · exact (execSlotregR_sys hpriv hp hc (hsel ▸ selector_frm)).trans (by rw [State.readSys_frm]; rfl)
      · exact execSlotregR_bad hpriv hp hc (hsel ▸ selector_zero)
    · have hc := State.slotregCode_stopped (State.slotWordCode_named h15 hr hinc) hst
      refine ⟨fun hsel => ?_, fun hsel h0 hlt hw => ?_, fun hsel => ?_, fun hsel => ?_⟩
      · exact execSlotregW_pc hpriv hp hc (hsel ▸ selector_pc)
      · exact execSlotregW_general hpriv hp hc (hsel ▸ selector_reg h0 hlt) hlt hw
      · exact execSlotregW_frm hpriv hp hc (hsel ▸ selector_frm)
      · exact execSlotregW_bad hpriv hp hc (hsel ▸ selector_zero)

end Sys2Proof.Machine
end

section
/-!
OBLIGATION O48. Configurations load, looms drain, are saved and resume (02 R47, R48, R78, R79): the write-back of a drained
loom's banks.
-/

namespace Sys2Proof.Machine

/-- The first double of the local SRAM of die 0. -/
def sramDouble : Nat := 2 ^ 40

/-- A loom that is drained for CKPT, whose one shed holds a dirty sector over the local SRAM of its die; for the sector's first
double, which is poisoned, a PUT of slot 0 waits. -/
def drainedLoom : State :=
  { turn := .slot ⟨0, 0, 0⟩, cur := ⟨0, 0, 0⟩
    looms := [(0, { state := .saving, sheds := [0] })]
    sheds := [(0, { state := .draining
                    fcb := [(sramDouble, some { bytes := List.replicate 48 0, dirty := true, key := 0, va := 0 })] })]
    full := [sramDouble], poison := [sramDouble]
    waits := [{ table := homeTable sramDouble, pa := sramDouble, op := .fe .put, agent := .slot ⟨0, 0, 0⟩ 0, dst := 0, data := 0,
                access := 1 }]
    accs := [{ id := 1, agent := .slot ⟨0, 0, 0⟩ 0, op := .fe .put, scope := .s, acq := false, rel := false, va := 0, ctx := 0,
               phys := false, priv := false, pa := sramDouble, pc := 0, stage := .parked }]
    slots := [(0, { state := .parkWord, await := .access 1 })] }

/-- The PC of a slot in the state that a result goes on in. -/
def pcIn (i : SlotId) (r : Result) : Word :=
  match r with
  | .next t => (t.slot i).pc
  | _ => 0

theorem pcIn_drainComplete : pcIn ⟨0, 0, 0⟩ (exec .drainComplete drainedLoom) = 4 := by decide

theorem drainedLoom_quiet : ∀ b ∈ drainedLoom.loomSheds 0 0, drainedLoom.shedBusy 0 b true = false := by decide

/-- Refutes O48: the end of a drain for CKPT does not leave every slot as it was. The write-back of a bank covers a poisoned
double, which is then clean and empty, so that its waiters are scanned (R115, R119, R407), and the slot of a waiting PUT goes on.
In the state here the sector lies over local SRAM, whose waiters of the home's own skein complete at once; a bank is filled from
HBM only (R121), a premise that the statement does not have. -/
theorem not_periodsLoadDrainAndSave : ¬ Obligations.PeriodsLoadDrainAndSave := by
  unfold Obligations.PeriodsLoadDrainAndSave
  intro h
  obtain ⟨-, hdrain, -⟩ := h drainedLoom ⟨0, 0, 0⟩ 0 ⟨1, 0, false, []⟩ drainedLoom 0 { check := 0 }
    { kind := .fresh, who := none, level := 0, count := 0 } 0 [] drainedLoom drainedLoom
  obtain ⟨-, -, -, -, hsave⟩ := hdrain rfl
  obtain ⟨u, hexec, -, -, hslots⟩ := hsave rfl drainedLoom_quiet
  have hpc : (u.slot ⟨0, 0, 0⟩).pc = 4 := by
    have hrun := pcIn_drainComplete
    rwa [hexec] at hrun
  have hkeep : (u.slot ⟨0, 0, 0⟩).pc = (drainedLoom.slot ⟨0, 0, 0⟩).pc := by rw [State.slot, hslots, State.slot]
  exact absurd (hkeep.symm.trans hpc) (by decide)

end Sys2Proof.Machine
end

section
/-!
SUPPORT. Matrix products of a core (03 R108, R109; 09 R305): the image that a load leaves, the columns and the stores of a product, and
what MXLD, MXMUL and their completions do.
-/

namespace Sys2Proof.Machine

/-! Tables -/

/-- Values written one after another from an entry on. -/
theorem tblGet_foldl_zipIdx {α : Type} [DecidableEq α] (d : α) (l : List α) (n : Nat) (t : Tbl α) (k : Nat) :
    tblGet d k ((l.zipIdx n).foldl (fun t p => tblSet d p.2 p.1 t) t)
      = if k < n then tblGet d k t else l.getD (k - n) (tblGet d k t) := by
  induction l generalizing n t with
  | nil => simp
  | cons b l ih =>
    rw [List.zipIdx_cons, List.foldl_cons, ih]
    obtain h | rfl | h := Nat.lt_trichotomy k n
    · simp [h, Nat.lt_succ_of_lt h, tblGet_set_ne d h.ne]
    · simp
    · have hs : k - n = (k - (n + 1)) + 1 := by omega
      simp [h.not_gt, Nat.not_lt.2 (Nat.succ_le_of_lt h), tblGet_set_ne d h.ne', hs]

theorem clearColumns_get (key n k : Nat) (acc : Tbl (BitVec 32)) :
    tblGet 0 k (clearColumns key n acc) = if key ≤ k ∧ k < key + n then 0 else tblGet 0 k acc := by
  induction n generalizing acc with
  | zero => rw [clearColumns, if_neg (by omega)]
  | succ n ih =>
    rw [clearColumns, ih]
    by_cases h : k = key + n
    · subst h
      simp
    · rw [tblGet_set_ne _ h]
      exact if_congr (by omega) rfl rfl

/-- A pass leaves the accumulators that are none of its columns. -/
theorem passColumns_get_other (m : Mf3) (image : Tbl Byte) (base : Nat) (a : List FVal) {key n : Nat} {cs : List Nat}
    (h : ∀ c ∈ cs, n ≠ key + c) (acc : Tbl (BitVec 32)) (fl : FpFlags) :
    tblGet 0 n (passColumns m image base a key cs acc fl).1 = tblGet 0 n acc := by
  induction cs generalizing acc fl with
  | nil => rfl
  | cons c cs ih =>
    rw [passColumns, ih fun b hb => h b (List.mem_cons_of_mem _ hb), tblGet_set_ne _ (h c List.mem_cons_self)]

/-! The columns of a product -/

/-- The accumulator of column 0 of the row-slot that a product names. -/
def MxJob.key (j : MxJob) : Nat := 32 * (j.ctl.extractLsb' 0 2).toNat

namespace SideMacro

variable (m : SideMacro) (j : MxJob)

/-- The accumulators that a product's pass starts from, cleared where its control bit 4 says so. -/
def accBefore : Tbl (BitVec 32) := if j.ctl.getLsbD 4 then clearColumns j.key 32 m.acc else m.acc

/-- A product's pass over its 32 columns: the accumulators and the flags. -/
def product : Tbl (BitVec 32) × FpFlags :=
  passColumns j.mf m.image 0x1800 (rowVals j.mf j.row j.scales) j.key (List.range 32) (m.accBefore j) 0

/-- The accumulators that a product leaves, cleared where its control bit 3 says so. -/
def accAfter : Tbl (BitVec 32) := if j.ctl.getLsbD 3 then clearColumns j.key 32 (m.product j).1 else (m.product j).1

/-- A column's value after a product's pass (R109). -/
def column (k : Nat) : BitVec 32 :=
  (passColumn (rowVals j.mf j.row j.scales) (columnVals j.mf m.image 0x1800 k)
    (if j.ctl.getLsbD 4 then 0 else tblGet 0 (j.key + k) m.acc)).1

theorem accBefore_column {k : Nat} (hk : k < 32) :
    tblGet 0 (j.key + k) (m.accBefore j) = if j.ctl.getLsbD 4 then 0 else tblGet 0 (j.key + k) m.acc := by
  rw [accBefore]
  split
  · rw [clearColumns_get, if_pos (by omega)]
  · rfl

theorem accBefore_other {n : Nat} (hn : n < j.key ∨ j.key + 32 ≤ n) :
    tblGet 0 n (m.accBefore j) = tblGet 0 n m.acc := by
  rw [accBefore]
  split
  · rw [clearColumns_get, if_neg (by omega)]
  · rfl

theorem product_column {k : Nat} (hk : k < 32) : tblGet 0 (j.key + k) (m.product j).1 = m.column j k := by
  rw [product, passColumns_get _ _ _ _ _ _ List.nodup_range, if_pos (List.mem_range.2 hk), m.accBefore_column j hk, column]

theorem accAfter_column {k : Nat} (hk : k < 32) :
    tblGet 0 (j.key + k) (m.accAfter j) = if j.ctl.getLsbD 3 then 0 else m.column j k := by
  rw [accAfter]
  split
  · rw [clearColumns_get, if_pos (by omega)]
  · exact m.product_column j hk

theorem accAfter_other {n : Nat} (hn : n < j.key ∨ j.key + 32 ≤ n) :
    tblGet 0 n (m.accAfter j) = tblGet 0 n m.acc := by
  have hp : tblGet 0 n (m.product j).1 = tblGet 0 n m.acc := by
    rw [product, passColumns_get_other _ _ _ _ fun c hc => ?_, m.accBefore_other j hn]
    have := List.mem_range.1 hc
    omega
  rw [accAfter]
  split
  · rw [clearColumns_get, if_neg (by omega), hp]
  · exact hp

/-- The columns as the stores of a product take them. -/
def columns : List (BitVec 32) := (List.range 32).map fun k => tblGet 0 (j.key + k) (m.product j).1

theorem columns_getD {k : Nat} (hk : k < 32) : (m.columns j).getD k 0 = m.column j k := by
  rw [columns, List.getD_eq_getElem _ _ (by simpa using hk), List.getElem_map, List.getElem_range, m.product_column j hk]

end SideMacro

/-! The stores of a product -/

variable (s : State)

/-- The stores of a product go behind the accesses that are on their way, and change nothing else. -/
theorem State.storeColumns_eq (i : SlotId) (j : MxJob) (cols : List (BitVec 32)) (ks : List Nat) :
    ∃ l n, s.storeColumns i j cols ks = { s with accs := s.accs ++ l, nextId := n } := by
  induction ks generalizing s with
  | nil => exact ⟨[], s.nextId, by rw [List.append_nil]; rfl⟩
  | cons k ks ih =>
    rw [State.storeColumns]
    obtain ⟨l, n, h⟩ := ih (s.putAccess _)
    exact ⟨_, n, h.trans (by rw [State.putAccess, List.append_assoc])⟩

theorem State.storeColumns_mem (i : SlotId) (j : MxJob) (cols : List (BitVec 32)) {ks : List Nat} {k : Nat} (hk : k ∈ ks) :
    ∃ x ∈ (s.storeColumns i j cols ks).accs, x.agent = .slot i (s.slot i).inc ∧ x.op = .store .d
      ∧ x.va = j.out + BitVec.ofNat 64 (8 * k) ∧ x.data = cols.getD (2 * k + 1) 0 ++ cols.getD (2 * k) 0 ∧ x.scope = .s := by
  induction ks generalizing s with
  | nil => simp at hk
  | cons b ks ih =>
    rw [State.storeColumns]
    obtain rfl | hk := List.mem_cons.1 hk
    · obtain ⟨l, n, h⟩ := State.storeColumns_eq (s.putAccess _) i j cols ks
      rw [h]
      exact ⟨_, List.mem_append_left _ (List.mem_append_right _ (List.mem_singleton.2 rfl)), rfl, rfl, rfl, rfl, rfl⟩
    · exact ih _ hk

/-- The state in which a product's columns are on their way to memory where its control bit 2 says so. -/
def State.storeProduct (i : SlotId) (j : MxJob) (m : SideMacro) : State :=
  if j.ctl.getLsbD 2 then s.storeColumns i j (m.columns j) (List.range 16) else s

theorem State.storeProduct_eq (i : SlotId) (j : MxJob) (m : SideMacro) :
    ∃ l n, s.storeProduct i j m = { s with accs := s.accs ++ l, nextId := n } := by
  rw [State.storeProduct]
  split
  · exact s.storeColumns_eq ..
  · exact ⟨[], s.nextId, by rw [List.append_nil]⟩

/-! The completion of a load -/

theorem execMxldComplete_none (h : (s.core s.ev.die s.ev.core).side.loading = none) : exec .mxldComplete s = .next s := by
  change execMxldComplete s = _
  simp only [execMxldComplete, h]

section
variable {mf : Mf3} {image : List Byte} (hl : (s.core s.ev.die s.ev.core).side.loading = some (mf, image))
include hl

theorem execMxldComplete_busy (hq : (s.core s.ev.die s.ev.core).side.queue ≠ []) : exec .mxldComplete s = .next s := by
  change execMxldComplete s = _
  simp [execMxldComplete, hl, hq]

theorem execMxldComplete_loaded (hq : (s.core s.ev.die s.ev.core).side.queue = []) :
    exec .mxldComplete s = .next (s.modSide s.ev.die s.ev.core fun m =>
      { m with fmt := mf, image := image.zipIdx.foldl (fun t p => tblSet 0 p.2 p.1 t) [], loading := none }) := by
  change execMxldComplete s = _
  simp [execMxldComplete, hl, hq]

end

/-! The completion of a product -/

theorem execMxProductComplete_nil (h : (s.core s.ev.die s.ev.core).side.queue = []) :
    exec .mxProductComplete s = .next s := by
  change execMxProductComplete s = _
  simp only [execMxProductComplete, h]

/-- The state in which the oldest product of a core is done: stored, its accumulators in place, and its slot READY. -/
def State.productDone (i : SlotId) (j : MxJob) (rest : List MxJob) : State :=
  let m := (s.core i.die i.core).side
  (((s.storeProduct i j m).modSide i.die i.core fun x => { x with acc := m.accAfter j, queue := rest }).orFlags i
    (m.product j).2).wakeNext i

theorem execMxProductComplete_cons {j : MxJob} {rest : List MxJob} (hq : (s.core s.ev.die s.ev.core).side.queue = j :: rest)
    (hh : s.heldWaits s.ev.die (.operand ⟨s.ev.die, s.ev.core, j.slot⟩) = false)
    (hj : s.jnlOf ⟨s.ev.die, s.ev.core, j.slot⟩ = false) :
    exec .mxProductComplete s = .next (s.productDone ⟨s.ev.die, s.ev.core, j.slot⟩ j rest) := by
  change execMxProductComplete s = _
  simp only [execMxProductComplete, hq, hh, hj, Bool.false_eq_true, ↓reduceIte, State.productDone, State.storeProduct]
  cases j.ctl.getLsbD 2 <;> rfl

theorem State.productDone_slot (i : SlotId) (j : MxJob) (rest : List MxJob) :
    ((s.productDone i j rest).slot i).state = .ready ∧ ((s.productDone i j rest).slot i).pc = (s.slot i).pc + 4
      ∧ ((s.productDone i j rest).slot i).regs = (s.slot i).regs := by
  obtain ⟨l, n, h⟩ := s.storeProduct_eq i j (s.core i.die i.core).side
  rw [State.productDone, h]
  obtain ⟨hpc, hstate, hregs⟩ := State.wakeNext_slot (State.orFlags (State.modSide { s with accs := s.accs ++ l, nextId := n }
    i.die i.core fun x => { x with acc := (s.core i.die i.core).side.accAfter j, queue := rest }) i
    ((s.core i.die i.core).side.product j).2) i
  refine ⟨hstate, hpc.trans ?_, hregs.trans ?_⟩ <;> rw [State.orFlags, State.modSlot_self] <;> rfl

theorem State.productDone_side (i : SlotId) (j : MxJob) (rest : List MxJob) :
    ((s.productDone i j rest).core i.die i.core).side
      = { (s.core i.die i.core).side with acc := (s.core i.die i.core).side.accAfter j, queue := rest } := by
  obtain ⟨l, n, h⟩ := s.storeProduct_eq i j (s.core i.die i.core).side
  rw [State.productDone, h, State.wakeNext_core, State.orFlags, State.modSlot_core, State.modSide, State.modCore_self]
  rfl

theorem State.productDone_mem (i : SlotId) (j : MxJob) (rest : List MxJob) : (s.productDone i j rest).mem = s.mem := by
  obtain ⟨l, n, h⟩ := s.storeProduct_eq i j (s.core i.die i.core).side
  rw [State.productDone, h, State.wakeNext_mem]
  rfl

theorem State.productDone_accs (i : SlotId) (j : MxJob) (rest : List MxJob) :
    (s.productDone i j rest).accs = (s.storeProduct i j (s.core i.die i.core).side).accs := by
  rw [State.productDone, State.wakeNext_accs, State.orFlags, State.modSlot_accs, State.modSide, State.modCore_accs]

/-! MXLD -/

section
variable {mf : Mf3} {a : Reg} (hp : s.plain [a] [] = true)
include hp

theorem execMxld_busy (hl : s.curCore.side.loading ≠ none) : exec (.mxld mf a) s = .next (s.waitData s.cur) := by
  change execMxld mf a s = _
  rw [execMxld, s.issue_plain hp, if_pos (Option.isSome_iff_ne_none.2 hl)]
  rfl

theorem execMxld_reads {ws : List Word} {t : State} (hl : s.curCore.side.loading = none)
    (hr : s.ReadsRecord (s.reg s.cur a) 6 1024 ws t) :
    exec (.mxld mf a) s = .next ((t.modSide s.cur.die s.cur.core fun m =>
      { m with loading := some (mf, ws.flatMap (bytesOfWord 8)) }).advance) := by
  change execMxld mf a s = _
  rw [execMxld, s.issue_plain hp, hl, if_neg (by simp)]
  exact congrArg s.perform (hr _)

end

/-! MXMUL -/

/-- The blocks of a row's scales. -/
def scaleBlocks (mf : Mf3) : Nat := if (mfFmt mf).isTwill then mfDepth mf / 16 else 0

/-- The product that MXMUL queues for the bytes of its row. -/
def mxJob (slot : SlotNo) (mf : Mf3) (out : Word) (ctl : BitVec 5) (pc : Word) (bs : List Byte) : MxJob :=
  { slot, mf, row := bs.take 192, out, ctl, pc
    scales := (List.range (scaleBlocks mf)).map fun n => bs.getD (193 + 2 * n) 0 ++ bs.getD (192 + 2 * n) 0 }

section
variable {mf : Mf3} {d a b : Reg} (hp : s.plain [a, b, d] [] = true)
include hp

theorem execMxmul_busy (hl : s.curCore.side.loading ≠ none) : exec (.mxmul mf d a b) s = .next (s.waitData s.cur) := by
  change execMxmul mf d a b s = _
  rw [execMxmul, s.issue_plain hp, if_pos (Option.isSome_iff_ne_none.2 hl)]
  rfl

theorem execMxmul_otherFormat (hl : s.curCore.side.loading = none) (hf : mf ≠ s.curCore.side.fmt) :
    exec (.mxmul mf d a b) s
      = .next (s.takeTrap s.cur 0x13 0 (s.slot s.cur).pc s.word (s.reg s.cur a) (s.reg s.cur b)) := by
  change execMxmul mf d a b s = _
  rw [execMxmul, s.issue_plain hp, hl, if_neg (by simp), if_pos (bne_iff_ne.2 hf)]
  rfl

theorem execMxmul_queues {bs : List Byte} {t : State} (hl : s.curCore.side.loading = none) (hf : mf = s.curCore.side.fmt)
    (hj : s.journaled = false) (ha : s.addressFault s.cur (s.reg s.cur a) 6 = none)
    (ho : ((s.reg s.cur b).extractLsb' 0 5 : BitVec 5).getLsbD 2 = false ∨ s.addressFault s.cur (s.reg s.cur d) 6 = none)
    (hr : s.ReadsBytes (s.reg s.cur a) (192 + 2 * scaleBlocks mf) bs t) :
    exec (.mxmul mf d a b) s = .next ((t.modSide s.cur.die s.cur.core fun m =>
      { m with queue := m.queue ++ [mxJob s.cur.slot mf (s.reg s.cur d) ((s.reg s.cur b).extractLsb' 0 5)
        (t.slot s.cur).pc bs] }).enter s.cur .mx .retry) := by
  have hout : (if ((s.reg s.cur b).extractLsb' 0 5 : BitVec 5).getLsbD 2 then s.addressFault s.cur (s.reg s.cur d) 6
      else none) = none := by
    obtain ho | ho := ho
    · rw [ho]; rfl
    · rw [ho, ite_self]
  change execMxmul mf d a b s = _
  rw [execMxmul, s.issue_plain hp, hl, if_neg (by simp), if_neg (by simp [hf])]
  simp only [List.map_cons, List.map_nil, List.getD_cons_zero, List.getD_cons_succ, hout, ha, hj, Bool.and_false,
    Bool.false_and, Bool.false_eq_true, ↓reduceIte]
  exact congrArg s.perform (hr _)

end

end Sys2Proof.Machine
end

section
/-!
SUPPORT. The twill block instructions (03 R96, R105, R106; 09 R306): the checks of their issue, and one block of each in terms of
what it reads and stores.
-/

namespace Sys2Proof.Machine

/-! Issue -/

section
variable {s : State} {d a b : Reg} (hp : s.plain [a, b, d] [] = true) {q : Bool} {la lb : Nat}
  {k : Word → Word → Word → RMode → State → Act}
include hp

theorem issueTwill_count (h : runLength (s.reg s.cur b) = 0 ∨ 4096 < runLength (s.reg s.cur b)) :
    issueTwill q la lb d a b k s
      = .next (s.takeTrap s.cur 0x13 5 (s.slot s.cur).pc s.word (s.reg s.cur a) (s.reg s.cur b)) := by
  have hc : (decide (runLength (s.reg s.cur b) < 1) || decide (4096 < runLength (s.reg s.cur b))) = true := by
    rw [Bool.or_eq_true, decide_eq_true_eq, decide_eq_true_eq, Nat.lt_one_iff]
    exact h
  rw [issueTwill, s.issue_plain hp]
  exact congrArg s.perform (if_pos hc)

variable (hn : 1 ≤ runLength (s.reg s.cur b) ∧ runLength (s.reg s.cur b) ≤ 4096)
include hn

omit hp in
/-- A count in range passes the check of the issue. -/
theorem runLength_counts :
    (decide (runLength (s.reg s.cur b) < 1) || decide (4096 < runLength (s.reg s.cur b))) = false := by
  obtain ⟨h1, h2⟩ := hn
  rw [decide_eq_false (Nat.not_lt.2 h1), decide_eq_false (Nat.not_lt.2 h2), Bool.or_false]

theorem issueTwill_reserved (hm : rmode (s.slot s.cur).frm = none) :
    issueTwill true la lb d a b k s
      = .next (s.takeTrap s.cur 0x03 0 (s.slot s.cur).pc s.word (0#61 ++ (s.slot s.cur).frm) 0) := by
  have hword : ∀ r : BitVec 3, (r.zeroExtend 64 : Word) = 0#61 ++ r := by decide
  rw [issueTwill, s.issue_plain hp, ← hword]
  simp only [List.map_cons, List.map_nil, List.getD_cons_zero, List.getD_cons_succ, runLength_counts hn, hm,
    Bool.false_eq_true, ↓reduceIte]
  rfl

variable (hd : s.addressFault s.cur (s.reg s.cur d) la = none) (ha : s.addressFault s.cur (s.reg s.cur a) lb = none)
include hd ha

theorem issueTwill_mode {m : RMode} (hm : rmode (s.slot s.cur).frm = some m) :
    issueTwill q la lb d a b k s = s.perform (k (s.reg s.cur d) (s.reg s.cur a) (s.reg s.cur b) m s) := by
  rw [issueTwill, s.issue_plain hp]
  simp only [List.map_cons, List.map_nil, List.getD_cons_zero, List.getD_cons_succ, runLength_counts hn, hm, hd, ha,
    Bool.false_eq_true, ↓reduceIte]
  rfl

/-- What does not quantise goes on under a reserved rounding mode too. -/
theorem issueTwill_anyMode :
    ∃ m, issueTwill false la lb d a b k s = s.perform (k (s.reg s.cur d) (s.reg s.cur a) (s.reg s.cur b) m s) := by
  cases hm : rmode (s.slot s.cur).frm with
  | none =>
    refine ⟨.rne, ?_⟩
    rw [issueTwill, s.issue_plain hp]
    simp only [List.map_cons, List.map_nil, List.getD_cons_zero, List.getD_cons_succ, runLength_counts hn, hm, hd, ha,
      Bool.false_eq_true, ↓reduceIte]
    rfl
  | some m => exact ⟨m, issueTwill_mode hp hn hd ha hm⟩

end

/-! Blocks -/

/-- The values of a block's bytes under its scale token (R94). -/
def blockVals (f : Fmt) (bs sc : List Byte) : List FVal :=
  (unpackBlock f.width bs).zipIdx.map fun e => twillVal f.mag (BitVec.ofNat 16 (bytesNat sc)) e.2 e.1

section
variable {f : Fmt} {n j : Nat} {s t u : State}

theorem withBlock_of_reads {run : Word} {bs sc : List Byte}
    (he : s.ReadsBytes (run + BitVec.ofNat 64 (2 * f.width * j)) (2 * f.width) bs t)
    (hs : t.ReadsBytes (run + BitVec.ofNat 64 (2 * f.width * n + 2 * j)) 2 sc u) (k : List FVal → State → Act) :
    withBlock run f n j s k = k (blockVals f bs sc) u := by
  rw [withBlock, he]
  exact hs _

/-- The values are quantised from what the work has come to, and stored as block j of a run of n, which leads to what the work
has then come to. -/
def PutsBlock (run : Word) (f : Fmt) (m : RMode) (n j : Nat) (vs : List FVal) (w w' : TwillAcc × State) : Prop :=
  let q := quantise f.mag m w.1.2 vs
  w.2.StoresParts run (blockParts run f.width n j q.1 q.2.1) w'.2 ∧ w'.1 = (w.1.1 ||| q.2.2.1, q.2.2.2)

variable {m : RMode} {acc acc' : TwillAcc}

theorem putBlock_of_puts {run : Word} {vs : List FVal} (h : PutsBlock run f m n j vs (acc, t) (acc', u))
    (k : TwillAcc → State → Act) : putBlock run f m n j vs acc t k = k acc' u := by
  obtain ⟨hstore, rfl⟩ := h
  exact hstore _

/-- The sixteen FP32 values of 64 bytes. -/
def floatVals (bs : List Byte) : List FVal :=
  (List.range 16).map fun k => decodeFp Fmt.fp32.layout (wordOfBytes ((bs.drop (4 * k)).take 4))

theorem qtwBlocks_cons {run src : Word} {bs : List Byte} (hr : s.ReadsBytes (src + BitVec.ofNat 64 (64 * j)) 64 bs t)
    (hput : PutsBlock run f m n j (floatVals bs) (acc, t) (acc', u)) (js : List Nat) (k : TwillAcc → State → Act) :
    qtwBlocks f m run src n (j :: js) acc s k = qtwBlocks f m run src n js acc' u k := by
  rw [qtwBlocks, hr]
  exact putBlock_of_puts hput _

theorem baddqBlocks_cons {ra rb : Word} {bs cs es fs : List Byte} {t1 t2 t3 : State}
    (h1 : s.ReadsBytes (ra + BitVec.ofNat 64 (2 * f.width * j)) (2 * f.width) bs t1)
    (h2 : t1.ReadsBytes (ra + BitVec.ofNat 64 (2 * f.width * n + 2 * j)) 2 cs t2)
    (h3 : t2.ReadsBytes (rb + BitVec.ofNat 64 (2 * f.width * j)) (2 * f.width) es t3)
    (h4 : t3.ReadsBytes (rb + BitVec.ofNat 64 (2 * f.width * n + 2 * j)) 2 fs t)
    (hput : PutsBlock ra f m n j (List.zipWith sumVal (blockVals f bs cs) (blockVals f es fs)) (acc, t) (acc', u))
    (js : List Nat) (k : TwillAcc → State → Act) :
    baddqBlocks f m ra rb n (j :: js) acc s k = baddqBlocks f m ra rb n js acc' u k := by
  rw [baddqBlocks, withBlock_of_reads h1 h2, withBlock_of_reads h3 h4]
  exact putBlock_of_puts hput _

/-- The bytes of values as FP32, rounded to nearest even (R106). -/
def floatBytes (vs : List FVal) : List Byte := vs.flatMap fun v => bytesOfWord 4 (v.exact.into Fmt.fp32.layout ⟨.rne, 0⟩).1

theorem dqtwBlocks_cons {dst run : Word} {bs cs : List Byte} {t1 : State}
    (h1 : s.ReadsBytes (run + BitVec.ofNat 64 (2 * f.width * j)) (2 * f.width) bs t1)
    (h2 : t1.ReadsBytes (run + BitVec.ofNat 64 (2 * f.width * n + 2 * j)) 2 cs t)
    (hs : t.StoresParts dst (cutParts dst.toNat 64 (64 * j) (floatBytes (blockVals f bs cs))) u) (js : List Nat)
    (k : State → Act) : dqtwBlocks f dst run n (j :: js) s k = dqtwBlocks f dst run n js u k := by
  rw [dqtwBlocks, withBlock_of_reads h1 h2]
  exact hs _

end

/-! Loops over blocks -/

/-- A loop over blocks that takes each as a step from one state of the work to the next comes to the last of them. -/
theorem blocks_of_steps {β : Type} {act : List Nat → β → Act} {w : Nat → β} {n : Nat}
    (h : ∀ j js, j < n → act (j :: js) (w j) = act js (w (j + 1))) : act (List.range n) (w 0) = act [] (w n) := by
  have hrun : ∀ l a, a + l = n → act (List.range' a l) (w a) = act [] (w n) := by
    intro l
    induction l with
    | zero => rintro a rfl; rfl
    | succ l ih =>
      intro a ha
      rw [List.range'_succ, h a _ (by omega)]
      exact ih (a + 1) (by omega)
  rw [List.range_eq_range']
  exact hrun n 0 (Nat.zero_add n)

/-- The state in which a twill instruction has completed: the flags are in FFLAGS, and the LFSR has made its steps (R101,
R105). -/
def State.twillDone (t : State) (acc : TwillAcc) : State :=
  (t.modSlot t.cur fun x => { x with fflags := x.fflags ||| acc.1, lfsr := acc.2 }).advance

section
variable {f : Fmt} {m : RMode} {n : Nat}

theorem qtwBlocks_run {run src : Word} {s : State} {u t : Nat → State} {acc : Nat → TwillAcc} {bs : Nat → List Byte}
    (hu : u 0 = s) (hacc : acc 0 = (0, (s.slot s.cur).lfsr))
    (hstep : ∀ j, j < n → (u j).ReadsBytes (src + BitVec.ofNat 64 (64 * j)) 64 (bs j) (t j)
      ∧ PutsBlock run f m n j (floatVals (bs j)) (acc j, t j) (acc (j + 1), u (j + 1))) :
    qtwBlocks f m run src n (List.range n) (0, (s.slot s.cur).lfsr) s finishTwill = .go ((u n).twillDone (acc n)) := by
  have hrun := blocks_of_steps (w := fun j => (acc j, u j)) (act := fun js w => qtwBlocks f m run src n js w.1 w.2 finishTwill)
    fun j js hj => qtwBlocks_cons (hstep j hj).1 (hstep j hj).2 js _
  simp only [hu, hacc] at hrun
  exact hrun

theorem baddqBlocks_run {ra rb : Word} {s : State} {u t : Nat → State} {acc : Nat → TwillAcc} {bs cs es fs : Nat → List Byte}
    (hu : u 0 = s) (hacc : acc 0 = (0, (s.slot s.cur).lfsr))
    (hstep : ∀ j, j < n → ∃ t1 t2 t3, (u j).ReadsBytes (ra + BitVec.ofNat 64 (2 * f.width * j)) (2 * f.width) (bs j) t1
      ∧ t1.ReadsBytes (ra + BitVec.ofNat 64 (2 * f.width * n + 2 * j)) 2 (cs j) t2
      ∧ t2.ReadsBytes (rb + BitVec.ofNat 64 (2 * f.width * j)) (2 * f.width) (es j) t3
      ∧ t3.ReadsBytes (rb + BitVec.ofNat 64 (2 * f.width * n + 2 * j)) 2 (fs j) (t j)
      ∧ PutsBlock ra f m n j (List.zipWith sumVal (blockVals f (bs j) (cs j)) (blockVals f (es j) (fs j))) (acc j, t j)
        (acc (j + 1), u (j + 1))) :
    baddqBlocks f m ra rb n (List.range n) (0, (s.slot s.cur).lfsr) s finishTwill = .go ((u n).twillDone (acc n)) := by
  have hrun := blocks_of_steps (w := fun j => (acc j, u j))
    (act := fun js w => baddqBlocks f m ra rb n js w.1 w.2 finishTwill) fun j js hj => by
      obtain ⟨t1, t2, t3, h1, h2, h3, h4, hput⟩ := hstep j hj
      exact baddqBlocks_cons h1 h2 h3 h4 hput js _
  simp only [hu, hacc] at hrun
  exact hrun

theorem dqtwBlocks_run {dst run : Word} {s : State} {u x y : Nat → State} {bs cs : Nat → List Byte} (hu : u 0 = s)
    (hstep : ∀ j, j < n → (u j).ReadsBytes (run + BitVec.ofNat 64 (2 * f.width * j)) (2 * f.width) (bs j) (x j)
      ∧ (x j).ReadsBytes (run + BitVec.ofNat 64 (2 * f.width * n + 2 * j)) 2 (cs j) (y j)
      ∧ (y j).StoresParts dst (cutParts dst.toNat 64 (64 * j) (floatBytes (blockVals f (bs j) (cs j)))) (u (j + 1))) :
    dqtwBlocks f dst run n (List.range n) s (fun t => .go t.advance) = .go (u n).advance := by
  have hrun := blocks_of_steps (w := u) (act := fun js t => dqtwBlocks f dst run n js t fun t => .go t.advance)
    fun j js hj => by
      obtain ⟨helems, hscale, hstore⟩ := hstep j hj
      exact dqtwBlocks_cons helems hscale hstore js _
  simp only [hu] at hrun
  exact hrun

end

/-! Instructions -/

/-- What QTW does with its operands and its rounding mode. -/
def qtwAct (tw : Twf) (run src y : Word) (m : RMode) (t : State) : Act :=
  qtwBlocks (twfFmt tw) m run src (runLength y) (List.range (runLength y)) (0, (t.slot t.cur).lfsr) t finishTwill

/-- What DQTW does with its operands. -/
def dqtwAct (tw : Twf) (dst run y : Word) (_ : RMode) (t : State) : Act :=
  dqtwBlocks (twfFmt tw) dst run (runLength y) (List.range (runLength y)) t fun t => .go t.advance

/-- Two runs of blocks overlap and are not the same. -/
def RunsMeet (w n : Nat) (z p : Word) : Prop :=
  z ≠ p ∧ z.toNat < p.toNat + runBytes w n ∧ p.toNat < z.toNat + runBytes w n

/-- What BADDQ does with its operands and its rounding mode. -/
def baddqAct (tw : Twf) (ra rb y : Word) (m : RMode) (t : State) : Act :=
  let size := runBytes (twfFmt tw).width (runLength y)
  if ra != rb && ra.toNat < rb.toNat + size && rb.toNat < ra.toNat + size then .trap 0x13 4 rb y
  else baddqBlocks (twfFmt tw) m ra rb (runLength y) (List.range (runLength y)) (0, (t.slot t.cur).lfsr) t finishTwill

section
variable (tw : Twf) (ra rb y : Word) (m : RMode) (t : State)

theorem baddqAct_meet (h : RunsMeet (twfFmt tw).width (runLength y) ra rb) : baddqAct tw ra rb y m t = .trap 0x13 4 rb y := by
  obtain ⟨hne, hab, hba⟩ := h
  exact if_pos (by rw [bne_iff_ne.2 hne, decide_eq_true hab, decide_eq_true hba]; rfl)

theorem baddqAct_apart (h : ¬RunsMeet (twfFmt tw).width (runLength y) ra rb) :
    baddqAct tw ra rb y m t
      = baddqBlocks (twfFmt tw) m ra rb (runLength y) (List.range (runLength y)) (0, (t.slot t.cur).lfsr) t finishTwill := by
  refine if_neg fun hmeet => h ?_
  rw [Bool.and_eq_true, Bool.and_eq_true, bne_iff_ne, decide_eq_true_eq, decide_eq_true_eq] at hmeet
  exact and_assoc.1 hmeet

end

section
variable (s : State) (tw : Twf) (d a b : Reg)

theorem exec_qtw : exec (.qtw tw d a b) s = issueTwill true 4 2 d a b (qtwAct tw) s := rfl

theorem exec_dqtw : exec (.dqtw tw d a b) s = issueTwill false 2 4 d a b (dqtwAct tw) s := rfl

theorem exec_baddq : exec (.baddq tw d a b) s = issueTwill true 4 4 d a b (baddqAct tw) s := rfl

end

/-! The obligation -/

/-- Settles O33: MXLD and MXMUL, their completions, then the twill instructions by their count, rounding mode and blocks. -/
theorem matrixAndTwill : Obligations.MatrixAndTwill := by
  unfold Obligations.MatrixAndTwill
  refine ⟨⟨?issue, ?complete⟩, ?twill⟩
  case issue =>
    intro s mf d a b ws bs t i side w ctl out blocks
    refine ⟨fun hp => ⟨execMxld_busy s hp, execMxld_reads s hp⟩,
      fun hp => ⟨execMxmul_busy s hp, execMxmul_otherFormat s hp, fun hl hf hj ha ho hr => ?_⟩⟩
    have hexec := execMxmul_queues s hp hl hf hj ha ho hr
    refine ⟨_, mxJob i.slot mf out ctl (t.slot i).pc bs, hexec, ?_, rfl, rfl, rfl, rfl, rfl, rfl, rfl, ?_, ?_, rfl⟩
    · rw [State.enter_core, State.modSide, State.modCore_self]
    · rw [State.enter_slot]
    · rw [State.enter_slot]
      rfl
  case complete =>
    intro s mf image j rest d c m i key col
    refine ⟨execMxldComplete_none s, execMxldComplete_busy s, fun hl hq => ?_, execMxProductComplete_nil s,
      fun hq hh hj => ?_⟩
    · refine ⟨_, execMxldComplete_loaded s hl hq, ?_⟩
      rw [State.modSide, State.modCore_self]
      exact ⟨rfl, rfl, fun k => tblGet_foldl_zipIdx 0 image 0 [] k, rfl, rfl, rfl⟩
    · refine ⟨_, execMxProductComplete_cons s hq hh hj, ?_⟩
      obtain ⟨hstate, hpc, hregs⟩ := s.productDone_slot i j rest
      rw [s.productDone_side i j rest]
      refine ⟨rfl, rfl, fun k hk => m.accAfter_column j hk, fun n hn => m.accAfter_other j hn, hstate, hpc, hregs,
        s.productDone_mem i j rest, fun hctl => ?_, fun hctl k hk => ?_⟩
      · rw [State.productDone_accs, State.storeProduct, hctl]
        rfl
      · rw [State.productDone_accs, State.storeProduct, if_pos hctl]
        obtain ⟨x, hx, hagent, hop, hva, hdata, hscope⟩ := s.storeColumns_mem i j (m.columns j) (List.mem_range.2 hk)
        refine ⟨x, hx, hagent, hop, hva, hdata.trans ?_, hscope⟩
        rw [m.columns_getD j (by omega), m.columns_getD j (by omega)]
        rfl
  case twill =>
    intro s tw d a b m u x y t bs cs es fs acc hp i me f w z p q n trap vals done puts meet
    rw [exec_qtw, exec_dqtw, exec_baddq]
    refine ⟨fun hn => ⟨issueTwill_count hp hn, issueTwill_count hp hn, issueTwill_count hp hn⟩,
      fun h1 h2 hm => ⟨issueTwill_reserved hp ⟨h1, h2⟩ hm, issueTwill_reserved hp ⟨h1, h2⟩ hm⟩,
      fun h1 h2 hm hu hacc => ⟨fun hd ha hstep => ?_, fun hd ha => ⟨fun hmeet => ?_, fun hapart hstep => ?_⟩⟩,
      fun h1 h2 hu hd ha hstep => ?_⟩
    · rw [issueTwill_mode hp ⟨h1, h2⟩ hd ha hm]
      exact congrArg s.perform (qtwBlocks_run hu hacc hstep)
    · rw [issueTwill_mode hp ⟨h1, h2⟩ hd ha hm]
      exact congrArg s.perform (baddqAct_meet tw z p q m s hmeet)
    · rw [issueTwill_mode hp ⟨h1, h2⟩ hd ha hm]
      exact congrArg s.perform ((baddqAct_apart tw z p q m s hapart).trans (baddqBlocks_run hu hacc hstep))
    · obtain ⟨r, hissue⟩ := issueTwill_anyMode hp ⟨h1, h2⟩ hd ha
      rw [hissue]
      exact congrArg s.perform (dqtwBlocks_run hu hstep)

end Sys2Proof.Machine
end

section
/-!
FACTS. Bytes and the values they make up, lowest first (00 R7).
-/

namespace Sys2Proof.Machine

@[simp] theorem natBytes_length (n v : Nat) : (natBytes n v).length = n := by
  induction n generalizing v with
  | zero => rfl
  | succ n ih => simp [natBytes, ih]

@[simp] theorem bytesOfWord_length (n : Nat) (v : Word) : (bytesOfWord n v).length = n := natBytes_length ..

theorem bytesNat_lt (bs : List Byte) : bytesNat bs < 256 ^ bs.length := by
  induction bs with
  | nil => simp [bytesNat]
  | cons b bs ih =>
    have hb := b.isLt
    simp only [bytesNat, List.length_cons, Nat.pow_succ]
    omega

/-- The bytes of a value of bytes are these bytes. -/
theorem natBytes_bytesNat (bs : List Byte) : natBytes bs.length (bytesNat bs) = bs := by
  induction bs with
  | nil => rfl
  | cons b bs ih =>
    have hb := b.isLt
    have hhigh : (b.toNat + 256 * bytesNat bs) / 256 = bytesNat bs := by omega
    have hlow : BitVec.ofNat 8 (b.toNat + 256 * bytesNat bs) = b := BitVec.eq_of_toNat_eq (by simp; omega)
    simp only [bytesNat, List.length_cons, natBytes, hhigh, hlow, ih]

theorem bytesOfWord_wordOfBytes {bs : List Byte} (h : bs.length ≤ 8) : bytesOfWord bs.length (wordOfBytes bs) = bs := by
  have hlt : bytesNat bs < 2 ^ 64 :=
    calc bytesNat bs < 256 ^ bs.length := bytesNat_lt bs
      _ ≤ 256 ^ 8 := Nat.pow_le_pow_right (by decide) h
      _ = 2 ^ 64 := by decide
  rw [bytesOfWord, wordOfBytes, BitVec.toNat_ofNat, Nat.mod_eq_of_lt hlt, natBytes_bytesNat]

theorem natBytes_getElem {n k : Nat} (v : Nat) (h : k < n) :
    (natBytes n v)[k]'(by simpa using h) = BitVec.ofNat 8 (v / 256 ^ k) := by
  induction n generalizing v k with
  | zero => omega
  | succ n ih =>
    cases k with
    | zero => simp [natBytes]
    | succ k =>
      have hk : k < n := by omega
      simp only [natBytes, List.getElem_cons_succ, ih _ hk, Nat.div_div_eq_div_mul, Nat.pow_succ']

/-- A byte of a double lies eight bits above the one before. -/
theorem bytesOfWord_getElem {n k : Nat} (v : Word) (h : k < n) :
    (bytesOfWord n v)[k]'(by simpa using h) = v.extractLsb' (8 * k) 8 := by
  have hshift : v.toNat / 256 ^ k = v.toNat >>> (8 * k) := by rw [Nat.shiftRight_eq_div_pow, Nat.pow_mul]
  refine (natBytes_getElem _ h).trans (BitVec.eq_of_toNat_eq ?_)
  rw [hshift, BitVec.toNat_ofNat, BitVec.extractLsb'_toNat]

/-- An empty store log leaves a value of bytes as it was read (16 R420). -/
theorem loggedValue_nil {bs : List Byte} (pa : Nat) (h : bs.length ≤ 8) :
    loggedValue [] pa bs.length (wordOfBytes bs) = wordOfBytes bs := by
  have hmap (p : Byte × Nat) : loggedByte [] (pa + p.2) p.1 = p.1 := rfl
  simp only [loggedValue, hmap, bytesOfWord_wordOfBytes h]
  exact congrArg wordOfBytes (List.zipIdx_map_fst 0 bs)

@[simp] theorem State.rawBytes_length (s : State) (pa n : Nat) : (s.rawBytes pa n).length = n := by simp [State.rawBytes]

theorem State.readBytes_bypass {s : State} {key : Byte} {pa : Nat} (h : (s.keySlot key pa).xts = false) (n : Nat) :
    s.readBytes key pa n = s.rawBytes pa n := by
  simp [State.readBytes, h]

end Sys2Proof.Machine
end

section
/-!
SUPPORT. What the operations at a home leave unchanged: a write changes memory alone, the L1D only cores, a take entry the take
tables and a log, a completed access its entry in the list of accesses.
-/

namespace Sys2Proof.Machine

variable (s : State)

/-! Memory and full/empty bits -/

/-- A write at a home changes memory alone. -/
theorem State.writeHome_only (key : Byte) (pa n : Nat) (v : Word) : ∃ m, s.writeHome key pa n v = { s with mem := m } :=
  ⟨(s.writeHome key pa n v).mem, (congrArg (fun t : State => { t with mem := (s.writeHome key pa n v).mem })
    (State.writeBytes_eq key pa (bytesOfWord n v))).trans rfl⟩

theorem State.writeHome_bypass {key : Byte} {pa : Nat} (h : (s.keySlot key pa).xts = false) (n : Nat) (v : Word) :
    s.writeHome key pa n v = { s with mem := writeRaw pa (bytesOfWord n v) s.mem } := State.writeBytes_bypass _ _ _ h

/-- A plain write at a clean double scans nothing. -/
theorem State.plainWrite_clean {key : Byte} {pa : Nat} (h : s.isPoisoned pa = false) (n : Nat) (v : Word) :
    s.plainWrite key pa n v = s.writeHome key pa n v := by
  obtain ⟨m, hm⟩ := s.writeHome_only key pa n v
  have hp : (s.writeHome key pa n v).isPoisoned pa = false := hm ▸ h
  simp only [State.plainWrite, State.cleanDouble, hp, Bool.false_eq_true, ↓reduceIte, ite_self]

theorem mem_setAdd (k : Nat) (l : List Nat) : k ∈ setAdd k l := by
  induction l with
  | nil => simp [setAdd]
  | cons i r ih =>
    simp only [setAdd]
    split
    · exact List.mem_cons_self
    · split
      next h => exact h ▸ List.mem_cons_self
      next => exact List.mem_cons_of_mem _ ih

@[simp] theorem State.isFull_setFull (pa : Nat) : (s.setFull pa).isFull pa = true :=
  List.contains_iff_mem.2 (mem_setAdd _ _)

@[simp] theorem State.isFull_setEmpty (pa : Nat) : (s.setEmpty pa).isFull pa = false := by
  simp [State.isFull, State.setEmpty, setDel]

/-- The scan of a double on which nothing waits changes nothing (04 R119). -/
theorem State.scanWaiters_none {pa : Nat} (h : ∀ w ∈ s.waits, w.pa ≠ doubleOf pa) (key : Byte) : s.scanWaiters key pa = s := by
  have hnone : (s.waits.filter (·.pa == doubleOf pa)) = [] :=
    List.filter_eq_nil_iff.2 fun w hw => by simpa using h w hw
  simp only [State.scanWaiters, hnone, scanLoop, scanPass, Bool.false_eq_true, ↓reduceIte]

/-! The L1D, take entries and launches -/

theorem State.dropLine_only (d : Die) (c : CoreNo) (pa : Nat) : ∃ l, s.dropLine d c pa = { s with cores := l } := by
  simp only [State.dropLine]
  split
  · exact ⟨s.cores, rfl⟩
  · exact ⟨_, rfl⟩

theorem State.storeL1d_only (d : Die) (c : CoreNo) (pa n : Nat) (v : Word) :
    ∃ l, s.storeL1d d c pa n v = { s with cores := l } := by
  simp only [State.storeL1d]
  split
  · exact ⟨s.cores, rfl⟩
  · exact ⟨_, rfl⟩

/-- A take entry: the take tables, and the log that counts a dropped entry (15 R403). -/
theorem State.noteTake_only (pa : Nat) (who : Agent) :
    ∃ l d c, s.noteTake pa who = { s with takes := l, dies := d, cores := c } := by
  simp only [State.noteTake]
  split
  · exact ⟨_, s.dies, s.cores, rfl⟩
  · cases homeTable pa with
    | skein d n => exact ⟨_, _, _, rfl⟩
    | slice d n => exact ⟨_, _, _, rfl⟩

theorem State.acceptLaunch_only (a : Access) : ∃ d, s.acceptLaunch a = { s with dies := d } := by
  simp only [State.acceptLaunch]
  split
  · split
    · exact ⟨_, rfl⟩
    · exact ⟨s.dies, rfl⟩
  · exact ⟨s.dies, rfl⟩

/-- A take of a double on which nothing waits empties it; take tables, logs and launches note it. -/
theorem State.takeDouble_only {a : Access} (h : ∀ w ∈ s.waits, w.pa ≠ doubleOf a.pa) :
    ∃ l d c, s.takeDouble a = { s.setEmpty a.pa with takes := l, dies := d, cores := c } := by
  obtain ⟨l, d, c, hn⟩ := (s.setEmpty a.pa).noteTake_only a.pa a.agent
  refine ⟨l, d, c, ?_⟩
  rw [State.takeDouble, hn]
  exact State.scanWaiters_none _ (by exact h) _

/-! The access itself -/

/-- An access that is performed: its entry, and a line of its core's L1D. -/
theorem State.doneAt_only (a : Access) (v : Word) (ok : Bool) : ∃ l, s.doneAt a v ok =
    State.modAccess { s with cores := l } a.id fun b => { b with stage := .done, result := v, ok } := by
  simp only [State.doneAt]
  split
  · exact ⟨s.cores, rfl⟩
  · exact ⟨s.cores, rfl⟩
  · obtain ⟨l, h⟩ := s.dropLine_only ‹SlotId›.die ‹SlotId›.core a.pa
    exact ⟨l, h ▸ rfl⟩
  · exact ⟨s.cores, rfl⟩

@[simp] theorem State.doneAt_mem (a : Access) (v : Word) (ok : Bool) : (s.doneAt a v ok).mem = s.mem := by
  obtain ⟨l, h⟩ := s.doneAt_only a v ok
  exact h ▸ rfl
@[simp] theorem State.doneAt_full (a : Access) (v : Word) (ok : Bool) : (s.doneAt a v ok).full = s.full := by
  obtain ⟨l, h⟩ := s.doneAt_only a v ok
  exact h ▸ rfl
@[simp] theorem State.doneAt_slots (a : Access) (v : Word) (ok : Bool) : (s.doneAt a v ok).slots = s.slots := by
  obtain ⟨l, h⟩ := s.doneAt_only a v ok
  exact h ▸ rfl
@[simp] theorem State.doneAt_isFull (a : Access) (v : Word) (ok : Bool) (pa : Nat) :
    (s.doneAt a v ok).isFull pa = s.isFull pa := by
  simp only [State.isFull, State.doneAt_full]

theorem State.doneAt_access {a b : Access} (h : s.access a.id = some b) (v : Word) (ok : Bool) :
    (s.doneAt a v ok).access a.id = some { b with stage := .done, result := v, ok } := by
  obtain ⟨l, hl⟩ := s.doneAt_only a v ok
  rw [hl, State.access_modAccess_self]
  · exact (congrArg _ h).trans rfl
  · exact fun _ => rfl

/-- An access of a number carries that number. -/
theorem State.access_id {n : Nat} {a : Access} (h : s.access n = some a) : a.id = n := by simpa using List.find?_some h

theorem State.access_own {n : Nat} {a : Access} (h : s.access n = some a) : s.access a.id = some a := by
  rw [s.access_id h]; exact h

end Sys2Proof.Machine
end

section
/-!
SUPPORT. A thread's access at its home (04 R113 to R119; 07 R226 to R235): what the bank operation makes of each kind.
-/

namespace Sys2Proof.Machine

variable {s : State} {a : Access} {i : SlotId} {inc : Byte}

/-! The bank operation -/

/-- An access that may be performed, and that is no barrier operation, fence or register access, is performed at its home. -/
theorem execHomeBankOperation_performs (ha : s.access s.ev.id = some a) (hst : a.stage = .home)
    (hm : s.mayPerform a = true) (hu : s.unitTakes a = true) (hb : a.op.isBarrier = false) (hf : a.op ≠ .fence)
    (hs : paSpace a.pa ≠ 2) : exec .homeBankOperation s = .next (s.performAccess a) := by
  change execHomeBankOperation s = _
  simp only [execHomeBankOperation, ha, hst, hm, hu, Access.remoteBarrier, hb, bne_self_eq_false, Bool.not_true, Bool.false_and,
    Bool.or_self, Bool.false_eq_true, ↓reduceIte, beq_eq_false_iff_ne.2 hf, beq_eq_false_iff_ne.2 hs]

/-- A load outside HBM reads the bytes at its home (04 R113, R148). -/
theorem State.performAccess_load {lo : LoadOp} (hi : a.agent = .slot i inc) (hop : a.op = .load lo) (hs : paSpace a.pa ≠ 0)
    (hp : s.isPoisoned a.pa = false) (hl : (s.slot i).log = []) :
    s.performAccess a = s.modAccess a.id fun b =>
      { b with stage := .done, result := extendLoad lo (s.readHome a.key a.pa (2 ^ loadLog2 lo)), ok := true } := by
  have hlen : (s.readBytes a.key a.pa (2 ^ loadLog2 lo)).length = 2 ^ loadLog2 lo := by
    rw [State.readBytes_bypass (State.keySlot_outside _ _ hs), State.rawBytes_length]
  have h8 : (s.readBytes a.key a.pa (2 ^ loadLog2 lo)).length ≤ 8 := by rw [hlen]; cases lo <;> decide
  have hlog : loggedValue [] a.pa (2 ^ loadLog2 lo) (s.readHome a.key a.pa (2 ^ loadLog2 lo))
      = s.readHome a.key a.pa (2 ^ loadLog2 lo) := by
    have h := loggedValue_nil a.pa h8
    rwa [hlen] at h
  have hread : s.loadL1d i.die i.core a.key a.pa (2 ^ loadLog2 lo) = (some (s.readHome a.key a.pa (2 ^ loadLog2 lo)), s) := by
    simp only [State.loadL1d, hp, bne_iff_ne.2 hs, Bool.false_eq_true, ↓reduceIte]
  simp only [State.performAccess, hop, State.atHome, hi, hl, List.take_nil, ite_self, hread, hlog, State.settleAccess, State.doneAt]

/-- A store writes its bytes, and updates a line of its core's L1D (04 R115, R124). -/
theorem State.performAccess_store {so : StoreOp} (hi : a.agent = .slot i inc) (hop : a.op = .store so)
    (hp : s.isPoisoned a.pa = false) : s.performAccess a =
      State.doneAt ((s.writeHome a.key a.pa (2 ^ storeLog2 so) a.data).storeL1d i.die i.core a.pa (2 ^ storeLog2 so) a.data) a 0 true := by
  simp only [State.performAccess, hop, State.atHome, hi, State.settleAccess, s.plainWrite_clean hp]

/-- 07 R233. -/
theorem State.performAccess_amo {o : AmoOp} {w : Bool} (hop : a.op = .amo o w) (hp : s.isPoisoned a.pa = false) :
    let n := if w then 4 else 8
    let old := s.readHome a.key a.pa n
    s.performAccess a = (s.writeHome a.key a.pa n (amoResult o (8 * n) old a.data)).doneAt a old true := by
  simp only [State.performAccess, hop, State.atHome, State.amoAtHome, hp, State.settleAccess, Bool.false_eq_true, ↓reduceIte]

/-- 07 R234. -/
theorem State.performAccess_cas {w : Bool} (hop : a.op = .cas w) (hp : s.isPoisoned a.pa = false) :
    let n := if w then 4 else 8
    let old := s.readHome a.key a.pa n
    s.performAccess a = (if BitVec.ofNat (8 * n) old.toNat = BitVec.ofNat (8 * n) a.expect.toNat
      then s.writeHome a.key a.pa n a.data else s).doneAt a old true := by
  intro n old
  simp only [State.performAccess, hop, State.atHome, State.casAtHome, hp, Bool.false_eq_true, ↓reduceIte]
  by_cases h : BitVec.ofNat (8 * n) old.toNat = BitVec.ofNat (8 * n) a.expect.toNat
  · rw [if_pos h, if_pos h]; rfl
  · rw [if_neg h, if_neg h]; rfl

/-! Full/empty operations -/

/-- Noting a host's fill changes the access alone (R44). -/
theorem State.noteHost_only (s : State) (id pa : Nat) : ∃ l, s.noteHost id pa = { s with accs := l } := by
  simp only [State.noteHost]
  split
  · exact ⟨_, rfl⟩
  · exact ⟨s.accs, rfl⟩

/-- The access of a full/empty operation, with what it has observed of a host's fill. -/
def noted (s : State) (a : Access) : Access := { a with host := if s.hostFull.contains a.pa then true else a.host }

theorem doubleOf_aligned {pa : Nat} (h : pa % 8 = 0) : doubleOf pa = pa := by simp [doubleOf, h]

theorem State.noteHost_access {o : FeOp} (ha : s.access a.id = some a) (hop : a.op = .fe o) (h8 : a.pa % 8 = 0) :
    (s.noteHost a.id a.pa).access a.id = some (noted s a) := by
  simp only [State.noteHost, doubleOf_aligned h8, noted]
  split
  · rw [State.access_modAccess_self]
    · rw [ha, Option.map_some, hop]; rfl
    · exact fun _ => rfl
  · exact ha

theorem State.noteHost_entry {b : Access} {id : Nat} (pa : Nat) (hb : s.access id = some b) :
    ∃ c, (s.noteHost id pa).access id = some c := by
  simp only [State.noteHost]
  split
  · exact ⟨_, (s.access_modAccess_self id (fun c => { c with host := c.op.isFe }) fun _ => rfl).trans (congrArg _ hb)⟩
  · exact ⟨b, hb⟩

theorem State.atHome_fe {o : FeOp} (hop : a.op = .fe o) : s.atHome a = s.feAtHome a o := by
  simp only [State.atHome, hop]

/-- What a full/empty operation finds is settled, for the access as it was. -/
theorem State.performAccess_fe {o : FeOp} (hop : a.op = .fe o) :
    s.performAccess a = s.settleAccess a ((s.noteHost a.id a.pa).feAtHome a o) := by
  simp only [State.performAccess, hop]

/-- The double of an access, as the clauses on full/empty operations have it: nothing waits there, and it is neither orphaned
nor poisoned. -/
structure QuietDouble (s : State) (a : Access) : Prop where
  aligned : a.pa % 8 = 0
  clean : s.isPoisoned a.pa = false
  owned : s.orphaned a.pa = false
  unwaited : ∀ w ∈ s.waits, w.pa ≠ a.pa

theorem QuietDouble.unwaitedDouble (h : QuietDouble s a) : ∀ w ∈ s.waits, w.pa ≠ doubleOf a.pa := by
  rw [doubleOf_aligned h.aligned]; exact h.unwaited

/-- R116 on a quiet double, by the operation and the full/empty bit found. -/
theorem State.feAtHome_read {o : FeOp} (horph : s.orphaned a.pa = false) (hp : s.isPoisoned a.pa = false)
    (ho : o = .lde ∨ o = .waitf) (hf : s.isFull a.pa = true) : s.feAtHome a o = .done (s.readHome a.key a.pa 8) true s := by
  obtain rfl | rfl := ho <;> simp only [State.feAtHome, horph, hp, hf, Bool.false_eq_true, ↓reduceIte]

theorem State.feAtHome_taken {o : FeOp} (h : QuietDouble s a) (ht : s.retakes a = false) (ho : o = .take ∨ o = .trytake)
    (hf : s.isFull a.pa = true) :
    ∃ l d c, s.feAtHome a o = .done (s.readHome a.key a.pa 8) true { s.setEmpty a.pa with takes := l, dies := d, cores := c } := by
  obtain ⟨l, d, c, htake⟩ := s.takeDouble_only h.unwaitedDouble
  obtain rfl | rfl := ho
  · obtain ⟨e, hlaunch⟩ := (s.takeDouble a).acceptLaunch_only a
    refine ⟨l, e, c, ?_⟩
    simp only [State.feAtHome, h.clean, h.owned, ht, hf, Bool.false_eq_true, ↓reduceIte]
    rw [hlaunch, htake]
  · refine ⟨l, d, c, ?_⟩
    simp only [State.feAtHome, h.clean, h.owned, ht, hf, Bool.false_eq_true, ↓reduceIte, htake]

theorem State.feAtHome_nothingTaken (h : QuietDouble s a) (ht : s.retakes a = false) (hf : s.isFull a.pa = false) :
    s.feAtHome a .trytake = .done 0 false s := by
  simp only [State.feAtHome, h.clean, h.owned, ht, hf, Bool.false_eq_true, ↓reduceIte]

theorem State.feAtHome_festat (h : QuietDouble s a) :
    s.feAtHome a .festat = .done (if s.isFull a.pa then 1 else 0) true s := by
  simp only [State.feAtHome, h.clean, h.owned, Bool.not_false, Bool.and_true, Bool.false_eq_true, ↓reduceIte]

theorem State.feAtHome_purge (h : QuietDouble s a) : s.feAtHome a .purge = .done 0 true (s.setEmpty a.pa) := by
  have hscan : (s.setEmpty a.pa).scanWaiters a.key a.pa = s.setEmpty a.pa :=
    State.scanWaiters_none _ (by exact h.unwaitedDouble) _
  simp only [State.feAtHome, h.clean, h.owned, hscan, Bool.false_eq_true, ↓reduceIte]

/-- PUT into an empty double and FILL: the double holds the data and is full. -/
theorem State.feAtHome_filled {o : FeOp} (h : QuietDouble s a) (ho : o = .put ∧ s.isFull a.pa = false ∨ o = .fill) :
    ∃ l p, s.feAtHome a o = .done 0 true { (s.writeHome a.key a.pa 8 a.data).setFull a.pa with takes := l, poison := p } := by
  have hwaits : (s.writeHome a.key a.pa 8 a.data).waits = s.waits := by
    obtain ⟨m, hm⟩ := s.writeHome_only a.key a.pa 8 a.data
    exact hm ▸ rfl
  have hscan (t : State) (ht : t.waits = (s.writeHome a.key a.pa 8 a.data).waits) : t.scanWaiters a.key a.pa = t :=
    State.scanWaiters_none t (by rw [ht, hwaits]; exact h.unwaitedDouble) a.key
  let w := s.writeHome a.key a.pa 8 a.data
  obtain ⟨rfl, hf⟩ | rfl := ho
  · refine ⟨(w.untake a.pa).takes, w.poison, ?_⟩
    simp only [State.feAtHome, h.clean, hf, Bool.false_eq_true, ↓reduceIte]
    exact congrArg (AtHome.done 0 true) (hscan _ (by rfl))
  · exact ⟨(w.untake a.pa).takes, (w.clearPoison a.pa).poison, congrArg (AtHome.done 0 true) (hscan _ (by rfl))⟩

theorem State.feAtHome_parks {o : FeOp} (h : QuietDouble s a) (ht : s.retakes a = false)
    (ho : (o = .lde ∨ o = .waitf ∨ o = .take) ∧ s.isFull a.pa = false ∨ o = .put ∧ s.isFull a.pa = true) :
    s.feAtHome a o = .park := by
  obtain ⟨rfl | rfl | rfl, hf⟩ | ⟨rfl, hf⟩ := ho <;>
    simp only [State.feAtHome, h.clean, h.owned, ht, hf, Bool.false_eq_true, ↓reduceIte]

/-- The stage of an access that parks: with an entry while its table has room, otherwise polling (R118, R405). -/
def State.parkStage (s : State) (a : Access) : Stage :=
  if (s.waits.filter (·.table == homeTable a.pa)).length < (homeTable a.pa).size then .parked else .polling

/-- Parking changes the access, the wait entries and the slot. -/
theorem State.parkAt_only (s : State) (a : Access) : ∃ l w, s.parkAt a =
    { (s.modAccess a.id fun b => { b with stage := s.parkStage a, data := a.data, since := s.aclk }) with
      slots := l, waits := w } := by
  simp only [State.parkAt, State.parkStage]
  split
  · split
    · split
      · exact ⟨_, _, rfl⟩
      · exact ⟨_, _, rfl⟩
    · split
      · exact ⟨_, _, rfl⟩
      · exact ⟨_, _, rfl⟩
  · split
    · exact ⟨_, _, rfl⟩
    · exact ⟨_, _, rfl⟩

@[simp] theorem State.parkAt_mem (s : State) (a : Access) : (s.parkAt a).mem = s.mem := by
  obtain ⟨l, w, h⟩ := s.parkAt_only a
  exact h ▸ rfl
@[simp] theorem State.parkAt_full (s : State) (a : Access) : (s.parkAt a).full = s.full := by
  obtain ⟨l, w, h⟩ := s.parkAt_only a
  exact h ▸ rfl

theorem State.parkAt_access (ha : s.access a.id = some a) : (s.parkAt a).access a.id =
    some { a with stage := s.parkStage a, since := s.aclk } := by
  obtain ⟨l, w, hpark⟩ := s.parkAt_only a
  have hmod := s.access_modAccess_self a.id
    (fun b => { b with stage := s.parkStage a, data := a.data, since := s.aclk }) fun _ => rfl
  rw [hpark]
  exact hmod.trans (congrArg _ ha)

end Sys2Proof.Machine
end

section
/-!
SUPPORT. The obligation on accesses at their home (04 R113 to R119; 07 R226 to R235).
-/

namespace Sys2Proof.Machine

/-- 04 R113; 07 R226, R227: loads and stores. -/
theorem loads_and_stores_at_home (s : State) (a : Access) (i : SlotId) (inc : Byte) (lo : LoadOp) (so : StoreOp)
    (ha : s.access s.ev.id = some a) (hst : a.stage = .home) (hm : s.mayPerform a = true) (hu : s.unitTakes a = true)
    (hi : a.agent = .slot i inc) (hs : paSpace a.pa ≠ 2) (hp : s.isPoisoned a.pa = false) :
    (a.op = .load lo → paSpace a.pa ≠ 0 → (s.slot i).log = [] →
      exec .homeBankOperation s = .next (s.modAccess a.id fun b =>
        { b with stage := .done, result := extendLoad lo (s.readHome a.key a.pa (2 ^ loadLog2 lo)), ok := true }))
    ∧ (a.op = .store so → (s.keySlot a.key a.pa).xts = false →
      ∃ t, exec .homeBankOperation s = .next t
        ∧ (∀ k, k < 2 ^ storeLog2 so → t.byteAt (a.pa + k) = a.data.extractLsb' (8 * k) 8)
        ∧ (∀ p, p < a.pa ∨ a.pa + 2 ^ storeLog2 so ≤ p → t.byteAt p = s.byteAt p)
        ∧ t.full = s.full ∧ t.slots = s.slots
        ∧ t.access a.id = some { a with stage := .done, result := 0, ok := true }) := by
  have hperf (hb : a.op.isBarrier = false) (hf : a.op ≠ .fence) : exec .homeBankOperation s = .next (s.performAccess a) :=
    execHomeBankOperation_performs ha hst hm hu hb hf hs
  refine ⟨fun hop h0 hl => ?_, fun hop hx => ⟨_, hperf (by rw [hop]; rfl) (by rw [hop]; nofun), ?_⟩⟩
  · rw [hperf (by rw [hop]; rfl) (by rw [hop]; nofun), State.performAccess_load hi hop h0 hp hl]
  · rw [State.performAccess_store hi hop hp, s.writeHome_bypass hx]
    generalize hbs : bytesOfWord (2 ^ storeLog2 so) a.data = bs
    have hlen : bs.length = 2 ^ storeLog2 so := hbs ▸ bytesOfWord_length ..
    obtain ⟨l, hl⟩ := State.storeL1d_only { s with mem := writeRaw a.pa bs s.mem } i.die i.core a.pa (2 ^ storeLog2 so) a.data
    rw [hl]
    refine ⟨fun k hk => ?_, fun p hpa => ?_, by simp, by simp, State.doneAt_access _ (by exact s.access_own ha) _ _⟩
    · rw [State.byteAt, State.doneAt_mem, writeRaw_inside _ _ _ _ (by omega)]
      subst hbs
      exact bytesOfWord_getElem _ hk
    · rw [State.byteAt, State.doneAt_mem]
      exact writeRaw_outside _ _ _ _ (by omega)

/-- 07 R233, R234: amos and CAS. -/
theorem atomics_at_home (s : State) (a : Access) (i : SlotId) (inc : Byte) (o : AmoOp) (w : Bool)
    (ha : s.access s.ev.id = some a) (hst : a.stage = .home) (hm : s.mayPerform a = true) (hu : s.unitTakes a = true)
    (_hi : a.agent = .slot i inc) (hs : paSpace a.pa ≠ 2) (hp : s.isPoisoned a.pa = false)
    (hx : (s.keySlot a.key a.pa).xts = false) :
    let n := if w then 4 else 8
    let old := s.readHome a.key a.pa n
    let done : State → Prop := fun t =>
      t.access a.id = some { a with stage := .done, result := old, ok := true } ∧ t.full = s.full ∧ t.slots = s.slots
    (a.op = .amo o w →
      ∃ t, exec .homeBankOperation s = .next t ∧ done t
        ∧ t.mem = writeRaw a.pa (bytesOfWord n (amoResult o (8 * n) old a.data)) s.mem)
    ∧ (a.op = .cas w →
      ∃ t, exec .homeBankOperation s = .next t ∧ done t
        ∧ t.mem = if BitVec.ofNat (8 * n) old.toNat = BitVec.ofNat (8 * n) a.expect.toNat
            then writeRaw a.pa (bytesOfWord n a.data) s.mem else s.mem) := by
  intro n old done
  have hown := s.access_own ha
  have hdone (m : Tbl Byte) : done (({ s with mem := m }).doneAt a old true) :=
    ⟨State.doneAt_access _ (by exact hown) _ _, by simp, by simp⟩
  have hperf (hb : a.op.isBarrier = false) (hf : a.op ≠ .fence) : exec .homeBankOperation s = .next (s.performAccess a) :=
    execHomeBankOperation_performs ha hst hm hu hb hf hs
  refine ⟨fun hop => ⟨_, hperf (by rw [hop]; rfl) (by rw [hop]; nofun), ?_⟩,
    fun hop => ⟨_, hperf (by rw [hop]; rfl) (by rw [hop]; nofun), ?_⟩⟩
  · rw [State.performAccess_amo hop hp, s.writeHome_bypass hx]
    exact ⟨hdone _, State.doneAt_mem ..⟩
  · rw [State.performAccess_cas hop hp, s.writeHome_bypass hx]
    by_cases hc : BitVec.ofNat (8 * n) old.toNat = BitVec.ofNat (8 * n) a.expect.toNat
    · rw [if_pos hc, if_pos hc]
      exact ⟨hdone _, State.doneAt_mem ..⟩
    · rw [if_neg hc, if_neg hc]
      exact ⟨hdone s.mem, State.doneAt_mem ..⟩

/-- Settles O10: loads and stores, then amos and CAS, then the full/empty operations by what they find at the double. -/
theorem accessesAtHome : Obligations.AccessesAtHome := by
  unfold Obligations.AccessesAtHome
  refine ⟨loads_and_stores_at_home, atomics_at_home, ?_⟩
  intro s a i inc o ha hst hm hu hi hop hs h8 hp horph hre hw full data host
  have hperf : exec .homeBankOperation s = .next (s.performAccess a) :=
    execHomeBankOperation_performs ha hst hm hu (by rw [hop]; rfl) (by rw [hop]; nofun) hs
  have hacc := State.noteHost_access (s.access_own ha) hop h8
  refine ⟨_, hperf, ?_⟩
  rw [State.performAccess_fe hop]
  obtain ⟨l, hnote⟩ := s.noteHost_only a.id a.pa
  rw [hnote] at hacc ⊢
  have hq : QuietDouble { s with accs := l } a := ⟨h8, hp, horph, hw⟩
  have hdone (t : State) (v : Word) (ok : Bool) (ht : t.accs = l) :
      (t.doneAt a v ok).access a.id = some { a with stage := .done, result := v, ok, host } := by
    refine State.doneAt_access t (b := noted s a) ?_ v ok
    rw [← hacc, State.access, State.access, ht]
  refine ⟨fun ho hf => ?_, fun ho hf => ?_, fun ho hf => ?_, fun ho => ?_, fun ho hf => ?_, fun ho => ?_, fun ho => ?_⟩
  · rw [State.feAtHome_read hq.owned hq.clean ho hf]
    exact ⟨hdone _ _ _ rfl, State.doneAt_full .., State.doneAt_mem ..⟩
  · obtain ⟨k, d, c, htaken⟩ := State.feAtHome_taken hq hre ho hf
    rw [htaken]
    exact ⟨hdone _ _ _ rfl, (State.doneAt_isFull ..).trans (State.isFull_setEmpty s a.pa), State.doneAt_mem ..⟩
  · rw [ho, State.feAtHome_nothingTaken hq hre hf]
    exact ⟨hdone _ _ _ rfl, State.doneAt_full .., State.doneAt_mem ..⟩
  · rw [ho, State.feAtHome_festat hq]
    exact ⟨hdone _ _ _ rfl, State.doneAt_full .., State.doneAt_mem ..⟩
  · have hempty : s.isFull a.pa = false := hf.resolve_right (by rw [ho]; nofun)
    obtain ⟨k, p, hfilled⟩ := State.feAtHome_filled hq (.inl ⟨ho, hempty⟩)
    obtain ⟨m, hm⟩ := State.writeHome_only { s with accs := l } a.key a.pa 8 a.data
    rw [hfilled]
    refine ⟨congrArg _ (hdone _ _ _ (by rw [hm]; rfl)), (State.doneAt_isFull ..).trans (State.isFull_setFull _ a.pa), fun hx => ?_⟩
    exact (State.doneAt_mem ..).trans (congrArg State.mem (State.writeHome_bypass { s with accs := l } hx 8 a.data))
  · rw [ho, State.feAtHome_purge hq]
    exact ⟨congrArg _ (hdone _ _ _ rfl), (State.doneAt_isFull ..).trans (State.isFull_setEmpty s a.pa), State.doneAt_mem ..⟩
  · rw [State.feAtHome_parks hq hre ho]
    exact ⟨congrArg _ (State.parkAt_access (s.access_own ha)), s.parkAt_full a, s.parkAt_mem a⟩

end Sys2Proof.Machine
end

section
/-!
SUPPORT. Wait limits (04 R120; 14 R385): a park at the core ends at once, a wait at a home after the answer of the home.
-/

namespace Sys2Proof.Machine

variable {s : State}

theorem State.takeTrap_of_ready {i : SlotId} (h : s.trapWaits i = false) (cause sub : Byte) (pc : Word) (word : Inst) (val aux : Word) :
    s.takeTrap i cause sub pc word val aux = s.pushTrap i cause sub pc word val aux := by
  simp only [State.takeTrap, h, Bool.false_eq_true, ↓reduceIte]

section

variable {i : SlotId} (he : s.expired i = true)
  (hp : isPriv i = true ∨ s.parkedRecord i = false)
include he hp

/-- The expiry counts: no record with PARKS of the slot is queued, or the slot is the supervisor's (R371). -/
theorem State.expiry_counts : (!s.expired i || (s.parkedRecord i && !isPriv i)) = false := by
  obtain h | h := hp <;> simp [he, h]

/-- A park at the core that has outlived WLIM traps WAITLIM at once. -/
theorem execWaitLimitExpiry_atCore (hi : i = ⟨s.ev.die, s.ev.core, s.ev.slot⟩) {sub : Byte} (hs : waitLimitSub (s.slot i).state = some sub)
    (ha : (s.slot i).await = .retry) (hw : s.trapWaits i = false) :
    exec .waitLimitExpiry s = .next (s.takeTrap i 0x06 sub (s.slot i).pc 0 (s.slot i).parkKey 0) := by
  have hcounts := State.expiry_counts he hp
  rw [State.takeTrap_of_ready hw]
  subst hi
  change execWaitLimitExpiry s = _
  simp only [execWaitLimitExpiry, hcounts, ha, hs, hw, Bool.false_eq_true, ↓reduceIte]

/-- A wait at a home that has outlived WLIM loses its entry there, and the answer is on its way. -/
theorem execWaitLimitExpiry_atHome (hi : i = ⟨s.ev.die, s.ev.core, s.ev.slot⟩) {id : Nat} {a : Access}
    (ha : (s.slot i).await = .access id) (hacc : s.access id = some a)
    (hst : a.stage ≠ .done) (hn : ∀ q ∈ s.net, ∀ j g, q.packet ≠ .cancelled id j g) :
    exec .waitLimitExpiry s = .next (({ s with waits := s.waits.filter (·.access != id) }.modAccess id fun a =>
      { a with stage := .parked }).send (.cancelled id i true)) := by
  have hcounts := State.expiry_counts he hp
  subst hi
  change execWaitLimitExpiry s = _
  simp only [execWaitLimitExpiry, hcounts, ha, hacc, beq_eq_false_iff_ne.2 hst, Bool.false_eq_true, ↓reduceIte]
  refine congrArg _ (if_neg (Bool.not_eq_true _ ▸ List.any_eq_false.2 fun q hq => ?_))
  cases hk : q.packet with
  | cancelled b j g => simpa using fun hb : b = id => hn q hq j g (hb ▸ hk)
  | _ => simp

end

/-- The home withdrew the entry: the wait ends with WAITLIM. -/
theorem execWaitCancelAnswer_withdrawn {id : Nat} {i : SlotId} {a : Access} {sub : Byte}
    (hk : s.packet s.ev.id = some (.cancelled id i true)) (ha : s.access id = some a)
    (hw : (s.dropAccess id).trapWaits i = false) (hs : waitLimitSub (s.slot i).state = some sub) :
    exec .waitCancelAnswer s
      = .next (((s.dropPacket s.ev.id).dropAccess id).takeTrap i 0x06 sub (s.slot i).pc 0 a.va 0) := by
  have hready : ((s.dropPacket s.ev.id).dropAccess id).trapWaits i = false := hw
  rw [State.takeTrap_of_ready hready]
  change execWaitCancelAnswer s = _
  simp only [execWaitCancelAnswer, hk, ha, hw, hs, Bool.not_true, Bool.false_eq_true, ↓reduceIte]

/-- The access had been performed: it goes on. -/
theorem execWaitCancelAnswer_performed {id : Nat} {i : SlotId} (hk : s.packet s.ev.id = some (.cancelled id i false)) :
    exec .waitCancelAnswer s = .next (s.dropPacket s.ev.id) := by
  change execWaitCancelAnswer s = _
  simp only [execWaitCancelAnswer, hk]
  cases s.access id <;> rfl

/-- Settles O19: the expiry of a park at the core and of a wait at a home, and the two answers of the home. -/
theorem waitLimits : Obligations.WaitLimits := by
  unfold Obligations.WaitLimits
  intro s id a i sub w
  refine ⟨fun he hp hs => ⟨fun ha hw => execWaitLimitExpiry_atCore he hp rfl hs ha hw,
      fun ha hacc hst hn => ⟨_, execWaitLimitExpiry_atHome he hp rfl ha hacc hst hn, rfl, rfl, rfl⟩⟩,
    fun hk hacc hw hs => execWaitCancelAnswer_withdrawn hk hacc hw hs, fun hk => execWaitCancelAnswer_performed hk⟩

end Sys2Proof.Machine
end

section
/-!
SUPPORT. The walk of a thread's access (04 R137; 15 R394 to R397): it sends the access home, fails it at once, or holds it with a
message to the fault core.
-/

namespace Sys2Proof.Machine

variable {s : State} {a : Access} {i : SlotId} {inc : Byte}

/-! Holding -/

theorem DieSt.freeHeld_empty {x : DieSt} (h : x.held = []) : x.freeHeld = some 0 := by
  simp only [DieSt.freeHeld, h, List.any_nil, Bool.not_false, List.find?_map]
  rfl

/-- The first fault that a die holds takes entry 0, at its next generation, and one message tells of it (R394). -/
theorem State.hold_first {d : Die} (hen : (s.die d).xfEn = true) (hh : (s.die d).held = []) (who : HeldWho) (cause sub : Byte)
    (f : FaultInfo) :
    let x := s.die d
    let gen := tblGet 0 0 x.gens + 1
    s.hold d who false cause sub f = .held ((s.setDie d { x with
      held := [{ fid := 0, gen, who, cause, sub, va := f.addr }], gens := tblSet 0 0 gen x.gens
      finders := x.finders.filter (· != who) }).send
        (.mail (engineMail d faultUnit d x.xfCore x.xfBox (heldWords d x f cause sub 0 gen) .d))) := by
  intro x gen
  have hgo : (!(s.die d).xfEn || false) = false := by simp [hen]
  have hfid : (((s.die d).held.find? (·.who == who)).map (·.fid) |>.orElse fun _ => (s.die d).freeHeld) = some 0 := by
    rw [DieSt.freeHeld_empty hh, hh]; rfl
  have hrest : (s.die d).held.filter (·.fid != 0) = [] := by rw [hh]; rfl
  simp only [State.hold, hgo, hfid, hrest, Bool.false_eq_true, ↓reduceIte]
  rfl

/-- While XFDST.EN is 0, and for an exempt agent, nothing is held (R394). -/
theorem State.hold_now {d : Die} {exempt : Bool} (h : (s.die d).xfEn = false ∨ exempt = true) (who : HeldWho) (cause sub : Byte)
    (f : FaultInfo) : s.hold d who exempt cause sub f = .failNow (s.unhold d who) := by
  have hnow : (!(s.die d).xfEn || exempt) = true := by obtain h | h := h <;> simp [h]
  simp only [State.hold, hnow, ↓reduceIte]

/-! The slot issues on -/

/-- Detaching changes the access and its slot (R395). -/
theorem State.detach_only (s : State) (a : Access) : ∃ l k, s.detach a = { s with accs := l, slots := k } := by
  simp only [State.detach]
  split
  · split
    · exact ⟨_, _, rfl⟩
    · exact ⟨s.accs, s.slots, rfl⟩
  · exact ⟨s.accs, s.slots, rfl⟩

@[simp] theorem State.detach_mem (s : State) (a : Access) : (s.detach a).mem = s.mem := by
  obtain ⟨l, k, h⟩ := s.detach_only a
  exact h ▸ rfl
@[simp] theorem State.detach_net (s : State) (a : Access) : (s.detach a).net = s.net := by
  obtain ⟨l, k, h⟩ := s.detach_only a
  exact h ▸ rfl
@[simp] theorem State.detach_die (s : State) (a : Access) (d : Die) : (s.detach a).die d = s.die d := by
  obtain ⟨l, k, h⟩ := s.detach_only a
  exact h ▸ rfl

theorem State.detach_awaited (hi : a.agent = .slot i inc) (hinc : (s.slot i).inc = inc) (hw : (s.slot i).await = .access a.id) :
    s.detach a = (s.modAccess a.id fun b => { b with detached := true }).wakeNext i := by
  simp only [State.detach, hi, hinc, hw, beq_self_eq_true, Bool.and_self, ↓reduceIte]

theorem State.detach_unawaited (hi : a.agent = .slot i inc) (hw : (s.slot i).await ≠ .access a.id) : s.detach a = s := by
  simp only [State.detach, hi, beq_eq_false_iff_ne.2 hw, Bool.and_false, Bool.false_eq_true, ↓reduceIte]

/-- A detached access keeps its stage, its operation and its address. -/
theorem State.detach_access {b : Access} (hb : s.access a.id = some b) :
    ∃ c, (s.detach a).access a.id = some c ∧ c.stage = b.stage ∧ c.op = b.op ∧ c.va = b.va := by
  have hmod := s.access_modAccess_self a.id (fun b => { b with detached := true }) fun _ => rfl
  simp only [State.detach]
  split
  · split
    · exact ⟨_, hmod.trans (congrArg _ hb), rfl, rfl, rfl⟩
    · exact ⟨b, hb, rfl, rfl, rfl⟩
  · exact ⟨b, hb, rfl, rfl, rfl⟩

/-- The message that tells of a thread's held access, the first that its die holds (Table 15-2). -/
def heldMail (s : State) (a : Access) (i : SlotId) (cause sub : Byte) (addr : Word) : Mail :=
  let x := s.die i.die
  engineMail i.die faultUnit i.die x.xfCore x.xfBox
    (heldWords i.die x (s.slotFault i 0 (opNeed a.op) addr a.pc) cause sub 0 (tblGet 0 0 x.gens + 1)) .d

/-- The state in which the fault of an access stands in entry 0 of the die's table, and its message is on its way. -/
def State.heldFirst (s : State) (a : Access) (i : SlotId) (cause sub : Byte) (addr : Word) : State :=
  let x := s.die i.die
  let gen := tblGet 0 0 x.gens + 1
  (s.setDie i.die { x with
    held := [{ fid := 0, gen, who := .access a.id, cause, sub, va := addr }], gens := tblSet 0 0 gen x.gens
    finders := x.finders.filter (· != .access a.id) }).send (.mail (heldMail s a i cause sub addr))

section

variable (s a i) (cause sub : Byte) (addr : Word)

theorem heldMail_words : (heldMail s a i cause sub addr).words.length = 6
    ∧ (heldMail s a i cause sub addr).words.getD 1 0 = addr ∧ (heldMail s a i cause sub addr).words.getD 3 0 = a.pc :=
  ⟨rfl, rfl, rfl⟩

@[simp] theorem State.heldFirst_access (n : Nat) : (s.heldFirst a i cause sub addr).access n = s.access n := rfl
@[simp] theorem State.heldFirst_mem : (s.heldFirst a i cause sub addr).mem = s.mem := rfl
@[simp] theorem State.heldFirst_slots : (s.heldFirst a i cause sub addr).slots = s.slots := rfl
@[simp] theorem State.heldFirst_slot (j : SlotId) : (s.heldFirst a i cause sub addr).slot j = s.slot j := rfl
theorem State.heldFirst_net : (s.heldFirst a i cause sub addr).net
    = s.net ++ [{ id := s.nextId, packet := .mail (heldMail s a i cause sub addr) }] := rfl
theorem State.heldFirst_held : ((s.heldFirst a i cause sub addr).die i.die).held
    = [{ fid := 0, gen := tblGet 0 0 (s.die i.die).gens + 1, who := .access a.id, cause, sub, va := addr }] := by
  simp only [State.heldFirst, State.send_die, State.setDie_self]

end

/-! PAGE_WALK -/

section

variable (ha : s.access s.ev.id = some a) (hi : a.agent = .slot i inc) (hst : a.stage = .walk)
include hi hst

/-- The walk of a thread's access begins. -/
theorem execPageWalk_begins : (a.stage != .walk || s.finderBlocked a) = false := by
  simp only [hst, State.finderBlocked, hi, bne_self_eq_false, Bool.or_self]

include ha

theorem execPageWalk_found {pa : Nat} {key : Byte} {t : State} (hr : s.accessReach a = .ok pa key t)
    (hb : a.op.isBarrier = false ∨ paDie pa = i.die) : exec .pageWalk s =
      .next ((t.unhold i.die (.access a.id)).modAccess a.id fun b => { b with stage := .home, pa, key }) := by
  have hhere : (a.op.isBarrier && paDie pa != i.die) = false := by obtain h | h := hb <;> simp [h]
  have hbegins := execPageWalk_begins (s := s) hi hst
  change execPageWalk s = _
  simp only [execPageWalk, ha, hbegins, hr, State.toHome, Access.die, hi, hhere, Bool.false_eq_true, ↓reduceIte]

theorem execPageWalk_notReady (hr : s.accessReach a = .notReady) : exec .pageWalk s = .next s := by
  have hbegins := execPageWalk_begins (s := s) hi hst
  change execPageWalk s = _
  simp only [execPageWalk, ha, hbegins, hr, Bool.false_eq_true, ↓reduceIte]

variable {cause sub : Byte} {addr : Word} (hr : s.accessReach a = .fault cause sub addr)
include hr

theorem execPageWalk_fails (hinc : (s.slot i).inc = inc) (hnow : (s.die i.die).xfEn = false ∨ s.exempt i = true)
    (hrun : (s.slot i).state ≠ .trapped) : exec .pageWalk s =
      .next (((s.unhold i.die (.access a.id)).markFailed a.id).modSlot i fun x =>
        { x with fails := x.fails ++ [⟨cause, sub, addr, a.pc⟩] }) := by
  have hbegins := execPageWalk_begins (s := s) hi hst
  change execPageWalk s = _
  simp only [execPageWalk, ha, hbegins, hr, State.holdAccess, hi, State.hold_now hnow, State.failAccess, State.unhold_slot, hinc,
    bne_self_eq_false, beq_eq_false_iff_ne.2 hrun, Bool.false_eq_true, ↓reduceIte, State.failSlot]

theorem execPageWalk_holds (hen : (s.die i.die).xfEn = true) (hx : s.exempt i = false) (hh : (s.die i.die).held = []) :
    exec .pageWalk s = .next (((s.heldFirst a i cause sub addr).modAccess a.id fun b => { b with stage := .held }).detach a) := by
  have hbegins := execPageWalk_begins (s := s) hi hst
  change execPageWalk s = _
  simp only [execPageWalk, ha, hbegins, hr, State.holdAccess, hi, hx, State.hold_first hen hh, Bool.false_eq_true, ↓reduceIte]
  rfl

end

end Sys2Proof.Machine
end

section
/-!
SUPPORT. The completion of a thread's access (04 R118; 07 R202, R231; 09 R290; 15 R405): its result, its acquire, and the slot
that waited for it.
-/

namespace Sys2Proof.Machine

variable {s : State} {a : Access} {i : SlotId} {inc : Byte}

/-! What a completion does -/

/-- A result leaves the slot's state and what it waits for. -/
theorem State.writeReg_slot_waits (s : State) (i : SlotId) (r : Reg) (v : Word) :
    ((s.writeReg i r v).slot i).state = (s.slot i).state ∧ ((s.writeReg i r v).slot i).await = (s.slot i).await := by
  simp only [State.writeReg]
  repeat' split
  all_goals simp

/-- What follows the result of an access: its acquire, and its slot where that waited for it. -/
def State.goOn (s : State) (i : SlotId) (a : Access) (ok : Bool) : State :=
  let s := if a.acq && ok && (atLeastC a.scope || a.host) then s.dropL1d i.die i.core else s
  let s :=
    if (s.slot i).await == .access a.id && (s.slot i).state != .trapped then
      let s := if a.detached then s else s.modSlot i fun x => { x with pc := x.pc + 4 }
      s.wake i
    else s
  s.dropAccess a.id

theorem State.completeSlot_result (hinc : (s.slot i).inc = inc)
    (hop : (∃ lo, a.op = .load lo) ∨ a.op = .fe .lde ∨ a.op = .fe .take) (v : Word) (ok : Bool) :
    s.completeSlot i inc a v ok = (s.writeReg i a.dst v).goOn i a ok := by
  obtain ⟨lo, hop⟩ | hop | hop := hop <;>
    simp only [State.completeSlot, hinc, hop, bne_self_eq_false, Bool.false_eq_true, ↓reduceIte] <;> rfl

theorem State.completeSlot_phase (hinc : (s.slot i).inc = inc) (hop : a.op = .waitPhase) (v : Word) (ok : Bool) :
    s.completeSlot i inc a v ok = s.goOn i a ok := by
  simp only [State.completeSlot, hinc, hop, bne_self_eq_false, Bool.false_eq_true, ↓reduceIte]
  rfl

theorem State.goOn_unawaited (hacq : a.acq = false) (hw : (s.slot i).await ≠ .access a.id) (ok : Bool) :
    s.goOn i a ok = s.dropAccess a.id := by
  simp only [State.goOn, hacq, Bool.false_and, Bool.false_eq_true, ↓reduceIte, beq_eq_false_iff_ne.2 hw]

/-- The acquire of an access at c or wider, or that observed a host's fill, empties the L1D (R44, R124). -/
def State.acquiredBy (s : State) (i : SlotId) (a : Access) : State :=
  if a.scope = .s ∧ a.host = false then s else s.modCore i.die i.core fun c => { c with l1d := [] }

@[simp] theorem State.acquiredBy_slot (s : State) (i j : SlotId) (a : Access) : (s.acquiredBy i a).slot j = s.slot j := by
  simp only [State.acquiredBy]; split <;> rfl

/-- A thread that waited for its acquire goes on behind the instruction. -/
theorem State.goOn_acquires (hacq : a.acq = true) (hd : a.detached = false) (hw : (s.slot i).await = .access a.id)
    (hst : (s.slot i).state ≠ .trapped) : s.goOn i a true = (((s.acquiredBy i a).modSlot i fun x =>
      { x with pc := x.pc + 4 }).wake i).dropAccess a.id := by
  have hdrop : (if a.acq && true && (atLeastC a.scope || a.host) then s.dropL1d i.die i.core else s) = s.acquiredBy i a := by
    simp only [hacq, State.acquiredBy, State.dropL1d, atLeastC, Bool.and_self, Bool.true_and]
    by_cases hs : a.scope = .s <;> cases a.host <;> simp [hs]
  have hgoes : (((s.acquiredBy i a).slot i).await == .access a.id && ((s.acquiredBy i a).slot i).state != .trapped) = true := by
    rw [State.acquiredBy_slot, hw, beq_self_eq_true, bne_iff_ne.2 hst]; rfl
  simp only [State.goOn, hdrop, hgoes, hd, Bool.false_eq_true, ↓reduceIte]

theorem State.phaseSettled_of_other (h : a.op.waitsPhase = false) (v : Word) : s.phaseSettled a v = true := by
  simp only [State.phaseSettled, h, Bool.not_false, Bool.true_or]
  split <;> rfl

/-! ACCESS_RESULT and REMOTE_FE_COMPLETION -/

theorem execAccessResult_slot (ha : s.access s.ev.id = some a) (hi : a.agent = .slot i inc) (hst : a.stage = .done)
    (hc : s.completionSent a.id = false) (hp : s.phaseSettled a a.result = true) :
    exec .accessResult s = .next (s.completeSlot i inc a a.result a.ok) := by
  change execAccessResult s = _
  simp only [execAccessResult, ha, hi, hst, hc, hp, bne_self_eq_false, Bool.not_true, Bool.or_self, Bool.false_eq_true, ↓reduceIte]

theorem execRemoteFeCompletion_slot (hk : s.packet s.ev.id = some (.feDone a.id)) (ha : s.access a.id = some a)
    (hi : a.agent = .slot i inc) (hp : s.phaseSettled a a.result = true) :
    exec .remoteFeCompletion s = .next ((s.dropPacket s.ev.id).completeSlot i inc a a.result a.ok) := by
  change execRemoteFeCompletion s = _
  simp only [execRemoteFeCompletion, hk, ha, hi, hp, ↓reduceIte]

/-! The reed -/

/-- The chain of a node begins with the node. -/
theorem State.reedChain_head (s : State) (k : Nat) (n : ReedNode) : (s.reedChain k n).head? = some n := by
  cases k <;> rfl

/-- What stands before an entry of a list, from its end on, ends with the head of the list, or the entry is the head. -/
theorem getLast?_append_takeWhile_reverse {α : Type} [DecidableEq α] {l : List α} {b : α} (h : l.head? = some b) (n : α) :
    (n :: (l.takeWhile (· != n)).reverse).getLast? = some b := by
  cases l with
  | nil => cases h
  | cons c r =>
    obtain rfl : c = b := Option.some.inj h
    by_cases hc : c = n
    · simp [hc]
    · rw [List.takeWhile_cons, if_pos (bne_iff_ne.2 hc), List.reverse_cons, ← List.cons_append, List.getLast?_concat]

/-- The way to a node ends there. -/
theorem State.reedPath_getLastD (s : State) (a b c : ReedNode) : (s.reedPath a b).getLastD c = b := by
  simp only [State.reedPath]
  split
  next n hn =>
    have hlast := getLast?_append_takeWhile_reverse (s.reedChain_head 68 b) n
    generalize ((s.reedChain 68 b).takeWhile (· != n)).reverse = down at hlast
    generalize (s.reedChain 68 a).takeWhile (· != n) = up
    split
    · rfl
    next hne =>
      have hall : (up ++ [n] ++ down).getLast? = some b := by
        rw [List.append_assoc, List.getLast?_append, List.singleton_append, hlast]; rfl
      rw [List.getLastD_eq_getLast?, List.getLast?_drop, if_neg ?_, hall]
      · rfl
      · exact fun hshort => hne (List.drop_eq_nil_of_le hshort)
  next => rfl

end Sys2Proof.Machine
end

section
/-!
SUPPORT. Barrier waits on the reed, polling, and the completion of a graph node's access (09 R290; 15 R405; 07 R229, R232; 08 R252).
-/

namespace Sys2Proof.Machine

variable {s : State} {a : Access} {i : SlotId} {inc : Byte} {q : ReedItem}

/-- A wake-up reaches the thread that waits for a phase. -/
theorem execRemoteArrival_back (hq : s.reedItem s.ev.id = some q) (hr : s.reedReady q = true)
    (hm : q.msg = .barrier a.id true) (ha : s.access a.id = some a) (hi : a.agent = .slot i inc)
    (hp : s.phaseSettled a a.result = true) :
    exec .remoteArrival s = .next ((s.dropReed q.id).completeSlot i inc a a.result a.ok) := by
  change execRemoteArrival s = _
  simp only [execRemoteArrival, hq, hm, hr, ha, hi, hp, Bool.not_true, Bool.false_eq_true, ↓reduceIte]

/-- A wait for a phase that is complete is done at the home of its object. -/
theorem State.performAccess_phase (hop : a.op = .waitPhase) (hp : s.objectPoisoned a.pa = false)
    (hd : phaseDone (s.phaseOf a.key a.pa) (a.data.extractLsb' 0 32) = true) :
    s.performAccess a = s.doneAt a a.data true := by
  simp only [State.performAccess, hop, State.atHome, State.phaseAtHome, hp, hd, State.settleAccess, Bool.false_eq_true, ↓reduceIte]

/-- A wait that is done at its home is told to its thread over the reed (R290). -/
theorem execRemoteArrival_done (hq : s.reedItem s.ev.id = some q) (hr : s.reedReady q = true)
    (hm : q.msg = .barrier a.id false) (ha : s.access a.id = some a) (hi : a.agent = .slot i inc) (hop : a.op = .waitPhase)
    (hmay : s.mayPerform a = true) (hu : s.unitTakes a = true) (hp : s.objectPoisoned a.pa = false)
    (hd : phaseDone (s.phaseOf a.key a.pa) (a.data.extractLsb' 0 32) = true) :
    exec .remoteArrival s = .next (((s.dropReed q.id).doneAt a a.data true).sendReed (.die (paDie a.pa)) (.core i.die i.core)
      (.barrier a.id true)) := by
  have hperf : (s.dropReed q.id).performAccess a = (s.dropReed q.id).doneAt a a.data true :=
    State.performAccess_phase hop hp hd
  have hacc := State.doneAt_access (s.dropReed q.id) (b := a) ha a.data true
  change execRemoteArrival s = _
  simp only [execRemoteArrival, hq, hm, hr, ha, hi, hmay, hu, hperf, hacc, Bool.not_true, Bool.or_self, Bool.false_eq_true,
    beq_self_eq_true, ↓reduceIte]

/-- A polling operation tries again after 256 mclk, not before. -/
theorem execPollingParkRetry_early (ha : s.access s.ev.id = some a) (ht : (s.aclk - a.since).toNat < 217) :
    exec .pollingParkRetry s = .next s := by
  change execPollingParkRetry s = _
  simp only [execPollingParkRetry, ha, pollingPeriod, ht, decide_true, Bool.or_true, ↓reduceIte]

theorem execPollingParkRetry_due (ha : s.access s.ev.id = some a) (hst : a.stage = .polling)
    (ht : 217 ≤ (s.aclk - a.since).toNat) :
    exec .pollingParkRetry s = .next (s.settleAccess a ((s.noteHost a.id a.pa).atHome a)) := by
  change execPollingParkRetry s = _
  simp only [execPollingParkRetry, ha, hst, pollingPeriod, Nat.not_lt.2 ht, bne_self_eq_false, decide_false, Bool.or_self,
    Bool.false_eq_true, ↓reduceIte]

/-- The tokens of a node's performed access go to its targets; none of an earlier firing is outstanding. -/
theorem execMemoryNodeCompletion_delivers {d : Die} {h : ShedNo} {n : BitVec 6} {c : BitVec 2} {t u : Target}
    (ha : s.access s.ev.id = some a) (hi : a.agent = .node d h n c) (hst : a.stage = .done)
    (hs : (s.shed d h).stopped n.toNat = false) (hf : (s.shed d h).fires = true)
    (ht : target ((tblGet 0 n.toNat (s.shed d h).words).extractLsb' 9 9) = some t)
    (hu : target ((tblGet 0 n.toNat (s.shed d h).words).extractLsb' 0 9) = some u)
    (he : earlier (s.deliversBefore d h · a) a s.accs = []) :
    exec .memoryNodeCompletion s = .next ((s.dropAccess a.id).emit d h n.toNat (completionTokens a c t u)) := by
  change execMemoryNodeCompletion s = _
  simp only [execMemoryNodeCompletion, ha, hi, hst, he, hs, hf, ht, hu, bne_self_eq_false, List.isEmpty_nil, Bool.not_true,
    Bool.or_self, Bool.false_eq_true, ↓reduceIte]

end Sys2Proof.Machine
end

section
/-!
SUPPORT. The obligation on translation and completion of accesses (04 R118, R137; 15 R394 to R405).
-/

namespace Sys2Proof.Machine

/-- What is claimed of a held access: entry 0 of the table names it at its next generation, a message of LEN 6 goes to the fault
core, and a slot that waited for the access goes on behind its instruction. -/
theorem heldFirst_holds {s : State} {a : Access} {i : SlotId} {inc : Byte} (cause sub : Byte) (addr : Word)
    (ha : s.access s.ev.id = some a) (hi : a.agent = .slot i inc) (hinc : (s.slot i).inc = inc) :
    let u := ((s.heldFirst a i cause sub addr).modAccess a.id fun b => { b with stage := .held }).detach a
    ∃ b m, u.access s.ev.id = some b ∧ b.stage = .held ∧ b.op = a.op ∧ b.va = a.va
      ∧ (u.die i.die).held = [{ fid := 0, gen := tblGet 0 0 (s.die i.die).gens + 1, who := .access a.id, cause, sub, va := addr }]
      ∧ u.net = s.net ++ [{ id := s.nextId, packet := .mail m }] ∧ m.core = (s.die i.die).xfCore
      ∧ m.box = (s.die i.die).xfBox ∧ m.words.length = 6 ∧ m.words.getD 1 0 = addr ∧ m.words.getD 3 0 = a.pc
      ∧ u.mem = s.mem
      ∧ ((s.slot i).await ≠ .access a.id → u.slots = s.slots)
      ∧ ((s.slot i).await = .access a.id → (u.slot i).pc = (s.slot i).pc + 4 ∧ (u.slot i).state = .ready) := by
  intro u
  let t := (s.heldFirst a i cause sub addr).modAccess a.id fun b => { b with stage := .held }
  have hmod := (s.heldFirst a i cause sub addr).access_modAccess_self a.id (fun b => { b with stage := .held }) fun _ => rfl
  have hacc : t.access a.id = some { a with stage := .held } := by
    rw [hmod, State.heldFirst_access, s.access_own ha]
    rfl
  have hslot : t.slot i = s.slot i := by rw [State.modAccess_slot, State.heldFirst_slot]
  have hu : u = t.detach a := rfl
  obtain ⟨b, hb, hstage, hop, hva⟩ := t.detach_access hacc
  obtain ⟨hlen, haddr, hpc⟩ := heldMail_words s a i cause sub addr
  refine ⟨b, heldMail s a i cause sub addr, s.access_id ha ▸ hb, hstage, hop, hva, ?_, ?_, rfl, rfl, hlen, haddr, hpc, ?_,
    fun hw => ?_, fun hw => ?_⟩
  · rw [hu, State.detach_die, State.modAccess_die, State.heldFirst_held]
  · rw [hu, State.detach_net, State.modAccess_net, State.heldFirst_net]
  · rw [hu, State.detach_mem, State.modAccess_mem, State.heldFirst_mem]
  · rw [hu, State.detach_unawaited hi (by rw [hslot]; exact hw), State.modAccess_slots, State.heldFirst_slots]
  · rw [hu, State.detach_awaited hi (by rw [hslot]; exact hinc) (by rw [hslot]; exact hw)]
    obtain ⟨hnext, hready, -⟩ := (t.modAccess a.id fun b => { b with detached := true }).wakeNext_slot i
    rw [State.modAccess_slot, hslot] at hnext
    exact ⟨hnext, hready⟩

/-- Settles O29: the walk by its outcome; the completions of a thread's access at its core, by message, by the reed and by
polling; and those of a graph node's access. -/
theorem accessesTranslateAndComplete : Obligations.AccessesTranslateAndComplete := by
  unfold Obligations.AccessesTranslateAndComplete
  refine ⟨?walk, ?thread, ?node⟩
  case walk =>
    intro s a i inc pa key t cause sub addr ha hi hst
    refine ⟨fun hr hb => execPageWalk_found ha hi hst hr hb, fun hr => execPageWalk_notReady ha hi hst hr,
      fun hr hinc => ⟨fun hnow hrun => execPageWalk_fails ha hi hst hr hinc hnow hrun, fun hen hx hh => ?_⟩⟩
    exact ⟨_, (heldFirst_holds cause sub addr ha hi hinc).imp fun b ⟨m, h⟩ => ⟨m, execPageWalk_holds ha hi hst hr hen hx hh, h⟩⟩
  case thread =>
    intro s a i inc lo q after noL1d hi hinc hok hdet
    have hresume (t : State) (hacq : a.acq = true) (hw : (t.slot i).await = .access a.id) (hrun : (t.slot i).state ≠ .trapped) :
        t.goOn i a a.ok = (after (noL1d t)).dropAccess a.id := by
      rw [hok]; exact State.goOn_acquires hacq hdet hw hrun
    have hwritten (t : State) (hsl : t.slot i = s.slot i) (hacq : a.acq = true) (hw : (s.slot i).await = .access a.id)
        (hrun : (s.slot i).state ≠ .trapped) :
        (t.writeReg i a.dst a.result).goOn i a a.ok = (after (noL1d (t.writeReg i a.dst a.result))).dropAccess a.id := by
      obtain ⟨hstate, hawait⟩ := t.writeReg_slot_waits i a.dst a.result
      exact hresume _ hacq (by rw [hawait, hsl]; exact hw) (by rw [hstate, hsl]; exact hrun)
    have hfe (hop : a.op = .fe .lde ∨ a.op = .fe .take) : a.op.waitsPhase = false := by
      obtain h | h := hop <;> rw [h] <;> rfl
    refine ⟨fun ha hst hc => ⟨fun hop hacq hw => ?_, fun hop hacq hw hrun => ?_⟩, fun hk ha hop hacq hw hrun => ?_,
      fun hq hr ha hop hacq => ⟨fun hm hp hw hrun => ?_, fun hm hmay hu hp hd => ?_⟩, fun ha hst => ⟨fun ht => ?_, fun ht hop ho hp hf => ?_⟩⟩
    · rw [execAccessResult_slot ha hi hst hc (State.phaseSettled_of_other (by rw [hop]; rfl) _),
        State.completeSlot_result hinc (.inl ⟨lo, hop⟩), State.goOn_unawaited hacq]
      rw [(s.writeReg_slot_waits i a.dst a.result).2]
      exact hw
    · rw [execAccessResult_slot ha hi hst hc (State.phaseSettled_of_other (hfe hop) _),
        State.completeSlot_result hinc (.inr hop), hwritten s rfl hacq hw hrun]
    · rw [execRemoteFeCompletion_slot hk ha hi (State.phaseSettled_of_other (hfe hop) _),
        State.completeSlot_result (s := s.dropPacket s.ev.id) hinc (.inr hop), hwritten (s.dropPacket s.ev.id) rfl hacq hw hrun]
    · rw [execRemoteArrival_back hq hr hm ha hi hp, State.completeSlot_phase (s := s.dropReed q.id) hinc hop,
        hresume (s.dropReed q.id) hacq hw hrun]
    · refine ⟨_, { a with stage := .done, result := a.data, ok := true }, _,
        execRemoteArrival_done hq hr hm ha hi hop hmay hu hp hd, State.doneAt_access (s.dropReed q.id) (b := a) ha a.data true, rfl,
        List.mem_append_right _ List.mem_cons_self, rfl, State.reedPath_getLastD ..,
        State.doneAt_mem (s.dropReed q.id) a a.data true⟩
    · exact execPollingParkRetry_early ha ht
    · obtain ⟨l, hnote⟩ := s.noteHost_only a.id a.pa
      obtain ⟨b, hb⟩ := State.noteHost_entry a.pa (s.access_own ha)
      have hread : (s.noteHost a.id a.pa).atHome a = .done (s.readHome a.key a.pa 8) true (s.noteHost a.id a.pa) := by
        rw [State.atHome_fe hop, hnote]
        exact State.feAtHome_read (s := { s with accs := l }) ho hp (.inl rfl) hf
      refine ⟨_, { b with stage := .done, result := s.readHome a.key a.pa 8, ok := true }, execPollingParkRetry_due ha hst ht, ?_, rfl,
        rfl, ?_, ?_⟩ <;> rw [hread, State.settleAccess]
      · exact s.access_id ha ▸ State.doneAt_access _ hb _ true
      · rw [State.doneAt_mem, hnote]
      · rw [State.doneAt_full, hnote]
  case node =>
    intro s a d h n c t u lo so x w ha hi hst hs hf ht hu he gives
    have hgives := execMemoryNodeCompletion_delivers ha hi hst hs hf ht hu he
    have htok : (if a.ok then dataTok c a.result else dataTok c 0) = dataTok c (if a.ok then a.result else 0) :=
      (apply_ite (dataTok c) ..).symm
    refine ⟨fun hop => ?_, fun hop => ?_, fun hop => ?_⟩ <;> simpa only [completionTokens, hop, htok] using hgives

end Sys2Proof.Machine
end

section
/-!
FACTS. A read stream whose next element faults (04 R127, 15 R397): it stops as item `portItem p` of its shed.
-/

namespace Sys2Proof.Machine

@[simp] theorem State.notify_shed (s : State) (d e : Die) (b : Nat) (h : ShedNo) : (s.notify d b).shed e h = s.shed e h := by
  obtain ⟨t, l, hs⟩ := s.notify_eq d b
  exact hs ▸ rfl

/-- What a feeder fault stops is the item named, in addition to what has stopped before. -/
theorem State.feederFault_stops (s : State) (d : Die) (h : ShedNo) (item fp : Nat) (cause : Byte) :
    ((s.feederFault d h item fp cause).shed d h).stops = setAdd item (s.shed d h).stops := by
  simp only [State.feederFault, State.countNotify, State.count, State.modLog, errsumBit, State.notify_shed, State.modShed_self]

/-- A read stream that has room and no token to inject reads its next element. -/
theorem State.readTurn_reads {s : State} {d : Die} {h : ShedNo} {p : Nat}
    (hinj : (s.shed d h).injects = true) (hrun : ((s.shed d h).stream p).running = true)
    (hempty : ((s.shed d h).stream p).inject = []) (hended : ((s.shed d h).stream p).ended = false)
    (hroom : ((s.shed d h).portSt p).fifo.length < ((s.shed d h).port p).depth)
    (hctx : (s.shed d h).ctxAt ((s.shed d h).stream p).ctx.toNat = .active)
    (hindex : ((s.shed d h).stream p).needsIndex = false) : s.readTurn d h p = s.readElement d h p := by
  have hat : (s.shed d h).injectsAt p = true := by simp [ShedSt.injectsAt, hinj, hrun, hctx]
  simp [State.readTurn, hat, hempty, hended, hroom, hctx, hindex]

/-- A read stream that nothing holds takes its turn. -/
theorem execStreamElement_reads {s : State} (hp : s.ev.unit < 8)
    (hstop : (s.shed s.ev.die s.ev.shed).streamStopped s.ev.unit = false)
    (hheld : s.heldWaits s.ev.die (.stream s.ev.die s.ev.shed s.ev.unit) = false)
    (hbusy : s.feederBusy s.ev.die s.ev.shed (.stream s.ev.die s.ev.shed s.ev.unit) = false)
    (hdesc : ((s.shed s.ev.die s.ev.shed).stream s.ev.unit).desc ≠ [])
    (hreads : Descriptor.writes ((s.shed s.ev.die s.ev.shed).stream s.ev.unit).desc = false) :
    exec .streamElement s = .next (s.readTurn s.ev.die s.ev.shed s.ev.unit) := by
  change execStreamElement s = _
  simp [execStreamElement, hstop, hheld, hbusy, hdesc, hreads, hp]

/-- An element that is misaligned or out of range stops the stream, by the item of its port (`portItem`). -/
theorem State.readElement_fault {s : State} {d : Die} {h : ShedNo} {p : Nat} {cause : Byte}
    (hfault : elementFault ((s.shed d h).stream p).desc (Descriptor.offset ((s.shed d h).stream p).desc ((s.shed d h).stream p).pos
      ((s.shed d h).stream p).index) = some cause) :
    s.readElement d h p = s.feederFault d h (portItem p) p cause := by
  simp only [State.readElement, hfault]

/-- A shed whose port 0 feeds the elements of a read stream of eight-byte elements, based at the misaligned 0x1004. -/
def misalignedStream : State :=
  { turn := .slot ⟨0, 0, 0⟩, cur := ⟨0, 0, 0⟩
    sheds := [(0, { state := .running, cfg := [(0, { en := true, free := true, depth := 8 })]
                    streams := [(0, { desc := [0x1004, 3, 16, 0, 1, 0, 0, 0], running := true })] })] }

/-- The stream of `misalignedStream` stops with MISALIGN, and the item that has stopped is 66. -/
theorem exec_misalignedStream : exec .streamElement misalignedStream = .next (misalignedStream.feederFault 0 0 66 0 0x20) :=
  (execStreamElement_reads (by decide) rfl rfl rfl (by decide) rfl).trans
    (congrArg Host.Outcome.next ((State.readTurn_reads rfl rfl rfl rfl (by decide) rfl rfl).trans (State.readElement_fault (by decide))))

/-- Refutes O46: a stream whose element faults stops as item `66 + p` of its shed (`portItem`; 16 Table 16-3), while the
statement names the item `82 + p`; the misaligned stream of port 0 stops item 66 and not 82. -/
theorem not_streamsMoveElements : ¬ Obligations.StreamsMoveElements := by
  unfold Obligations.StreamsMoveElements
  intro hall
  obtain ⟨-, hread, -⟩ := hall misalignedStream [] misalignedStream (dataTok 0 0) [] 0 0 0 0 []
  obtain ⟨hfault, -⟩ := hread ⟨by decide, rfl, rfl, rfl, by decide, rfl, rfl⟩ rfl rfl rfl rfl (by decide) rfl
  have hclaim := Host.Outcome.next.inj (exec_misalignedStream.symm.trans (hfault 0x20 (by decide)))
  have hstops := congrArg (fun t : State => (t.shed 0 0).stops) hclaim
  refine absurd ((State.feederFault_stops ..).symm.trans (hstops.trans (State.feederFault_stops ..))) ?_
  decide

end Sys2Proof.Machine
end

section
/-!
FACTS. The start of a hart's copy (04 R129, 15 R400): when the hart reads the template of its next kick, and what becomes of
the kick whose template it has read.
-/

namespace Sys2Proof.Machine

variable {s t : State} {d : Die} {n : HartNo} {k : Kick} {ks : List Kick}

/-- A hart that runs a copy starts no other. -/
theorem execCopyStart_running (hrun : (s.hart s.ev.die (BitVec.ofNat 6 s.ev.unit)).running ≠ none) :
    exec .copyStart s = .next s := by
  change execCopyStart s = _
  obtain ⟨k, hk⟩ := Option.ne_none_iff_exists'.mp hrun
  simp only [execCopyStart, hk]

/-- A hart without a kick starts nothing. -/
theorem execCopyStart_idle (hqueue : (s.hart s.ev.die (BitVec.ofNat 6 s.ev.unit)).queue = []) : exec .copyStart s = .next s := by
  change execCopyStart s = _
  cases hrun : (s.hart s.ev.die (BitVec.ofNat 6 s.ev.unit)).running <;> simp only [execCopyStart, hqueue, hrun]

/-- What becomes of a kick that has left its queue, once its template is read: it starts, or ends with the cause found. -/
def State.beginCopy (u : State) (d : Die) (n : HartNo) (k : Kick) (w : Tmpl) : State :=
  if u.badHandle d (Template.compl w) then u.refuseCopy d n k 0 (Template.tag w) (Template.cscope w) 0x30
  else
    match u.templateFault d k w with
    | some cause => u.refuseCopy d n k (Template.compl w) (Template.tag w) (Template.cscope w) cause
    | none => u.modHart d n fun y => { y with running := some k, tmpl := w, elem := 0, pc := 0, regs := tblSet 0 1 k.tmpl [] }

theorem State.beginCopy_badHandle {w : Tmpl} (hbad : s.badHandle d (Template.compl w) = true) :
    s.beginCopy d n k w = s.refuseCopy d n k 0 (Template.tag w) (Template.cscope w) 0x30 := if_pos hbad

theorem State.beginCopy_starts {w : Tmpl} (hgood : s.badHandle d (Template.compl w) = false)
    (hfault : s.templateFault d k w = none) :
    s.beginCopy d n k w
      = s.modHart d n fun y => { y with running := some k, tmpl := w, elem := 0, pc := 0, regs := tblSet 0 1 k.tmpl [] } := by
  simp only [State.beginCopy, hgood, hfault, Bool.false_eq_true, ↓reduceIte]

theorem State.beginCopy_fault {w : Tmpl} {cause : Byte} (hgood : s.badHandle d (Template.compl w) = false)
    (hfault : s.templateFault d k w = some cause) :
    s.beginCopy d n k w = s.refuseCopy d n k (Template.compl w) (Template.tag w) (Template.cscope w) cause := by
  simp only [State.beginCopy, hgood, hfault, Bool.false_eq_true, ↓reduceIte]

/-- The panel key that a kick of a slot 15 in physical mode reads its template under (04 R133). -/
def State.kickPhys (s : State) (k : Kick) : Option Byte :=
  if k.priv && (s.kickCore k).phys then some (s.kickCore k).pkey else none

/-- The sixteen doubles of a template. -/
def templateDoubles (k : Kick) : List (Nat × Nat) := (List.range 16).map fun j => (k.tmpl.toNat + 8 * j, 8)

/-- The template in the bytes read, as the token of the kick changes it. -/
def templateOf (d : Die) (k : Kick) (bs : List Byte) : Tmpl :=
  Template.fill ((List.range 16).map fun j => wordOfBytes ((bs.drop (8 * j)).take 8)) k.tuse d k.token

/-- A hart that nothing holds reads the template of its next kick, takes the kick and begins or refuses its copy. -/
theorem execCopyStart_reads {bs : List Byte}
    (hrun : (s.hart s.ev.die (BitVec.ofNat 6 s.ev.unit)).running = none)
    (hqueue : (s.hart s.ev.die (BitVec.ofNat 6 s.ev.unit)).queue = k :: ks)
    (hheld : s.heldWaits s.ev.die (.hart s.ev.die (BitVec.ofNat 6 s.ev.unit)) = false)
    (hret : (s.hart s.ev.die (BitVec.ofNat 6 s.ev.unit)).retired = false)
    (hmeet : (s.hart s.ev.die (BitVec.ofNat 6 s.ev.unit)).mayMeet k.tmpl.toNat 128 = false)
    (hget : hartGet s.ev.die k (s.kickPhys k) (s.heldRetries s.ev.die (.hart s.ev.die (BitVec.ofNat 6 s.ev.unit)))
      (templateDoubles k) [] s = .ok (bs, t)) :
    exec .copyStart s = .next (((t.unhold s.ev.die (.hart s.ev.die (BitVec.ofNat 6 s.ev.unit))).takeKick s.ev.die
      (BitVec.ofNat 6 s.ev.unit) k).beginCopy s.ev.die (BitVec.ofNat 6 s.ev.unit) k (templateOf s.ev.die k bs)) := by
  change execCopyStart s = _
  simp only [execCopyStart, hrun, hqueue, hheld, hret, hmeet, Bool.or_false, Bool.false_eq_true, ↓reduceIte]
  rw [State.kickPhys, templateDoubles] at hget
  simp only [hget]
  rfl

end Sys2Proof.Machine
end

section
/-!
FACTS. The elements of a hart's copy (04 R130, 09 R308, 15 R401; 05 R163): writes still to be performed, the element that
is read, and where it goes.
-/

namespace Sys2Proof.Machine

variable {s t : State} {d : Die} {n : HartNo} {k : Kick} {w : Tmpl}

/-- A hart with the shipped microcode performs a step of its copy. -/
theorem execCopyElement_step (hmicro : (s.hart s.ev.die (BitVec.ofNat 6 s.ev.unit)).micro = []) :
    exec .copyElement s = .next (s.copyStep s.ev.die (BitVec.ofNat 6 s.ev.unit)) := by
  change execCopyElement s = _
  cases hrun : (s.hart s.ev.die (BitVec.ofNat 6 s.ev.unit)).running <;> simp only [execCopyElement, hmicro, hrun]

/-- A hart that runs no copy performs a write it has left. -/
theorem execCopyElement_idle (hrun : (s.hart s.ev.die (BitVec.ofNat 6 s.ev.unit)).running = none) :
    exec .copyElement s = .next (s.performPosted s.ev.die (BitVec.ofNat 6 s.ev.unit)) := by
  change execCopyElement s = _
  simp only [execCopyElement, State.copyStep, hrun]

/-- Without a write left there is none to perform. -/
theorem State.performPosted_nil (hposted : (s.hart d n).posted = []) : s.performPosted d n = s := by
  simp only [State.performPosted, hposted]

/-- The first write left leaves the list and is performed. -/
theorem State.performPosted_cons {post : PostedWrite} {posts : List PostedWrite} (hposted : (s.hart d n).posted = post :: posts) :
    s.performPosted d n
      = (s.modHart d n fun y => { y with posted := posts }).hartPut post.fills post.pa post.key post.bytes := by
  simp only [State.performPosted, hposted]

/-- A write left is performed before the next element where the event or the order of the accesses says so, and after the
copy. -/
theorem State.copyStep_flushes (hposted : (s.hart d n).posted ≠ [])
    (hflush : s.ev.val.getLsbD 0 = true ∨ (s.hart d n).running = none ∨ (s.hart d n).mustFlush = true) :
    s.copyStep d n = s.performPosted d n := by
  cases hrun : (s.hart d n).running with
  | none => simp only [State.copyStep, hrun]
  | some k =>
    have hgo : s.ev.val.getLsbD 0 = true ∨ (s.hart d n).mustFlush = true := by simpa [hrun] using hflush
    have hsome : (s.hart d n).posted.isEmpty = false := by simpa using hposted
    rcases hgo with h | h <;>
      simp only [State.copyStep, hrun, hsome, h, Bool.true_or, Bool.or_true, Bool.not_false, Bool.and_self, ↓reduceIte]

/-- A hart with no write left, or whose writes may wait, goes on with the next element. -/
theorem noFlush_of_mayWait (hkeep : (s.hart d n).posted = [] ∨ (s.ev.val.getLsbD 0 = false ∧ (s.hart d n).mustFlush = false)) :
    (!(s.hart d n).posted.isEmpty && (s.ev.val.getLsbD 0 || (s.hart d n).mustFlush)) = false := by
  rcases hkeep with h | ⟨hv, hm⟩
  · rw [h, List.isEmpty_nil, Bool.not_true, Bool.false_and]
  · rw [hv, hm, Bool.or_self, Bool.and_false]

/-- Where the data of an element goes: a bound register has no address. -/
def Kick.dest? (k : Kick) (w : Tmpl) (elem : Nat) : Option Nat := if k.bind.isSome then some 0 else Template.dest? w elem

section
variable (hrun : (s.hart d n).running = some k)
  (hkeep : (s.hart d n).posted = [] ∨ (s.ev.val.getLsbD 0 = false ∧ (s.hart d n).mustFlush = false))
  (hheld : s.heldWaits d (.hart d n) = false) (hwaits : s.copyWaits d k (s.hart d n).tmpl (s.hart d n).elem = false)
include hrun hkeep hheld hwaits

/-- An address out of range ends the copy. -/
theorem State.copyStep_outside
    (hout : Template.source? (s.hart d n).tmpl (s.hart d n).elem = none ∨ k.dest? (s.hart d n).tmpl (s.hart d n).elem = none) :
    s.copyStep d n = (s.unhold d (.hart d n)).endCopy d n 0x31 := by
  have hstay := noFlush_of_mayWait hkeep
  simp only [Kick.dest?] at hout
  simp only [State.copyStep, hrun, hstay, hheld, hwaits, Bool.or_self, Bool.false_eq_true, ↓reduceIte]
  rcases hout with h | h
  · simp only [h]
  · cases Template.source? (s.hart d n).tmpl (s.hart d n).elem <;> simp only [h]

/-- An element is read, and its data goes to its destination. -/
theorem State.copyStep_reads {bs : List Byte} {src dst : Nat}
    (hsrc : Template.source? (s.hart d n).tmpl (s.hart d n).elem = some src)
    (hdst : k.dest? (s.hart d n).tmpl (s.hart d n).elem = some dst)
    (hget : s.elementGet d k (if Template.sphys (s.hart d n).tmpl then some (Template.pkey (s.hart d n).tmpl) else none)
      (s.heldRetries d (.hart d n)) src (Template.size (s.hart d n).tmpl) = .ok (bs, t)) :
    s.copyStep d n = t.copyPut d n k (s.hart d n).tmpl (s.hart d n).elem dst bs := by
  have hstay := noFlush_of_mayWait hkeep
  simp only [Kick.dest?] at hdst
  simp only [State.copyStep, hrun, hstay, hheld, hwaits, hsrc, hdst, hget, Bool.or_self, Bool.false_eq_true, ↓reduceIte]

end

theorem Kick.dest?_bound (hbound : k.bind.isSome = true) (elem : Nat) : k.dest? w elem = some 0 := if_pos hbound

theorem Kick.dest?_free (hfree : k.bind = none) (elem : Nat) : k.dest? w elem = Template.dest? w elem := by
  simp only [Kick.dest?, hfree, Option.isSome_none, Bool.false_eq_true, ↓reduceIte]

/-! Where the data goes -/

/-- The data of a bound copy joins the items of its stream register. -/
theorem State.copyPut_bound (hbound : k.bind.isSome = true) (elem dst : Nat) (bs : List Byte) :
    s.copyPut d n k w elem dst bs = ((s.unhold d (.hart d n)).modBound k fun q =>
      { q with items := q.items ++ [wordOfBytes bs], count := q.count + 1 }).copyNext d n := if_pos hbound

/-- The data of an image load goes into its image; the first element begins the load. -/
theorem State.copyPut_image (hfree : k.bind = none) (himage : Template.image w = true) (elem dst : Nat) (bs : List Byte) :
    s.copyPut d n k w elem dst bs = ((s.unhold d (.hart d n)).modShed d (Template.shed w) fun y => y.modMacro (Template.mac w) fun z =>
      { z with loads := if elem = 0 then z.loads + 1 else z.loads,
               image := imageWrite dst (bs.take (imageBytes - dst)) z.image }).copyNext d n := by
  simp only [State.copyPut, hfree, himage, Option.isSome_none, Bool.false_eq_true, ↓reduceIte]

/-- The data of a copy to memory is written in its place, or left to be written where its completion orders nothing. -/
theorem State.copyPut_memory {t' : State} {dst : Nat} {bs : List Byte} {l : List (Nat × Byte × List Byte)}
    (hfree : k.bind = none) (himage : Template.image w = false)
    (hfind : hartFind d k (if Template.dphys w then some (Template.pkey w) else none) (s.heldRetries d (.hart d n))
      (cutBytes dst bs) [] s = .ok (l, t')) (elem : Nat) :
    s.copyPut d n k w elem dst bs =
      if Template.posts w then ((t'.unhold d (.hart d n)).postWrites d n (Template.dfe w == 1) l).copyNext d n
      else (l.foldl (fun z q => z.hartPut (Template.dfe w == 1) q.1 q.2.1 q.2.2) (t'.unhold d (.hart d n))).copyNext d n := by
  simp only [State.copyPut, hfree, himage, hfind, Option.isSome_none, Bool.false_eq_true, ↓reduceIte]

end Sys2Proof.Machine
end

section
/-!
FACTS. The next element of a copy, and the completion behind the last one (09 R309).
-/

namespace Sys2Proof.Machine

variable {s : State} {d : Die} {n : HartNo} {k : Kick}

/-- An element that is not the last steps the copy on. -/
theorem State.copyNext_steps (hmore : (s.hart d n).elem + 1 < Template.total (s.hart d n).tmpl) :
    s.copyNext d n = s.modHart d n fun y => { y with elem := (s.hart d n).elem + 1 } := by
  simp only [State.copyNext, State.modHart_self, hmore, ↓reduceIte]
  rfl

/-- The message that completes a copy without a handle: to the requester's mailbox 31, of three doubles. -/
def completionMail (d : Die) (n : HartNo) (k : Kick) (tag : Word) (sc : BitVec 3) (status : Byte) (count : Nat) : Mail :=
  engineMail d n.toNat k.die k.core completionBox [tag, 0#48 ++ status ++ 0#2 ++ n, BitVec.ofNat 64 count] ((scope sc).getD .s)

/-- Without a handle the completion goes to the requester. -/
theorem State.sendCompletion_requester (s : State) (d : Die) (n : HartNo) (k : Kick) (tag : Word) (sc : BitVec 3) (status : Byte)
    (count : Nat) :
    s.sendCompletion d n k 0 tag sc status count = s.send (.mail (completionMail d n k tag sc status count)) := rfl

/-- The last element of a copy to memory without a handle ends the copy and sends its completion. -/
theorem State.copyNext_completes (hrun : (s.hart d n).running = some k)
    (hlast : Template.total (s.hart d n).tmpl ≤ (s.hart d n).elem + 1) (hfree : k.bind = none)
    (himage : Template.image (s.hart d n).tmpl = false) (hcompl : Template.compl (s.hart d n).tmpl = 0) :
    s.copyNext d n =
      ((s.modHart d n fun y => { y with elem := y.elem + 1 }).setHart d n
        { s.hart d n with running := none, tmpl := [], elem := 0, pc := 0, regs := [] }).send
      (.mail (completionMail d n k (Template.tag (s.hart d n).tmpl) (Template.cscope (s.hart d n).tmpl) 0 ((s.hart d n).elem + 1))) := by
  simp only [State.copyNext, State.modHart_self, Nat.not_lt.mpr hlast, ↓reduceIte, State.endCopy, hrun, hfree, Option.isSome_none,
    Bool.false_eq_true, State.endCopyLoad, himage, Bool.false_and, State.modBound, hcompl, State.sendCompletion_requester]

/-- Settles O49, by the start of a copy, the steps of its elements and its completion. -/
theorem copiesRun : Obligations.CopiesRun := by
  unfold Obligations.CopiesRun
  intro s k ks bs t t' cause src dst l post posts
  refine ⟨fun _ => execCopyStart_idle, execCopyStart_running, ?_, ?_, ?_, ?_, ?_⟩
  · intro hrun hqueue hheld hret hmeet hget
    have hread := execCopyStart_reads hrun hqueue hheld hret hmeet hget
    exact ⟨fun hgood =>
      ⟨fun hnone => hread.trans (congrArg _ (State.beginCopy_starts hgood hnone)),
        fun hsome => hread.trans (congrArg _ (State.beginCopy_fault hgood hsome))⟩,
      fun hbad => hread.trans (congrArg _ (State.beginCopy_badHandle hbad))⟩
  · exact fun hrun hposted => (execCopyElement_idle hrun).trans (congrArg _ (State.performPosted_nil hposted))
  · intro hmicro hposted hflush
    have hne : (s.hart s.ev.die (BitVec.ofNat 6 s.ev.unit)).posted ≠ [] := hposted ▸ List.cons_ne_nil _ _
    exact (execCopyElement_step hmicro).trans
      (congrArg _ ((State.copyStep_flushes hne hflush).trans (State.performPosted_cons hposted)))
  · intro hmicro hrun hkeep hheld hwaits
    have hstep := execCopyElement_step hmicro
    refine ⟨fun hout => hstep.trans (congrArg _ (State.copyStep_outside hrun hkeep hheld hwaits
      (hout.imp_right fun ⟨hfree, hdst⟩ => (Kick.dest?_free hfree _).trans hdst))), fun hsrc hget => ?_⟩
    have hreads {a} (hdst) := hstep.trans (congrArg _ (State.copyStep_reads (dst := a) hrun hkeep hheld hwaits hsrc hdst hget))
    refine ⟨fun hbound => ?_, fun hfree himage hdst hfind => ?_, fun hfree himage hdst => ?_⟩
    · exact (hreads (Kick.dest?_bound hbound _)).trans (congrArg _ (State.copyPut_bound hbound ..))
    · have hput := (hreads ((Kick.dest?_free hfree _).trans hdst)).trans
        (congrArg _ (State.copyPut_memory hfree himage hfind _))
      exact ⟨fun hnow => hput.trans (congrArg _ (if_neg (by simp [hnow]))), fun hlater => hput.trans (congrArg _ (if_pos hlater))⟩
    · exact (hreads ((Kick.dest?_free hfree _).trans hdst)).trans (congrArg _ (State.copyPut_image hfree himage ..))
  · refine fun hrun => ⟨State.copyNext_steps, fun hlast hfree himage hcompl => ?_⟩
    rw [State.copyNext_completes hrun hlast hfree himage hcompl]
    refine ⟨_, rfl, rfl, rfl, rfl, ?_, ?_⟩
    · simp [completionMail, engineMail]
    · exact congrArg HartSt.running (State.setHart_self ..)

end Sys2Proof.Machine
end

section
/-!
SUPPORT. Fences (05 R150, R162; 07 R236, R237): what the acquire part invalidates, what the release part leaves, and the issue of
each fence in its cases.
-/

namespace Sys2Proof.Machine

variable (s : State) (x : Scope)

/-- An instruction without register operands has its effect at its issue. -/
theorem State.issue_noOperands (k : List Word → State → Act) : s.issue [] [] k = s.perform (k [] s) := s.issue_plain rfl k

/-! The acquire part (04 R124) -/

theorem State.acquired_eq_ite :
    s.acquired x = if x = .s then s else s.modCore s.cur.die s.cur.core fun c => { c with l1d := [] } := by
  cases x <;> rfl

/-- The L1D behind the acquire part: as it was at s, and empty at c and wider. -/
theorem State.acquired_l1d :
    ((s.acquired x).core s.cur.die s.cur.core).l1d = if x = .s then s.curCore.l1d else [] := by
  rw [State.acquired_eq_ite]
  split
  · rfl
  · rw [State.modCore_self]

@[simp] theorem State.acquired_cur : (s.acquired x).cur = s.cur := by cases x <;> rfl
@[simp] theorem State.acquired_accs : (s.acquired x).accs = s.accs := by cases x <;> rfl
@[simp] theorem State.acquired_mem : (s.acquired x).mem = s.mem := by cases x <;> rfl
@[simp] theorem State.acquired_slot (j : SlotId) : (s.acquired x).slot j = s.slot j := by cases x <;> rfl

/-- The acquire part performs none of the thread's accesses. -/
@[simp] theorem State.acquired_allPerformed : (s.acquired x).allPerformed = s.allPerformed := by
  rw [State.acquired_eq_ite]
  split
  · rfl
  · simp only [State.allPerformed, State.vecMem, State.modCore_cur, State.modCore_self]
    rfl

/-! The release part (05 R150) -/

/-- What a release at a scope leaves of a state: the slot is READY behind its fence and releases at that scope too, and, while
accesses of its thread are still to be performed, an access stands for the fence behind them. -/
def State.FenceReleased (t : State) : Prop :=
  (t.slot s.cur).pc = (s.slot s.cur).pc + 4 ∧ (t.slot s.cur).state = .ready
    ∧ (t.slot s.cur).relScope = widerScope (s.slot s.cur).relScope x ∧ t.mem = s.mem
    ∧ (s.allPerformed = true → t.accs = s.accs)
    ∧ (s.allPerformed = false → ∃ q : Access, t.accs = s.accs ++ [q] ∧ q.op = .fence ∧ q.scope = x ∧ q.stage = .home
      ∧ q.agent = .slot s.cur (s.slot s.cur).inc)

/-- The slot releases at a scope too. -/
def State.releasing : State := s.modSlot s.cur fun y => { y with relScope := widerScope y.relScope x }

/-- The access that stands for a fence behind the accesses that it orders. -/
def State.fenceAccess : Access := { (s.releasing x).newAccess s.cur .fence x false true 0 with stage := .home }

theorem State.releasing_slot :
    (s.releasing x).slot s.cur = { s.slot s.cur with relScope := widerScope (s.slot s.cur).relScope x } := State.modSlot_self ..

@[simp] theorem State.releasing_mem : (s.releasing x).mem = s.mem := rfl
@[simp] theorem State.releasing_accs : (s.releasing x).accs = s.accs := rfl
@[simp] theorem State.putAccess_slot (a : Access) (j : SlotId) : (s.putAccess a).slot j = s.slot j := rfl
@[simp] theorem State.putAccess_mem (a : Access) : (s.putAccess a).mem = s.mem := rfl
@[simp] theorem State.putAccess_accs (a : Access) : (s.putAccess a).accs = s.accs ++ [a] := rfl

theorem State.fenceAccess_agent : (s.fenceAccess x).agent = .slot s.cur (s.slot s.cur).inc :=
  have hinc : ((s.releasing x).slot s.cur).inc = (s.slot s.cur).inc := by rw [State.releasing_slot]
  congrArg (Agent.slot s.cur) hinc

theorem State.fenceRelease_of_performed (h : s.allPerformed = true) : s.fenceRelease x = (s.releasing x).advance := by
  rw [State.fenceRelease, if_pos h]
  rfl

theorem State.fenceRelease_of_open (h : s.allPerformed = false) :
    s.fenceRelease x = ((s.releasing x).putAccess (s.fenceAccess x)).advance := by
  rw [State.fenceRelease, h, if_neg Bool.false_ne_true]
  rfl

/-- A slot that goes on from a state in which it releases at the scope too. -/
theorem State.advance_releasing {u : State} (hcur : u.cur = s.cur) (hslot : u.slot s.cur = (s.releasing x).slot s.cur) :
    (u.advance.slot s.cur).pc = (s.slot s.cur).pc + 4 ∧ (u.advance.slot s.cur).state = .ready
      ∧ (u.advance.slot s.cur).relScope = widerScope (s.slot s.cur).relScope x := by
  rw [← hcur, State.advance_slot, hcur, hslot, State.releasing_slot]
  exact ⟨rfl, rfl, rfl⟩

theorem State.fenceRelease_releases : s.FenceReleased x (s.fenceRelease x) := by
  cases hdone : s.allPerformed with
  | false =>
    obtain ⟨hpc, hready, hscope⟩ :=
      s.advance_releasing x (u := (s.releasing x).putAccess (s.fenceAccess x)) rfl (State.putAccess_slot ..)
    rw [s.fenceRelease_of_open x hdone]
    exact ⟨hpc, hready, hscope, by simp, fun h => (nomatch hdone.symm.trans h),
      fun _ => ⟨s.fenceAccess x, by simp, rfl, rfl, rfl, s.fenceAccess_agent x⟩⟩
  | true =>
    obtain ⟨hpc, hready, hscope⟩ := s.advance_releasing x (u := s.releasing x) rfl rfl
    rw [s.fenceRelease_of_performed x hdone]
    exact ⟨hpc, hready, hscope, by simp, fun _ => by simp, fun h => nomatch hdone.symm.trans h⟩

/-! Fence order (05 R150) -/

section
variable (i : SlotId) (inc : Byte)

@[simp] theorem State.noteFence_cur : (s.noteFence i inc x).cur = s.cur := rfl
@[simp] theorem State.noteFence_mem : (s.noteFence i inc x).mem = s.mem := rfl
@[simp] theorem State.noteFence_accs : (s.noteFence i inc x).accs = s.accs := rfl
@[simp] theorem State.noteFence_slot (j : SlotId) : (s.noteFence i inc x).slot j = s.slot j := rfl
@[simp] theorem State.noteFence_core (d : Die) (c : CoreNo) : (s.noteFence i inc x).core d c = s.core d c := rfl
@[simp] theorem State.noteFence_allPerformed : (s.noteFence i inc x).allPerformed = s.allPerformed := rfl

/-- The acquire part and the place in fence order change nothing of the release behind them. -/
theorem State.fullFence_releases : s.FenceReleased x (((s.acquired x).noteFence i inc x).fenceRelease x) := by
  have hbehind := ((s.acquired x).noteFence i inc x).fenceRelease_releases x
  simpa only [State.FenceReleased, State.noteFence_cur, State.noteFence_mem, State.noteFence_accs, State.noteFence_slot,
    State.noteFence_allPerformed, State.acquired_cur, State.acquired_mem, State.acquired_accs, State.acquired_slot,
    State.acquired_allPerformed] using hbehind

end

/-- The release part leaves the cores as they are. -/
@[simp] theorem State.fenceRelease_core (d : Die) (c : CoreNo) : (s.fenceRelease x).core d c = s.core d c := by
  cases hdone : s.allPerformed with
  | false => rw [s.fenceRelease_of_open x hdone, State.advance_core]; rfl
  | true => rw [s.fenceRelease_of_performed x hdone, State.advance_core]; rfl

/-! Issue -/

theorem exec_fenceFull_waits (h : s.readsOpen = true ∨ s.fenceBehind s.cur (s.slot s.cur).inc x = true) :
    exec (.fenceFull x) s = .next (s.waitData s.cur) :=
  (s.issue_noOperands _).trans (congrArg s.perform (if_pos (Bool.or_eq_true_iff.2 h)))

/-- 05 R150: a full fence that need not wait is an acquire, takes its place in fence order, and is a release. -/
theorem exec_fenceFull_completes (h : ¬(s.readsOpen = true ∨ s.fenceBehind s.cur (s.slot s.cur).inc x = true)) :
    exec (.fenceFull x) s
      = .next (((s.acquired x).noteFence s.cur (s.slot s.cur).inc x).fenceRelease x) :=
  (s.issue_noOperands _).trans (congrArg s.perform (if_neg (mt Bool.or_eq_true_iff.1 h)))

theorem exec_fenceAcq :
    exec (.fenceAcq x) s = .next (if s.readsOpen then s.waitData s.cur else (s.acquired x).advance) := by
  refine (s.issue_noOperands _).trans ?_
  split <;> rfl

theorem exec_fenceIfence :
    exec (.fenceIfence x) s = .next (if s.readsOpen then s.waitData s.cur
      else ((s.acquired x).modCore s.cur.die s.cur.core fun c => { c with l1i := [] }).advance) := by
  refine (s.issue_noOperands _).trans ?_
  split <;> rfl

theorem exec_fenceRel : exec (.fenceRel x) s = .next (s.fenceRelease x) := s.issue_noOperands fun _ t => .go (t.fenceRelease x)

/-- Bit 31 of a 32-bit difference: the count has not come round to the awaited one (05 R162). -/
theorem getLsbD_31_iff (v : BitVec 32) : v.getLsbD 31 = true ↔ 2 ^ 31 ≤ v.toNat := by
  rw [← BitVec.msb_eq_getLsbD_last, BitVec.msb_eq_decide, decide_eq_true_eq]

section
variable {s} {a b : Reg} (hp : s.plain [a, b] [] = true)
include hp

theorem exec_fenceSyncwin_there (hd : s.dieThere s.cur.die ((s.reg s.cur a).extractLsb' 16 6) = true) :
    exec (.fenceSyncwin x a b) s = .next (
      if 2 ^ 31 ≤ ((s.shed ((s.reg s.cur a).extractLsb' 16 6) ((s.reg s.cur a).extractLsb' 0 9)).swincnt
        - (s.reg s.cur b).extractLsb' 0 32).toNat then s.waitData s.cur else (s.acquired x).advance) := by
  refine (s.issue_plain hp _).trans ?_
  simp only [List.map_cons, List.getD_cons_zero, List.getD_cons_succ, hd, Bool.not_true, Bool.false_eq_true, ↓reduceIte,
    getLsbD_31_iff]
  split <;> rfl

theorem exec_fenceSyncwin_absent (hd : s.dieThere s.cur.die ((s.reg s.cur a).extractLsb' 16 6) = false) :
    exec (.fenceSyncwin x a b) s
      = .next (s.takeTrap s.cur 0x2a 0 (s.slot s.cur).pc s.word (s.reg s.cur a) 0) :=
  (s.issue_plain hp _).trans (congrArg s.perform (if_pos (congrArg not hd)))

end

/-- Settles O9: the full fence in its two cases, the acquire fence, the ifence, the release fence, and the syncwin fence. -/
theorem fencesComplete : Obligations.FencesComplete := by
  unfold Obligations.FencesComplete
  intro s x a b i me inval cnt w released
  have hinval : inval s = s.acquired x := (s.acquired_eq_ite x).symm
  rw [hinval]
  refine ⟨?_, exec_fenceAcq s x, exec_fenceIfence s x, ⟨_, exec_fenceRel s x, s.fenceRelease_releases x⟩, fun hp => ?_⟩
  · split
    next hwaits => exact exec_fenceFull_waits s x hwaits
    next hgoes =>
      refine ⟨_, exec_fenceFull_completes s x hgoes, s.fullFence_releases x .., ?_⟩
      rw [State.fenceRelease_core, State.noteFence_core]
      exact s.acquired_l1d x
  · split
    next hthere => exact exec_fenceSyncwin_there x hp hthere
    next habsent => exact exec_fenceSyncwin_absent x hp (Bool.eq_false_iff.2 habsent)

end Sys2Proof.Machine
end

section
/-!
SUPPORT. Hardware queues and kicks (05 R163; 09 R307, R310; 15 R402): CPARM, CPDISARM and HQPUSH, the token of a queue that
becomes a kick or a message, and the stores to BHKICK.
-/

namespace Sys2Proof.Machine

variable {s : State} {d : Die}

/-! Queues and harts by their numbers -/

theorem eq_of_hqKey_eq {p q : HqNo} (h : hqKey d p = hqKey d q) : p = q := by
  simp only [hqKey] at h
  exact BitVec.eq_of_toNat_eq (by omega)

theorem eq_of_hartKey_eq {m n : HartNo} (h : hartKey d m = hartKey d n) : m = n := by
  simp only [hartKey] at h
  exact BitVec.eq_of_toNat_eq (by omega)

theorem State.modHq_ne {p r : HqNo} (h : r ≠ p) (f : HqSt → HqSt) : (s.modHq d p f).hq d r = s.hq d r :=
  tblGet_set_ne _ (h ∘ eq_of_hqKey_eq) _ _

theorem State.modHart_ne {m n : HartNo} (h : n ≠ m) (f : HartSt → HartSt) : (s.modHart d m f).hart d n = s.hart d n :=
  tblGet_set_ne _ (h ∘ eq_of_hartKey_eq) _ _

/-! Kicks taken back (log entry 63) -/

/-- Takes back the kicks of a queue that stand unstarted at one hart: the head stays while its template read is held. -/
def State.takeBackAt (t : State) (d : Die) (q : HqNo) (n : HartNo) : State :=
  let keep := if (t.die d).held.any (·.who == .hart d n) && (t.hart d n).running.isNone then 1 else 0
  t.modHart d n fun x => { x with queue := x.queue.take keep ++ (x.queue.drop keep).filter (·.hq != some q) }

theorem State.takeBack_eq_foldl (q : HqNo) :
    s.takeBack d q = (List.range 64).foldl (fun t j => t.takeBackAt d q (BitVec.ofNat 6 j)) s := rfl

/-- Only harts change. -/
theorem State.foldl_takeBackAt_only (q : HqNo) (l : List Nat) :
    ∃ hs, l.foldl (fun t j => t.takeBackAt d q (BitVec.ofNat 6 j)) s = { s with harts := hs } := by
  induction l generalizing s with
  | nil => exact ⟨s.harts, rfl⟩
  | cons j l ih =>
    obtain ⟨hs, h⟩ := ih (s := s.takeBackAt d q (BitVec.ofNat 6 j))
    exact ⟨hs, h⟩

theorem State.takeBack_only (q : HqNo) : ∃ hs, s.takeBack d q = { s with harts := hs } :=
  State.foldl_takeBackAt_only q _

/-- While no fault of the die is held, every kick of the queue at the hart is taken back. -/
theorem State.takeBackAt_queue (hheld : (s.die d).held = []) (q : HqNo) (m n : HartNo) :
    ((s.takeBackAt d q m).hart d n).queue
      = if n = m then (s.hart d n).queue.filter (·.hq ≠ some q) else (s.hart d n).queue := by
  split
  next heq =>
    subst heq
    simp [State.takeBackAt, hheld, bne, beq_eq_decide]
  next hne => rw [State.takeBackAt, State.modHart_ne hne]

theorem State.foldl_takeBackAt_queue (hheld : (s.die d).held = []) (q : HqNo) (n : HartNo) (l : List Nat) :
    ((l.foldl (fun t j => t.takeBackAt d q (BitVec.ofNat 6 j)) s).hart d n).queue
      = if n ∈ l.map (BitVec.ofNat 6) then (s.hart d n).queue.filter (·.hq ≠ some q) else (s.hart d n).queue := by
  induction l generalizing s with
  | nil => rfl
  | cons j l ih =>
    rw [List.foldl_cons, ih (s := s.takeBackAt d q (BitVec.ofNat 6 j)) hheld, State.takeBackAt_queue hheld, List.map_cons]
    by_cases hj : n = BitVec.ofNat 6 j
    · simp [hj, List.filter_filter]
    · simp [hj]

/-- While no fault of the die is held, no kick of the queue stays at any hart. -/
theorem State.takeBack_queue (hheld : (s.die d).held = []) (q : HqNo) (n : HartNo) :
    ((s.takeBack d q).hart d n).queue = (s.hart d n).queue.filter (·.hq ≠ some q) := by
  have hmem : n ∈ (List.range 64).map (BitVec.ofNat 6) :=
    List.mem_map.2 ⟨n.toNat, List.mem_range.2 n.isLt, BitVec.eq_of_toNat_eq (by simp)⟩
  rw [State.takeBack_eq_foldl, State.foldl_takeBackAt_queue hheld, if_pos hmem]

/-- What an instruction makes of a queue whose kicks it takes back: that queue is as it says, and no other changes, nor do slots
and memory. -/
theorem State.modHq_takeBack (q : HqNo) (f : HqSt → HqSt) :
    ((s.takeBack d q).modHq d q f).hq d q = f (s.hq d q)
      ∧ (∀ r, r ≠ q → ((s.takeBack d q).modHq d q f).hq d r = s.hq d r)
      ∧ ((s.takeBack d q).modHq d q f).slots = s.slots ∧ ((s.takeBack d q).modHq d q f).mem = s.mem := by
  obtain ⟨hs, h⟩ := s.takeBack_only (d := d) q
  rw [h]
  exact ⟨State.modHq_self .., fun r hr => State.modHq_ne hr f, rfl, rfl⟩

/-! CPARM, CPDISARM and HQPUSH at issue -/

/-- The queue as CPARM arms it: its tokens stay. -/
def armedHq (i : SlotId) (tmpl w : Word) (x : HqSt) : HqSt :=
  { x with armed := true, mb := w.getLsbD 20, mbox := w.extractLsb' 21 5, hart := w.extractLsb' 12 6,
           tuse := w.extractLsb' 18 2, tmpl, core := i.core, priv := isPriv i, heldUntil := none }

section
variable {a b : Reg} (hj : s.journaled = false) (hp : s.plain [a, b] [] = true)
include hj hp

theorem execCparm_arms (ha : s.addressFault s.cur (s.reg s.cur a) 6 = none) (hr : s.releases = true) :
    exec (.cparm a b) s = .next ((s.takeBack s.cur.die ((s.reg s.cur b).extractLsb' 0 12)).modHq s.cur.die
      ((s.reg s.cur b).extractLsb' 0 12) (armedHq s.cur (s.reg s.cur a) (s.reg s.cur b))).advance := by
  refine (State.issueOpen_plain hj hp _).trans ?_
  simp only [List.map_cons, List.getD_cons_zero, List.getD_cons_succ, ha, hr]
  obtain ⟨hs, h⟩ := s.takeBack_only (d := s.cur.die) ((s.reg s.cur b).extractLsb' 0 12)
  rw [h]
  rfl

theorem execCparm_waits (ha : s.addressFault s.cur (s.reg s.cur a) 6 = none) (hr : s.releases = false) :
    exec (.cparm a b) s = .next (s.waitData s.cur) := by
  refine (State.issueOpen_plain hj hp _).trans ?_
  simp only [List.map_cons, List.getD_cons_zero, ha, hr]
  rfl

theorem execCparm_misaligned (ha : (s.reg s.cur a).toNat % 64 ≠ 0) :
    exec (.cparm a b) s = .next (s.takeTrap s.cur 0x20 6 (s.slot s.cur).pc s.word (s.reg s.cur a) 0) := by
  refine (State.issueOpen_plain hj hp _).trans ?_
  simp only [List.map_cons, List.getD_cons_zero, s.addressFault_unaligned s.cur (n := 6) ha]
  rfl

theorem execCpdisarm_disarms :
    exec (.cpdisarm a) s = .next ((s.takeBack s.cur.die ((s.reg s.cur a).extractLsb' 0 12)).modHq s.cur.die
      ((s.reg s.cur a).extractLsb' 0 12) fun x => { tokens := x.tokens }).advance :=
  State.issueOpen_plain hj (State.plain_left hp) _

/-- Whether HQPUSH waits: for the thread's accesses, for the queues' hardware, or for room. -/
theorem execHqpush_eq : exec (.hqpush a b) s = .next (
    if s.releases = false ∨ s.unitUp s.cur.die readyHq = false
      ∨ 16 ≤ (s.hq s.cur.die ((s.reg s.cur a).extractLsb' 0 12)).tokens.length then s.waitData s.cur
    else (s.hqPush s.cur.die ((s.reg s.cur a).extractLsb' 0 12) (s.reg s.cur b)).advance) := by
  refine (State.issueOpen_plain hj hp _).trans ?_
  simp only [List.map_cons, List.getD_cons_zero, List.getD_cons_succ, State.hqRoom, hqTokens, Bool.or_eq_true,
    Bool.not_eq_true', decide_eq_false_iff_not, Nat.not_lt, or_assoc]
  split <;> rfl

end

/-! Kicks (09 R307, R308; 15 R402) -/

section
variable {n : HartNo} {k : Kick}

/-- A kick that binds no stream register stands behind the others of its hart, and nothing else changes. -/
theorem State.acceptKick_unbound (hk : k.bind = none) :
    s.acceptKick d n k = s.modHart d n fun x => { x with queue := x.queue ++ [{ k with busy := false, access := none }] } := by
  have hbind : ({ k with busy := false, access := none } : Kick).bind = none := hk
  simp only [State.acceptKick, hk, State.modBound, hbind]

/-- A kick that binds a free stream register of the thread in its slot binds it anew. -/
theorem State.acceptKick_binds {i : SlotId} {q : Nat} (hk : k.bind = some (i, (s.slot i).inc, q))
    (hfree : ((s.slot i).stream q).bound = false) : ((s.acceptKick d n k).slot i).stream q = { bound := true } := by
  have hbind : ({ k with busy := false, access := none } : Kick).bind = some (i, (s.slot i).inc, q) := hk
  simp only [State.acceptKick, hk, hfree, Bool.and_false, State.modBound, hbind, State.modHart_slot, bne_self_eq_false,
    Bool.or_self, Bool.false_eq_true, ↓reduceIte, State.modSlot_self, SlotSt.stream_setStream_self]

theorem State.kick_room (h : (s.hart d n).room = true) : s.kick d n k = s.acceptKick d n k := by
  have hr : (s.hart d n).retired = false := by
    simp only [HartSt.room, Bool.and_eq_true, Bool.not_eq_true'] at h
    obtain ⟨⟨hr, -⟩, -⟩ := h
    exact hr
  rw [State.kick, hr, h, if_neg Bool.false_ne_true, if_pos rfl]

theorem State.kick_held (hr : (s.hart d n).retired = false) (h : (s.hart d n).room = false) :
    s.kick d n k = s.modHart d n fun x => { x with held := x.held ++ [k] } := by
  rw [State.kick, hr, h, if_neg Bool.false_ne_true, if_neg Bool.false_ne_true]

end

/-- A store to BHKICK whose bit 3 is 0 binds no stream register. -/
theorem kickOf_unbound {i : SlotId} {inc : Byte} {v : Word} (h : v.getLsbD 3 = false) : (kickOf i inc v none).bind = none := by
  have hbit : (v.extractLsb' 0 4).getLsbD 3 = false := by simpa using h
  exact if_neg (ne_true_of_eq_false hbit)

/-- A store to BHKICK whose low four bits are 8 binds stream register 0 of its slot's thread. -/
theorem kickOf_binds {i : SlotId} {inc : Byte} {v : Word} (h : v.extractLsb' 0 4 = 8) :
    (kickOf i inc v none).bind = some (i, inc, 0) := by
  simp only [Kick.bind, kickOf, h]
  rfl

theorem execBhkick_eq : exec .bhkick s = .next (s.kick s.ev.die (BitVec.ofNat 6 s.ev.unit)
    (kickOf ⟨s.ev.die, s.ev.core, s.ev.slot⟩ (s.slot ⟨s.ev.die, s.ev.core, s.ev.slot⟩).inc s.ev.val none)) := rfl

/-! The kicks held at a register (15 R402) -/

section
variable {k : Kick} {ks : List Kick}

theorem execKickHeldPerform_none (hheld : (s.hart s.ev.die (BitVec.ofNat 6 s.ev.unit)).held = []) :
    exec .kickHeldPerform s = .next s := by
  change execKickHeldPerform s = _
  simp only [execKickHeldPerform, hheld]

variable (hheld : (s.hart s.ev.die (BitVec.ofNat 6 s.ev.unit)).held = k :: ks)
include hheld

theorem execKickHeldPerform_full (hfull : 16 ≤ (s.hart s.ev.die (BitVec.ofNat 6 s.ev.unit)).queue.length) :
    exec .kickHeldPerform s = .next s := by
  change execKickHeldPerform s = _
  simp only [execKickHeldPerform, hheld, kickEntries, hfull, ↓reduceIte]

theorem execKickHeldPerform_queues (hroom : (s.hart s.ev.die (BitVec.ofNat 6 s.ev.unit)).queue.length < 16)
    (haccess : k.access = none) :
    exec .kickHeldPerform s = .next ((s.setHart s.ev.die (BitVec.ofNat 6 s.ev.unit)
      { s.hart s.ev.die (BitVec.ofNat 6 s.ev.unit) with held := ks }).acceptKick s.ev.die (BitVec.ofNat 6 s.ev.unit) k) := by
  change execKickHeldPerform s = _
  simp only [execKickHeldPerform, hheld, kickEntries, Nat.not_le.2 hroom, ↓reduceIte, haccess]

end

/-! The token of a queue (09 R310) -/

/-- The kick that a token of an armed queue makes. -/
def tokenKick (d : Die) (q : HqNo) (x : HqSt) (v : Word) : Kick :=
  { tmpl := x.tmpl, die := d, core := x.core, slot := none, priv := x.priv, qb := 0, token := v, tuse := x.tuse, hq := some q }

theorem tokenKick_bind (q : HqNo) (x : HqSt) (v : Word) : (tokenKick d q x v).bind = none :=
  if_neg (by decide : ¬(0 : BitVec 4).getLsbD 3 = true)

section
variable {q : HqNo} {v : Word} (hd : s.ev.die = d) (hq : BitVec.ofNat 12 s.ev.unit = q)
include hd hq

theorem execHqTokenFire_unarmed (harmed : (s.hq d q).armed = false) : exec .hqTokenFire s = .next s := by
  change execHqTokenFire s = _
  simp only [execHqTokenFire, hd, hq, harmed, Bool.not_false, ↓reduceIte]

/-- The first token that has not fired becomes a kick when the queue's hart takes one. -/
theorem execHqTokenFire_kick (harmed : (s.hq d q).armed = true) (hmb : (s.hq d q).mb = false)
    (htoken : (s.hq d q).tokens[s.firedTokens d q]? = some v) :
    exec .hqTokenFire s = .next (if (s.hart d (s.hq d q).hart).room = true
      then s.acceptKick d (s.hq d q).hart (tokenKick d q (s.hq d q) v) else s) := by
  change execHqTokenFire s = _
  simp only [execHqTokenFire, hd, hq, harmed, hmb, htoken, Bool.not_true, Bool.false_eq_true, ↓reduceIte]
  rfl

/-- The first token leaves for a mailbox with room as a message of LEN 1. -/
theorem execHqTokenFire_message {rest : List Word} (harmed : (s.hq d q).armed = true) (hmb : (s.hq d q).mb = true)
    (htokens : (s.hq d q).tokens = v :: rest) (hheld : (s.hq d q).heldUntil = none) (hfired : s.firedTokens d q = 0)
    (hretired : (s.core d (s.hq d q).core).retired = false)
    (hroom : s.boxRoom d (s.hq d q).core (s.hq d q).mbox.toNat = true) :
    exec .hqTokenFire s = .next ((s.setHq d q { s.hq d q with tokens := rest, heldUntil := none }).deliver d
      (s.hq d q).core (s.hq d q).mbox.toNat [v] .d) := by
  change execHqTokenFire s = _
  simp only [execHqTokenFire, hd, hq, harmed, hmb, htokens, hheld, hfired, hretired, hroom, Bool.not_true, Bool.false_eq_true,
    bne_self_eq_false, Bool.or_self, Option.isSome_none, ↓reduceIte]

end

/-! The obligation -/

/-- Settles O37: the instructions of the queues, then the events of their tokens and of the kicks. -/
theorem queuesAndKicks : Obligations.QueuesAndKicks := by
  unfold Obligations.QueuesAndKicks
  constructor
  · intro s a b hj hp i d w v q p
    obtain ⟨hdis, hdisOther, hdisSlots, hdisMem⟩ := State.modHq_takeBack (s := s) (d := d) q fun x => { tokens := x.tokens }
    refine ⟨fun ha => ⟨fun hr => ?_, execCparm_waits hj hp ha⟩, execCparm_misaligned hj hp,
      ⟨_, execCpdisarm_disarms hj hp, hdis, hdisOther, hdisSlots, hdisMem⟩, fun hr hup hroom => ?_, fun hwait => ?_⟩
    · obtain ⟨harm, hother, hslots, hmem⟩ := State.modHq_takeBack (s := s) (d := d) p (armedHq i w v)
      refine ⟨_, execCparm_arms hj hp ha hr, harm, hother, hslots, hmem, fun hheld n => ?_⟩
      rw [State.modHq_hart]
      exact State.takeBack_queue hheld p n
    · have hgoes : ¬(s.releases = false ∨ s.unitUp d readyHq = false ∨ 16 ≤ (s.hq d q).tokens.length) := by
        simp [hr, hup, hroom]
      exact (execHqpush_eq hj hp).trans (congrArg _ (if_neg hgoes))
    · exact (execHqpush_eq hj hp).trans (congrArg _ (if_pos hwait))
  · intro s v rest k ks d q n x y i
    refine ⟨execHqTokenFire_unarmed rfl rfl, fun harmed hmb htoken => ?_, execHqTokenFire_message rfl rfl,
      fun hroom hbit => ?_, fun hroom hlow hfree => ?_, fun hretired hroom => ?_,
      execKickHeldPerform_none, fun hheld hbind haccess hlen => ?_, execKickHeldPerform_full⟩
    · have hfire := execHqTokenFire_kick rfl rfl harmed hmb htoken
      refine ⟨fun hroom => ?_, fun hroom => hfire.trans (congrArg _ (if_neg (ne_true_of_eq_false hroom)))⟩
      rw [if_pos hroom, State.acceptKick_unbound (tokenKick_bind ..)] at hfire
      exact ⟨_, _, hfire, congrArg HartSt.queue (State.modHart_self ..), rfl, rfl, rfl, rfl, rfl, rfl, rfl, rfl⟩
    · have hkick := execBhkick_eq (s := s)
      rw [State.kick_room hroom, State.acceptKick_unbound (kickOf_unbound hbit)] at hkick
      exact ⟨_, _, hkick, congrArg HartSt.queue (State.modHart_self ..), rfl, rfl, rfl, rfl, rfl, rfl⟩
    · exact ⟨_, execBhkick_eq.trans (congrArg _ (State.kick_room hroom)), State.acceptKick_binds (kickOf_binds hlow) hfree⟩
    · refine ⟨_, execBhkick_eq.trans (congrArg _ (State.kick_held hretired hroom)), ?_, ?_, rfl, rfl⟩
      · rw [State.modHart_self]
      · rw [State.modHart_self, List.length_append, List.length_singleton]
    · have hqueues := execKickHeldPerform_queues hheld hlen haccess
      rw [State.acceptKick_unbound hbind] at hqueues
      refine ⟨_, hqueues, ?_, ?_, rfl⟩
      · rw [State.modHart_self, State.setHart_self]
      · rw [State.modHart_self, State.setHart_self, ← haccess]

end Sys2Proof.Machine
end

section
/-!
SUPPORT. Words, fields and operand codes (06 R174 to R178, R190): a word and its fields, the immediates and packed fields of
the layouts, and the codes of operands, each with its reading.
-/

namespace Sys2Proof

/-! Words and their fields -/

theorem threadForm_word (x : Fields) : threadForm x.word = x := by
  obtain ⟨op, b, s, d, f, a, g⟩ := x
  simp only [threadForm, Fields.word, Fields.mk.injEq]
  refine ⟨?_, ?_, ?_, ?_, ?_, ?_, ?_⟩ <;> ext k hk <;> simp <;> grind

theorem word_threadForm (w : Inst) : (threadForm w).word = w := by
  ext k hk
  simp [threadForm, Fields.word]
  grind

theorem graphForm_word (x : GFields) : graphForm x.word = x := by
  obtain ⟨op, flag, x, ta, tb⟩ := x
  simp only [graphForm, GFields.word, GFields.mk.injEq]
  refine ⟨?_, ?_, ?_, ?_, ?_⟩ <;> ext k hk <;> simp <;> grind

theorem word_graphForm (w : Inst) : (graphForm w).word = w := by
  ext k hk
  simp [graphForm, GFields.word]
  grind

theorem Fields.mk_eq_iff {x : Fields} {op b s d f a g} :
    Fields.mk op b s d f a g = x ↔ op = x.op ∧ b = x.b ∧ s = x.s ∧ d = x.d ∧ f = x.f ∧ a = x.a ∧ g = x.g := by
  cases x
  simp

theorem GFields.mk_eq_iff {x : GFields} {op flag y ta tb} :
    GFields.mk op flag y ta tb = x ↔ op = x.op ∧ flag = x.flag ∧ y = x.x ∧ ta = x.ta ∧ tb = x.tb := by
  cases x
  simp

/-! Immediates and packed fields -/

/-- The fields of the immediate layout. -/
def Fields.ofImm13 (op : BitVec 7) (d a : Reg) (n : BitVec 13) : Fields :=
  ⟨op, n.extractLsb' 7 6, n.extractLsb' 6 1, d, n.extractLsb' 3 3, a, n.extractLsb' 0 3⟩

/-- The fields of the store and branch layout. -/
def Fields.ofImmS (op : BitVec 7) (b a : Reg) (n : BitVec 13) : Fields :=
  ⟨op, b, n.extractLsb' 12 1, n.extractLsb' 6 6, n.extractLsb' 3 3, a, n.extractLsb' 0 3⟩

/-- The fields of the long layout. -/
def Fields.ofImm19 (op : BitVec 7) (d : Reg) (n : BitVec 19) : Fields :=
  ⟨op, n.extractLsb' 13 6, n.extractLsb' 12 1, d, n.extractLsb' 9 3, n.extractLsb' 3 6, n.extractLsb' 0 3⟩

theorem Fields.imm13_ofImm13 (op : BitVec 7) (d a : Reg) (n : BitVec 13) : (Fields.ofImm13 op d a n).imm13 = n := by
  ext k hk
  simp [Fields.imm13, Fields.ofImm13]
  grind

theorem Fields.immS_ofImmS (op : BitVec 7) (b a : Reg) (n : BitVec 13) : (Fields.ofImmS op b a n).immS = n := by
  ext k hk
  simp [Fields.immS, Fields.ofImmS]
  grind

theorem Fields.imm19_ofImm19 (op : BitVec 7) (d : Reg) (n : BitVec 19) : (Fields.ofImm19 op d n).imm19 = n := by
  ext k hk
  simp [Fields.imm19, Fields.ofImm19]
  grind

theorem Fields.ofImm13_imm13 {x : Fields} {op : BitVec 7} (hop : x.op.toNat = op.toNat) :
    Fields.ofImm13 op x.d x.a x.imm13 = x := by
  obtain rfl := BitVec.eq_of_toNat_eq hop
  simp only [Fields.ofImm13, Fields.imm13, Fields.mk_eq_iff, true_and]
  refine ⟨?_, ?_, ?_, ?_⟩ <;> ext k hk <;> simp <;> grind

theorem Fields.ofImmS_immS {x : Fields} {op : BitVec 7} (hop : x.op.toNat = op.toNat) :
    Fields.ofImmS op x.b x.a x.immS = x := by
  obtain rfl := BitVec.eq_of_toNat_eq hop
  simp only [Fields.ofImmS, Fields.immS, Fields.mk_eq_iff, true_and]
  refine ⟨?_, ?_, ?_, ?_⟩ <;> ext k hk <;> simp <;> grind

theorem Fields.ofImm19_imm19 {x : Fields} {op : BitVec 7} (hop : x.op.toNat = op.toNat) :
    Fields.ofImm19 op x.d x.imm19 = x := by
  obtain rfl := BitVec.eq_of_toNat_eq hop
  simp only [Fields.ofImm19, Fields.imm19, Fields.mk_eq_iff, true_and]
  refine ⟨?_, ?_, ?_, ?_, ?_⟩ <;> ext k hk <;> simp <;> grind

theorem bit_getLsbD_zero (v : BitVec 1) : bit (v.getLsbD 0) = v := by
  revert v
  decide

theorem bit_wide (x : Fields) : bit x.wide = x.s := bit_getLsbD_zero x.s

theorem wide_bit (op : BitVec 7) (w : Bool) (b d a : Reg) (f g : BitVec 3) : (Fields.mk op b (bit w) d f a g).wide = w := by
  simp [Fields.wide]

theorem toNat_append_three (u v : BitVec 3) : (u ++ v).toNat = 8 * u.toNat + v.toNat := by
  rw [BitVec.toNat_append, ← Nat.shiftLeft_add_eq_or_of_lt v.isLt, Nat.shiftLeft_eq]
  omega

@[simp] theorem extract_high_append (u v : BitVec 3) : (u ++ v : BitVec 6).extractLsb' 3 3 = u := by
  ext k hk
  simp
  grind

@[simp] theorem extract_low_append (u v : BitVec 3) : (u ++ v : BitVec 6).extractLsb' 0 3 = v := by
  ext k hk
  simp
  grind

theorem extract_append_extract (v : BitVec 6) : v.extractLsb' 3 3 ++ v.extractLsb' 0 3 = v := by
  ext k hk
  simp
  grind

theorem append_extract_low {u : BitVec 3} {v : BitVec 6} (h : u = v.extractLsb' 3 3) : u ++ v.extractLsb' 0 3 = v := by
  rw [h, extract_append_extract]

theorem append_extract_high {u : BitVec 3} {v : BitVec 6} (h : u = v.extractLsb' 0 3) : v.extractLsb' 3 3 ++ u = v := by
  rw [h, extract_append_extract]

theorem bit_append_extract (v : BitVec 3) : bit (v.getLsbD 2) ++ v.extractLsb' 0 2 = v := by
  revert v
  decide

theorem getLsbD_two_bit_append (p : Bool) (v : BitVec 2) : (bit p ++ v : BitVec 3).getLsbD 2 = p := by
  cases p <;> revert v <;> decide

theorem extract_bit_append (p : Bool) (v : BitVec 2) : (bit p ++ v : BitVec 3).extractLsb' 0 2 = v := by
  cases p <;> revert v <;> decide

/-- The fields b and s of the shifts by an immediate, from the number of the shift. -/
theorem shift_fields {b : BitVec 6} {s : BitVec 1} {k : Nat} (hk : (b.extractLsb' 0 2 ++ s).toNat = k)
    (hb : b.extractLsb' 3 3 = 0) :
    0#3 ++ bit (b.getLsbD 2) ++ BitVec.ofNat 2 (k / 2) = b ∧ BitVec.ofNat 1 k = s := by
  subst hk
  revert b s
  decide

theorem icvt_fields {v : BitVec 3} (h : v.getLsbD 2 = false) : 0#1 ++ (intFmt (v.extractLsb' 0 2)).code = v := by
  revert v
  decide

theorem bit_append_extract_five (b : BitVec 6) : bit (b.getLsbD 5) ++ b.extractLsb' 0 5 = b := by
  revert b
  decide

/-! System register numbers (06 R187) -/

/-- The fields of a system register's number n, with the bit that tells SYSW from SYSR. -/
def Fields.ofSysNo (u : BitVec 1) (d a : Reg) (n : BitVec 12) : Fields :=
  ⟨0x5c, u ++ n.extractLsb' 7 5, n.extractLsb' 6 1, d, n.extractLsb' 3 3, a, n.extractLsb' 0 3⟩

/-- The system register's number of the fields (06 R187). -/
def Fields.sysNo (x : Fields) : BitVec 12 := x.b.extractLsb' 0 5 ++ x.s ++ x.f ++ x.g

theorem Fields.sysNo_ofSysNo (u : BitVec 1) (d a : Reg) (n : BitVec 12) : (Fields.ofSysNo u d a n).sysNo = n := by
  ext k hk
  simp [Fields.sysNo, Fields.ofSysNo]
  grind

theorem Fields.ofSysNo_top (u : BitVec 1) (d a : Reg) (n : BitVec 12) :
    (Fields.ofSysNo u d a n).b.getLsbD 5 = u.getLsbD 0 := by
  rw [Fields.ofSysNo, BitVec.getLsbD_append]
  simp

theorem Fields.ofSysNo_sysNo {x : Fields} (hop : x.op.toNat = 0x5c) :
    Fields.ofSysNo (bit (x.b.getLsbD 5)) x.d x.a x.sysNo = x := by
  have hb : x.sysNo.extractLsb' 7 5 = x.b.extractLsb' 0 5 := by
    ext k hk
    simp [Fields.sysNo]
    grind
  rw [Fields.ofSysNo, hb, bit_append_extract_five, Fields.mk_eq_iff]
  refine ⟨BitVec.eq_of_toNat_eq hop.symm, rfl, ?_, rfl, ?_, rfl, ?_⟩ <;> ext k hk <;> simp [Fields.sysNo] <;> grind

/-! Operand codes (Tables 5-1, 6-3, 6-11) -/

theorem fmt3_eq_some {v : BitVec 3} {f : Fmt3} : fmt3 v = some f ↔ f.code = v ∧ fmtOk f = true := by
  cases f <;> revert v <;> decide

theorem graphFmt_eq_some {v : BitVec 3} {f : Fmt3} : graphFmt v = some f ↔ f.code = v := by
  cases f <;> revert v <;> decide

theorem mf3_eq_some {v : BitVec 3} {f : Mf3} : mf3 v = some f ↔ f.code = v := by
  cases f <;> revert v <;> decide

theorem twf_eq_some {v : BitVec 3} {f : Twf} : twf v = some f ↔ f.code = v := by
  cases f <;> revert v <;> decide

theorem scope_eq_some {v : BitVec 3} {x : Scope} : scope v = some x ↔ x.code = v := by
  cases x <;> revert v <;> decide

theorem combine_eq_some {v : BitVec 3} {m : Combine} : combine v = some m ↔ m.code = v := by
  cases m <;> revert v <;> decide

@[simp] theorem target_code (t : Target) : target t.code = some t := by
  cases t with
  | none => decide
  | node s port => cases port <;> revert s <;> decide
  | shed port =>
    revert port
    decide

theorem code_of_target {v : BitVec 9} {t : Target} (h : target v = some t) : t.code = v := by
  have hall : ∀ v, (target v).all (·.code == v) = true := by decide
  simpa [h] using hall v

@[simp] theorem scope_code (sc : Scope) : scope sc.code = some sc := scope_eq_some.2 rfl

@[simp] theorem mf3_code (mf : Mf3) : mf3 mf.code = some mf := mf3_eq_some.2 rfl

@[simp] theorem graphFmt_code (f : Fmt3) : graphFmt f.code = some f := graphFmt_eq_some.2 rfl

@[simp] theorem amoOf_code (o : AmoOp) : amoOf o.code.toNat = o := by
  cases o <;> decide

@[simp] theorem feOf_code (o : FeOp) : feOf o.code.toNat = o := by
  cases o <;> decide

theorem code_feOf (v : BitVec 3) : (feOf v.toNat).code = v := by
  revert v
  decide

theorem upd_code {v : BitVec 6} {n m : Nat} (hn : (v.extractLsb' 3 3).toNat = n) (hm : (v.extractLsb' 0 3).toNat = m) :
    (n = 0 → (UpdOp.int (amoOf m)).code = v) ∧ (n = 1 → BitVec.ofNat 6 (8 + m) = v) := by
  subst hn hm
  revert v
  decide

theorem fmtOk_cases {f : Fmt3} (h : fmtOk f = true) :
    f = .f64 ∨ f = .f32 ∨ f = .f16 ∨ f = .bf16 ∨ f = .e4m3 ∨ f = .e5m2 := by
  cases f <;> simp_all [fmtOk]

theorem fmtOk_of_sfuFmtOk {f : Fmt3} (h : sfuFmtOk f = true) : fmtOk f = true := by
  cases f <;> simp_all [sfuFmtOk, fmtOk]

theorem code_of_parseElem {op : Nat} {v : BitVec 6} {o : ElemOp} (h : parseElem op v = some o) :
    o.code = (BitVec.ofNat 7 op, v) := by
  have hall : ∀ n ∈ [0x01, 0x02, 0x03, 0x10, 0x11, 0x12, 0x13, 0x14, 0x15, 0x16], ∀ v : BitVec 6,
      (parseElem n v).all (·.code == (BitVec.ofNat 7 n, v)) = true := by decide
  have hop : op ∈ [0x01, 0x02, 0x03, 0x10, 0x11, 0x12, 0x13, 0x14, 0x15, 0x16] := by
    unfold parseElem at h
    split at h
    case h_11 => contradiction
    all_goals simp
  simpa [h] using hall op hop v

theorem parseElem_code (o : ElemOp) : parseElem o.code.1.toNat o.code.2 = some o := by
  cases o with
  | alu o | mul o | bits o => cases o <;> rfl
  | fp o f | fma o f | cmp o f | sfu o f => cases f <;> cases o <;> decide
  | fcvt f g => cases f <;> cases g <;> decide
  | fclass f | icvtFrom f => cases f <;> decide
  | icvtTo k f => cases k <;> cases f <;> decide

end Sys2Proof
end

section
/-!
SUPPORT. Decoding what was encoded (06 R174 to R192): reading the fields of an instruction gives the instruction. The cases
follow the layouts of Tables 6-1 and 6-2 and the operand codes of an instruction.
-/

namespace Sys2Proof

theorem and_and_true {p q r : Bool} (h : (p && q && r) = true) : p = true ∧ q = true ∧ r = true := by
  simpa [and_assoc] using h

theorem and_and_and_true {p q r t : Bool} (h : (p && q && r && t) = true) :
    p = true ∧ q = true ∧ r = true ∧ t = true := by
  simpa [and_assoc] using h

/-- Reading the fields of a well-formed thread-form instruction gives the instruction. -/
theorem parseThread_of_threadFields {i : Instr} {x : Fields} (hwf : i.wf = true) (hx : threadFields i = some x) :
    parseThread x = some i := by
  cases i with
  | addi d a n | andi d a n | ori d a n | xori d a n | slti d a n | sltiu d a n | jalr d a n
  | ldB d a n | ldH d a n | ldW d a n | ldD d a n | ldBu d a n | ldHu d a n | ldWu d a n =>
    obtain rfl : Fields.ofImm13 _ d a n = x := Option.some.inj hx
    show some _ = some _
    rw [Fields.imm13_ofImm13]
    rfl
  | stB b a n | stH b a n | stW b a n | stD b a n
  | beq a b n | bne a b n | blt a b n | bge a b n | bltu a b n | bgeu a b n =>
    obtain rfl : Fields.ofImmS _ b a n = x := Option.some.inj hx
    show some _ = some _
    rw [Fields.immS_ofImmS]
    rfl
  | bnzd a n =>
    obtain rfl : Fields.ofImmS _ 0 a n = x := Option.some.inj hx
    show some _ = some _
    rw [Fields.immS_ofImmS]
    rfl
  | lui d n | auipc d n | jal d n =>
    obtain rfl : Fields.ofImm19 _ d n = x := Option.some.inj hx
    show some _ = some _
    rw [Fields.imm19_ofImm19]
    rfl
  | add w d a b | sub w d a b | and w d a b | or w d a b | xor w d a b | andn w d a b | orn w d a b | xnor w d a b
  | shl w d a b | shr w d a b | sra w d a b | rol w d a b | ror w d a b | slt w d a b | sltu w d a b | min w d a b
  | max w d a b | minu w d a b | maxu w d a b =>
    cases hx
    show parseOp01 _ = _
    simp [parseOp01, Fields.wide]
  | clz w d a | ctz w d a | popc w d a | brev w d a | bswap w d a =>
    cases hx
    show parseOp03 _ = _
    simp [parseOp03, only, Fields.wide]
  | sextb d a | sexth d a | sextw d a | zextw d a =>
    cases hx
    show parseOp03 _ = _
    simp [parseOp03, only]
  | shli w d a n | shri w d a n | srai w d a n | roli w d a n | rori w d a n =>
    cases hx
    show parseOp08 _ = _
    cases w <;> simp [parseOp08, only, extract_append_extract]
  | cselNz d a b c | cselZ d a b c =>
    cases hx
    show parseOp0e _ = _
    simp [parseOp0e, Fields.wide, extract_append_extract]
  | mul w d a b | div w d a b | divu w d a b | rem w d a b | remu w d a b | addx w d a b | subx w d a b | mulx w d a b
  | amoSwap w d b a | amoAdd w d b a | amoAnd w d b a | amoOr w d b a | amoXor w d b a | amoMin w d b a
  | amoMax w d b a | amoMaxu w d b a =>
    cases hx
    show some _ = some _
    rw [wide_bit]
  | amoSwapScoped w sc d b a | amoAddScoped w sc d b a | amoAndScoped w sc d b a | amoOrScoped w sc d b a
  | amoXorScoped w sc d b a | amoMinScoped w sc d b a | amoMaxScoped w sc d b a | amoMaxuScoped w sc d b a
  | cas w sc d b a =>
    cases hx
    cases sc <;> (show some _ = some _; rw [wide_bit])
  | fadd f d a b | fsub f d a b | fmul f d a b | fdiv f d a b | fmin f d a b | fmax f d a b
  | fma f d a b | fms f d a b | fnma f d a b | fnms f d a b | feq f d a b | flt f d a b | fle f d a b | funord f d a b =>
    cases hx
    obtain ⟨hf, -⟩ := and_and_and_true hwf
    obtain rfl | rfl | rfl | rfl | rfl | rfl := fmtOk_cases hf <;> rfl
  | fsqrt f d a | fclass f d a | icvtFromInt f d a | vredSum f d a | vredMin f d a | vredMax f d a =>
    cases hx
    obtain ⟨hf, -⟩ := and_and_true hwf
    obtain rfl | rfl | rfl | rfl | rfl | rfl := fmtOk_cases hf <;> rfl
  | icvtToInt k f d a =>
    cases hx
    obtain ⟨hf, -⟩ := and_and_true hwf
    show parseOp15 _ = _
    cases k <;> simp [parseOp15, only, fmt3_eq_some.2 ⟨rfl, hf⟩, IntFmt.code, intFmt]
  | exp2 f d a | log2 f d a | rcp f d a | rsq f d a | sin f d a | cos f d a | tanh f d a =>
    cases hx
    obtain ⟨hf, -⟩ := and_and_true hwf
    obtain rfl | rfl | rfl | rfl | rfl | rfl := fmtOk_cases (fmtOk_of_sfuFmtOk hf) <;> rfl
  | fcvt f g d a =>
    cases hx
    obtain ⟨hfg, -⟩ := and_and_true hwf
    obtain ⟨hf, hg, -⟩ := and_and_true hfg
    show parseOp13 _ = _
    simp [parseOp13, only, fmt3_eq_some.2 ⟨rfl, hf⟩, fmt3_eq_some.2 ⟨rfl, hg⟩]
  | lde sc _ _ | take sc _ _ | put sc _ _ | fill sc _ _ | waitf sc _ | trytake sc _ _ _
  | fenceFull sc | fenceAcq sc | fenceRel sc | fenceSyncwin sc _ _ | fenceIfence sc
  | send sc _ _ _ | sendm sc _ _ _ | arriveRel sc _ _ | waitph sc _ _ | arrwait sc _ _ =>
    cases hx
    cases sc <;> rfl
  | solicit sc cm d a b =>
    cases hx
    cases sc <;> cases cm <;> rfl
  | mxld mf _ | mxmul mf _ _ _ =>
    cases hx
    cases mf <;> rfl
  | baddq tw _ _ _ | qtw tw _ _ _ | dqtw tw _ _ _ =>
    cases hx
    cases tw <;> rfl
  | lease pre lvl d a b =>
    cases hx
    show some (Instr.lease _ _ _ _ _) = _
    rw [getLsbD_two_bit_append, extract_bit_append]
  | sysr d n =>
    obtain rfl : Fields.ofSysNo 0 d 0 n = x := Option.some.inj hx
    show (if (Fields.ofSysNo 0 d 0 n).b.getLsbD 5 then only _ (.sysw (Fields.ofSysNo 0 d 0 n).sysNo _)
      else only _ (.sysr _ (Fields.ofSysNo 0 d 0 n).sysNo)) = _
    rw [Fields.ofSysNo_top, Fields.sysNo_ofSysNo]
    rfl
  | sysw n a =>
    obtain rfl : Fields.ofSysNo 1 0 a n = x := Option.some.inj hx
    show (if (Fields.ofSysNo 1 0 a n).b.getLsbD 5 then only _ (.sysw (Fields.ofSysNo 1 0 a n).sysNo _)
      else only _ (.sysr _ (Fields.ofSysNo 1 0 a n).sysNo)) = _
    rw [Fields.ofSysNo_top, Fields.sysNo_ofSysNo]
    rfl
  | _ => cases hx <;> rfl

theorem parseGraph_code (op : BitVec 7) (flag : BitVec 1) (v : BitVec 6) (t u : Target) :
    parseGraph ⟨op, flag, v, t.code, u.code⟩ = parseGraphWith ⟨op, flag, v, t.code, u.code⟩ t u := by
  simp only [parseGraph, target_code]

theorem parseGraph_of_graphFields {i : Instr} {x : GFields} (hx : graphFields i = some x) : parseGraph x = some i := by
  cases i with
  | elementwiseNode o t u =>
    cases hx
    rw [parseGraph_code]
    have ho := parseElem_code o
    cases o <;> exact congrArg (Option.bind · fun o => only true (Instr.elementwiseNode o t u)) ho
  | graphLoadNode o t u | graphStoreNode o t u =>
    cases hx
    rw [parseGraph_code]
    cases o <;> rfl
  | graphFeNode sc o t u =>
    cases hx
    rw [parseGraph_code]
    show Option.bind _ _ = _
    simp [only]
  | widen sc t u =>
    cases hx
    rw [parseGraph_code]
    show parseGraph6f _ _ _ = _
    simp [parseGraph6f, only]
  | mma q mf m t u =>
    cases hx
    rw [parseGraph_code]
    show parseGraph70 _ _ _ = _
    simp [parseGraph70]
  | bload mf m t u =>
    cases hx
    rw [parseGraph_code]
    show parseGraph71 _ _ _ = _
    simp [parseGraph71, only]
  | accRd m t u | accRdclr m t u | accClr m t u =>
    cases hx
    rw [parseGraph_code]
    show parseGraph72 _ _ _ = _
    simp [parseGraph72, only]
  | rmax fb f t u =>
    cases hx
    rw [parseGraph_code]
    show parseGraph73 _ _ _ = _
    simp [parseGraph73, only]
  | upd o t u =>
    cases hx
    rw [parseGraph_code]
    show parseGraph79 _ _ _ = _
    cases o <;> simp [parseGraph79, UpdOp.code, only]
  | lredSum m t u | lredMax m t u | lredMin m t u =>
    cases hx
    rw [parseGraph_code]
    show parseGraph7b _ _ _ = _
    simp [parseGraph7b, only]
  | steerT t u | steerF t u | mergeP t u | mergeA t u | const k t u | constC k t u | escOrd k t u | escUnord k t u
  | cntD t u | cntR t u =>
    cases hx
    rw [parseGraph_code]
    simp [parseGraphWith, parseGraph68, parseGraph69, parseGraph6c, parseGraph74, parseGraph7a, only]
  | _ =>
    cases hx <;> (rw [parseGraph_code]; rfl)

end Sys2Proof
end

section
/-!
SUPPORT. Encoding what was decoded (06 R186, R192): the word of the instruction that fields are read as is the word of the
fields; decoding and encoding agree.
-/

namespace Sys2Proof

theorem only_eq_some {c : Bool} {i j : Instr} : only c j = some i ↔ c = true ∧ j = i := by
  cases c <;> simp [only]

/-- A reading under a condition, when the condition makes the fields those of the instruction read. -/
theorem encode_of_only {α : Type} {word : α → Inst} {x y : α} {c : Bool} {i j : Instr} (h : only c j = some i)
    (hj : encode j = some (word y)) (hy : c = true → y = x) : encode i = some (word x) := by
  obtain ⟨hc, rfl⟩ := only_eq_some.mp h
  rw [hj, hy hc]

theorem encode_of_some {α : Type} {word : α → Inst} {x y : α} {i j : Instr} (h : some j = some i)
    (hj : encode j = some (word y)) (hy : y = x) : encode i = some (word x) :=
  encode_of_only (c := true) h hj fun _ => hy

theorem encode_of_parseOp08 {x : Fields} {i : Instr} (hop : x.op.toNat = 0x08) (h : parseOp08 x = some i) :
    encode i = some x.word := by
  unfold parseOp08 at h
  dsimp only at h
  split at h
  case h_6 => contradiction
  all_goals
    refine encode_of_only h rfl fun hc => ?_
    obtain ⟨hb, hs⟩ := shift_fields ‹_› (eq_of_beq hc)
    exact Fields.mk_eq_iff.2
      ⟨BitVec.eq_of_toNat_eq hop.symm, hb, hs, rfl, extract_high_append .., rfl, extract_low_append ..⟩

theorem encode_of_parseOp0e {x : Fields} {i : Instr} (hop : x.op.toNat = 0x0e) (h : parseOp0e x = some i) :
    encode i = some x.word := by
  have hs := bit_wide x
  unfold parseOp0e at h
  split at h
  case isTrue hw =>
    rw [hw] at hs
    exact encode_of_some h rfl (Fields.mk_eq_iff.2
      ⟨BitVec.eq_of_toNat_eq hop.symm, rfl, hs, rfl, extract_high_append .., rfl, extract_low_append ..⟩)
  case isFalse hw =>
    rw [Bool.eq_false_iff.2 hw] at hs
    exact encode_of_some h rfl (Fields.mk_eq_iff.2
      ⟨BitVec.eq_of_toNat_eq hop.symm, rfl, hs, rfl, extract_high_append .., rfl, extract_low_append ..⟩)

theorem encode_of_parseOp15 {x : Fields} {i : Instr} (hop : x.op.toNat = 0x15) (h : parseOp15 x = some i) :
    encode i = some x.word := by
  unfold parseOp15 at h
  split at h
  case h_1 => contradiction
  case h_2 f hf =>
    obtain ⟨hf, -⟩ := fmt3_eq_some.mp hf
    split at h
    case isTrue hg => exact encode_of_only h rfl (by simp_all [Fields.mk_eq_iff, ← BitVec.toNat_inj])
    case isFalse =>
      split at h
      case isTrue => contradiction
      case isFalse hg =>
        have hg := icvt_fields (Bool.eq_false_iff.2 hg)
        exact encode_of_only h rfl (by rw [Fields.mk_eq_iff, hg]; simp_all [← BitVec.toNat_inj])

theorem encode_of_parseOp5c {x : Fields} {i : Instr} (hop : x.op.toNat = 0x5c) (h : parseOp5c x = some i) :
    encode i = some x.word := by
  have hx := Fields.ofSysNo_sysNo hop
  unfold parseOp5c at h
  split at h
  case isTrue hb =>
    rw [hb] at hx
    exact encode_of_only (y := Fields.ofSysNo 1 0 x.a x.sysNo) h rfl fun hd => by rw [← eq_of_beq hd]; exact hx
  case isFalse hb =>
    rw [Bool.eq_false_iff.2 hb] at hx
    exact encode_of_only (y := Fields.ofSysNo 0 x.d 0 x.sysNo) h rfl fun ha => by rw [← eq_of_beq ha]; exact hx

/-- The word of the instruction that fields are read as is the word of the fields. -/
theorem encode_of_parseThread {x : Fields} {i : Instr} (h : parseThread x = some i) : encode i = some x.word := by
  unfold parseThread at h
  split at h
  -- one row for the opcode: 0x00, 0x3e, 0x47, 0x4a to 0x4c, 0x4e to 0x52, 0x58 to 0x5a and 0x62
  case h_1 hop | h_51 hop | h_59 hop | h_62 hop | h_63 hop | h_64 hop | h_66 hop | h_67 hop | h_68 hop | h_69 hop
      | h_70 hop | h_75 hop | h_76 hop | h_77 hop | h_83 hop =>
    exact encode_of_only h rfl (by simp_all [Fields.mk_eq_iff, ← BitVec.toNat_inj])
  -- an immediate: 0x04 to 0x07, 0x09, 0x0a, 0x20 to 0x26 and 0x37; 0x27 to 0x2a, 0x30 to 0x35 and 0x38; 0x0b, 0x0c and 0x36
  case h_5 hop | h_6 hop | h_7 hop | h_8 hop | h_10 hop | h_11 hop | h_23 hop | h_24 hop | h_25 hop | h_26 hop | h_27 hop
      | h_28 hop | h_29 hop | h_46 hop =>
    exact encode_of_some h rfl (Fields.ofImm13_imm13 hop)
  case h_30 hop | h_31 hop | h_32 hop | h_33 hop | h_39 hop | h_40 hop | h_41 hop | h_42 hop | h_43 hop | h_44 hop =>
    exact encode_of_some h rfl (Fields.ofImmS_immS hop)
  case h_47 hop =>
    exact encode_of_only (y := Fields.ofImmS 0x38 0 x.a x.immS) h rfl fun hb => by
      rw [← eq_of_beq hb]
      exact Fields.ofImmS_immS hop
  case h_12 hop | h_13 hop | h_45 hop =>
    exact encode_of_some h rfl (Fields.ofImm19_imm19 hop)
  -- sub-functions in g: the opcodes that are named below
  case h_3 hop | h_14 hop | h_35 hop | h_50 hop | h_52 hop | h_55 hop | h_56 hop | h_57 hop | h_60 hop | h_61 hop
      | h_65 hop | h_71 hop | h_79 hop | h_80 hop | h_81 hop | h_82 hop | h_84 hop | h_85 hop | h_86 hop =>
    simp only [parseOp02, parseOp0d, parseOp2c, parseOp3c, parseOp3f, parseOp42, parseOp43, parseOp44, parseOp48, parseOp49,
      parseOp4d, parseOp53, parseOp5d, parseOp5e, parseOp5f, parseOp60, parseOp63, parseOp64, parseOp66] at h
    have hf := bit_append_extract x.f
    split at h
    any_goals contradiction
    all_goals exact encode_of_only h rfl (by simp_all [Fields.mk_eq_iff, bit_wide, ← BitVec.toNat_inj])
  -- an operand code in f and nothing in g, or g as it stands
  case h_20 hop | h_37 hop | h_48 hop | h_49 hop | h_73 hop =>
    simp only [parseOp14, parseOp2e, parseOp3a, parseOp3b, parseOp55] at h
    split at h
    · contradiction
    · exact encode_of_only h rfl
        (by simp_all [Fields.mk_eq_iff, bit_wide, fmt3_eq_some, scope_eq_some, twf_eq_some, ← BitVec.toNat_inj])
  -- an operand code in f and sub-functions in g
  case h_16 hop | h_17 hop | h_18 hop | h_22 hop | h_34 hop | h_38 hop | h_53 hop | h_58 hop | h_72 hop | h_74 hop =>
    simp only [parseOp10, parseOp11, parseOp12, parseOp16, parseOp2b, parseOp2f, parseOp40, parseOp46, parseOp54,
      parseOp56] at h
    split at h
    · contradiction
    split at h
    any_goals contradiction
    all_goals
      exact encode_of_only h rfl
        (by simp_all [Fields.mk_eq_iff, fmt3_eq_some, scope_eq_some, mf3_eq_some, twf_eq_some, ← BitVec.toNat_inj])
  case h_36 hop =>
    simp only [parseOp2d] at h
    split at h
    · contradiction
    split at h
    any_goals contradiction
    all_goals exact encode_of_some h rfl (by simp_all [Fields.mk_eq_iff, bit_wide, scope_eq_some, ← BitVec.toNat_inj])
  -- sub-functions in f and g: 0x01 and 0x03
  case h_2 hop =>
    simp only [parseOp01, toNat_append_three] at h
    split at h
    any_goals contradiction
    all_goals exact encode_of_some h rfl (by simp [Fields.mk_eq_iff, bit_wide, ← BitVec.toNat_inj]; omega)
  case h_4 hop =>
    simp only [parseOp03, toNat_append_three] at h
    split at h
    any_goals contradiction
    all_goals exact encode_of_only h rfl (by simp [Fields.mk_eq_iff, bit_wide, ← BitVec.toNat_inj]; omega)
  -- operand codes in f and g: 0x13 and 0x41
  case h_19 hop =>
    simp only [parseOp13] at h
    split at h
    · exact encode_of_only h rfl (by simp_all [Fields.mk_eq_iff, fmt3_eq_some, ← BitVec.toNat_inj])
    · contradiction
  case h_54 hop =>
    simp only [parseOp41] at h
    split at h
    · exact encode_of_only h rfl (by simp_all [Fields.mk_eq_iff, scope_eq_some, combine_eq_some, ← BitVec.toNat_inj])
    · contradiction
  -- packed fields: 0x08, 0x0e, 0x15 and 0x5c
  case h_9 hop => exact encode_of_parseOp08 hop h
  case h_15 hop => exact encode_of_parseOp0e hop h
  case h_21 hop => exact encode_of_parseOp15 hop h
  case h_78 hop => exact encode_of_parseOp5c hop h
  case h_87 => contradiction

theorem target_of_parseGraph {x : GFields} {i : Instr} (h : parseGraph x = some i) :
    ∃ t u, t.code = x.ta ∧ u.code = x.tb ∧ parseGraphWith x t u = some i := by
  unfold parseGraph at h
  split at h
  case h_1 t u ht hu => exact ⟨t, u, code_of_target ht, code_of_target hu, h⟩
  case h_2 => contradiction

theorem encode_of_parseGraph {x : GFields} {i : Instr} (h : parseGraph x = some i) : encode i = some x.word := by
  obtain ⟨t, u, ht, hu, h⟩ := target_of_parseGraph h
  have hbit := bit_getLsbD_zero x.flag
  unfold parseGraphWith at h
  split at h
  -- element-wise: 0x01 to 0x03 and 0x10 to 0x16
  case h_1 hop | h_2 hop | h_3 hop | h_4 hop | h_5 hop | h_6 hop | h_7 hop | h_8 hop | h_9 hop | h_10 hop =>
    obtain ⟨o, ho, h⟩ := Option.bind_eq_some_iff.mp h
    have hcode := code_of_parseElem ho
    exact encode_of_only h rfl (by simp_all [GFields.mk_eq_iff, ← BitVec.toNat_inj])
  -- loads and stores: 0x20 to 0x2a
  case h_11 hop | h_12 hop | h_13 hop | h_14 hop | h_15 hop | h_16 hop | h_17 hop | h_18 hop | h_19 hop | h_20 hop
      | h_21 hop =>
    exact encode_of_only h rfl (by simp_all [GFields.mk_eq_iff, LoadOp.code, StoreOp.code, ← BitVec.toNat_inj])
  -- full/empty operations: 0x2b
  case h_22 hop =>
    obtain ⟨sc, hsc, h⟩ := Option.bind_eq_some_iff.mp h
    have hx : sc.code ++ (feOf (x.x.extractLsb' 0 3).toNat).code = x.x := by
      rw [scope_eq_some.mp hsc, code_feOf, extract_append_extract]
    exact encode_of_only h rfl fun hc =>
      GFields.mk_eq_iff.2 ⟨BitVec.eq_of_toNat_eq hop.symm, (eq_of_beq hc).symm, hx, ht, hu⟩
  -- x as it stands, or zero: 0x6a, 0x6b, 0x6d, 0x75 to 0x78, 0x7c and 0x7d
  case h_25 hop | h_26 hop | h_28 hop | h_36 hop | h_37 hop | h_38 hop | h_39 hop | h_43 hop | h_44 hop =>
    exact encode_of_only h rfl (by simp_all [GFields.mk_eq_iff, ← BitVec.toNat_inj])
  -- flag tells two instructions apart: 0x68, 0x69, 0x7a, and 0x6c, 0x74
  case h_23 hop | h_24 hop | h_41 hop =>
    simp only [parseGraph68, parseGraph69, parseGraph7a] at h
    split at h
    all_goals exact encode_of_only h rfl (by simp_all [GFields.mk_eq_iff, ← BitVec.toNat_inj])
  case h_27 hop | h_35 hop =>
    simp only [parseGraph6c, parseGraph74] at h
    split at h
    all_goals exact encode_of_some h rfl (by simp_all [GFields.mk_eq_iff, ← BitVec.toNat_inj])
  -- sub-functions in x: 0x6e
  case h_29 hop =>
    unfold parseGraph6e at h
    split at h
    any_goals contradiction
    all_goals exact encode_of_only h rfl (by simp_all [GFields.mk_eq_iff, ← BitVec.toNat_inj])
  -- an operand code in the high half of x: 0x6f, 0x70, 0x71 and 0x73
  case h_30 hop =>
    unfold parseGraph6f at h
    split at h
    case h_1 sc hsc =>
      refine encode_of_only h rfl fun hc => ?_
      obtain ⟨hflag, hlow⟩ : x.flag = 0 ∧ x.x.extractLsb' 0 3 = 0 := by simpa using hc
      rw [scope_eq_some.mp hsc]
      exact GFields.mk_eq_iff.2 ⟨BitVec.eq_of_toNat_eq hop.symm, hflag.symm, append_extract_high hlow.symm, ht, hu⟩
    case h_2 => contradiction
  case h_31 hop =>
    unfold parseGraph70 at h
    split at h
    case h_1 mf hmf =>
      exact encode_of_some h rfl (GFields.mk_eq_iff.2
        ⟨BitVec.eq_of_toNat_eq hop.symm, hbit, append_extract_low (mf3_eq_some.mp hmf), ht, hu⟩)
    case h_2 => contradiction
  case h_32 hop =>
    unfold parseGraph71 at h
    split at h
    case h_1 mf hmf =>
      exact encode_of_only h rfl fun hc => GFields.mk_eq_iff.2
        ⟨BitVec.eq_of_toNat_eq hop.symm, (eq_of_beq hc).symm, append_extract_low (mf3_eq_some.mp hmf), ht, hu⟩
    case h_2 => contradiction
  case h_34 hop =>
    unfold parseGraph73 at h
    split at h
    case h_1 f hf =>
      refine encode_of_only h rfl fun hc => ?_
      rw [graphFmt_eq_some.mp hf]
      exact GFields.mk_eq_iff.2
        ⟨BitVec.eq_of_toNat_eq hop.symm, hbit, append_extract_high (eq_of_beq hc).symm, ht, hu⟩
    case h_2 => contradiction
  -- a sub-function in the high half of x: 0x72, 0x7b and 0x79
  case h_33 hop | h_42 hop =>
    simp only [parseGraph72, parseGraph7b] at h
    split at h
    case h_4 => contradiction
    all_goals exact encode_of_only h rfl fun hc => GFields.mk_eq_iff.2 ⟨BitVec.eq_of_toNat_eq hop.symm,
          (eq_of_beq hc).symm, append_extract_low (BitVec.eq_of_toNat_eq (Eq.symm ‹_›)), ht, hu⟩
  case h_40 hop =>
    unfold parseGraph79 at h
    split at h
    case h_1 m hn =>
      exact encode_of_only h rfl fun hc => GFields.mk_eq_iff.2
        ⟨BitVec.eq_of_toNat_eq hop.symm, (eq_of_beq hc).symm, (upd_code hn rfl).1 rfl, ht, hu⟩
    case h_2 hn hm | h_3 hn hm | h_4 hn hm =>
      exact encode_of_only h rfl fun hc => GFields.mk_eq_iff.2
        ⟨BitVec.eq_of_toNat_eq hop.symm, (eq_of_beq hc).symm, (upd_code hn hm).2 rfl, ht, hu⟩
    case h_5 => contradiction
  case h_45 => contradiction

/-! Decoding and encoding -/

theorem decodeThread_word {i : Instr} {x : Fields} (hwf : i.wf = true) (hx : threadFields i = some x) :
    decodeThread x.word = some i := by
  rw [decodeThread, threadForm_word, parseThread_of_threadFields hwf hx, Option.filter_some, if_pos hwf]

theorem decodeGraph_word {i : Instr} {x : GFields} (hwf : i.wf = true) (hx : graphFields i = some x) :
    decodeGraph x.word = some i := by
  rw [decodeGraph, graphForm_word, parseGraph_of_graphFields hx, Option.filter_some, if_pos hwf]

/-- The OP of a header is no instruction's. -/
theorem isHeader_of_decodeThread {w : Inst} {i : Instr} (h : decodeThread w = some i) : isHeader w = false := by
  by_contra hheader
  obtain hop : (threadForm w).op = 0x7f := eq_of_beq (Bool.eq_true_of_not_eq_false hheader)
  have hnone : parseThread (threadForm w) = none := by
    unfold parseThread
    rw [hop]
    rfl
  simp [decodeThread, hnone] at h

theorem encode_of_decodeThread {w : Inst} {i : Instr} (h : decodeThread w = some i) :
    i.wf = true ∧ encode i = some w := by
  obtain ⟨hparse, hwf⟩ := Option.filter_eq_some_iff.mp h
  exact ⟨hwf, by rw [encode_of_parseThread hparse, word_threadForm]⟩

theorem encode_of_decodeGraph {w : Inst} {i : Instr} (h : decodeGraph w = some i) :
    i.wf = true ∧ encode i = some w := by
  obtain ⟨hparse, hwf⟩ := Option.filter_eq_some_iff.mp h
  exact ⟨hwf, by rw [encode_of_parseGraph hparse, word_graphForm]⟩

end Sys2Proof

namespace Sys2Proof.Machine

/-- Settles O56: reading an instruction's fields gives the instruction, and fields read as an instruction are its own. -/
theorem wordsAndInstructionsAgree : Obligations.WordsAndInstructionsAgree := by
  unfold Obligations.WordsAndInstructionsAgree
  refine ⟨fun i w hwf hw => ⟨fun hthread => ?_, fun hthread => ?_⟩,
    fun w i => ⟨encode_of_decodeThread, encode_of_decodeGraph⟩⟩
  · obtain ⟨x, hx⟩ := Option.isSome_iff_exists.mp hthread
    obtain rfl : x.word = w := by simpa [encode, hx] using hw
    have hdecode := decodeThread_word hwf hx
    exact ⟨hdecode, isHeader_of_decodeThread hdecode⟩
  · have hnone : threadFields i = none := by simpa using hthread
    obtain ⟨x, hx, rfl⟩ : ∃ x, graphFields i = some x ∧ x.word = w := by simpa [encode, hnone] using hw
    exact decodeGraph_word hwf hx

end Sys2Proof.Machine
end

section
/-!
SUPPORT. System registers (06 R187; 09 R313; 14 R372, R374, R378): the registers by their numbers, what SYSR and SYSW do to
one that they may read and write, and the traps of the others.
-/

namespace Sys2Proof.Machine

variable {s : State} {d a : Reg} {n : BitVec 12} {r : SysReg}

theorem State.plain_srcs {s : State} {as ds : List Reg} (h : s.plain as ds = true) : s.plain as [] = true := by
  simp_all [State.plain, State.hazard, List.any_append]

theorem State.plain_dsts {s : State} {as ds : List Reg} (h : s.plain as ds = true) : s.plain [] ds = true := by
  simp_all [State.plain, State.hazard, List.any_append]

/-! Numbers -/

/-- The registers without an unprivileged view. -/
def privilegedNumbers : List (BitVec 12) :=
  [0x100, 0x101, 0x102, 0x110, 0x111, 0x112, 0x113, 0x114, 0x115, 0x116, 0x117, 0x118, 0x119, 0x11a, 0x11b, 0x11c, 0x11d]

/-- Whether a register shows a field of the head record of the trap queue. -/
def SysReg.ofHead : SysReg → Bool
  | .tcause | .twho | .tpc | .tinst | .tval | .taux | .tmsg _ => true
  | _ => false

theorem sysReg_of_mem (h : n ∈ privilegedNumbers) :
    ∃ r, sysReg n = some r ∧ r.privileged = true ∧ (0x111 ≤ n.toNat → n ≠ 0x117 → r.ofHead = true) := by
  simp only [privilegedNumbers, List.mem_cons, List.not_mem_nil, or_false] at h
  obtain rfl | rfl | rfl | rfl | rfl | rfl | rfl | rfl | rfl | rfl | rfl | rfl | rfl | rfl | rfl | rfl | rfl := h <;>
    exact ⟨_, rfl, rfl, by decide⟩

theorem sysReg_tmsg {k : Nat} (hk : k < 6) : sysReg (0x118 + BitVec.ofNat 12 k) = some (.tmsg k) := by
  interval_cases k <;> rfl

theorem mem_privilegedNumbers_of_tmsg (hl : 0x118 ≤ n.toNat) (hu : n.toNat ≤ 0x11d) : n ∈ privilegedNumbers := by
  obtain ⟨k, hk⟩ : ∃ k, k = n.toNat := ⟨_, rfl⟩
  obtain rfl : n = BitVec.ofNat 12 k := by simp [hk]
  rw [← hk] at hl hu
  interval_cases k <;> decide

theorem sysReg_reserved (hp : n ∉ privilegedNumbers) (hu : n ∉ [1, 2, 4, 5, 6, 7, (8 : BitVec 12)]) :
    sysReg n = none := by
  unfold sysReg
  split
  case h_19 =>
    refine if_neg fun h => hp ?_
    obtain ⟨hl, hu⟩ : 0x118 ≤ n.toNat ∧ n.toNat ≤ 0x11d := by simpa using h
    exact mem_privilegedNumbers_of_tmsg hl hu
  all_goals simp_all [privilegedNumbers, ← BitVec.toNat_inj]

/-! SYSR and SYSW at issue -/

/-- A register that there is has no fault where the slot may see it. -/
theorem sysFault_eq_none (s : State) (hr : sysReg n = some r) (hview : r.privileged = true → isPriv s.cur = true) :
    sysFault s.cur n = none := by
  cases hp : r.privileged <;> simp_all [sysFault]

theorem sysFault_unseen (hr : sysReg n = some r) (hp : r.privileged = true) (hu : isPriv s.cur = false) :
    sysFault s.cur n = some (.trap 0x02 1 (n.zeroExtend 64) 0) := by
  simp [sysFault, hr, hp, hu]

theorem sysFault_reserved (hr : sysReg n = none) : sysFault s.cur n = some (.trap 0x01 4 (n.zeroExtend 64) 0) := by
  simp [sysFault, hr]

theorem execSysr_of_fault {cause sub : Byte} {val aux : Word} (hp : s.plain [] [d] = true)
    (hf : sysFault s.cur n = some (.trap cause sub val aux)) :
    exec (.sysr d n) s = .next (s.takeTrap s.cur cause sub (s.slot s.cur).pc s.word val aux) := by
  change s.issue _ _ _ = _
  rw [s.issue_plain hp, hf]
  rfl

theorem execSysw_of_fault {cause sub : Byte} {val aux : Word} (hp : s.plain [a] [] = true)
    (hf : sysFault s.cur n = some (.trap cause sub val aux)) :
    exec (.sysw n a) s = .next (s.takeTrap s.cur cause sub (s.slot s.cur).pc s.word val aux) := by
  change s.issue _ _ _ = _
  rw [s.issue_plain hp]
  simp only [hf]
  rfl

theorem execSysr_reads {v : Word} (hp : s.plain [] [d] = true) (hr : sysReg n = some r)
    (hview : r.privileged = true → isPriv s.cur = true) (hn : r ≠ .tqstat) (hv : s.readSys s.cur r = v) :
    exec (.sysr d n) s = .next (s.finish d v) := by
  change s.issue _ _ _ = _
  rw [s.issue_plain hp, sysFault_eq_none s hr hview, hr]
  simp [hn, hv, State.perform]

/-- TQSTAT reads the count of the queue, and drops the L1D where it counts a record (14 R370). -/
theorem execSysr_tqstat (hp : s.plain [] [d] = true) (hpriv : isPriv s.cur = true) :
    exec (.sysr d 0x110) s = .next ((if s.curCore.traps = [] then s else s.dropL1d s.cur.die s.cur.core).finish d
      (BitVec.ofNat 64 s.curCore.traps.length)) := by
  change s.issue _ _ _ = _
  have hr : sysReg 0x110 = some .tqstat := rfl
  rw [s.issue_plain hp, sysFault_eq_none s hr fun _ => hpriv, hr]
  cases h : s.curCore.traps with
  | nil =>
    rw [State.curCore] at h
    simp [State.readSys, h, State.perform]
  | cons r rest =>
    rw [State.curCore] at h
    simp [State.readSys, h, State.perform]

theorem execSysw_writes {t : State} (hp : s.plain [a] [] = true) (hr : sysReg n = some r)
    (hview : r.privileged = true → isPriv s.cur = true) (hv : reservedSys r (s.reg s.cur a) = false)
    (hw : s.writeSys s.cur r ((s.slot s.cur).pc + 4) (s.reg s.cur a) = some t) : exec (.sysw n a) s = .next t.advance := by
  change s.issue _ _ _ = _
  rw [s.issue_plain hp]
  simp only [List.map_cons, List.getD_cons_zero, sysFault_eq_none s hr hview, hr, hv, hw, Bool.false_eq_true, ↓reduceIte]
  rfl

theorem execSysw_reserved (hp : s.plain [a] [] = true) (hr : sysReg n = some r)
    (hview : r.privileged = true → isPriv s.cur = true) (hv : reservedSys r (s.reg s.cur a) = true) :
    exec (.sysw n a) s = .next (s.takeTrap s.cur 0x01 3 (s.slot s.cur).pc s.word (n.zeroExtend 64) 0) := by
  change s.issue _ _ _ = _
  rw [s.issue_plain hp, sysFault_eq_none s hr hview, hr]
  simp [hv, State.perform]

/-! The head record -/

theorem State.readSys_ofHead_nil {i : SlotId} (h : (s.core i.die i.core).traps = []) (hr : r.ofHead = true) :
    s.readSys i r = 0 := by
  cases r <;> simp_all [State.readSys, SysReg.ofHead]

/-- Popping a record that is no message return leaves the rest of the queue, and nothing else changes. -/
theorem State.popTrap_record {i : Die} {c : CoreNo} {q : TrapRec} {rest : List TrapRec} (h : (s.core i c).traps = q :: rest)
    (hq : q.len = 0) : s.popTrap i c = s.modCore i c fun x => { x with traps := rest } := by
  simp only [State.popTrap, State.modCore, h, hq, ↓reduceIte]

/-! The obligation -/

/-- Settles O26: by the register of the number. -/
theorem systemRegisters : Obligations.SystemRegisters := by
  unfold Obligations.SystemRegisters
  intro s d a hp i me c w reads writes traps privileged
  have hpd : s.plain [] [d] = true := State.plain_dsts hp
  have hpa : s.plain [a] [] = true := State.plain_srcs hp
  refine ⟨?reads, ?writes, ?privileged, ?unseen, ?reserved⟩
  case reads =>
    refine ⟨?_, ?_, ?_, ?_, ?_, ?_, ?_⟩
    · exact execSysr_reads hpd rfl nofun nofun (BitVec.setWidth_eq_append (by decide))
    · exact execSysr_reads hpd rfl nofun nofun (BitVec.setWidth_eq_append (by decide))
    · exact execSysr_reads hpd rfl nofun nofun (BitVec.setWidth_eq_append (by decide))
    · exact execSysr_reads hpd rfl nofun nofun (BitVec.setWidth_eq_append (by decide))
    · exact execSysr_reads hpd rfl nofun nofun rfl
    · exact execSysr_reads hpd rfl nofun nofun (BitVec.setWidth_eq_append (by decide))
    · exact execSysr_reads hpd rfl nofun nofun rfl
  case writes =>
    refine ⟨?_, ?_, ?_, fun hdom => ?_, fun hdom => ?_, fun hseed => ?_, ?_⟩
    · exact execSysw_writes hpa rfl nofun rfl rfl
    · exact execSysw_writes hpa rfl nofun rfl rfl
    · exact execSysw_writes hpa rfl nofun rfl rfl
    · exact execSysw_writes hpa (r := .tdom) rfl nofun (decide_eq_false (Nat.not_lt.2 hdom)) rfl
    · exact execSysw_reserved hpa (r := .tdom) rfl nofun (decide_eq_true hdom)
    · refine execSysw_writes hpa (r := .srlfsr) rfl nofun rfl (congrArg some ?_)
      exact congrArg (fun z => s.modSlot i fun x => { x with lfsr := z }) (if_neg hseed)
    · exact execSysw_writes hpa rfl nofun rfl rfl
  case privileged =>
    intro hpriv
    have seen : ∀ {r : SysReg}, r.privileged = true → isPriv s.cur = true := fun _ => hpriv
    refine ⟨?_, ?_, fun hempty => ?_, fun hrecord => ?_, ?_, ?_, fun hthresh => ?_, fun hthresh => ?_,
      fun r rest hhead => ?_, fun hempty n hn hlow hsv => ?_, fun hpop => ?_⟩
    · exact execSysr_reads hpd rfl seen nofun rfl
    · exact execSysr_reads hpd rfl seen nofun (BitVec.setWidth_eq_append (by decide))
    · exact (execSysr_tqstat hpd hpriv).trans (by rw [if_pos hempty, hempty]; rfl)
    · exact (execSysr_tqstat hpd hpriv).trans (by rw [if_neg hrecord]; rfl)
    · exact execSysr_reads hpd rfl seen nofun (BitVec.setWidth_eq_append (by decide))
    · exact execSysw_writes hpa rfl seen rfl rfl
    · exact execSysw_writes hpa (r := .migthr) rfl seen (decide_eq_false (Nat.not_lt.2 hthresh)) rfl
    · exact execSysw_reserved hpa (r := .migthr) rfl seen (decide_eq_true hthresh)
    · have hqueue : (s.core s.cur.die s.cur.core).traps = r :: rest := hhead
      refine ⟨?_, ?_, ?_, ?_, ?_, ?_, fun k hk => ?_, fun hpop hlen => ?_⟩
      · exact execSysr_reads hpd rfl seen nofun (by simp only [State.readSys, hqueue]; rfl)
      · exact execSysr_reads hpd rfl seen nofun (by simp only [State.readSys, hqueue]; rfl)
      · exact execSysr_reads hpd rfl seen nofun (by simp only [State.readSys, hqueue])
      · exact execSysr_reads hpd rfl seen nofun
          (by simp only [State.readSys, hqueue]; exact BitVec.setWidth_eq_append (by decide))
      · exact execSysr_reads hpd rfl seen nofun (by simp only [State.readSys, hqueue])
      · exact execSysr_reads hpd rfl seen nofun (by simp only [State.readSys, hqueue])
      · exact execSysr_reads hpd (sysReg_tmsg hk) seen nofun (by simp only [State.readSys, hqueue])
      · exact execSysw_writes hpa rfl seen rfl
          (congrArg some ((if_pos hpop).trans (State.popTrap_record hqueue hlen)))
    · obtain ⟨r, hr, -, hof⟩ := sysReg_of_mem hn
      exact execSysr_reads hpd hr seen (by rintro rfl; cases hof hlow hsv) (State.readSys_ofHead_nil hempty (hof hlow hsv))
    · exact execSysw_writes hpa rfl seen rfl (congrArg some (if_neg (ne_true_of_eq_false hpop)))
  case unseen =>
    intro hu n hn
    obtain ⟨r, hr, hv, -⟩ := sysReg_of_mem hn
    exact ⟨execSysr_of_fault hpd (sysFault_unseen hr hv hu), execSysw_of_fault hpa (sysFault_unseen hr hv hu)⟩
  case reserved =>
    intro n hn hn'
    have hr := sysReg_reserved hn hn'
    exact ⟨execSysr_of_fault hpd (sysFault_reserved hr), execSysw_of_fault hpa (sysFault_reserved hr)⟩

end Sys2Proof.Machine
end

section
/-!
SUPPORT. Privileged instructions (06 R193; 09 R314 to R316): PRIV in user slots, WFI and HALT, and the entries that TLBINV
leaves in the TLBs of its die.
-/

namespace Sys2Proof

/-! Tables whose entries all change -/

variable {α : Type} {d : α} {t : Tbl α}

theorem tblGet_of_forall_ne {k : Nat} (h : ∀ e ∈ t, e.1 ≠ k) : tblGet d k t = d := by
  induction t with
  | nil => rfl
  | cons e r ih =>
    obtain ⟨i, x⟩ := e
    rw [tblGet, if_neg (h (i, x) List.mem_cons_self)]
    exact ih fun e he => h e (List.mem_cons_of_mem _ he)

/-- The entry of a key, when every entry is changed by its key and those that become the default are dropped. -/
theorem tblGet_map_filter [DecidableEq α] (g : Nat → α → α) (hg : ∀ k, g k d = d) (h : tblWf d t = true) (k : Nat) :
    tblGet d k ((t.map fun e => (e.1, g e.1 e.2)).filter fun e => e.2 != d) = g k (tblGet d k t) := by
  obtain ⟨hkeys, -⟩ := (tblWf_iff d t).1 h
  clear h
  induction t with
  | nil => exact (hg k).symm
  | cons e r ih =>
    obtain ⟨i, x⟩ := e
    rw [List.map_cons, List.pairwise_cons] at hkeys
    obtain ⟨hlow, hkeys⟩ := hkeys
    by_cases hi : i = k
    · subst hi
      have hrest : tblGet d i ((r.map fun e => (e.1, g e.1 e.2)).filter fun e => e.2 != d) = d := by
        refine tblGet_of_forall_ne fun e he => ?_
        obtain ⟨f, hf, rfl⟩ := List.mem_map.1 (List.mem_of_mem_filter he)
        exact (hlow _ (List.mem_map_of_mem hf)).ne'
      by_cases hx : g i x = d
      · simp [hx, tblGet, hrest]
      · simp [hx, tblGet]
    · by_cases hx : g i x = d
      · simp [hx, tblGet, hi, ih hkeys]
      · simp [hx, tblGet, hi, ih hkeys]

end Sys2Proof

namespace Sys2Proof.Machine

variable {s : State} {d a b : Reg}

/-! PRIV -/

theorem State.issuePriv_user (hu : isPriv s.cur = false) (srcs dsts : List Reg) (k : List Word → State → Act) :
    s.issuePriv srcs dsts k = .next (s.takeTrap s.cur 0x02 0 (s.slot s.cur).pc s.word 0 0) := by
  rw [State.issuePriv, if_neg (ne_true_of_eq_false hu)]
  rfl

theorem exec_privileged_user (hu : isPriv s.cur = false) {i : Instr}
    (hi : i ∈ [.eret a, .wfi a, .spill a b, .fillslot d a, .slotregR d a b, .slotregW d a b, .tlbinv, .tlbinvAsid a,
      .tlbinvPage a b, .halt, .heddleRep d a b, .heddleRet d a b, .heddlePub d a b, .heddleSw a, .heddleRd d a]) :
    exec i s = .next (s.takeTrap s.cur 0x02 0 (s.slot s.cur).pc s.word 0 0) := by
  simp only [List.mem_cons, List.not_mem_nil, or_false] at hi
  obtain rfl | rfl | rfl | rfl | rfl | rfl | rfl | rfl | rfl | rfl | rfl | rfl | rfl | rfl | rfl := hi <;>
    exact State.issuePriv_user hu _ _ _

/-! WFI and HALT -/

/-- The mask of mailboxes that WFI waits for. -/
def State.wfiMask (s : State) (a : Reg) : BitVec 32 := (s.reg s.cur a).extractLsb' 0 32

section
variable (hpriv : isPriv s.cur = true)
include hpriv

theorem execWfi_ends (hp : s.plain [a] [] = true)
    (h : s.curCore.traps ≠ [] ∨ s.curCore.anyMessage (s.wfiMask a) = true) :
    exec (.wfi a) s = .next (s.dropL1d s.cur.die s.cur.core).advance := by
  change s.issuePriv _ _ _ = _
  rw [State.issuePriv_plain hpriv hp]
  simp only [List.map_cons, List.getD_cons_zero]
  rw [if_pos (by simpa [State.wfiMask] using h)]
  rfl

theorem execWfi_parks (hp : s.plain [a] [] = true) (ht : s.curCore.traps = [])
    (hm : s.curCore.anyMessage (s.wfiMask a) = false) :
    exec (.wfi a) s = .next ((s.modSlot s.cur fun x =>
      { x with parkKey := (s.wfiMask a).zeroExtend 64, parkDst := none }).enter s.cur .parkMsg .retry) := by
  change s.issuePriv _ _ _ = _
  rw [State.issuePriv_plain hpriv hp]
  simp only [List.map_cons, List.getD_cons_zero]
  rw [if_neg (by simpa [State.wfiMask, ht] using hm)]
  rfl

theorem execHalt_eq : exec .halt s = .next (if s.coreBusy s.cur.die s.cur.core then s.waitData s.cur
    else s.advance.modCore s.cur.die s.cur.core fun x => { x with halted := true }) := by
  change s.issuePriv _ _ _ = _
  rw [State.issuePriv_plain hpriv rfl]
  split <;> rfl

theorem execTlbinv_eq : exec .tlbinv s = .next (s.invalidate (fun _ => false) (fun _ => false)).advance := by
  change s.issuePriv _ _ _ = _
  rw [State.issuePriv_plain hpriv rfl]
  rfl

theorem execTlbinvAsid_eq (hp : s.plain [b] [] = true) : ∃ walk, exec (.tlbinvAsid b) s = .next (s.invalidate
    (fun e => e.asid != (s.reg s.cur b).extractLsb' 0 16 || e.leaf.getLsbD 11) walk).advance := by
  change ∃ walk, s.issuePriv _ _ _ = _
  rw [State.issuePriv_plain hpriv hp]
  exact ⟨_, rfl⟩

theorem execTlbinvPage_eq (hp : s.plain [a, b] [] = true) : ∃ walk, exec (.tlbinvPage a b) s = .next (s.invalidate
    (fun e => !e.covers ((s.reg s.cur b).extractLsb' 0 16) (s.reg s.cur a).toNat) walk).advance := by
  change ∃ walk, s.issuePriv _ _ _ = _
  rw [State.issuePriv_plain hpriv hp]
  exact ⟨_, rfl⟩

end

/-! TLBINV -/

theorem coreKey_div (d : Die) (c : CoreNo) : coreKey d c / 2048 = d.toNat := by
  rw [coreKey]
  omega

/-- A core's part of TLBINV, by its key. -/
def invalidateCore (d : Die) (keep : TlbEntry → Bool) (k : Nat) (x : CoreSt) : CoreSt :=
  if k / 2048 == d.toNat then { x with tlb := x.tlb.filter keep } else x

theorem invalidateCore_default (d : Die) (keep : TlbEntry → Bool) (k : Nat) : invalidateCore d keep k {} = {} := by
  rw [invalidateCore]
  split <;> rfl

theorem State.invalidate_cores (keep : TlbEntry → Bool) (walk : WalkEntry → Bool) :
    (s.invalidate keep walk).cores
      = (s.cores.map fun e => (e.1, invalidateCore s.cur.die keep e.1 e.2)).filter fun e => e.2 != ({} : CoreSt) := by
  refine congrArg (List.filter fun e : Nat × CoreSt => e.2 != {}) (List.map_congr_left fun e _ => ?_)
  rw [invalidateCore]
  split <;> rfl

/-- A core's TLB after TLBINV keeps what the operands do not name; cores of other dies stay as they are. -/
theorem State.invalidate_core (hwf : tblWf {} s.cores = true) (keep : TlbEntry → Bool) (walk : WalkEntry → Bool)
    (d : Die) (c : CoreNo) : (s.invalidate keep walk).core d c =
      if d = s.cur.die then { s.core d c with tlb := (s.core d c).tlb.filter keep } else s.core d c := by
  rw [State.core, State.invalidate_cores, tblGet_map_filter _ (invalidateCore_default s.cur.die keep) hwf, invalidateCore,
    coreKey_div]
  simp only [beq_iff_eq, BitVec.toNat_inj]
  rfl

theorem State.invalidate_tlb (hwf : tblWf {} s.cores = true) (keep : TlbEntry → Bool) (walk : WalkEntry → Bool)
    (c : CoreNo) : ((s.invalidate keep walk).core s.cur.die c).tlb = (s.core s.cur.die c).tlb.filter keep := by
  rw [State.invalidate_core hwf, if_pos rfl]

theorem State.invalidate_other (hwf : tblWf {} s.cores = true) (keep : TlbEntry → Bool) (walk : WalkEntry → Bool)
    {d : Die} (h : d ≠ s.cur.die) (c : CoreNo) : (s.invalidate keep walk).core d c = s.core d c := by
  rw [State.invalidate_core hwf, if_neg h]

theorem State.invalidate_walks (keep : TlbEntry → Bool) (walk : WalkEntry → Bool) :
    ((s.invalidate keep walk).die s.cur.die).walks = (s.die s.cur.die).walks.filter walk := by
  rw [State.invalidate, State.modDie_self]
  rfl

/-! The obligation -/

/-- Settles O27: PRIV by the issue of each instruction, WFI and HALT by their conditions, TLBINV by what it keeps. -/
theorem privilegedInstructions : Obligations.PrivilegedInstructions := by
  unfold Obligations.PrivilegedInstructions
  refine ⟨fun s d a b i hu hi => exec_privileged_user hu hi, ?_⟩
  intro s a b c hpriv i mask asid
  refine ⟨fun hp => ⟨execWfi_ends hpriv hp, fun ht hm => ⟨_, execWfi_parks hpriv hp ht hm, ?_⟩⟩, fun hb => ?_,
    fun hb => ?_, fun hwf => ⟨⟨_, execTlbinv_eq hpriv, ?_, ?_, rfl, rfl⟩, fun hp => ?_, fun hp => ?_⟩⟩
  · refine ⟨?_, ?_, ?_, fun j hj => ?_, rfl, rfl⟩
    · rw [State.enter_slot]
    · rw [State.enter_slot, State.modSlot_self]
    · rw [State.enter_slot, State.modSlot_self]
      exact BitVec.setWidth_eq_append (x := s.wfiMask a) (w := 64) (by decide)
    · rw [State.enter_ne _ hj, State.modSlot_ne _ hj]
  · exact (execHalt_eq hpriv).trans (congrArg _ (if_neg (ne_true_of_eq_false hb)))
  · exact (execHalt_eq hpriv).trans (congrArg _ (if_pos hb))
  · rw [State.invalidate_tlb hwf, List.filter_false]
  · rw [State.invalidate_walks, List.filter_false]
  · obtain ⟨walk, htlbinv⟩ := execTlbinvAsid_eq hpriv hp
    refine ⟨_, htlbinv, ?_, fun d hd => State.invalidate_other hwf _ _ hd c, rfl, rfl⟩
    rw [State.invalidate_tlb hwf]
    simp [asid, i, bne, beq_eq_decide]
  · obtain ⟨walk, htlbinv⟩ := execTlbinvPage_eq hpriv hp
    refine ⟨_, htlbinv, ?_, fun d hd => State.invalidate_other hwf _ _ hd c, rfl, rfl⟩
    rw [State.invalidate_tlb hwf]

end Sys2Proof.Machine
end

section
/-!
SUPPORT. A result in its register (06 R183 to R185), and what the completed instruction leaves as it was.
-/

namespace Sys2Proof.Machine

/-! The registers of the slot -/

/-- A slot with a result in a general register or in a double of its message window. -/
def SlotSt.takeResult (x : SlotSt) (r : Reg) (v : Word) : SlotSt :=
  if r < 32 then x.setG r v else if 48 ≤ r && r < 54 then x.setMw (r.toNat - 48) v else x

section
variable (x : SlotSt) {r : Reg} (v : Word)

theorem SlotSt.takeResult_general (h : r < 32) : x.takeResult r v = x.setG r v := if_pos h

theorem SlotSt.takeResult_window (h : 48 ≤ r) (h' : r < 54) : x.takeResult r v = x.setMw (r.toNat - 48) v := by
  have hr : ¬ r < 32 := by bv_omega
  rw [SlotSt.takeResult, if_neg hr, decide_eq_true h, decide_eq_true h']
  rfl

theorem SlotSt.takeResult_other (h : ¬ r < 32) (h' : ¬(48 ≤ r ∧ r < 54)) : x.takeResult r v = x := by
  rw [SlotSt.takeResult, if_neg h, if_neg (by simpa using h')]

theorem SlotSt.takeResult_g (q : Reg) :
    (x.takeResult r v).g q = if q = r ∧ r ≠ 0 ∧ r < 32 then v else x.g q := by
  by_cases hr : r < 32
  · rw [x.takeResult_general v hr]
    by_cases hq : q = r
    · by_cases h0 : r = 0
      · subst h0
        rw [if_neg fun h => h.2.1 rfl]
        rfl
      · rw [if_pos ⟨hq, h0, hr⟩, hq, x.g_setG_self h0]
    · rw [if_neg fun h => hq h.1, x.g_setG_ne hq]
  · rw [if_neg fun h => hr h.2.2]
    by_cases hw : 48 ≤ r ∧ r < 54
    · rw [x.takeResult_window v hw.1 hw.2]
      rfl
    · rw [x.takeResult_other v hr hw]

theorem SlotSt.takeResult_mw (k : Nat) :
    (x.takeResult r v).mw k = if 48 ≤ r ∧ r < 54 ∧ r.toNat = 48 + k then v else x.mw k := by
  by_cases hw : 48 ≤ r ∧ r < 54
  · obtain ⟨h48, h54⟩ := hw
    have h : 48 ≤ r.toNat := h48
    rw [x.takeResult_window v h48 h54]
    by_cases hk : r.toNat = 48 + k
    · rw [if_pos ⟨h48, h54, hk⟩, show k = r.toNat - 48 by omega, SlotSt.mw_setMw_self]
    · rw [if_neg fun e => hk e.2.2, x.mw_setMw_ne (by omega)]
  · rw [if_neg fun h => hw ⟨h.1, h.2.1⟩]
    by_cases hr : r < 32
    · rw [x.takeResult_general v hr, SlotSt.mw, SlotSt.setG_win]
      rfl
    · rw [x.takeResult_other v hr hw]

/-- A result changes only the registers and the window. -/
theorem SlotSt.takeResult_only : ∃ regs win, x.takeResult r v = { x with regs := regs, win := win } := by
  refine ⟨(x.takeResult r v).regs, (x.takeResult r v).win, ?_⟩
  simp only [SlotSt.takeResult, SlotSt.setG, SlotSt.setMw]
  repeat' split
  all_goals rfl

end

/-! The state -/

section
variable (s : State) {r : Reg} (v : Word)

theorem State.writeReg_slot (i : SlotId) : (s.writeReg i r v).slot i = (s.slot i).takeResult r v := by
  rw [State.writeReg, SlotSt.takeResult]
  split
  · simp
  · split
    next h =>
      have h48 : ¬ (48 ≤ r && r < 54) = true := by
        simp only [isNet, Bool.and_eq_true, decide_eq_true_eq] at h ⊢
        bv_omega
      rw [if_neg h48]
      dsimp only
      split <;> simp
    next => split <;> simp

/-- A result leaves everything but the slots and the packets on their way. -/
theorem State.writeReg_only (i : SlotId) :
    { s.writeReg i r v with slots := s.slots, net := s.net, nextId := s.nextId } = s := by
  simp only [State.writeReg]
  repeat' split
  all_goals rfl

/-- Only a result for a network register is sent (06 R184). -/
theorem State.writeReg_unsent (i : SlotId) (h : isNet r = false) :
    (s.writeReg i r v).net = s.net ∧ (s.writeReg i r v).nextId = s.nextId := by
  simp only [State.writeReg, h]
  repeat' split
  all_goals simp_all

/-- A result for a network register goes to the core at the other end of its link (06 R184). -/
theorem State.writeReg_sent {i : SlotId} {c : CoreNo} (h : isNet r = true)
    (hc : netPartner i.core (r.toNat - 32) = some c) :
    s.writeReg i r v = s.send (.netWord ⟨i.die, c, 0⟩ (BitVec.ofNat 3 (netOpposite (r.toNat - 32))) v) := by
  have hr : ¬ r < 32 := by
    simp only [isNet, Bool.and_eq_true, decide_eq_true_eq] at h
    bv_omega
  simp only [State.writeReg, if_neg hr, if_pos h, hc]

theorem State.finish_slot : ∃ since limit, (s.finish r v).slot s.cur =
    { (s.slot s.cur).takeResult r v with
      pc := (s.slot s.cur).pc + 4, state := .ready, await := .retry, since := since, limit := limit } := by
  obtain ⟨regs, win, hx⟩ := (s.slot s.cur).takeResult_only (r := r) v
  have h := (s.writeReg s.cur r v).advance_slot
  rw [State.writeReg_cur, s.writeReg_slot, hx] at h
  rw [hx]
  exact ⟨_, _, h⟩

theorem State.finish_ne {i : SlotId} (h : i ≠ s.cur) : (s.finish r v).slot i = s.slot i := by
  rw [State.finish, State.advance_ne _ (by rwa [State.writeReg_cur]), s.writeReg_ne h]

theorem State.finish_only : { s.finish r v with slots := s.slots, net := s.net, nextId := s.nextId } = s :=
  calc { s.finish r v with slots := s.slots, net := s.net, nextId := s.nextId }
    _ = { { (s.writeReg s.cur r v).advance with slots := (s.writeReg s.cur r v).slots } with
          slots := s.slots, net := s.net, nextId := s.nextId } := rfl
    _ = { s.writeReg s.cur r v with slots := s.slots, net := s.net, nextId := s.nextId } := by rw [State.advance_only]
    _ = s := s.writeReg_only v s.cur

end

/-- A completed instruction leaves every other field of its slot. -/
theorem State.finish_slot_only (s : State) (d : Reg) (v : Word) :
    let x := s.slot s.cur
    let y := (s.finish d v).slot s.cur
    { y with pc := x.pc, state := x.state, await := x.await, since := x.since, limit := x.limit, regs := x.regs
             win := x.win } = x := by
  obtain ⟨since, limit, h⟩ := s.finish_slot (r := d) v
  obtain ⟨regs, win, hx⟩ := (s.slot s.cur).takeResult_only (r := d) v
  rw [h, hx]

end Sys2Proof.Machine
end

section
/-!
SUPPORT. A write at its home (04 R140, R141): the bytes that change in the clear, and under an XTS key.
-/

namespace Sys2Proof

/-! The length of a ciphertext -/

@[simp] theorem permute_length (order : List Nat) (l : List Byte) : (permute order l).length = order.length :=
  List.length_map ..

theorem xorBytes_length (a b : List Byte) : (xorBytes a b).length = min a.length b.length := List.length_zipWith

theorem aesEncrypt_length_le (key block : List Byte) : (aesEncrypt key block).length ≤ 16 := by
  rw [aesEncrypt, xorBytes_length, permute_length]
  exact Nat.min_le_left ..

theorem xtsNext_length (t : List Byte) : (xtsNext t).length = 16 := Machine.natBytes_length ..

/-- A sector's ciphertext is no longer than the sector. -/
theorem xtsSector_length_le (enc : Bool) (data tweak : List Byte) (unit : Nat) (bytes : List Byte) :
    (xtsSector enc data tweak unit bytes).length ≤ 48 := by
  have h0 := aesEncrypt_length_le tweak (natBytes 16 unit)
  simp only [xtsSector, List.length_append, xorBytes_length, xtsNext_length]
  omega

namespace Machine

variable (s : State)

/-! Bytes that a write leaves -/

theorem State.byteAt_writeSector {k : KeySlot} {base off a : Nat} (bs : List Byte) (h : a < base ∨ base + 48 ≤ a) :
    (s.writeSector k base off bs).byteAt a = s.byteAt a := by
  simp only [State.byteAt, State.writeSector]
  rw [writeRaw_outside]
  exact h.imp_right (Nat.le_trans (Nat.add_le_add_left (xtsSector_length_le ..) base))

/-- Under an XTS key only the sectors that a write touches change. -/
theorem State.byteAt_writeBytes_xts {key : Byte} {pa a : Nat} (bs : List Byte) (hx : (s.keySlot key pa).xts = true)
    (h : a < pa - paOffset pa % 48 ∨ pa - paOffset pa % 48 + 96 ≤ a) :
    (s.writeBytes key pa bs).byteAt a = s.byteAt a := by
  simp only [State.writeBytes, hx, Bool.not_true, Bool.false_eq_true, ↓reduceIte]
  split
  · exact s.byteAt_writeSector _ (by omega)
  · rw [State.byteAt_writeSector _ _ (by omega), State.byteAt_writeSector _ _ (by omega)]

/-- In the clear the bytes written read back. -/
theorem State.readBytes_writeBytes {key : Byte} {pa : Nat} (bs : List Byte) (hx : (s.keySlot key pa).xts = false) :
    (s.writeBytes key pa bs).readBytes key pa bs.length = bs := by
  rw [State.writeBytes_bypass _ _ _ hx, State.readBytes_bypass (by exact hx)]
  refine List.ext_getElem (by simp) fun k hk hk' => ?_
  simp only [State.rawBytes, List.getElem_map, List.getElem_range]
  exact writeRaw_inside _ _ _ _ hk'

/-! The obligation -/

/-- Settles O58: a result by the register that takes it, a write by the bytes that it stores. -/
theorem resultAndWriteFrames : Obligations.ResultAndWriteFrames := by
  unfold Obligations.ResultAndWriteFrames
  refine ⟨fun s d v => ?_, fun s key pa bs => ?_⟩
  · obtain ⟨hpc, hready, -⟩ := s.finish_slot_frame d v
    refine ⟨hpc, hready, fun r => ?_, fun k => ?_, s.finish_slot_only d v, fun i hi => s.finish_ne v hi, s.finish_only v,
      s.writeReg_unsent v s.cur, fun c hn hc => ?_⟩
    · obtain ⟨since, limit, hslot⟩ := s.finish_slot (r := d) v
      rw [hslot]
      exact (s.slot s.cur).takeResult_g v r
    · obtain ⟨since, limit, hslot⟩ := s.finish_slot (r := d) v
      rw [hslot]
      exact (s.slot s.cur).takeResult_mw v k
    · exact congrArg State.net (s.writeReg_sent v hn hc)
  · refine ⟨State.writeBytes_eq key pa bs, State.writeBytes_wf key pa bs, fun hx => ⟨fun k hk => ?_, fun a ha => ?_, ?_⟩,
      fun hx _ a ha => s.byteAt_writeBytes_xts bs hx ha, State.keySlot_outside key pa⟩
    · rw [State.writeBytes_bypass _ _ _ hx]
      exact writeRaw_inside _ _ _ _ hk
    · rw [State.writeBytes_bypass _ _ _ hx]
      exact writeRaw_outside _ _ _ _ ha
    · exact s.readBytes_writeBytes bs hx

end Machine
end Sys2Proof
end

section
/-!
SUPPORT. The worked encodings of 06 R174 to R178: the words stand for the instructions that they are written out for.
-/

namespace Sys2Proof.Machine

/-- A header's word is no instruction (06 R180). -/
theorem decodeThread_headerWord : decodeThread 0xfe061400 = none := by decide

/-- The word of all zeros is ILL in a thread, and no node's instruction. -/
theorem decode_zeroWord : decodeThread 0 = some .ill ∧ decodeGraph 0 = none := by decide

/-- The bytes of the first worked encoding, lowest address first. -/
theorem bytesOf_addWord : bytesOf 0x02385030 = [0x30, 0x50, 0x38, 0x02] := by decide

/-- The table of the encodings reads the first worked encoding as the decoder does. -/
theorem decodeTableWord_addWord : decodeTableWord 32 0x02385030 = some (.add false 5 6 7) := by decide

/-- Settles O55 by evaluation of each word. -/
theorem workedEncodingsDecode : Obligations.WorkedEncodingsDecode := by
  unfold Obligations.WorkedEncodingsDecode
  obtain ⟨hill, hnode⟩ := decode_zeroWord
  exact ⟨Tests.word_add, Tests.word_addi, Tests.word_beq, Tests.word_fmul, Tests.word_elementwise, hill,
    hnode, Tests.word_header.1, decodeThread_headerWord, bytesOf_addWord, decodeTableWord_addWord⟩

end Sys2Proof.Machine
end

section
/-!
SUPPORT. The step by the agent whose turn it is: the issue of a slot, the fetch of its word, the firing of a node.
-/

namespace Sys2Proof.Machine

/-! A slot's turn -/

section
variable {s t : State} {i : SlotId} {w : Inst}

theorem SlotSt.retries_of_ready {x : SlotSt} (h : x.state = .ready) : x.retries = false := by
  rw [SlotSt.retries, h]
  rfl

/-- A slot issues unless it waits at an instruction to be tried again with nothing to report. -/
theorem slotTurn_issue (h : (s.slot i).retries = false ∨ s.reports i = true) : slotTurn i s = slotIssue i s := by
  rw [slotTurn, if_neg]
  rcases h with h | h <;> simp [h]

theorem slotTurn_retry (h : (s.slot i).retries = true) (hr : s.reports i = false) :
    slotTurn i s = .next (s.recheck i (slotIssue i (s.wake i))) := by
  rw [slotTurn, if_pos (by simp [h, hr])]

/-- A slot that is tried again changes nothing but its state. -/
theorem State.recheck_cases (r : Result) : s.recheck i r = s ∨ s.recheck i r = s.wake i := by
  unfold State.recheck
  split
  · split
    · exact .inl rfl
    · exact .inr rfl
  · exact .inl rfl

theorem slotIssue_decoded {x : Instr} (hw : s.beginTurn i = .word w t) (hx : decodeThread w = some x) :
    slotIssue i s = exec x t := by
  simp only [slotIssue, hw, hx]

theorem slotIssue_unassigned (hw : s.beginTurn i = .word w t) (hx : decodeThread w = none) :
    slotIssue i s = t.perform (.trap 0x01 0 0 0) := by
  simp only [slotIssue, hw, hx]

theorem slotIssue_ended (hw : s.beginTurn i = .ended t) : slotIssue i s = .next t := by
  simp only [slotIssue, hw]

/-! The fetch -/

/-- A word that the L1I does not hold is read at its home, and kept (04 R125). -/
theorem State.readL1i_miss {key : Byte} {pa : Nat} (h : tblGet none pa (s.core i.die i.core).l1i = none) :
    let word : Inst := (s.readHome key pa 4).extractLsb' 0 32
    s.readL1i i key pa = (word, s.modCore i.die i.core fun y => { y with
      l1i := tblSet none pa (some word) (makeRoom l1iWords s.tick (tblDel pa y.l1i)) }) := by
  simp only [State.readL1i, h]

theorem State.fetch_word {pa : Nat} {key : Byte} (hf : fetchFault (s.slot i).pc = none)
    (hr : s.reach i (s.slot i).pc needX false ((s.die i.die).held.any (·.who == .fetch i)) = .ok pa key t)
    (hp : (t.unhold i.die (.fetch i)).isPoisoned pa = false) :
    s.fetch i = .word ((t.unhold i.die (.fetch i)).readL1i i key pa).1 ((t.unhold i.die (.fetch i)).readL1i i key pa).2 := by
  simp only [State.fetch, hf, hr, hp, Bool.false_eq_true, ↓reduceIte]

section
variable (hreports : s.reports i = false) (hready : (s.slot i).state = .ready) (hfails : (s.slot i).fails = [])
  (hjnl : s.jnlOf i = false) (hw : s.fetch i = .word w t)
include hreports hready hfails hjnl hw

/-- A READY slot with nothing to report issues the word that it fetches. -/
theorem State.beginTurn_word (hh : isHeader w = false) : s.beginTurn i = .word w { t.turnOf i with word := w } := by
  simp [State.beginTurn, hreports, SlotSt.issues, hready, hfails, hjnl, hw, hh]

/-- A header is passed over (06 R180). -/
theorem State.beginTurn_header (hh : isHeader w = true) (hd : (decodeHeader w).isSome = true) :
    s.beginTurn i = .ended (t.modSlot i fun y => { y with pc := y.pc + 4 }) := by
  obtain ⟨x, hx⟩ := Option.isSome_iff_exists.mp hd
  simp [State.beginTurn, hreports, SlotSt.issues, hready, hfails, hjnl, hw, hh, hx]

end
end

/-! The move and the step -/

section
variable {s : State}

theorem move_slot {i : SlotId} (h : s.turn = .slot i) : move s = slotTurn i s := by simp only [move, h]

theorem move_node {n : NodeId} (h : s.turn = .node n) : move s = nodeTurn n s := by simp only [move, h]

theorem move_event {x : Instr} {e : EvArg} (h : s.turn = .event x e) : move s = exec x { s with ev := e } := by
  simp only [move, h]

theorem move_idle (h : s.turn = .idle) : move s = .next s := by simp only [move, h]

theorem nodeTurn_decoded {n : NodeId} {x : Instr}
    (h : decodeGraph (tblGet 0 n.slot.toNat (s.shed n.die n.shed).words) = some x) :
    nodeTurn n s = exec x { s with node := n } := by
  simp only [nodeTurn, h]

theorem nodeTurn_empty {n : NodeId} (h : decodeGraph (tblGet 0 n.slot.toNat (s.shed n.die n.shed).words) = none) :
    nodeTurn n s = .next s := by
  simp only [nodeTurn, h]

theorem step_of_next {u : State} (h : move s = .next u) : step s = .next u.settle := by simp only [step, h]

theorem step_of_fault {f : Fault} (h : move s = .fault f) : step s = .fault f := by simp only [step, h]

theorem step_of_refused {r : Refusal} (h : move s = .refused r) : step s = .refused r := by simp only [step, h]

/-- The step has the outcome of the move, from which a state settles. -/
theorem step_after {a : Result} (h : move s = a) :
    (∀ u, a = .next u → step s = .next u.settle) ∧ (∀ f, a = .fault f → step s = .fault f)
      ∧ (∀ r, a = .refused r → step s = .refused r) :=
  ⟨fun _ hu => step_of_next (h.trans hu), fun _ hf => step_of_fault (h.trans hf), fun _ hr => step_of_refused (h.trans hr)⟩

end

/-! The obligation -/

/-- Settles O57: by the agent whose turn it is, the move, from which the step follows. -/
theorem stepRunsTheDecoded : Obligations.StepRunsTheDecoded := by
  unfold Obligations.StepRunsTheDecoded
  intro s t i n e w x pa key after
  refine ⟨fun hturn hretries hw => ?_, fun hturn hissue hw => ?_, fun hturn hretries hreports => ?_,
    ?_, fun hturn hx => ?_, fun hturn hx => ?_, fun hturn => step_after (move_event hturn),
    fun hturn => step_of_next (move_idle hturn)⟩
  · have hmove := (move_slot hturn).trans (slotTurn_issue (.inl hretries))
    exact ⟨fun hx => step_after (hmove.trans (slotIssue_decoded hw hx)),
      fun hx => step_after (hmove.trans (slotIssue_unassigned hw hx))⟩
  · exact step_of_next ((move_slot hturn).trans ((slotTurn_issue hissue).trans (slotIssue_ended hw)))
  · have hstep := step_of_next ((move_slot hturn).trans (slotTurn_retry hretries hreports))
    rcases State.recheck_cases (s := s) (i := i) (slotIssue i (s.wake i)) with hsame | hwake
    · exact .inl (by rw [hstep, hsame])
    · exact .inr (by rw [hstep, hwake])
  · intro hturn hreports hready hfails hjnl pc c hfault hreach hpoison hmiss word d
    have hmove := (move_slot hturn).trans (slotTurn_issue (.inl (SlotSt.retries_of_ready hready)))
    have hfetch : s.fetch i = .word word d := by
      rw [State.fetch_word hfault hreach hpoison, State.readL1i_miss hmiss]
    exact ⟨fun hheader hx => step_after (hmove.trans
        (slotIssue_decoded (State.beginTurn_word hreports hready hfails hjnl hfetch hheader) hx)),
      fun hheader hd => step_of_next (hmove.trans
        (slotIssue_ended (State.beginTurn_header hreports hready hfails hjnl hfetch hheader hd)))⟩
  · exact step_after ((move_node hturn).trans (nodeTurn_decoded hx))
  · exact step_of_next ((move_node hturn).trans (nodeTurn_empty hx))

end Sys2Proof.Machine
end

section
/-!
SUPPORT. Integer results (07 R200 to R212): each row of Tables 7-2 to 7-4 as a value, and the results of issue with operands
that can be read at once.
-/

namespace Sys2Proof.Machine

/-! Rows of Table 7-2 -/

section
variable {n : Nat} (x y : BitVec n) (sh : Nat)

theorem aluN_slt : aluN .slt x y sh = if x.toInt < y.toInt then 1 else 0 := by
  simp [aluN, flagBit, BitVec.slt_eq_decide]

theorem aluN_sltu : aluN .sltu x y sh = if x.toNat < y.toNat then 1 else 0 := by
  simp [aluN, flagBit, BitVec.ult_eq_decide]

theorem aluN_min : aluN .min x y sh = if x.toInt ≤ y.toInt then x else y := by
  rw [aluN, BitVec.slt_eq_decide, ← ite_not]
  simp

theorem aluN_max : aluN .max x y sh = if x.toInt < y.toInt then y else x := by
  simp [aluN, BitVec.slt_eq_decide]

theorem aluN_minu : aluN .minu x y sh = if x.toNat ≤ y.toNat then x else y := by
  rw [aluN, BitVec.ult_eq_decide, ← ite_not]
  simp

theorem aluN_maxu : aluN .maxu x y sh = if x.toNat < y.toNat then y else x := by
  simp [aluN, BitVec.ult_eq_decide]

end

/-! Rows of Table 7-3 -/

section
variable {n : Nat} (x y : BitVec n)

theorem mulN_div : mulN .div x y = if y = 0 then -1 else BitVec.ofInt n (x.toInt.tdiv y.toInt) := by
  have hq : x.sdiv y = BitVec.ofInt n (x.toInt.tdiv y.toInt) :=
    BitVec.eq_of_toInt_eq (by rw [BitVec.toInt_sdiv, BitVec.toInt_ofInt])
  rw [mulN, divS, hq, ← BitVec.neg_one_eq_allOnes]
  rfl

theorem mulN_divu : mulN .divu x y = if y = 0 then -1 else BitVec.ofNat n (x.toNat / y.toNat) := by
  have hq : x / y = BitVec.ofNat n (x.toNat / y.toNat) := by
    rw [← BitVec.toNat_udiv, BitVec.ofNat_toNat, BitVec.setWidth_eq]
  rw [mulN, divU, hq, ← BitVec.neg_one_eq_allOnes]
  rfl

theorem mulN_rem : mulN .rem x y = if y = 0 then x else BitVec.ofInt n (x.toInt.tmod y.toInt) := by
  rw [mulN, remS, ← BitVec.toInt_srem, BitVec.ofInt_toInt]

theorem mulN_remu : mulN .remu x y = if y = 0 then x else BitVec.ofNat n (x.toNat % y.toNat) := by
  rw [mulN, remU, ← BitVec.toNat_umod, BitVec.ofNat_toNat, BitVec.setWidth_eq]

end

/-- The quotient and the remainder of the least integer by −1 (R205). -/
theorem mulN_intMin_neg_one : mulN .div (BitVec.intMin 64) (-1) = BitVec.intMin 64
    ∧ mulN .rem (BitVec.intMin 64) (-1) = 0 := by
  decide

/-! Issue -/

section
variable {s : State} {d a b : Reg} (hp : s.plain [a, b] [d] = true)
include hp

theorem State.issue2_value {f : Word → Word → Word} {v : Word} (hv : f (s.reg s.cur a) (s.reg s.cur b) = v) :
    s.issue2 d a b f = .next (s.finish d v) := by
  rw [s.issue2_plain hp, hv]

theorem State.issue2_alu (o : AluOp) {v : Word}
    (hv : aluN o (s.reg s.cur a) (s.reg s.cur b) ((s.reg s.cur b).toNat % 64) = v) :
    s.issue2 d a b (alu false o) = .next (s.finish d v) := State.issue2_value hp hv

/-- With .w the shift amount is taken from the low word of rs2 (R201, R204). -/
theorem State.issue2_alu32 (o : AluOp) {v : BitVec 32}
    (hv : aluN o (low32 (s.reg s.cur a)) (low32 (s.reg s.cur b)) ((low32 (s.reg s.cur b)).toNat % 32) = v) :
    s.issue2 d a b (alu true o) = .next (s.finish d (v.zeroExtend 64)) := by
  have hsh : (low32 (s.reg s.cur b)).toNat % 32 = (s.reg s.cur b).toNat % 32 := by
    rw [low32, BitVec.extractLsb'_toNat, Nat.shiftRight_zero]
    exact Nat.mod_mod_of_dvd _ (by decide)
  exact State.issue2_value hp (congrArg wide32 (hsh ▸ hv))

theorem State.issue2_mulDiv (o : MulOp) {v : Word} (hv : mulN o (s.reg s.cur a) (s.reg s.cur b) = v) :
    s.issue2 d a b (mulDiv false o) = .next (s.finish d v) := State.issue2_value hp hv

theorem State.issue2_mulDiv32 (o : MulOp) {v : BitVec 32}
    (hv : mulN o (low32 (s.reg s.cur a)) (low32 (s.reg s.cur b)) = v) :
    s.issue2 d a b (mulDiv true o) = .next (s.finish d (v.zeroExtend 64)) :=
  State.issue2_value hp (congrArg wide32 hv)

/-- ADDX, SUBX and MULX by their exact result: written when its width holds it, OVERFLOW otherwise (R211). -/
theorem execExact_plain {k : Byte} {w : Bool} {r : Int}
    (hr : (if w then exactN k (low32 (s.reg s.cur a)) (low32 (s.reg s.cur b))
      else exactN k (s.reg s.cur a) (s.reg s.cur b)) = r) :
    let n : Nat := if w then 32 else 64
    execExact k w d a b s =
      if -(2 ^ (n - 1) : Int) ≤ r ∧ r < 2 ^ (n - 1) then
        .next (s.finish d (if w then (BitVec.ofInt 32 r).zeroExtend 64 else BitVec.ofInt 64 r))
      else .next (s.takeTrap s.cur 0x04 k (s.slot s.cur).pc s.word (s.reg s.cur a) (s.reg s.cur b)) := by
  subst hr
  rw [execExact, s.issue_plain hp]
  refine (apply_ite s.perform _ _ _).trans (if_congr ?_ rfl rfl)
  rw [inRange, Bool.and_eq_true, decide_eq_true_eq, decide_eq_true_eq]
  rfl

end

/-! The obligations -/

/-- Settles O1: by the row of Table 7-2, at both widths. -/
theorem aluResults : Obligations.AluResults := by
  unfold Obligations.AluResults
  constructor
  · intro s d a b hp x y sh
    have row (o : AluOp) {v : Word} (hv : aluN o x y sh = v) := State.issue2_alu hp o hv
    exact ⟨row .add rfl, row .sub rfl, row .and rfl, row .or rfl, row .xor rfl, row .andn rfl, row .orn rfl, row .xnor rfl,
      row .shl rfl, row .shr rfl, row .sra rfl, row .rol rfl, row .ror rfl, row .slt (aluN_slt x y sh),
      row .sltu (aluN_sltu x y sh), row .min (aluN_min x y sh), row .max (aluN_max x y sh), row .minu (aluN_minu x y sh),
      row .maxu (aluN_maxu x y sh)⟩
  · intro s d a b hp x y sh put
    have row (o : AluOp) {v : BitVec 32} (hv : aluN o x y sh = v) := State.issue2_alu32 hp o hv
    exact ⟨row .add rfl, row .sub rfl, row .and rfl, row .or rfl, row .xor rfl, row .andn rfl, row .orn rfl, row .xnor rfl,
      row .shl rfl, row .shr rfl, row .sra rfl, row .rol rfl, row .ror rfl, row .slt (aluN_slt x y sh),
      row .sltu (aluN_sltu x y sh), row .min (aluN_min x y sh), row .max (aluN_max x y sh), row .minu (aluN_minu x y sh),
      row .maxu (aluN_maxu x y sh)⟩

/-- Settles O2: by the row of Table 7-3, then the exact result, which its width holds or does not. -/
theorem multiplyDivideAndExact : Obligations.MultiplyDivideAndExact := by
  unfold Obligations.MultiplyDivideAndExact
  constructor
  · intro s d a b hp x y x32 y32 put put32
    have row (o : MulOp) {v : Word} (hv : mulN o x y = v) := State.issue2_mulDiv hp o hv
    have row32 (o : MulOp) {v : BitVec 32} (hv : mulN o x32 y32 = v) := State.issue2_mulDiv32 hp o hv
    refine ⟨row .mul rfl, row32 .mul rfl, row .mulh rfl, row .mulhu rfl, row .mulhsu rfl, row .div (mulN_div x y),
      row32 .div (mulN_div x32 y32), row .divu (mulN_divu x y), row32 .divu (mulN_divu x32 y32), row .rem (mulN_rem x y),
      row32 .rem (mulN_rem x32 y32), row .remu (mulN_remu x y), row32 .remu (mulN_remu x32 y32), fun hx hy => ?_⟩
    obtain ⟨hquot, hrem⟩ := mulN_intMin_neg_one
    rw [← hx, ← hy] at hquot hrem
    exact ⟨row .div (hquot.trans hx), row .rem hrem⟩
  · intro s w d a b hp x y n vx vy outcome
    refine ⟨execExact_plain hp ?_, execExact_plain hp ?_, execExact_plain hp ?_⟩ <;> cases w <;> rfl

end Sys2Proof.Machine
end

section
/-!
SUPPORT. Bit counts and reversals (07 R206, Table 7-4), bit by bit, the immediate forms (07 R208 to R210) and the selects (07
R212).
-/

namespace Sys2Proof.Machine

/-! Counts -/

section
variable {n : Nat} (x : BitVec n)

/-- The count of leading zeros stops at the highest set bit. -/
theorem leadingZeros_spec (m : Nat) : leadingZeros x m ≤ m ∧ (∀ k < leadingZeros x m, x.getLsbD (m - 1 - k) = false)
    ∧ (leadingZeros x m < m → x.getLsbD (m - 1 - leadingZeros x m) = true) := by
  induction m with
  | zero => simp [leadingZeros]
  | succ m ih =>
    obtain ⟨hle, hzero, hone⟩ := ih
    rw [leadingZeros]
    split
    next h => exact ⟨by omega, nofun, fun _ => h⟩
    next h =>
      refine ⟨by omega, fun k hk => ?_, fun hlt => ?_⟩
      · cases k with
        | zero => exact Bool.eq_false_iff.2 h
        | succ k =>
          have hidx : m + 1 - 1 - (k + 1) = m - 1 - k := by omega
          exact hidx ▸ hzero k (by omega)
      · have hidx : m + 1 - 1 - (leadingZeros x m + 1) = m - 1 - leadingZeros x m := by omega
        exact hidx ▸ hone (by omega)

/-- The count of trailing zeros stops at the lowest set bit. -/
theorem trailingZeros_spec (i m : Nat) : trailingZeros x i m ≤ m
    ∧ (∀ k < trailingZeros x i m, x.getLsbD (i + k) = false)
    ∧ (trailingZeros x i m < m → x.getLsbD (i + trailingZeros x i m) = true) := by
  induction m generalizing i with
  | zero => simp [trailingZeros]
  | succ m ih =>
    obtain ⟨hle, hzero, hone⟩ := ih (i + 1)
    rw [trailingZeros]
    split
    next h => exact ⟨by omega, nofun, fun _ => h⟩
    next h =>
      refine ⟨by omega, fun k hk => ?_, fun hlt => ?_⟩
      · cases k with
        | zero => exact Bool.eq_false_iff.2 h
        | succ k => exact Nat.succ_add_eq_add_succ i k ▸ hzero k (by omega)
      · exact Nat.succ_add_eq_add_succ i _ ▸ hone (by omega)

theorem oneBits_eq_length (m : Nat) : oneBits x m = ((List.range m).filter fun k => x.getLsbD k).length := by
  induction m with
  | zero => rfl
  | succ m ih =>
    rw [oneBits, ih, List.range_succ, List.filter_append, List.length_append]
    cases h : x.getLsbD m <;> simp [h]

end

/-! Reversals -/

/-- Byte j / 8 of the reversed k bytes is byte k − 1 − j / 8; above them stand the bits gathered before. -/
theorem swapBytes_bytesUp_testBit (k v acc j : Nat) : (swapBytes.bytesUp k v acc).testBit j
    = if j < 8 * k then v.testBit (8 * (k - 1 - j / 8) + j % 8) else acc.testBit (j - 8 * k) := by
  induction k generalizing v acc with
  | zero => simp [swapBytes.bytesUp]
  | succ k ih =>
    have hv (i : Nat) : (v / 256).testBit i = v.testBit (i + 8) := Nat.testBit_div_two_pow (n := 8) v i
    have hacc (i : Nat) : (acc * 256 + v % 256).testBit i = if i < 8 then v.testBit i else acc.testBit (i - 8) := by
      rw [Nat.mul_comm, Nat.testBit_two_pow_mul_add (i := 8) acc (Nat.mod_lt v (by decide)), Nat.testBit_mod_two_pow (j := 8)]
      split <;> simp [*]
    rw [swapBytes.bytesUp, ih, hv, hacc]
    by_cases hlow : j < 8 * k
    · rw [if_pos hlow, if_pos (by omega)]
      congr 1
      omega
    · rw [if_neg hlow]
      by_cases htop : j < 8 * (k + 1)
      · rw [if_pos (by omega), if_pos htop]
        congr 1
        omega
      · rw [if_neg (by omega), if_neg htop]
        congr 1

theorem getLsbD_swapBytes {n : Nat} (x : BitVec n) (hn : 8 ∣ n) (k : Nat) :
    (swapBytes x).getLsbD k = (decide (k < n) && x.getLsbD (8 * (n / 8 - 1 - k / 8) + k % 8)) := by
  have hmul : 8 * (n / 8) = n := Nat.mul_div_cancel' hn
  rw [swapBytes, BitVec.getLsbD_ofNat, swapBytes_bytesUp_testBit, hmul]
  by_cases hk : k < n <;> simp [hk, BitVec.getLsbD]

/-! A result of n bits, from an operand of n bits (R201) -/

/-- The operand of width n of a BITS instruction, and its result as a number. -/
theorem bits_operand (w : Bool) (x : Word) : ∃ z : BitVec (if w then 32 else 64),
    (∀ k < if w then 32 else 64, z.getLsbD k = x.getLsbD k) ∧ ∀ o, (bits w o x).toNat = (bitsN o z).toNat := by
  cases w
  · exact ⟨x, fun _ _ => rfl, fun _ => rfl⟩
  · refine ⟨low32 x, fun k hk => ?_, fun o => ?_⟩
    · have hk : k < 32 := hk
      simp [low32, hk]
    · exact BitVec.toNat_setWidth_of_le (show 32 ≤ 64 by decide)

section
variable {n : Nat} {z : BitVec n} {x v : Word}

theorem toNat_ofNat_of_le {m : Nat} (h : m ≤ n) : (BitVec.ofNat n m).toNat = m := by
  rw [BitVec.toNat_ofNat, Nat.mod_eq_of_lt (h.trans_lt Nat.lt_two_pow_self)]

section
variable (hz : ∀ k < n, z.getLsbD k = x.getLsbD k)
include hz

theorem clz_value (hv : v.toNat = (bitsN .clz z).toNat) : v.toNat ≤ n
    ∧ (∀ k, k < v.toNat → x.getLsbD (n - 1 - k) = false) ∧ (v.toNat < n → x.getLsbD (n - 1 - v.toNat) = true) := by
  obtain ⟨hle, hzero, hone⟩ := leadingZeros_spec z n
  rw [bitsN, toNat_ofNat_of_le hle] at hv
  rw [← hv] at hle hzero hone
  exact ⟨hle, fun k hk => hz (n - 1 - k) (by omega) ▸ hzero k hk, fun hlt => hz (n - 1 - v.toNat) (by omega) ▸ hone hlt⟩

theorem ctz_value (hv : v.toNat = (bitsN .ctz z).toNat) : v.toNat ≤ n
    ∧ (∀ k, k < v.toNat → x.getLsbD k = false) ∧ (v.toNat < n → x.getLsbD v.toNat = true) := by
  obtain ⟨hle, hzero, hone⟩ := trailingZeros_spec z 0 n
  rw [bitsN, toNat_ofNat_of_le hle] at hv
  rw [← hv] at hle hzero hone
  simp only [Nat.zero_add] at hzero hone
  exact ⟨hle, fun k hk => hz k (by omega) ▸ hzero k hk, fun hlt => hz v.toNat hlt ▸ hone hlt⟩

theorem popc_value (hv : v.toNat = (bitsN .popc z).toNat) :
    v.toNat = ((List.range n).filter fun k => x.getLsbD k).length := by
  have hones := oneBits_eq_length z n
  have hle : oneBits z n ≤ n := by
    rw [hones]
    exact (List.length_filter_le ..).trans_eq List.length_range
  rw [hv, bitsN, toNat_ofNat_of_le hle, hones]
  exact congrArg List.length (List.filter_congr fun k hk => hz k (List.mem_range.1 hk))

theorem brev_value (hv : v.toNat = (bitsN .brev z).toNat) (k : Nat) :
    v.getLsbD k = (decide (k < n) && x.getLsbD (n - 1 - k)) := by
  have hbit : v.getLsbD k = z.reverse.getLsbD k := congrArg (Nat.testBit · k) hv
  rw [hbit, BitVec.getLsbD_reverse, BitVec.getMsbD]
  by_cases hk : k < n
  · rw [hz _ (by omega)]
  · simp [hk]

theorem bswap_value (hn : 8 ∣ n) (hv : v.toNat = (bitsN .bswap z).toNat) (k : Nat) :
    v.getLsbD k = (decide (k < n) && x.getLsbD (8 * (n / 8 - 1 - k / 8) + k % 8)) := by
  have hbit : v.getLsbD k = (swapBytes z).getLsbD k := congrArg (Nat.testBit · k) hv
  rw [hbit, getLsbD_swapBytes z hn]
  by_cases hk : k < n
  · rw [hz _ (by omega)]
  · simp [hk]

end
end

/-! Issue -/

section
variable {s : State} {d a b c : Reg}

theorem State.issue1_value (hp : s.plain [a] [d] = true) {f : Word → Word} {v : Word} (hv : f (s.reg s.cur a) = v) :
    s.issue1 d a f = .next (s.finish d v) := by
  rw [s.issue1_plain hp, hv]

section
variable (hp : s.plain [a] [d] = true) (o : AluOp)
include hp

/-- An ALU operation with a sign-extended immediate (R208). -/
theorem State.issue1_aluImm {i : BitVec 13} {v : Word} (hv : ∀ sh, aluN o (s.reg s.cur a) (i.signExtend 64) sh = v) :
    s.issue1 d a (aluImm o i) = .next (s.finish d v) := State.issue1_value hp (hv _)

/-- A shift amount of six bits is taken as it stands (R209). -/
theorem State.issue1_shiftImm {n : BitVec 6} {v : Word} (hv : ∀ y, aluN o (s.reg s.cur a) y n.toNat = v) :
    s.issue1 d a (shiftImm false o n) = .next (s.finish d v) := by
  have hsh : (n.zeroExtend 64).toNat % 64 = n.toNat := by
    rw [BitVec.toNat_setWidth_of_le (by decide), Nat.mod_eq_of_lt n.isLt]
  refine State.issue1_value hp ?_
  rw [shiftImm, alu, if_neg Bool.false_ne_true, hsh, hv]

theorem State.issue1_shiftImm32 {n : BitVec 6} (hn : n.toNat < 32) {v : BitVec 32}
    (hv : ∀ y, aluN o (low32 (s.reg s.cur a)) y n.toNat = v) :
    s.issue1 d a (shiftImm true o n) = .next (s.finish d (v.zeroExtend 64)) := by
  have hsh : (n.zeroExtend 64).toNat % 32 = n.toNat := by
    rw [BitVec.toNat_setWidth_of_le (by decide), Nat.mod_eq_of_lt hn]
  refine State.issue1_value hp ?_
  rw [shiftImm, alu, if_pos rfl, hsh, hv]
  rfl

end

theorem select_false (x y z : Word) : select false x y z = if z ≠ 0 then x else y := by
  by_cases hz : z = 0 <;> simp [select, hz]

theorem select_true (x y z : Word) : select true x y z = if z = 0 then x else y := by
  by_cases hz : z = 0 <;> simp [select, hz]

end

/-! The obligation -/

/-- Settles O3: the counts and reversals bit by bit, then the immediate forms and the selects by their rows. -/
theorem bitsImmediatesAndSelects : Obligations.BitsImmediatesAndSelects := by
  unfold Obligations.BitsImmediatesAndSelects
  refine ⟨?bits, ?immediates, fun s d a b c i => ⟨?upper, ?selects⟩⟩
  case bits =>
    intro s w d a hp x n
    obtain ⟨z, hz, hv⟩ := bits_operand w x
    have hn : 8 ∣ n := by cases w <;> decide
    exact ⟨⟨_, s.issue1_plain hp _, clz_value hz (hv .clz)⟩, ⟨_, s.issue1_plain hp _, ctz_value hz (hv .ctz)⟩,
      ⟨_, s.issue1_plain hp _, popc_value hz (hv .popc)⟩, ⟨_, s.issue1_plain hp _, brev_value hz (hv .brev)⟩,
      ⟨_, s.issue1_plain hp _, bswap_value hz hn (hv .bswap)⟩, s.issue1_plain hp _, s.issue1_plain hp _,
      s.issue1_plain hp _, s.issue1_plain hp _⟩
  case immediates =>
    intro s d a i n hp x imm x32 put put32
    have row (o : AluOp) {v : Word} (hv : ∀ sh, aluN o x imm sh = v) := State.issue1_aluImm hp o hv
    have shift (o : AluOp) {v : Word} (hv : ∀ y, aluN o x y n.toNat = v) := State.issue1_shiftImm hp o hv
    refine ⟨row .add fun _ => rfl, row .and fun _ => rfl, row .or fun _ => rfl, row .xor fun _ => rfl,
      row .slt (aluN_slt x imm), row .sltu (aluN_sltu x imm), shift .shl fun _ => rfl, shift .shr fun _ => rfl,
      shift .sra fun _ => rfl, shift .rol fun _ => rfl, shift .ror fun _ => rfl, fun hn => ?_⟩
    have shift32 (o : AluOp) {v : BitVec 32} (hv : ∀ y, aluN o x32 y n.toNat = v) := State.issue1_shiftImm32 hp o hn hv
    exact ⟨shift32 .shl fun _ => rfl, shift32 .shr fun _ => rfl, shift32 .sra fun _ => rfl, shift32 .rol fun _ => rfl,
      shift32 .ror fun _ => rfl⟩
  case upper =>
    intro hp up
    exact ⟨s.issue_plain hp _, s.issue_plain hp _⟩
  case selects =>
    intro hp x y z
    have selected {p : Bool} {v : Word} (hv : select p x y z = v) :
        s.perform (.go (s.finish d (select p x y z))) = .next (s.finish d v) := by rw [hv]; rfl
    exact ⟨(s.issue_plain hp _).trans (selected (select_false x y z)),
      (s.issue_plain hp _).trans (selected (select_true x y z))⟩

end Sys2Proof.Machine
end

section
/-!
SUPPORT. Control flow (07 R222 to R225): where a branch goes, and that a result leaves the PC.
-/

namespace Sys2Proof.Machine

section
variable {s : State} {a b : Reg}

/-- A branch by its condition on the two sources (R223). -/
theorem branch_plain (hp : s.plain [a, b] [] = true) (i : BitVec 13) {f : Word → Word → Bool} {c : Bool}
    (hc : f (s.reg s.cur a) (s.reg s.cur b) = c) :
    branch f a b i s = .next (if c then s.jump ((s.slot s.cur).pc + 4 * i.signExtend 64) else s.advance) := by
  rw [branch, s.issue_plain hp, BitVec.mul_comm]
  simp only [List.map_cons, List.getD_cons_zero, List.getD_cons_succ, hc]
  cases c <;> rfl

theorem exec_bnzd (hp : s.plain [a] [a] = true) (i : BitVec 13) :
    let x := s.reg s.cur a
    let t := s.writeReg s.cur a (x - 1)
    exec (.bnzd a i) s
      = .next (if x - 1 ≠ 0 then t.jump ((s.slot s.cur).pc + 4 * i.signExtend 64) else t.advance) := by
  intro x t
  obtain ⟨hpc, -⟩ := s.writeReg_slot_frame s.cur a (x - 1)
  have hdest : (t.slot t.cur).pc + wordsAhead i = (s.slot s.cur).pc + 4 * i.signExtend 64 := by
    rw [State.writeReg_cur, hpc, wordsAhead, BitVec.mul_comm]
    rfl
  rw [← hdest]
  refine (s.issue_plain hp _).trans (congrArg Host.Outcome.next ?_)
  exact if_congr bne_iff_ne rfl rfl

end

/-- Settles O4: by the condition of each branch, then the jumps and BNZD. -/
theorem controlFlow : Obligations.ControlFlow := by
  unfold Obligations.ControlFlow
  intro s d a b i l pc near far x y to'
  have hfar : pc + wordsAhead l = far := by rw [wordsAhead, BitVec.mul_comm]; rfl
  refine ⟨fun hp => ?_, fun hp => ?_, fun hp => s.issue_plain hp _, fun hp => exec_bnzd hp i, rfl⟩
  · refine ⟨branch_plain hp i ?_, branch_plain hp i ?_, branch_plain hp i ?_,
      branch_plain (f := fun x y => !x.slt y) hp i ?_, branch_plain hp i ?_, branch_plain (f := fun x y => !x.ult y) hp i ?_⟩
    · rfl
    · exact (decide_not (p := x = y)).symm
    · exact BitVec.slt_eq_decide
    · rw [BitVec.slt_eq_decide, ← decide_not, decide_eq_decide, not_lt]
    · exact BitVec.ult_eq_decide
    · rw [BitVec.ult_eq_decide, ← decide_not, decide_eq_decide, not_lt]
  · rw [← hfar]
    exact s.issue_plain hp _

end Sys2Proof.Machine
end

section
/-!
SUPPORT. Floating-point results (07 R213 to R219; 03 R100, R101): a rounded result with its flags and the LFSR step, a result that
is never rounded, comparisons and classes.
-/

namespace Sys2Proof

/-! Two writes of one entry -/

variable {α : Type}

theorem tblDel_of_forall_ne {k : Nat} {t : Tbl α} (h : ∀ e ∈ t, e.1 ≠ k) : tblDel k t = t := by
  rw [tblDel_eq_filter]
  exact List.filter_eq_self.2 fun e he => bne_iff_ne.2 (h e he)

theorem tblDel_tblInsert (k : Nat) (v : α) (t : Tbl α) : tblDel k (tblInsert k v t) = tblDel k t := by
  induction t with
  | nil => simp [tblInsert, tblDel]
  | cons e r ih =>
    obtain ⟨i, x⟩ := e
    rw [tblInsert]
    split
    · simp [tblDel]
    · simp [tblDel, ih]

theorem tblSet_tblSet [DecidableEq α] (d : α) (k : Nat) (v w : α) (t : Tbl α) :
    tblSet d k w (tblSet d k v t) = tblSet d k w t := by
  have hdel : tblDel k (tblSet d k v t) = tblDel k t := by
    have hsame : tblDel k (tblDel k t) = tblDel k t := tblDel_of_forall_ne fun e he => (mem_tblDel he).2
    rw [tblSet]
    split
    · exact hsame
    · rw [tblDel_tblInsert, hsame]
  rw [tblSet, hdel, tblSet]

namespace Machine

/-- Two changes of a slot are one. -/
theorem State.modSlot_modSlot (s : State) (i : SlotId) (f g : SlotSt → SlotSt) :
    (s.modSlot i f).modSlot i g = s.modSlot i fun x => g (f x) := by
  rw [State.modSlot, State.modSlot_self]
  simp only [State.modSlot, State.setSlot, tblSet_tblSet]

/-! Rounded results (R213) -/

section
variable {s : State} {d : Reg}

/-- FRM.RM is reserved: RMRSV with its value in TVAL (14 Table 14-3). -/
theorem State.perform_rounded_reserved (h : rmode (s.slot s.cur).frm = none) (op : Rounding → Word × FpFlags) :
    s.perform (s.rounded d op)
      = .next (s.takeTrap s.cur 0x03 0 (s.slot s.cur).pc s.word ((s.slot s.cur).frm.zeroExtend 64) 0) := by
  simp only [State.rounded, h, State.perform]

/-- One rounding, with the LFSR stepped under SR (03 R100) and the flags gathered (03 R101). -/
theorem State.perform_rounded {m : RMode} (h : rmode (s.slot s.cur).frm = some m) (op : Rounding → Word × FpFlags) :
    let lfsr := if m = .sr then lfsrStep (s.slot s.cur).lfsr else (s.slot s.cur).lfsr
    let r := op ⟨m, lfsr.toNat⟩
    s.perform (s.rounded d op)
      = .next ((s.modSlot s.cur fun q => { q with lfsr := lfsr, fflags := q.fflags ||| r.2 }).finish d r.1) := by
  have hstep : nextLfsr m (s.slot s.cur).lfsr = if m = .sr then lfsrStep (s.slot s.cur).lfsr else (s.slot s.cur).lfsr :=
    if_congr beq_iff_eq rfl rfl
  simp only [State.rounded, h, State.perform, hstep, roundingOf, State.orFlags, State.modSlot_modSlot]

end

/-! Comparisons and classes (R216, R218) -/

theorem flagIf_eq_NV (c : Bool) : flagIf c flagNV = flagNV ↔ c = true := by
  cases c <;> decide

theorem cmpOp_eq_one (f : Fmt) (o : CmpOp) (a b : Word) :
    (cmpOp f o a b).1 = 1 ↔ (cmpVals o (decodeFp f.layout a) (decodeFp f.layout b)).1 = true := by
  simp [cmpOp]

theorem cmpOp_eq_zero (f : Fmt) (o : CmpOp) (a b : Word) :
    (cmpOp f o a b).1 = 0 ↔ (cmpVals o (decodeFp f.layout a) (decodeFp f.layout b)).1 = false := by
  simp [cmpOp]

/-- Of two numbers, one is below or equal where it is below and not equal, or equal. -/
theorem and_or_eq_true_iff (c p q : Bool) :
    (c && (p || q)) = true ↔ (c && p && !q) = true ∨ (c && q) = true := by
  revert c p q
  decide

theorem classOf_lt (smallest : Int) (x : FVal) : classOf smallest x < 10 := by
  cases x with
  | nan s | inf s =>
    rw [classOf]
    split <;> decide
  | fin n m e =>
    dsimp only [classOf]
    repeat' split
    all_goals decide

/-! The obligations -/

/-- Settles O5: by the rounding mode, then what never rounds. -/
theorem floatingPoint : Obligations.FloatingPoint := by
  unfold Obligations.FloatingPoint
  constructor
  · intro s f g k d a b x y z me outcome
    have hrounded (op : Rounding → Word × FpFlags) : s.perform (s.rounded d op) = outcome op := by
      cases hm : rmode me.frm with
      | none => simp only [outcome, hm, State.perform_rounded_reserved hm, me]
      | some m => simp only [outcome, hm, State.perform_rounded hm, me]
    have issued {srcs : List Reg} (hp : s.plain srcs [d] = true) (op : List Word → Rounding → Word × FpFlags) :
        s.issue srcs [d] (fun v t => t.rounded d (op v)) = outcome (op (srcs.map (s.reg s.cur))) :=
      (s.issue_plain hp _).trans (hrounded _)
    exact ⟨fun hp => ⟨issued hp _, issued hp _, issued hp _, issued hp _⟩,
      fun hp => ⟨issued hp _, issued hp _, issued hp _, issued hp _⟩,
      fun hp => ⟨issued hp _, issued hp _, issued hp _, issued hp _⟩⟩
  · intro s f d a b x y put
    exact ⟨fun hp => ⟨s.issue_plain hp _, s.issue_plain hp _, s.issue_plain hp _, s.issue_plain hp _, s.issue_plain hp _,
      s.issue_plain hp _⟩, fun hp => s.issue1_plain hp _⟩

/-- Settles O6: by the truth value of each comparison; a class is one of ten. -/
theorem comparisonsAndClasses : Obligations.ComparisonsAndClasses := by
  unfold Obligations.ComparisonsAndClasses
  refine ⟨?_, fun f a => ⟨_, classOf_lt _ _, rfl⟩⟩
  intro f a b x y nan snan
  simp only [cmpOp_eq_one, cmpOp_eq_zero]
  refine ⟨Iff.rfl, fun hnan => ?_, ?_, fun hlt => ?_, flagIf_eq_NV _, flagIf_eq_NV _, flagIf_eq_NV _, flagIf_eq_NV _⟩
  · have hnan : (x.isNan || y.isNan) = true := hnan
    simp [cmpVals, x, y, hnan]
  · exact and_or_eq_true_iff _ _ _
  · simp only [cmpVals, Bool.and_eq_true, Bool.not_eq_true'] at hlt ⊢
    simp [hlt]

end Machine
end Sys2Proof
end

section
/-!
SUPPORT. The SFU (07 R202, R221): a thread's request that is accepted or waits, the grant of an entry, and results.
-/

namespace Sys2Proof.Machine

/-! Requests -/

/-- The SFU accepts one request in an aclk, and has sixteen entries (R221). -/
theorem SkeinSt.room_eq_true (k : SkeinSt) (now : Word) : k.room now = true ↔ k.accepted ≠ some now
    ∧ k.queue.length + (if k.begun = some now then 1 else 0) < 16 := by
  simp [SkeinSt.room, sfuEntries]

/-- A request is accepted, or waits with its slot, or is tried again while four results are outstanding. -/
theorem execSfu_plain {s : State} {d a : Reg} (hp : s.plain [a] [d] = true) (fn : SfuOp) (f : Fmt3) :
    let i := s.cur
    let k := s.skein i.die (skeinOf i.core)
    let q : SfuReq := { agent := .slot i (s.slot i).inc, fn, fmt := f, x := s.reg i a, dst := d }
    execSfu fn f d a s = if 4 ≤ s.outstanding i then .next (s.waitData i)
      else if k.accepted ≠ some s.aclk ∧ k.queue.length + (if k.begun = some s.aclk then 1 else 0) < 16 ∧ k.waiting = []
      then .next ((s.setSkein i.die (skeinOf i.core) (k.accept s.aclk q)).advance)
      else .next ((s.setSkein i.die (skeinOf i.core)
        { k with waiting := k.waiting ++ [(i.core.toNat, { q with src := some a })] }).enter i .waitData .sfu) := by
  refine if_congr Iff.rfl rfl ?_
  rw [s.issue_plain hp]
  refine (apply_ite s.perform _ _ _).trans (if_congr ?_ rfl rfl)
  rw [Bool.and_eq_true, SkeinSt.room_eq_true, and_assoc, List.isEmpty_iff]

/-! The grant -/

section
variable {s : State} {i : SlotId} {p : Nat} {q : SfuReq}

/-- An operand that is no network or stream register is read without effect. -/
theorem State.consume_plain {r : Reg} (h : isNet r = false ∧ isStream r = false) : s.consume i r = s := by
  rw [State.consume, s.readReg_plain h.1 h.2]

/-- The state of a skein that has taken its next waiting request into the queue. -/
def SkeinSt.grant (k : SkeinSt) (now : Word) (p : Nat) (q : SfuReq) : SkeinSt :=
  { k.accept now { q with src := none } with
      waiting := k.waiting.erase (p, q), lastCore := p, lastSlot := tblSet 63 p q.sub k.lastSlot }

theorem execSfuGrant_slot (hroom : (s.skein s.ev.die (BitVec.ofNat 7 s.ev.unit)).room s.aclk = true)
    (hnext : (s.skein s.ev.die (BitVec.ofNat 7 s.ev.unit)).nextGrant = some (p, q))
    (hagent : q.agent = .slot i (s.slot i).inc) (hawait : (s.slot i).await = .sfu)
    (hsrc : ∀ r, q.src = some r → isNet r = false ∧ isStream r = false) :
    exec .sfuGrant s = .next ((s.setSkein s.ev.die (BitVec.ofNat 7 s.ev.unit)
      ((s.skein s.ev.die (BitVec.ofNat 7 s.ev.unit)).grant s.aclk p q)).wakeNext i) := by
  have hplain : isNet (q.src.getD 0) = false ∧ isStream (q.src.getD 0) = false := by
    cases hq : q.src with
    | none => decide
    | some r => exact hsrc r hq
  change execSfuGrant s = _
  simp only [execSfuGrant, hroom, hnext, hagent, State.setSkein_slot, hawait, beq_self_eq_true, Bool.and_self,
    Bool.not_true, Bool.false_eq_true, ↓reduceIte, State.consume_plain hplain, SkeinSt.grant]

theorem State.wakeNext_ne {j : SlotId} (h : j ≠ i) : (s.wakeNext i).slot j = s.slot j := by
  rw [State.wakeNext, State.wake_ne _ h, State.modSlot_ne _ h]

@[simp] theorem State.wakeNext_skein (d : Die) (n : BitVec 7) : (s.wakeNext i).skein d n = s.skein d n := rfl

end

/-! Results -/

section
variable {s : State} {q : SfuReq} {rest : List SfuReq}

theorem execSfuResult_begins (hval : s.ev.val.getLsbD 0 = true)
    (hqueue : (s.skein s.ev.die (BitVec.ofNat 7 s.ev.unit)).queue = q :: rest)
    (hbegun : (s.skein s.ev.die (BitVec.ofNat 7 s.ev.unit)).begun ≠ some s.aclk) :
    let k := s.skein s.ev.die (BitVec.ofNat 7 s.ev.unit)
    exec .sfuResult s = .next (s.setSkein s.ev.die (BitVec.ofNat 7 s.ev.unit)
      { k with queue := rest, serving := k.serving ++ [q], begun := some s.aclk }) := by
  change execSfuResult s = _
  simp only [execSfuResult, hval, hqueue, beq_eq_false_iff_ne.2 hbegun, Bool.false_eq_true, ↓reduceIte]

theorem execSfuResult_slot {i : SlotId} (hval : s.ev.val.getLsbD 0 = false)
    (hserving : (s.skein s.ev.die (BitVec.ofNat 7 s.ev.unit)).serving = q :: rest)
    (hagent : q.agent = .slot i (s.slot i).inc) :
    let k := s.skein s.ev.die (BitVec.ofNat 7 s.ev.unit)
    let r := sfuOp q.fn (threadFmt q.fmt) q.x
    exec .sfuResult s = .next (((s.setSkein s.ev.die (BitVec.ofNat 7 s.ev.unit) { k with serving := rest }).writeReg i
      q.dst r.1).orFlags i r.2) := by
  change execSfuResult s = _
  simp only [execSfuResult, hval, hserving, hagent, State.setSkein_slot, beq_self_eq_true, Bool.false_eq_true, ↓reduceIte]

end

/-- Settles O7: by the request of a thread, the grant, the beginning of a service and its result. -/
theorem specialFunctions : Obligations.SpecialFunctions := by
  unfold Obligations.SpecialFunctions
  constructor
  · intro s f d a hp i k req outcome
    have h (fn : SfuOp) : execSfu fn f d a s = outcome fn := execSfu_plain hp fn f
    exact ⟨h .exp2, h .log2, h .rcp, h .rsq, h .sin, h .cos, h .tanh⟩
  · intro s i p q rest d n k
    refine ⟨fun hroom hnext hagent hawait hsrc => ⟨_, execSfuGrant_slot hroom hnext hagent hawait hsrc, ?_⟩,
      execSfuResult_begins, execSfuResult_slot⟩
    obtain ⟨hpc, hready, -⟩ := (s.setSkein d n (k.grant s.aclk p q)).wakeNext_slot i
    rw [State.wakeNext_skein, State.setSkein_self]
    exact ⟨rfl, rfl, hready, hpc, fun j hj => State.wakeNext_ne hj, rfl⟩

end Sys2Proof.Machine
end

section
/-!
SUPPORT. Accesses at issue (07 R202, R226 to R234; 15 R390, R391): the checks of an address, and the access that a load, store,
full/empty operation, amo or CAS starts.
-/

namespace Sys2Proof.Machine

section
variable {s : State}

/-! Issue -/

theorem State.issueResult_plain {srcs dsts : List Reg} (ho : s.outstanding s.cur < 4) (hp : s.plain srcs dsts = true)
    (k : List Word → State → Act) : s.issueResult srcs dsts k = s.perform (k (srcs.map (s.reg s.cur)) s) := by
  rw [State.issueResult, if_neg (Nat.not_le.2 ho), s.issue_plain hp]

/-- A fifth result outstanding waits (R202). -/
theorem State.issueResult_full (ho : 4 ≤ s.outstanding s.cur) (srcs dsts : List Reg) (k : List Word → State → Act) :
    s.issueResult srcs dsts k = .next (s.waitData s.cur) := if_pos ho

/-! Addresses -/

theorem State.addressFault_beyond (i : SlotId) {va : Word} {n : Nat} (ha : va.toNat % 2 ^ n = 0)
    (hv : 2 ^ 57 ≤ va.toNat) : s.addressFault i va n = some (.trap 0x21 0 va 0) := by
  rw [State.addressFault, if_neg (by simp [ha]), if_pos hv]

theorem State.addressFault_none (i : SlotId) {va : Word} {n : Nat} (ha : va.toNat % 2 ^ n = 0)
    (hv : va.toNat < 2 ^ 57) : s.addressFault i va n = none := by
  rw [State.addressFault, if_neg (by simp [ha]), if_neg (Nat.not_le.2 hv)]

/-- The start of an access at an address, or its trap: MISALIGN, then VARANGE (R390). -/
def State.startOrTrap (s : State) (va : Word) (n : Nat) (acc : Access) : Result :=
  if va.toNat % 2 ^ n ≠ 0 then
    .next (s.takeTrap s.cur 0x20 (BitVec.ofNat 8 n) (s.slot s.cur).pc s.word va 0)
  else if 2 ^ 57 ≤ va.toNat then .next (s.takeTrap s.cur 0x21 0 (s.slot s.cur).pc s.word va 0)
  else .next (s.startAccess acc)

/-- What an instruction does behind the check of its address: the fault, or the act of a good address. -/
def Act.checked (fault : Option Act) (act : Act) : Act :=
  match fault with
  | some f => f
  | none => act

/-- An instruction that starts an access unless its address has a fault. -/
theorem State.perform_addressFault (s : State) (va : Word) (n : Nat) (acc : Access) :
    s.perform (Act.checked (s.addressFault s.cur va n) (.go (s.startAccess acc))) = s.startOrTrap va n acc := by
  rw [State.startOrTrap]
  split
  next ha => rw [s.addressFault_unaligned s.cur ha]; rfl
  next ha =>
    have ha := not_not.1 ha
    split
    next hv => rw [State.addressFault_beyond s.cur ha hv]; rfl
    next hv => rw [State.addressFault_none s.cur ha (Nat.not_le.1 hv)]; rfl

theorem State.startOrTrap_starts {va : Word} {n : Nat} (acc : Access) (ha : va.toNat % 2 ^ n = 0) (hv : va.toNat < 2 ^ 57) :
    s.startOrTrap va n acc = .next (s.startAccess acc) := by
  rw [State.startOrTrap, if_neg (not_not.2 ha), if_neg (Nat.not_le.2 hv)]

theorem State.startOrTrap_unaligned {va : Word} {n : Nat} (acc : Access) (ha : va.toNat % 2 ^ n ≠ 0) :
    s.startOrTrap va n acc
      = .next (s.takeTrap s.cur 0x20 (BitVec.ofNat 8 n) (s.slot s.cur).pc s.word va 0) := if_pos ha

/-! Loads and stores -/

/-- The access of a load, with the number of entries that the store log holds before it (16 R420). -/
def State.loadAccess (s : State) (o : LoadOp) (d : Reg) (va : Word) : Access :=
  { s.newAccess s.cur (.load o) .s false false va with dst := d, data := BitVec.ofNat 64 (s.slot s.cur).log.length }

theorem execLoad_plain {d a : Reg} (hp : s.plain [a] [d] = true) (o : LoadOp) (i : BitVec 13) :
    let va := s.reg s.cur a + i.signExtend 64
    execLoad o d a i s = if 4 ≤ s.outstanding s.cur then .next (s.waitData s.cur)
      else s.startOrTrap va (loadLog2 o) (s.loadAccess o d va) := by
  intro va
  split
  next ho => exact State.issueResult_full ho _ _ _
  next ho =>
    rw [execLoad, State.issueResult_plain (Nat.not_le.1 ho) hp, ← s.perform_addressFault]
    rfl

theorem execStore_plain {a b : Reg} (hp : s.plain [a, b] [] = true) (hj : s.journaled = false) (o : StoreOp) (i : BitVec 13) :
    let va := s.reg s.cur a + i.signExtend 64
    execStore o b a i s = s.startOrTrap va (storeLog2 o)
      { s.newAccess s.cur (.store o) .s false false va with data := s.reg s.cur b } := by
  intro va
  rw [execStore, s.issue_plain hp]
  simp only [hj, Bool.false_eq_true, ↓reduceIte]
  rw [← s.perform_addressFault]
  rfl

/-! Full/empty operations -/

section
variable (ho : s.outstanding s.cur < 4)
include ho

theorem execFeRead_plain {d e a : Reg} (hp : s.plain [a] [d, e] = true) (o : FeOp) (x : Scope) :
    execFeRead o x d e a s = s.startOrTrap (s.reg s.cur a) 3
      { s.newAccess s.cur (.fe o) x (feAcquires o) (feReleases o) (s.reg s.cur a) with dst := d, dst2 := e } := by
  rw [execFeRead, State.issueResult_plain ho hp, ← s.perform_addressFault]
  rfl

/-- The journal is asked only where the address has no fault. -/
theorem execFeWrite_unaligned {srcs : List Reg} (hp : s.plain srcs [] = true) (o : FeOp) (x : Scope)
    (ha : ((srcs.map (s.reg s.cur)).getD 0 0).toNat % 2 ^ 3 ≠ 0) :
    execFeWrite o x srcs s
      = .next (s.takeTrap s.cur 0x20 3 (s.slot s.cur).pc s.word ((srcs.map (s.reg s.cur)).getD 0 0) 0) := by
  rw [execFeWrite, State.issueResult_plain ho hp]
  simp only [s.addressFault_unaligned s.cur ha]
  rfl

theorem execFeWrite_plain {srcs : List Reg} (hp : s.plain srcs [] = true) (hj : s.journaled = false) (o : FeOp) (x : Scope) :
    let vs := srcs.map (s.reg s.cur)
    execFeWrite o x srcs s = s.startOrTrap (vs.getD 0 0) 3
      { s.newAccess s.cur (.fe o) x (feAcquires o) (feReleases o) (vs.getD 0 0) with data := vs.getD 1 0 } := by
  intro vs
  rw [execFeWrite, State.issueResult_plain ho hp]
  simp only [hj, Bool.false_eq_true, ↓reduceIte]
  rw [← s.perform_addressFault]
  rfl

/-! Amos and CAS -/

section
variable {d b a : Reg} (w : Bool) (hj : s.journaled = false)
include hj

theorem execAmo_plain (hp : s.plain [a, b] [d] = true) (o : AmoOp) (x : Option Scope) :
    execAmo o w x d b a s = s.startOrTrap (s.reg s.cur a) (if w then 2 else 3)
      { s.newAccess s.cur (.amo o w) (x.getD .s) x.isSome x.isSome (s.reg s.cur a) with
        data := s.reg s.cur b, dst := d } := by
  rw [execAmo, if_neg (ne_true_of_eq_false hj), State.issueResult_plain ho hp,
    ← s.perform_addressFault]
  rfl

theorem execCas_plain (hp : s.plain [a, b, d] [d] = true) (x : Scope) :
    execCas w x d b a s = s.startOrTrap (s.reg s.cur a) (if w then 2 else 3)
      { s.newAccess s.cur (.cas w) x true true (s.reg s.cur a) with
        data := s.reg s.cur b, expect := s.reg s.cur d, dst := d } := by
  rw [execCas, execAtomic, if_neg (ne_true_of_eq_false hj), State.issueResult_plain ho hp,
    ← s.perform_addressFault]
  rfl

end
end

theorem exec_journaled_traps (hj : s.journaled = true) (w : Bool) (x : Scope) (d b a : Reg) {i : Instr}
    (hi : i ∈ [.put x b a, .amoAdd w d b a, .amoAddScoped w x d b a, .cas w x d b a]) :
    exec i s = .next (s.takeTrap s.cur 0x45 0 (s.slot s.cur).pc s.word 0 0) := by
  simp only [List.mem_cons, List.not_mem_nil, or_false] at hi
  obtain rfl | rfl | rfl | rfl := hi <;> exact if_pos hj

end

/-- Settles O8: by the instruction's form, the access that it starts or the trap of its address. -/
theorem accessesStart : Obligations.AccessesStart := by
  unfold Obligations.AccessesStart
  refine ⟨?loadsAndStores, ?fullEmpty, ?atomics⟩
  case loadsAndStores =>
    intro s d a b i me va phys start acc load store
    refine ⟨fun hp => ?_, fun hp hj => ?_⟩
    · have h (o : LoadOp) : execLoad o d a i s = load (loadLog2 o) o := execLoad_plain hp o i
      exact ⟨h .b, h .h, h .w, h .d, h .bu, h .hu, h .wu⟩
    · have h (o : StoreOp) : execStore o b a i s = store (storeLog2 o) o := execStore_plain hp hj o i
      exact ⟨h .b, h .h, h .w, h .d⟩
  case fullEmpty =>
    intro s x d b a ho me va acc put goesOn waits
    refine ⟨fun ha hv => ⟨fun hp => ?_, fun hp => ?_, fun hp => ?_, fun hj => ⟨fun hp => ?_, fun hp => ?_⟩⟩,
      fun ha => ⟨fun hp => ?_, fun hp => ?_⟩, fun hj => ?_⟩
    · have h (o : FeOp) (y : Scope) := (execFeRead_plain ho hp o y).trans (State.startOrTrap_starts _ ha hv)
      exact ⟨h .lde x, h .take x, h .festat .s⟩
    · exact (execFeRead_plain ho hp .waitf x).trans (State.startOrTrap_starts _ ha hv)
    · exact (execFeRead_plain ho hp .trytake x).trans (State.startOrTrap_starts _ ha hv)
    · have h (o : FeOp) := (execFeWrite_plain ho hp hj o x).trans (State.startOrTrap_starts _ ha hv)
      exact ⟨(if_neg (ne_true_of_eq_false hj)).trans (h .put), h .fill⟩
    · exact (execFeWrite_plain ho hp hj .purge .s).trans (State.startOrTrap_starts _ ha hv)
    · have h (o : FeOp) := (execFeRead_plain ho hp o x).trans (State.startOrTrap_unaligned _ ha)
      exact ⟨h .lde, h .take⟩
    · exact execFeWrite_unaligned ho hp .fill x ha
    · exact exec_journaled_traps hj false x d b a (by simp)
  case atomics =>
    intro s w x d b a me va acc start relaxed sync
    refine ⟨fun hj ho ha hv => ?_, fun hj => ?_⟩
    · have ha : va.toNat % 2 ^ (if w then 2 else 3) = 0 := by cases w <;> exact ha
      refine ⟨fun hp => ?_, fun hp => (execCas_plain ho w hj hp x).trans (State.startOrTrap_starts _ ha hv)⟩
      have h (o : AmoOp) (y : Option Scope) := (execAmo_plain ho w hj hp o y).trans (State.startOrTrap_starts _ ha hv)
      exact ⟨h .swap none, h .add none, h .and none, h .or none, h .xor none, h .min none, h .max none, h .maxu none,
        h .swap x, h .add x, h .and x, h .or x, h .xor x, h .min x, h .max x, h .maxu x⟩
    · have h {i : Instr} := exec_journaled_traps hj w x d b a (i := i)
      exact ⟨h (by simp), h (by simp), h (by simp)⟩

end Sys2Proof.Machine
end

section
/-!
SUPPORT. Memory nodes (07 R229, R232; 08 R252; 15 R392): a node with its operands starts its access, or stops at its address.
-/

namespace Sys2Proof.Machine

/-! Operands -/

/-- A data or order token is neither a scale token nor a control token. -/
theorem Token.kinds_of_isData {k : Token} (h : k.isData = true) : k.isScale = false ∧ k.isControl = false := by
  simp only [Token.isData, Token.isScale, Token.isControl] at h ⊢
  revert h
  generalize k.kind = c
  revert c
  decide

section
variable {v : View} {l r : Token} {o : NodeOp} {sc : Scope}

/-- The payload of an order token is ignored (02 R51). -/
theorem View.word_of_op {q : NodePort} (h : v.op q = some l) : v.word q = if l.kind = kindOrder then 0 else l.payload := by
  simp only [View.word, h, beq_iff_eq]

section
variable (hl : v.op .l = some l) (hd : l.isData = true) (ho : v.wired .o = false)
include hl hd ho

/-- A node that takes its address alone. -/
theorem memNode_left (hr : o.right = false) : memNode o sc v = some (v.start o sc [.l] (v.word .l) 0) := by
  obtain ⟨hscale, hcontrol⟩ := Token.kinds_of_isData hd
  simp [memNode, hl, hscale, hcontrol, hr, View.lacks, ho]

/-- A node that takes a data token beside its address. -/
theorem memNode_right (hr : o.right = true) (hw : v.wired .r = true) (hrop : v.op .r = some r) (hdr : r.isData = true) :
    memNode o sc v = some (v.start o sc [.l, .r] (v.word .l) (v.word .r)) := by
  obtain ⟨hscale, hcontrol⟩ := Token.kinds_of_isData hd
  simp [memNode, hl, hscale, hcontrol, hr, View.lacks, ho, hw, hrop, hdr]

end

/-! The access -/

variable {eat : List NodePort} {va w : Word}

theorem View.start_accesses (hv : va.toNat < 2 ^ 57) (ha : va.toNat % 2 ^ o.log2 = 0) : v.start o sc eat va w =
    { eat, node := { v.node with count := v.node.count + 1 }
      also := fun z => { z with accs := z.accs ++ [v.access z o sc va w], nextId := z.nextId + 1 } } := by
  simp only [View.start, if_neg (Nat.not_le.2 hv), ha, bne_self_eq_false, Bool.false_eq_true, ↓reduceIte]

theorem View.start_beyond (hv : 2 ^ 57 ≤ va.toNat) : v.start o sc eat va w =
    { eat, node := { v.node with count := v.node.count + 1 }
      also := fun z => z.feederFault v.d v.h v.slot (v.slot - 56) 0x21 } := by
  simp only [View.start, if_pos hv]

theorem View.start_unaligned (hv : va.toNat < 2 ^ 57) (ha : va.toNat % 2 ^ o.log2 ≠ 0) : v.start o sc eat va w =
    { eat, node := { v.node with count := v.node.count + 1 }
      also := fun z => z.feederFault v.d v.h v.slot (v.slot - 56) 0x20 } := by
  simp only [View.start, if_neg (Nat.not_le.2 hv), bne_iff_ne.2 ha, ↓reduceIte]

/-- The turn of a node that starts its access, or stops. -/
theorem fires_of_start {s : State} {t u : Target} {i : Instr} {b : View → Option Fired} (hturn : s.NodeTurn t u v)
    (hi : exec i s = .next (s.fire t u b)) (hb : b v = some (v.start o sc eat va w)) :
    s.Fires i v (v.start o sc eat va w) :=
  hi.trans (congrArg Host.Outcome.next (fire_of_turn hturn hb))

end

/-- Settles O42: by the operands of each kind of node, then by the checks of its address. -/
theorem memoryNodesStart : Obligations.MemoryNodesStart := by
  unfold Obligations.MemoryNodesStart
  intro s t u v l r lo so fo uo sc hturn hl hd ho node va data acc starts bytes
  have hva : v.word .l = va := View.word_of_op hl
  have started {i : Instr} {b : View → Option Fired} {eat : List NodePort} {o : NodeOp} {x : Scope} {w : Word}
      (hi : exec i s = .next (s.fire t u b)) (hb : b v = some (v.start o x eat (v.word .l) w)) :
      starts i eat o.log2 o.op x w := by
    have hfires := fires_of_start hturn hi (hva ▸ hb)
    exact ⟨fun hv ha => View.start_accesses hv ha ▸ hfires, fun hv => View.start_beyond hv ▸ hfires,
      fun hv ha => View.start_unaligned hv ha ▸ hfires⟩
  refine ⟨started (o := loadNodeOp lo) rfl (memNode_left hl hd ho rfl), fun hput hfill => ?_, fun hw hrop hdr => ?_⟩
  · refine started (o := feNodeOp fo) rfl (memNode_left hl hd ho ?_)
    simp [feNodeOp, hput, hfill]
  · have hdata : v.word .r = data := View.word_of_op hrop
    have both {o : NodeOp} {x : Scope} (hr : o.right = true) :
        memNode o x v = some (v.start o x [.l, .r] (v.word .l) data) := hdata ▸ memNode_right hl hd ho hr hw hrop hdr
    exact ⟨started rfl (both (o := storeNodeOp so) rfl), started rfl (both (o := feNodeOp .put) rfl),
      started rfl (both (o := feNodeOp .fill) rfl),
      started (b := fun z => memNode (updNodeOp uo z.fmt) .s z) rfl (both (o := updNodeOp uo v.fmt) rfl)⟩

end Sys2Proof.Machine
end

section
/-!
SUPPORT. The kinds of tokens (02 R50, R51; 08 R240, R241): data, scale and control exclude one another, and every shape is a control
token. The rule for a node's turn, and the shape rules that several nodes share.
-/

namespace Sys2Proof.Machine

/-! Kinds and shapes -/

section
variable {k : Token}

theorem Token.kinds_of_isScale (h : k.isScale = true) : k.isData = false ∧ k.isControl = false := by
  rw [Token.isData, Token.isControl, eq_of_beq h]
  decide

theorem Token.kinds_of_isControl (h : k.isControl = true) : k.isData = false ∧ k.isScale = false := by
  rw [Token.isData, Token.isScale, eq_of_beq h]
  decide

theorem Token.isEor_iff : k.isEor = true ↔ k.isControl = true ∧ k.code = 1 := by simp [Token.isEor]

theorem Token.isEog_iff : k.isEog = true ↔ k.isControl = true ∧ k.code = 2 := by simp [Token.isEog]

theorem Token.isEos_iff : k.isEos = true ↔ k.isControl = true ∧ k.code = 3 := by simp [Token.isEos]

theorem Token.isPlain_iff : k.isPlain = true ↔ k.isControl = true ∧ k.code = 0 := by simp [Token.isPlain]

/-- A token that is no control token has no shape. -/
theorem Token.shapes_of_not_isControl (h : k.isControl = false) :
    k.isPlain = false ∧ k.isEor = false ∧ k.isEog = false ∧ k.isEos = false := by
  simp [Token.isPlain, Token.isEor, Token.isEog, Token.isEos, h]

/-- The end of a row is no plain token and no end of a group. -/
theorem Token.shapes_of_isEor (h : k.isEor = true) : k.isPlain = false ∧ k.isEog = false ∧ k.isEos = false := by
  simp [Token.isPlain, Token.isEog, Token.isEos, (Token.isEor_iff.1 h).2]

theorem Token.shapes_of_isEog (h : k.isEog = true) : k.isPlain = false ∧ k.isEor = false ∧ k.isEos = false := by
  simp [Token.isPlain, Token.isEor, Token.isEos, (Token.isEog_iff.1 h).2]

theorem Token.shapes_of_isEos (h : k.isEos = true) : k.isPlain = false ∧ k.isEor = false ∧ k.isEog = false := by
  simp [Token.isPlain, Token.isEor, Token.isEog, (Token.isEos_iff.1 h).2]

/-- The end of a group ends the row. -/
theorem Token.endsRow_of_endsGroup (h : k.endsGroup = true) : k.endsRow = true := by simp [Token.endsRow, h]

theorem Token.endsRow_of_isEor (h : k.isEor = true) : k.endsRow = true := by simp [Token.endsRow, h]

theorem Token.endsGroup_of_not_isControl (h : k.isControl = false) : k.endsGroup = false := by
  obtain ⟨-, -, heog, heos⟩ := Token.shapes_of_not_isControl h
  simp [Token.endsGroup, heog, heos]

theorem Token.endsGroup_of_isEor (h : k.isEor = true) : k.endsGroup = false := by
  obtain ⟨-, heog, heos⟩ := Token.shapes_of_isEor h
  simp [Token.endsGroup, heog, heos]

/-- A token that ends a row is a control token, and not a plain one. -/
theorem Token.kinds_of_endsRow (h : k.endsRow = true) :
    k.isControl = true ∧ k.isData = false ∧ k.isScale = false ∧ k.isPlain = false := by
  obtain ⟨hc, hp⟩ : k.isControl = true ∧ k.isPlain = false := by
    simp only [Token.endsRow, Token.endsGroup, Bool.or_eq_true] at h
    obtain h | h | h := h
    · exact ⟨(Token.isEor_iff.1 h).1, (Token.shapes_of_isEor h).1⟩
    · exact ⟨(Token.isEog_iff.1 h).1, (Token.shapes_of_isEog h).1⟩
    · exact ⟨(Token.isEos_iff.1 h).1, (Token.shapes_of_isEos h).1⟩
  exact ⟨hc, (Token.kinds_of_isControl hc).1, (Token.kinds_of_isControl hc).2, hp⟩

theorem Token.kinds_of_endsGroup (h : k.endsGroup = true) :
    k.isControl = true ∧ k.isData = false ∧ k.isScale = false ∧ k.isPlain = false :=
  Token.kinds_of_endsRow (Token.endsRow_of_endsGroup h)

end

/-! Words -/

/-- A word that is extended with zeros has them in front. -/
theorem zeroExtend_eq_append {m n : Nat} (x : BitVec n) : x.zeroExtend (m + n) = 0#m ++ x := by
  refine BitVec.eq_of_toNat_eq ?_
  rw [BitVec.toNat_append, BitVec.toNat_ofNat, Nat.zero_mod, Nat.zero_shiftLeft, Nat.zero_or, BitVec.zeroExtend,
    BitVec.toNat_setWidth_of_le (Nat.le_add_left n m)]

/-! Turns -/

/-- The turn of a node whose behaviour fires. -/
theorem State.NodeTurn.fires {s : State} {t u : Target} {v : View} {i : Instr} {b : View → Option Fired} {f : Fired}
    (hturn : s.NodeTurn t u v) (hi : exec i s = .next (s.fire t u b)) (hb : b v = some f) : s.Fires i v f :=
  hi.trans (congrArg Host.Outcome.next (fire_of_turn hturn hb))

/-! The shape rules (R240, R241) -/

section
variable {v : View} {l : Token}

theorem View.forward_alone (hr : v.op .r = none) (l : Token) :
    v.forward l = some { eat := [.l], outs := v.both l, node := v.node } := by
  simp only [View.forward, hr]

theorem View.passShape_scale (hs : l.isScale = true) :
    v.passShape l = some { eat := [.l], outs := v.both l, node := v.node } := if_pos hs

theorem View.passShape_control (hc : l.isControl = true) (hr : v.op .r = none) :
    v.passShape l = some { eat := [.l], outs := v.both l, node := v.node } := by
  rw [View.passShape, if_neg (ne_true_of_eq_false (Token.kinds_of_isControl hc).2), View.forward_alone hr]

end

end Sys2Proof.Machine
end

section
/-!
SUPPORT. Nodes that steer and shape streams (08 R244 to R251, R264, R269): what each fires on the tokens at its ports.
-/

namespace Sys2Proof.Machine

section
variable {v : View} {l r q : Token}

/-! MERGE by arrival and CARRY -/

theorem mergeByArrival_left (hl : v.op .l = some l) (hr : v.op .r = none) :
    mergeByArrival v = some { eat := [.l], outs := v.both l, node := v.node } := by
  simp only [mergeByArrival, hl, hr]

theorem mergeByArrival_right (hl : v.op .l = none) (hr : v.op .r = some r) :
    mergeByArrival v = some { eat := [.r], outs := v.both r, node := v.node } := by
  simp only [mergeByArrival, hl, hr]

theorem mergeByArrival_both (hl : v.op .l = some l) (hr : v.op .r = some r) :
    mergeByArrival v = if (v.stamp .r).ult (v.stamp .l) then some { eat := [.r], outs := v.both r, node := v.node }
      else some { eat := [.l], outs := v.both l, node := v.node } := by
  simp only [mergeByArrival, hl, hr]

/-- MERGE by predicate takes the side that the predicate names. -/
theorem mergeByPred_side {k : Token} (side : NodePort) (hp : v.op .p = some q)
    (hside : (if q.payload != 0 then NodePort.l else .r) = side) (hk : v.op side = some k) :
    mergeByPred v = some { eat := [.p, side], outs := v.both k, node := v.node } := by
  simp only [mergeByPred, hp, hside, hk, Option.map_some]

/-- In context 0 no other context goes before the initial value. -/
theorem carryNode_first (k : BitVec 6) (hp : v.node.primed = false) (hc : v.c = 0) (hn : 0 < v.x.nctx) :
    carryNode k v = some { eat := [], outs := v.both (dataTok v.ctx (v.x.const k.toNat))
                           node := { v.node with primed := true, count := 1 } } := by
  simp [carryNode, hp, hc, hn]

theorem carryNode_primed (k : BitVec 6) (hp : v.node.primed = true) (hl : v.op .l = some l) :
    carryNode k v = some { eat := [.l], outs := v.both l
                           node := if l.endsGroup then { v.node with primed := false } else v.node } := by
  simp only [carryNode, hp, hl, Bool.not_true, Bool.false_eq_true, ↓reduceIte]
  split <;> rfl

/-! Nodes that act on a left token -/

section
variable (hl : v.op .l = some l)
include hl

theorem steer_shape (want : Bool) (hd : l.isData = false) : steer want v = v.passShape l := by
  simp [steer, hl, hd]

theorem gateNode_shape (hd : l.isData = false) : gateNode v = v.passShape l := by
  simp [gateNode, hl, hd]

theorem constNode_control (control : Bool) (k : BitVec 6) (hc : l.isControl = true) : constNode control k v = v.forward l := by
  simp [constNode, hl, hc, (Token.kinds_of_isControl hc).2]

theorem stripNode_control (hc : l.isControl = true) : stripNode v = v.drop .l := by
  simp [stripNode, hl, hc]

theorem splitNode_left : splitNode v = some { eat := [.l], outs := [⟨if l.isControl then v.u else v.t, l⟩], node := v.node } := by
  simp only [splitNode, hl]

theorem widenNode_left : widenNode v = some { eat := [.l], outs := v.both l, node := v.node } := by
  simp only [widenNode, hl, Option.map_some]

/-- The left token of a reshaping ROWCTL: count holds the data tokens since the last shape token. -/
theorem reshapeNode_left (code : BitVec 4) (hr : v.op .r = none) :
    reshapeNode code v = some { eat := [.l], outs := v.both l, node := { v.node with
      count := if l.isControl then 0 else if l.isScale then v.node.count else v.node.count + 1 } } := by
  simp only [reshapeNode, hl, hr]

theorem invNode_endsGroup (hr : v.op .r = none) (he : l.endsGroup = true) :
    invNode v = some { eat := [.l], outs := v.both l, node := { v.node with latch := none } } := by
  obtain ⟨-, -, hs, -⟩ := Token.kinds_of_endsGroup he
  simp [invNode, hl, hr, hs, he]

theorem cntNode_endsGroup (rows : Bool) (he : l.endsGroup = true) :
    cntNode rows v = some { eat := [.l], outs := [⟨v.u, dataTok v.ctx (tblGet 0 0 v.node.vals)⟩, ⟨v.t, l⟩]
                            node := { v.node with vals := [] } } := by
  simp only [cntNode, hl, he, ↓reduceIte]

theorem cntNode_counts (rows : Bool) (he : l.endsGroup = false) :
    cntNode rows v = some { eat := [.l], outs := [⟨v.t, l⟩], node := { v.node with
      vals := tblSet 0 0 (tblGet 0 0 v.node.vals
        + BitVec.ofNat 64 (if (if rows then l.isEor else l.isData) then 1 else 0)) v.node.vals } } := by
  simp only [cntNode, hl, he, Bool.false_eq_true, ↓reduceIte]
  cases (if rows then l.isEor else l.isData) <;> simp

section
variable (hd : l.isData = true)
include hd

theorem steer_sends {want : Bool} (hp : v.op .p = some q) (hq : q.isData = true) (hw : (q.payload != 0) = want) :
    steer want v = some { eat := [.l, .p], outs := v.both l, node := v.node } := by
  simp only [steer, hl, hd, hp, hq, hw, beq_self_eq_true, Bool.not_true, Bool.false_eq_true, ↓reduceIte]

theorem steer_discards {want : Bool} (hp : v.op .p = some q) (hq : q.isData = true) (hw : (q.payload != 0) = !want) :
    steer want v = some { eat := [.l, .p], node := v.node } := by
  simp only [steer, hl, hd, hp, hq, hw, Bool.not_beq_self, Bool.not_true, Bool.false_eq_true, ↓reduceIte]

theorem gateNode_data (hr : v.op .r = some r) (hdr : r.isData = true) :
    gateNode v = some { eat := [.l, .r], outs := v.both l, node := v.node } := by
  simp [gateNode, hl, hd, hr, hdr]

theorem constNode_data (control : Bool) (k : BitVec 6) :
    constNode control k v = some { eat := [.l], node := v.node
                                   outs := v.both { payload := v.x.const k.toNat, ctx := v.ctx
                                                    kind := if control then kindControl else kindData } } := by
  obtain ⟨hs, hc⟩ := Token.kinds_of_isData hd
  simp [constNode, hl, hs, hc]

theorem stripNode_data : stripNode v = some { eat := [.l], outs := v.both l, node := v.node } := by
  simp [stripNode, hl, (Token.kinds_of_isData hd).2]

theorem invNode_data {k : Token} (hr : v.op .r = none) (hk : v.node.latch = some k) :
    invNode v = some { eat := [.l], outs := v.both (dataTok v.ctx k.payload), node := v.node } := by
  obtain ⟨hs, hc⟩ := Token.kinds_of_isData hd
  simp [invNode, hl, hr, hs, hc, Token.endsGroup_of_not_isControl hc, hk]

theorem raceNode_forwards {n : BitVec 6} (hn : v.node.count.toNat < n.toNat) :
    raceNode n v = some
      { eat := [.l], outs := v.both { l with payload := setTag l.payload (v.node.count.extractLsb' 0 8) }
        node := { v.node with count := v.node.count + 1, count2 := v.node.count2 + 1
                              vals := tblSet 0 0 (tblGet 0 0 v.node.vals + 1) v.node.vals } } := by
  simp only [raceNode, hl, hd, hn, ↓reduceIte]

theorem raceNode_discards {n : BitVec 6} (hn : n.toNat ≤ v.node.count.toNat) :
    raceNode n v = some { eat := [.l], node := v.node } := by
  simp only [raceNode, hl, hd, Nat.not_lt.2 hn, ↓reduceIte]

end

/-! RACE counts the shape tokens anew -/

theorem raceNode_eor (n : BitVec 6) (he : l.isEor = true) :
    raceNode n v = some { eat := [.l], outs := v.both (shapeTok v.ctx codeEor v.node.count)
                          node := { v.node with count := 0 } } := by
  obtain ⟨-, hd, -⟩ := Token.kinds_of_endsRow (Token.endsRow_of_isEor he)
  simp [raceNode, hl, hd, he]

theorem raceNode_eog (n : BitVec 6) (he : l.isEog = true) :
    raceNode n v = some { eat := [.l], outs := v.both (shapeTok v.ctx codeEog v.node.count2)
                          node := { v.node with count := 0, count2 := 0 } } := by
  have hd := (Token.kinds_of_isControl (Token.isEog_iff.1 he).1).1
  simp [raceNode, hl, hd, he, (Token.shapes_of_isEog he).2.1]

theorem raceNode_eos (n : BitVec 6) (he : l.isEos = true) :
    raceNode n v = some
      { eat := [.l], outs := v.both (shapeTok v.ctx codeEos ((tblGet 0 0 v.node.vals).extractLsb' 0 32))
        node := { v.node with count := 0, count2 := 0, vals := [] } } := by
  have hd := (Token.kinds_of_isControl (Token.isEos_iff.1 he).1).1
  obtain ⟨-, heor, heog⟩ := Token.shapes_of_isEos he
  simp [raceNode, hl, hd, he, heor, heog]

end

/-! A right token before the left one -/

/-- INV latches a right data token first. -/
theorem invNode_latches (hr : v.op .r = some r) (hd : r.isData = true) :
    invNode v = some { eat := [.r], room := false, node := { v.node with latch := some r } } := by
  simp only [invNode, hr, hd, ↓reduceIte]

theorem reshapeNode_right (code : BitVec 4) (hl : v.op .l = none) (hr : v.op .r = some r) :
    reshapeNode code v = some { eat := [.r], outs := v.both (shapeTok v.ctx code v.node.count)
                                node := { v.node with count := 0 } } := by
  simp only [reshapeNode, hl, hr]

end

/-- Settles O39: by the node, on each of the tokens that it may find. -/
theorem steeringAndCountingNodes : Obligations.SteeringAndCountingNodes := by
  unfold Obligations.SteeringAndCountingNodes
  constructor
  · intro s t u v l r q k sc hturn
    obtain ⟨rfl, rfl⟩ := turn_targets hturn
    intro fires sends st
    refine ⟨fun hl hd hp hdq => ⟨fun hq => ?_, fun hq => ?_⟩, fun hl hs => ?_, fun hl hc hr => ?_,
      fun hp => ⟨fun hq hl => ?_, fun hq hr => ?_⟩, fun hl hr => hturn.fires rfl (mergeByArrival_left hl hr),
      fun hl hr => hturn.fires rfl (mergeByArrival_right hl hr), fun hl hr => ⟨fun hlt => ?_, fun hlt => ?_⟩,
      fun hp hl => ⟨fun he => ?_, fun he => ?_⟩, fun hp hc hn => hturn.fires rfl (carryNode_first k hp hc hn),
      fun hr hd => hturn.fires rfl (invNode_latches hr hd), fun hr hl hd hk => hturn.fires rfl (invNode_data hl hd hr hk),
      fun hr hl he => hturn.fires rfl (invNode_endsGroup hl hr he), fun hl hd => ?_, fun hl hc => ?_, fun hl hr => ?_,
      fun hl hr => ?_, fun hl => hturn.fires rfl (widenNode_left hl)⟩
    · have hq := bne_iff_ne.2 hq
      exact ⟨hturn.fires rfl (steer_sends hl hd hp hdq hq), hturn.fires rfl (steer_discards hl hd hp hdq hq)⟩
    · have hq := bne_eq_false_iff_eq.2 hq
      exact ⟨hturn.fires rfl (steer_discards hl hd hp hdq hq), hturn.fires rfl (steer_sends hl hd hp hdq hq)⟩
    · have hd := (Token.kinds_of_isScale hs).1
      have hpass := View.passShape_scale (v := v) hs
      exact ⟨hturn.fires rfl ((steer_shape hl true hd).trans hpass), hturn.fires rfl ((steer_shape hl false hd).trans hpass),
        hturn.fires rfl ((gateNode_shape hl hd).trans hpass)⟩
    · have hd := (Token.kinds_of_isControl hc).1
      have hpass := View.passShape_control hc hr
      have hfwd := View.forward_alone hr l
      exact ⟨hturn.fires rfl ((steer_shape hl true hd).trans hpass), hturn.fires rfl ((steer_shape hl false hd).trans hpass),
        hturn.fires rfl ((gateNode_shape hl hd).trans hpass), hturn.fires rfl ((constNode_control hl false k hc).trans hfwd),
        hturn.fires rfl ((constNode_control hl true k hc).trans hfwd)⟩
    · exact hturn.fires rfl (mergeByPred_side .l hp (if_pos (bne_iff_ne.2 hq)) hl)
    · exact hturn.fires rfl (mergeByPred_side .r hp (if_neg (ne_true_of_eq_false (bne_eq_false_iff_eq.2 hq))) hr)
    · exact hturn.fires rfl ((mergeByArrival_both hl hr).trans (if_pos hlt))
    · exact hturn.fires rfl ((mergeByArrival_both hl hr).trans (if_neg (ne_true_of_eq_false hlt)))
    · have hb := carryNode_primed k hp hl
      rw [he] at hb
      exact hturn.fires rfl hb
    · have hb := carryNode_primed k hp hl
      rw [he] at hb
      exact hturn.fires rfl hb
    · have hb := splitNode_left hl
      rw [(Token.kinds_of_isData hd).2] at hb
      exact ⟨hturn.fires rfl (constNode_data hl hd false k), hturn.fires rfl (constNode_data hl hd true k),
        fun hr hdr => hturn.fires rfl (gateNode_data hl hd hr hdr), hturn.fires rfl (stripNode_data hl hd), hturn.fires rfl hb⟩
    · have hb := splitNode_left hl
      rw [hc] at hb
      exact ⟨hturn.fires rfl (stripNode_control hl hc), hturn.fires rfl hb⟩
    · exact ⟨hturn.fires rfl (reshapeNode_left hl codeEor hr), hturn.fires rfl (reshapeNode_left hl codeEog hr),
        hturn.fires rfl (reshapeNode_left hl codeEos hr)⟩
    · exact ⟨hturn.fires rfl (reshapeNode_right codeEor hl hr), hturn.fires rfl (reshapeNode_right codeEog hl hr),
        hturn.fires rfl (reshapeNode_right codeEos hl hr)⟩
  · intro s t u v l n hturn hl
    obtain ⟨rfl, rfl⟩ := turn_targets hturn
    intro st c fires counts both
    exact ⟨fun he => ⟨hturn.fires rfl (cntNode_endsGroup hl false he), hturn.fires rfl (cntNode_endsGroup hl true he)⟩,
      fun he => ⟨hturn.fires rfl (cntNode_counts hl false he), hturn.fires rfl (cntNode_counts hl true he)⟩,
      fun hd => ⟨fun hn => hturn.fires rfl (raceNode_forwards hl hd hn), fun hn => hturn.fires rfl (raceNode_discards hl hd hn)⟩,
      fun he => hturn.fires rfl (raceNode_eor hl n he), fun he => hturn.fires rfl (raceNode_eog hl n he),
      fun he => hturn.fires rfl (raceNode_eos hl n he)⟩

end Sys2Proof.Machine
end

section
/-!
SUPPORT. Element-wise nodes (03 R107; 08 R240 to R243): what a node fires on data at its wired ports, on a control token and on a
scale token.
-/

namespace Sys2Proof.Machine

section
variable {v : View} {l : Token} {o : ElemOp}

/-- With data at every wired port there is no token to be taken first. -/
theorem View.rest_eq_none {qs : List NodePort} (h : ∀ q ∈ qs, ∃ k, v.op q = some k ∧ k.isData = true) : v.rest qs = none := by
  induction qs with
  | nil => rfl
  | cons q qs ih =>
    obtain ⟨k, hk, hd⟩ := h q List.mem_cons_self
    obtain ⟨hs, hc⟩ := Token.kinds_of_isData hd
    simp only [View.rest, hk, hs, hc, Bool.false_eq_true, ↓reduceIte, ih fun j hj => h j (List.mem_cons_of_mem _ hj), ite_self]

/-! A computation -/

/-- The LFSR with which an operation rounds: one step on where it rounds at once. -/
def View.roundStep (v : View) (o : ElemOp) : BitVec 32 :=
  if elemRounds o && !elemBlocks v.fmt o then nextLfsr v.rm v.lfsr else v.lfsr

/-- The result of an operation on the operands at the node's ports. -/
def View.result (v : View) (o : ElemOp) : ElemResult :=
  elemResult v.fmt (roundingOf v.rm (v.roundStep o)) o (v.operand .l) (v.operand .r) (v.operand .p)

section
variable (ho : ∀ g h, o ≠ .sfu g h)
include ho

theorem elemFire_bits {w : Word} {fl : FpFlags} (hr : v.result o = .bits w fl) :
    elemFire o v = some { eat := .l :: (elemPorts o).filter v.wired, outs := v.both (dataTok v.ctx w), node := v.node
                          also := v.mark fl (v.roundStep o) } := by
  rw [View.result, View.roundStep] at hr
  unfold elemFire
  split
  next g h => exact absurd rfl (ho g h)
  next => simp only [hr]; rfl

/-- A twill result joins the pending ones while they are fewer than sixteen. -/
theorem elemFire_pends {x : FVal} {fl : FpFlags} (hr : v.result o = .twill x fl) (hp : v.node.pend.length < 15) :
    elemFire o v = some { eat := .l :: (elemPorts o).filter v.wired, node := { v.node with pend := v.node.pend ++ [x] }
                          also := v.mark fl (v.roundStep o) } := by
  have hlen : (v.node.pend ++ [x]).length < 16 := by rw [List.length_append, List.length_singleton]; omega
  rw [View.result, View.roundStep] at hr
  unfold elemFire
  split
  next g h => exact absurd rfl (ho g h)
  next => simp only [hr, hlen, ↓reduceIte]; rfl

/-- The sixteenth twill result sends the block. -/
theorem elemFire_block {x : FVal} {fl : FpFlags} (hr : v.result o = .twill x fl) (hp : v.node.pend.length = 15) :
    let b := v.block v.lfsr (v.node.pend ++ [x])
    elemFire o v = some { eat := .l :: (elemPorts o).filter v.wired, outs := b.1, node := { v.node with pend := [] }
                          also := v.mark (fl ||| b.2.1) b.2.2 } := by
  have hlen : ¬(v.node.pend ++ [x]).length < 16 := by rw [List.length_append, List.length_singleton]; omega
  rw [View.result, View.roundStep] at hr
  unfold elemFire
  split
  next g h => exact absurd rfl (ho g h)
  next => simp only [hr, hlen, ↓reduceIte]

end

theorem elemFire_sfu {fn : SfuOp} {f : Fmt3} (hw : v.sfuWaits = false) :
    elemFire (.sfu fn f) v = some
      { eat := [.l], node := v.node, also := fun z => z.askSfu v.d v.h
          { agent := .node v.d v.h (BitVec.ofNat 6 v.slot) v.ctx, fn, fmt := f, x := (v.operand .l).bits, dst := 0 } } := by
  simp only [elemFire, hw, Bool.false_eq_true, ↓reduceIte]
  rfl

/-! The node, by its left token -/

section
variable (hl : v.op .l = some l)
include hl

theorem elemNode_data (hd : l.isData = true) (hs : v.wired .s = false)
    (hothers : ∀ q ∈ (elemPorts o).filter v.wired, ∃ k, v.op q = some k ∧ k.isData = true) : elemNode o v = elemFire o v := by
  obtain ⟨hscale, hcontrol⟩ := Token.kinds_of_isData hd
  simp only [elemNode, hl, hscale, hcontrol, hs, Bool.false_and, Bool.false_eq_true, ↓reduceIte, View.rest_eq_none hothers]

/-- A control token goes on when no block is pending, and a wired right port owes its partner. -/
theorem elemNode_control (hc : l.isControl = true) (hr : v.op .r = none) (hsfu : v.sfuOpen = false) (hp : v.node.pend = []) :
    elemNode o v = some { eat := [.l], outs := v.both l, node := { v.node with
      count := if v.wired .r then v.node.count + 1 else v.node.count } } := by
  simp [elemNode, hl, (Token.kinds_of_isControl hc).2, hc, elemControl, hsfu, hp, View.forward_alone hr, View.owing, hr]

theorem elemNode_scale (hs : l.isScale = true) : elemNode o v = v.takeScale .l l := by
  simp only [elemNode, hl, hs, ↓reduceIte]

end
end

/-- Settles O40: by the left token, and for data by the result of the operation. -/
theorem elementwiseNodes : Obligations.ElementwiseNodes := by
  unfold Obligations.ElementwiseNodes
  intro s t u v l o fn f w fl x hturn hl
  obtain ⟨rfl, rfl⟩ := turn_targets hturn
  intro st others r ready
  have fire {p : ElemOp} {g : Fired} (hb : elemNode p v = some g) : s.Fires (.elementwiseNode p v.t v.u) v g :=
    hturn.fires rfl hb
  refine ⟨fun ⟨hd, hs, hothers⟩ ho => ?_, fun hd hs hw => ?_, fun hc hr hsfu hp => fire (elemNode_control hl hc hr hsfu hp),
    fun hs ht => ?_, fun hs ht => ?_⟩
  · have hnode : elemNode o v = elemFire o v := elemNode_data hl hd hs hothers
    exact ⟨fun hr => fire (hnode.trans (elemFire_bits ho hr)), fun hr hp => fire (hnode.trans (elemFire_pends ho hr hp)),
      fun hr hp => fire (hnode.trans (elemFire_block ho hr hp))⟩
  · exact fire ((elemNode_data hl hd hs (by simp [elemPorts, elemArity])).trans (elemFire_sfu hw))
  · exact fire ((elemNode_scale hl hs).trans (if_neg (ne_true_of_eq_false ht)))
  · exact fire ((elemNode_scale hl hs).trans (if_pos ht))

end Sys2Proof.Machine
end

section
/-!
SUPPORT. Nodes of the CIM (08 R253 to R263): what BLOAD, MMA, the accumulator nodes, SCALE and RMAX fire on their left token.
-/

namespace Sys2Proof.Machine

section
variable {v : View} {l : Token}

/-! Row-slots -/

/-- NODEFLT 2 for a row-slot beyond the context's. -/
theorem onRowSlot_beyond {n : Nat} (hn : v.x.rowSlots ≤ n) (m : Nat) (eat : List NodePort) (f : MacroSt → Nat → Fired) :
    onRowSlot v m n eat f = some { eat, room := false, node := v.node, also := fun z => z.stopItem v.d v.h v.slot 2 } :=
  if_pos hn

/-- No pass into the row-slot keeps the node from firing. -/
theorem onRowSlot_free {m n : Nat} (hn : n < v.x.rowSlots)
    (hfree : ∀ p, (v.x.macroAt m).pass = some p → ¬(p.ctx.toNat = v.c ∧ p.row = n)) (eat : List NodePort)
    (f : MacroSt → Nat → Fired) : onRowSlot v m n eat f = some (f (v.x.macroAt m) (v.x.accKey v.c n)) := by
  rw [onRowSlot, if_neg (Nat.not_le.2 hn)]
  refine if_neg ?_
  cases hp : (v.x.macroAt m).pass with
  | none => exact Bool.false_ne_true
  | some p =>
    simp only [Bool.and_eq_true, beq_iff_eq]
    exact hfree p hp

/-! The columns of a row-slot -/

theorem View.columnToks_append (hf : v.fmt = .fp32) (ws : List Word) (ks : List OutTok) (fl : FpFlags) (st : BitVec 32) :
    v.columnToks ws ks fl st = (ks ++ ws.flatMap fun w => v.both (dataTok v.ctx w), fl, st) := by
  induction ws generalizing ks with
  | nil => rw [List.flatMap_nil, List.append_nil, View.columnToks]
  | cons w ws ih =>
    have hread : readColumn v.fmt v.rm st w = (w, 0, st) := if_pos (beq_iff_eq.2 hf)
    rw [View.columnToks, hread, List.flatMap_cons, ← List.append_assoc, ← ih]
    exact congrArg (fun g => v.columnToks ws _ g st) (BitVec.or_zero ..)

/-- FP32 columns are sent as they stand. -/
theorem View.columnToks_fp32 (hf : v.fmt = .fp32) (ws : List Word) (fl : FpFlags) (st : BitVec 32) :
    v.columnToks ws [] fl st = (ws.flatMap fun w => v.both (dataTok v.ctx w), fl, st) := by
  rw [View.columnToks_append hf, List.nil_append]

section
variable (clear : Bool) (m : Nat) (y : MacroSt) (key : Nat)

/-- ACC of a PE that is not twill sends the columns word by word. -/
theorem accRead_words (ht : v.twill = false) :
    let g := v.columnToks (y.columns key) [] 0 v.lfsr
    accRead clear m v y key =
      { eat := [.l], outs := g.1 ++ v.both (shapeTok v.ctx codeEor 128), node := v.node
        also := fun z =>
          let z := v.mark g.2.1 g.2.2 z
          if clear then z.modShed v.d v.h fun x => x.modMacro m fun p => { p with acc := clearColumns key 128 p.acc } else z } := by
  simp only [accRead, ht, Bool.false_eq_true, ↓reduceIte]

/-- ACC of a twill PE sends them in eight blocks. -/
theorem accRead_blocks (ht : v.twill = true) :
    let g := v.columnBlocks 8 ((y.columns key).map (decodeFp Fmt.fp32.layout)) [] 0 v.lfsr
    accRead clear m v y key =
      { eat := [.l], outs := g.1 ++ v.both (shapeTok v.ctx codeEor 128), node := v.node
        also := fun z =>
          let z := v.mark g.2.1 g.2.2 z
          if clear then z.modShed v.d v.h fun x => x.modMacro m fun p => { p with acc := clearColumns key 128 p.acc } else z } := by
  simp only [accRead, ht, ↓reduceIte]

end

/-! Nodes by their left token -/

section
variable (hl : v.op .l = some l)
include hl

/-! BLOAD -/

/-- NODEFLT 1 for a data token beyond the image. -/
theorem bloadNode_full (m : BitVec 3) (hd : l.isData = true) (hc : 0x8000 ≤ v.node.count.toNat) :
    bloadNode m v
      = some { eat := [.l], room := false, node := v.node, also := fun z => z.stopItem v.d v.h v.slot 1 } := by
  simp only [bloadNode, hl, hd, imageBytes, hc, ↓reduceIte]

theorem bloadNode_writes {m : BitVec 3} (hd : l.isData = true) (hc : v.node.count.toNat < 0x8000)
    (hp : v.node.primed = true ∨ (v.x.macroAt m.toNat).pass = none) : bloadNode m v = some
      { eat := [.l], room := false, node := { v.node with primed := true, count := v.node.count + 8 }
        also := fun z => z.modShed v.d v.h fun x => x.modMacro m.toNat fun p =>
          { p with loads := if v.node.primed then p.loads else p.loads + 1
                   image := imageWrite v.node.count.toNat (bytesOfWord 8 l.payload) p.image } } := by
  have hwaits : (!v.node.primed && (v.x.macroAt m.toNat).pass.isSome) = false := by
    obtain hp | hp := hp <;> simp [hp]
  simp only [bloadNode, hl, hd, imageBytes, Nat.not_le.2 hc, hwaits, Bool.false_eq_true, ↓reduceIte]

theorem bloadNode_endsGroup (m : BitVec 3) (he : l.endsGroup = true) : bloadNode m v = some
    { eat := [.l], outs := v.both (orderTok v.ctx ((v.node.count >>> 3) ++ 0#25 ++ m ++ 0#4))
      node := { v.node with primed := false, count := 0 }
      also := fun z => z.modShed v.d v.h fun x => x.modMacro m.toNat fun p =>
        { p with loads := if v.node.primed then p.loads - 1 else p.loads } } := by
  simp only [bloadNode, hl, he, (Token.kinds_of_endsGroup he).2.1, Bool.false_eq_true, ↓reduceIte]

theorem bloadNode_drops (m : BitVec 3) (hd : l.isData = false) (he : l.endsGroup = false) : bloadNode m v = v.drop .l := by
  simp only [bloadNode, hl, hd, he, Bool.false_eq_true, ↓reduceIte]

/-! MMA -/

/-- The scale that the elements of a row under construction have (R257, R241). -/
def View.rowScale (v : View) : Word := (v.node.latch.map (·.payload)).getD (Config.freeWord v.s.tick)

/-- The row under construction in a context for a queue. -/
def View.row (v : View) (q : Bool) : List Word × List Word := tblGet ([], []) (fifoKey q v.c) v.x.building

/-- A row with one more element, and its block's scale. -/
def View.rowWith (v : View) (q : Bool) (mf : Mf3) (w : Word) : List Word × List Word :=
  ((v.row q).1 ++ [w],
    if (mfFmt mf).isTwill && (v.row q).1.length % 16 == 0 then (v.row q).2 ++ [v.rowScale] else (v.row q).2)

theorem mmaNode_scale (q : Bool) (mf : Mf3) (hs : l.isScale = true) :
    mmaNode q mf v = some { eat := [.l], room := false, node := { v.node with latch := some l } } := by
  simp only [mmaNode, hl, hs, ↓reduceIte]

/-- A data token extends the row, which enters its FIFO when it has K elements. -/
theorem mmaNode_data {q : Bool} (mf : Mf3) (hd : l.isData = true)
    (hroom : (v.row q).1 ≠ [] ∨ (tblGet [] (fifoKey q v.c) v.x.rows).length < 2) : mmaNode q mf v = some
      { eat := [.l], room := false, node := v.node
        also := fun z => z.modShed v.d v.h fun x =>
          if (v.rowWith q mf l.payload).1.length = mfDepth mf then x.pushRow (fifoKey q v.c) (v.rowWith q mf l.payload)
          else { x with building := tblSet ([], []) (fifoKey q v.c) (v.rowWith q mf l.payload) x.building } } := by
  have hwaits : ¬((v.row q).1.isEmpty && decide (2 ≤ (tblGet [] (fifoKey q v.c) v.x.rows).length)) = true := by
    rw [Bool.and_eq_true, List.isEmpty_iff, decide_eq_true_iff, not_and_or, Nat.not_le]
    exact hroom
  rw [View.row] at hwaits
  simp only [mmaNode, hl, (Token.kinds_of_isData hd).1, hd, hwaits, Bool.false_eq_true, ↓reduceIte]
  rfl

theorem mmaNode_extends {q : Bool} (mf : Mf3) (hd : l.isData = true)
    (hroom : (v.row q).1 ≠ [] ∨ (tblGet [] (fifoKey q v.c) v.x.rows).length < 2)
    (hlen : (v.rowWith q mf l.payload).1.length ≠ mfDepth mf) : mmaNode q mf v = some
      { eat := [.l], room := false, node := v.node, also := fun z => z.modShed v.d v.h fun x =>
          { x with building := tblSet ([], []) (fifoKey q v.c) (v.rowWith q mf l.payload) x.building } } := by
  simp only [mmaNode_data hl mf hd hroom, hlen, ↓reduceIte]

theorem mmaNode_completes {q : Bool} (mf : Mf3) (hd : l.isData = true)
    (hroom : (v.row q).1 ≠ [] ∨ (tblGet [] (fifoKey q v.c) v.x.rows).length < 2)
    (hlen : (v.rowWith q mf l.payload).1.length = mfDepth mf) : mmaNode q mf v = some
      { eat := [.l], room := false, node := v.node
        also := fun z => z.modShed v.d v.h fun x => x.pushRow (fifoKey q v.c) (v.rowWith q mf l.payload) } := by
  simp only [mmaNode_data hl mf hd hroom, hlen, ↓reduceIte]

/-- A row that ends early is padded (R257). -/
theorem mmaNode_fills {q : Bool} (mf : Mf3) (he : l.endsRow = true) (hrow : (v.row q).1 ≠ []) :
    mmaNode q mf v = some
      { eat := [.l], room := false, node := v.node
        also := fun z => z.modShed v.d v.h fun x => x.pushRow (fifoKey q v.c) (fillRow mf v.rowScale (v.row q)) } := by
  obtain ⟨-, hd, hs, -⟩ := Token.kinds_of_endsRow he
  have hempty : (v.row q).1.isEmpty = false := by rwa [List.isEmpty_eq_false_iff]
  rw [View.row] at hempty
  simp only [mmaNode, hl, hs, hd, he, hempty, Bool.false_eq_true, ↓reduceIte, Bool.not_false, Bool.and_true]
  rfl

theorem mmaNode_noRow {q : Bool} (mf : Mf3) (he : l.endsRow = true) (hrow : (v.row q).1 = []) : mmaNode q mf v = v.drop .l := by
  obtain ⟨-, hd, hs, -⟩ := Token.kinds_of_endsRow he
  rw [View.row] at hrow
  simp only [mmaNode, hl, hs, hd, he, hrow, List.isEmpty_nil, Bool.false_eq_true, ↓reduceIte, Bool.not_true, Bool.and_false]

/-! ACC and LRED -/

section
variable (m : BitVec 3) (f : View → Token → MacroSt → Nat → Fired)

theorem accNode_scale (hs : l.isScale = true) : accNode m f v = v.drop .l := by
  simp only [accNode, hl, hs, ↓reduceIte]

theorem accNode_control (hc : l.isControl = true) : accNode m f v = v.forward l := by
  simp only [accNode, hl, (Token.kinds_of_isControl hc).2, hc, Bool.false_eq_true, ↓reduceIte]

theorem accNode_data (hd : l.isData = true) : accNode m f v = onRowSlot v m.toNat (tokenRow l) [.l] (f v l) := by
  obtain ⟨hs, hc⟩ := Token.kinds_of_isData hd
  simp only [accNode, hl, hs, hc, Bool.false_eq_true, ↓reduceIte]

theorem accNode_rowSlot (hd : l.isData = true) (hn : tokenRow l < v.x.rowSlots)
    (hfree : ∀ p, (v.x.macroAt m.toNat).pass = some p → ¬(p.ctx.toNat = v.c ∧ p.row = tokenRow l)) :
    accNode m f v = some (f v l (v.x.macroAt m.toNat) (v.x.accKey v.c (tokenRow l))) :=
  (accNode_data hl m f hd).trans (onRowSlot_free hn hfree ..)

end

/-! SCALE -/

theorem scaleNode_scale (hs : l.isScale = true) : scaleNode v = v.drop .l := by
  simp only [scaleNode, hl, hs, ↓reduceIte]

theorem scaleNode_control (hc : l.isControl = true) : scaleNode v = v.forward l := by
  simp only [scaleNode, hl, (Token.kinds_of_isControl hc).2, hc, Bool.false_eq_true, ↓reduceIte]

/-- The multiplication of a row-slot's columns by the factor at the right port. -/
def View.scales (v : View) (l r : Token) (y : MacroSt) (key : Nat) : Fired :=
  let g := scaleColumns (0#32 ++ r.payload.extractLsb' 0 32) key 128 y.acc 0
  { eat := [.l, .r], outs := v.both (orderTok v.ctx l.payload), node := v.node
    also := fun z => (z.modShed v.d v.h fun x =>
      x.modMacro (l.payload.extractLsb' 4 3).toNat fun p => { p with acc := g.1 }).orShedFlags v.d v.h g.2 }

theorem scaleNode_data {r : Token} (hd : l.isData = true) (hr : v.op .r = some r) (hdr : r.isData = true) :
    scaleNode v = onRowSlot v (l.payload.extractLsb' 4 3).toNat (tokenRow l) [.l, .r] (v.scales l r) := by
  obtain ⟨hs, hc⟩ := Token.kinds_of_isData hd
  have hext : (r.payload.extractLsb' 0 32).zeroExtend 64 = 0#32 ++ r.payload.extractLsb' 0 32 := zeroExtend_eq_append _
  simp only [scaleNode, hl, hs, hc, hr, hdr, hext, Bool.not_true, Bool.false_eq_true, ↓reduceIte]
  rfl

/-! RMAX -/

section
variable (fb : Bool) (f : Fmt3)

theorem rmaxNode_scale (hs : l.isScale = true) : rmaxNode fb f v = v.drop .l := by
  simp only [rmaxNode, hl, hs, ↓reduceIte]

theorem rmaxNode_plain (hp : l.isPlain = true) :
    rmaxNode fb f v = some { eat := [.l], outs := v.both l, node := v.node } := by
  simp only [rmaxNode, hl, (Token.kinds_of_isControl (Token.isPlain_iff.1 hp).1).2, hp, Bool.false_eq_true, ↓reduceIte]

/-- NODEFLT 3 for a 129th row. -/
theorem rmaxNode_full (hk : l.isData = true ∨ l.endsRow = true) (hc : 128 ≤ v.node.count.toNat) : rmaxNode fb f v
    = some { eat := [.l], room := false, node := v.node, also := fun z => z.stopItem v.d v.h v.slot 3 } := by
  obtain ⟨hs, hp⟩ : l.isScale = false ∧ l.isPlain = false := by
    obtain hd | he := hk
    · obtain ⟨hs, hc⟩ := Token.kinds_of_isData hd
      exact ⟨hs, (Token.shapes_of_not_isControl hc).1⟩
    · obtain ⟨-, -, hs, hp⟩ := Token.kinds_of_endsRow he
      exact ⟨hs, hp⟩
  simp only [rmaxNode, hl, hs, hp, hc, Bool.false_eq_true, ↓reduceIte]

theorem rmaxNode_data (hd : l.isData = true) (hc : v.node.count.toNat < 128) :
    let fm := fmt3Fmt v.fmt f
    let g := rowMax fm (tblGet (negInf fm) 128 v.node.vals) l.payload
    rmaxNode fb f v = some { eat := [.l], node := { v.node with vals := tblSet (negInf fm) 128 g.1 v.node.vals }
                             also := fun z => z.orShedFlags v.d v.h g.2 } := by
  obtain ⟨hs, hcontrol⟩ := Token.kinds_of_isData hd
  simp only [rmaxNode, hl, hs, (Token.shapes_of_not_isControl hcontrol).1, Nat.not_le.2 hc, hd, Bool.false_eq_true, ↓reduceIte]

/-- The end of a row sends the new maximum and the correction, and the end of a group the counts. -/
theorem rmaxNode_endsRow (he : l.endsRow = true) (hc : v.node.count.toNat < 128) :
    let fm := fmt3Fmt v.fmt f
    let old := tblGet (negInf fm) v.node.count.toNat v.node.vals
    let g := rowMax fm old (tblGet (negInf fm) 128 v.node.vals)
    let e := if FVal.equal (decodeFp fm.layout g.1) (decodeFp fm.layout old) then (0, 0) else fpOp fm ⟨.rne, 0⟩ .fsub old g.1
    let sent := v.node.count2 + 1
    rmaxNode fb f v = some
      { eat := [.l]
        outs := [⟨v.t, dataTok v.ctx g.1⟩] ++ (if fb then [⟨v.u, dataTok v.ctx e.1⟩] else [])
          ++ if l.endsGroup then
              [⟨v.t, shapeTok v.ctx l.code sent⟩, ⟨v.u, shapeTok v.ctx l.code (if fb then sent else 0)⟩] else []
        node := { v.node with
          vals := if l.isEos then [] else tblDel 128 (tblSet (negInf fm) v.node.count.toNat g.1 v.node.vals)
          count := if l.endsGroup then 0 else v.node.count + 1, count2 := if l.endsGroup then 0 else sent }
        also := fun z => z.orShedFlags v.d v.h (g.2 ||| if fb then e.2 else 0) } := by
  obtain ⟨-, hd, hs, hp⟩ := Token.kinds_of_endsRow he
  simp only [rmaxNode, hl, hs, hp, Nat.not_le.2 hc, hd, Bool.false_eq_true, ↓reduceIte]

end
end

/-- The turn of ACC and LRED is that of an accumulator node. -/
theorem exec_accumulator {m : BitVec 3} {t u : Target} {i : Instr}
    (hi : i ∈ [.accRd m t u, .accRdclr m t u, .accClr m t u, .lredSum m t u, .lredMax m t u, .lredMin m t u]) :
    ∃ f, ∀ s : State, exec i s = .next (s.fire t u (accNode m f)) := by
  simp only [List.mem_cons, List.not_mem_nil, or_false] at hi
  obtain rfl | rfl | rfl | rfl | rfl | rfl := hi <;> exact ⟨_, fun _ => rfl⟩

end

/-- Settles O41: by the left token; a data token of an accumulator node by its row-slot. -/
theorem macroNodes : Obligations.MacroNodes := by
  unfold Obligations.MacroNodes
  intro s t u v l r q fb mf m f hturn hl
  obtain ⟨rfl, rfl⟩ := turn_targets hturn
  intro st d h both y cur key row full scale scales slot acc free cols red ends eats stops accs clears
  refine ⟨fun hd => ?data, ?rmax, fun he => hturn.fires rfl (bloadNode_endsGroup hl m he), fun hk => ?bloadDrops,
    fun hs => ⟨hturn.fires rfl (mmaNode_scale hl q mf hs), fun i hi => ?scaleToken⟩,
    fun he => ⟨fun hrow => hturn.fires rfl (mmaNode_fills hl mf he hrow),
      fun hrow => hturn.fires rfl (mmaNode_noRow hl mf he hrow)⟩, fun hc hr i hi => ?control⟩
  case data =>
    refine ⟨fun hc => hturn.fires rfl (bloadNode_full hl m hd hc), fun hc hp => hturn.fires rfl (bloadNode_writes hl hd hc hp),
      fun hroom => ⟨fun hlen => hturn.fires rfl (mmaNode_extends hl mf hd hroom hlen),
        fun hlen => hturn.fires rfl (mmaNode_completes hl mf hd hroom hlen)⟩,
      fun hn i hi => ?_, fun hn hfree => ?_, fun hr hdr => ?_⟩
    · obtain ⟨f, hi⟩ := exec_accumulator hi
      exact hturn.fires (hi s) ((accNode_data hl m f hd).trans (onRowSlot_beyond hn ..))
    · have onSlot (f) := accNode_rowSlot hl m f hd hn hfree
      refine ⟨hturn.fires rfl (onSlot _), fun ht => ?_, fun ht => ?_, hturn.fires rfl (onSlot _), hturn.fires rfl (onSlot _),
        hturn.fires rfl (onSlot _)⟩
      · have hread (clear : Bool) := (onSlot fun v _ => accRead clear m.toNat v).trans
          (congrArg some (accRead_words clear m.toNat y acc ht))
        exact ⟨hturn.fires rfl (hread false), hturn.fires rfl (hread true), fun hf => View.columnToks_fp32 hf ..⟩
      · have hread (clear : Bool) := (onSlot fun v _ => accRead clear m.toNat v).trans
          (congrArg some (accRead_blocks clear m.toNat y acc ht))
        exact ⟨hturn.fires rfl (hread false), hturn.fires rfl (hread true)⟩
    · have hb := scaleNode_data hl hd hr hdr
      exact ⟨fun hn => hturn.fires rfl (hb.trans (onRowSlot_beyond hn ..)),
        fun hn hfree => hturn.fires rfl (hb.trans (onRowSlot_free hn hfree ..))⟩
  case rmax =>
    exact ⟨fun hk hc => hturn.fires rfl (rmaxNode_full hl fb f hk hc), fun hd hc => hturn.fires rfl (rmaxNode_data hl fb f hd hc),
      fun he hc => hturn.fires rfl (rmaxNode_endsRow hl fb f he hc), fun hp => hturn.fires rfl (rmaxNode_plain hl fb f hp)⟩
  case bloadDrops =>
    obtain ⟨hd, he⟩ : l.isData = false ∧ l.endsGroup = false := by
      obtain he | hs := hk
      · exact ⟨(Token.kinds_of_endsRow (Token.endsRow_of_isEor he)).2.1, Token.endsGroup_of_isEor he⟩
      · obtain ⟨hd, hc⟩ := Token.kinds_of_isScale hs
        exact ⟨hd, Token.endsGroup_of_not_isControl hc⟩
    exact hturn.fires rfl (bloadNode_drops hl m hd he)
  case scaleToken =>
    obtain rfl | rfl | hi := List.mem_cons.1 hi |>.imp_right List.mem_cons.1
    · exact hturn.fires rfl (scaleNode_scale hl hs)
    · exact hturn.fires rfl (rmaxNode_scale hl fb f hs)
    · obtain ⟨f, hi⟩ := exec_accumulator hi
      exact hturn.fires (hi s) (accNode_scale hl m f hs)
  case control =>
    obtain rfl | hi := List.mem_cons.1 hi
    · exact hturn.fires rfl ((scaleNode_control hl hc).trans (View.forward_alone hr l))
    · obtain ⟨f, hi⟩ := exec_accumulator hi
      exact hturn.fires (hi s) ((accNode_control hl m f hc).trans (View.forward_alone hr l))

end Sys2Proof.Machine
end

section
/-!
SUPPORT. The gate path (08 R268, R270 to R272; 10 R317, R327, R331, R332; 02 R77): what DELAY and EXPLK fire, and the events that go
with them.
-/

namespace Sys2Proof.Machine

theorem scoreOf_eq (l : Token) : scoreOf l = 0#32 ++ l.payload.extractLsb' 0 32 := zeroExtend_eq_append _

/-! Version tokens and row headers -/

section
variable {l : Token}

theorem Token.isVersion_iff : l.isVersion = true ↔ l.isPlain = true ∧ l.payload.extractLsb' 4 4 = 2 := by
  rw [Token.isVersion, Bool.and_eq_true, beq_iff_eq]

theorem Token.isHeader_iff : l.isHeader = true ↔ l.isPlain = true ∧ l.payload.extractLsb' 4 4 = 1 := by
  rw [Token.isHeader, Bool.and_eq_true, beq_iff_eq]

theorem Token.kinds_of_not_isPlain (h : l.isPlain = false) : l.isVersion = false ∧ l.isHeader = false := by
  simp only [Token.isVersion, Token.isHeader, h, Bool.false_and, and_self]

/-- A row header is no version token. -/
theorem Token.isVersion_of_isHeader (h : l.isHeader = true) : l.isVersion = false := by
  rw [Token.isVersion, (Token.isHeader_iff.1 h).2]
  exact Bool.and_false _

end

section
variable {v : View} {l : Token}

/-! DELAY (R268) -/

section
variable (hl : v.op .l = some l) (k : BitVec 6)
include hl

/-- NODEFLT 4 for a 257th token of a row. -/
theorem delayNode_full (hd : l.isData = true) (hn : 256 ≤ v.node.toks.length) : delayNode k v
    = some { eat := [.l], room := false, node := v.node, also := fun z => z.stopItem v.d v.h v.slot 4 } := by
  simp only [delayNode, hl, hd, (Token.kinds_of_isData hd).1, hn, Bool.false_eq_true, ↓reduceIte]

theorem delayNode_tags (hd : l.isData = true) (hn : v.node.toks.length < 256) :
    let score := 0#32 ++ l.payload.extractLsb' 0 32
    let tag := BitVec.ofNat 8 (delayOf (v.x.const k.toNat) score)
    delayNode k v = some
      { eat := [.l], room := false
        also := fun z => z.orShedFlags v.d v.h (flagIf (decodeFp Fmt.fp32.layout score).isNan flagNV)
        node := { v.node with toks := gateInsert { l with payload := setTag l.payload tag } v.node.toks } } := by
  simp only [delayNode, hl, hd, (Token.kinds_of_isData hd).1, Nat.not_le.2 hn, Bool.false_eq_true, ↓reduceIte, scoreOf_eq]

theorem delayNode_endsRow (he : l.endsRow = true) :
    let row := v.node.toks.map fun y => (v.s.aclk + (0#56 ++ y.payload.extractLsb' 48 8), y)
    delayNode k v = some
      { eat := [.l], room := false, also := fun z => z.orShedFlags v.d v.h 0
        node := { v.node with toks := [], late := v.node.late ++ row ++ [(v.s.aclk, l)] } } := by
  obtain ⟨-, hd, hs, -⟩ := Token.kinds_of_endsRow he
  have hext (y : Token) : (y.payload.extractLsb' 48 8).zeroExtend 64 = 0#56 ++ y.payload.extractLsb' 48 8 :=
    zeroExtend_eq_append _
  simp only [delayNode, hl, hd, hs, he, Bool.false_eq_true, ↓reduceIte, hext]

end

/-! EXPLK in route mode (R271, R327) -/

/-- The version by which a group is routed: the one that it has pinned, or pins now. -/
def View.groupVersion (v : View) : BitVec 16 := if v.node.primed then (tblGet 0 0 v.node.vals).extractLsb' 0 16 else v.pinned

/-- The dies that hold a replica of the expert that a gate token names. -/
def View.replicas (v : View) (l : Token) : List Die :=
  replicaDies ((v.s.die v.d).versionEntry v.groupVersion (l.payload.extractLsb' 32 12))

/-- The version token that goes before a group's first data token. -/
def View.groupStart (v : View) : List OutTok :=
  if v.node.primed then [] else v.both { versionTok v.ctx v.groupVersion v.d with held := true }

/-- The node behind a data token of a group. -/
def View.groupNode (v : View) : NodeSt :=
  { v.node with primed := true, vals := tblSet 0 0 (0#48 ++ v.groupVersion) [], count := v.node.count + 1 }

/-- The copies of the version token are counted where it is emitted. -/
def View.pinGroup (v : View) (z : State) : State := if v.node.primed then z else v.holdCopies v.groupVersion z

theorem explkRoute_endsGroup (he : l.endsGroup = true) : explkRoute v l
    = some { eat := [.l], outs := v.both l, node := { v.node with primed := false, count := 0 } } := by
  simp only [explkRoute, (Token.kinds_of_endsGroup he).2.2.1, he, Bool.false_eq_true, ↓reduceIte]

section
variable (hd : l.isData = true)
include hd

/-- The data token goes to the replica that the index in the group picks. -/
theorem explkRoute_replica {die : Die} (hrep : (v.replicas l)[v.node.count.toNat % (v.replicas l).length]? = some die) :
    explkRoute v l = some
      { eat := [.l], outs := v.groupStart ++ v.both { l with payload := setGateDie l.payload die }
        node := v.groupNode, also := v.pinGroup } := by
  obtain ⟨hs, hc⟩ := Token.kinds_of_isData hd
  have hext : v.groupVersion.zeroExtend 64 = 0#48 ++ v.groupVersion := zeroExtend_eq_append _
  rw [View.groupNode, ← hext]
  rw [View.replicas, View.groupVersion] at hrep
  simp only [explkRoute, hs, hc, Token.endsGroup_of_not_isControl hc, Bool.false_eq_true, ↓reduceIte, hrep]
  rfl

/-- An expert without a replica is counted (10 R317). -/
theorem explkRoute_lost (hrep : v.replicas l = []) : explkRoute v l = some
    { eat := [.l], outs := v.groupStart, node := v.groupNode
      also := fun z => (v.pinGroup z).countNotify v.d (.shed v.h) 0x48 } := by
  obtain ⟨hs, hc⟩ := Token.kinds_of_isData hd
  have hext : v.groupVersion.zeroExtend 64 = 0#48 ++ v.groupVersion := zeroExtend_eq_append _
  rw [View.groupNode, ← hext]
  rw [View.replicas, View.groupVersion] at hrep
  simp only [explkRoute, hs, hc, Token.endsGroup_of_not_isControl hc, Bool.false_eq_true, ↓reduceIte, hrep, List.getElem?_nil]
  rfl

end

/-! EXPLK in resident mode (R272, R332) -/

section
variable {fillq : HqNo} (ht : v.node.toks = [])
include ht

theorem explkResident_data (hd : l.isData = true) :
    explkResident fillq v l = some { eat := [.l], outs := rowSide v l, node := v.node } := by
  obtain ⟨hs, hc⟩ := Token.kinds_of_isData hd
  obtain ⟨hv, hh⟩ := Token.kinds_of_not_isPlain (Token.shapes_of_not_isControl hc).1
  simp only [explkResident, ht, hs, hv, hh, hd, List.isEmpty_nil, Bool.not_true, Bool.true_or, Bool.false_eq_true, ↓reduceIte]

theorem explkResident_header (hh : l.isHeader = true) : explkResident fillq v l = explkHeader fillq v l := by
  have hs := (Token.kinds_of_isControl (Token.isPlain_iff.1 (Token.isHeader_iff.1 hh).1).1).2
  simp only [explkResident, ht, hs, Token.isVersion_of_isHeader hh, hh, List.isEmpty_nil, Bool.not_true, Bool.false_eq_true,
    ↓reduceIte]

end

theorem rowSide_left (h : tblGet 0 0 v.node.vals = 0) (l : Token) : rowSide v l = [⟨v.t, l⟩] := by
  simp only [rowSide, h]
  rfl

theorem rowSide_right (h : tblGet 0 0 v.node.vals = 1) (l : Token) : rowSide v l = [⟨v.u, l⟩] := by
  simp only [rowSide, h]
  rfl

/-- The row of the resident expert goes on. -/
theorem explkHeader_resident (fillq : HqNo) (h : v.node.latch.map (·.payload) = some (0#52 ++ l.headerExpert)) :
    explkHeader fillq v l = some
      { eat := [.l], outs := [⟨v.t, l⟩], node := { v.node with vals := tblSet 0 0 0 v.node.vals }
        also := fun z => z.countRow v.d l.headerExpert } := by
  have hext : l.headerExpert.zeroExtend 64 = 0#52 ++ l.headerExpert := zeroExtend_eq_append _
  simp only [explkHeader, h, hext, beq_self_eq_true, ↓reduceIte]

/-- An expert of this die that is not resident asks for a fill, and its context misses. -/
theorem explkHeader_fills {fillq : HqNo} (h : v.node.latch.map (·.payload) ≠ some (0#52 ++ l.headerExpert))
    (hrep : (replicaDies ((v.s.die v.d).curEntry l.headerExpert)).contains v.d = true) (hroom : v.s.hqRoom v.d fillq = true) :
    explkHeader fillq v l = some
      { eat := [.l], room := false, node := { v.node with toks := [l] }
        also := fun z => (z.hqPush v.d fillq (0#41 ++ v.h ++ v.ctx ++ l.headerExpert)).setCtx v.d v.x.loom v.c .miss } := by
  have hext : l.headerExpert.zeroExtend 64 = 0#52 ++ l.headerExpert := zeroExtend_eq_append _
  simp only [explkHeader, hext, beq_false_of_ne h, hrep, hroom, Bool.not_true, Bool.false_eq_true, ↓reduceIte,
    BitVec.zeroExtend, BitVec.setWidth_eq]

/-! The mode of EXPLK (Table 8-5) -/

section
variable {k : BitVec 6} (hl : v.op .l = some l)
include hl

theorem explkNode_route (hw : (v.x.const k.toNat).getLsbD 0 = false) : explkNode k v = explkRoute v l := by
  simp only [explkNode, hl, hw, Bool.false_eq_true, ↓reduceIte]

theorem explkNode_resident (hw : (v.x.const k.toNat).getLsbD 0 = true) :
    explkNode k v = explkResident ((v.x.const k.toNat).extractLsb' 1 12) v l := by
  simp only [explkNode, hl, hw, ↓reduceIte]

end
end

/-! Events -/

section
variable {s : State}

section
variable {time : Word} {k : Token} {rest : List (Word × Token)} {t u : Target}

/-- The state in which DELAY_EMIT looks for a token, after the node has delivered what it can. -/
def State.delayPumped (s : State) : State := s.pump s.ev.die s.ev.shed s.ev.unit

/-- The shed of the DELAY node. -/
def State.delayShed (s : State) : ShedSt := s.delayPumped.shed s.ev.die s.ev.shed

variable (hf : s.delayShed.fires = true) (hs : s.delayShed.stopped s.ev.unit = false) (ho : s.delayShed.out s.ev.unit = [])
  (hlate : (tblGet {} (nodeIx s.ev.unit s.ev.ctx.toNat) s.delayShed.nodes : NodeSt).late = (time, k) :: rest)
  (ht : wordTargets (tblGet 0 s.ev.unit s.delayShed.words) = [t, u])
include hf hs ho hlate ht

/-- A token whose time has come leaves where both targets have room. -/
theorem execDelayEmit_leaves (hrt : s.delayShed.targetRoom t s.ev.ctx.toNat = true)
    (hru : s.delayShed.targetRoom u s.ev.ctx.toNat = true) (htime : time.toNat ≤ s.delayPumped.aclk.toNat) :
    exec .delayEmit s = .next ((s.delayPumped.setShed s.ev.die s.ev.shed (s.delayShed.setNode s.ev.unit s.ev.ctx.toNat
      { (tblGet {} (nodeIx s.ev.unit s.ev.ctx.toNat) s.delayShed.nodes : NodeSt) with late := rest })).emit s.ev.die s.ev.shed
        s.ev.unit [⟨t, k⟩, ⟨u, k⟩]) := by
  have hult : s.delayPumped.aclk.ult time = false := by simpa [BitVec.ult] using htime
  unfold State.delayShed State.delayPumped at *
  change execDelayEmit s = _
  simp only [execDelayEmit, hf, hs, ho, hlate, ht, hult, hrt, hru, List.isEmpty_nil, Bool.not_true, Bool.and_self, Bool.or_self,
    Bool.false_eq_true, ↓reduceIte]

theorem execDelayEmit_early (htime : s.delayPumped.aclk.toNat < time.toNat) : exec .delayEmit s = .next s.delayPumped := by
  have hult : s.delayPumped.aclk.ult time = true := by simpa [BitVec.ult] using htime
  unfold State.delayShed State.delayPumped at *
  change execDelayEmit s = _
  simp only [execDelayEmit, hf, hs, ho, hlate, ht, hult, List.isEmpty_nil, Bool.not_true, Bool.true_or, Bool.or_self,
    Bool.false_eq_true, ↓reduceIte]

end

section
variable {d : Die} {h : ShedNo} {tag : Word} {status : Byte} (hp : s.packet s.ev.id = some (.fillDone d h tag status))
include hp

/-- The fill's expert is resident, its context ACTIVE, and the header that waited goes on. -/
theorem execContextFillComplete_resumes {slot : Nat} {l : Token} {t : Target} {us : List Target}
    (hm : (s.shed d h).missing (tag.extractLsb' 12 2).toNat (tag.extractLsb' 0 12) = some (slot, l))
    (ht : wordTargets (tblGet 0 slot (s.shed d h).words) = t :: us) :
    let x := s.shed d h
    let c : BitVec 2 := tag.extractLsb' 12 2
    let e : BitVec 12 := tag.extractLsb' 0 12
    let st : NodeSt := tblGet {} (nodeIx slot c.toNat) x.nodes
    exec .contextFillComplete s = .next (((((s.dropPacket s.ev.id).setShed d h (x.setNode slot c.toNat
      { st with latch := some (dataTok c (0#52 ++ e)), toks := [], vals := tblSet 0 0 0 st.vals })).setCtx d x.loom c.toNat
        .active).countRow d e).emit d h slot [⟨t, l⟩]) := by
  have hext : (tag.extractLsb' 0 12).zeroExtend 64 = 0#52 ++ tag.extractLsb' 0 12 := zeroExtend_eq_append _
  change execContextFillComplete s = _
  simp only [execContextFillComplete, hp, State.dropPacket_shed, hm, ht, hext]

theorem execContextFillComplete_unawaited
    (hm : (s.shed d h).missing (tag.extractLsb' 12 2).toNat (tag.extractLsb' 0 12) = none) :
    exec .contextFillComplete s = .next (s.dropPacket s.ev.id) := by
  change execContextFillComplete s = _
  simp only [execContextFillComplete, hp, State.dropPacket_shed, hm]

end
end

/-- Settles O43: DELAY and the two modes of EXPLK by their left token, then the two events. -/
theorem gatePathNodes : Obligations.GatePathNodes := by
  unfold Obligations.GatePathNodes
  refine ⟨?nodes, ?delayEmit, ?fill⟩
  case nodes =>
    intro s t u v l k die hturn hl
    obtain ⟨rfl, rfl⟩ := turn_targets hturn
    intro st w now x e noted ver reps both version held
    refine ⟨fun hd hn => hturn.fires rfl (delayNode_full hl k hd hn), fun hd hn => hturn.fires rfl (delayNode_tags hl k hd hn),
      fun he => hturn.fires rfl (delayNode_endsRow hl k he), fun hw => ?route, fun hw ht => ?resident⟩
    case route =>
      have hb := explkNode_route hl hw
      exact ⟨fun he => hturn.fires rfl (hb.trans (explkRoute_endsGroup he)),
        fun hd hrep => hturn.fires rfl (hb.trans (explkRoute_replica hd hrep)),
        fun hd hrep => hturn.fires rfl (hb.trans (explkRoute_lost hd hrep))⟩
    case resident =>
      have hb := explkNode_resident hl hw
      refine ⟨fun hd => ?_, fun hh => ?_⟩
      · have hb := hb.trans (explkResident_data ht hd)
        exact ⟨fun hside => hturn.fires rfl (rowSide_left hside l ▸ hb),
          fun hside => hturn.fires rfl (rowSide_right hside l ▸ hb)⟩
      · have hb := hb.trans (explkResident_header ht hh)
        exact ⟨fun hres => hturn.fires rfl (hb.trans (explkHeader_resident _ hres)),
          fun hres hrep hroom => hturn.fires rfl (hb.trans (explkHeader_fills hres hrep hroom))⟩
  case delayEmit =>
    intro s time k rest t u d h n c p x st hf hs ho hlate ht hrt hru
    exact ⟨execDelayEmit_leaves hf hs ho hlate ht hrt hru, execDelayEmit_early hf hs ho hlate ht⟩
  case fill =>
    intro s d h tag status slot l t us x c e st hp
    exact ⟨execContextFillComplete_resumes hp, execContextFillComplete_unawaited hp⟩

end Sys2Proof.Machine
end

section
/-!
SUPPORT. Frames (08 R273 to R275; 10 R318, R328; 16 R432): what FRAME and UNFRAME fire, and the events on a frame's way.
-/

namespace Sys2Proof.Machine

section
variable {v : View} {l : Token}

/-! FRAME (R274) -/

section
variable (hl : v.op .l = some l) (k : BitVec 6)
include hl

/-- A version token: the hold of the one before ends. -/
theorem frameNode_version (hv : l.isVersion = true) : frameNode k v = some
    { eat := [.l], room := false, also := v.endHold
      node := { v.node with primed := l.held, vals := tblSet 0 0 ((0#48 ++ l.version) + 1) v.node.vals } } := by
  have hs := (Token.kinds_of_isControl (Token.isPlain_iff.1 (Token.isVersion_iff.1 hv).1).1).2
  have hext : l.version.zeroExtend 64 = 0#48 ++ l.version := zeroExtend_eq_append _
  simp only [frameNode, hl, hs, hv, hext, Bool.false_eq_true, ↓reduceIte]

/-- A data token joins the row whose header it follows, while the row is not complete. -/
theorem frameNode_data (hd : l.isData = true) (ht : v.node.toks ≠ [])
    (hn : v.node.toks.length ≤ (v.x.frameCfg k).rowlen) : frameNode k v
    = some { eat := [.l], room := false, node := { v.node with toks := v.node.toks ++ [l] } } := by
  obtain ⟨hs, hc⟩ := Token.kinds_of_isData hd
  obtain ⟨hv, hh⟩ := Token.kinds_of_not_isPlain (Token.shapes_of_not_isControl hc).1
  simp only [frameNode, hl, hs, hv, hh, hd, List.isEmpty_eq_false_iff.2 ht, Nat.not_lt.2 hn, decide_false, Bool.or_self,
    Bool.false_eq_true, ↓reduceIte]

/-- The end of a row places it. -/
theorem frameNode_eor (he : l.isEor = true) : frameNode k v = some
    { eat := [.l], room := false, node := { v.node with toks := [] }, also := v.endRow (v.x.frameCfg k) } := by
  obtain ⟨-, hd, hs, hp⟩ := Token.kinds_of_endsRow (Token.endsRow_of_isEor he)
  obtain ⟨hv, hh⟩ := Token.kinds_of_not_isPlain hp
  simp only [frameNode, hl, hs, hv, hh, hd, he, Bool.false_eq_true, ↓reduceIte]

end

/-! UNFRAME (R275, R432) -/

section
variable {f : Frame} (hc : v.c = 0) (hf : v.x.frameFor v.slot = some f) (k : BitVec 6)
include hc hf

/-- A frame of the node's format and row length is produced once. -/
theorem unframeNode_produces (hp : v.node.primed = false) (hfmt : f.num 4 1 = (v.x.frameCfg k).fmt.toNat)
    (hlen : f.num 6 2 = (v.x.frameCfg k).rowlen) :
    let r := unframeTokens v (v.x.frameCfg k) f
    unframeNode k v = some { eat := [], outs := r.1, node := { v.node with primed := true }, also := v.mark r.2.1 r.2.2 } := by
  simp only [unframeNode, hc, hf, hp, hfmt, hlen, bne_self_eq_false, Bool.or_self, Bool.false_eq_true, ↓reduceIte]

theorem unframeNode_frees (hp : v.node.primed = true) : unframeNode k v = some
    { eat := [], room := false, node := { v.node with primed := false }, also := fun z => z.freeFrame v.d v.h f } := by
  simp only [unframeNode, hc, hf, hp, bne_self_eq_false, Bool.true_or, Bool.false_eq_true, ↓reduceIte]

/-- A frame of another format or row length is dropped and counted. -/
theorem unframeNode_drops (hp : v.node.primed = false)
    (hne : f.num 4 1 ≠ (v.x.frameCfg k).fmt.toNat ∨ f.num 6 2 ≠ (v.x.frameCfg k).rowlen) : unframeNode k v = some
    { eat := [], room := false, node := { v.node with primed := false }
      also := fun z => (z.countNotify v.d (.shed v.h) 0x4b).freeFrame v.d v.h f } := by
  have hother : (f.num 4 1 != (v.x.frameCfg k).fmt.toNat || f.num 6 2 != (v.x.frameCfg k).rowlen) = true := by
    rwa [Bool.or_eq_true, bne_iff_ne, bne_iff_ne]
  simp only [unframeNode, hc, hf, hp, hother, bne_self_eq_false, Bool.false_or, Bool.false_eq_true, ↓reduceIte]

end
end

/-! The way of a frame -/

section
variable {s : State}

/-! The fill timer -/

theorem execFrameTimerExpiry_noNode (hn : (s.shed s.ev.die s.ev.shed).frameNode = none) : exec .frameTimerExpiry s = .next s := by
  change execFrameTimerExpiry s = _
  simp only [execFrameTimerExpiry, hn]

/-- The open frames whose timer has expired close, but for one whose row is under construction. -/
theorem execFrameTimerExpiry_closes {slot : Nat} {k : BitVec 6} (hn : (s.shed s.ev.die s.ev.shed).frameNode = some (slot, k))
    (hs : (s.shed s.ev.die s.ev.shed).stopped slot = false) (hf : (s.shed s.ev.die s.ev.shed).failed = false) :
    let x := s.shed s.ev.die s.ev.shed
    let g := x.frameCfg k
    exec .frameTimerExpiry s = .next ((x.opened.filter fun o =>
      g.expired o (s.rowClock s.ev.die (rowOfShed s.ev.shed)) && !x.inRow slot o.dest).foldl
        (fun z o => z.closeFrame s.ev.die s.ev.shed g o.dest) s) := by
  change execFrameTimerExpiry s = _
  simp only [execFrameTimerExpiry, hn, hs, hf, Bool.or_self, Bool.false_eq_true, ↓reduceIte]

/-! Sending (R274, R432) -/

/-- The closed frame that leaves next: the first with a credit and a route. -/
def State.frameGoing (s : State) : Option Frame :=
  (s.shed s.ev.die s.ev.shed).closed.find? fun o =>
    decide (s.framesOut o < 8) && (s.frameLeads s.ev.die s.ev.shed o.dst).passes

/-- A frame leaves the shed, and its copy stays. -/
def State.sendFrame (s : State) (d : Die) (h : ShedNo) (f : Frame) : State :=
  ((s.modShed d h fun y => { y with closed := y.closed.erase f }).modDie d fun y =>
    { y with framesKept := y.framesKept ++ [f] }).send (.frame f)

section
variable {f : Frame} (hg : s.frameGoing = some f)
include hg

theorem execFrameSend_arrives (hl : s.frameLeads s.ev.die s.ev.shed f.dst = .arrives) :
    exec .frameSend s = .next (s.sendFrame s.ev.die s.ev.shed f) := by
  have hg : ((s.shed s.ev.die s.ev.shed).closed.find? fun o => decide (s.framesOut o < frameBuffers)
    && (s.frameLeads s.ev.die s.ev.shed o.dst).passes) = _ := hg
  change execFrameSend s = _
  simp only [execFrameSend, hg, hl]
  rfl

theorem execFrameSend_detours {src : Die} {n : Nat} (hl : s.frameLeads s.ev.die s.ev.shed f.dst = .detours src n) :
    exec .frameSend s
      = .next ((s.count src (.link (BitVec.ofNat 2 n)) 0x51).sendFrame s.ev.die s.ev.shed f) := by
  have hg : ((s.shed s.ev.die s.ev.shed).closed.find? fun o => decide (s.framesOut o < frameBuffers)
    && (s.frameLeads s.ev.die s.ev.shed o.dst).passes) = _ := hg
  change execFrameSend s = _
  simp only [execFrameSend, hg, hl]
  rfl

end

theorem execFrameSend_none (hg : s.frameGoing = none) : exec .frameSend s = .next s := by
  have hg : ((s.shed s.ev.die s.ev.shed).closed.find? fun o => decide (s.framesOut o < frameBuffers)
    && (s.frameLeads s.ev.die s.ev.shed o.dst).passes) = _ := hg
  change execFrameSend s = _
  simp only [execFrameSend, hg]

/-! Arrival (R275, R432) -/

section
variable {f : Frame} (hp : s.packet s.ev.id = some (.frame f)) (hb : s.frameBehind s.ev.id f = false)
include hp hb

/-- A frame whose SEQ was seen is counted, and its buffer returned. -/
theorem execFrameArrival_seen (hseen : (tblGet [] f.src.toNat (s.die f.dst).frameSeen).contains f.seq = true) :
    exec .frameArrival s = .next (((s.dropPacket s.ev.id).count f.dst (.shed f.shed) 0x4b).returnFrame f) := by
  change execFrameArrival s = _
  simp only [execFrameArrival, hp, hb, State.dropPacket_die, hseen, Bool.false_eq_true, ↓reduceIte]

theorem execFrameArrival_enters (hseen : (tblGet [] f.src.toNat (s.die f.dst).frameSeen).contains f.seq = false) :
    let seen := tblGet [] f.src.toNat (s.die f.dst).frameSeen
    exec .frameArrival s = .next (((s.dropPacket s.ev.id).modDie f.dst fun y =>
      { y with frameSeen := tblSet [] f.src.toNat ((f.seq :: seen).take 256) y.frameSeen }).modShed f.dst f.shed fun y =>
        { y with frames := y.frames ++ [f] }) := by
  change execFrameArrival s = _
  simp only [execFrameArrival, hp, hb, State.dropPacket_die, hseen, Bool.false_eq_true, ↓reduceIte]

end

/-- The returned credit frees the copy. -/
theorem execFrameCreditReturn_frees {src dst : Die} {h : ShedNo} {seq : BitVec 32}
    (hp : s.packet s.ev.id = some (.frameCredit src dst h seq)) :
    exec .frameCreditReturn s = .next ((s.dropPacket s.ev.id).modDie src fun y =>
      { y with framesKept := y.framesKept.filter fun o => !(o.dst == dst && o.shed == h && o.seq == seq) }) := by
  change execFrameCreditReturn s = _
  simp only [execFrameCreditReturn, hp]

end

/-- Settles O44: FRAME and UNFRAME, then the events in the order of a frame's way. -/
theorem framesTravel : Obligations.FramesTravel := by
  unfold Obligations.FramesTravel
  refine ⟨?nodes, ?events⟩
  case nodes =>
    intro s t u v l k f hturn st g
    exact ⟨fun hl => ⟨fun hv => hturn.fires rfl (frameNode_version hl k hv),
        fun hd ht hn => hturn.fires rfl (frameNode_data hl k hd ht hn), fun he => hturn.fires rfl (frameNode_eor hl k he)⟩,
      fun hc hf => ⟨fun hp hfmt hlen => hturn.fires rfl (unframeNode_produces hc hf k hp hfmt hlen),
        fun hp => hturn.fires rfl (unframeNode_frees hc hf k hp),
        fun hp hne => hturn.fires rfl (unframeNode_drops hc hf k hp hne)⟩⟩
  case events =>
    intro s f slot k src dst h seq d x seen
    exact ⟨execFrameTimerExpiry_noNode, execFrameTimerExpiry_closes,
      ⟨execFrameSend_arrives, fun hg hl => execFrameSend_detours hg hl, execFrameSend_none⟩,
      fun hp hb => ⟨execFrameArrival_seen hp hb, execFrameArrival_enters hp hb⟩, execFrameCreditReturn_frees⟩

end Sys2Proof.Machine
end

section
/-!
SUPPORT. Replies and escapes (02 R75; 08 R265, R266; 09 R288; 14 R379; 16 R413): REPLY by the thread's role, what an ESC node fires,
the start of an escape thread and the arrival of its reply.
-/

namespace Sys2Proof.Machine

/-! REPLY (R266, R288) -/

theorem State.modSlot_congr (s : State) {i : SlotId} {f g : SlotSt → SlotSt} (h : f (s.slot i) = g (s.slot i)) :
    s.modSlot i f = s.modSlot i g := congrArg (s.setSlot i) h

/-- The effects of a REPLY leave the slots alone. -/
theorem State.replyEffects_slot (s : State) (i : SlotId) (r : Role) (w : Word) (j : SlotId) :
    (s.replyEffects i r w).slot j = s.slot j := by
  cases r <;> rfl

theorem State.replyEffects_cur (s : State) (i : SlotId) (r : Role) (w : Word) : (s.replyEffects i r w).cur = s.cur := by
  cases r <;> rfl

/-- The state behind a REPLY that sends its value: the role is answered, and the instruction complete. -/
def State.replied (s : State) (w : Word) : State :=
  ((s.replyEffects s.cur (s.slot s.cur).role w).modSlot s.cur fun y => { y with role := y.role.answered }).advance

section
variable {s : State} {a : Reg}

theorem State.replied_slot (w : Word) : ((s.replied w).slot s.cur).role = (s.slot s.cur).role.answered
    ∧ ((s.replied w).slot s.cur).pc = (s.slot s.cur).pc + 4 := by
  have hslot := State.advance_slot ((s.replyEffects s.cur (s.slot s.cur).role w).modSlot s.cur
    fun y => { y with role := y.role.answered })
  rw [State.modSlot_cur, State.replyEffects_cur] at hslot
  rw [State.replied, hslot, State.modSlot_self, State.replyEffects_slot]
  exact ⟨rfl, rfl⟩

theorem State.replied_ne (w : Word) {j : SlotId} (h : j ≠ s.cur) : (s.replied w).slot j = s.slot j := by
  have hcur : j ≠ ((s.replyEffects s.cur (s.slot s.cur).role w).modSlot s.cur
      fun y => { y with role := y.role.answered }).cur := by rwa [State.modSlot_cur, State.replyEffects_cur]
  rw [State.replied, State.advance_ne _ hcur, State.modSlot_ne _ h, State.replyEffects_slot]

variable (hp : s.plain [a] [] = true)
include hp

theorem execReply_plain (hr : (s.slot s.cur).role = .plain) :
    exec (.reply a) s = .next (s.takeTrap s.cur 0x0b 0 (s.slot s.cur).pc s.word (s.reg s.cur a) 0) := by
  change execReply a s = _
  rw [execReply, s.issue_plain hp]
  simp only [hr]
  rfl

/-- A second REPLY traps. -/
theorem execReply_again {d : Die} {h : ShedNo} {n : BitVec 6} {k : BitVec 32} {c : Word}
    (hr : (s.slot s.cur).role = .escape d h n k true ∨ (s.slot s.cur).role = .responder c true) :
    exec (.reply a) s = .next (s.takeTrap s.cur 0x0b 1 (s.slot s.cur).pc s.word (s.reg s.cur a) 0) := by
  change execReply a s = _
  rw [execReply, s.issue_plain hp]
  obtain hr | hr := hr <;> simp only [hr, ↓reduceIte] <;> rfl

/-- The reply of an escape whose node emits without order leaves at once. -/
theorem execReply_escape {d : Die} {h : ShedNo} {n : BitVec 6} {k : BitVec 32}
    (hr : (s.slot s.cur).role = .escape d h n k false) (hset : s.settled s.cur = true) (hsaved : s.escSaved d h n k = false)
    (hord : s.escOrdered d h n = false) (hj : s.journaled = false) :
    exec (.reply a) s = .next (s.replied (s.reg s.cur a)) := by
  change execReply a s = _
  rw [execReply, s.issue_plain hp]
  simp only [hr, hset, hsaved, hord, hj, Bool.not_true, Bool.or_self, Bool.false_and, Bool.false_eq_true, ↓reduceIte]
  rw [State.replied, hr]
  rfl

section
variable {c : Word} (hr : (s.slot s.cur).role = .responder c false)
include hr

theorem execReply_responder (hset : s.settled s.cur = true) (hj : s.journaled = false) :
    exec (.reply a) s = .next (((s.countAnswer c (some (s.reg s.cur a)) false).modSlot s.cur fun y =>
      { y with role := .responder c true }).advance) := by
  have hrole : (s.countAnswer c (some (s.reg s.cur a)) false).modSlot s.cur (fun y => { y with role := y.role.answered })
      = (s.countAnswer c (some (s.reg s.cur a)) false).modSlot s.cur fun y => { y with role := .responder c true } :=
    State.modSlot_congr _ (congrArg (fun r => { s.slot s.cur with role := Role.answered r }) hr)
  change execReply a s = _
  rw [execReply, s.issue_plain hp, ← hrole]
  simp only [hr, hset, hj, Bool.not_true, Bool.false_eq_true, ↓reduceIte]
  rfl

/-- A REPLY waits for what its thread has outstanding. -/
theorem execReply_waits (hset : s.settled s.cur = false) : exec (.reply a) s = .next (s.waitData s.cur) := by
  change execReply a s = _
  rw [execReply, s.issue_plain hp]
  simp only [hr, hset, Bool.not_false, Bool.false_eq_true, ↓reduceIte]
  rfl

end
end

/-! The ESC node (R75, R265, R266) -/

section
variable {v : View} {l : Token} {ordered : Bool}

theorem escNode_emits {e : Nat × Word} (he : v.esc.nextReply ordered = some e) : escNode ordered v = some (escEmit v e) := by
  simp only [escNode, he]

theorem NodeSt.nextReply_of_empty {n : NodeSt} (h : n.extra = []) (ordered : Bool) : n.nextReply ordered = none := by
  cases ordered <;> simp [NodeSt.nextReply, h]

/-- An escape that is to start. -/
theorem escTake_data (hk : l.kind = kindData) (eat : List NodePort) : escTake v eat l none =
    { eat, room := false, node := v.node, also := fun z => z.modEsc v.d v.h v.slot fun y =>
      { y with count := y.count + 1, vals := tblSet 0 y.count.toNat (ticketWord l) y.vals, toks := [l] } } := by
  have hd : l.isData = true := by rw [Token.isData, hk]; rfl
  have hl : { l with kind := kindData } = l := by rw [← hk]
  simp only [escTake, hd, ↓reduceIte, hl, Option.toList_none]

/-- A token that waits for its turn. -/
theorem escTake_other (hd : l.isData = false) (eat : List NodePort) : escTake v eat l none =
    { eat, room := false, node := v.node, also := fun z => z.modEsc v.d v.h v.slot fun y =>
      { y with count := y.count + 1, vals := tblSet 0 y.count.toNat (ticketWord l) y.vals
               extra := y.extra ++ [((y.count + 1 - 1).toNat, l.payload)] } } := by
  simp only [escTake, hd, Bool.false_eq_true, ↓reduceIte]

section
variable (hextra : v.esc.extra = []) (htoks : v.esc.toks = []) (hl : v.op .l = some l)
include hextra htoks hl

theorem escNode_data (hd : l.isData = true) (hr : v.wired .r = false) : escNode ordered v = some (escTake v [.l] l none) := by
  simp only [escNode, NodeSt.nextReply_of_empty hextra, hl, htoks, hd, hr, List.isEmpty_nil, Bool.not_true, Bool.not_false,
    Bool.false_eq_true, ↓reduceIte]

theorem escNode_ordered (hd : l.isData = false) : escNode true v = some (escTake v [.l] l none) := by
  simp only [escNode, NodeSt.nextReply_of_empty hextra, hl, htoks, hd, List.isEmpty_nil, Bool.not_true, Bool.not_false,
    Bool.false_eq_true, ↓reduceIte]

/-- Without order a token that is no data token goes on at once, with the next ticket. -/
theorem escNode_unordered (hd : l.isData = false) : escNode false v = some
    { eat := [.l], outs := v.both l, node := v.node, also := fun z => z.modEsc v.d v.h v.slot fun y =>
      { y with count := y.count + 1, count2 := y.count2 + 1 } } := by
  simp only [escNode, NodeSt.nextReply_of_empty hextra, hl, htoks, hd, List.isEmpty_nil, Bool.not_true, Bool.not_false,
    Bool.false_eq_true, ↓reduceIte]

end
end

/-! The start of an escape thread (R75, R265) -/

/-- The first FREE user slot of a list of cores, as a slot of the die. -/
theorem State.findSome_freeSlot (s : State) (d : Die) (cores : List CoreNo) :
    (cores.findSome? fun b => (s.freeSlot d b).map fun f => (⟨d, b, f⟩ : SlotId))
      = (cores.findSome? fun b => (s.freeSlot d b).map fun g => (b, g)).map fun q => ⟨d, q.1, q.2⟩ := by
  rw [List.map_findSome?]
  simp only [Function.comp_def, Option.map_map]

/-- The cores of the mask of an ESC node's constant. -/
def maskCores (h : ShedNo) (w : Word) : List CoreNo :=
  ((List.range 16).filter w.getLsbD).map fun j => skeinFacing h ++ BitVec.ofNat 4 j

/-- The thread of an escape starts in a slot, with its payload and origin, and its node holds the token no longer. -/
def State.startEscape (s : State) (d : Die) (h : ShedNo) (slot : Nat) (pc w : Word) (l : Token) (ticket : BitVec 32)
    (i : SlotId) : State :=
  ((s.startThread i pc l.payload ⟨w.extractLsb' 16 3, w.extractLsb' 32 32, w.extractLsb' 20 3, w.getLsbD 19⟩).modSlot i fun y =>
    { (y.setG 2 0).setG 3 (0#34 ++ d ++ 0#7 ++ h ++ 0#4 ++ l.kind ++ l.ctx) with
      role := .escape d h (BitVec.ofNat 6 slot) ticket false }).modEsc d h slot fun n => { n with toks := [] }

section
variable (s : State) (d : Die) (h : ShedNo) (slot : Nat) (pc w : Word) (l : Token) (ticket : BitVec 32) (i : SlotId)

theorem State.startEscape_slot : (s.startEscape d h slot pc w l ticket i).slot i =
    { ((((newThread i (s.slot i) (s.coreClock i.die i.core) pc
      ⟨w.extractLsb' 16 3, w.extractLsb' 32 32, w.extractLsb' 20 3, w.getLsbD 19⟩).setG 1 l.payload).setG 2 0).setG 3
        (0#34 ++ d ++ 0#7 ++ h ++ 0#4 ++ l.kind ++ l.ctx)) with
      role := .escape d h (BitVec.ofNat 6 slot) ticket false } := by
  rw [State.startEscape, State.modEsc, State.modShed_slot, State.modSlot_self, State.startThread_slot]

theorem State.startEscape_ne {j : SlotId} (hj : j ≠ i) : (s.startEscape d h slot pc w l ticket i).slot j = s.slot j := by
  rw [State.startEscape, State.modEsc, State.modShed_slot, State.modSlot_ne _ hj, State.startThread_ne _ hj]

theorem State.startEscape_mem : (s.startEscape d h slot pc w l ticket i).mem = s.mem := by
  rw [State.startEscape, State.modEsc, State.modShed_mem, State.modSlot_mem, State.startThread, State.modCore_mem,
    State.setSlot_mem]

theorem State.startEscape_toks :
    (tblGet {} (nodeIx slot 0) ((s.startEscape d h slot pc w l ticket i).shed d h).nodes : NodeSt).toks = [] := by
  rw [State.startEscape, State.modEsc, State.modShed_self, ShedSt.setNode, tblGet_set_self]

/-- The thread is new, inherits from the node's constant and answers to its ticket. -/
theorem State.startEscape_thread : let y := (s.startEscape d h slot pc w l ticket i).slot i
    y.state = .ready ∧ y.pc = pc ∧ y.inc = (s.slot i).inc + 1 ∧ y.frm = w.extractLsb' 16 3 ∧ y.wlim = w.extractLsb' 32 32
      ∧ y.dom = w.extractLsb' 20 3 ∧ y.jnl = w.getLsbD 19 ∧ y.role = .escape d h (BitVec.ofNat 6 slot) ticket false := by
  rw [State.startEscape_slot]
  simp [newThread]

/-- The payloads and the origin of the token are in g1 to g3. -/
theorem State.startEscape_args : ((s.startEscape d h slot pc w l ticket i).slot i).g 1 = l.payload
    ∧ ((s.startEscape d h slot pc w l ticket i).slot i).g 2 = 0
    ∧ ((s.startEscape d h slot pc w l ticket i).slot i).g 3 = 0#34 ++ d ++ 0#7 ++ h ++ 0#4 ++ l.kind ++ l.ctx := by
  rw [State.startEscape_slot]
  refine ⟨?_, ?_, SlotSt.g_setG_self _ (by decide) _⟩
  · exact (SlotSt.g_setG_ne _ (by decide) _).trans ((SlotSt.g_setG_ne _ (by decide) _).trans (SlotSt.g_setG_self _ (by decide) _))
  · exact (SlotSt.g_setG_ne _ (by decide) _).trans (SlotSt.g_setG_self _ (by decide) _)

end

section
variable {s : State} {k : Nat} {l : Token} (hf : (s.shed s.ev.die s.ev.shed).fires = true)
  (hs : (s.shed s.ev.die s.ev.shed).stopped s.ev.unit = false)
  (hk : escConst (s.shed s.ev.die s.ev.shed) s.ev.unit = some k)
  (ht : (tblGet {} (nodeIx s.ev.unit 0) (s.shed s.ev.die s.ev.shed).nodes : NodeSt).toks = [l])
include hf hs hk ht

theorem execEscapeStart_starts {c : CoreNo} {f : SlotNo}
    (hfree : ((maskCores s.ev.shed ((s.shed s.ev.die s.ev.shed).const (k + 1))).findSome? fun b =>
      (s.freeSlot s.ev.die b).map fun g => (b, g)) = some (c, f)) :
    let x := s.shed s.ev.die s.ev.shed
    exec .escapeStart s = .next (s.startEscape s.ev.die s.ev.shed s.ev.unit (x.const k) (x.const (k + 1)) l
      ((tblGet {} (nodeIx s.ev.unit 0) x.nodes : NodeSt).count - 1) ⟨s.ev.die, c, f⟩) := by
  rw [maskCores] at hfree
  change execEscapeStart s = _
  simp only [execEscapeStart, hf, hs, hk, ht, State.findSome_freeSlot, hfree, Option.map_some, Bool.not_true, Bool.or_self,
    Bool.false_eq_true, ↓reduceIte]
  rfl

/-- Without a FREE user slot the token stays. -/
theorem execEscapeStart_waits
    (hfree : ((maskCores s.ev.shed ((s.shed s.ev.die s.ev.shed).const (k + 1))).findSome? fun b =>
      (s.freeSlot s.ev.die b).map fun g => (b, g)) = none) : exec .escapeStart s = .next s := by
  rw [maskCores] at hfree
  change execEscapeStart s = _
  simp only [execEscapeStart, hf, hs, hk, ht, State.findSome_freeSlot, hfree, Option.map_none, Bool.not_true, Bool.or_self,
    Bool.false_eq_true, ↓reduceIte]

end

/-! The arrival of a reply (R266) -/

section
variable {s : State} {d : Die} {h : ShedNo} {n : BitVec 6} {t : BitVec 32} {w : Word} {i : SlotId}
  (hp : s.packet s.ev.id = some (.reply d h n t w i))
include hp

/-- The reply to an open ticket waits to be emitted. -/
theorem execEscReplyArrival_open (hc : (escConst (s.shed d h) n.toNat).isSome = true)
    (ht : tblGet 0 t.toNat (tblGet {} (nodeIx n.toNat 0) (s.shed d h).nodes : NodeSt).vals ≠ 0) :
    exec .escReplyArrival s = .next ((s.dropPacket s.ev.id).modEsc d h n.toNat fun z =>
      { z with extra := z.extra ++ [(t.toNat, w)] }) := by
  change execEscReplyArrival s = _
  simp only [execEscReplyArrival, hp, State.dropPacket_shed, hc, bne_iff_ne.2 ht, Bool.and_self, ↓reduceIte]

theorem execEscReplyArrival_closed
    (ht : tblGet 0 t.toNat (tblGet {} (nodeIx n.toNat 0) (s.shed d h).nodes : NodeSt).vals = 0) :
    exec .escReplyArrival s = .next (s.dropPacket s.ev.id) := by
  change execEscReplyArrival s = _
  simp only [execEscReplyArrival, hp, State.dropPacket_shed, ht, bne_self_eq_false, Bool.and_false, Bool.false_eq_true,
    ↓reduceIte]

end

/-- Settles O34: REPLY by the role of its thread; then the ESC node, the start of its thread and the arrival of the reply. -/
theorem repliesAndEscapes : Obligations.RepliesAndEscapes := by
  unfold Obligations.RepliesAndEscapes
  refine ⟨?reply, ?node, ?start, ?arrival⟩
  case reply =>
    intro s a d h n k c hp i me w
    refine ⟨execReply_plain hp, execReply_again hp, fun hr hset hsaved hord hj => ?_,
      execReply_responder hp, execReply_waits hp⟩
    obtain ⟨hrole, hpc⟩ := s.replied_slot w
    rw [hr] at hrole
    refine ⟨_, execReply_escape hp hr hset hsaved hord hj, ?_, hrole, hpc, ?_, fun j hj => State.replied_ne w hj⟩
    · rw [State.replied, hr]; rfl
    · rw [State.replied, hr]; rfl
  case node =>
    intro s t u v l k e hturn
    obtain ⟨rfl, rfl⟩ := turn_targets hturn
    intro n note emits
    refine ⟨fun he => hturn.fires rfl (escNode_emits (ordered := true) he),
      fun he => hturn.fires rfl (escNode_emits (ordered := false) he),
      fun hextra htoks hl => ⟨fun hk hr => ?_, fun hc => ?_⟩⟩
    · have hd : l.isData = true := by rw [Token.isData, hk]; rfl
      have hb (ordered : Bool) := (escNode_data (ordered := ordered) hextra htoks hl hd hr).trans
        (congrArg some (escTake_data hk [.l]))
      exact ⟨hturn.fires rfl (hb true), hturn.fires rfl (hb false)⟩
    · have hd := (Token.kinds_of_isControl hc).1
      exact ⟨hturn.fires rfl ((escNode_ordered hextra htoks hl hd).trans (congrArg some (escTake_other hd [.l]))),
        hturn.fires rfl (escNode_unordered hextra htoks hl hd)⟩
  case start =>
    intro s k l c f d h x n w cores hf hs hk ht hunit
    refine ⟨fun hfree => ?_, execEscapeStart_waits hf hs hk ht⟩
    intro i
    obtain ⟨hg1, hg2, hg3⟩ := s.startEscape_args d h s.ev.unit (x.const k) w l (n.count - 1) i
    obtain ⟨hstate, hpc, hinc, hfrm, hwlim, hdom, hjnl, hrole⟩ :=
      s.startEscape_thread d h s.ev.unit (x.const k) w l (n.count - 1) i
    exact ⟨_, execEscapeStart_starts hf hs hk ht hfree, hstate, hpc, hinc, hg1, hg2, hg3, hfrm, hwlim, hdom, hjnl, hrole,
      State.startEscape_toks .., fun j hj => State.startEscape_ne (hj := hj) .., State.startEscape_mem ..⟩
  case arrival =>
    intro s d h n t w i x y hp
    exact ⟨execEscReplyArrival_open hp, execEscReplyArrival_closed hp⟩

end Sys2Proof.Machine
end

section
/-!
SUPPORT. Messages of threads (09 R279, R280; 14 R379, R380; 16 R432): SEND and SENDM by their handle and the free reservations, and
the receipts under a mask by what the masked mailboxes hold.
-/

namespace Sys2Proof.Machine

/-! Issue that also waits for registers the instruction does not name (07 R202) -/

section
variable {s : State} {also srcs dsts : List Reg} (k : List Word → State → Act)

theorem State.issueWith_hazard (h : s.hazard also [] = true) : s.issueWith also srcs dsts k = .next (s.waitData s.cur) := by
  rw [State.issueWith, if_pos h]
  rfl

theorem State.issueWith_plain (h : s.hazard also [] = false) (hp : s.plain srcs dsts = true) :
    s.issueWith also srcs dsts k = s.perform (k (srcs.map (s.reg s.cur)) s) := by
  rw [State.issueWith, h, if_neg Bool.false_ne_true, s.issue_plain hp]

end

/-! What a send leaves -/

/-- The state in which the copies of a send are on their way. -/
def State.sendMany (ms : List Mail) (t : State) : State := ms.foldl (fun t m => t.sendRelease (.mail m) t.cur) t

theorem State.sendMany_frame (ms : List Mail) (t : State) : let u := t.sendMany ms
    u.net.map (·.packet) = t.net.map (·.packet) ++ ms.map .mail ∧ u.cur = t.cur ∧ u.mem = t.mem
      ∧ (∀ i, u.slot i = t.slot i) ∧ ∀ d c, u.core d c = t.core d c := by
  induction ms generalizing t with
  | nil => exact ⟨(List.append_nil _).symm, rfl, rfl, fun _ => rfl, fun _ _ => rfl⟩
  | cons m ms ih =>
    obtain ⟨hnet, hcur, hmem, hslot, hcore⟩ := ih (t.sendRelease (.mail m) t.cur)
    refine ⟨hnet.trans ?_, hcur, hmem, hslot, hcore⟩
    simp [State.sendRelease]

/-- Without a store log every copy leaves at once. -/
theorem sendAll_open (ms : List Mail) {t : State} (hj : t.journaled = false) : sendAll ms t = .go (t.sendMany ms).advance := by
  induction ms generalizing t with
  | nil => rfl
  | cons m ms ih =>
    rw [sendAll, hj, if_neg Bool.false_ne_true]
    exact ih hj

/-- The state with a number of the core's return reservations taken. -/
def State.reserve (s : State) (n : Nat) : State := s.modCore s.cur.die s.cur.core fun c => { c with resv := c.resv + n }

/-- The state behind a send: its copies are on their way, a reservation is taken for each, and the instruction is complete. -/
def State.sent (s : State) (ms : List Mail) : State := ((s.reserve ms.length).sendMany ms).advance

theorem State.sent_frame (s : State) (ms : List Mail) : let t := s.sent ms
    t.net.map (·.packet) = s.net.map (·.packet) ++ ms.map .mail
      ∧ (t.core s.cur.die s.cur.core).resv = s.curCore.resv + ms.length ∧ t.mem = s.mem
      ∧ (t.slot s.cur).pc = (s.slot s.cur).pc + 4 ∧ (t.slot s.cur).state = .ready
      ∧ (t.slot s.cur).win = (s.slot s.cur).win := by
  intro t
  obtain ⟨hnet, hcur, hmem, hslot, hcore⟩ := State.sendMany_frame ms (s.reserve ms.length)
  have hresv : (s.reserve ms.length).core s.cur.die s.cur.core = _ := State.modCore_self ..
  have hadv := State.advance_slot ((s.reserve ms.length).sendMany ms)
  rw [hcur, hslot] at hadv
  change t.slot s.cur = _ at hadv
  rw [hadv]
  exact ⟨hnet, congrArg CoreSt.resv ((hcore ..).trans hresv), hmem, rfl, rfl, rfl⟩

/-! SEND and SENDM (R279) -/

section
variable {s : State} {multi : Bool} {x : Scope} {a b : Reg} {l : BitVec 3}

/-- A result outstanding to a double that is sent holds the send. -/
theorem execSendTo_hazard (h : s.hazard (windowRegs (l.toNat + 1)) [] = true) :
    execSendTo multi x a b l s = .next (s.waitData s.cur) := State.issueWith_hazard _ h

variable (hw : s.hazard (windowRegs (l.toNat + 1)) [] = false) (hp : s.plain [a, b] [] = true)
include hw hp

theorem execSendTo_malformed (ho : handleOk (s.reg s.cur a) = false) : execSendTo multi x a b l s
    = .next (s.takeTrap s.cur 0x49 2 (s.slot s.cur).pc s.word (s.reg s.cur a) (s.reg s.cur b)) := by
  rw [execSendTo, State.issueWith_plain _ hw hp]
  simp only [List.map_cons, List.map_nil, List.getD_cons_zero, List.getD_cons_succ, handleFault, ho, Bool.not_false, ↓reduceIte]
  rfl

theorem execSendTo_noCore (ho : handleOk (s.reg s.cur a) = true) (hc : handleCore (s.reg s.cur a) = none) :
    execSendTo multi x a b l s
      = .next (s.takeTrap s.cur 0x49 3 (s.slot s.cur).pc s.word (s.reg s.cur a) (s.reg s.cur b)) := by
  rw [execSendTo, State.issueWith_plain _ hw hp]
  simp only [List.map_cons, List.map_nil, List.getD_cons_zero, List.getD_cons_succ, handleFault, ho, hc, Option.isNone_none,
    Bool.not_true, Bool.false_eq_true, ↓reduceIte]
  rfl

section
variable {c : CoreNo} (ho : handleOk (s.reg s.cur a) = true) (hc : handleCore (s.reg s.cur a) = some c)
include ho hc

theorem execSendTo_core : execSendTo multi x a b l s =
    let ms := s.sendMails multi x (l.toNat + 1) (s.reg s.cur a) (s.reg s.cur b) c
    s.perform (if reservations < s.curCore.resv + ms.length then .wait
      else sendAll ms (s.reserve ms.length)) := by
  rw [execSendTo, State.issueWith_plain _ hw hp]
  simp only [List.map_cons, List.map_nil, List.getD_cons_zero, List.getD_cons_succ, handleFault_of_ok ho hc, hc]
  rfl

/-- With a free reservation for each copy the copies leave. -/
theorem execSendTo_sends (hj : s.journaled = false) {ms : List Mail}
    (hms : s.sendMails multi x (l.toNat + 1) (s.reg s.cur a) (s.reg s.cur b) c = ms) (hr : s.curCore.resv + ms.length ≤ 64) :
    execSendTo multi x a b l s = .next (s.sent ms) := by
  rw [execSendTo_core hw hp ho hc, hms]
  exact congrArg s.perform ((if_neg (Nat.not_lt.2 hr)).trans (sendAll_open ms (t := s.reserve ms.length) hj))

/-- Too few free reservations keep the slot in WAIT-DATA (14 R380). -/
theorem execSendTo_waits (hr : 64 < s.curCore.resv
      + (s.sendMails multi x (l.toNat + 1) (s.reg s.cur a) (s.reg s.cur b) c).length) :
    execSendTo multi x a b l s = .next (s.waitData s.cur) := by
  rw [execSendTo_core hw hp ho hc]
  exact congrArg s.perform (if_pos hr)

end
end

/-- Settles O12: a send by what holds it, its handle, and the free reservations. -/
theorem sendsLeave : Obligations.SendsLeave := by
  unfold Obligations.SendsLeave
  intro s x a b l c hp i me h w mail copies
  refine ⟨fun hz => ⟨execSendTo_hazard hz, execSendTo_hazard hz⟩, fun hz => ⟨fun ho hc hj => ⟨fun hr => ?_, fun hr => ?_, fun hr => ?_⟩,
    fun ho => ⟨execSendTo_malformed hz hp ho, execSendTo_malformed hz hp ho⟩,
    fun ho hc => ⟨execSendTo_noCore hz hp ho hc, execSendTo_noCore hz hp ho hc⟩⟩⟩
  · have hms : s.sendMails false x (l.toNat + 1) h w c = [mail false c] := by
      simp only [State.sendMails, sendCores, mail, Bool.not_false, Bool.true_and, true_and, Bool.false_eq_true, ↓reduceIte]
      rfl
    obtain ⟨-, hresv, hmem, hpc, hstate, hwin⟩ := s.sent_frame [mail false c]
    exact ⟨_, execSendTo_sends hz hp ho hc hj hms hr, rfl, hresv, hmem, hpc, hstate, hwin⟩
  · have hms : s.sendMails true x (l.toNat + 1) h w c = copies.map (mail true) := by
      simp only [State.sendMails, sendCores, mail, Bool.not_true, Bool.false_and, Bool.true_eq_false, false_and, ↓reduceIte]
      rfl
    obtain ⟨hnet, hresv, hmem, hpc, hstate, -⟩ := s.sent_frame (copies.map (mail true))
    have hmap : (copies.map (mail true)).map Packet.mail = copies.map fun k => Packet.mail (mail true k) := List.map_map
    rw [hmap] at hnet
    rw [List.length_map] at hresv
    exact ⟨_, execSendTo_sends hz hp ho hc hj hms (by rwa [List.length_map]), hnet, hresv, hmem, hpc, hstate⟩
  · exact execSendTo_waits hz hp ho hc (Nat.lt_succ_of_le hr)

end Sys2Proof.Machine
end

section
/-!
SUPPORT. Receipts (09 R280; 14 R379; Tables 6-5, 6-6): RECV, TRYRECV, PEEK and WAITMSG by what the masked mailboxes hold, and what
a receipt leaves.
-/

namespace Sys2Proof.Machine

/-! A receipt under a mask -/

section
variable {t : State} {peek : Bool} {e : Empty} {d : Reg} {mask : BitVec 32}

theorem receiveMask_forbidden (h : t.curCore.forbidden t.cur.slot mask = true) :
    receiveMask peek e d mask t = .trap 0x09 0 (mask.zeroExtend 64) 0 := by
  simp only [receiveMask, h, ↓reduceIte]

variable (hf : t.curCore.forbidden t.cur.slot mask = false)
include hf

section
variable {n p : Nat} (hc : t.curCore.choose t.cur.slot (t.slot t.cur).lastBox mask = some (n, p))
include hc

theorem receiveMask_receives : receiveMask false e d mask t = .go (t.receive t.cur d n p).advance := by
  simp only [receiveMask, hf, hc, Bool.false_eq_true, ↓reduceIte]

/-- PEEK shows the message and leaves the order of the mailboxes. -/
theorem receiveMask_shows {m : BoxMsg} (hm : (t.curCore.box n)[p]? = some m) : receiveMask true e d mask t
    = .go ((t.modSlot t.cur fun x => { x.show n m with lastBox := (t.slot t.cur).lastBox }).finish d (BitVec.ofNat 64 n)) := by
  simp only [receiveMask, hf, hc, hm, Bool.false_eq_true, ↓reduceIte]

end

section
variable (hc : t.curCore.choose t.cur.slot (t.slot t.cur).lastBox mask = none)
include hc

theorem receiveMask_parks : receiveMask peek .park d mask t = .go ((t.modSlot t.cur fun x =>
    { x with parkKey := mask.zeroExtend 64, parkDst := some d }).enter t.cur .parkMsg .retry) := by
  simp only [receiveMask, hf, hc, Bool.false_eq_true, ↓reduceIte]

theorem receiveMask_none : receiveMask peek .ones d mask t = .go (t.finish d (-1)) := by
  simp only [receiveMask, hf, hc, Bool.false_eq_true, ↓reduceIte]
  rfl

end
end

/-! Issue -/

section
variable {s : State} {d a : Reg} (hw : s.hazard (windowRegs 6) [] = false)
include hw

section
variable (hp : s.plain [a] [d] = true)
include hp

theorem execRecv_plain : exec (.recv d a) s = s.perform (receiveMask false .park d ((s.reg s.cur a).extractLsb' 0 32) s) :=
  State.issueWith_plain _ hw hp

theorem execTryrecv_plain :
    exec (.tryrecv d a) s = s.perform (receiveMask false .ones d ((s.reg s.cur a).extractLsb' 0 32) s) :=
  State.issueWith_plain _ hw hp

theorem execPeek_plain : exec (.peek d a) s = s.perform (receiveMask true .ones d ((s.reg s.cur a).extractLsb' 0 32) s) :=
  State.issueWith_plain _ hw hp

end

theorem execWaitmsg_plain (hp : s.plain [] [d] = true) :
    exec (.waitmsg d) s = s.perform (receiveMask false .park d 0x80000000 s) := State.issueWith_plain _ hw hp

end

/-! What a receipt leaves -/

@[simp] theorem CoreSt.box_setBox_self (c : CoreSt) (n : Nat) (l : List BoxMsg) : (c.setBox n l).box n = l := tblGet_set_self ..

theorem CoreSt.box_setBox_ne (c : CoreSt) {n k : Nat} (h : k ≠ n) (l : List BoxMsg) : (c.setBox n l).box k = c.box k :=
  tblGet_set_ne _ h ..

/-- A shown message changes the window, mb and the mailbox last received from. -/
theorem SlotSt.show_eq (x : SlotSt) (n : Nat) (m : BoxMsg) : x.show n m =
    { x with win := (x.setWin (fun k => m.words.getD k 0) 6).win, mbBox := BitVec.ofNat 5 n
             mbLen := BitVec.ofNat 3 m.words.length, lastBox := BitVec.ofNat 5 n } := by
  rw [SlotSt.show, SlotSt.setWindow, SlotSt.foldl_setMw, SlotSt.setWin_eq]

/-- A shown message stands in the window, with zero beyond its doubles. -/
theorem SlotSt.show_mw (x : SlotSt) (n : Nat) (m : BoxMsg) {k : Nat} (hk : k < 6) : (x.show n m).mw k = m.words.getD k 0 := by
  rw [SlotSt.show_eq]
  exact SlotSt.mw_setWin (fun k => m.words.getD k 0) x hk

theorem SlotSt.show_g (x : SlotSt) (n : Nat) (m : BoxMsg) (r : Reg) : (x.show n m).g r = x.g r := by
  rw [SlotSt.show_eq]; rfl

theorem SlotSt.setG_mw (x : SlotSt) (r : Reg) (v : Word) (k : Nat) : (x.setG r v).mw k = x.mw k := by
  simp only [SlotSt.mw, SlotSt.setG_win]

section
variable {s : State} {i : SlotId} {d : Reg} {n p : Nat} {m : BoxMsg} (hm : ((s.core i.die i.core).box n)[p]? = some m)
include hm

/-- A receipt (R280): the message leaves its mailbox for the window, rd gets the mailbox's number, and an acquire at c or wider
invalidates the L1D. -/
theorem State.receive_some : s.receive i d n p =
    let t := (((s.setCore i.die i.core ((s.core i.die i.core).setBox n (((s.core i.die i.core).box n).eraseIdx p))).modSlot i
      fun x => x.show n m).writeReg i d (BitVec.ofNat 64 n))
    if m.scope = .s then t else t.dropL1d i.die i.core := by
  simp only [State.receive, hm, atLeastC, bne_iff_ne, ite_not]

theorem State.receive_mem : (s.receive i d n p).mem = s.mem := by
  rw [State.receive_some hm]
  simp only
  split <;> exact State.writeReg_mem ..

theorem State.receive_core : (s.receive i d n p).core i.die i.core =
    let c := s.core i.die i.core
    { c.setBox n ((c.box n).eraseIdx p) with l1d := if m.scope = .s then c.l1d else [] } := by
  have hcore : ((((s.setCore i.die i.core ((s.core i.die i.core).setBox n (((s.core i.die i.core).box n).eraseIdx p))).modSlot i
      fun x => x.show n m).writeReg i d (BitVec.ofNat 64 n))).core i.die i.core
        = (s.core i.die i.core).setBox n (((s.core i.die i.core).box n).eraseIdx p) := by
    simp only [State.core, State.writeReg_cores]
    exact State.setCore_self ..
  rw [State.receive_some hm]
  simp only
  split
  · exact hcore
  · rw [State.dropL1d, State.modCore_self, hcore]

theorem State.receive_slot (hd : d < 32) :
    (s.receive i d n p).slot i = ((s.slot i).show n m).setG d (BitVec.ofNat 64 n) := by
  rw [State.receive_some hm]
  simp only [State.writeReg_general _ _ hd]
  split <;> simp [State.dropL1d]

end

/-- Settles O13: the four instructions by what the mailboxes hold; then a receipt's mailbox, window, register and L1D. -/
theorem receiptsTakeMessages : Obligations.ReceiptsTakeMessages := by
  unfold Obligations.ReceiptsTakeMessages
  refine ⟨?issue, ?receipt⟩
  case issue =>
    intro s d a n p m i me c mask park
    refine ⟨fun hz => ⟨State.issueWith_hazard _ hz, State.issueWith_hazard _ hz, State.issueWith_hazard _ hz,
      State.issueWith_hazard _ hz⟩, fun hw hp => ?_, fun hw hp hf => ?_⟩
    · rw [execRecv_plain hw hp, execTryrecv_plain hw hp, execPeek_plain hw hp]
      refine ⟨fun hf => ?_, fun hf => ⟨fun hc hm => ?_, fun hc => ?_⟩⟩
      · rw [receiveMask_forbidden hf, receiveMask_forbidden hf, receiveMask_forbidden hf]
        exact ⟨rfl, rfl, rfl⟩
      · rw [receiveMask_receives hf hc, receiveMask_receives hf hc, receiveMask_shows hf hc hm]
        exact ⟨rfl, rfl, rfl⟩
      · rw [receiveMask_parks hf hc, receiveMask_none hf hc, receiveMask_none hf hc]
        exact ⟨rfl, rfl, rfl⟩
    · rw [execWaitmsg_plain hw hp]
      refine ⟨fun hc => ?_, fun hc => ?_⟩
      · rw [receiveMask_receives hf hc]; rfl
      · rw [receiveMask_parks hf hc]; rfl
  case receipt =>
    intro s i d n p m hd h0 hn hlen hm t
    have hcore : t.core i.die i.core = _ := State.receive_core hm
    have hslot : t.slot i = _ := State.receive_slot hm hd
    have hbox : BitVec.toNat (BitVec.ofNat 5 n) = n := Nat.mod_eq_of_lt hn
    have hwords : BitVec.toNat (BitVec.ofNat 3 m.words.length) = m.words.length := Nat.mod_eq_of_lt (by omega)
    rw [hcore, hslot]
    refine ⟨CoreSt.box_setBox_self .., fun k hk => CoreSt.box_setBox_ne _ hk _, fun k hk => ?_, ?_, ?_, ?_,
      SlotSt.g_setG_self _ h0 _, fun r hr => ?_, fun hs => if_neg hs, fun hs => if_pos hs, State.receive_mem hm⟩
    · rw [SlotSt.setG_mw, SlotSt.show_mw _ _ _ hk]
    · rw [SlotSt.setG_mbBox, SlotSt.show_eq, hbox]
    · rw [SlotSt.setG_mbLen, SlotSt.show_eq, hwords]
    · rw [SlotSt.setG_lastBox, SlotSt.show_eq, hbox]
    · rw [SlotSt.g_setG_ne _ hr, SlotSt.show_g]

end Sys2Proof.Machine
end

section
/-!
SUPPORT. Treadle patterns (09 R281 to R283; 14 R379): the instructions that change them, JOINWAIT, and the evaluation of a pattern.
-/

namespace Sys2Proof.Machine

/-! Instructions -/

section
variable {s : State} {a b d : Reg}

/-- The pattern that TRSET writes for a record (Table 6-16), with the modes of the executing thread. -/
def patternOf (t : State) (w v : Word) : Treadle :=
  let x := t.slot t.cur
  { mask := w.extractLsb' 0 32, en := w.getLsbD 32, wake := w.getLsbD 33, handler := v, frm := x.frm, wlim := x.wlim
    dom := x.dom, jnl := t.journaled }

section
variable {w v : Word} {t : State} (hp : s.plain [a] [] = true) (hr : s.ReadsRecord (s.reg s.cur a) 3 2 [w, v] t)
include hp hr

theorem execTrset_writes (h1 : w.extractLsb' 34 2 = 0) (h2 : w.extractLsb' 40 24 = 0) :
    exec (.trset a) s
      = .next (t.changePattern (w.extractLsb' 36 4).toNat fun _ => patternOf t w v).advance := by
  change execTrset a s = _
  rw [execTrset, s.issue_plain hp]
  simp only [List.map_cons, List.map_nil, List.getD_cons_zero]
  rw [hr]
  simp only [List.getD_cons_zero, List.getD_cons_succ, h1, h2, bne_self_eq_false, Bool.or_self, Bool.false_eq_true, ↓reduceIte]
  rfl

theorem execTrset_reserved (h : w.extractLsb' 34 2 ≠ 0 ∨ w.extractLsb' 40 24 ≠ 0) :
    exec (.trset a) s = .next (s.takeTrap s.cur 0x09 1 (s.slot s.cur).pc s.word (s.reg s.cur a) 0) := by
  change execTrset a s = _
  rw [execTrset, s.issue_plain hp]
  simp only [List.map_cons, List.map_nil, List.getD_cons_zero]
  rw [hr, if_pos (by simpa only [Bool.or_eq_true, bne_iff_ne, List.getD_cons_zero] using h)]
  rfl

end

theorem execTrclr_plain (hp : s.plain [a] [] = true) : exec (.trclr a) s
    = .next (s.changePattern ((s.reg s.cur a).toNat % 16) fun r => { r with mask := 0, en := false }).advance := by
  change execTrclr a s = _
  rw [execTrclr, s.issue_plain hp]
  rfl

theorem execTren_plain (hp : s.plain [a, b] [] = true) : exec (.tren a b) s
    = .next (s.changePattern ((s.reg s.cur a).toNat % 16) fun r => { r with en := (s.reg s.cur b).getLsbD 0 }).advance := by
  change execTren a b s = _
  rw [execTren, s.issue_plain hp]
  rfl

section
variable (hp : s.plain [a] [d] = true)
include hp

/-- One slot at a time waits on a pattern. -/
theorem execJoinwait_taken (hj : (s.joinSlot s.cur.die s.cur.core ((s.reg s.cur a).toNat % 16)).isSome = true) :
    exec (.joinwait d a) s = .next (s.takeTrap s.cur 0x0a 0 (s.slot s.cur).pc s.word
      (BitVec.ofNat 64 ((s.reg s.cur a).toNat % 16)) 0) := by
  change execJoinwait d a s = _
  rw [execJoinwait, s.issue_plain hp]
  simp only [List.map_cons, List.map_nil, List.getD_cons_zero, hj, ↓reduceIte]
  rfl

variable (hj : s.joinSlot s.cur.die s.cur.core ((s.reg s.cur a).toNat % 16) = none)
include hj

theorem execJoinwait_disabled (h : let r := s.curCore.treadle ((s.reg s.cur a).toNat % 16)
      r.en = false ∨ r.mask = 0 ∨ r.wake = false) :
    exec (.joinwait d a) s = .next (s.takeTrap s.cur 0x0a 1 (s.slot s.cur).pc s.word
      (BitVec.ofNat 64 ((s.reg s.cur a).toNat % 16)) 0) := by
  change execJoinwait d a s = _
  rw [execJoinwait, s.issue_plain hp]
  simp only [List.map_cons, List.map_nil, List.getD_cons_zero, hj, Option.isSome_none, Bool.false_eq_true, ↓reduceIte]
  rw [if_pos (by simpa only [Bool.or_eq_true, Bool.not_eq_true', beq_iff_eq, or_assoc] using h)]
  rfl

theorem execJoinwait_parks (he : (s.curCore.treadle ((s.reg s.cur a).toNat % 16)).en = true)
    (hm : (s.curCore.treadle ((s.reg s.cur a).toNat % 16)).mask ≠ 0)
    (hw : (s.curCore.treadle ((s.reg s.cur a).toNat % 16)).wake = true) :
    exec (.joinwait d a) s = .next ((s.modSlot s.cur fun y =>
      { y with parkKey := BitVec.ofNat 64 ((s.reg s.cur a).toNat % 16), parkDst := some d }).enter s.cur .parkJoin .retry) := by
  change execJoinwait d a s = _
  rw [execJoinwait, s.issue_plain hp]
  simp only [List.map_cons, List.map_nil, List.getD_cons_zero, hj, Option.isSome_none, he, beq_false_of_ne hm, hw, Bool.not_true,
    Bool.or_self, Bool.false_eq_true, ↓reduceIte]
  rfl

end
end

/-! Evaluation (R282, R283) -/

section
variable {s : State} {d : Die} {c : CoreNo} {p : Nat}

theorem execTreadleEvaluate_eq : exec .treadleEvaluate s =
    .next (if (s.core s.ev.die s.ev.core).evaluated = some s.aclk then s
      else ((List.range 16).foldl (fun t q => t.evaluatePattern s.ev.die s.ev.core q) s).modCore s.ev.die s.ev.core fun y =>
        { y with evaluated := some s.aclk }) := by
  change execTreadleEvaluate s = _
  simp only [execTreadleEvaluate, beq_iff_eq]
  rfl

/-- A pattern that is not enabled, or one of whose mailboxes lacks an unclaimed message, does nothing. -/
theorem State.evaluatePattern_idle (h : ((s.core d c).treadle p).en = false ∨ ((s.core d c).treadle p).mask = 0
      ∨ (s.core d c).patternFull ((s.core d c).treadle p).mask = false) : s.evaluatePattern d c p = s := by
  have hc : (((s.core d c).treadle p).en && ((s.core d c).treadle p).mask != 0
      && (s.core d c).patternFull ((s.core d c).treadle p).mask) = false := by
    rcases h with h | h | h <;> simp [h]
  simp only [State.evaluatePattern, hc, Bool.false_eq_true, ↓reduceIte]

variable (he : ((s.core d c).treadle p).en = true) (hm : ((s.core d c).treadle p).mask ≠ 0)
  (hf : (s.core d c).patternFull ((s.core d c).treadle p).mask = true)
include he hm hf

/-- The slot parked on a full pattern receives its mask and goes on. -/
theorem State.evaluatePattern_wakes {i : SlotId} (hw : ((s.core d c).treadle p).wake = true) (hj : s.joinSlot d c p = some i) :
    s.evaluatePattern d c p = (((s.setCore d c ((s.core d c).claimAll ((s.core d c).treadle p).mask i.slot)).writeReg i
      ((s.slot i).parkDst.getD 0) (((s.core d c).treadle p).mask.zeroExtend 64)).modSlot i fun y =>
        { y with pc := y.pc + 4 }).wake i := by
  simp only [State.evaluatePattern, he, bne_iff_ne.2 hm, hf, hw, hj, Bool.and_self, ↓reduceIte]
  rfl

/-- The handler of a full pattern starts in the lowest FREE user slot. -/
theorem State.evaluatePattern_starts {k : SlotNo} (hw : ((s.core d c).treadle p).wake = false)
    (hk : s.freeSlot d c = some k) : let r := (s.core d c).treadle p
    s.evaluatePattern d c p = ((s.setCore d c ((s.core d c).claimAll r.mask k)).startThread ⟨d, c, k⟩ r.handler
      (r.mask.zeroExtend 64) ⟨r.frm, r.wlim, r.dom, r.jnl⟩).modSlot ⟨d, c, k⟩ fun y => y.setG 2 (BitVec.ofNat 64 p) := by
  simp only [State.evaluatePattern, he, bne_iff_ne.2 hm, hf, hw, hk, Bool.and_self, Bool.false_eq_true, ↓reduceIte]

end

/-- Settles O14: the instructions on patterns, then the evaluation. -/
theorem treadles : Obligations.Treadles := by
  unfold Obligations.Treadles
  refine ⟨?instructions, ?evaluation⟩
  case instructions =>
    intro s t d a b w v i me x p r
    refine ⟨fun hp => ⟨fun hr h1 h2 hcur => ?_, execTrset_reserved hp, execTrclr_plain hp⟩,
      execTren_plain, fun hp => ⟨execJoinwait_taken hp, execJoinwait_disabled hp, execJoinwait_parks hp⟩⟩
    rw [execTrset_writes hp hr h1 h2, patternOf, hcur]
  case evaluation =>
    intro s d c p k i x r
    refine ⟨fun hd hc => ?_, fun he hm hf => ⟨fun hw hk => ?_, State.evaluatePattern_wakes he hm hf⟩,
      State.evaluatePattern_idle⟩
    · subst hd hc
      exact execTreadleEvaluate_eq
    · intro t
      have ht : t = _ := State.evaluatePattern_starts he hm hf hw hk
      have hslot : t.slot ⟨d, c, k⟩ = ((newThread ⟨d, c, k⟩ (s.slot ⟨d, c, k⟩)
          ((s.setCore d c (x.claimAll r.mask k)).coreClock d c) r.handler ⟨r.frm, r.wlim, r.dom, r.jnl⟩).setG 1
            (r.mask.zeroExtend 64)).setG 2 (BitVec.ofNat 64 p) := by
        rw [ht, State.modSlot_self, State.startThread_slot]; rfl
      have hcore : t.core d c = { x.claimAll r.mask k with l1d := [] } := by
        rw [ht, State.modSlot_core, State.startThread, State.modCore_self, State.setSlot_core, State.setCore_self]
      rw [hslot, hcore, ht]
      refine ⟨by simp [newThread], by simp [newThread], ?_, SlotSt.g_setG_self _ (by decide) _, by simp [newThread], rfl, ?_⟩
      · exact (SlotSt.g_setG_ne _ (by decide) _).trans (SlotSt.g_setG_self _ (by decide) _)
      · rw [State.modSlot_mem, State.startThread, State.modCore_mem, State.setSlot_mem, State.setCore_mem]

end Sys2Proof.Machine
end

section
/-!
SUPPORT. The end of threads (02 R69; 09 R286 to R288): JOIN and its notices, YIELD, SELF and EXIT, and what an exit sends and leaves.
-/

namespace Sys2Proof.Machine

/-! JOIN -/

section
variable {s : State}

theorem State.plain_nil (s : State) : s.plain [] [] = true := rfl

theorem execJoin_joined (h : (s.slot s.cur).jcnt = 0) :
    exec .join s = .next (s.modCore s.cur.die s.cur.core fun c => { c with l1d := [] }).advance := by
  change execJoin s = _
  rw [execJoin, s.issue_plain s.plain_nil, if_pos h]
  rfl

theorem execJoin_waits (h : (s.slot s.cur).jcnt ≠ 0) : exec .join s = .next (s.waitData s.cur) := by
  change execJoin s = _
  rw [execJoin, s.issue_plain s.plain_nil, if_neg h]
  rfl

/-- The notice of a child's end reaches a parent that still exists. -/
theorem execJoinNotice_counts {p : JoinRef} (hp : s.packet s.ev.id = some (.joined p))
    (hi : (s.slot ⟨p.die, p.core, p.slot⟩).inc = p.inc) (hs : (s.slot ⟨p.die, p.core, p.slot⟩).state ≠ .free) :
    exec .joinNotice s
      = .next ((s.dropPacket s.ev.id).modSlot ⟨p.die, p.core, p.slot⟩ fun x => { x with jcnt := x.jcnt - 1 }) := by
  change execJoinNotice s = _
  simp only [execJoinNotice, hp]
  refine congrArg _ (State.modSlot_congr _ (if_pos ?_))
  simp only [State.dropPacket_slot, hi, beq_self_eq_true, bne_iff_ne.2 hs, Bool.and_self]

/-! YIELD and SELF -/

/-- The other slots of the executing core that are READY. -/
def State.othersReady (s : State) : List Nat := (List.range 16).filter fun k =>
  k != s.cur.slot.toNat && (s.slot ⟨s.cur.die, s.cur.core, BitVec.ofNat 4 k⟩).state == .ready

theorem State.mem_othersReady {k : Nat} : k ∈ s.othersReady ↔
    k < 16 ∧ k ≠ s.cur.slot.toNat ∧ (s.slot ⟨s.cur.die, s.cur.core, BitVec.ofNat 4 k⟩).state = .ready := by
  simp only [State.othersReady, List.mem_filter, List.mem_range, Bool.and_eq_true, bne_iff_ne, beq_iff_eq]

theorem execYield_eq : exec .yield s = .next (s.advance.modSlot s.cur fun x => { x with yielding := s.othersReady }) := by
  change execYield s = _
  rw [execYield, s.issue_plain s.plain_nil]
  rfl

theorem execSelf_plain {d : Reg} (hp : s.plain [] [d] = true) :
    exec (.self d) s = .next (s.finish d (selfWord s.cur (s.slot s.cur).inc)) := by
  change execSelf d s = _
  rw [execSelf, s.issue_plain hp]
  rfl

/-! EXIT -/

theorem execExit_waits (h : s.settled s.cur = false) : exec .exit s = .next (s.waitData s.cur) := by
  change execExit s = _
  rw [execExit, s.issue_plain s.plain_nil]
  simp only [h, Bool.not_false, ↓reduceIte]
  rfl

theorem execExit_settled (h : s.settled s.cur = true) (hj : s.journaled = false) :
    exec .exit s = .next ((s.exitEffects s.cur (s.slot s.cur)).endThread s.cur) := by
  change execExit s = _
  rw [execExit, s.issue_plain s.plain_nil]
  simp only [h, hj, Bool.not_true, Bool.false_eq_true, ↓reduceIte]
  rfl

/-! What an exit sends -/

section
variable (s) (i : SlotId) {x : SlotSt} (hr : x.role = .plain)
include hr

theorem State.exitEffects_join {p : JoinRef} (he : x.exitTo = none) (hj : x.join = some p) :
    s.exitEffects i x = s.send (.joined p) := by
  simp only [State.exitEffects, hr, he, hj]

theorem State.exitEffects_none (he : x.exitTo = none) (hj : x.join = none) : s.exitEffects i x = s := by
  simp only [State.exitEffects, hr, he, hj]

theorem State.exitEffects_notice {d : Die} {c : CoreNo} (he : x.exitTo = some (d, c)) (hj : x.join = none) :
    s.exitEffects i x = s.send (.mail (engineMail i.die noticeUnit d c 30 [selfWord i x.inc] (coverScope i.die d i.core c))) := by
  simp only [State.exitEffects, hr, he, hj]

end

/-! What an exit leaves -/

theorem State.prune_slot (s : State) (d : Die) (i : SlotId) : (s.prune d).slot i = s.slot i := rfl

theorem State.leaveRow_slot (s : State) (i j : SlotId) : (s.leaveRow i).slot j = s.slot j := rfl

/-- Without messages there are no claims to revert. -/
theorem State.revertClaims_nil {i : SlotId} (h : (s.core i.die i.core).boxes = []) : s.revertClaims i = s := by
  have hbox (n : Nat) : (s.core i.die i.core).box n = [] := by rw [CoreSt.box, h]; rfl
  simp only [State.revertClaims, hbox, List.any_nil]
  exact if_neg (by decide)

theorem State.endThread_slot {i : SlotId} (h : (s.core i.die i.core).boxes = []) :
    (s.endThread i).slot i = emptySlot (s.slot i) ((s.leaveRow i).coreClock i.die i.core) := by
  rw [State.endThread, State.revertClaims_nil h, State.prune_slot, State.modSlot_self, State.leaveRow_slot]

end

/-- Settles O17: the instructions one by one, then what an exit sends and leaves. -/
theorem threadsJoinAndExit : Obligations.ThreadsJoinAndExit := by
  unfold Obligations.ThreadsJoinAndExit
  refine ⟨?instructions, ?exit⟩
  case instructions =>
    intro s d p i me
    refine ⟨execJoin_joined, execJoin_waits, execJoinNotice_counts, ⟨_, execYield_eq, ?_⟩, execSelf_plain, execExit_waits,
      execExit_settled⟩
    have hadv : s.advance.slot i = _ := s.advance_slot
    rw [State.modSlot_self, hadv]
    exact ⟨rfl, rfl, fun k => State.mem_othersReady, fun j hj => (State.modSlot_ne _ hj _).trans (s.advance_ne hj),
      (State.modSlot_mem ..).trans s.advance_mem⟩
  case exit =>
    intro s i x p hr
    refine ⟨fun he hj => ?_, s.exitEffects_none i hr, fun d c he hj => ?_, fun h => ?_⟩
    · rw [s.exitEffects_join i hr he hj]; rfl
    · rw [s.exitEffects_notice i hr he hj]
      exact ⟨_, rfl, rfl, rfl, rfl, rfl⟩
    · rw [State.endThread_slot h]
      exact ⟨rfl, rfl, rfl, rfl, rfl, rfl⟩

end Sys2Proof.Machine
end

section
/-!
SUPPORT. The tile directory (09 R291, R294; 16 R428): DIRADD, DIRDEL and DIRFIND, the move of a tile with its answers, and the
forward of a solicit to a tile that moves.
-/

namespace Sys2Proof.Machine

/-! The directory of a core (R291) -/

section
variable {s : State} {d a b : Reg}

theorem execDiradd_plain (hj : s.journaled = false) (hp : s.plain [a, b] [d] = true) : exec (.diradd d a b) s =
    let c := s.curCore
    .next (if (c.entry (s.reg s.cur a)).isSome = true then s.finish d 2
      else if 64 ≤ c.dir.length then s.finish d 1
      else (s.setCore s.cur.die s.cur.core { c with dir := c.dir ++ [⟨s.reg s.cur a, s.reg s.cur b, .valid, []⟩] }).finish d 0) := by
  change execDiradd d a b s = _
  rw [execDiradd, State.issueOpen_plain hj hp]
  simp only [List.map_cons, List.map_nil, List.getD_cons_zero, List.getD_cons_succ]
  split
  · rfl
  · split <;> rename_i hl
    · exact congrArg Host.Outcome.next (if_pos hl).symm
    · exact congrArg Host.Outcome.next (if_neg hl).symm

theorem CoreSt.valid_some {c : CoreSt} {key : Word} {e : DirEntry} (he : c.entry key = some e) (hv : e.state = .valid) :
    c.valid key = some e := by
  simp only [CoreSt.valid, he, Option.filter_some, hv, beq_self_eq_true, ↓reduceIte]

theorem CoreSt.valid_none {c : CoreSt} {key : Word} (he : c.entry key = none) : c.valid key = none := by
  simp only [CoreSt.valid, he, Option.filter_none]

section
variable (hp : s.plain [a] [d] = true)
include hp

theorem execDirdel_valid (hj : s.journaled = false) {e : DirEntry} (hv : s.curCore.valid (s.reg s.cur a) = some e) :
    exec (.dirdel d a) s = .next ((s.setCore s.cur.die s.cur.core
      { s.curCore with dir := s.curCore.dir.filter (·.key != s.reg s.cur a) }).finish d 0) := by
  change execDirdel d a s = _
  rw [execDirdel, State.issueOpen_plain hj hp]
  simp only [List.map_cons, List.map_nil, List.getD_cons_zero, hv]
  rfl

theorem execDirdel_none (hj : s.journaled = false) (hv : s.curCore.valid (s.reg s.cur a) = none) :
    exec (.dirdel d a) s = .next (s.finish d 1) := by
  change execDirdel d a s = _
  rw [execDirdel, State.issueOpen_plain hj hp]
  simp only [List.map_cons, List.map_nil, List.getD_cons_zero, hv]
  rfl

theorem execDirfind_valid {e : DirEntry} (hv : s.curCore.valid (s.reg s.cur a) = some e) :
    exec (.dirfind d a) s = .next (s.finish d e.addr) := by
  change execDirfind d a s = _
  rw [execDirfind, s.issue_plain hp]
  simp only [List.map_cons, List.map_nil, List.getD_cons_zero, hv]
  rfl

theorem execDirfind_none (hv : s.curCore.valid (s.reg s.cur a) = none) :
    exec (.dirfind d a) s = .next (s.finish d (-1)) := by
  change execDirfind d a s = _
  rw [execDirfind, s.issue_plain hp]
  simp only [List.map_cons, List.map_nil, List.getD_cons_zero, hv]
  rfl

end

/-! DIRMOVE (R294; 16 R428) -/

section
variable (hp : s.plain [a, b, d] [d] = true) (hj : s.journaled = false) (ho : handleOk (s.reg s.cur b) = true) {c : CoreNo}
  (hc : handleCore (s.reg s.cur b) = some c) {e : DirEntry} (hv : s.curCore.valid (s.reg s.cur a) = some e)
include hp hj ho hc hv

/-- A destination on an absent die, or a retired or failed one, refuses at once. -/
theorem execDirmove_refused (h : let td : Die := (s.reg s.cur b).extractLsb' 58 6
      s.dieThere s.cur.die td = false ∨ (s.core td c).retired = true ∨ (s.core td c).failed = true) :
    exec (.dirmove d a b) s = .next (s.finish d 3) := by
  change execDirmove d a b s = _
  rw [execDirmove, State.issueOpen_plain hj hp]
  simp only [List.map_cons, List.map_nil, List.getD_cons_zero, List.getD_cons_succ, handleFault_of_ok ho hc, hc, hv]
  rw [if_pos (by simpa only [handleDie, Bool.or_eq_true, Bool.not_eq_true', or_assoc] using h)]
  rfl

/-- The entry is INFLIGHT, the move is on the reed, and the slot waits for its answer. -/
theorem execDirmove_moves (ht : s.dieThere s.cur.die ((s.reg s.cur b).extractLsb' 58 6) = true)
    (hr : (s.core ((s.reg s.cur b).extractLsb' 58 6) c).retired = false)
    (hf : (s.core ((s.reg s.cur b).extractLsb' 58 6) c).failed = false) :
    let td : Die := (s.reg s.cur b).extractLsb' 58 6
    let u := s.modCore s.cur.die s.cur.core fun y =>
      y.modEntry (s.reg s.cur a) fun e => { e with state := .inflight td c }
    exec (.dirmove d a b) s = .next (((u.sendReed (.core s.cur.die s.cur.core) (.core td c)
      (.move s.cur (s.reg s.cur a) (if s.reg s.cur d = 0 then e.addr else s.reg s.cur d) e.answered)).modSlot s.cur
        fun y => { y with parkDst := some d }).enter s.cur .waitData (.answer s.nextId)) := by
  intro td u
  change execDirmove d a b s = _
  rw [execDirmove, State.issueOpen_plain hj hp]
  have hn : (!s.dieThere s.cur.die (handleDie (s.reg s.cur b)) || (s.core (handleDie (s.reg s.cur b)) c).retired
      || (s.core (handleDie (s.reg s.cur b)) c).failed) = false := by
    rw [handleDie, ht, hr, hf]; rfl
  simp only [List.map_cons, List.map_nil, List.getD_cons_zero, List.getD_cons_succ, handleFault_of_ok ho hc, hc, hv, hn,
    Bool.false_eq_true, ↓reduceIte]
  rfl

end
end

/-! Arrivals between cores (R294) -/

section
variable {s : State} {q : ReedItem} {d : Die} {c : CoreNo} (hq : s.reedItem s.ev.id = some q) (hr : s.reedReady q = true)
  (hpath : q.path = [.core d c])
include hq hr hpath

theorem State.atReedCore_arrives (k : ReedItem → Die → CoreNo → State) : s.atReedCore k = k q d c := by
  simp only [State.atReedCore, hq, hr, hpath, Bool.not_true, Bool.false_eq_true, ↓reduceIte]

section
variable {i : SlotId} {key addr : Word} {l : List Word} (hm : q.msg = .move i key addr l)
  (hret : (s.core d c).retired = false) (hfail : (s.core d c).failed = false) (hthere : s.dieThere i.die d = true)
include hm hret hfail hthere

/-- What a move does at a core that takes part: it installs its entry or is refused. -/
theorem execMoveArrival_eq : exec .moveArrival s =
    let t := s.dropReed q.id
    let x := s.core d c
    let refuse := fun (n : Word) => t.sendReed (.core d c) (.core i.die i.core) (.refuse i key n)
    .next (if (x.entry key).isSome = true then refuse 4
      else if 64 ≤ x.dir.length then refuse 2
      else (t.setCore d c { x with dir := x.dir ++ [⟨key, addr, .valid, l⟩] }).sendReed (.core d c) (.core i.die i.core)
        (.ack i key)) := by
  change execMoveArrival s = _
  have hdest : q.dest = .core d c := by rw [ReedItem.dest, hpath]; rfl
  have hn : ((s.core d c).retired || (s.core d c).failed || !s.dieThere i.die d) = false := by rw [hret, hfail, hthere]; rfl
  have hn' : (((s.dropReed q.id).core d c).retired || ((s.dropReed q.id).core d c).failed
      || !(s.dropReed q.id).dieThere i.die d) = false := hn
  rw [execMoveArrival, State.atReedCore_arrives hq hr hpath]
  simp only [hm, hdest, hn', Bool.false_eq_true, ↓reduceIte]
  rfl

end

theorem execAckArrival_acks {i : SlotId} {key : Word} (hm : q.msg = .ack i key) : exec .ackArrival s
    = .next (((s.dropReed q.id).modCore d c fun y => y.dropEntry key).answered i 0) := by
  change execAckArrival s = _
  rw [execAckArrival, State.atReedCore_arrives hq hr hpath]
  simp only [hm]

theorem execRefuseArrival_restores {i : SlotId} {key n : Word} (hm : q.msg = .refuse i key n) : exec .refuseArrival s
    = .next (((s.dropReed q.id).modCore d c fun y =>
        y.modEntry key fun e => { e with state := .valid }).answered i n) := by
  change execRefuseArrival s = _
  rw [execRefuseArrival, State.atReedCore_arrives hq hr hpath]
  simp only [hm]

/-! Forwards (R294) -/

section
variable {o : Die × CoreNo} {p : Pending} {back : Bool} (hm : q.msg = .forward o p back)
  (hret : (s.core d c).retired = false) (hfail : (s.core d c).failed = false)
include hm hret hfail

/-- What a forward does at a core that takes part, by the entry of its key. -/
theorem execForwardArrival_eq : exec .forwardArrival s =
    let t := s.dropReed q.id
    .next (match (s.core d c).entry p.key with
      | some e => match e.state with
        | .valid => if e.answered.contains p.census then t.countAnswer p.census none false
            else (t.modCore d c fun y => y.modEntry p.key (·.answer p.census)).addPending d c { p with addr := e.addr }
        | .inflight td tc => t.sendReed (.core d c) (.core td tc) (.forward o p false)
        | .incoming => t
      | none => if back then t.countAnswer p.census none false
          else t.sendReed (.core d c) (.core o.1 o.2) (.forward o p true)) := by
  change execForwardArrival s = _
  have hdest : q.dest = .core d c := by rw [ReedItem.dest, hpath]; rfl
  have hn : ((s.core d c).retired || (s.core d c).failed) = false := by rw [hret, hfail]; rfl
  have hn' : (((s.dropReed q.id).core d c).retired || ((s.dropReed q.id).core d c).failed) = false := hn
  rw [execForwardArrival, State.atReedCore_arrives hq hr hpath]
  simp only [hm, hdest, hn', Bool.false_eq_true, ↓reduceIte]
  rfl

end
end

/-- Settles O21: the instructions on the directory, the move with its answers, and the forward. -/
theorem tilesAndDirectories : Obligations.TilesAndDirectories := by
  unfold Obligations.TilesAndDirectories
  refine ⟨?directory, ?move, ?forward⟩
  case directory =>
    intro s d a b hj i c key
    exact ⟨execDiradd_plain hj, fun hp => ⟨fun e he hv =>
      ⟨execDirdel_valid hp hj (CoreSt.valid_some he hv), execDirfind_valid hp (CoreSt.valid_some he hv)⟩,
      fun he => ⟨execDirdel_none hp hj (CoreSt.valid_none he), execDirfind_none hp (CoreSt.valid_none he)⟩⟩⟩
  case move =>
    intro s d a b e c q i key addr n l at'
    refine ⟨fun hp hj ho hc he hv => ⟨execDirmove_refused hp hj ho hc (CoreSt.valid_some he hv),
      execDirmove_moves hp hj ho hc (CoreSt.valid_some he hv)⟩, fun hq hr hpath => ⟨fun hm hret hfail hthere => ?_,
        execAckArrival_acks hq hr hpath, execRefuseArrival_restores hq hr hpath⟩⟩
    rw [execMoveArrival_eq hq hr hpath hm hret hfail hthere]
    refine ⟨fun hno hroom => ?_, fun hhas => ?_, fun hno hfull => ?_⟩
    · simp only [hno, Option.isSome_none, Bool.false_eq_true, ↓reduceIte, if_neg (Nat.not_le.2 hroom)]
    · simp only [hhas, ↓reduceIte]
    · simp only [hno, Option.isSome_none, Bool.false_eq_true, ↓reduceIte, if_pos hfull]
  case forward =>
    intro s q o p back e td tc at' t x hq hr hpath hm hret hfail
    rw [execForwardArrival_eq hq hr hpath hm hret hfail]
    refine ⟨fun he hv hnew => ?_, fun he hv => ?_, fun he hb => ?_, fun he hb => ?_⟩
    · have hc : e.answered.contains p.census = false := by simpa using hnew
      simp only [x] at he
      simp only [he, hv, hc, Bool.false_eq_true, ↓reduceIte]
      rfl
    · simp only [x] at he
      simp only [he, hv, t]
    · simp only [x] at he
      simp only [he, hb, t, Bool.false_eq_true, ↓reduceIte]
    · simp only [x] at he
      simp only [he, hb, t, ↓reduceIte]

end Sys2Proof.Machine
end

section
/-!
SUPPORT. A census at its core (09 R292, R293; 14 R379; 16 R428): SOLICIT, the instructions that take its result, and the value
that its responders give it.
-/

namespace Sys2Proof.Machine

/-! SOLICIT -/

section
variable {s : State} {x : Scope} {cm : Combine} {d a b : Reg}

/-- The PC of the handler in the second operand of SOLICIT. -/
def State.solicitPc (s : State) (b : Reg) : Word := ((s.reg s.cur b).extractLsb' 0 57).zeroExtend 64

/-- The identifier of the next census of the executing core at an index. -/
def State.solicitIdent (s : State) (k : BitVec 3) : Word :=
  0#16 ++ s.curCore.censusSeq ++ 0#2 ++ s.cur.die ++ 0#10 ++ k ++ s.cur.core

/-- The census that SOLICIT opens. -/
def State.solicited (s : State) (x : Scope) (cm : Combine) (a b : Reg) (k : BitVec 3) : Census where
  idx := k
  ident := s.solicitIdent k
  dom := x
  combine := cm
  key := s.reg s.cur a
  notify := if (s.reg s.cur b).getLsbD 63 then some ((s.reg s.cur b).extractLsb' 58 5) else none
  reported := []
  owed := 0
  answered := 0
  lost := 0
  value := none
  complete := false

/-- The state with the census open and its solicit on the reed. -/
def State.openCensus (s : State) (x : Scope) (cm : Combine) (a b : Reg) (k : BitVec 3) : State :=
  let i := s.cur
  let me := s.slot i
  let t := s.setCore i.die i.core
    { s.curCore with
      censuses := s.curCore.censuses ++ [s.solicited x cm a b k]
      censusSeq := s.curCore.censusSeq + 1 }
  t.putReed (.core i.die i.core) (t.reedPath (.core i.die i.core) (t.domainTop x (i.die, i.core)))
    (.solicit ⟨s.solicitIdent k, s.reg i a, 0, s.solicitPc b, me.frm, me.wlim, me.dom, false⟩ x) (some (i, me.inc))

theorem State.finish_reed (s : State) (d : Reg) (v : Word) : (s.finish d v).reed = s.reed :=
  (congrArg State.reed (s.finish_only (r := d) v) :)

section
variable (hj : s.journaled = false) (hp : s.plain [a, b] [d] = true)
include hj hp

theorem execSolicit_misaligned (h : (s.solicitPc b).toNat % 4 ≠ 0) : exec (.solicit x cm d a b) s
    = .next (s.takeTrap s.cur 0x20 2 (s.slot s.cur).pc s.word (s.solicitPc b) 0) := by
  change execSolicit x cm d a b s = _
  rw [execSolicit, State.issueOpen_plain hj hp]
  exact (congrArg s.perform (if_pos (bne_iff_ne.2 h))).trans (s.perform_trap ..)

theorem execSolicit_waits (h : (s.solicitPc b).toNat % 4 = 0) (hk : s.curCore.freeCensus = none) :
    exec (.solicit x cm d a b) s = .next (s.waitData s.cur) := by
  change execSolicit x cm d a b s = _
  rw [execSolicit, State.issueOpen_plain hj hp]
  refine congrArg s.perform (a₂ := .wait) ((if_neg (Bool.not_eq_true _ ▸ bne_eq_false_iff_eq.2 h)).trans ?_)
  simp only [hk]

theorem execSolicit_opens {k : BitVec 3} (h : (s.solicitPc b).toNat % 4 = 0) (hk : s.curCore.freeCensus = some k) :
    exec (.solicit x cm d a b) s = .next ((s.openCensus x cm a b k).finish d (s.solicitIdent k)) := by
  change execSolicit x cm d a b s = _
  rw [execSolicit, State.issueOpen_plain hj hp]
  refine congrArg s.perform (a₂ := .go ((s.openCensus x cm a b k).finish d (s.solicitIdent k)))
    ((if_neg (Bool.not_eq_true _ ▸ bne_eq_false_iff_eq.2 h)).trans ?_)
  simp only [hk]
  rfl

end

theorem State.openCensus_core (k : BitVec 3) : (s.openCensus x cm a b k).core s.cur.die s.cur.core
    = { s.curCore with
        censuses := s.curCore.censuses ++ [s.solicited x cm a b k]
        censusSeq := s.curCore.censusSeq + 1 } := State.setCore_self ..

theorem State.openCensus_reed (k : BitVec 3) : (s.openCensus x cm a b k).reed.length = s.reed.length + 1 :=
  List.length_append

end

/-! CWAIT, CPOLL and CRESULT -/

theorem exec_cwait (d a : Reg) (s : State) :
    exec (.cwait d a) s = withCensus true d a (fun x t => .go (t.finish d x.counts)) s := rfl

theorem exec_cpoll (d a : Reg) (s : State) : exec (.cpoll d a) s = withCensus false d a (fun _ t => .go (t.finish d 1)) s := rfl

theorem exec_cresult (d a : Reg) (s : State) : exec (.cresult d a) s = withCensus true d a (fun x t =>
    .go ((t.modCore t.cur.die t.cur.core fun c => { c with censuses := c.censuses.filter (·.ident != x.ident) }).finish d
      (x.result (Config.freeWord t.tick)))) s := rfl

section
variable {s : State} {d a : Reg} (hp : s.plain [a] [d] = true)
include hp

theorem withCensus_none (h : s.ownCensus (s.reg s.cur a) = none) (park : Bool) (k : Census → State → Act) :
    withCensus park d a k s = .next (s.takeTrap s.cur 0x0c 0 (s.slot s.cur).pc s.word (s.reg s.cur a) 0) := by
  rw [withCensus, s.issue_plain hp]
  simp only [List.map_cons, List.map_nil, List.getD_cons_zero, h]
  exact s.perform_trap ..

theorem withCensus_complete {r : Census} (h : s.ownCensus (s.reg s.cur a) = some r) (hc : r.complete = true)
    (park : Bool) (k : Census → State → Act) : withCensus park d a k s = s.perform (k r (s.acquired r.dom)) := by
  rw [withCensus, s.issue_plain hp]
  simp only [List.map_cons, List.map_nil, List.getD_cons_zero, h, hc, ↓reduceIte]

theorem withCensus_open {r : Census} (h : s.ownCensus (s.reg s.cur a) = some r) (hc : r.complete = false)
    (park : Bool) (k : Census → State → Act) : withCensus park d a k s
      = .next (if park then (s.modSlot s.cur fun y => { y with parkKey := s.reg s.cur a }).enter s.cur .parkCensus .retry
          else s.finish d 0) := by
  rw [withCensus, s.issue_plain hp]
  simp only [List.map_cons, List.map_nil, List.getD_cons_zero, h, hc, Bool.false_eq_true, ↓reduceIte]
  cases park <;> rfl

end

/-! The value of a census (R292) -/

section
variable {r : Census} (v free : Word)

theorem Census.result_sum (h : r.combine = .sum) :
    { r with value := r.combined v }.result free = r.value.getD 0 + v := by
  simp only [Census.result, Census.combined, h, Option.getD_some]

/-- The lesser of two numbers is the lesser as signed integers. -/
theorem toInt_slt_min (v w : Word) : (if v.slt w then v else w).toInt = min w.toInt v.toInt := by
  split <;> rename_i h <;> rw [BitVec.slt_iff_toInt_lt] at h <;> omega

theorem toInt_slt_max (v w : Word) : (if w.slt v then v else w).toInt = max w.toInt v.toInt := by
  split <;> rename_i h <;> rw [BitVec.slt_iff_toInt_lt] at h <;> omega

theorem toInt_maxWord : (0x7fffffffffffffff : Word).toInt = 2 ^ 63 - 1 := by decide

theorem toInt_minWord : (0x8000000000000000 : Word).toInt = -2 ^ 63 := by decide

theorem Census.result_min (h : r.combine = .min) :
    ({ r with value := r.combined v }.result free).toInt = min (r.result free).toInt v.toInt := by
  have hle : v.toInt < 2 ^ 63 := BitVec.toInt_lt
  cases hv : r.value with
  | none =>
    simp only [Census.result, Census.combined, h, hv, Option.getD_some, Option.getD_none, toInt_maxWord]
    omega
  | some w =>
    simp only [Census.result, Census.combined, h, hv, Option.getD_some]
    exact toInt_slt_min v w

theorem Census.result_max (h : r.combine = .max) :
    ({ r with value := r.combined v }.result free).toInt = max (r.result free).toInt v.toInt := by
  have hge : -2 ^ 63 ≤ v.toInt := BitVec.le_toInt v
  cases hv : r.value with
  | none =>
    simp only [Census.result, Census.combined, h, hv, Option.getD_some, Option.getD_none, toInt_minWord]
    omega
  | some w =>
    simp only [Census.result, Census.combined, h, hv, Option.getD_some]
    exact toInt_slt_max v w

theorem Census.result_noValue (h : r.value = none) :
    (r.combine = .sum → r.result free = 0)
      ∧ (r.combine = .min → (r.result free).toInt = 2 ^ 63 - 1) ∧ (r.combine = .max → (r.result free).toInt = -2 ^ 63) := by
  refine ⟨fun hc => ?_, fun hc => ?_, fun hc => ?_⟩ <;> simp only [Census.result, hc, h, Option.getD_none]
  · exact toInt_maxWord
  · exact toInt_minWord

end

/-- Settles O22: each census instruction in the cases of its handler's PC, of the free index and of the census that its operand
names; the value of a census by its combine. -/
theorem censusInstructionsAndValues : Obligations.CensusInstructionsAndValues := by
  unfold Obligations.CensusInstructionsAndValues
  refine ⟨?instructions, fun r v free =>
    ⟨Census.result_sum v free, Census.result_min v free, Census.result_max v free, Census.result_noValue free⟩⟩
  case instructions =>
    intro s x cm d a b k r i me c v w pc ident
    refine ⟨fun hp hj => ⟨execSolicit_misaligned hj hp, execSolicit_waits hj hp, fun hpc hk hd => ?opens⟩,
      fun hp => ?takes⟩
    case opens =>
      let u := s.openCensus x cm a b k
      have hcore := (u.finish_core d ident i.die i.core).trans (State.openCensus_core k)
      refine ⟨u.finish d ident, s.solicited x cm a b k, execSolicit_opens hj hp hpc hk, ?_, rfl, rfl, rfl, rfl, rfl, rfl, rfl,
        rfl, ?_, ?_, fun h0 => u.finish_g hd h0 ident, (u.finish_slot_frame d ident).1, u.finish_mem d ident⟩
      · rw [hcore]
      · rw [hcore]
      · rw [u.finish_reed]
        exact State.openCensus_reed k
    case takes =>
      intro inval
      rw [exec_cwait, exec_cpoll, exec_cresult]
      refine ⟨fun h => ?unknown, fun h hc => ?complete, fun h hc => ?incomplete⟩
      case unknown =>
        rw [withCensus_none hp h, withCensus_none hp h, withCensus_none hp h]
        exact ⟨rfl, rfl, rfl⟩
      case complete =>
        have hinval : inval s = s.acquired r.dom := (s.acquired_eq_ite r.dom).symm
        have htick : (s.acquired r.dom).tick = s.tick := by cases r.dom <;> rfl
        rw [withCensus_complete hp h hc, withCensus_complete hp h hc, withCensus_complete hp h hc, hinval, htick,
          s.acquired_cur r.dom]
        exact ⟨rfl, rfl, rfl⟩
      case incomplete =>
        rw [withCensus_open hp h hc, withCensus_open hp h hc, withCensus_open hp h hc]
        exact ⟨rfl, rfl, rfl⟩

end Sys2Proof.Machine
end

section
/-!
SUPPORT. A census over its domain (09 R292 to R294; 16 R428): the solicit at a leaf and at a skein's node, the start of a
responder, and the completion.
-/

namespace Sys2Proof.Machine

/-! SOLICIT_ARRIVAL -/

section
variable {s : State} {q : ReedItem} {p : Pending} {dom : Scope} (hq : s.reedItem s.ev.id = some q)
  (hm : q.msg = .solicit p dom)
include hq hm

section
variable (hr : s.reedReady q = true)
include hr

theorem execSolicitArrival_shed {d : Die} {h : ShedNo} (hpath : q.path = [.shed d h]) :
    exec .solicitArrival s = .next ((s.dropReed q.id).report p.census (131072 + d.toNat * 512 + h.toNat) 0) := by
  change execSolicitArrival s = _
  simp only [execSolicitArrival, hq, hm, hr, hpath, Bool.not_true, Bool.false_eq_true, ↓reduceIte]
  rfl

section
variable {d : Die} {c : CoreNo} (hpath : q.path = [.core d c])
include hpath

theorem execSolicitArrival_noEntry (he : (s.core d c).entry p.key = none) :
    exec .solicitArrival s = .next ((s.dropReed q.id).report p.census (coreKey d c) 0) := by
  change execSolicitArrival s = _
  have he' : ((s.dropReed q.id).core d c).entry p.key = none := he
  simp only [execSolicitArrival, hq, hm, hr, hpath, he', Bool.not_true, Bool.false_eq_true, ↓reduceIte]

variable {e : DirEntry} (he : (s.core d c).entry p.key = some e) (hret : (s.core d c).retired = false)
  (hfail : (s.core d c).failed = false)
include he hret hfail

/-- A solicit finds the entry of its key at a core that takes part. -/
theorem execSolicitArrival_entry : exec .solicitArrival s
    = .next (((s.dropReed q.id).solicitEntry d c p e).1.report p.census (coreKey d c)
        ((s.dropReed q.id).solicitEntry d c p e).2) := by
  change execSolicitArrival s = _
  have he' : ((s.dropReed q.id).core d c).entry p.key = some e := he
  have hin : (((s.dropReed q.id).core d c).retired || ((s.dropReed q.id).core d c).failed) = false :=
    Bool.or_eq_false_iff.2 ⟨hret, hfail⟩
  simp only [execSolicitArrival, hq, hm, hr, hpath, he', hin, Bool.not_true, Bool.false_eq_true, ↓reduceIte]

end

end

/-- At a node above the leaves a solicit goes on to each node below it. -/
theorem execSolicitArrival_below {d : Die} {k : BitVec 7} (hf : s.reedFirst q = true) (hpath : q.path = [.skein d k]) :
    exec .solicitArrival s = .next (((s.dropReed q.id).reedBelow dom (.skein d k)).foldl
      (fun t m => t.putReed (.skein d k) [m] q.msg none) (s.dropReed q.id)) := by
  change execSolicitArrival s = _
  have hr : s.reedReady q = true := by simp [State.reedReady, hf, hpath]
  simp only [execSolicitArrival, hq, hm, hr, hpath, State.reedHop, hf, Bool.not_true, Bool.false_eq_true, ↓reduceIte]

end

theorem State.solicitEntry_new (s : State) (d : Die) (c : CoreNo) {p : Pending} {e : DirEntry} (hv : e.state = .valid)
    (hn : p.census ∉ e.answered) : s.solicitEntry d c p e
      = ((s.modCore d c fun y => y.modEntry p.key (·.answer p.census)).modCore d c fun y =>
          { y with pending := y.pending ++ [{ p with addr := e.addr }] }, 1) := by
  have hc : e.answered.contains p.census = false := by simpa using hn
  simp only [State.solicitEntry, hv, hc, Bool.false_eq_true, ↓reduceIte]
  rfl

theorem State.solicitEntry_answered (s : State) (d : Die) (c : CoreNo) {p : Pending} {e : DirEntry} (hv : e.state = .valid)
    (hn : p.census ∈ e.answered) : s.solicitEntry d c p e = (s, 0) := by
  simp only [State.solicitEntry, hv, List.contains_iff_mem.2 hn, ↓reduceIte]

/-- Copies of a message put on the reed one after the other leave the rest of the state. -/
theorem State.putReed_foldl (here : ReedNode) (m : ReedMsg) (l : List ReedNode) (s : State) :
    let u := l.foldl (fun t n => t.putReed here [n] m none) s
    u.cores = s.cores ∧ u.slots = s.slots ∧ u.mem = s.mem
      ∧ u.reed.map (fun r => (r.here, r.path)) = s.reed.map (fun r => (r.here, r.path)) ++ l.map fun n => (here, [n]) := by
  induction l generalizing s with
  | nil => exact ⟨rfl, rfl, rfl, by simp⟩
  | cons n l ih =>
    obtain ⟨hc, hs, hm, hr⟩ := ih (s.putReed here [n] m none)
    refine ⟨hc, hs, hm, hr.trans ?_⟩
    simp [State.putReed]

/-! RESPONDER_START -/

section
variable {s : State} {p : Pending} {rest : List Pending} {n : SlotNo}

/-- The state with the oldest responder owed at a core started in a slot of it. -/
def State.startResponder (s : State) (p : Pending) (rest : List Pending) (i : SlotId) : State :=
  ((s.modCore i.die i.core fun x => { x with pending := rest }).startThread i p.pc p.addr ⟨p.frm, p.wlim, p.dom, p.jnl⟩).modSlot i
    fun x => { (x.setG 2 p.key).setG 3 p.census with role := .responder p.census false }

theorem execResponderStart_starts (hp : (s.core s.ev.die s.ev.core).pending = p :: rest)
    (hn : s.freeSlot s.ev.die s.ev.core = some n) :
    exec .responderStart s = .next (s.startResponder p rest ⟨s.ev.die, s.ev.core, n⟩) := by
  change execResponderStart s = _
  simp only [execResponderStart, hp, hn]
  rfl

theorem State.startResponder_slot (i : SlotId) : ∃ clk, (s.startResponder p rest i).slot i
    = { (((newThread i (s.slot i) clk p.pc ⟨p.frm, p.wlim, p.dom, p.jnl⟩).setG 1 p.addr).setG 2 p.key).setG 3 p.census with
        role := .responder p.census false } := by
  refine ⟨(s.modCore i.die i.core fun x => { x with pending := rest }).coreClock i.die i.core, ?_⟩
  rw [State.startResponder, State.modSlot_self, State.startThread_slot]
  rfl

theorem State.startResponder_core (i : SlotId) : (s.startResponder p rest i).core i.die i.core
    = { s.core i.die i.core with pending := rest, l1d := [] } := by
  rw [State.startResponder, State.modSlot_core, State.startThread, State.modCore_self, State.setSlot_core, State.modCore_self]

theorem State.startResponder_mem (i : SlotId) : (s.startResponder p rest i).mem = s.mem := by
  rw [State.startResponder, State.modSlot_mem, State.startThread, State.modCore_mem, State.setSlot_mem, State.modCore_mem]

end

/-! CENSUS_COMPLETE -/

section
variable {s : State} {r : Census}
  (hr : (s.core s.ev.die s.ev.core).censuses.find? (fun x => x.idx.toNat == s.ev.unit) = some r)
include hr

theorem execCensusComplete_owed (h : r.answered ≠ r.owed) : exec .censusComplete s = .next s := by
  change execCensusComplete s = _
  simp only [execCensusComplete, hr, bne_iff_ne.2 h, Bool.or_true, Bool.true_or, ↓reduceIte]

variable (hc : r.complete = false) (ha : r.answered = r.owed)
  (hk : ∀ k ∈ s.domainLeaves r.dom (s.ev.die, s.ev.core), k ∈ r.reported) (hl : r.lost = 0)
include hc ha hk hl

theorem execCensusComplete_wakes (hn : r.notify = none) : exec .censusComplete s
    = .next (((s.modCensus r.ident fun y => { y with complete := true }).censusWaiters r.ident).foldl (fun t i => t.wake i)
        (s.modCensus r.ident fun y => { y with complete := true })) := by
  change execCensusComplete s = _
  have hall : ((s.domainLeaves r.dom (s.ev.die, s.ev.core)).all fun k => r.reported.contains k) = true := by simpa using hk
  simp only [execCensusComplete, hr, hc, bne_eq_false_iff_eq.2 ha, hall, hl, hn, Bool.not_true, Bool.or_self,
    Bool.false_eq_true, ↓reduceIte]

theorem execCensusComplete_notifies {b : BitVec 5} (hn : r.notify = some b) : exec .censusComplete s
    = .next ((s.modCore s.ev.die s.ev.core fun y => { y with censuses := y.censuses.filter (·.ident != r.ident) }).send
        (.mail (engineMail s.ev.die noticeUnit s.ev.die s.ev.core b
          [r.ident, r.counts, r.result (Config.freeWord s.tick)] r.dom))) := by
  change execCensusComplete s = _
  have hall : ((s.domainLeaves r.dom (s.ev.die, s.ev.core)).all fun k => r.reported.contains k) = true := by simpa using hk
  simp only [execCensusComplete, hr, hc, bne_eq_false_iff_eq.2 ha, hall, hl, hn, Bool.not_true, Bool.or_self,
    Bool.false_eq_true, ↓reduceIte]

end

/-- Settles O23: the solicit at a core, a shed and a skein's node, the responder it owes, and the two ways of a completion. -/
theorem censusesRun : Obligations.CensusesRun := by
  unfold Obligations.CensusesRun
  refine ⟨?solicit, ?complete⟩
  case complete =>
    intro s r b d c hr hc
    exact ⟨execCensusComplete_owed hr, fun ha hk hl => ⟨execCensusComplete_wakes hr hc ha hk hl,
      fun hn => ⟨_, execCensusComplete_notifies hr hc ha hk hl hn, rfl, rfl, rfl, rfl⟩⟩⟩
  case solicit =>
    intro s q p dom e rest n d c k h x
    refine ⟨fun hq hm => ⟨fun hr hpath => ⟨execSolicitArrival_noEntry hq hm hr hpath, ?_, ?_⟩,
      fun hr hpath => execSolicitArrival_shed hq hm hr hpath, fun hf hpath => ⟨_, execSolicitArrival_below hq hm hf hpath, ?_⟩⟩, ?starts⟩
    · intro he hret hfail hv hnew
      rw [execSolicitArrival_entry hq hm hr hpath he hret hfail, State.solicitEntry_new _ d c hv hnew]
    · intro he hret hfail hv hold
      rw [execSolicitArrival_entry hq hm hr hpath he hret hfail, State.solicitEntry_answered _ d c hv hold]
    · have h := State.putReed_foldl (.skein d k) q.msg ((s.dropReed q.id).reedBelow dom (.skein d k)) (s.dropReed q.id)
      obtain ⟨hcores, hslots, hmem, hreed⟩ := h
      refine ⟨hcores, hslots, hmem, hreed.trans ?_⟩
      simp [State.reedBelow, Function.comp_def]
    case starts =>
      intro hd hc hp hn
      subst hd hc
      obtain ⟨clk, hslot⟩ := State.startResponder_slot (s := s) (p := p) (rest := rest) ⟨s.ev.die, s.ev.core, n⟩
      refine ⟨_, execResponderStart_starts hp hn, congrArg CoreSt.pending (State.startResponder_core _), ?_⟩
      rw [hslot]
      refine ⟨by simp [newThread], by simp [newThread], ?_, ?_, SlotSt.g_setG_self _ (by decide) _, rfl,
        State.startResponder_mem _⟩
      · exact (SlotSt.g_setG_ne _ (by decide) _).trans
          ((SlotSt.g_setG_ne _ (by decide) _).trans (SlotSt.g_setG_self _ (by decide) _))
      · exact (SlotSt.g_setG_ne _ (by decide) _).trans (SlotSt.g_setG_self _ (by decide) _)

end Sys2Proof.Machine
end

section
/-!
SUPPORT. Barriers (09 R289, R290; 16 R420): the access each instruction starts at its object, and what an arrival leaves there.
-/

namespace Sys2Proof.Machine

/-! The instructions -/

section
variable {s : State} {srcs : List Reg} {d : Reg}

theorem barrierAccess_plain (hp : s.plain srcs [d] = true) (op : MemOp) (x : Scope) (acq rel : Bool) :
    let v := srcs.map (s.reg s.cur)
    barrierAccess op x acq rel srcs d s = s.startOrTrap (v.getD 0 0) 4
      { s.newAccess s.cur op x acq rel (v.getD 0 0) with data := v.getD 1 0, dst := d } := by
  rw [barrierAccess, s.issue_plain hp]
  exact s.perform_addressFault ..

/-- An aligned object: the access is on its way. -/
theorem barrierAccess_starts (hp : s.plain srcs [d] = true) (op : MemOp) (x : Scope) (acq rel : Bool)
    (ha : ((srcs.map (s.reg s.cur)).getD 0 0).toNat % 2 ^ 4 = 0) (hv : ((srcs.map (s.reg s.cur)).getD 0 0).toNat < 2 ^ 57) :
    let v := srcs.map (s.reg s.cur)
    barrierAccess op x acq rel srcs d s
      = .next (s.startAccess { s.newAccess s.cur op x acq rel (v.getD 0 0) with data := v.getD 1 0, dst := d }) := by
  rw [barrierAccess_plain hp]
  exact State.startOrTrap_starts _ ha hv

/-- An access of a kind that its thread does not wait for. -/
theorem State.startAccess_goesOn (s : State) {q : Access} (h : parks q.op = false) :
    s.startAccess q = { s with accs := s.accs ++ [q], nextId := s.nextId + 1 }.advance := by
  simp only [State.startAccess, h, Bool.false_eq_true, ↓reduceIte]
  rfl

theorem State.startAccess_waits (s : State) {q : Access} (h : parks q.op = true) :
    s.startAccess q = { s with accs := s.accs ++ [q], nextId := s.nextId + 1 }.enter s.cur .waitData (.access q.id) := by
  simp only [State.startAccess, h, ↓reduceIte]
  rfl

end

/-- No arrival in a journaled slot (16 R420). -/
theorem exec_arrivals_journaled {s : State} (hj : s.journaled = true) (x : Scope) (d a : Reg) {i : Instr}
    (hi : i ∈ [.arriveRlx d a, .arriveRel x d a, .arrwait x d a]) :
    exec i s = .next (s.takeTrap s.cur 0x45 0 (s.slot s.cur).pc s.word 0 0) := by
  simp only [List.mem_cons, List.not_mem_nil, or_false] at hi
  obtain rfl | rfl | rfl := hi
  · exact if_pos hj
  · exact if_pos hj
  · exact if_pos hj

/-! The object -/

section
variable {s : State} {key : Byte} {pa : Nat}

/-- A second write to the home, at a place without encryption. -/
theorem State.writeHome_afterWrite (h : (s.keySlot key pa).xts = false) (m : Tbl Byte) (n : Nat) (v : Word) :
    State.writeHome { s with mem := m } key pa n v = { s with mem := writeRaw pa (bytesOfWord n v) m } :=
  State.writeHome_bypass { s with mem := m } h n v

/-- The arrival that makes the count reach the target. -/
theorem State.arriveAt_last (hx : (s.keySlot key pa).xts = false) (hy : (s.keySlot key (pa + 8)).xts = false)
    (h : ((s.readHome key pa 8).extractLsb' 0 32).toNat
      ≤ ((s.readHome key (pa + 8) 4).extractLsb' 0 32 + 1 : BitVec 32).toNat) :
    s.arriveAt key pa = ({ s with mem := writeRaw (pa + 8) (bytesOfWord 8 0) (writeRaw pa
        (bytesOfWord 8 (((s.readHome key pa 8).extractLsb' 32 32 + 1) ++ (s.readHome key pa 8).extractLsb' 0 32)) s.mem) },
      (s.readHome key pa 8).extractLsb' 32 32, true) := by
  rw [State.arriveAt, if_pos h, s.writeHome_bypass hx, State.writeHome_afterWrite hy]

theorem State.arriveAt_early (hy : (s.keySlot key (pa + 8)).xts = false)
    (h : ((s.readHome key (pa + 8) 4).extractLsb' 0 32 + 1 : BitVec 32).toNat
      < ((s.readHome key pa 8).extractLsb' 0 32).toNat) :
    s.arriveAt key pa = ({ s with
        mem := writeRaw (pa + 8)
          (bytesOfWord 8 (((s.readHome key (pa + 8) 4).extractLsb' 0 32 + 1 : BitVec 32).zeroExtend 64)) s.mem },
      (s.readHome key pa 8).extractLsb' 32 32, false) := by
  rw [State.arriveAt, if_neg (Nat.not_le.2 h), s.writeHome_bypass hy]

end

theorem phaseDone_iff (ph n : BitVec 32) : phaseDone ph n = true ↔ 1 ≤ (ph - n).toNat ∧ (ph - n).toNat ≤ 2 ^ 31 := by
  simp only [phaseDone, Bool.and_eq_true, decide_eq_true_eq]

/-- Settles O24: each barrier instruction in its cases, then an arrival below and at the target. -/
theorem barriers : Obligations.Barriers := by
  unfold Obligations.Barriers
  refine ⟨?instructions, ?arrival⟩
  case instructions =>
    intro s x d a b i me va acc put goesOn waits
    refine ⟨fun ha hv => ⟨fun hp hj => ⟨?_, ?_, ?_⟩, fun hp => ?_⟩, fun ha _ hp => ?_, fun hj => ?_⟩
    · exact (if_neg (Bool.not_eq_true _ ▸ hj)).trans ((barrierAccess_starts hp .arrive .s false false ha hv).trans
        (congrArg _ (s.startAccess_goesOn rfl)))
    · exact (if_neg (Bool.not_eq_true _ ▸ hj)).trans ((barrierAccess_starts hp .arrive x false true ha hv).trans
        (congrArg _ (s.startAccess_goesOn rfl)))
    · exact (if_neg (Bool.not_eq_true _ ▸ hj)).trans ((barrierAccess_starts hp .arriveWait x true true ha hv).trans
        (congrArg _ (s.startAccess_waits rfl)))
    · exact (barrierAccess_starts hp .waitPhase x true false ha hv).trans (congrArg _ (s.startAccess_waits rfl))
    · exact (barrierAccess_plain hp .waitPhase x true false).trans (State.startOrTrap_unaligned _ ha)
    · exact ⟨exec_arrivals_journaled hj x d a (by simp), exec_arrivals_journaled hj x d a (by simp),
        exec_arrivals_journaled hj x d a (by simp)⟩
  case arrival =>
    intro s key pa ph n hx hy target phase count r
    refine ⟨?_, fun h => ?_, fun h => ?_, phaseDone_iff ph n⟩
    · by_cases h : target.toNat ≤ count.toNat
      · exact congrArg (·.2.1) (State.arriveAt_last hx hy h)
      · exact congrArg (·.2.1) (State.arriveAt_early hy (Nat.not_le.1 h))
    · exact ⟨congrArg (·.2.2) (State.arriveAt_last hx hy h), congrArg (·.1.mem) (State.arriveAt_last hx hy h)⟩
    · exact ⟨congrArg (·.2.2) (State.arriveAt_early hy h), congrArg (·.1.mem) (State.arriveAt_early hy h)⟩

end Sys2Proof.Machine
end

section
/-!
SUPPORT. The draft's instructions and ROUTE (09 R311, R312; 10 R329; 16 R432), in the cases of the engine's readiness, of the version
asked for and of the route's row.
-/

namespace Sys2Proof.Machine

variable {s : State} {d a b : Reg}

theorem State.withHeddle_ready (h : s.unitUp s.cur.die readyHeddle = true) (x : Act) : s.withHeddle x = x := if_pos h

theorem State.withHeddle_waits (h : s.unitUp s.cur.die readyHeddle = false) (x : Act) : s.withHeddle x = .wait :=
  if_neg (Bool.not_eq_true _ ▸ h)

/-! The engine is not ready -/

section
variable (hu : s.unitUp s.cur.die readyHeddle = false)
include hu

theorem execDraftget_waits (hp : s.plain [a, b] [d] = true) : exec (.draftget d a b) s = .next (s.waitData s.cur) := by
  change execDraftget d a b s = _
  rw [execDraftget, s.issue_plain hp]
  exact congrArg s.perform (State.withHeddle_waits hu _)

theorem execDraftpin_waits (hp : s.plain [] [d] = true) : exec (.draftpin d) s = .next (s.waitData s.cur) := by
  change execDraftpin d s = _
  rw [execDraftpin, s.issue_plain hp]
  exact congrArg s.perform (State.withHeddle_waits hu _)

theorem execDraftunpin_waits (hp : s.plain [a] [] = true) : exec (.draftunpin a) s = .next (s.waitData s.cur) := by
  change execDraftunpin a s = _
  rw [execDraftunpin, s.issue_plain hp]
  exact congrArg s.perform (State.withHeddle_waits hu _)

end

section
variable (hu : s.unitUp s.cur.die readyHeddle = true)
include hu

/-! DRAFTGET -/

section
variable (hp : s.plain [a, b] [d] = true)
include hp

/-- DRAFTGET of an engine that is ready: CUR's entry, a live version's entry, or the trap. -/
theorem execDraftget_ready : exec (.draftget d a b) s =
    let w := s.reg s.cur a
    let v := s.reg s.cur b
    let y := s.die s.cur.die
    s.perform (if !v.getLsbD 16 then .go (s.finish d (y.curEntry (expertOf w)))
      else if !y.live (v.extractLsb' 0 16) then .trap 0x47 2 w v
      else .go (s.finish d (y.versionEntry (v.extractLsb' 0 16) (expertOf w)))) := by
  change execDraftget d a b s = _
  rw [execDraftget, s.issue_plain hp, State.withHeddle_ready hu]
  rfl

theorem execDraftget_cur (h : (s.reg s.cur b).getLsbD 16 = false
      ∨ (s.reg s.cur b).extractLsb' 0 16 = (s.die s.cur.die).heddle.cur) :
    exec (.draftget d a b) s = .next (s.finish d
      (tblGet 0 (expertOf (s.reg s.cur a)).toNat (s.die s.cur.die).heddle.curs)) := by
  rw [execDraftget_ready hu hp]
  by_cases hb : (s.reg s.cur b).getLsbD 16 = false
  · simp only [hb, Bool.not_false, ↓reduceIte]
    rfl
  · have hv := h.resolve_left hb
    simp only [Bool.not_eq_false _ ▸ hb, DieSt.live, DieSt.versionEntry, hv, beq_self_eq_true, Bool.true_or, Bool.not_true,
      Bool.false_eq_true, ↓reduceIte]
    rfl

variable (hb : (s.reg s.cur b).getLsbD 16 = true)
  (hc : (s.reg s.cur b).extractLsb' 0 16 ≠ (s.die s.cur.die).heddle.cur)
include hb hc

theorem execDraftget_other (ho : (s.die s.cur.die).heddle.ost ≠ 0)
    (hv : (s.reg s.cur b).extractLsb' 0 16 = (s.die s.cur.die).heddle.other) :
    exec (.draftget d a b) s = .next (s.finish d
      (tblGet 0 (expertOf (s.reg s.cur a)).toNat (s.die s.cur.die).heddle.oths)) := by
  rw [execDraftget_ready hu hp]
  have hlive : (s.die s.cur.die).live ((s.reg s.cur b).extractLsb' 0 16) = true := by
    simp only [DieSt.live, hv, bne_iff_ne.2 ho, beq_self_eq_true, Bool.and_self, Bool.or_true]
  simp only [hb, hlive, DieSt.versionEntry, DieSt.otherEntry, if_neg hc, if_pos hv, if_neg ho, Bool.not_true,
    Bool.false_eq_true, ↓reduceIte]
  rfl

theorem execDraftget_notLive (h : (s.die s.cur.die).heddle.ost = 0
      ∨ (s.reg s.cur b).extractLsb' 0 16 ≠ (s.die s.cur.die).heddle.other) : exec (.draftget d a b) s
    = .next (s.takeTrap s.cur 0x47 2 (s.slot s.cur).pc s.word (s.reg s.cur a) (s.reg s.cur b)) := by
  rw [execDraftget_ready hu hp]
  have hlive : (s.die s.cur.die).live ((s.reg s.cur b).extractLsb' 0 16) = false := by
    rw [DieSt.live, beq_eq_false_iff_ne.2 hc, Bool.false_or, Bool.and_eq_false_iff, bne_eq_false_iff_eq, beq_eq_false_iff_ne]
    exact h
  simp only [hb, hlive, Bool.not_true, Bool.not_false, Bool.false_eq_true, ↓reduceIte]
  exact s.perform_trap ..

end

/-! DRAFTPIN and DRAFTUNPIN -/

section
variable (hp : s.plain [] [d] = true)
include hp

theorem execDraftpin_pins (hn : (s.slot s.cur).pinned = none) : exec (.draftpin d) s
    = .next ((s.modSlot s.cur fun x => { x with pinned := some (s.die s.cur.die).heddle.cur }).finish d
        (0#48 ++ (s.die s.cur.die).heddle.cur)) := by
  change execDraftpin d s = _
  rw [execDraftpin, s.issue_plain hp, State.withHeddle_ready hu, hn,
    ← zeroExtend_eq_append (m := 48) (s.die s.cur.die).heddle.cur]
  rfl

theorem execDraftpin_pinned (hn : (s.slot s.cur).pinned ≠ none) : exec (.draftpin d) s
    = .next (s.takeTrap s.cur 0x47 0 (s.slot s.cur).pc s.word 0 0) := by
  change execDraftpin d s = _
  rw [execDraftpin, s.issue_plain hp, State.withHeddle_ready hu, if_pos (Option.isSome_iff_ne_none.2 hn)]
  exact s.perform_trap ..

end

section
variable (hp : s.plain [a] [] = true)
include hp

theorem execDraftunpin_unpins (hv : (s.slot s.cur).pinned = some ((s.reg s.cur a).extractLsb' 0 16)) :
    exec (.draftunpin a) s = .next (s.modSlot s.cur fun x => { x with pinned := none }).advance := by
  change execDraftunpin a s = _
  rw [execDraftunpin, s.issue_plain hp, State.withHeddle_ready hu]
  simp only [List.map_cons, List.map_nil, List.getD_cons_zero, hv, bne_self_eq_false, Bool.false_eq_true, ↓reduceIte]
  rfl

theorem execDraftunpin_other (hv : (s.slot s.cur).pinned ≠ some ((s.reg s.cur a).extractLsb' 0 16)) :
    exec (.draftunpin a) s = .next (s.takeTrap s.cur 0x47 1 (s.slot s.cur).pc s.word (s.reg s.cur a) 0) := by
  change execDraftunpin a s = _
  rw [execDraftunpin, s.issue_plain hp, State.withHeddle_ready hu]
  simp only [List.map_cons, List.map_nil, List.getD_cons_zero, bne_iff_ne.2 hv, ↓reduceIte]
  exact s.perform_trap ..

end

end

/-! ROUTE -/

/-- The instruction of either class. -/
def routeInstr (esc : Bool) (d a b : Reg) : Instr := if esc then .routeEsc d a b else .route d a b

theorem exec_routeInstr (esc : Bool) (d a b : Reg) (s : State) : exec (routeInstr esc d a b) s = routeTo esc d a b s := by
  cases esc <;> rfl

/-- A class without a route of its own takes the one normal route there is (01 R37). -/
theorem pathFor_norm (tick : Nat) (r : RouteEntry) (h : r.norm0 = none ∨ r.norm1 = none) :
    pathFor tick false r = r.norm0.or r.norm1 := by
  simp only [pathFor, Bool.false_eq_true, ↓reduceIte]
  split
  · obtain h | h := h <;> simp only [h, Option.none_or, Option.or_none]
  · rfl

section
variable (hp : s.plain [a, b] [d] = true) (esc : Bool)
include hp

theorem routeTo_noDie (h : s.dieThere s.cur.die ((s.reg s.cur a).extractLsb' 0 6) = false) :
    exec (routeInstr esc d a b) s
      = .next (s.takeTrap s.cur 0x49 0 (s.slot s.cur).pc s.word (s.reg s.cur a) (s.reg s.cur b)) := by
  rw [exec_routeInstr, routeTo, s.issue_plain hp]
  simp only [List.map_cons, List.map_nil, List.getD_cons_zero, List.getD_cons_succ, h, Bool.not_false, ↓reduceIte]
  exact s.perform_trap ..

variable (ht : s.dieThere s.cur.die ((s.reg s.cur a).extractLsb' 0 6) = true)
include ht

theorem routeTo_unlisted (h : 0xa46 ≤ ((s.reg s.cur b).extractLsb' 0 12).toNat) :
    exec (routeInstr esc d a b) s
      = .next (s.takeTrap s.cur 0x49 1 (s.slot s.cur).pc s.word (s.reg s.cur a) (s.reg s.cur b)) := by
  have hb : endpointOk ((s.reg s.cur b).extractLsb' 0 12) = false := decide_eq_false (Nat.not_lt.2 h)
  rw [exec_routeInstr, routeTo, s.issue_plain hp]
  simp only [List.map_cons, List.map_nil, List.getD_cons_zero, List.getD_cons_succ, ht, hb, Bool.not_true, Bool.not_false,
    Bool.false_eq_true, ↓reduceIte]
  exact s.perform_trap ..

variable (he : ((s.reg s.cur b).extractLsb' 0 12).toNat < 0xa46)
include he

theorem routeTo_own (hd : (s.reg s.cur a).extractLsb' 0 6 = s.cur.die) :
    exec (routeInstr esc d a b) s = .next (s.finish d
      (mkHandle ((s.reg s.cur a).extractLsb' 0 6) ((s.reg s.cur b).extractLsb' 0 12) ⟨esc, 0, 0⟩)) := by
  have hb : endpointOk ((s.reg s.cur b).extractLsb' 0 12) = true := decide_eq_true he
  rw [exec_routeInstr, routeTo, s.issue_plain hp]
  simp only [List.map_cons, List.map_nil, List.getD_cons_zero, List.getD_cons_succ, ht, hb, beq_iff_eq.2 hd, Bool.not_true,
    Bool.false_eq_true, ↓reduceIte]
  rfl

variable (hd : (s.reg s.cur a).extractLsb' 0 6 ≠ s.cur.die) {r : RouteEntry}
  (hr : (s.curCore.routes.getD (s.die s.cur.die).routes)[((s.reg s.cur a).extractLsb' 0 6).toNat]? = some r)
include hd hr

/-- A die elsewhere on the panel: the row of the table that the core reads decides. -/
theorem routeTo_far : exec (routeInstr esc d a b) s = s.perform ((pathFor s.tick esc r).elim
    (.trap 0x49 0 (s.reg s.cur a) (s.reg s.cur b)) fun p =>
      .go (s.finish d (mkHandle ((s.reg s.cur a).extractLsb' 0 6) ((s.reg s.cur b).extractLsb' 0 12) p))) := by
  have hb : endpointOk ((s.reg s.cur b).extractLsb' 0 12) = true := decide_eq_true he
  have hrow : (s.routesOf s.cur.die (some s.cur.core))[((s.reg s.cur a).extractLsb' 0 6).toNat]? = some r := hr
  rw [exec_routeInstr, routeTo, s.issue_plain hp]
  simp only [List.map_cons, List.map_nil, List.getD_cons_zero, List.getD_cons_succ, ht, hb, beq_eq_false_iff_ne.2 hd, hrow,
    Option.bind_some, Bool.not_true, Bool.false_eq_true, ↓reduceIte]
  cases pathFor s.tick esc r <;> rfl

theorem routeTo_routed {p : Path} (hpath : pathFor s.tick esc r = some p) : exec (routeInstr esc d a b) s
    = .next (s.finish d (mkHandle ((s.reg s.cur a).extractLsb' 0 6) ((s.reg s.cur b).extractLsb' 0 12) p)) := by
  rw [routeTo_far hp esc ht he hd hr, hpath]
  rfl

theorem routeTo_unrouted (hpath : pathFor s.tick esc r = none) : exec (routeInstr esc d a b) s
    = .next (s.takeTrap s.cur 0x49 0 (s.slot s.cur).pc s.word (s.reg s.cur a) (s.reg s.cur b)) := by
  rw [routeTo_far hp esc ht he hd hr, hpath]
  exact s.perform_trap ..

end

end Sys2Proof.Machine
end

section
/-!
SUPPORT. The privileged instructions of placement and of the version protocol (10 R319, R326, R327, R330): a request to a placement
core, a publish, a switch and a counter's read.
-/

namespace Sys2Proof.Machine

variable {s : State} {d a b : Reg} (hpriv : isPriv s.cur = true) (hu : s.unitUp s.cur.die readyHeddle = true)

/-! HEDDLE.REP and HEDDLE.RET -/

/-- The message of a request of a kind for an expert to the placement core of a die. -/
def State.placementMail (s : State) (kind : Byte) (e : BitVec 12) (target : Die) : Mail :=
  engineMail s.cur.die heddleUnit target (s.heddle target).placeCore (s.heddle target).placeBox
    [0#36 ++ e ++ 0#8 ++ kind, 0#58 ++ s.cur.die, 0#48 ++ (s.heddle s.cur.die).cur] .p

/-- The state with a request sent and its expert marked. -/
def State.requestPlacement (s : State) (kind : Byte) (e : BitVec 12) (target : Die) : State :=
  (s.modHeddle s.cur.die fun y => { y with busy := true, exp := e }).sendRelease
    (.mail (s.placementMail kind e target)) s.cur

section
variable (hp : s.plain [a, b] [d] = true)
include hpriv hu hp

theorem placement_busy (kind : Byte) (hb : (s.heddle s.cur.die).busy = true) :
    placement kind d a b s = .next (s.finish d 1) := by
  rw [placement, State.issuePriv_plain hpriv hp, State.withHeddle_ready hu]
  simp only [hb, ↓reduceIte]
  rfl

theorem placement_requests (kind : Byte) (hb : (s.heddle s.cur.die).busy = false) : placement kind d a b s
    = .next ((s.requestPlacement kind ((s.reg s.cur a).extractLsb' 0 12) ((s.reg s.cur b).extractLsb' 0 6)).finish d 0) := by
  rw [placement, State.issuePriv_plain hpriv hp, State.withHeddle_ready hu]
  simp only [hb, Bool.false_eq_true, ↓reduceIte, zeroExtend_eq_append (m := 58) (n := 6), zeroExtend_eq_append (m := 48) (n := 16)]
  rfl

end

theorem State.modHeddle_self (s : State) (d : Die) (f : HeddleSt → HeddleSt) : (s.modHeddle d f).heddle d = f (s.heddle d) :=
  congrArg DieSt.heddle (s.modDie_self d fun x => { x with heddle := f x.heddle })

theorem State.requestPlacement_heddle (kind : Byte) (e : BitVec 12) (target : Die) :
    (s.requestPlacement kind e target).heddle s.cur.die = { s.heddle s.cur.die with busy := true, exp := e } :=
  s.modHeddle_self s.cur.die fun y => { y with busy := true, exp := e }

/-! HEDDLE.PUB -/

section
variable (hp : s.plain [a, b] [d] = true)
include hpriv hu hp

theorem execHeddlePub_noRoot (hr : s.rootDie = none) : exec (.heddlePub d a b) s = .next (s.finish d (BitVec.allOnes 64)) := by
  change execHeddlePub d a b s = _
  rw [execHeddlePub, State.issuePriv_plain hpriv hp, State.withHeddle_ready hu]
  simp only [hr]
  rfl

variable {r : Die} (hr : s.rootDie = some r)
include hr

theorem execHeddlePub_refused (h : (s.heddle s.cur.die).en = false ∨ (s.heddle r).en = false ∨ (s.heddle r).ost ≠ 0) :
    exec (.heddlePub d a b) s = .next (s.finish d (BitVec.allOnes 64)) := by
  change execHeddlePub d a b s = _
  have hno : (!(s.heddle s.cur.die).en || !(s.heddle r).en || (s.heddle r).ost != 0) = true := by
    simpa only [Bool.or_eq_true, Bool.not_eq_true', bne_iff_ne, or_assoc] using h
  rw [execHeddlePub, State.issuePriv_plain hpriv hp, State.withHeddle_ready hu]
  simp only [hr, hno, ↓reduceIte]
  rfl

variable (hen : (s.heddle s.cur.die).en = true) (hren : (s.heddle r).en = true) (host : (s.heddle r).ost = 0)
include hen hren host

theorem execHeddlePub_badList
    (hl : s.badList s.cur.die ((s.die s.cur.die).curEntry ((s.reg s.cur a).extractLsb' 0 12)) (s.reg s.cur b) = true) :
    exec (.heddlePub d a b) s
      = .next (s.takeTrap s.cur 0x47 4 (s.slot s.cur).pc s.word (s.reg s.cur a) (s.reg s.cur b)) := by
  change execHeddlePub d a b s = _
  rw [execHeddlePub, State.issuePriv_plain hpriv hp, State.withHeddle_ready hu]
  simp only [List.map_cons, List.map_nil, List.getD_cons_zero, List.getD_cons_succ, expertOf, hr, hen, hren, host, hl,
    bne_self_eq_false, Bool.not_true, Bool.or_self, Bool.false_eq_true, ↓reduceIte]
  exact s.perform_trap ..

/-- The protocol begins at the root, and the slot waits for every die. -/
theorem execHeddlePub_begins
    (hl : s.badList s.cur.die ((s.die s.cur.die).curEntry ((s.reg s.cur a).extractLsb' 0 12)) (s.reg s.cur b) = false)
    (hrel : s.releases = true) (hpub : s.root.publishing = none) (hsw : s.root.switching = none) :
    exec (.heddlePub d a b) s = .next (State.awaitDies (State.modSlot
      { s with
        root := { s.root with
          publishing := some ((s.heddle r).cur + 1, (s.reg s.cur a).extractLsb' 0 12, s.reg s.cur b) } }
      s.cur fun y => { y with parkDst := some d })) := by
  change execHeddlePub d a b s = _
  rw [execHeddlePub, State.issuePriv_plain hpriv hp, State.withHeddle_ready hu]
  simp only [List.map_cons, List.map_nil, List.getD_cons_zero, List.getD_cons_succ, expertOf, hr, hen, hren, host, hl, hrel,
    hpub, hsw, Option.isSome_none, bne_self_eq_false, Bool.not_true, Bool.or_self, Bool.false_eq_true, ↓reduceIte]
  rfl

end

/-- The slot that waits for the dies. -/
theorem State.awaitDies_slot (t : State) : (t.awaitDies.slot t.cur).state = .waitData
    ∧ (t.awaitDies.slot t.cur).parkDst = (t.slot t.cur).parkDst := by
  rw [State.awaitDies, State.enter_slot]
  exact ⟨rfl, rfl⟩

theorem State.awaitDies_frame (t : State) : t.awaitDies.root = { t.root with waiter := some t.cur, acks := [] }
    ∧ t.awaitDies.dies = t.dies ∧ t.awaitDies.mem = t.mem := ⟨rfl, rfl, rfl⟩

/-! HEDDLE.RD and HEDDLE.SW -/

include hpriv hu in
theorem execHeddleRd_reads (hp : s.plain [a] [d] = true) :
    let c := tblGet ((0 : BitVec 32), (0 : BitVec 32)) ((s.reg s.cur a).extractLsb' 0 12).toNat (s.heddle s.cur.die).cnts
    exec (.heddleRd d a) s = .next (s.finish d (c.2 ++ c.1)) := by
  change execHeddleRd d a s = _
  rw [execHeddleRd, State.issuePriv_plain hpriv hp, State.withHeddle_ready hu]
  rfl

section
variable (hp : s.plain [a] [] = true)
include hpriv hu hp

theorem execHeddleSw_notPending (h : (s.heddle s.cur.die).en = false ∨ (s.heddle s.cur.die).ost ≠ 1
      ∨ (s.heddle s.cur.die).other ≠ (s.reg s.cur a).extractLsb' 0 16) :
    exec (.heddleSw a) s = .next (s.takeTrap s.cur 0x47 3 (s.slot s.cur).pc s.word (s.reg s.cur a) 0) := by
  change execHeddleSw a s = _
  rw [execHeddleSw, State.issuePriv_plain hpriv hp, State.withHeddle_ready hu]
  simp only [List.map_cons, List.map_nil, List.getD_cons_zero]
  rw [if_pos (by simpa only [Bool.or_eq_true, Bool.not_eq_true', bne_iff_ne, or_assoc] using h)]
  exact s.perform_trap ..

theorem execHeddleSw_begins (hen : (s.heddle s.cur.die).en = true) (host : (s.heddle s.cur.die).ost = 1)
    (ho : (s.heddle s.cur.die).other = (s.reg s.cur a).extractLsb' 0 16) (hrel : s.releases = true)
    (hpub : s.root.publishing = none) (hsw : s.root.switching = none) :
    exec (.heddleSw a) s = .next (State.awaitDies { s with
      root := { s.root with switching := some (s.heddle s.cur.die).other, retiring := none, drained := [] } }) := by
  change execHeddleSw a s = _
  rw [execHeddleSw, State.issuePriv_plain hpriv hp, State.withHeddle_ready hu]
  simp only [List.map_cons, List.map_nil, List.getD_cons_zero, hen, host, ho, hrel, hpub, hsw, Option.isSome_none,
    bne_self_eq_false, Bool.not_true, Bool.or_self, Bool.false_eq_true, ↓reduceIte]
  rfl

end

end Sys2Proof.Machine
end

section
/-!
SUPPORT. The version protocol at the dies and at the root (10 R321 to R323, R326 to R328): what each of its events does, and the
statement on drafts and placement.
-/

namespace Sys2Proof.Machine

variable {s : State}

/-! A published version -/

section
variable {v : BitVec 16} {e : BitVec 12} {l : Word} (hpub : s.root.publishing = some (v, e, l))
include hpub

theorem execPubArrival_installs (hack : s.root.acks.contains s.ev.die.toNat = false)
    (hgood : s.goodDies.contains s.ev.die = true) (host : (s.heddle s.ev.die).ost = 0) :
    exec .pubArrival s = .next { (s.modHeddle s.ev.die fun y => { y with
        oths := tblSet 0 e.toNat l (s.heddle s.ev.die).curs, other := v, ost := 1, entry := e, drained := false }) with
      root := { s.root with acks := s.root.acks ++ [s.ev.die.toNat] } } := by
  change execPubArrival s = _
  conv_lhs => simp only [execPubArrival, hpub, hack, hgood, host, bne_self_eq_false, Bool.not_true, Bool.or_self,
    Bool.false_eq_true, ↓reduceIte]
  rfl

theorem execPubAcksComplete_waits (h : s.allDies s.root.acks = false) : exec .pubAcksComplete s = .next s := by
  change execPubAcksComplete s = _
  simp only [execPubAcksComplete, hpub, h, Bool.false_eq_true, ↓reduceIte]

theorem execPubAcksComplete_ends (h : s.allDies s.root.acks = true) : exec .pubAcksComplete s
    = .next (State.endWaiter { s with root := { s.root with publishing := none } } (some (v.zeroExtend 64))) := by
  change execPubAcksComplete s = _
  simp only [execPubAcksComplete, hpub, h, ↓reduceIte]

end

/-! The waiting slot goes on -/

/-- The state without a waiter or an acknowledgement at the root. -/
def State.noWaiter (s : State) : State := { s with root := { s.root with waiter := none, acks := [] } }

/-- A slot goes on after its wait. -/
def State.afterWait (s : State) (i : SlotId) : State := (s.modSlot i fun x => { x with parkDst := none }).wakeNext i

theorem State.afterWait_slot (i : SlotId) : ((s.afterWait i).slot i).pc = (s.slot i).pc + 4 ∧ ((s.afterWait i).slot i).state = .ready
    ∧ ((s.afterWait i).slot i).regs = (s.slot i).regs := by
  obtain ⟨hpc, hstate, hregs⟩ := (s.modSlot i fun x => { x with parkDst := none }).wakeNext_slot i
  rw [State.modSlot_self] at hpc hregs
  exact ⟨hpc, hstate, hregs⟩

theorem State.afterWait_frame (i : SlotId) :
    (s.afterWait i).root = s.root ∧ (s.afterWait i).dies = s.dies ∧ (s.afterWait i).mem = s.mem := by
  simp only [State.afterWait, State.wakeNext, State.wake, State.enter, State.modSlot_root, State.modSlot_dies, State.modSlot_mem,
    and_self]

theorem State.endWaiter_value {i : SlotId} {r : Reg} (hw : s.root.waiter = some i) (hr : (s.slot i).parkDst = some r) (v : Word) :
    s.endWaiter (some v) = (s.noWaiter.writeReg i r v).afterWait i := by
  have hr' : (s.noWaiter.slot i).parkDst = some r := hr
  simp only [State.noWaiter] at hr'
  simp only [State.endWaiter, hw, hr']
  rfl

theorem State.endWaiter_plain {i : SlotId} (hw : s.root.waiter = some i) : s.endWaiter none = s.noWaiter.afterWait i := by
  simp only [State.endWaiter, hw]
  rfl

theorem State.writeReg_frame (s : State) (i : SlotId) (r : Reg) (v : Word) :
    (s.writeReg i r v).root = s.root ∧ (s.writeReg i r v).dies = s.dies := by
  have h := s.writeReg_only (r := r) v i
  exact ⟨(congrArg State.root h :), (congrArg State.dies h :)⟩

/-! A switch -/

section
variable {v : BitVec 16} (hsw : s.root.switching = some v)
include hsw

theorem execSwitchArrival_installs (hack : s.root.acks.contains s.ev.die.toNat = false)
    (hgood : s.goodDies.contains s.ev.die = true) : exec .switchArrival s = .next { ((s.notePins s.ev.die).modHeddle s.ev.die
        fun y => { y with
          curs := y.oths, oths := y.curs, other := y.cur, cur := v, ost := 2, drained := false
          busy := y.busy && y.exp != y.entry }) with
      root := { s.root with acks := s.root.acks ++ [s.ev.die.toNat] } } := by
  change execSwitchArrival s = _
  conv_lhs => simp only [execSwitchArrival, hsw, hack, hgood, Bool.not_true, Bool.or_self, Bool.false_eq_true, ↓reduceIte]
  rfl

theorem execSwitchAcksComplete_ends (h : s.allDies s.root.acks = true) : exec .switchAcksComplete s
    = .next (State.endWaiter { s with root := { s.root with switching := none } } none) := by
  change execSwitchAcksComplete s = _
  simp only [execSwitchAcksComplete, hsw, h, Option.isSome_some, Bool.and_self, ↓reduceIte]

end

/-! Draining and giving up the earlier version -/

theorem execDrainedReport_reports (host : (s.heddle s.ev.die).ost = 2) (hd : (s.heddle s.ev.die).drained = false)
    (hh : s.holdCount s.ev.die (s.heddle s.ev.die).other = 0) :
    exec .drainedReport s = .next { (s.modHeddle s.ev.die fun y => { y with drained := true }) with
      root := { s.root with drained := s.root.drained ++ [s.ev.die.toNat] } } := by
  change execDrainedReport s = _
  simp only [execDrainedReport, State.hdhold, host, hd, hh, beq_self_eq_true, Bool.not_false, Bool.and_self, ↓reduceIte]
  rfl

theorem execDrainedReport_none (h : (s.heddle s.ev.die).ost ≠ 2 ∨ (s.heddle s.ev.die).drained = true
      ∨ s.holdCount s.ev.die (s.heddle s.ev.die).other ≠ 0) : exec .drainedReport s = .next s := by
  change execDrainedReport s = _
  by_cases host : (s.heddle s.ev.die).ost = 2
  · obtain hd | hh := h.resolve_left (not_not.2 host)
    · simp only [execDrainedReport, hd, Bool.not_true, Bool.and_false, Bool.false_and, Bool.false_eq_true, ↓reduceIte]
    · simp only [execDrainedReport, State.hdhold, host, beq_eq_false_iff_ne.2 hh, Bool.and_false, Bool.false_eq_true, ↓reduceIte]
  · simp only [execDrainedReport, beq_eq_false_iff_ne.2 host, Bool.false_and, Bool.false_eq_true, ↓reduceIte]

theorem execRetireBroadcast_retires (host : (s.heddle s.ev.die).ost = 2) (hsw : s.root.switching = none)
    (hd : s.allDies s.root.drained = true) : exec .retireBroadcast s
      = .next { (s.modHeddle s.ev.die fun y => { y with ost := 0, oths := [], other := 0, drained := false }) with
          root := { s.root with retiring := some (s.heddle s.ev.die).other } } := by
  change execRetireBroadcast s = _
  conv_lhs => simp only [execRetireBroadcast, host, hsw, hd, beq_self_eq_true, Option.isNone_none, Bool.or_true,
    Bool.and_self, ↓reduceIte]
  rfl

/-! Windows -/

theorem execHeddleWindowEnd_open
    (h : (s.heddle s.ev.die).en = false ∨ (s.aclk - (s.heddle s.ev.die).windowStart).toNat < (s.heddle s.ev.die).window) :
    exec .heddleWindowEnd s = .next s := by
  change execHeddleWindowEnd s = _
  rw [execHeddleWindowEnd]
  exact congrArg _ (if_pos (by simpa only [Bool.or_eq_true, Bool.not_eq_true', decide_eq_true_eq] using h))

/-- The counters of a window that closes: each becomes the last window's. -/
def closedCnts (t : Tbl (BitVec 32 × BitVec 32)) : Tbl (BitVec 32 × BitVec 32) :=
  (t.map fun e => (e.1, (e.2.2, (0 : BitVec 32)))).filter fun e => e.2.1 != 0

theorem tblGet_closedCnts {t : Tbl (BitVec 32 × BitVec 32)} (h : tblWf (0, 0) t = true) (k : Nat) :
    tblGet (0, 0) k (closedCnts t) = ((tblGet (0, 0) k t).2, 0) := by
  rw [← tblGet_map_filter (fun _ x => (x.2, 0)) (fun _ => rfl) h, closedCnts]
  congr 1
  refine List.filter_congr fun e he => ?_
  obtain ⟨f, -, rfl⟩ := List.mem_map.1 he
  rw [Bool.eq_iff_iff]
  simp only [bne_iff_ne, ne_eq, Prod.mk.injEq, and_true]

/-- The window of a die closes: the counters, their sum and the start of the next window. -/
def State.closeWindow (s : State) (d : Die) : State :=
  s.modHeddle d fun y => { y with
    cnts := closedCnts (s.heddle d).cnts
    load := ((closedCnts (s.heddle d).cnts).map fun e => e.2.1).foldl (· + ·) 0
    windowStart := y.windowStart + BitVec.ofNat 64 (s.heddle d).window }

/-- The event of an expert at the end of a window, where there is one, goes to the placement core of the die. -/
def windowEvent (x : HeddleSt) (d : Die) (s : State) (e : Nat × Word) : State :=
  match x.eventOf d (BitVec.ofNat 12 e.1) (tblGet (0, 0) e.1 (closedCnts x.cnts)).1 with
  | some kind => s.send (.mail (engineMail d heddleUnit d x.placeCore x.placeBox
      [0#36 ++ BitVec.ofNat 12 e.1 ++ 0#8 ++ kind, (tblGet (0, 0) e.1 (closedCnts x.cnts)).1.zeroExtend 64] .d))
  | none => s

theorem windowEvent_frame (x : HeddleSt) (d : Die) (s : State) (e : Nat × Word) :
    (windowEvent x d s e).dies = s.dies ∧ (windowEvent x d s e).slots = s.slots ∧ (windowEvent x d s e).mem = s.mem := by
  rw [windowEvent]
  split
  · exact ⟨rfl, rfl, rfl⟩
  · exact ⟨rfl, rfl, rfl⟩

theorem windowEvents_frame (x : HeddleSt) (d : Die) (l : Tbl Word) (s : State) :
    let t := l.foldl (windowEvent x d) s
    t.dies = s.dies ∧ t.slots = s.slots ∧ t.mem = s.mem := by
  induction l generalizing s with
  | nil => exact ⟨rfl, rfl, rfl⟩
  | cons e l ih =>
    obtain ⟨hd, hs, hm⟩ := ih (windowEvent x d s e)
    obtain ⟨hd', hs', hm'⟩ := windowEvent_frame x d s e
    exact ⟨hd.trans hd', hs.trans hs', hm.trans hm'⟩

theorem execHeddleWindowEnd_closes (hen : (s.heddle s.ev.die).en = true)
    (hw : (s.heddle s.ev.die).window ≤ (s.aclk - (s.heddle s.ev.die).windowStart).toNat) : exec .heddleWindowEnd s
      = .next ((s.heddle s.ev.die).curs.foldl (windowEvent (s.heddle s.ev.die) s.ev.die) (s.closeWindow s.ev.die)) := by
  change execHeddleWindowEnd s = _
  rw [execHeddleWindowEnd]
  refine congrArg _ (if_neg ?_)
  rw [hen, decide_eq_false (Nat.not_lt.2 hw)]
  exact Bool.false_ne_true

/-- A table filled by number. -/
theorem tblGet_foldl_range {α : Type} [DecidableEq α] (d : α) (f : Nat → α) (n k : Nat) (h : k < n) :
    tblGet d k ((List.range n).foldl (fun t j => tblSet d j (f j) t) []) = f k := by
  induction n with
  | zero => exact absurd h (Nat.not_lt_zero k)
  | succ n ih =>
    rw [List.range_succ, List.foldl_append, List.foldl_cons, List.foldl_nil]
    obtain hk | rfl := Nat.lt_succ_iff_lt_or_eq.1 h
    · rw [tblGet_set_ne _ (Nat.ne_of_lt hk), ih hk]
    · exact tblGet_set_self ..

/-- The load of a die in the root's vector. -/
def State.loadOf (s : State) (k : Nat) : BitVec 32 :=
  if s.goodDies.contains (BitVec.ofNat 6 k) then (s.heddle (BitVec.ofNat 6 k)).load else 0xffffffff

theorem execLoadVectorBroadcast_enabled (hen : (s.heddle s.ev.die).en = true) : exec .loadVectorBroadcast s
    = .next (s.modHeddle s.ev.die fun y =>
        { y with loads := (List.range 64).foldl (fun t k => tblSet 0 k (s.loadOf k) t) [] }) := by
  change execLoadVectorBroadcast s = _
  exact congrArg _ (if_pos hen)

end Sys2Proof.Machine
end

section
/-!
SUPPORT. The statement on drafts and placement (09 R311, R312; 10 R319 to R330), part by part.
-/

namespace Sys2Proof.Machine

/-! The ends of the root's waits -/

section
variable {s : State} {i : SlotId} (hw : s.root.waiter = some i)
include hw

/-- The slot of a publish that every die has acknowledged. -/
theorem execPubAcksComplete_slot {v : BitVec 16} {e : BitVec 12} {l : Word} {r : Reg} (hpub : s.root.publishing = some (v, e, l))
    (hall : s.allDies s.root.acks = true) (hr : (s.slot i).parkDst = some r) :
    ∃ t, exec .pubAcksComplete s = .next t ∧ t.root.publishing = none ∧ t.root.waiter = none ∧ (t.slot i).state = .ready
      ∧ (t.slot i).pc = (s.slot i).pc + 4 ∧ (r < 32 → r ≠ 0 → (t.slot i).g r = 0#48 ++ v) ∧ t.dies = s.dies ∧ t.mem = s.mem := by
  let u : State := { s with root := { s.root with publishing := none } }
  let x : Word := v.zeroExtend 64
  obtain ⟨hroot, hdies⟩ := u.noWaiter.writeReg_frame i r x
  obtain ⟨hroot', hdies', hmem'⟩ := State.afterWait_frame (s := u.noWaiter.writeReg i r x) i
  obtain ⟨hpc, hstate, hregs⟩ := State.afterWait_slot (s := u.noWaiter.writeReg i r x) i
  have hex := execPubAcksComplete_ends hpub hall
  rw [State.endWaiter_value (s := u) hw hr] at hex
  refine ⟨_, hex, ?_, ?_, hstate, hpc.trans ?_, fun hlt h0 => ?_, hdies'.trans hdies, hmem'.trans (State.writeReg_mem ..)⟩
  · rw [hroot', hroot]
    rfl
  · rw [hroot', hroot]
    rfl
  · exact congrArg (· + 4) (u.noWaiter.writeReg_slot_frame i r x).1
  · rw [SlotSt.g, hregs, ← SlotSt.g, u.noWaiter.writeReg_general i hlt, State.modSlot_self, SlotSt.g_setG_self _ h0]
    exact zeroExtend_eq_append (m := 48) v

/-- The slot of a switch that every die has acknowledged. -/
theorem execSwitchAcksComplete_slot {v : BitVec 16} (hsw : s.root.switching = some v) (hall : s.allDies s.root.acks = true) :
    ∃ t, exec .switchAcksComplete s = .next t ∧ t.root.switching = none ∧ t.root.waiter = none ∧ (t.slot i).state = .ready
      ∧ (t.slot i).pc = (s.slot i).pc + 4 ∧ (t.slot i).regs = (s.slot i).regs := by
  let u : State := { s with root := { s.root with switching := none } }
  obtain ⟨hroot, -, -⟩ := State.afterWait_frame (s := u.noWaiter) i
  obtain ⟨hpc, hstate, hregs⟩ := State.afterWait_slot (s := u.noWaiter) i
  have hex := execSwitchAcksComplete_ends hsw hall
  rw [State.endWaiter_plain (s := u) hw] at hex
  exact ⟨_, hex, congrArg RootSt.switching hroot, congrArg RootSt.waiter hroot, hstate, hpc, hregs⟩

end

/-- Settles O31: the draft's instructions and ROUTE, the privileged instructions, and the events of the version protocol and of
the windows. -/
theorem draftsAndPlacement : Obligations.DraftsAndPlacement := by
  unfold Obligations.DraftsAndPlacement
  refine ⟨?drafts, ?privileged, ?events⟩
  case drafts =>
    intro s d a b p r i me w v y h e trap
    refine ⟨fun hp hu => ⟨execDraftget_waits hu hp, execDraftpin_waits hu (State.plain_dsts hp),
        execDraftunpin_waits hu (State.plain_srcs (State.plain_left hp))⟩,
      fun hp hu => ⟨execDraftget_cur hu hp, execDraftget_other hu hp, execDraftget_notLive hu hp⟩,
      fun hp hu => ⟨execDraftpin_pins hu (State.plain_dsts hp), execDraftpin_pinned hu (State.plain_dsts hp),
        execDraftunpin_unpins hu (State.plain_srcs hp), execDraftunpin_other hu (State.plain_srcs hp)⟩, fun hp => ?route⟩
    case route =>
      intro dest ep
      refine ⟨fun hd => ⟨routeTo_noDie hp false hd, routeTo_noDie hp true hd⟩,
        fun ht he => ⟨routeTo_unlisted hp false ht he, routeTo_unlisted hp true ht he⟩, fun ht he =>
        ⟨fun hd => ⟨routeTo_own hp false ht he hd, routeTo_own hp true ht he hd⟩, fun hd hr => ⟨?_, ?_, ?_, ?_, ?_⟩⟩⟩
      · exact fun hesc => routeTo_routed hp true ht he hd hr hesc
      · exact fun h0 h1 => routeTo_routed hp false ht he hd hr (by rw [pathFor_norm _ _ (.inr h1), h0]; rfl)
      · exact fun h0 h1 => routeTo_routed hp false ht he hd hr (by rw [pathFor_norm _ _ (.inl h0), h0, h1]; rfl)
      · exact fun h0 h1 => routeTo_unrouted hp false ht he hd hr (by rw [pathFor_norm _ _ (.inl h0), h0, h1]; rfl)
      · exact fun hesc => routeTo_unrouted hp true ht he hd hr hesc
  case privileged =>
    intro s d a b r hpriv hu i me w v h e p
    refine ⟨fun hp => ⟨?requests, ?pubNot, ?pubRefused, ?pub⟩, fun hp => ⟨execHeddleRd_reads hpriv hu hp,
      execHeddleSw_notPending hpriv hu (State.plain_srcs hp), fun hen host ho hrel hpub hsw => ?switch⟩⟩
    case requests =>
      intro j k hjk
      have hex : exec j s = placement k d a b s := by
        obtain h | h := List.mem_pair.1 hjk <;> cases h <;> rfl
      rw [hex]
      refine ⟨placement_busy hpriv hu hp k, fun hb => ⟨s.requestPlacement k e (v.extractLsb' 0 6), s.placementMail k e _,
        placement_requests hpriv hu hp k hb, rfl, rfl, rfl, rfl, rfl, rfl, ?_, ?_, rfl, rfl, rfl⟩⟩
      · exact congrArg HeddleSt.busy (State.requestPlacement_heddle ..)
      · exact congrArg HeddleSt.exp (State.requestPlacement_heddle ..)
    case pubNot =>
      intro hno
      cases hr : s.rootDie with
      | none => exact execHeddlePub_noRoot hpriv hu hp hr
      | some r => exact execHeddlePub_refused hpriv hu hp hr (.inl (hno.resolve_right (by rw [hr]; exact Option.some_ne_none r)))
    case pubRefused =>
      exact fun hr hno => execHeddlePub_refused hpriv hu hp hr (.inr hno)
    case pub =>
      intro hen hr hren host
      refine ⟨execHeddlePub_badList hpriv hu hp hr hen hren host, fun hl hrel hpub hsw =>
        ⟨_, execHeddlePub_begins hpriv hu hp hr hen hren host hl hrel hpub hsw, ?_⟩⟩
      generalize hu : State.modSlot _ _ _ = u
      have hcur : u.cur = i := by rw [← hu]; rfl
      have hdst : (u.slot i).parkDst = some d := by rw [← hu, State.modSlot_self]
      obtain ⟨hroot, hdies, hmem⟩ := u.awaitDies_frame
      obtain ⟨hstate, hpark⟩ := u.awaitDies_slot
      rw [hcur] at hroot hstate hpark
      rw [hroot, hdies, hmem, ← hu]
      refine ⟨rfl, rfl, rfl, ?_, ?_, rfl, State.modSlot_mem ..⟩
      · rw [hu]; exact hstate
      · rw [hu]; exact hpark.trans hdst
    case switch =>
      refine ⟨_, execHeddleSw_begins hpriv hu (State.plain_srcs hp) hen host ho hrel hpub hsw, ?_⟩
      generalize hu : State.mk .. = u
      obtain ⟨hroot, hdies, hmem⟩ := u.awaitDies_frame
      obtain ⟨hstate, -⟩ := u.awaitDies_slot
      have hcur : u.cur = i := by rw [← hu]
      rw [hcur] at hroot hstate
      refine ⟨?_, ?_, ?_, hstate, ?_, ?_⟩
      · rw [hroot, ← hu]
      · rw [hroot]
      · rw [hroot]
      · rw [hdies, ← hu]
      · rw [hmem, ← hu]
  case events =>
    intro s v e l i d' d h
    refine ⟨fun hpub => ⟨execPubArrival_installs hpub, fun hall hw hr => execPubAcksComplete_slot hw hpub hall hr,
        execPubAcksComplete_waits hpub⟩,
      fun hsw => ⟨execSwitchArrival_installs hsw, fun hall hw => execSwitchAcksComplete_slot hw hsw hall⟩,
      execDrainedReport_reports, execDrainedReport_none, execRetireBroadcast_retires, execHeddleWindowEnd_open,
      fun hen hw hwf => ?window, fun hen => ?loads⟩
    case window =>
      let u := s.closeWindow d
      obtain ⟨hdies, hslots, hmem⟩ := windowEvents_frame h d h.curs u
      have hh : (h.curs.foldl (windowEvent h d) u).heddle d = u.heddle d := by rw [State.heddle, State.die, hdies]; rfl
      have hu : u.heddle d = _ := s.modHeddle_self d _
      refine ⟨_, execHeddleWindowEnd_closes hen hw, ?_⟩
      rw [hh, hu]
      refine ⟨rfl, fun k => tblGet_closedCnts hwf k, rfl, hslots, hmem, fun hc => ?_⟩
      rw [hc]
      rfl
    case loads =>
      refine ⟨_, execLoadVectorBroadcast_enabled hen, fun k hk => ?_, rfl, rfl⟩
      rw [s.modHeddle_self]
      exact tblGet_foldl_range 0 s.loadOf 64 k hk

end Sys2Proof.Machine
end

section
/-!
SUPPORT. The issue of the vector instructions (09 R300 to R304; 14 R379): who owns the unit, the operands that trap, and the way
into the sequencer.
-/

namespace Sys2Proof.Machine

variable {s : State}

/-! The sequencer at issue -/

/-- The entry of the executing slot's vector instructions. -/
def State.vecItem (s : State) (ops : List VecOp) : VecItem := { ops, pc := (s.slot s.cur).pc, mark := s.nextId }

/-- The state with an entry in the sequencer of the executing slot, which goes on. -/
def State.sequenced (s : State) (e : VecItem) (since : List VecOp) : State :=
  (s.modCore s.cur.die s.cur.core fun c =>
    { c with row := { c.row with owner := some s.cur.slot, queue := c.row.queue ++ [e], since } }).advance

theorem enterSequencer_enters (h : s.curCore.row.queue.length < 16) (op : VecOp) (since : List VecOp) :
    s.perform (enterSequencer s op since) = .next (s.sequenced (s.vecItem [op]) since) :=
  congrArg s.perform (if_neg (Nat.not_le.2 h))

theorem enterSequencer_waits (h : 16 ≤ s.curCore.row.queue.length) (op : VecOp) (since : List VecOp) :
    s.perform (enterSequencer s op since) = .next (s.waitData s.cur) :=
  congrArg s.perform (if_pos h)

/-! Ownership -/

section
variable {srcs dsts : List Reg} (hp : s.plain srcs dsts = true) (k : List Word → State → Act)
include hp

theorem issueVec_notOwner (h : s.curCore.row.owner ≠ some s.cur.slot ∨ s.curCore.row.leaving = true) :
    issueVec srcs dsts k s
      = .next (s.takeTrap s.cur 0x0d 1 (s.slot s.cur).pc s.word (ownerWord s.curCore.row.owner) 0) := by
  rw [issueVec, s.issue_plain hp]
  exact (congrArg s.perform (if_pos (by simpa only [Bool.or_eq_true, bne_iff_ne] using h))).trans (s.perform_trap ..)

theorem issueVec_owner (ho : s.curCore.row.owner = some s.cur.slot) (hl : s.curCore.row.leaving = false) :
    issueVec srcs dsts k s = s.perform (k (srcs.map (s.reg s.cur)) s) := by
  rw [issueVec, s.issue_plain hp]
  refine congrArg s.perform (if_neg ?_)
  simp only [ho, hl, bne_self_eq_false, Bool.or_self, Bool.false_eq_true, not_false_eq_true]

end

/-! VCFG -/

section
variable {a : Reg} (hp : s.plain [a] [] = true)
include hp

theorem execVcfg_owned {k : SlotNo} (ho : s.curCore.row.owner = some k) (hk : k ≠ s.cur.slot) :
    exec (.vcfg a) s = .next (s.takeTrap s.cur 0x0d 0 (s.slot s.cur).pc s.word (0#60 ++ k) 0) := by
  change execVcfg a s = _
  have hne : (some k != some s.cur.slot) = true := bne_iff_ne.2 fun h => hk (Option.some.inj h)
  rw [execVcfg, s.issue_plain hp]
  simp only [ho, hne, Option.isSome_some, Bool.and_self, ↓reduceIte, ownerWord, ← zeroExtend_eq_append (m := 60) (n := 4)]
  exact s.perform_trap ..

theorem execVcfg_free (ho : s.curCore.row.owner = none) (hw : s.reg s.cur a = 0) : exec (.vcfg a) s = .next s.advance := by
  change execVcfg a s = _
  rw [execVcfg, s.issue_plain hp]
  simp only [List.map_cons, List.map_nil, List.getD_cons_zero, ho, hw, Option.isSome_none, Option.isNone_none, Bool.false_and,
    Bool.false_eq_true, decide_true, Bool.and_self, ↓reduceIte]
  rfl

variable (ho : s.curCore.row.owner = some s.cur.slot ∨ s.curCore.row.owner = none ∧ s.reg s.cur a ≠ 0)
include ho

/-- VCFG of the owner, or of a slot that takes the unit: its record's address is checked, and it enters the sequencer. -/
theorem execVcfg_checks : exec (.vcfg a) s = s.perform
    (Act.checked (s.addressFault s.cur (s.reg s.cur a) 6) (enterSequencer s (.cfg (s.reg s.cur a)) [])) := by
  change execVcfg a s = _
  rw [execVcfg, s.issue_plain hp]
  refine congrArg s.perform ((if_neg ?owned).trans (if_neg ?free))
  case owned =>
    obtain ho | ⟨ho, -⟩ := ho <;> simp [ho]
  case free =>
    obtain ho | ⟨ho, hw⟩ := ho
    · simp [ho]
    · exact fun h => hw (of_decide_eq_true (Bool.and_eq_true_iff.1 h).1)

theorem execVcfg_misaligned (h : (s.reg s.cur a).toNat % 64 ≠ 0) :
    exec (.vcfg a) s = .next (s.takeTrap s.cur 0x20 6 (s.slot s.cur).pc s.word (s.reg s.cur a) 0) := by
  rw [execVcfg_checks hp ho, s.addressFault_unaligned (n := 6) s.cur h]
  exact s.perform_trap ..

variable (h6 : (s.reg s.cur a).toNat % 64 = 0)
include h6

theorem execVcfg_beyond (h : 2 ^ 57 ≤ (s.reg s.cur a).toNat) :
    exec (.vcfg a) s = .next (s.takeTrap s.cur 0x21 0 (s.slot s.cur).pc s.word (s.reg s.cur a) 0) := by
  rw [execVcfg_checks hp ho, s.addressFault_beyond (n := 6) s.cur h6 h]
  exact s.perform_trap ..

variable (hv : (s.reg s.cur a).toNat < 2 ^ 57)
include hv

theorem execVcfg_enters (h : s.curCore.row.queue.length < 16) :
    exec (.vcfg a) s = .next (s.sequenced (s.vecItem [.cfg (s.reg s.cur a)]) []) := by
  rw [execVcfg_checks hp ho, s.addressFault_none (n := 6) s.cur h6 hv]
  exact enterSequencer_enters h ..

theorem execVcfg_waits (h : 16 ≤ s.curCore.row.queue.length) : exec (.vcfg a) s = .next (s.waitData s.cur) := by
  rw [execVcfg_checks hp ho, s.addressFault_none (n := 6) s.cur h6 hv]
  exact enterSequencer_waits h ..

end

/-! The owner's instructions -/

section
variable {d a b : Reg} (ho : s.curCore.row.owner = some s.cur.slot) (hl : s.curCore.row.leaving = false)
include ho hl

section
variable (hp : s.plain [a, b] [d] = true)
include hp

theorem execVrun_queues (h : 1 ≤ ((s.reg s.cur a).extractLsb' 0 11).toNat ∧ ((s.reg s.cur a).extractLsb' 0 11).toNat ≤ 1024) :
    exec (.vrun d a b) s
      = s.perform (queueVec s (.run ((s.reg s.cur a).extractLsb' 0 11).toNat (s.reg s.cur b) d)) := by
  change execVrun d a b s = _
  rw [execVrun, issueVec_owner hp _ ho hl]
  refine congrArg s.perform (if_neg ?_)
  simp only [List.map_cons, List.map_nil, List.getD_cons_zero, Bool.or_eq_true, decide_eq_true_eq]
  omega

theorem execVrun_operand
    (h : ¬ (1 ≤ ((s.reg s.cur a).extractLsb' 0 11).toNat ∧ ((s.reg s.cur a).extractLsb' 0 11).toNat ≤ 1024)) :
    exec (.vrun d a b) s
      = .next (s.takeTrap s.cur 0x13 1 (s.slot s.cur).pc s.word (s.reg s.cur a) (s.reg s.cur b)) := by
  change execVrun d a b s = _
  rw [execVrun, issueVec_owner hp _ ho hl]
  refine (congrArg s.perform (if_pos ?_)).trans (s.perform_trap ..)
  simp only [List.map_cons, List.map_nil, List.getD_cons_zero, Bool.or_eq_true, decide_eq_true_eq]
  omega

end

section
variable (hp : s.plain [a, b] [] = true)
include hp

section
variable (store : Bool)

theorem execXfer_operand
    (h : 128 < ((s.reg s.cur b).extractLsb' 5 7).toNat + (((s.reg s.cur b).extractLsb' 12 8).toNat + 1)) :
    execXfer store a b s
      = .next (s.takeTrap s.cur 0x13 1 (s.slot s.cur).pc s.word (s.reg s.cur a) (s.reg s.cur b)) := by
  rw [execXfer, issueVec_owner hp _ ho hl]
  exact (congrArg s.perform (if_pos h)).trans (s.perform_trap ..)

variable (h : ((s.reg s.cur b).extractLsb' 5 7).toNat + (((s.reg s.cur b).extractLsb' 12 8).toNat + 1) ≤ 128)
include h

theorem execXfer_misaligned (ha : (s.reg s.cur a).toNat % 8 ≠ 0) :
    execXfer store a b s = .next (s.takeTrap s.cur 0x20 3 (s.slot s.cur).pc s.word (s.reg s.cur a) 0) := by
  rw [execXfer, issueVec_owner hp _ ho hl]
  refine (congrArg s.perform ((if_neg (Nat.not_lt.2 h)).trans ?_)).trans (s.perform_trap 0x20 3 (s.reg s.cur a) 0)
  simp only [List.map_cons, List.map_nil, List.getD_cons_zero, s.addressFault_unaligned (n := 3) s.cur ha]
  rfl

theorem execXfer_queues (ha : (s.reg s.cur a).toNat % 8 = 0) (hv : (s.reg s.cur a).toNat < 2 ^ 57) :
    execXfer store a b s = s.perform (queueVec s
      (if store then .sts (s.reg s.cur a) (s.reg s.cur b) else .lds (s.reg s.cur a) (s.reg s.cur b))) := by
  rw [execXfer, issueVec_owner hp _ ho hl]
  refine congrArg s.perform ((if_neg (Nat.not_lt.2 h)).trans ?_)
  simp only [List.map_cons, List.map_nil, List.getD_cons_zero, List.getD_cons_succ, s.addressFault_none (n := 3) s.cur ha hv]

end

theorem execVseq_operand (h : s.curCore.row.since.length < ((s.reg s.cur a).extractLsb' 0 4).toNat + 1) :
    exec (.vseq a b) s
      = .next (s.takeTrap s.cur 0x13 2 (s.slot s.cur).pc s.word (s.reg s.cur a) (s.reg s.cur b)) := by
  change execVseq a b s = _
  rw [execVseq, issueVec_owner hp _ ho hl]
  exact (congrArg s.perform (if_pos h)).trans (s.perform_trap ..)

variable (h : ((s.reg s.cur a).extractLsb' 0 4).toNat + 1 ≤ s.curCore.row.since.length)
include h

theorem execVseq_never (hb : s.reg s.cur b = 0) : exec (.vseq a b) s = .next s.advance := by
  change execVseq a b s = _
  rw [execVseq, issueVec_owner hp _ ho hl]
  refine congrArg s.perform (a₂ := .go s.advance) ((if_neg (Nat.not_lt.2 h)).trans (if_pos ?_))
  exact congrArg BitVec.toNat hb

/-- The last vector instructions again: an entry of their own in the sequencer. -/
theorem execVseq_repeats (hb : s.reg s.cur b ≠ 0) (hq : s.curCore.row.queue.length < 16) : exec (.vseq a b) s
    = .next (s.sequenced { s.vecItem (s.curCore.row.since.drop (s.curCore.row.since.length
        - (((s.reg s.cur a).extractLsb' 0 4).toNat + 1))) with rep := 1, last := (s.reg s.cur b).toNat }
      s.curCore.row.since) := by
  change execVseq a b s = _
  rw [execVseq, issueVec_owner hp _ ho hl]
  have hz : (s.reg s.cur b).toNat ≠ 0 := fun h0 => hb (BitVec.eq_of_toNat_eq h0)
  refine (congrArg s.perform ((if_neg (Nat.not_lt.2 h)).trans ((if_neg hz).trans (if_neg (Nat.not_le.2 hq))))).trans ?_
  have hrow (q : List VecItem) : { s.curCore.row with queue := q } = { s.curCore.row with
      owner := some s.cur.slot, queue := q, since := s.curCore.row.since } := by rw [← ho]
  exact congrArg (fun r => Host.Outcome.next (s.setCore s.cur.die s.cur.core { s.curCore with row := r }).advance) (hrow _)

end

section
variable (hp : s.plain [a] [d] = true) (o : FpOp) (f : Fmt3)
include hp

theorem execVred_operand (h : ((s.reg s.cur a).extractLsb' 4 11).toNat = 0
      ∨ 1024 < ((s.reg s.cur a).extractLsb' 4 11).toNat * ((fmt3Fmt .fp32 f).width / 8)) :
    execVred o f d a s = .next (s.takeTrap s.cur 0x13 3 (s.slot s.cur).pc s.word (s.reg s.cur a) 0) := by
  rw [execVred, issueVec_owner hp _ ho hl]
  refine (congrArg s.perform (if_pos ?_)).trans (s.perform_trap ..)
  simpa only [List.map_cons, List.map_nil, List.getD_cons_zero, Bool.or_eq_true, decide_eq_true_eq] using h

variable (h0 : ((s.reg s.cur a).extractLsb' 4 11).toNat ≠ 0)
  (hb : ((s.reg s.cur a).extractLsb' 4 11).toNat * ((fmt3Fmt .fp32 f).width / 8) ≤ 1024)
include h0 hb

/-- A count that fits the slice: only the rounding mode of a sum remains to be checked. -/
theorem execVred_fits : execVred o f d a s = s.perform (
    if o == .fadd && (rmode (s.slot s.cur).frm).isNone then .trap 0x03 0 ((s.slot s.cur).frm.zeroExtend 64) 0
    else queueVec s (.red o f ((s.reg s.cur a).extractLsb' 0 4).toNat ((s.reg s.cur a).extractLsb' 4 11).toNat d
      (s.slot s.cur).frm)) := by
  rw [execVred, issueVec_owner hp _ ho hl]
  refine congrArg s.perform (if_neg ?_)
  simp only [List.map_cons, List.map_nil, List.getD_cons_zero, Bool.or_eq_true, decide_eq_true_eq]
  omega

theorem execVred_queues (hm : o = .fadd → (rmode (s.slot s.cur).frm).isSome = true) : execVred o f d a s
    = s.perform (queueVec s (.red o f ((s.reg s.cur a).extractLsb' 0 4).toNat ((s.reg s.cur a).extractLsb' 4 11).toNat d
        (s.slot s.cur).frm)) := by
  rw [execVred_fits ho hl hp o f h0 hb]
  refine congrArg s.perform (if_neg ?_)
  rw [Bool.and_eq_true, beq_iff_eq, Option.isNone_iff_eq_none]
  rintro ⟨hadd, hnone⟩
  have hsome := hm hadd
  rw [hnone] at hsome
  exact Bool.false_ne_true hsome

theorem execVred_reserved (hm : rmode (s.slot s.cur).frm = none) : execVred .fadd f d a s
    = .next (s.takeTrap s.cur 0x03 0 (s.slot s.cur).pc s.word (0#61 ++ (s.slot s.cur).frm) 0) := by
  rw [execVred_fits ho hl hp .fadd f h0 hb, hm, ← zeroExtend_eq_append (m := 61)]
  exact s.perform_trap ..

end

end

end Sys2Proof.Machine
end

section
/-!
SUPPORT. The sequencer of the row unit (09 R300 to R304): its next instruction, the doubles of a transfer, the configuration, and
the statement on vector instructions.
-/

namespace Sys2Proof.Machine

/-! Elements of a slice -/

/-- The value of the low bytes of a number. -/
theorem bytesNat_natBytes (n v : Nat) : bytesNat (natBytes n v) = v % 256 ^ n := by
  induction n generalizing v with
  | zero => rw [Nat.pow_zero, Nat.mod_one]; rfl
  | succ n ih =>
    rw [natBytes, bytesNat, ih, BitVec.toNat_ofNat, Nat.pow_succ' (m := 256)]
    exact (Nat.mod_mul ..).symm

theorem wordOfBytes_bytesOfWord (w : Word) : wordOfBytes (bytesOfWord 8 w) = w := by
  have hlt : w.toNat < 256 ^ 8 := w.isLt
  rw [bytesOfWord, wordOfBytes, bytesNat_natBytes, Nat.mod_eq_of_lt hlt, BitVec.ofNat_toNat, BitVec.setWidth_eq]

/-- Values written one after another to the entries that a key gives. -/
theorem tblGet_foldl_key {α : Type} [DecidableEq α] (d : α) (key : Nat → Nat) {k : Nat} (l : List α) (n : Nat) (t : Tbl α)
    (hkey : ∀ j < n + l.length, key j = key k → j = k) :
    tblGet d (key k) ((l.zipIdx n).foldl (fun t p => tblSet d (key p.2) p.1 t) t)
      = if k < n then tblGet d (key k) t else l.getD (k - n) (tblGet d (key k) t) := by
  induction l generalizing n t with
  | nil => simp
  | cons b l ih =>
    have hlen : n + (b :: l).length = n + 1 + l.length := by rw [List.length_cons, Nat.add_assoc, Nat.add_comm 1]
    rw [List.zipIdx_cons, List.foldl_cons, ih (n + 1) _ (hlen ▸ hkey)]
    have hne (h : k ≠ n) : tblGet d (key k) (tblSet d (key n) b t) = tblGet d (key k) t :=
      tblGet_set_ne d (fun q => h (hkey n (by omega) q.symm).symm) ..
    obtain h | rfl | h := Nat.lt_trichotomy k n
    · rw [if_pos (Nat.lt_succ_of_lt h), if_pos h, hne h.ne]
    · rw [if_pos (Nat.lt_succ_self k), if_neg (Nat.lt_irrefl k), Nat.sub_self, List.getD_cons_zero, tblGet_set_self]
    · have hs : k - n = k - (n + 1) + 1 := by omega
      rw [if_neg (Nat.not_lt.2 h), if_neg h.not_gt, hs, List.getD_cons_succ, hne h.ne']

/-- An element depends on the slices alone. -/
theorem RowUnit.elem_congr {r r' : RowUnit} (h : r.slices = r'.slices) (lane off n : Nat) :
    r.elem lane off n = r'.elem lane off n := by
  simp only [RowUnit.elem, h]

/-- A double that has been stored in a slice is there. -/
theorem RowUnit.elem_setElem (r : RowUnit) (lane : Nat) {off : Nat} (h : off + 8 ≤ 1024) (w : Word) :
    (r.setElem lane off 8 w).elem lane off 8 = w := by
  have hmod (j : Nat) (hj : j < 8) : (off + j) % 1024 = off + j :=
    Nat.mod_eq_of_lt (Nat.lt_of_lt_of_le (Nat.add_lt_add_left hj off) h)
  have hbytes : ((List.range 8).map fun k => tblGet 0 (lane * 1024 + (off + k) % 1024) (r.setElem lane off 8 w).slices)
      = bytesOfWord 8 w := by
    refine List.ext_getElem (by simp) fun k hk _ => ?_
    have hk8 : k < 8 := by simpa using hk
    rw [List.getElem_map, List.getElem_range, RowUnit.setElem]
    refine (tblGet_foldl_key 0 (fun j => lane * 1024 + (off + j) % 1024) (bytesOfWord 8 w) 0 r.slices ?_).trans ?_
    · intro j hj q
      rw [Nat.zero_add, bytesOfWord_length] at hj
      rw [hmod j hj, hmod k hk8] at q
      omega
    · rw [if_neg (Nat.not_lt_zero k), Nat.sub_zero, List.getD_eq_getElem]
  rw [RowUnit.elem, hbytes, wordOfBytes_bytesOfWord]

variable {s : State}

/-! The doubles of a transfer -/

/-- The state with a double from memory in its slice. -/
def State.loadedDouble (u : State) (i : SlotId) (lane off pa : Nat) (key : Byte) : State :=
  ((u.dropLine i.die i.core pa).modRow i.die i.core fun r => r.setElem lane off 8 (u.ownDouble i key pa)).vecDouble i

theorem vecLoad_cons {i : SlotId} {v : VecItem} {a : Word} {pa : Nat} {key : Byte} {u : State}
    (h : vecReach s i v false a = .ok (pa, key, u)) (lane off : Nat) (l : List (Word × Nat × Nat)) :
    vecLoad i v ((a, lane, off) :: l) s = vecLoad i v l (u.loadedDouble i lane off pa key) := by
  rw [vecLoad, h]
  rfl

theorem State.dropLine_row (u : State) (d : Die) (c : CoreNo) (pa : Nat) :
    ((u.dropLine d c pa).core d c).row = (u.core d c).row := by
  rw [State.dropLine]
  split
  · rfl
  · rw [State.modCore_self]

theorem State.modRow_row (u : State) (d : Die) (c : CoreNo) (f : RowUnit → RowUnit) :
    ((u.modRow d c f).core d c).row = f (u.core d c).row := by
  rw [State.modRow, State.modCore_self]

section
variable (u : State) (i : SlotId) (lane off pa : Nat) (key : Byte)

theorem State.loadedDouble_row : ∃ q, ((u.loadedDouble i lane off pa key).core i.die i.core).row
    = { (u.core i.die i.core).row.setElem lane off 8 (u.ownDouble i key pa) with queue := q } := by
  rw [State.loadedDouble, State.vecDouble, State.modRow_row, State.modRow_row, State.dropLine_row]
  exact ⟨_, rfl⟩

theorem State.loadedDouble_frame :
    (u.loadedDouble i lane off pa key).mem = u.mem ∧ (u.loadedDouble i lane off pa key).slots = u.slots := by
  obtain ⟨l, hl⟩ := u.dropLine_only i.die i.core pa
  rw [State.loadedDouble, hl]
  exact ⟨rfl, rfl⟩

end

theorem vecStore_cons {i : SlotId} {v : VecItem} {a : Word} {pa : Nat} {key : Byte} {u : State}
    (h : vecReach s i v true a = .ok (pa, key, u)) (hj : u.jnlOf i = false) (lane off : Nat) (l : List (Word × Nat × Nat)) :
    let w := (u.core i.die i.core).row.elem lane off 8
    vecStore i v ((a, lane, off) :: l) s
      = vecStore i v l (((u.plainWrite key pa 8 w).storeL1d i.die i.core pa 8 w).vecDouble i) := by
  simp only [vecStore, h, hj, State.ownStore, Bool.false_and, Bool.false_eq_true, ↓reduceIte]

/-- The lane descriptors of a configuration. -/
def configLanes (ws : List Word) : Tbl Word := (List.range 16).foldl (fun m k => tblSet 0 k (ws.getD k 0) m) []

theorem vecConfig_nil (i : SlotId) (v : VecItem) (a : Word) (ws : List Word) (s : State) : vecConfig i v a [] ws s
    = .ok (s.modRow i.die i.core fun r => { r with lanes := configLanes ws, cursors := [] }) := rfl

/-! The next instruction of the head -/

theorem VecItem.next_inner {v : VecItem} (h : v.idx + 1 < v.ops.length) :
    v.next = some { v with idx := v.idx + 1, pos := 0 } := if_pos h

theorem VecItem.next_repeat {v : VecItem} (h : v.ops.length ≤ v.idx + 1) (hr : v.rep < v.last) :
    v.next = some { v with idx := 0, rep := v.rep + 1, pos := 0 } := by
  rw [VecItem.next, if_neg (Nat.not_lt.2 h), if_pos hr]

theorem VecItem.next_none {v : VecItem} (h : v.ops.length ≤ v.idx + 1) (hr : v.last ≤ v.rep) : v.next = none := by
  rw [VecItem.next, if_neg (Nat.not_lt.2 h), if_neg (Nat.not_lt.2 hr)]

/-! VECTOR_COMPLETE -/

theorem execVectorComplete_idle
    (h : (s.core s.ev.die s.ev.core).row.queue = [] ∨ (s.core s.ev.die s.ev.core).row.owner = none) :
    exec .vectorComplete s = .next s := by
  change execVectorComplete s = _
  obtain h | h := h
  · simp only [execVectorComplete, h]
  · cases hq : (s.core s.ev.die s.ev.core).row.queue <;> simp only [execVectorComplete, hq, h]

theorem State.vecFlags_eq (s : State) (i : SlotId) (fl : FpFlags) (st : BitVec 32) :
    s.vecFlags i fl st = s.modSlot i fun y => { y with lfsr := st, fflags := y.fflags ||| fl } :=
  s.modSlot_modSlot i (fun y => { y with lfsr := st }) fun y => { y with fflags := y.fflags ||| fl }

section
variable {v : VecItem} {rest : List VecItem} {k : SlotNo}
  (hq : (s.core s.ev.die s.ev.core).row.queue = v :: rest) (ho : (s.core s.ev.die s.ev.core).row.owner = some k)
  (hh : s.heldWaits s.ev.die (.vector ⟨s.ev.die, s.ev.core, k⟩) = false)
include hq ho hh

theorem execVectorComplete_run {n : Nat} {x : Word} {d : Reg} (hop : v.ops[v.idx]? = some (.run n x d)) :
    let i : SlotId := ⟨s.ev.die, s.ev.core, k⟩
    let r := runElements s.tick x n (0, (s.core i.die i.core).row, 0, (s.slot i).lfsr)
    exec .vectorComplete s
      = .next ((((s.modRow i.die i.core fun _ => r.2.1).vecFlags i r.2.2.1 r.2.2.2).writeReg i d r.1).nextVec i v) := by
  change execVectorComplete s = _
  simp only [execVectorComplete, hq, ho, hh, hop, Bool.false_eq_true, ↓reduceIte]

theorem execVectorComplete_red {o : FpOp} {f : Fmt3} {lane count : Nat} {d : Reg} {rm : BitVec 3}
    (hop : v.ops[v.idx]? = some (.red o f lane count d rm)) :
    let i : SlotId := ⟨s.ev.die, s.ev.core, k⟩
    let width := (fmt3Fmt .fp32 f).width / 8
    let elems := (List.range count).map fun j => (s.core i.die i.core).row.elem lane (j * width) width
    let r := reduce o (fmt3Fmt .fp32 f) ((rmode rm).getD .rne) (elems.drop 1) (elems.headD 0, 0, (s.slot i).lfsr)
    exec .vectorComplete s = .next (((s.vecFlags i r.2.1 r.2.2).writeReg i d r.1).nextVec i v) := by
  change execVectorComplete s = _
  simp only [execVectorComplete, hq, ho, hh, hop, Bool.false_eq_true, ↓reduceIte]

section
variable {va xf : Word} {t : State}

theorem execVectorComplete_lds (hop : v.ops[v.idx]? = some (.lds va xf))
    (ht : vecLoad ⟨s.ev.die, s.ev.core, k⟩ v ((xferDoubles va xf v.rep).drop v.pos) s = .ok t) : exec .vectorComplete s
      = .next ((t.unhold s.ev.die (.vector ⟨s.ev.die, s.ev.core, k⟩)).nextVec ⟨s.ev.die, s.ev.core, k⟩ v) := by
  change execVectorComplete s = _
  simp only [execVectorComplete, hq, ho, hh, hop, ht, finishVec, Bool.false_eq_true, ↓reduceIte]

theorem execVectorComplete_sts (hop : v.ops[v.idx]? = some (.sts va xf))
    (ht : vecStore ⟨s.ev.die, s.ev.core, k⟩ v ((xferDoubles va xf v.rep).drop v.pos) s = .ok t) : exec .vectorComplete s
      = .next ((t.unhold s.ev.die (.vector ⟨s.ev.die, s.ev.core, k⟩)).nextVec ⟨s.ev.die, s.ev.core, k⟩ v) := by
  change execVectorComplete s = _
  simp only [execVectorComplete, hq, ho, hh, hop, ht, finishVec, Bool.false_eq_true, ↓reduceIte]

theorem execVectorComplete_cfg (hop : v.ops[v.idx]? = some (.cfg va)) (h0 : va ≠ 0)
    (ht : vecConfig ⟨s.ev.die, s.ev.core, k⟩ v va (List.range 16) [] s = .ok t) : exec .vectorComplete s
      = .next ((t.unhold s.ev.die (.vector ⟨s.ev.die, s.ev.core, k⟩)).nextVec ⟨s.ev.die, s.ev.core, k⟩ v) := by
  change execVectorComplete s = _
  simp only [execVectorComplete, hq, ho, hh, hop, h0, ht, finishVec, Bool.false_eq_true, ↓reduceIte]

end

/-- The unit is given up by the last entry alone; a later one keeps it for its owner. -/
theorem execVectorComplete_leaves (hop : v.ops[v.idx]? = some (.cfg 0)) : exec .vectorComplete s
    = .next ((s.modCore s.ev.die s.ev.core fun c => { c with row := { c.row with
        owner := if rest = [] then none else some k } }).nextVec ⟨s.ev.die, s.ev.core, k⟩ v) := by
  have hrow : { (s.core s.ev.die s.ev.core).row with
        owner := if (s.core s.ev.die s.ev.core).row.queue.length ≤ 1 then none else (s.core s.ev.die s.ev.core).row.owner }
      = { (s.core s.ev.die s.ev.core).row with owner := if rest = [] then none else some k } := by
    rw [hq, ho]
    cases rest <;> simp
  have hmod : (s.modRow s.ev.die s.ev.core fun r => { r with owner := if r.queue.length ≤ 1 then none else r.owner })
      = s.modCore s.ev.die s.ev.core fun c => { c with row := { c.row with owner := if rest = [] then none else some k } } :=
    congrArg (fun r => s.setCore s.ev.die s.ev.core { s.core s.ev.die s.ev.core with row := r }) hrow
  change execVectorComplete s = _
  rw [← hmod]
  simp only [execVectorComplete, hq, ho, hh, hop, Bool.false_eq_true, ↓reduceIte]

end

/-- Settles O32: the issue of each vector instruction, the completion of each, then the steps of a transfer and of a
configuration. -/
theorem vectorInstructions : Obligations.VectorInstructions := by
  unfold Obligations.VectorInstructions
  refine ⟨?issue, ?sequencer, ?transfers⟩
  case issue =>
    intro s d a b f i me row w v trap puts item enters
    refine ⟨fun hp => ⟨fun k => execVcfg_owned hp, execVcfg_free hp, fun ho => ⟨execVcfg_misaligned hp ho, execVcfg_beyond hp ho,
      fun h6 hv => ⟨execVcfg_enters hp ho h6 hv, execVcfg_waits hp ho h6 hv⟩⟩⟩, fun hp ho => ?notOwner, fun hp ho hl => ?owner⟩
    case notOwner =>
      have hp' := State.plain_srcs hp
      have hp1 := State.plain_left hp
      exact ⟨issueVec_notOwner hp _ ho, issueVec_notOwner hp' _ ho, issueVec_notOwner hp' _ ho, issueVec_notOwner hp' _ ho,
        issueVec_notOwner hp1 _ ho, issueVec_notOwner hp1 _ ho, issueVec_notOwner hp1 _ ho⟩
    case owner =>
      intro n fits off len count bytes red last
      have hp' := State.plain_srcs hp
      have hp1 := State.plain_left hp
      have hmin : FpOp.fmin = .fadd → (rmode me.frm).isSome = true := fun h => nomatch h
      have hmax : FpOp.fmax = .fadd → (rmode me.frm).isSome = true := fun h => nomatch h
      refine ⟨fun hq => ⟨fun h => ?_, fun h ha hv => ⟨?_, ?_⟩, fun h0 hb => ⟨fun hm => ?_, ?_, ?_⟩,
          fun h hb => execVseq_repeats ho hl hp' h hb hq⟩,
        fun hq => ⟨fun h => ?_, fun h ha hv => ⟨?_, ?_⟩, fun h0 hb => ?_⟩, execVrun_operand ho hl hp,
        fun h => ⟨execXfer_operand ho hl hp' false h, execXfer_operand ho hl hp' true h⟩,
        fun h ha => ⟨execXfer_misaligned ho hl hp' false h ha, execXfer_misaligned ho hl hp' true h ha⟩,
        fun h => ⟨execVred_operand ho hl hp1 .fadd f h, execVred_operand ho hl hp1 .fmin f h,
          execVred_operand ho hl hp1 .fmax f h⟩,
        execVred_reserved ho hl hp1 f, execVseq_operand ho hl hp', execVseq_never ho hl hp'⟩
      · exact (execVrun_queues ho hl hp h).trans (enterSequencer_enters hq ..)
      · exact (execXfer_queues ho hl hp' false h ha hv).trans (enterSequencer_enters hq ..)
      · exact (execXfer_queues ho hl hp' true h ha hv).trans (enterSequencer_enters hq ..)
      · exact (execVred_queues ho hl hp1 .fadd f h0 hb fun _ => hm).trans (enterSequencer_enters hq ..)
      · exact (execVred_queues ho hl hp1 .fmin f h0 hb hmin).trans (enterSequencer_enters hq ..)
      · exact (execVred_queues ho hl hp1 .fmax f h0 hb hmax).trans (enterSequencer_enters hq ..)
      · exact (execVrun_queues ho hl hp h).trans (enterSequencer_waits hq ..)
      · exact (execXfer_queues ho hl hp' false h ha hv).trans (enterSequencer_waits hq ..)
      · exact (execXfer_queues ho hl hp' true h ha hv).trans (enterSequencer_waits hq ..)
      · exact (execVred_queues ho hl hp1 .fmin f h0 hb hmin).trans (enterSequencer_waits hq ..)
  case sequencer =>
    intro s v rest k n x d o f lane count rm va xf t i row st width elems goesOn flags
    have hflags (u : State) (fl : FpFlags) (w : BitVec 32) : flags u fl w = u.vecFlags i fl w := (u.vecFlags_eq i fl w).symm
    refine ⟨execVectorComplete_idle, ⟨VecItem.next_inner, VecItem.next_repeat, VecItem.next_none⟩, fun hq ho hh =>
      ⟨fun hop => ?_, fun hop => ?_, execVectorComplete_lds hq ho hh, execVectorComplete_sts hq ho hh,
        execVectorComplete_leaves hq ho hh, execVectorComplete_cfg hq ho hh⟩⟩
    · simp only [hflags]
      exact execVectorComplete_run hq ho hh hop
    · simp only [hflags]
      exact execVectorComplete_red hq ho hh hop
  case transfers =>
    intro i v a lane off pa key l ws s u row
    refine ⟨fun hr _ hoff => ⟨_, vecLoad_cons hr lane off l, ?_⟩, fun hr hj => vecStore_cons hr hj lane off l,
      ⟨_, vecConfig_nil i v a ws s, ?_⟩⟩
    · obtain ⟨q, hrow⟩ := u.loadedDouble_row i lane off pa key
      have hrow' : row (u.loadedDouble i lane off pa key) = _ := hrow
      obtain ⟨hmem, hslots⟩ := u.loadedDouble_frame i lane off pa key
      rw [hrow']
      refine ⟨?_, rfl, rfl, hmem, hslots⟩
      exact (RowUnit.elem_congr (r' := (row u).setElem lane off 8 (u.ownDouble i key pa)) rfl lane off 8).trans
        (RowUnit.elem_setElem _ lane hoff _)
    · have hrow : row (s.modRow i.die i.core fun r => { r with lanes := configLanes ws, cursors := [] }) = _ :=
        s.modRow_row i.die i.core _
      rw [hrow]
      exact ⟨fun k hk => tblGet_foldl_range 0 (ws.getD · 0) 16 k hk, rfl, rfl, rfl, rfl, rfl⟩

end Sys2Proof.Machine
end

section
/-!
SUPPORT. What reset leaves (11 R336, R337; 02 R62): the slots that a reset lists, and the dies that it keeps.
-/

namespace Sys2Proof

variable {α : Type}

/-- The entry of a key in two tables, one after the other. -/
theorem tblGet_append (d : α) (k : Nat) (t u : Tbl α) : tblGet d k (t ++ u) = tblGet (tblGet d k u) k t := by
  induction t with
  | nil => rfl
  | cons e r ih =>
    obtain ⟨i, x⟩ := e
    simp only [List.cons_append, tblGet, ih]

/-- Entries with distinct keys, written one after another into a table, stand before what it held. -/
theorem tblGet_foldl_entries [DecidableEq α] (d : α) (k : Nat) {l : Tbl α} (hkeys : (l.map (·.1)).Pairwise (· < ·))
    (t : Tbl α) : tblGet d k (l.foldl (fun t e => tblSet d e.1 e.2 t) t) = tblGet (tblGet d k t) k l := by
  induction l generalizing t with
  | nil => rfl
  | cons e r ih =>
    obtain ⟨i, x⟩ := e
    rw [List.map_cons, List.pairwise_cons] at hkeys
    obtain ⟨hlow, hkeys⟩ := hkeys
    rw [List.foldl_cons, ih hkeys, tblGet]
    split
    next h =>
      subst h
      rw [tblGet_set_self]
      exact tblGet_of_forall_ne fun e he => (hlow _ (List.mem_map_of_mem he)).ne'
    next h => rw [tblGet_set_ne d (Ne.symm h)]

/-- The entry of a key, when every entry is changed and the default is kept. -/
theorem tblGet_map_of_default {β : Type} {d : α} {e : β} (f : α → β) (hd : f d = e) (k : Nat) (t : Tbl α) :
    tblGet e k (t.map fun x => (x.1, f x.2)) = f (tblGet d k t) := by
  induction t with
  | nil => exact hd.symm
  | cons x r ih =>
    obtain ⟨i, x⟩ := x
    rw [List.map_cons, tblGet, tblGet, ih, apply_ite f]

end Sys2Proof

namespace Sys2Proof.Machine

/-- A reset lists slot 15 of core 0 of each of the first n dies. -/
theorem tblGet_bootSlots (x : SlotSt) (n k : Nat) :
    tblGet x k (bootSlots n) = if k % 32768 = 15 ∧ k / 32768 < n then bootSlot (BitVec.ofNat 6 (k / 32768)) else x := by
  induction n generalizing x with
  | zero => exact (if_neg fun h => Nat.not_lt_zero _ h.2).symm
  | succ n ih =>
    rw [bootSlots, tblGet_append, ih, tblGet, tblGet]
    by_cases hn : n * 32768 + 15 = k
    · have hdiv : k / 32768 = n := by omega
      have hmod : k % 32768 = 15 := by omega
      simp [hn, hdiv, hmod]
    · have hiff : (k % 32768 = 15 ∧ k / 32768 < n + 1) ↔ (k % 32768 = 15 ∧ k / 32768 < n) := by omega
      simp only [hn, hiff, ↓reduceIte]

/-- After reset slot 15 of core 0 of a die is its boot slot, and every other slot is FREE. -/
theorem State.reset_slot (d : Die) (c : CoreNo) (n : SlotNo) :
    State.reset.slot ⟨d, c, n⟩ = if c = 0 ∧ n = 15 then bootSlot d else {} := by
  have hc := c.isLt
  have hn := n.isLt
  have hd := d.isLt
  have hkey : slotKey ⟨d, c, n⟩ = d.toNat * 32768 + (c.toNat * 16 + n.toNat) := by
    simp only [slotKey, coreKey]
    omega
  have hdiv : slotKey ⟨d, c, n⟩ / 32768 = d.toNat := by omega
  have hmod : slotKey ⟨d, c, n⟩ % 32768 = 15 ↔ c = 0 ∧ n = 15 := by
    have h0 : c = 0 ↔ c.toNat = 0 := BitVec.toNat_inj.symm
    have h15 : n = 15 ↔ n.toNat = 15 := BitVec.toNat_inj.symm
    rw [h0, h15]
    omega
  refine (tblGet_bootSlots {} 64 (slotKey ⟨d, c, n⟩)).trans ?_
  simp only [hdiv, hmod, hd, and_true, BitVec.ofNat_toNat, BitVec.setWidth_eq]

/-- The boot slot of core 0 has the turn after reset, and may issue. -/
theorem State.reset_turnOk : State.reset.TurnOk := by decide

/-- Settles O59: the slots of a die, the registers at their reset values, then turn and memory. -/
theorem resetValues : Obligations.ResetValues := by
  unfold Obligations.ResetValues
  refine ⟨?values, State.reset_turnOk, State.reset_memoryOk⟩
  case values =>
    intro d c n h l p s x y
    have hy : y = if c = 0 ∧ n = 15 then bootSlot d else {} := State.reset_slot d c n
    refine ⟨fun hc hn => ?_, fun hboot => ?_, ?_, rfl, rfl, rfl, rfl, rfl, rfl, rfl, rfl, rfl, rfl,
      rfl, rfl, rfl, rfl, rfl, rfl, rfl⟩
    · rw [hy, if_pos ⟨hc, hn⟩]
      rfl
    · rw [hy, if_neg hboot]
    · rw [hy, apply_ite SlotSt.inc]
      rfl

end Sys2Proof.Machine
end

section
/-!
SUPPORT. Reset and the stages of boot (11 R336, R337, R340 to R344; 01 R32; 16 R434): each event of the boot in its cases.
-/

namespace Sys2Proof.Machine

/-! The boot registers of a die -/

section
variable (s : State) (d : Die)

@[simp] theorem State.modBoot_boot (f : BootSt → BootSt) : ((s.modBoot d f).die d).boot = f (s.die d).boot := by
  simp [State.modBoot]

theorem State.modBoot_die (f : BootSt → BootSt) :
    (s.modBoot d f).die d = { s.die d with boot := f (s.die d).boot } := State.modDie_self ..

/-- A change of the boot registers depends on what it makes of those of its die. -/
theorem State.modBoot_congr {s : State} {d : Die} {f g : BootSt → BootSt} (h : f (s.die d).boot = g (s.die d).boot) :
    s.modBoot d f = s.modBoot d g := by
  simp only [State.modBoot, State.modDie, h]

end

/-- A fault changes BOOTERR alone, and there the first one stays. -/
theorem BootSt.fail_eq (b : BootSt) (stage unit code : Nat) :
    b.fail stage unit code = { b with err := if b.err = 0 then bootErr stage unit code else b.err } := by
  rw [BootSt.fail]
  split <;> rfl

theorem bootErr_stage (stage unit code : Nat) : (bootErr stage unit code).extractLsb' 0 4 = BitVec.ofNat 4 stage := by
  rw [bootErr]
  exact BitVec.extractLsb'_append_eq_right

theorem bootErr_code (stage unit code : Nat) : (bootErr stage unit code).extractLsb' 8 8 = BitVec.ofNat 8 code := by
  rw [bootErr, BitVec.append_assoc]
  exact BitVec.extractLsb'_append_eq_left

/-- A link that failed its training does not hold a die that nothing else holds (log entry 67). -/
theorem BootSt.fatal_fail_link {b : BootSt} (h : b.fatal = false) (stage unit : Nat) :
    (b.fail stage unit linkCode).fatal = false := by
  rw [BootSt.fail]
  split
  · simp [BootSt.fatal, bootErr_code, linkCode]
  · exact h

/-! MODULE_RESET and PERST (11 R336) -/

/-- The dies after a module reset: each has kept its flash image with the repair map. -/
theorem State.die_afterReset {s t : State} (hwf : tblWf {} s.dies = true)
    (hdies : t.dies = (s.dies.map fun e => (e.1, e.2.afterReset)).foldl (fun t e => tblSet {} e.1 e.2 t) []) (d : Die) :
    t.die d = (s.die d).afterReset := by
  have hkeys : ((s.dies.map fun e => (e.1, e.2.afterReset)).map (·.1)).Pairwise (· < ·) := by
    rw [List.map_map]
    exact ((tblWf_iff {} s.dies).1 hwf).1
  rw [State.die, hdies, tblGet_foldl_entries _ _ hkeys]
  exact tblGet_map_of_default (d := {}) DieSt.afterReset rfl _ _

theorem execPerst_standalone {s : State} (h : s.standalone = true) : exec .perst s = exec .moduleReset s := by
  change execPerst s = _
  exact if_pos h

theorem execPerst_panel {s : State} (h : s.standalone = false) :
    exec .perst s = .next (s.modDie s.ev.die fun x => { x with wins := [], hostQueue := [] }) := by
  change execPerst s = _
  exact if_neg (ne_true_of_eq_false h)

/-! IMAGE_VERIFY and IDENTITY_DERIVE (11 R340, R341) -/

section
variable {s : State} (hnot : (s.die s.ev.die).boot.fatal = false)
include hnot

theorem execImageVerify_accepted (hstage : (s.die s.ev.die).boot.stage = 0)
    (himage : imageError (s.die s.ev.die).boot.flash = none) :
    exec .imageVerify s = .next (s.modBoot s.ev.die fun x => { x with stage := 1 }) := by
  change execImageVerify s = _
  refine congrArg Host.Outcome.next (State.modBoot_congr ?_)
  simp [hstage, hnot, himage]

theorem execImageVerify_refused {code : Nat} (hstage : (s.die s.ev.die).boot.stage = 0)
    (himage : imageError (s.die s.ev.die).boot.flash = some code) :
    exec .imageVerify s = .next (s.modBoot s.ev.die (·.fail 1 0 code)) := by
  change execImageVerify s = _
  refine congrArg Host.Outcome.next (State.modBoot_congr ?_)
  simp [hstage, hnot, himage]

theorem execIdentityDerive_secret {secret : BitVec 256} (hstage : (s.die s.ev.die).boot.stage = 1)
    (hpuf : Config.pufSecret s.ev.die (flashHelper (s.die s.ev.die).boot.flash) = some secret) :
    exec .identityDerive s
      = .next (s.modBoot s.ev.die fun x => { x.setReady (1 <<< 25) with stage := 2, devid := deviceId secret }) := by
  change execIdentityDerive s = _
  refine congrArg Host.Outcome.next (State.modBoot_congr ?_)
  simp [hstage, hnot, hpuf]

theorem execIdentityDerive_noSecret (hstage : (s.die s.ev.die).boot.stage = 1)
    (hpuf : Config.pufSecret s.ev.die (flashHelper (s.die s.ev.die).boot.flash) = none) :
    exec .identityDerive s = .next (s.modBoot s.ev.die (·.fail 2 0 3)) := by
  change execIdentityDerive s = _
  refine congrArg Host.Outcome.next (State.modBoot_congr ?_)
  simp [hstage, hnot, hpuf]

end

/-- The first key of an image that does not verify gives the code of its refusal. -/
theorem imageError_eq (img : List Byte) :
    let e := flashNum img 0x10
    let k1 := (img.drop 0x40).take 32
    let k2 := (img.drop 0x60).take 1952
    imageError img =
      if sha384 k1 = Config.romDigests.1 ∧ Config.ed25519Verifies k1 (img.take e) ((img.drop e).take 64) = true then
        if sha384 k2 = Config.romDigests.2 ∧ Config.mldsaVerifies k2 (img.take e) ((img.drop (e + 64)).take 3309) = true
        then none else some 2
      else some 1 := by
  intro e k1 k2
  simp only [imageError, flashKeys, flashSigs, bne_iff_ne, ne_eq, Bool.or_eq_true, Bool.not_eq_true', ← Bool.not_eq_true,
    ← not_and_or, ite_not]
  rfl

/-! SELF_TEST (11 R342) -/

section
variable (s : State) (d : Die) {e : RepairEntry}

/-- A bit pattern shifted as a number is the pattern shifted (RSLOT). -/
theorem ofNat_shiftLeft (w m n : Nat) : BitVec.ofNat w (m <<< n) = BitVec.ofNat w m <<< n :=
  BitVec.eq_of_toNat_eq (by simp [Nat.shiftLeft_eq])

/-- A listed slot other than slot 15. -/
theorem State.retireUnit_slot (hk : e.kind = 1) (hs : e.sub ≠ 15) :
    s.retireUnit d e = s.modCore d e.unit fun c => { c with rslot := c.rslot ||| 1#16 <<< e.sub.toNat } := by
  have hrest : (e.sub == 15) = false := beq_false_of_ne hs
  simp only [State.retireUnit, lostCore, hk, hrest]
  simp [ofNat_shiftLeft]

/-- A listed register-file bank other than bank 7. -/
theorem State.retireUnit_bank (hk : e.kind = 2) (hs : e.sub ≠ 7) :
    s.retireUnit d e = s.modCore d e.unit fun c => { c with rslot := c.rslot ||| 3#16 <<< (2 * (e.sub.toNat % 8)) } := by
  have hrest : (e.sub == 7) = false := beq_false_of_ne hs
  simp only [State.retireUnit, lostCore, hk, hrest]
  simp [ofNat_shiftLeft]

/-- Slot 15 of a core takes the core with it. -/
theorem State.retireUnit_slot15 (hk : e.kind = 1) (hs : e.sub = 15) :
    s.retireUnit d e = (s.modCore d e.unit fun c => { c with rslot := c.rslot ||| 1#16 <<< 15 }).modCore d e.unit
      fun c => { c with retired := true } := by
  simp [State.retireUnit, lostCore, hk, hs]

/-- Bank 7 of a core takes the core with it. -/
theorem State.retireUnit_bank7 (hk : e.kind = 2) (hs : e.sub = 7) :
    s.retireUnit d e = (s.modCore d e.unit fun c => { c with rslot := c.rslot ||| 3#16 <<< 14 }).modCore d e.unit
      fun c => { c with retired := true } := by
  simp [State.retireUnit, lostCore, hk, hs]

theorem State.retireUnit_core (hk : e.kind = 3) :
    s.retireUnit d e = s.modCore d e.unit fun c => { c with retired := true } := by
  simp [State.retireUnit, lostCore, hk]

theorem State.retireUnit_shed (hk : e.kind = 4) :
    s.retireUnit d e = s.modShed d (e.unit.extractLsb' 0 9) fun x => { x with retired := true } := by
  simp [State.retireUnit, lostCore, hk]

theorem State.retireUnit_hart (hk : e.kind = 6) :
    s.retireUnit d e = s.modHart d (e.unit.extractLsb' 0 6) fun x => { x with retired := true } := by
  simp [State.retireUnit, lostCore, hk]

/-- RSLOT of the core of a listed slot. -/
theorem State.retireUnit_slot_rslot (hk : e.kind = 1) :
    ((s.retireUnit d e).core d e.unit).rslot = ((s.core d e.unit).rslot ||| 1#16 <<< e.sub.toNat) := by
  by_cases hs : e.sub = 15
  · simp [s.retireUnit_slot15 d hk hs, hs]
  · simp [s.retireUnit_slot d hk hs]

/-- RSLOT of the core of a listed bank. -/
theorem State.retireUnit_bank_rslot (hk : e.kind = 2) (hb : e.sub.toNat < 8) :
    ((s.retireUnit d e).core d e.unit).rslot = ((s.core d e.unit).rslot ||| 3#16 <<< (2 * e.sub.toNat)) := by
  by_cases hs : e.sub = 7
  · simp [s.retireUnit_bank7 d hk hs, hs]
  · simp [s.retireUnit_bank d hk hs, Nat.mod_eq_of_lt hb]

/-- A listed core, or one whose slot 15 or bank 7 is listed, is retired. -/
theorem State.retireUnit_retired (h : e.kind = 3 ∨ e.kind = 1 ∧ e.sub = 15 ∨ e.kind = 2 ∧ e.sub = 7) :
    ((s.retireUnit d e).core d e.unit).retired = true := by
  obtain hk | ⟨hk, hs⟩ | ⟨hk, hs⟩ := h
  · simp [s.retireUnit_core d hk]
  · simp [s.retireUnit_slot15 d hk hs]
  · simp [s.retireUnit_bank7 d hk hs]

theorem State.writeRepairs_repairs (l : List RepairEntry) : ((s.writeRepairs d l).die d).boot.repairs = l := by
  simp [State.writeRepairs]

end

/-- The units of a repair map retired, and the map written where it has grown. -/
def State.retireMap (s : State) (d : Die) (map : List RepairEntry) : State :=
  let t := map.foldl (fun s e => s.retireUnit d e) s
  if map = (s.die d).boot.repairs then t else t.writeRepairs d map

section
variable {s : State} {l map : List RepairEntry} (hload : s.ev.load = .repairs l) (hstage : (s.die s.ev.die).boot.stage = 2)
  (hnot : (s.die s.ev.die).boot.fatal = false) (hmap : addRepairs (s.die s.ev.die).boot.repairs l = map)
include hload hstage hnot hmap

theorem execSelfTest_eq : exec .selfTest s = .next ((s.retireMap s.ev.die map).modBoot s.ev.die fun b =>
    if map.any fun e => lostCore e == some 0 then b.fail 3 0 4 else { b.setReady stage3Ready with stage := 3 }) := by
  change execSelfTest s = _
  simp [execSelfTest, hload, hstage, hnot, hmap, State.retireMap]

theorem execSelfTest_passes (hlost : ∀ e ∈ map, lostCore e ≠ some 0) : exec .selfTest s
    = .next ((s.retireMap s.ev.die map).modBoot s.ev.die fun b => { b.setReady stage3Ready with stage := 3 }) := by
  have hany : map.any (fun e => lostCore e == some 0) = false := by simpa using hlost
  rw [execSelfTest_eq hload hstage hnot hmap, hany]
  rfl

theorem execSelfTest_fails (hlost : ∃ e ∈ map, lostCore e = some 0) :
    exec .selfTest s = .next ((s.retireMap s.ev.die map).modBoot s.ev.die (·.fail 3 0 4)) := by
  have hany : map.any (fun e => lostCore e == some 0) = true := by simpa using hlost
  rw [execSelfTest_eq hload hstage hnot hmap, hany]
  rfl

end

/-! HBM_TRAINING_DONE (11 R337, R343) -/

/-- The stacks of a die come up: no double of its HBM is full, and every key slot is a bypass slot. -/
def State.hbmUp (s : State) (d : Die) : State :=
  { s with full := s.full.filter fun pa => !inHbm d pa }.modDie d fun x => { x with keys := [] }

@[simp] theorem State.hbmUp_boot (s : State) (d : Die) : ((s.hbmUp d).die d).boot = (s.die d).boot := by
  rw [State.hbmUp, State.modDie_self]
  rfl

theorem State.hbmUp_keys (s : State) (d : Die) : ((s.hbmUp d).die d).keys = [] := by
  simp [State.hbmUp]

theorem State.hbmUp_full (s : State) {d : Die} {pa : Nat} (hd : paDie pa = d) (hs : paSpace pa = 0) :
    (s.hbmUp d).full.contains pa = false := by
  simp [State.hbmUp, inHbm, hd, hs]

/-- The boot registers of a die with the READY bits of the stacks that trained; with all of them HBM is ready, without one a
fault holds the die. -/
def BootSt.stacksUp (b : BootSt) (ok : BitVec 12) : BootSt :=
  let c := b.setReady (ok.zeroExtend 27)
  if ok = BitVec.allOnes 12 then { c.setReady (3 <<< 12) with trained := true } else c.fail 4 (lowestClear ok) 5

theorem BootSt.stacksUp_all (b : BootSt) :
    b.stacksUp (BitVec.allOnes 12) = { b with ready := b.ready ||| 0x3fff#27, trained := true } := by
  have hready : b.ready ||| (BitVec.allOnes 12).zeroExtend 27 ||| 3 <<< 12 = b.ready ||| 0x3fff#27 := BitVec.or_assoc ..
  rw [BootSt.stacksUp, if_pos rfl, ← hready]
  rfl

section
variable {b : BootSt} {ok : BitVec 12} (hsome : ok ≠ BitVec.allOnes 12)
include hsome

theorem BootSt.stacksUp_trained : (b.stacksUp ok).trained = b.trained := by
  rw [BootSt.stacksUp, if_neg hsome, BootSt.fail_eq]
  rfl

theorem BootSt.stacksUp_err (he : b.err = 0) : (b.stacksUp ok).err = bootErr 4 (lowestClear ok) 5 := by
  rw [BootSt.stacksUp, if_neg hsome, BootSt.fail_eq]
  exact if_pos he

end

section
variable {s : State} {ok : BitVec 12} (hload : s.ev.load = .stacks ok) (hstage : (s.die s.ev.die).boot.stage = 3)
  (hnot : (s.die s.ev.die).boot.fatal = false) (hfirst : (s.die s.ev.die).boot.trained = false)
include hload hstage hnot hfirst

theorem execHbmTrainingDone_eq :
    exec .hbmTrainingDone s = .next ((s.hbmUp s.ev.die).modBoot s.ev.die (·.stacksUp ok)) := by
  change execHbmTrainingDone s = _
  simp [execHbmTrainingDone, hload, hstage, hnot, hfirst, State.hbmUp, BootSt.stacksUp]

end

/-! LINK_TRAINING_DONE (11 R337, R339) -/

/-- The links of a die with the states that their training gave them. -/
def linksTrained (up : BitVec 4) (t : Tbl LinkSt) : Tbl LinkSt :=
  (List.range 4).foldl (fun t k =>
    tblSet {} k { (tblGet {} k t : LinkSt) with state := if up.getLsbD k then .up else .down } t) t

theorem linksTrained_state (up : BitVec 4) (t : Tbl LinkSt) {n : Nat} (h : n < 4) :
    (tblGet {} n (linksTrained up t) : LinkSt).state = if up.getLsbD n then .up else .down := by
  have hrange : List.range 4 = [0, 1, 2, 3] := rfl
  rw [linksTrained, hrange]
  simp only [List.foldl_cons, List.foldl_nil]
  obtain rfl | rfl | rfl | rfl : n = 0 ∨ n = 1 ∨ n = 2 ∨ n = 3 := by omega
  all_goals simp [tblGet_set_ne]

/-- The boot registers of a die with the READY bits of its live links and of its host port. -/
def BootSt.linksUp (b : BootSt) (alive : BitVec 4) (pcie : Bool) : BootSt :=
  let c : BootSt := { b.setReady (alive.zeroExtend 27 <<< 19) with linked := true }
  if pcie then { c.setReady (1 <<< 23) with hostPort := true } else c

theorem BootSt.linksUp_eq (b : BootSt) (alive : BitVec 4) (pcie : Bool) :
    b.linksUp alive pcie = { b with
      linked := true
      ready := b.ready ||| alive.zeroExtend 27 <<< 19 ||| if pcie then 1#27 <<< 23 else 0
      hostPort := b.hostPort || pcie } := by
  cases pcie <;> simp [BootSt.linksUp, BootSt.setReady]

/-- The boot registers with the lowest link that failed its training in BOOTERR. -/
def BootSt.noteLinks (b : BootSt) (failed : BitVec 4) : BootSt :=
  if failed = 0 then b else b.fail 5 (lowestSet failed) linkCode

theorem BootSt.noteLinks_eq (b : BootSt) (failed : BitVec 4) :
    b.noteLinks failed = { b with err := (b.noteLinks failed).err } := by
  rw [BootSt.noteLinks]
  split
  · rfl
  · rw [BootSt.fail_eq]

/-- The boot registers after link training: what is ready, and what has failed. -/
theorem BootSt.noteLinks_linksUp (b : BootSt) (alive failed : BitVec 4) (pcie : Bool) :
    (b.linksUp alive pcie).noteLinks failed = { b with
      linked := true
      ready := b.ready ||| alive.zeroExtend 27 <<< 19 ||| if pcie then 1#27 <<< 23 else 0
      hostPort := b.hostPort || pcie
      err := ((b.linksUp alive pcie).noteLinks failed).err } := by
  rw [BootSt.noteLinks_eq]
  simp only [b.linksUp_eq]

theorem BootSt.noteLinks_linksUp_err {b : BootSt} (alive : BitVec 4) {failed : BitVec 4} (pcie : Bool) (hf : failed ≠ 0)
    (he : b.err = 0) : ((b.linksUp alive pcie).noteLinks failed).err = bootErr 5 (lowestSet failed) linkCode := by
  rw [BootSt.noteLinks, if_neg hf, b.linksUp_eq, BootSt.fail]
  exact congrArg BootSt.err (if_pos he)

/-- A die that nothing holds comes through link training. -/
theorem BootSt.noteLinks_linksUp_fatal {b : BootSt} (h : b.fatal = false) (alive failed : BitVec 4) (pcie : Bool) :
    ((b.linksUp alive pcie).noteLinks failed).fatal = false := by
  have hup : (b.linksUp alive pcie).fatal = false := by
    rw [b.linksUp_eq]
    exact h
  rw [BootSt.noteLinks]
  split
  · exact hup
  · exact BootSt.fatal_fail_link hup ..

section
variable {s : State} {up failed : BitVec 4} {pcie : Bool} (hload : s.ev.load = .links up failed pcie)
  (hstage : (s.die s.ev.die).boot.stage = 3) (hnot : (s.die s.ev.die).boot.fatal = false)
  (hfirst : (s.die s.ev.die).boot.linked = false)
include hload hstage hnot hfirst

theorem execLinkTrainingDone_eq : exec .linkTrainingDone s
    = .next ((s.modDie s.ev.die fun x => { x with links := linksTrained (if s.standalone then 0 else up) x.links }).modBoot
      s.ev.die fun b => (b.linksUp (if s.standalone then 0 else up) pcie).noteLinks failed) := by
  change execLinkTrainingDone s = _
  simp only [execLinkTrainingDone, hload, hstage, hnot, hfirst]
  rfl

end

/-! PROBE_WINDOW_END (01 R32; 11 R343) -/

section
variable {s : State}

theorem execProbeWindowEnd_stays (h : (s.die s.ev.die).boot.linked = false ∨ (s.die s.ev.die).boot.fatal = true
    ∨ (s.die s.ev.die).boot.present = true) : exec .probeWindowEnd s = .next s := by
  change execProbeWindowEnd s = _
  refine congrArg Host.Outcome.next ?_
  dsimp only
  split
  next p _ =>
    refine if_pos ?_
    obtain h | h | h := h <;> simp [State.probes, h]
  next => rfl

/-- A die whose window finds what its neighbours found joins the panel with its place, the map of the good dies and the root. -/
theorem execProbeWindowEnd_joins {p : Probe} {all : List Die} {place : Nat} {good hosts : BitVec 64}
    (hall : s.probed 63 [s.ev.die] = all) (hplace : s.place8 s.ev.die = place) (hgood : s.positions all = good)
    (hhosts : s.positions (all.filter fun e => (s.die e).boot.hostPort) = hosts)
    (hload : s.ev.load = .probe p) (hlinked : (s.die s.ev.die).boot.linked = true)
    (hnot : (s.die s.ev.die).boot.fatal = false) (hnew : (s.die s.ev.die).boot.present = false)
    (hlate : ∀ e ∈ all, (s.die e).boot.present = true → (s.die e).boot.good = good)
    (hnumber : goodBelow good place = s.ev.die.toNat) (hroutes : routesOk p.routes = true) (hcores : p.coreRoutes = []) :
    exec .probeWindowEnd s = .next (s.modDie s.ev.die fun x =>
      { x with
        routes := p.routes
        boot := { x.boot.setReady (1 <<< 24) with
          px := BitVec.ofNat 3 place, py := BitVec.ofNat 3 (place / 8), die := s.ev.die, good, solo := s.standalone
          present := true, root := rootPosition good hosts == place } }) := by
  have hearly : all.any (fun e => (s.die e).boot.present && (s.die e).boot.good != good) = false := by
    simpa only [List.any_eq_false, Bool.and_eq_true, bne_iff_ne, not_and, not_not] using hlate
  have hprobes : s.probes s.ev.die = true := by simp [State.probes, hlinked, hnot]
  have hjoins : (!s.probes s.ev.die || (s.die s.ev.die).boot.present
      || all.any (fun e => (s.die e).boot.present && (s.die e).boot.good != good) || goodBelow good place != s.ev.die.toNat
      || !routesOk p.routes || p.coreRoutes.any (fun e => !routesOk e.2)) = false := by
    simp [hprobes, hnew, hearly, hnumber, hroutes, hcores]
  change execProbeWindowEnd s = _
  simp only [execProbeWindowEnd, hload, hall, hplace, hgood, hhosts]
  refine congrArg Host.Outcome.next ((if_neg (ne_true_of_eq_false hjoins)).trans ?_)
  rw [hcores]
  rfl

end

/-! LAUNCH_RINGS_READY (11 R337, R344) -/

/-- Two changes of a die are one. -/
theorem State.modDie_modDie (s : State) (d : Die) (f g : DieSt → DieSt) :
    (s.modDie d f).modDie d g = s.modDie d fun x => g (f x) := by
  rw [State.modDie, State.modDie_self]
  simp only [State.modDie, State.setDie, tblSet_tblSet]

/-- An address context after a write of one of its doubles, by the offset of the double (Tables 4-10, 4-11). -/
def CtxReg.write (c : CtxReg) (k : Nat) (v : Word) : CtxReg :=
  if k = 0 then c.setRoot v else { c with asid := v.extractLsb' 0 16, en := v.getLsbD 16 }

/-- A die whose context registers have the two doubles of a context. -/
def DieSt.writeContext (x : DieSt) (c : CtxInit) : DieSt :=
  let r : CtxReg := tblGet {} c.ctx.toNat x.ctxs
  { x with ctxs := tblSet {} c.ctx.toNat ((r.write 0 c.table).write 8 c.mode) x.ctxs }

/-- A write of a double of a context. -/
theorem State.writeControl_context (s : State) (d : Die) (n : BitVec 12) {k : Nat} (hk : k < 16) (v : Word) (priv : Bool) :
    s.writeControl d (0x40000 + 16 * n.toNat + k) v priv = s.modDie d fun x =>
      { x with ctxs := tblSet {} n.toNat ((tblGet {} n.toNat x.ctxs : CtxReg).write k v) x.ctxs } := by
  have hn := n.isLt
  have hdiv : (0x40000 + 16 * n.toNat + k - 0x40000) / 16 = n.toNat := by omega
  have hmod : (0x40000 + 16 * n.toNat + k) % 16 = k := by omega
  have hlow {m : Nat} (hm : m < 0x40000) : ¬ 0x40000 + 16 * n.toNat + k < m := by omega
  have hne {m : Nat} (hm : m < 0x40000) : ¬ 0x40000 + 16 * n.toNat + k = m := by omega
  have hfrom : 0x40000 ≤ 0x40000 + 16 * n.toNat + k := by omega
  have hto : 0x40000 + 16 * n.toNat + k < 0x50000 := by omega
  simp only [State.writeControl, hlow (m := 0x240) (by decide), hlow (m := 0x1080) (by decide), hne (m := 0x300) (by decide),
    hne (m := 0x308) (by decide), hne (m := 0x310) (by decide), hne (m := 0x318) (by decide), hne (m := 0x320) (by decide),
    hne (m := 0x330) (by decide), hne (m := 0x338) (by decide), hne (m := 0x1080) (by decide), hfrom, hto, hdiv, hmod,
    decide_false, decide_true, Bool.and_false, Bool.and_true, Bool.false_eq_true, ↓reduceIte]
  rfl

/-- The two doubles of a context, one after the other. -/
theorem State.writeContexts_cons (s : State) (d : Die) (c : CtxInit) (l : List CtxInit) :
    s.writeContexts d (c :: l) = (s.modDie d (·.writeContext c)).writeContexts d l := by
  have hmode : 0x40008 + 16 * c.ctx.toNat = 0x40000 + 16 * c.ctx.toNat + 8 := by omega
  simp only [State.writeContexts, List.foldl_cons]
  rw [← Nat.add_zero (0x40000 + 16 * c.ctx.toNat), hmode, State.writeControl_context _ _ _ (by decide),
    State.writeControl_context _ _ _ (by decide), State.modDie_modDie]
  simp only [tblSet_tblSet, tblGet_set_self]
  rfl

theorem State.writeContexts_die (s : State) (d : Die) (l : List CtxInit) :
    (s.writeContexts d l).die d = l.foldl DieSt.writeContext (s.die d) := by
  induction l generalizing s with
  | nil => rfl
  | cons c l ih => rw [s.writeContexts_cons, ih, State.modDie_self, List.foldl_cons]

theorem State.writeContexts_frame (s : State) (d : Die) (l : List CtxInit) :
    ∃ t, s.writeContexts d l = { s with dies := t } := by
  induction l generalizing s with
  | nil => exact ⟨s.dies, rfl⟩
  | cons c l ih =>
    obtain ⟨t, ht⟩ := ih (s.modDie d (·.writeContext c))
    exact ⟨t, (s.writeContexts_cons d c l).trans ht⟩

theorem foldl_writeContext_frame (x : DieSt) (l : List CtxInit) : ∃ t, l.foldl DieSt.writeContext x = { x with ctxs := t } := by
  induction l generalizing x with
  | nil => exact ⟨x.ctxs, rfl⟩
  | cons c l ih => exact ih (x.writeContext c)

/-- The dispatch thread of a ring starts in a slot of its core; the dies stay. -/
theorem State.startDispatch_dies (s : State) (d : Die) (r : RingInit) : (s.startDispatch d r).dies = s.dies := by
  rw [State.startDispatch]
  split <;> rfl

theorem State.startDispatches_dies (s : State) (d : Die) (l : List RingInit) :
    (l.foldl (fun s r => s.startDispatch d r) s).dies = s.dies := by
  induction l generalizing s with
  | nil => rfl
  | cons r l ih => exact (ih _).trans (s.startDispatch_dies d r)

/-- A FREE supervisor slot of a core in use takes the dispatch thread of a ring. -/
theorem State.startDispatch_starts {s : State} {d : Die} {r : RingInit} (hslots : r.slots ≠ 0)
    (hcore : (s.core d r.core).retired = false) (hfree : (s.slot ⟨d, r.core, 15⟩).state = .free) :
    s.startDispatch d r = s.startThread ⟨d, r.core, 15⟩ r.pc (r.base.zeroExtend 64) ⟨0, 0, 0, false⟩ := by
  refine if_neg ?_
  rw [decide_eq_false hslots, hcore, hfree]
  decide

/-- The dispatch thread is READY at the ring's PC, with the ring's BASE as its argument. -/
theorem State.startDispatch_slot {s : State} {d : Die} {r : RingInit} (hslots : r.slots ≠ 0)
    (hcore : (s.core d r.core).retired = false) (hfree : (s.slot ⟨d, r.core, 15⟩).state = .free) :
    let x := (s.startDispatch d r).slot ⟨d, r.core, 15⟩
    x.state = .ready ∧ x.pc = r.pc ∧ x.g 1 = r.base.zeroExtend 64 := by
  rw [State.startDispatch_starts hslots hcore hfree, State.startThread_slot]
  exact ⟨SlotSt.setG_state .., SlotSt.setG_pc .., SlotSt.g_setG_self _ (by decide) _⟩

/-- The launch rings of a die, as firmware writes them. -/
def ringTable (l : List RingInit) : Tbl Ring :=
  (l.take 4).zipIdx.foldl (fun t r => tblSet {} r.2 ⟨r.1.base, r.1.slots, r.1.core⟩ t) []

/-- What firmware writes at stage 7: the address contexts, draft version 0, HDCTL.EN and the launch rings. -/
def State.ringsWritten (s : State) (d : Die) (l : List RingInit) (ctxs : List CtxInit) (draft : List (BitVec 12 × Word)) : State :=
  ((s.writeContexts d ctxs).writeDraft0 d draft).modBoot d fun b => { b with rings := ringTable l }

theorem State.ringsWritten_frame (s : State) (d : Die) (l : List RingInit) (ctxs : List CtxInit)
    (draft : List (BitVec 12 × Word)) : ∃ t, s.ringsWritten d l ctxs draft = { s with dies := t } := by
  obtain ⟨t, ht⟩ := s.writeContexts_frame d ctxs
  rw [State.ringsWritten, ht]
  exact ⟨_, rfl⟩

/-- The die after stage 7: its contexts, its heddle engine with draft version 0, HEDDLE ready, and its rings. -/
theorem State.ringsWritten_die (s : State) (d : Die) (l : List RingInit) (ctxs : List CtxInit) (draft : List (BitVec 12 × Word)) :
    (s.ringsWritten d l ctxs draft).die d = { s.die d with
      ctxs := (ctxs.foldl DieSt.writeContext (s.die d)).ctxs
      boot := { (s.die d).boot with ready := (s.die d).boot.ready ||| 1#27 <<< 18, rings := ringTable l }
      heddle := { (s.die d).heddle with
        en := true, windowStart := s.aclk, cur := 0, ost := 0, oths := []
        curs := draft.foldl (fun t e => tblSet 0 e.1.toNat e.2 t) [] } } := by
  obtain ⟨t, ht⟩ := s.writeContexts_frame d ctxs
  obtain ⟨c, hc⟩ := foldl_writeContext_frame (s.die d) ctxs
  have haclk : (s.writeContexts d ctxs).aclk = s.aclk := by rw [ht]
  simp only [State.ringsWritten, State.modBoot, State.writeDraft0, State.modDie_self, s.writeContexts_die, hc, haclk]
  rfl

section
variable {s : State}

theorem execLaunchRingsReady_stays (h : (s.die s.ev.die).boot.ready.getLsbD 24 = false ∨ (s.die s.ev.die).boot.trained = false
    ∨ (s.die s.ev.die).boot.fatal = true) : exec .launchRingsReady s = .next s := by
  change execLaunchRingsReady s = _
  refine congrArg Host.Outcome.next (if_pos ?_)
  obtain h | h | h := h <;> simp only [h, Bool.not_false, Bool.true_or, Bool.or_true]

variable (hpanel : (s.die s.ev.die).boot.ready.getLsbD 24 = true) (htrained : (s.die s.ev.die).boot.trained = true)
  (hnot : (s.die s.ev.die).boot.fatal = false)
include hpanel htrained hnot

theorem execLaunchRingsReady_writes {l : List RingInit} {ctxs : List CtxInit} {draft : List (BitVec 12 × Word)}
    (hnew : (s.die s.ev.die).boot.ready.getLsbD 18 = false) (hload : s.ev.load = .rings l ctxs draft)
    (hdraft : s.draftDiffers s.ev.die draft = false) : exec .launchRingsReady s
      = .next ((l.take 4).foldl (fun t r => t.startDispatch s.ev.die r) (s.ringsWritten s.ev.die l ctxs draft)) := by
  change execLaunchRingsReady s = _
  simp only [execLaunchRingsReady, hpanel, htrained, hnot, hnew, hload, hdraft]
  rfl

theorem execLaunchRingsReady_parked (hold : (s.die s.ev.die).boot.ready.getLsbD 18 = true)
    (hall : ∀ e ∈ (s.die s.ev.die).boot.rings, e.2.slots = 0 ∨ s.ringParked s.ev.die e.2 = true) :
    exec .launchRingsReady s = .next (s.modBoot s.ev.die fun x => { x with ready := x.ready ||| 1#27 <<< 26 }) := by
  have hparked : ((s.die s.ev.die).boot.rings.all fun e => e.2.slots == 0 || s.ringParked s.ev.die e.2) = true := by
    simpa using hall
  change execLaunchRingsReady s = _
  simp only [execLaunchRingsReady, hpanel, htrained, hnot, hold, hparked]
  rfl

theorem execLaunchRingsReady_waits (hold : (s.die s.ev.die).boot.ready.getLsbD 18 = true)
    (hone : ∃ e ∈ (s.die s.ev.die).boot.rings, e.2.slots ≠ 0 ∧ s.ringParked s.ev.die e.2 = false) :
    exec .launchRingsReady s = .next s := by
  have hparked : ((s.die s.ev.die).boot.rings.all fun e => e.2.slots == 0 || s.ringParked s.ev.die e.2) = false := by
    simpa using hone
  change execLaunchRingsReady s = _
  simp only [execLaunchRingsReady, hpanel, htrained, hnot, hold, hparked]
  rfl

end

/-- The ring of level 0 when one ring is written. -/
theorem ringTable_one (r : RingInit) : (tblGet {} 0 (ringTable [r]) : Ring) = ⟨r.base, r.slots, r.core⟩ :=
  tblGet_set_self ..

/-- The context that is written alone. -/
theorem DieSt.writeContext_reg (x : DieSt) (c : CtxInit) :
    let r : CtxReg := tblGet {} c.ctx.toNat (x.writeContext c).ctxs
    r.asid = c.mode.extractLsb' 0 16 ∧ r.en = c.mode.getLsbD 16 := by
  intro r
  have hr : r = ((tblGet {} c.ctx.toNat x.ctxs : CtxReg).write 0 c.table).write 8 c.mode := tblGet_set_self ..
  rw [hr]
  exact ⟨rfl, rfl⟩

/-! The obligation -/

/-- Settles O50: module reset and PERST, the stages up to the self-test, then stacks, links, panel and launch rings. -/
theorem resetAndBoot : Obligations.ResetAndBoot := by
  unfold Obligations.ResetAndBoot
  refine ⟨?reset, ?early, ?late⟩
  case reset =>
    intro s
    refine ⟨⟨_, rfl, rfl, rfl, rfl, rfl, rfl, rfl, rfl, rfl, rfl, rfl, rfl, rfl, rfl, rfl, rfl, ?_, rfl, rfl, rfl, rfl⟩,
      execPerst_standalone, execPerst_panel⟩
    exact fun hwf d => State.die_afterReset hwf rfl d
  case early =>
    intro s secret l d b img e k1 k2 ed mldsa puf keys map t u
    have himage : imageError img = if ed then if mldsa then none else some 2 else some 1 := imageError_eq img
    refine ⟨fun hstage hnot => ⟨fun h1 h2 => ?_, fun h1 => ?_, fun h1 h2 => ?_⟩,
      fun hstage hnot => ⟨fun hpuf => ?_, fun hpuf => ?_⟩,
      fun hload hstage hnot => ⟨fun hlost => ?_, fun hlost => ?_⟩, fun x => x.writeRepairs_repairs d map, fun e u =>
      ⟨u.retireUnit_slot_rslot d, u.retireUnit_bank_rslot d, fun hk hs => ?_, fun hk hs => ?_, u.retireUnit_retired d,
        fun hk => ?_, fun hk => ?_⟩, fun x st un code he => ?_⟩
    · exact execImageVerify_accepted hnot hstage (himage.trans (by rw [if_pos h1, if_pos h2]))
    · exact execImageVerify_refused hnot hstage (himage.trans (if_neg h1))
    · exact execImageVerify_refused hnot hstage (himage.trans (by rw [if_pos h1, if_neg h2]))
    · exact execIdentityDerive_secret hnot hstage hpuf
    · exact execIdentityDerive_noSecret hnot hstage hpuf
    · exact execSelfTest_passes hload hstage hnot rfl hlost
    · exact execSelfTest_fails hload hstage hnot rfl hlost
    · rw [u.retireUnit_slot d hk hs, State.modCore_self]
    · have h7 : e.sub ≠ 7 := fun h => absurd hs (by rw [h]; decide)
      rw [u.retireUnit_bank d hk h7, State.modCore_self, Nat.mod_eq_of_lt (Nat.lt_succ_of_lt hs)]
    · rw [u.retireUnit_shed d hk, State.modShed_self]
    · rw [u.retireUnit_hart d hk, State.modHart_self]
    · rw [BootSt.fail, if_pos he]
      rfl
  case late =>
    intro s ok up failed pcie p l ctxs draft d b alive
    refine ⟨fun hload hstage hnot hfirst => ?hbm, fun hload hstage hnot hfirst => ?links, ?panel, execLaunchRingsReady_stays,
      fun hpanel htrained hnot hnew hload hdraft => ?rings, fun hpanel htrained hnot hold =>
        ⟨execLaunchRingsReady_parked hpanel htrained hnot hold, execLaunchRingsReady_waits hpanel htrained hnot hold⟩⟩
    case hbm =>
      refine ⟨_, execHbmTrainingDone_eq hload hstage hnot hfirst, fun pa hd hs => s.hbmUp_full hd hs, ?_, rfl,
        fun hall => ?_, fun hsome => ?_⟩
      · rw [State.modBoot_die]
        exact s.hbmUp_keys d
      · rw [State.modBoot_boot, State.hbmUp_boot, hall, BootSt.stacksUp_all]
      · rw [State.modBoot_boot, State.hbmUp_boot, BootSt.stacksUp_trained hsome]
        refine ⟨hfirst, fun he => ?_⟩
        rw [BootSt.stacksUp_err hsome he]
        exact ⟨bootErr_stage .., bootErr_code ..⟩
    case links =>
      refine ⟨_, execLinkTrainingDone_eq hload hstage hnot hfirst, ?_⟩
      have hboot := b.noteLinks_linksUp alive failed pcie
      rw [State.modBoot_die, State.modDie_self]
      refine ⟨congrArg BootSt.linked hboot, (congrArg BootSt.stage hboot).trans hstage, congrArg BootSt.ready hboot,
        congrArg BootSt.hostPort hboot, BootSt.noteLinks_linksUp_fatal hnot .., fun n hn => linksTrained_state alive _ hn,
        fun hf he => ?_⟩
      exact (congrArg (BitVec.extractLsb' 0 4) (BootSt.noteLinks_linksUp_err alive pcie hf he)).trans (bootErr_stage ..)
    case panel =>
      intro place all good hosts c
      refine ⟨fun hload hlinked hnot hnew hlate hnumber hroutes hcores => ?_, execProbeWindowEnd_stays, fun hs => if_pos hs⟩
      have hjoins := execProbeWindowEnd_joins (all := all) (place := place) (good := good) (hosts := hosts) rfl rfl rfl rfl
        hload hlinked hnot hnew hlate hnumber hroutes hcores
      clear_value place good hosts
      refine ⟨_, hjoins, ?_, ?_, rfl, rfl⟩
      · rw [State.modDie_self]
        rfl
      · rw [State.modDie_self]
    case rings =>
      obtain ⟨dies, hframe⟩ := s.ringsWritten_frame d l ctxs draft
      have hdie := s.ringsWritten_die d l ctxs draft
      have hdies := (s.ringsWritten d l ctxs draft).startDispatches_dies d (l.take 4)
      refine ⟨_, execLaunchRingsReady_writes hpanel htrained hnot hnew hload hdraft, ?_⟩
      rw [State.die, hdies, ← State.die, hdie]
      refine ⟨rfl, rfl, rfl, ?_, ?_, ?_, ?_⟩
      · rintro q rfl
        exact (s.die d).writeContext_reg q
      · rintro q rfl
        exact tblGet_set_self ..
      · rintro r rfl
        exact ringTable_one r
      · rintro r rfl hslots hcore hfree
        rw [List.take_succ_cons, List.take_nil, List.foldl_cons, List.foldl_nil, hframe]
        exact State.startDispatch_slot (s := { s with dies }) hslots hcore hfree

end Sys2Proof.Machine
end

section
/-!
OBLIGATION O51. Launch completions (11 R345; 01 R32): the host port that serves a die, in a table that lists a die twice.
-/

namespace Sys2Proof.Machine

/-- A launch that is refused: its context is not enabled. -/
def refusedLaunch : Launch := { level := 0, slot := 0, words := [], since := 0 }

/-- What the dispatch thread of level 0 reports of `refusedLaunch`: STATUS 1. -/
def refusedDone : LaunchDone := { level := 0, ringSlot := 0, loom := 0, status := 1 }

/-- A panel whose table of dies lists die 0 twice: the first entry, which is read, has accepted `refusedLaunch`; the second is a
root with a live host port. -/
def dieListedTwice : State :=
  { State.reset with
    dies := [(0, { launches := [refusedLaunch] }), (0, { boot := { root := true, hostPort := true } })]
    ev := { load := .launch refusedDone } }

/-- The records that have left the panel in the state that a result goes on in. -/
def hostOutIn (r : Result) : List HostOut :=
  match r with
  | .next t => t.hostOut
  | _ => []

/-- The write of die 0 without its launch drops both entries, and with them the port: no record leaves. -/
theorem hostOutIn_launchCompletion : hostOutIn (exec .launchCompletion dieListedTwice) = [] := by decide

/-- Refutes O51: the host port that a completion record leaves through is sought in the table of dies after the launch has been
taken out of its die, while the statement seeks it before. The two differ in a table that is not in canonical form: in the state
here the port is that of a second entry of the die, which the write drops. The statement has no premise that the table is
canonical (`tblWf`), as the clause on MODULE_RESET of O50 has. -/
theorem not_hostAndPower : ¬ Obligations.HostAndPower := by
  unfold Obligations.HostAndPower
  rintro ⟨hpower, -⟩
  obtain ⟨-, hfound, -⟩ := hpower dieListedTwice refusedDone refusedLaunch 0 ⟨[], 0, 0, 0, 0⟩ 0 0 0 0 0 0
  obtain ⟨-, hcompletes⟩ := hfound rfl (by decide)
  obtain ⟨hrecord, -, -⟩ := hcompletes (by decide) (by decide)
  have hclaim := congrArg hostOutIn (hrecord (by decide) (by decide))
  exact absurd (hostOutIn_launchCompletion.symm.trans hclaim) (by decide)

end Sys2Proof.Machine
end

section
/-!
OBLIGATION O11. The load extensions and the amo functions (07 Tables 7-10, 7-12).
-/

namespace Sys2Proof.Machine

/-- Settles O11: the extensions as they are defined, then the functions by the amo. -/
theorem loadAndAmoFunctions : Obligations.LoadAndAmoFunctions := by
  unfold Obligations.LoadAndAmoFunctions
  refine ⟨fun v => ⟨rfl, rfl, rfl, rfl, rfl, rfl, rfl⟩, fun x v => ?_⟩
  have hdouble (w : Word) : BitVec.ofNat 64 w.toNat = w := by rw [BitVec.ofNat_toNat, BitVec.setWidth_eq]
  simp only [amoResult, hdouble, BitVec.setWidth_eq, BitVec.slt_iff_toInt_lt, BitVec.ult_iff_lt, BitVec.lt_def, and_self]

end Sys2Proof.Machine
end

section
/-!
SUPPORT. Traps (14 R370, R371, R376): the wake of a supervisor in WFI, the fault of slot 15, and what a trap leaves as it is.
-/

namespace Sys2Proof.Machine

variable (s : State)

/-! Counted events (14 R377) -/

@[simp] theorem State.modLog_net (d : Die) (u : LogUnit) (f : ErrLog → ErrLog) : (s.modLog d u f).net = s.net := by
  cases u <;> rfl

@[simp] theorem State.notify_slot (d : Die) (b : Nat) (j : SlotId) : (s.notify d b).slot j = s.slot j := by
  rw [State.slot, State.notify_slots, State.slot]

@[simp] theorem State.notify_net (d : Die) (b : Nat) : (s.notify d b).net = s.net := by
  obtain ⟨t, l, h⟩ := s.notify_eq d b
  exact h ▸ rfl

/-! A counted event that notifies keeps all that neither a log nor the die's registers hold. -/

section

variable (d : Die) (u : LogUnit) (n : Byte)

@[simp] theorem State.countNotify_slots : (s.countNotify d u n).slots = s.slots := by
  simp only [State.countNotify, State.count]
  split <;> simp
@[simp] theorem State.countNotify_slot (j : SlotId) : (s.countNotify d u n).slot j = s.slot j := by simp [State.slot]
@[simp] theorem State.countNotify_mem : (s.countNotify d u n).mem = s.mem := by
  simp only [State.countNotify, State.count]
  split <;> simp
@[simp] theorem State.countNotify_accs : (s.countNotify d u n).accs = s.accs := by
  simp only [State.countNotify, State.count]
  split <;> simp
@[simp] theorem State.countNotify_net : (s.countNotify d u n).net = s.net := by
  simp only [State.countNotify, State.count]
  split <;> simp

end

/-- A log holds no trap record. -/
theorem State.modLog_traps (d e : Die) (u : LogUnit) (f : ErrLog → ErrLog) (c : CoreNo) :
    ((s.modLog d u f).core e c).traps = (s.core e c).traps := by
  cases u with
  | core k =>
    by_cases h : e = d ∧ c = k
    · obtain ⟨rfl, rfl⟩ := h
      simp [State.modLog]
    · rw [State.modLog, State.modCore_ne s h]
  | _ => rfl

theorem State.countNotify_traps (d e : Die) (u : LogUnit) (n : Byte) (c : CoreNo) :
    ((s.countNotify d u n).core e c).traps = (s.core e c).traps := by
  simp only [State.countNotify, State.count]
  split <;> simp [State.modLog_traps]

/-! A packet on its way is nothing to a core or die. -/

@[simp] theorem State.sendRelease_core (p : Packet) (i : SlotId) (d : Die) (c : CoreNo) :
    (s.sendRelease p i).core d c = s.core d c := rfl
@[simp] theorem State.sendRelease_die (p : Packet) (i : SlotId) (d : Die) : (s.sendRelease p i).die d = s.die d := rfl

/-! A slot that stops -/

/-- The slot is TRAPPED at a PC. -/
def State.stopAt (i : SlotId) (pc : Word) : State := (s.enter i .trapped .retry).modSlot i fun x => { x with pc }

section

variable (i : SlotId) (pc : Word)

@[simp] theorem State.stopAt_mem : (s.stopAt i pc).mem = s.mem := by rw [State.stopAt, State.modSlot_mem, State.enter_mem]
@[simp] theorem State.stopAt_accs : (s.stopAt i pc).accs = s.accs := by rw [State.stopAt, State.modSlot_accs, State.enter_accs]
@[simp] theorem State.stopAt_net : (s.stopAt i pc).net = s.net := by rw [State.stopAt, State.modSlot_net, State.enter_net]
@[simp] theorem State.stopAt_nextId : (s.stopAt i pc).nextId = s.nextId := by
  rw [State.stopAt, State.modSlot_nextId, State.enter_nextId]
@[simp] theorem State.stopAt_core (d : Die) (c : CoreNo) : (s.stopAt i pc).core d c = s.core d c := by
  rw [State.stopAt, State.modSlot_core, State.enter_core]
@[simp] theorem State.stopAt_die (d : Die) : (s.stopAt i pc).die d = s.die d := by
  rw [State.stopAt, State.modSlot_die, State.enter_die]

theorem State.stopAt_slot : (s.stopAt i pc).slot i = { (s.enter i .trapped .retry).slot i with pc } := State.modSlot_self ..

theorem State.stopAt_ne {j : SlotId} (h : j ≠ i) : (s.stopAt i pc).slot j = s.slot j := by
  rw [State.stopAt, State.modSlot_ne _ h, State.enter_ne _ h]

theorem State.stopAt_state : ((s.stopAt i pc).slot i).state = .trapped := by rw [State.stopAt_slot, State.enter_slot]
theorem State.stopAt_pc : ((s.stopAt i pc).slot i).pc = pc := by rw [State.stopAt_slot]
theorem State.stopAt_inc : ((s.stopAt i pc).slot i).inc = (s.slot i).inc := by rw [State.stopAt_slot, State.enter_slot]
theorem State.stopAt_regs : ((s.stopAt i pc).slot i).regs = (s.slot i).regs := by rw [State.stopAt_slot, State.enter_slot]

end

/-! The supervisor -/

section

variable (d : Die) (c : CoreNo)

/-- A wake of a supervisor in WFI empties the L1D and lets that slot go on. -/
theorem State.wakeSupervisor_eq : s.wakeSupervisor d c = s
    ∨ s.wakeSupervisor d c = (s.modCore d c fun x => { x with l1d := [] }).wakeNext ⟨d, c, 15⟩ := by
  simp only [State.wakeSupervisor]
  split
  · exact .inr rfl
  · exact .inl rfl

theorem State.wakeSupervisor_ne {j : SlotId} (h : j ≠ ⟨d, c, 15⟩) : (s.wakeSupervisor d c).slot j = s.slot j := by
  obtain e | e := s.wakeSupervisor_eq d c <;> rw [e]
  rw [State.wakeNext_ne h, State.modCore_slot]

theorem State.wakeSupervisor_mem : (s.wakeSupervisor d c).mem = s.mem := by
  obtain e | e := s.wakeSupervisor_eq d c <;> rw [e]
  simp

theorem State.wakeSupervisor_accs : (s.wakeSupervisor d c).accs = s.accs := by
  obtain e | e := s.wakeSupervisor_eq d c <;> rw [e]
  simp

theorem State.wakeSupervisor_traps : ((s.wakeSupervisor d c).core d c).traps = (s.core d c).traps := by
  obtain e | e := s.wakeSupervisor_eq d c <;> rw [e]
  simp

end

theorem ne_supervisor {i : SlotId} (hu : isPriv i = false) : i ≠ ⟨i.die, i.core, 15⟩ := by
  intro e
  rw [isPriv, e] at hu
  simp at hu

/-! The trap of a user slot -/

/-- A record joins the trap queue of a core, which ends its supervisor's WFI (R370, R314). -/
def State.queueTrap (d : Die) (c : CoreNo) (r : TrapRec) : State :=
  (s.modCore d c fun x => { x with traps := x.traps ++ [r] }).wakeSupervisor d c

section

variable (d : Die) (c : CoreNo) (r : TrapRec)

theorem State.queueTrap_ne {j : SlotId} (h : j ≠ ⟨d, c, 15⟩) : (s.queueTrap d c r).slot j = s.slot j := by
  rw [State.queueTrap, State.wakeSupervisor_ne _ _ _ h, State.modCore_slot]

theorem State.queueTrap_mem : (s.queueTrap d c r).mem = s.mem := by
  rw [State.queueTrap, State.wakeSupervisor_mem, State.modCore_mem]

theorem State.queueTrap_accs : (s.queueTrap d c r).accs = s.accs := by
  rw [State.queueTrap, State.wakeSupervisor_accs, State.modCore_accs]

theorem State.queueTrap_traps : ((s.queueTrap d c r).core d c).traps = (s.core d c).traps ++ [r] := by
  rw [State.queueTrap, State.wakeSupervisor_traps, State.modCore_self]

end

variable {i : SlotId} (cause sub : Byte) (pc : Word) (word : Inst) (val aux : Word)

/-- The record of an instruction's trap (R371): it parks its slot. -/
def State.trapRecord (i : SlotId) (cause sub : Byte) (pc : Word) (word : Inst) (val aux : Word) : TrapRec :=
  { cause, sub, slot := i.slot, inc := (s.slot i).inc, gone := false, parks := true, pc, word, val, aux, len := 0
    scope := 0, multi := false, msg := [] }

theorem State.takeTrap_user (hu : isPriv i = false) (hw : s.trapWaits i = false) :
    s.takeTrap i cause sub pc word val aux
      = (s.stopAt i pc).queueTrap i.die i.core (s.trapRecord i cause sub pc word val aux) := by
  rw [State.takeTrap_of_ready hw, State.pushTrap, if_neg (by simp [hu])]
  change State.queueTrap _ _ _ _ = _
  rw [← State.stopAt, State.trapRecord, State.stopAt_inc]

theorem State.takeTrap_waits (hw : s.trapWaits i = true) : s.takeTrap i cause sub pc word val aux = s.waitData i :=
  if_pos hw

/-! The trap of slot 15 -/

theorem State.trapWaits_priv (hp : isPriv i = true) : s.trapWaits i = false := by simp [State.trapWaits, hp]

/-- The fault message of slot 15 (R376). -/
def State.supervisorMail (i : SlotId) (words : List Word) : Mail :=
  engineMail i.die faultUnit i.die (s.die i.die).faultCore (s.die i.die).faultBox words .d

/-- Without a core for the message, ERRSUM.SUP tells of the fault. -/
theorem State.takeTrap_notifies (hp : isPriv i = true)
    (hn : (s.die i.die).faultEn = false ∨ (s.die i.die).faultCore = i.core) :
    s.takeTrap i cause sub pc word val aux = (s.stopAt i pc).notify i.die 8 := by
  rw [State.takeTrap_of_ready (s.trapWaits_priv hp), State.pushTrap, if_pos hp]
  refine if_pos ?_
  obtain h | h := hn
  · simp [h]
  · simp [h]

/-- With one, the message leaves and the core counts it. -/
theorem State.takeTrap_mails (hp : isPriv i = true) (he : (s.die i.die).faultEn = true)
    (hc : (s.die i.die).faultCore ≠ i.core) : s.takeTrap i cause sub pc word val aux
      = ((s.stopAt i pc).sendRelease (.mail (s.supervisorMail i (supervisorWords i cause sub pc word val aux))) i).countNotify
          i.die (.core i.core) 0x12 := by
  rw [State.takeTrap_of_ready (s.trapWaits_priv hp), State.pushTrap, if_pos hp]
  exact if_neg (by simp [he, hc])

/-! What every trap keeps -/

/-- A trap stores nothing, changes no access and no general register, and no other slot but its core's supervisor. -/
theorem State.takeTrap_frame (i : SlotId) : let t := s.takeTrap i cause sub pc word val aux
    t.mem = s.mem ∧ t.accs = s.accs ∧ (t.slot i).regs = (s.slot i).regs
      ∧ ∀ j : SlotId, j ≠ i → j ≠ ⟨i.die, i.core, 15⟩ → t.slot j = s.slot j := by
  intro t
  cases hw : s.trapWaits i with
  | true =>
    rw [show t = _ from s.takeTrap_waits cause sub pc word val aux hw]
    exact ⟨rfl, rfl, by rw [State.waitData_slot], fun j hj _ => s.waitData_ne hj⟩
  | false =>
    cases hp : isPriv i with
    | false =>
      rw [show t = _ from s.takeTrap_user cause sub pc word val aux hp hw, State.queueTrap_mem, State.queueTrap_accs,
        State.queueTrap_ne _ _ _ _ (ne_supervisor hp), State.stopAt_mem, State.stopAt_accs]
      exact ⟨rfl, rfl, s.stopAt_regs i pc, fun j hj hj15 => (State.queueTrap_ne _ _ _ _ hj15).trans (s.stopAt_ne i pc hj)⟩
    | true =>
      by_cases hm : (s.die i.die).faultEn = false ∨ (s.die i.die).faultCore = i.core
      · rw [show t = _ from s.takeTrap_notifies cause sub pc word val aux hp hm]
        simp only [State.notify_mem, State.notify_accs, State.notify_slot, State.stopAt_mem, State.stopAt_accs, true_and]
        exact ⟨s.stopAt_regs i pc, fun j hj _ => s.stopAt_ne i pc hj⟩
      · obtain ⟨he, hc⟩ := not_or.1 hm
        rw [show t = _ from s.takeTrap_mails cause sub pc word val aux hp (by simpa using he) hc]
        simp only [State.countNotify_mem, State.countNotify_accs, State.countNotify_slot, State.sendRelease_slot,
          State.sendRelease_mem, State.sendRelease_accs, State.stopAt_mem, State.stopAt_accs, true_and]
        exact ⟨s.stopAt_regs i pc, fun j hj _ => s.stopAt_ne i pc hj⟩

/-- An access of the thread that is still to be performed holds its trap (R370, R395). -/
theorem State.trapWaits_of_access {a : Access} (ha : a ∈ s.slotAccs i) (hd : a.stage ≠ .done) (hu : isPriv i = false) :
    s.trapWaits i = true := by
  obtain ⟨hthread, hfailed⟩ := List.mem_filter.1 ha
  obtain ⟨hacc, hagent⟩ := List.mem_filter.1 hthread
  simp only [State.trapWaits, hu, Bool.not_false, Bool.true_and, Bool.or_eq_true, List.any_eq_true]
  exact .inr ⟨a, hacc, by simp [hagent, hd, bne_iff_ne.1 hfailed]⟩

theorem State.trapWaits_of_record (hr : s.parkedRecord i = true) (hu : isPriv i = false) : s.trapWaits i = true := by
  simp [State.trapWaits, hu, hr]

end Sys2Proof.Machine
end

section
/-!
OBLIGATION O25. Taking a trap, TRAP and ERET (14 R370, R371, R374, R376; 09 R314).
-/

namespace Sys2Proof.Machine

variable {s : State} {i : SlotId} {a : Reg}

/-! Taking a trap -/

theorem State.takeTrap_queues (cause sub : Byte) (pc : Word) (word : Inst) (val aux : Word) (hu : isPriv i = false)
    (hw : s.trapWaits i = false) : let t := s.takeTrap i cause sub pc word val aux
    (t.slot i).state = .trapped ∧ (t.slot i).pc = pc
      ∧ (t.core i.die i.core).traps = (s.core i.die i.core).traps ++ [s.trapRecord i cause sub pc word val aux] := by
  intro t
  obtain ⟨hstate, hpc⟩ := s.takeTrap_slot hu hw cause sub pc word val aux
  refine ⟨hstate, hpc, ?_⟩
  rw [show t = _ from s.takeTrap_user cause sub pc word val aux hu hw, State.queueTrap_traps, State.stopAt_core]

/-- A fault of slot 15 stops it and tells of it by ERRSUM.SUP or a message, on no trap queue (R376). -/
theorem State.takeTrap_supervisor (cause sub : Byte) (pc : Word) (word : Inst) (val aux : Word) (hp : isPriv i = true) :
    let t := s.takeTrap i cause sub pc word val aux
    (t.slot i).state = .trapped ∧ (t.slot i).pc = pc ∧ (t.core i.die i.core).traps = (s.core i.die i.core).traps
      ∧ ((s.die i.die).faultEn = false → (t.die i.die).errsum.getLsbD 8 = true)
      ∧ ((s.die i.die).faultEn = true → (s.die i.die).faultCore ≠ i.core → t.net = s.net ++ [{
          id := s.nextId, src := some (i, (s.slot i).inc)
          packet := .mail (s.supervisorMail i (supervisorWords i cause sub pc word val aux)) }]) := by
  intro t
  by_cases hm : (s.die i.die).faultEn = false ∨ (s.die i.die).faultCore = i.core
  · rw [show t = _ from s.takeTrap_notifies cause sub pc word val aux hp hm]
    refine ⟨?_, ?_, by rw [State.notify_core, State.stopAt_core], fun _ => ?_, fun he hc => absurd hm (by simp [he, hc])⟩
    · rw [State.notify_slot, State.stopAt_state]
    · rw [State.notify_slot, State.stopAt_pc]
    · rw [State.notify_die]; simp
  · obtain ⟨he, hc⟩ := not_or.1 hm
    rw [show t = _ from s.takeTrap_mails cause sub pc word val aux hp (by simpa using he) hc]
    simp only [State.countNotify_slot, State.countNotify_traps, State.countNotify_net, State.sendRelease_slot,
      State.sendRelease_core, State.stopAt_core]
    refine ⟨s.stopAt_state i pc, s.stopAt_pc i pc, trivial, fun h => absurd h he, fun _ _ => ?_⟩
    simp only [State.sendRelease, State.stopAt_inc, State.stopAt_net, State.stopAt_nextId]

/-! TRAP and ERET -/

theorem execTrap_plain (hp : s.plain [a] [] = true) :
    exec (.trap a) s = .next (s.takeTrap s.cur 0x05 0 ((s.slot s.cur).pc + 4) s.word (s.reg s.cur a) 0) := by
  change execTrap a s = _
  rw [execTrap, s.issue_plain hp]
  rfl

section

variable (hp : s.plain [a] [] = true) (hpriv : isPriv s.cur = true)
include hp hpriv

/-- ERET of a slot word that does not name a slot of the core gives its code. -/
theorem execEret_code (h : s.slotWordCode (s.reg s.cur a) ≠ 0) :
    exec (.eret a) s = .next (s.setSvstat (s.slotWordCode (s.reg s.cur a))).advance := by
  change execEret a s = _
  rw [execEret, State.issuePriv_plain hpriv hp]
  simp only [List.map_cons, List.map_nil, List.getD_cons_zero, bne_iff_ne, ne_eq, h, not_false_eq_true, ↓reduceIte]
  rfl

section

variable (hw : s.slotWordCode (s.reg s.cur a) = 0)
include hw

theorem execEret_notTrapped (h : (s.slot (s.target (s.reg s.cur a))).state ≠ .trapped) :
    exec (.eret a) s = .next (s.setSvstat 3).advance := by
  change execEret a s = _
  rw [execEret, State.issuePriv_plain hpriv hp]
  simp only [List.map_cons, List.map_nil, List.getD_cons_zero, hw, bne_self_eq_false, Bool.false_eq_true, bne_iff_ne, ne_eq,
    h, not_false_eq_true, ↓reduceIte]
  rfl

section

variable (ht : (s.slot (s.target (s.reg s.cur a))).state = .trapped)
include ht

theorem execEret_waits (h : s.slotAccs s.cur ≠ []) : exec (.eret a) s = .next (s.waitData s.cur) := by
  change execEret a s = _
  rw [execEret, State.issuePriv_plain hpriv hp]
  simp only [List.map_cons, List.map_nil, List.getD_cons_zero, hw, bne_self_eq_false, Bool.false_eq_true, ht,
    List.isEmpty_eq_false_iff.2 h, Bool.not_false, ↓reduceIte]
  rfl

theorem execEret_returns (h : s.slotAccs s.cur = []) : exec (.eret a) s
    = .next ((((s.setSvstat 0).wake (s.target (s.reg s.cur a))).dropL1d s.cur.die s.cur.core).advance) := by
  change execEret a s = _
  rw [execEret, State.issuePriv_plain hpriv hp]
  simp only [List.map_cons, List.map_nil, List.getD_cons_zero, hw, bne_self_eq_false, Bool.false_eq_true, ht, h,
    List.isEmpty_nil, Bool.not_true, ↓reduceIte]
  rfl

end

end

end

/-- The slot that has gone on is at the next word. -/
theorem State.advance_own {u : State} {i : SlotId} (h : u.cur = i) :
    (u.advance.slot i).svstat = (u.slot i).svstat ∧ (u.advance.slot i).pc = (u.slot i).pc + 4 := by
  subst h
  rw [State.advance_slot]
  exact ⟨rfl, rfl⟩

/-- What an ERET that returns leaves: its own slot has gone on, and the slot that it names is READY. -/
theorem State.returned_slots {j : SlotId} (hj : j ≠ s.cur) :
    let t := (((s.setSvstat 0).wake j).dropL1d s.cur.die s.cur.core).advance
    (t.slot j).state = .ready ∧ (t.slot j).pc = (s.slot j).pc ∧ (t.slot j).regs = (s.slot j).regs
      ∧ (t.slot s.cur).svstat = 0 ∧ (t.slot s.cur).pc = (s.slot s.cur).pc + 4 := by
  have hcur : (((s.setSvstat 0).wake j).dropL1d s.cur.die s.cur.core).cur = s.cur := by simp [State.dropL1d, State.setSvstat]
  obtain ⟨hsv, hpc⟩ := State.advance_own hcur
  have hnamed := State.advance_ne _ (hcur.symm ▸ hj)
  simp only [hsv, hpc, hnamed]
  simp only [State.dropL1d, State.modCore_slot, State.wake_ne _ hj.symm]
  simp only [State.wake, State.enter_slot, State.setSvstat, State.modSlot_self, State.modSlot_ne s hj, and_self]

/-- Settles O25: a trap of a user slot, then of slot 15, then TRAP and ERET case by case. -/
theorem trapsAndReturns : Obligations.TrapsAndReturns := by
  unfold Obligations.TrapsAndReturns
  refine ⟨fun s i cause sub pc word val aux => ?_, fun s a hp => ?_⟩
  · intro t record
    obtain ⟨hmem, haccs, hregs, hother⟩ := s.takeTrap_frame cause sub pc word val aux i
    refine ⟨hmem, haccs, fun r => ?_, hother, State.takeTrap_queues cause sub pc word val aux,
      fun _ => s.takeTrap_waits cause sub pc word val aux, fun hu hr => s.trapWaits_of_record hr hu,
      fun _ ha hd hu => s.trapWaits_of_access ha hd hu, fun hpriv => ?_⟩
    · rw [SlotSt.g, SlotSt.g, hregs]
    · obtain ⟨hstate, hpc, htraps, hsum, hmail⟩ := State.takeTrap_supervisor cause sub pc word val aux hpriv
      exact ⟨hstate, hpc, htraps, hsum, fun he hc => ⟨_, [], (hmail he hc).trans (List.append_nil _).symm, rfl, rfl, rfl, rfl⟩⟩
  · intro i w target code
    refine ⟨execTrap_plain hp, fun hpriv => ⟨fun h15 => ?_, fun h15 hr => ⟨fun hinc => ?_, fun hinc hstate => ?_,
      fun hinc htrapped => ⟨?_, fun hnone => ?_⟩⟩⟩⟩
    · have hcode := State.slotWordCode_own (s := s) (w := w) h15
      rw [execEret_code hp hpriv (by rw [hcode]; decide), hcode]
      rfl
    · have hcode := State.slotWordCode_other (s := s) (w := w) h15 hr hinc
      rw [execEret_code hp hpriv (by rw [hcode]; decide), hcode]
      rfl
    · exact execEret_notTrapped hp hpriv (State.slotWordCode_named h15 hr hinc) hstate
    · exact execEret_waits hp hpriv (State.slotWordCode_named h15 hr hinc) htrapped
    · have hcur : target ≠ s.cur := fun h => h15 (by rw [h]; simpa [isPriv] using hpriv)
      obtain ⟨hready, hpc, hregs, hsv, hnext⟩ := State.returned_slots hcur
      exact ⟨_, execEret_returns hp hpriv (State.slotWordCode_named h15 hr hinc) htrapped hnone, hready, hpc, hregs, hsv, hnext,
        by simp [i, State.dropL1d], by simp [State.dropL1d, State.setSvstat]⟩

end Sys2Proof.Machine
end

section
/-!
OBLIGATION O15. Messages at their core, and what comes back of them (14 R380 to R382; 16 R432).
-/

namespace Sys2Proof.Machine

variable {s : State} {q : InFlight} {m : Mail} {i : SlotId} {inc : Byte}

/-! Arrival -/

section

variable (hq : s.net.find? (·.id == s.ev.id) = some q) (hm : q.packet = .mail m)
include hq hm

section

variable (hheld : q.heldUntil = none) (hfirst : s.overtakes s.ev.id m = false) (hrel : s.mailReleased q m = true)
include hheld hfirst hrel

/-- A thread's message whose path leads to its core is offered to it. -/
theorem execMessageArrival_arrives (hsrc : m.src = .thread i inc) (hl : s.leads i.die m.handle = .arrives) :
    exec .messageArrival s = .next (s.offerMail s.ev.id m) := by
  change execMessageArrival s = _
  simp only [execMessageArrival, hq, hm, hheld, hfirst, hrel, hsrc, hl, Option.isSome_none, Bool.or_self, Bool.not_true,
    Bool.false_eq_true, ↓reduceIte]

/-- One whose path fails goes back. -/
theorem execMessageArrival_fails (hsrc : m.src = .thread i inc) (hl : s.leads i.die m.handle = .fails) :
    exec .messageArrival s = .next (s.returnMail s.ev.id m 0x4a 0) := by
  change execMessageArrival s = _
  simp only [execMessageArrival, hq, hm, hheld, hfirst, hrel, hsrc, hl, Option.isSome_none, Bool.or_self, Bool.not_true,
    Bool.false_eq_true, ↓reduceIte]

/-- An engine's message to a core of a die that is there is offered to it. -/
theorem execMessageArrival_engine {d : Die} {u : Nat} (hsrc : m.src = .engine d u) (hdirect : m.handle = 0)
    (hthere : s.dieThere d m.die = true) : exec .messageArrival s = .next (s.offerMail s.ev.id m) := by
  change execMessageArrival s = _
  simp only [execMessageArrival, hq, hm, hheld, hfirst, hrel, hsrc, hdirect, hthere, Option.isSome_none, Bool.or_self,
    Bool.not_true, Bool.false_eq_true, ↓reduceIte]

end

/-- A held message is offered again when its time has come, and each offer is counted. -/
theorem execHeldMessageReoffer_offers {h : Word} (hheld : q.heldUntil = some h) (hdue : ¬ s.aclk.toNat < h.toNat) :
    exec .heldMessageReoffer s = .next (((s.count m.die (.core m.core) 0x10).modPacket s.ev.id fun r =>
      { r with heldUntil := none }).offerMail s.ev.id m) := by
  have hult : s.aclk.ult h = false := by simpa [BitVec.ult] using hdue
  change execHeldMessageReoffer s = _
  simp only [execHeldMessageReoffer, hq, hm, hheld, hult, Bool.false_eq_true, ↓reduceIte]

end

/-! The checks at the core, in the order of R381 -/

variable {n : Nat}

section

variable (hsrc : m.src = .thread i inc)
include hsrc

theorem State.offerMail_retired (hr : (s.core m.die m.core).retired = true) :
    s.offerMail n m = s.returnMail n m 0x4a 1 := by
  simp only [State.offerMail, hsrc, hr, ↓reduceIte]

section

variable (hr : (s.core m.die m.core).retired = false)
include hr

theorem State.offerMail_stale {k : SlotNo} {g : Byte} (hc : m.chk = some (k, g))
    (hg : (s.slot ⟨m.die, m.core, k⟩).inc ≠ g) : s.offerMail n m = s.returnMail n m 0x07 0 := by
  simp only [State.offerMail, hsrc, hr, hc, bne_iff_ne.2 hg, Bool.or_true, Bool.false_eq_true, ↓reduceIte]

theorem State.offerMail_full (hc : m.chk = none) (hroom : s.boxRoom m.die m.core m.box.toNat = false) :
    s.offerMail n m = s.returnMail n m 0x08 0 := by
  simp only [State.offerMail, hsrc, hr, hc, hroom, Bool.not_false, Bool.false_eq_true, ↓reduceIte]

theorem State.offerMail_accepted (hc : m.chk = none) (hroom : s.boxRoom m.die m.core m.box.toNat = true) :
    s.offerMail n m = ((s.dropPacket n).deliver m.die m.core m.box.toNat m.words (widerScope m.scope m.fence)).send
      (.accepted i) := by
  simp only [State.offerMail, hsrc, hr, hc, hroom, Bool.not_true, Bool.false_eq_true, ↓reduceIte, State.acceptMail]

end

end

/-- An engine's message is taken, or held for 256 aclk; a notice of an exit is counted for its launch. -/
theorem State.offerMail_engine {d : Die} {u : Nat} (hsrc : m.src = .engine d u) (hr : (s.core m.die m.core).retired = false) :
    let taken := (s.dropPacket n).deliver m.die m.core m.box.toNat m.words (widerScope m.scope m.fence)
    s.offerMail n m = if s.boxRoom m.die m.core m.box.toNat then
        if u = noticeUnit ∧ m.box = 30 ∧ m.words.length = 1 then taken.noteExit m.die m.core else taken
      else s.modPacket n fun r => { r with heldUntil := some (s.aclk + 256) } := by
  simp only [State.offerMail, hsrc, hr, State.acceptMail, Bool.and_eq_true, beq_iff_eq, decide_eq_true_eq, and_assoc,
    Bool.false_eq_true, ↓reduceIte]

/-! The answers -/

theorem execMessageAcceptance_frees (hp : s.packet s.ev.id = some (.accepted i)) : exec .messageAcceptance s
    = .next ((s.dropPacket s.ev.id).modCore i.die i.core fun c => { c with resv := c.resv - 1 }) := by
  change execMessageAcceptance s = _
  simp only [execMessageAcceptance, hp]

/-- A slot that runs waits for nothing. -/
theorem State.cancelWait_ready (ha : (s.slot i).await = .retry) (hs : (s.slot i).state = .ready) : s.cancelWait i = s := by
  simp [State.cancelWait, ha, hs]

/-- The return of a message of a running thread: its slot stops where it is, and the record is queued. -/
theorem execMessageReturn_queues {cause sub : Byte} (hp : s.packet s.ev.id = some (.returned m cause sub))
    (hsrc : m.src = .thread i inc) (hinc : (s.slot i).inc = inc) (hs : (s.slot i).state = .ready)
    (ha : (s.slot i).await = .retry) (hu : isPriv i = false) (hb : (s.slot i).bound = false) (hun : s.unsettled i = false) :
    exec .messageReturn s = .next (((s.dropPacket s.ev.id).enter i .trapped .retry).queueTrap i.die i.core
      (returnRecord m cause sub i inc false true (s.slot i).pc)) := by
  have hslot : (s.dropPacket s.ev.id).slot i = s.slot i := rfl
  have hcancel : (s.dropPacket s.ev.id).cancelWait i = s.dropPacket s.ev.id :=
    State.cancelWait_ready (hslot.symm ▸ ha) (hslot.symm ▸ hs)
  change execMessageReturn s = _
  simp only [execMessageReturn, hp, hsrc, hinc, hs, hb, hun, hcancel, hu, BEq.rfl, Bool.or_self, Bool.and_false,
    Bool.false_eq_true, ↓reduceIte]
  rfl

/-- Settles O15: the arrival of a thread's and of an engine's message, the offer of a held one, then the two answers. -/
theorem messagesArriveAndReturn : Obligations.MessagesArriveAndReturn := by
  unfold Obligations.MessagesArriveAndReturn
  constructor
  · intro s q m i inc d u h hq hm back room taken
    refine ⟨fun hheld hfirst hrel => ⟨fun hsrc => ?_, fun hsrc hdirect hthere hr => ?_⟩,
      execHeldMessageReoffer_offers hq hm⟩
    · have harrives := execMessageArrival_arrives hq hm hheld hfirst hrel hsrc
      refine ⟨fun hl hr => ?_, fun hl hr hc hroom => ?_, fun k g hl hr hc hg => ?_, fun hl hr hc hroom => ?_,
        execMessageArrival_fails hq hm hheld hfirst hrel hsrc⟩
      · rw [harrives hl, State.offerMail_retired hsrc hr]; rfl
      · rw [harrives hl, State.offerMail_full hsrc hr hc hroom]; rfl
      · rw [harrives hl, State.offerMail_stale hsrc hr hc hg]; rfl
      · rw [harrives hl, State.offerMail_accepted hsrc hr hc hroom]
    · rw [execMessageArrival_engine hq hm hheld hfirst hrel hsrc hdirect hthere, State.offerMail_engine hsrc hr]
  · intro s i inc m cause sub
    refine ⟨execMessageAcceptance_frees, fun hp hsrc hinc hs ha hu hb hun => ?_⟩
    refine ⟨_, execMessageReturn_queues hp hsrc hinc hs ha hu hb hun, ?_, ?_, ?_, rfl, rfl, ?_⟩
    · rw [State.queueTrap_ne _ _ _ _ (ne_supervisor hu), State.enter_slot]
    · rw [State.queueTrap_ne _ _ _ _ (ne_supervisor hu), State.enter_slot]; rfl
    · rw [State.queueTrap_traps]; rfl
    · rw [State.queueTrap_mem, State.enter_mem, State.dropPacket_mem]

end Sys2Proof.Machine
end

section
/-!
OBLIGATION O53. The failure of a shed (16 R416): the thread that owns its loom, where that is one of another die.
-/

namespace Sys2Proof.Machine

/-- A user slot of die 1. -/
def strangeOwner : SlotId := ⟨1, 0, 0⟩

/-- Shed 3 of die 0 fails, while the loom that it belongs to is owned by a slot of die 1. -/
def loomOwnedAcrossDies : State :=
  { State.reset with
    sheds := [(3, { state := .draining, loom := 5 })]
    looms := [(5, { state := .draining, sheds := [3], owner := some strangeOwner })]
    ev := { shed := 3, load := .passed true } }

/-- The failure that loom 5 of die 0 still has to report in the state that a result goes on in. -/
def loomFailureIn (r : Result) : Option (Nat × Bool) :=
  match r with
  | .next t => (t.loom 0 5).failed
  | _ => none

/-- The trap of the owner takes the failure from the loom of that number on die 1; that of die 0 still has it. -/
theorem loomFailureIn_shedfail : loomFailureIn (exec .shedfail loomOwnedAcrossDies) = some (0, true) := by decide

/-- Refutes O53: the trap SHEDFAIL takes the failure from the loom on the die of the slot that owns it, while the statement reads
the loom on the die of the shed. It has no premise that a loom is owned by a slot of its own die: in the state here the owner is a
slot of die 1, and the loom of die 0 keeps its failure. -/
theorem not_shedsFailAndJournals : ¬ Obligations.ShedsFailAndJournals := by
  unfold Obligations.ShedsFailAndJournals
  rintro ⟨hsheds, -⟩
  obtain ⟨-, -, hfails, -⟩ := hsheds loomOwnedAcrossDies true
  obtain ⟨t, ht, -, -, -, -, howner, -, -⟩ := hfails rfl (by decide) (by decide)
  obtain ⟨-, hnone⟩ := howner strangeOwner (by decide) (by decide) rfl (by decide)
  have hleft := loomFailureIn_shedfail
  rw [ht] at hleft
  exact absurd (hnone.symm.trans hleft) (by decide)

end Sys2Proof.Machine
end

section
/-!
SUPPORT. Folds that keep a part of the state, tables that lose the entries of a die, and what the counting of errors leaves of a
die: what the obligations on failing parts and lost dies share.
-/

namespace Sys2Proof

/-- A fold of steps that each keep a part of a state keeps it. -/
theorem foldl_keeps {α β σ : Type} (g : σ → β) (f : σ → α → σ) (h : ∀ s a, g (f s a) = g s) (l : List α) (s : σ) :
    g (l.foldl f s) = g s := by
  induction l generalizing s with
  | nil => rfl
  | cons a l ih => rw [List.foldl_cons, ih, h]

/-- The entry of a key, when the entries of some keys are dropped. -/
theorem tblGet_filter_key {α : Type} (d : α) (p : Nat → Bool) (k : Nat) (t : Tbl α) :
    tblGet d k (t.filter fun e => p e.1) = if p k then tblGet d k t else d := by
  induction t with
  | nil => simp
  | cons e r ih =>
    obtain ⟨i, x⟩ := e
    by_cases hi : i = k
    · subst hi
      by_cases hp : p i = true
      · simp [tblGet, hp]
      · simp [ih, hp]
    · by_cases hp : p i = true
      · simp [tblGet, hi, ih, hp]
      · simp [tblGet, hi, ih, hp]

end Sys2Proof

namespace Sys2Proof.Machine

variable (s : State)

/-! What the counting of errors leaves of a die -/

/-- The registers of a die that no error log, link or notification is part of: those of its boot, and the re-runs that wait. -/
def DieSt.lasting (x : DieSt) : BootSt × List Rerun := (x.boot, x.reruns)

/-- A part of a die that a change of one die keeps. -/
theorem State.modDie_part {β : Type} (g : DieSt → β) {f : DieSt → DieSt} (hf : ∀ x, g (f x) = g x) (d c : Die) :
    g ((s.modDie d f).die c) = g (s.die c) := by
  by_cases h : c = d
  · subst h; rw [State.modDie_self, hf]
  · rw [State.modDie_ne s h]

theorem State.modLog_lasting (d : Die) (u : LogUnit) (f : ErrLog → ErrLog) (c : Die) :
    ((s.modLog d u f).die c).lasting = (s.die c).lasting := by
  cases u with
  | shed _ => rw [State.modLog, State.modShed_die]
  | core _ => rw [State.modLog, State.modCore_die]
  | hart _ => rw [State.modLog, State.modHart_die]
  | _ => exact s.modDie_part DieSt.lasting (by intro; rfl) d c

theorem State.notify_lasting (d : Die) (b : Nat) (c : Die) : ((s.notify d b).die c).lasting = (s.die c).lasting := by
  by_cases h : c = d
  · subst h; rw [State.notify_die]; rfl
  · simp only [State.notify]
    split
    · rfl
    · split
      · rw [State.msix_die, State.setDie_ne s h]
      · rw [State.setDie_ne s h]

end Sys2Proof.Machine
end

section
/-!
SUPPORT. The links of the panel (06 R184; 16 R427, R429, R431): each of their events in its cases.
-/

namespace Sys2Proof.Machine

variable {s : State}

/-! A link and its other end -/

theorem State.modLink_self (d : Die) (n : Nat) (f : LinkSt → LinkSt) : (s.modLink d n f).link d n = f (s.link d n) := by
  rw [State.link, State.modLink, State.modDie_self]
  exact tblGet_set_self ..

theorem State.modLink_ne {d e : Die} (h : e ≠ d) (n k : Nat) (f : LinkSt → LinkSt) : (s.modLink d n f).link e k = s.link e k := by
  rw [State.link, State.modLink, State.modDie_ne s h, State.link]

/-- Both ends of a link to another die are changed. -/
theorem State.modBothEnds_ends {d e : Die} {n : Nat} (hn : s.neighbour d n = some e) (he : e ≠ d) (g : LinkSt → LinkSt) :
    (s.modBothEnds d n g).link d n = g (s.link d n)
      ∧ (s.modBothEnds d n g).link e (linkBack n) = g (s.link e (linkBack n)) := by
  simp only [State.modBothEnds, hn]
  rw [State.modLink_ne (Ne.symm he), State.modLink_self, State.modLink_self, State.modLink_ne he]
  exact ⟨rfl, rfl⟩

/-! Replay and training -/

theorem execLinkretry_replays (h : (s.link s.ev.die s.evLink).state = .up) :
    exec .linkretry s = .next (s.replayLink s.ev.die s.evLink) :=
  congrArg Host.Outcome.next (if_pos (by rw [h]; rfl))

theorem execLinkretry_stays (h : (s.link s.ev.die s.evLink).state ≠ .up) : exec .linkretry s = .next s :=
  congrArg Host.Outcome.next (if_neg (by simpa using h))

theorem execLinkRetrain_trains (h : (s.link s.ev.die s.evLink).state = .up) (hr : 8 ≤ (s.link s.ev.die s.evLink).replays) :
    exec .linkRetrain s = .next (s.modBothEnds s.ev.die s.evLink fun x => { x with state := .training }) :=
  congrArg Host.Outcome.next (if_pos (by rw [h, Bool.and_eq_true, decide_eq_true_eq]; exact ⟨rfl, hr⟩))

theorem execLinkRetrain_stays (h : (s.link s.ev.die s.evLink).state ≠ .up ∨ (s.link s.ev.die s.evLink).replays < 8) :
    exec .linkRetrain s = .next s := by
  refine congrArg Host.Outcome.next (if_neg ?_)
  rw [Bool.and_eq_true, beq_iff_eq, decide_eq_true_eq, not_and_or]
  exact h.imp_right Nat.not_le.2

theorem execLinkRetrained_up (h : (s.link s.ev.die s.evLink).state = .training) :
    exec .linkRetrained s = .next (s.modBothEnds s.ev.die s.evLink fun x => { x with state := .up, replays := 0 }) :=
  congrArg Host.Outcome.next (if_pos (by rw [h]; rfl))

theorem execLinkRetrained_stays (h : (s.link s.ev.die s.evLink).state ≠ .training) : exec .linkRetrained s = .next s :=
  congrArg Host.Outcome.next (if_neg (by simpa using h))

/-! Flits -/

section

variable {f : LinkFlit} {e : Die} (hload : s.ev.load = .flit f) (hn : s.neighbour s.ev.die s.evLink = some e)
include hload hn

theorem execFlitArrival_held (h : (s.link s.ev.die s.evLink).state ≠ .up) : exec .flitArrival s = .next s := by
  have hdown : ((s.link s.ev.die s.evLink).state != .up) = true := bne_iff_ne.2 h
  change execFlitArrival s = _
  simp only [execFlitArrival, hload, hn, hdown, ↓reduceIte]

section

variable {t : State} (ht : s.noteFlit e (linkBack s.evLink) f = t) (h : (s.link s.ev.die s.evLink).state = .up)
include ht h

theorem execFlitArrival_replayed (hbad : f.crcOk = false ∨ (0 < f.seq - (t.link s.ev.die s.evLink).recvSeq
    ∧ f.seq - (t.link s.ev.die s.evLink).recvSeq < 0x800)) :
    exec .flitArrival s = .next (t.replayLink e (linkBack s.evLink)) := by
  subst ht
  change execFlitArrival s = _
  simp only [execFlitArrival, hload, hn, h, bne_self_eq_false, Bool.false_eq_true, ↓reduceIte]
  refine congrArg Host.Outcome.next (if_pos ?_)
  simpa using hbad

theorem execFlitArrival_duplicate (hcrc : f.crcOk = true) (hdup : 0x800 ≤ f.seq - (t.link s.ev.die s.evLink).recvSeq) :
    exec .flitArrival s = .next t := by
  subst ht
  change execFlitArrival s = _
  simp only [execFlitArrival, hload, hn, h, bne_self_eq_false, Bool.false_eq_true, ↓reduceIte]
  have hlate := BitVec.not_lt.2 hdup
  refine congrArg Host.Outcome.next ((if_neg ?_).trans (if_pos ?_))
  · rw [hcrc, decide_eq_false hlate]; simp
  · rw [bne_iff_ne]
    intro hz
    rw [hz] at hdup
    exact absurd hdup (by decide)

/-- A flit in order is accepted, or dropped with its packet when its generation is not one that the receiver takes. -/
theorem execFlitArrival_inOrder (hcrc : f.crcOk = true) (hseq : f.seq = (t.link s.ev.die s.evLink).recvSeq) :
    let u := (t.modLink s.ev.die s.evLink fun x => { x with recvSeq := x.recvSeq + 1 }).modLink e (linkBack s.evLink) fun x =>
      { x with replays := 0 }
    exec .flitArrival s = .next (if u.acceptsGen s.ev.die f.source f.gen then u
      else (u.dropPacket f.packet).countNotify s.ev.die (.link (BitVec.ofNat 2 s.evLink)) 0x50) := by
  subst ht
  have hahead : f.seq - ((s.noteFlit e (linkBack s.evLink) f).link s.ev.die s.evLink).recvSeq = 0 := by
    rw [← hseq]
    exact BitVec.sub_self _
  change execFlitArrival s = _
  have hnot : (decide ((0 : BitVec 12) < 0) && decide ((0 : BitVec 12) < 0x800)) = false := by decide
  simp only [execFlitArrival, hload, hn, h, hcrc, hahead, hnot, bne_self_eq_false, Bool.not_true, Bool.or_self,
    Bool.false_eq_true, ↓reduceIte]

end

end

/-! Words of the network registers -/

section

variable {i : SlotId} {p : BitVec 3} {w : Word} (hq : s.packet s.ev.id = some (.netWord i p w))
include hq

theorem execNetworkWordArrival_behind (hb : s.wordBehind s.ev.id i p = true) : exec .networkWordArrival s = .next s := by
  change execNetworkWordArrival s = _
  simp only [execNetworkWordArrival, hq, hb, ↓reduceIte]

theorem execNetworkWordArrival_retired (hb : s.wordBehind s.ev.id i p = false) (hr : (s.core i.die i.core).retired = true) :
    exec .networkWordArrival s = .next (s.dropPacket s.ev.id) := by
  change execNetworkWordArrival s = _
  simp only [execNetworkWordArrival, hq, hb, State.dropPacket_core, hr, Bool.false_eq_true, ↓reduceIte]

end

/-! A link that goes down -/

theorem execLinkdown_stays (h : (s.link s.ev.die s.evLink).state ≠ .training) : exec .linkdown s = .next s :=
  congrArg Host.Outcome.next (if_pos (by simpa using h))

/-- Both ends notify; dies that are still connected stay. -/
theorem execLinkdown_downs {e : Die} {down t : State} (h : (s.link s.ev.die s.evLink).state = .training)
    (hd : (s.modBothEnds s.ev.die s.evLink fun x => { x with state := .lost }).countNotify s.ev.die
      (.link (BitVec.ofNat 2 s.evLink)) 0x4f = down)
    (hn : down.neighbour s.ev.die s.evLink = some e)
    (ht : down.countNotify e (.link (BitVec.ofNat 2 (linkBack s.evLink))) 0x4f = t)
    (hnt : t.neighbour s.ev.die s.evLink = some e) (hcd : t.cutOff s.ev.die = false) (hce : t.cutOff e = false) :
    exec .linkdown s = .next t := by
  change execLinkdown s = _
  simp only [execLinkdown, h, hd, hn, ht, hnt, hcd, hce, bne_self_eq_false, Bool.and_false, Bool.false_eq_true, ↓reduceIte]

end Sys2Proof.Machine
end

section
/-!
SUPPORT. A die that leaves the panel (16 R427, R428, R433): what the settlement of its debts keeps, and what is left of its units.
-/

namespace Sys2Proof.Machine

variable {s t u : State}

/-! What settling keeps -/

/-- The cores, the sheds, memory and what lasts of the dies are those of another state. -/
structure State.SameUnits (s t : State) : Prop where
  mem : t.mem = s.mem
  cores : t.cores = s.cores
  sheds : t.sheds = s.sheds
  lasting : ∀ c, (t.die c).lasting = (s.die c).lasting

theorem State.SameUnits.refl (s : State) : s.SameUnits s := ⟨rfl, rfl, rfl, fun _ => rfl⟩

theorem State.SameUnits.trans (h : s.SameUnits t) (k : t.SameUnits u) : s.SameUnits u :=
  ⟨k.mem.trans h.mem, k.cores.trans h.cores, k.sheds.trans h.sheds, fun c => (k.lasting c).trans (h.lasting c)⟩

theorem State.SameUnits.boot (h : s.SameUnits t) (c : Die) : (t.die c).boot = (s.die c).boot :=
  congrArg Prod.fst (h.lasting c)

theorem State.sameUnits_modDie {f : DieSt → DieSt} (hf : ∀ x, (f x).lasting = x.lasting) (d : Die) :
    s.SameUnits (s.modDie d f) :=
  ⟨State.modDie_mem .., State.modDie_cores .., State.modDie_sheds .., s.modDie_part DieSt.lasting hf d⟩

theorem State.sameUnits_modHeddle (d : Die) (f : HeddleSt → HeddleSt) : s.SameUnits (s.modHeddle d f) := by
  exact State.sameUnits_modDie (by intro; rfl) d

theorem State.sameUnits_withRoot (r : RootSt) : s.SameUnits { s with root := r } := ⟨rfl, rfl, rfl, fun _ => rfl⟩

theorem State.sameUnits_writeReg (i : SlotId) (r : Reg) (v : Word) : s.SameUnits (s.writeReg i r v) := by
  have h := s.writeReg_only (r := r) (v := v) i
  have hd : (s.writeReg i r v).dies = s.dies := (congrArg State.dies h :)
  exact ⟨(congrArg State.mem h :), (congrArg State.cores h :), (congrArg State.sheds h :), fun c => by
    rw [State.die, hd, State.die]⟩

theorem State.sameUnits_afterWait (i : SlotId) : s.SameUnits (s.afterWait i) := by
  refine ⟨?_, ?_, ?_, fun c => ?_⟩ <;> simp [State.afterWait]

theorem State.afterWait_ne {i j : SlotId} (h : j ≠ i) : (s.afterWait i).slot j = s.slot j := by
  rw [State.afterWait, State.wakeNext_ne h, State.modSlot_ne s h]

/-- The slot that waits for a publish goes on, and nothing else happens to a unit. -/
theorem State.endWaiter_units (v : Option Word) :
    s.SameUnits (s.endWaiter v) ∧ ∀ j, s.root.waiter ≠ some j → (s.endWaiter v).slot j = s.slot j := by
  cases hw : s.root.waiter with
  | none =>
    simp only [State.endWaiter, hw]
    exact ⟨State.sameUnits_withRoot _, fun _ _ => rfl⟩
  | some i =>
    have hne {j : SlotId} (hj : some i ≠ some j) : j ≠ i := fun h => hj (h ▸ rfl)
    have hno : s.SameUnits s.noWaiter := State.sameUnits_withRoot _
    have hplain : s.SameUnits (s.noWaiter.afterWait i) ∧ ∀ j, some i ≠ some j → (s.noWaiter.afterWait i).slot j = s.slot j :=
      ⟨hno.trans (State.sameUnits_afterWait i), fun j hj => State.afterWait_ne (hne hj)⟩
    cases v with
    | none => rw [State.endWaiter_plain hw]; exact hplain
    | some v =>
      cases hr : (s.slot i).parkDst with
      | some r =>
        rw [State.endWaiter_value hw hr v]
        exact ⟨(hno.trans (State.sameUnits_writeReg i r v)).trans (State.sameUnits_afterWait i),
          fun j hj => (State.afterWait_ne (hne hj)).trans (State.writeReg_ne _ (hne hj) r v)⟩
      | none =>
        have hr' : (s.noWaiter.slot i).parkDst = none := hr
        have hend : s.endWaiter (some v) = s.noWaiter.afterWait i := by
          simp only [State.noWaiter] at hr'
          simp only [State.endWaiter, hw, hr']
          rfl
        rw [hend]; exact hplain

theorem State.sameUnits_foldl {α : Type} {f : State → α → State} (h : ∀ (s : State) a, s.SameUnits (f s a)) (l : List α)
    (s : State) :
    s.SameUnits (l.foldl f s) := by
  induction l generalizing s with
  | nil => exact .refl s
  | cons a l ih => exact (h s a).trans (ih _)

/-- The acknowledgement of a die does not count any longer. -/
def State.forgetAck (s : State) (d : Die) : State :=
  { s with root := { s.root with acks := s.root.acks.filter (· != d.toNat) } }

/-- The pending version is given up on every die. -/
def State.withdrawDraft (s : State) : State :=
  s.goodDies.foldl (fun s d => s.modHeddle d fun y => if y.ost == 1 then { y with ost := 0, oths := [], other := 0 } else y) s

/-- Without a publish, the slot that waits for one goes on with all ones. -/
def State.endPublish (s : State) : State :=
  ({ s with root := { s.root with publishing := none } }).endWaiter (some (BitVec.allOnes 64))

theorem State.settleDraft_cases (d : Die) : s.settleDraft d = s.forgetAck d ∨ s.settleDraft d = (s.forgetAck d).withdrawDraft
    ∨ s.settleDraft d = (s.forgetAck d).withdrawDraft.endPublish := by
  unfold State.settleDraft
  extract_lets a
  split
  · exact .inl rfl
  · extract_lets x named
    split
    · exact .inl rfl
    · split
      · exact .inr (.inr rfl)
      · exact .inr (.inl rfl)

/-- The draft protocol changes the heddle registers, and lets the slot that waits for a publish go on. -/
theorem State.settleDraft_units (d : Die) :
    s.SameUnits (s.settleDraft d) ∧ ∀ j, s.root.waiter ≠ some j → (s.settleDraft d).slot j = s.slot j := by
  let a := s.forgetAck d
  let b := a.withdrawDraft
  have ha : s.SameUnits a := State.sameUnits_withRoot _
  have hb : s.SameUnits b := ha.trans (State.sameUnits_foldl (fun _ _ => State.sameUnits_modHeddle ..) _ _)
  have hslots : b.slots = s.slots := foldl_keeps State.slots _ (by intros; rfl) _ a
  have hroot : b.root = a.root := foldl_keeps State.root _ (by intros; rfl) _ a
  obtain h | h | h := s.settleDraft_cases d <;> rw [h]
  · exact ⟨ha, fun _ _ => rfl⟩
  · exact ⟨hb, fun j _ => by rw [State.slot, hslots, State.slot]⟩
  · obtain ⟨hunits, hslot⟩ := State.endWaiter_units (s := { b with root := { b.root with publishing := none } })
      (some (BitVec.allOnes 64))
    refine ⟨(hb.trans (State.sameUnits_withRoot _)).trans hunits, fun j hj => (hslot j ?_).trans ?_⟩
    · rwa [show b.root = a.root from hroot]
    · exact congrArg (tblGet {} (slotKey j)) hslots

theorem State.dropDraftWaiter_units (d : Die) : s.SameUnits (s.dropDraftWaiter d) ∧ (s.dropDraftWaiter d).slots = s.slots := by
  simp only [State.dropDraftWaiter]
  split
  · split
    · exact ⟨State.sameUnits_withRoot _, rfl⟩
    · exact ⟨.refl s, rfl⟩
  · exact ⟨.refl s, rfl⟩

/-- No slot of the die waits any longer for a publish or a switch. -/
theorem State.dropDraftWaiter_waiter {j : SlotId} : (s.dropDraftWaiter j.die).root.waiter ≠ some j := by
  simp only [State.dropDraftWaiter]
  split
  next i hi =>
    split
    · exact Option.some_ne_none j |>.symm
    next hd =>
      rw [hi]
      rintro ⟨⟩
      exact hd (beq_self_eq_true _)
  next hn => rw [hn]; exact Option.some_ne_none j |>.symm

theorem State.sameUnits_notify (d : Die) (b : Nat) : s.SameUnits (s.notify d b) := by
  obtain ⟨t, l, h⟩ := s.notify_eq d b
  exact ⟨s.notify_mem d b, by rw [h], by rw [h], s.notify_lasting d b⟩

theorem State.sameUnits_countNotify_link (d : Die) (n : BitVec 2) (c : Byte) : s.SameUnits (s.countNotify d (.link n) c) := by
  have hcount : s.SameUnits (s.count d (.link n) c) := by
    rw [State.count, State.modLog]
    exact State.sameUnits_modDie (by intro; rfl) d
  exact hcount.trans (State.sameUnits_notify d 4)

theorem State.logDieLost_units : s.SameUnits s.logDieLost ∧ s.logDieLost.slots = s.slots := by
  simp only [State.logDieLost]
  split
  · exact ⟨State.sameUnits_countNotify_link .., State.countNotify_slots ..⟩
  · exact ⟨.refl s, rfl⟩

/-! What the panel is without the die -/

/-- What a die sent, owed and led to is settled. -/
def State.disowned (s : State) (d : Die) : State := ((s.settleOwed d).loseLinks d).cutAccesses d

/-- The state without a die's units, and with its GOOD bit cleared everywhere. -/
def State.withoutDie (s : State) (d : Die) : State :=
  let t := (s.disowned d).removeDie d
  { t with dies := t.dies.map fun (e : Nat × DieSt) =>
    (e.1, e.2.without ((s.die d).boot.py.toNat * 8 + (s.die d).boot.px.toNat) d) }

theorem State.dieLeaves_present {d : Die} (h : (s.die d).boot.present = true) :
    s.dieLeaves d = (((s.withoutDie d).dropDraftWaiter d).settleDraft d).logDieLost :=
  if_neg (by rw [h]; decide)

/-- After the removal of the die nothing happens to a unit, nor to one of its slots. -/
theorem State.dieLeaves_units {d : Die} (h : (s.die d).boot.present = true) :
    (s.withoutDie d).SameUnits (s.dieLeaves d) ∧ ∀ j : SlotId, j.die = d → (s.dieLeaves d).slot j = (s.withoutDie d).slot j := by
  rw [State.dieLeaves_present h]
  obtain ⟨hdrop, hdropped⟩ := (s.withoutDie d).dropDraftWaiter_units d
  obtain ⟨hsettle, hslot⟩ := ((s.withoutDie d).dropDraftWaiter d).settleDraft_units d
  obtain ⟨hlog, hlogged⟩ := (((s.withoutDie d).dropDraftWaiter d).settleDraft d).logDieLost_units
  refine ⟨(hdrop.trans hsettle).trans hlog, fun j hj => ?_⟩
  subst hj
  rw [State.slot, hlogged, ← State.slot, hslot j State.dropDraftWaiter_waiter, State.slot, hdropped, State.slot]

theorem State.settleOwed_mem (d : Die) : (s.settleOwed d).mem = s.mem :=
  foldl_keeps State.mem _ (by intros; exact State.modCore_mem ..) _ _

theorem State.loseLinks_mem (d : Die) : (s.loseLinks d).mem = s.mem := by
  refine foldl_keeps State.mem _ (fun s n => ?_) _ _
  split
  · exact State.modDie_mem ..
  · rfl

theorem State.disowned_mem (d : Die) : (s.disowned d).mem = s.mem := by
  simp only [State.disowned, State.cutAccesses, State.loseLinks_mem, State.settleOwed_mem]

section

variable (d : Die)

theorem State.withoutDie_slot {i : SlotId} (hi : i.die = d) : (s.withoutDie d).slot i = {} := by
  have hkey : slotKey i / 32768 = d.toNat := by
    rw [← hi, slotKey, coreKey]
    omega
  rw [State.slot, State.withoutDie, State.removeDie, tblGet_filter_key _ (fun k => k / 32768 != d.toNat), hkey, bne_self_eq_false]
  rfl

theorem State.withoutDie_core (c : CoreNo) : (s.withoutDie d).core d c = {} := by
  have hkey : coreKey d c / 2048 = d.toNat := by
    rw [coreKey]
    omega
  rw [State.core, State.withoutDie, State.removeDie, tblGet_filter_key _ (fun k => k / 2048 != d.toNat), hkey, bne_self_eq_false]
  rfl

theorem State.withoutDie_shed (h : ShedNo) : (s.withoutDie d).shed d h = {} := by
  have hkey : shedKey d h / 512 = d.toNat := by
    rw [shedKey]
    omega
  rw [State.shed, State.withoutDie, State.removeDie, tblGet_filter_key _ (fun k => k / 512 != d.toNat), hkey, bne_self_eq_false]
  rfl

/-- Its memory is gone, and that of the other dies is left. -/
theorem State.withoutDie_byteAt (pa : Nat) : (s.withoutDie d).byteAt pa = if paDie pa = d then 0 else s.byteAt pa := by
  rw [State.byteAt, State.withoutDie, State.removeDie, State.disowned_mem, tblGet_filter_key _ (fun k => paDie k != d)]
  by_cases h : paDie pa = d
  · simp [h, unlistedByte]
  · simp [h, State.byteAt]

/-- A bit that is cleared. -/
theorem getLsbD_and_not_shift (x : BitVec 64) (n : Nat) : (x &&& ~~~(1#64 <<< n)).getLsbD n = false := by
  by_cases h : n < 64 <;> simp [h]

theorem State.withoutDie_good (c : Die) : ((s.withoutDie d).die c).boot.good.getLsbD
    ((s.die d).boot.py.toNat * 8 + (s.die d).boot.px.toNat) = false := by
  have hdefault (place : Nat) : ({} : DieSt).without place d = {} := by simp [DieSt.without]
  rw [State.die, State.withoutDie, tblGet_map_of_default (fun x : DieSt => x.without _ d) (hdefault _)]
  exact getLsbD_and_not_shift _ _

end

/-- What a die that leaves the panel leaves behind. -/
theorem State.dieLeaves_gone {d : Die} (h : (s.die d).boot.present = true) :
    (∀ i : SlotId, i.die = d → (s.dieLeaves d).slot i = {}) ∧ (∀ c, (s.dieLeaves d).core d c = {})
      ∧ (∀ n, (s.dieLeaves d).shed d n = {}) ∧ (∀ pa, (s.dieLeaves d).byteAt pa = if paDie pa = d then 0 else s.byteAt pa)
      ∧ ∀ c, ((s.dieLeaves d).die c).boot.good.getLsbD
        ((s.die d).boot.py.toNat * 8 + (s.die d).boot.px.toNat) = false := by
  obtain ⟨hunits, hslot⟩ := State.dieLeaves_units h
  refine ⟨fun i hi => ?_, fun c => ?_, fun n => ?_, fun pa => ?_, fun c => ?_⟩
  · rw [hslot i hi, State.withoutDie_slot d hi]
  · rw [State.core, hunits.cores, ← State.core, State.withoutDie_core]
  · rw [State.shed, hunits.sheds, ← State.shed, State.withoutDie_shed]
  · rw [State.byteAt, hunits.mem, ← State.byteAt, State.withoutDie_byteAt]
  · rw [hunits.boot, State.withoutDie_good]

theorem execDieHeartbeatLoss_absent (h : (s.die s.ev.die).boot.present = false) : exec .dieHeartbeatLoss s = .next s :=
  congrArg Host.Outcome.next (if_pos (by simp [h]))

end Sys2Proof.Machine
end

section
/-!
OBLIGATION O54. Links and dies (06 R184; 16 R427, R429 to R431, R433): the rebuilt tree, generations, and the statement.
-/

namespace Sys2Proof.Machine

variable {s : State}

/-! The rebuilt tree -/

theorem State.setRoutes_frame (d : Die) (via : Option CoreNo) (l : List RouteEntry) :
    (s.setRoutes d via l).mem = s.mem ∧ (s.setRoutes d via l).slots = s.slots := by
  cases via <;> simp [State.setRoutes]

theorem State.setRoutes_die (d : Die) (l : List RouteEntry) : ((s.setRoutes d none l).die d).routes = l := by
  have hdie : (s.setRoutes d none l).die d = (s.modDie d fun x => { x with routes := l }).die d := rfl
  rw [hdie, State.modDie_self]

theorem State.setRoutes_core (d : Die) (c : CoreNo) (l : List RouteEntry) :
    ((s.setRoutes d (some c) l).core d c).routes = some l := by
  have hcore : (s.setRoutes d (some c) l).core d c = (s.modCore d c fun x => { x with routes := some l }).core d c := rfl
  rw [hcore, State.modCore_self]

/-- A lost link leads onto the new tree. -/
def LinkSt.rerouted (l : LinkSt) : LinkSt := if l.state == .lost then { l with state := .detour } else l

theorem DieSt.rebuilt_links (x : DieSt) : x.rebuilt.links = x.links.map fun k => (k.1, k.2.rerouted) := by
  refine congrArg (x.links.map ·) (funext fun k => ?_)
  rw [LinkSt.rerouted]
  split <;> rfl

theorem DieSt.rebuilt_link (x : DieSt) (k : Nat) : (tblGet ({} : LinkSt) k x.rebuilt.links).state ≠ .lost := by
  rw [DieSt.rebuilt_links, tblGet_map_of_default (d := ({} : LinkSt)) (e := {}) LinkSt.rerouted rfl, LinkSt.rerouted]
  split
  · simp
  next h => exact fun hl => h (by rw [hl]; rfl)

/-- The state with the new route tables, whose lost links lead onto the new tree. -/
def State.rebuiltTree (s : State) (l : List RouteTable) : State :=
  let t := l.foldl (fun s r => s.setRoutes r.die r.core r.entries) s
  { t with dies := t.dies.map fun (e : Nat × DieSt) => (e.1, e.2.rebuilt) }

theorem State.rebuiltTree_die (l : List RouteTable) (c : Die) : (s.rebuiltTree l).die c
    = ((l.foldl (fun s r => s.setRoutes r.die r.core r.entries) s).die c).rebuilt :=
  tblGet_map_of_default (d := ({} : DieSt)) DieSt.rebuilt rfl _ _

theorem State.rebuiltTree_cores (l : List RouteTable) : (s.rebuiltTree l).cores
    = (l.foldl (fun s r => s.setRoutes r.die r.core r.entries) s).cores := rfl

theorem execSpanningTreeRebuild_rebuilds {l : List RouteTable} (hload : s.ev.load = .routes l) :
    ∃ t, exec .spanningTreeRebuild s = .next t ∧ t.mem = s.mem ∧ t.slots = s.slots ∧ t.cores = (s.rebuiltTree l).cores
      ∧ t.dies = (s.rebuiltTree l).dies := by
  let u := s.rebuiltTree l
  let frames := u.dies.flatMap fun e => e.2.framesKept
  let resend := fun (s : State) (f : Frame) => s.send (.frame f)
  refine ⟨frames.foldl resend u, ?_, ?_, ?_, ?_, ?_⟩
  · change execSpanningTreeRebuild s = _
    simp only [execSpanningTreeRebuild, hload]
    rfl
  · exact (foldl_keeps State.mem resend (fun _ _ => rfl) frames u).trans
      (foldl_keeps State.mem _ (fun _ _ => (State.setRoutes_frame ..).1) l s)
  · exact (foldl_keeps State.slots resend (fun _ _ => rfl) frames u).trans
      (foldl_keeps State.slots _ (fun _ _ => (State.setRoutes_frame ..).2) l s)
  · exact foldl_keeps State.cores resend (fun _ _ => rfl) frames u
  · exact foldl_keeps State.dies resend (fun _ _ => rfl) frames u

/-! Generations -/

/-- A table whose entries are changed in a way that keeps a part of them, and of the default, keeps that part of every entry. -/
theorem tblGet_map_part {α β : Type} {d : α} (g : α → β) (f : α → α) (hf : ∀ x, g (f x) = g x) (k : Nat) (t : Tbl α) :
    g (tblGet d k (t.map fun e => (e.1, f e.2))) = g (tblGet d k t) := by
  induction t with
  | nil => rfl
  | cons e r ih =>
    obtain ⟨i, x⟩ := e
    rw [List.map_cons, tblGet, tblGet, apply_ite g, apply_ite g, hf, ih]

/-- A receiver knows the generation of a source. -/
def DieSt.knows (x : DieSt) (d : Die) (g : BitVec 8) : DieSt := { x with peerGens := tblSet 0 d.toNat g x.peerGens }

theorem execGenerationAdvance_advances : ∃ t, exec .generationAdvance s = .next t
    ∧ (t.die s.ev.die).gen = (s.die s.ev.die).gen + 1 ∧ t.mem = s.mem ∧ t.slots = s.slots
    ∧ ∀ c ∈ t.dies, tblGet 0 s.ev.die.toNat c.2.peerGens = (s.die s.ev.die).gen + 1 := by
  let g := (s.die s.ev.die).gen + 1
  let rise : DieSt → DieSt := fun x => { x with gen := g }
  let u := s.modDie s.ev.die rise
  refine ⟨{ u with dies := u.dies.map fun e => (e.1, e.2.knows s.ev.die g) }, rfl, ?_, s.modDie_mem s.ev.die rise,
    s.modDie_slots s.ev.die rise, fun c hc => ?_⟩
  · have hown : (u.die s.ev.die).gen = g := by rw [State.modDie_self]
    exact (tblGet_map_part DieSt.gen (fun x => x.knows s.ev.die g) (fun _ => rfl) _ _).trans hown
  · obtain ⟨e, -, rfl⟩ := List.mem_map.1 hc
    exact tblGet_set_self ..

/-- Settles O54: the links by their events, then a link that goes down, a die that leaves, the tree and the generations. -/
theorem linksAndDies : Obligations.LinksAndDies := by
  unfold Obligations.LinksAndDies
  constructor
  · intro s f e i p w d n l replayed set
    refine ⟨execLinkretry_replays, fun h => ⟨execLinkretry_stays h, execLinkRetrain_stays (.inl h)⟩,
      fun h => ⟨fun hr => execLinkRetrain_trains h hr, fun hr => execLinkRetrain_stays (.inr hr)⟩, execLinkRetrained_up,
      execLinkRetrained_stays, fun t g hn he => State.modBothEnds_ends hn he g, fun hload hn => ⟨execFlitArrival_held hload hn,
      fun hup => ?_⟩, fun hq => ⟨execNetworkWordArrival_behind hq, execNetworkWordArrival_retired hq,
      execNetworkWordArrival_first s hq⟩⟩
    intro t at0
    refine ⟨execFlitArrival_replayed hload hn rfl hup, execFlitArrival_duplicate hload hn rfl hup, fun hcrc hseq => ?_⟩
    have harrives := execFlitArrival_inOrder hload hn rfl hup hcrc hseq
    exact ⟨fun hg => harrives.trans (congrArg _ (if_pos hg)),
      fun hg => harrives.trans (congrArg _ (if_neg (Bool.eq_false_iff.1 hg)))⟩
  · intro s l e d n down
    refine ⟨execLinkdown_stays, fun h hn => ?_, execDieHeartbeatLoss_absent, fun h => ?_, fun hload => ?_, ?_⟩
    · intro t hnt hcd hce
      exact execLinkdown_downs h rfl hn rfl hnt hcd hce
    · obtain ⟨hslot, hcore, hshed, hbyte, hgood⟩ := State.dieLeaves_gone h
      exact ⟨_, rfl, hslot, hcore, hshed, fun pa hp => (hbyte pa).trans (if_pos hp),
        fun pa hp => (hbyte pa).trans (if_neg hp), fun c _ _ => hgood c⟩
    · obtain ⟨t, ht, hmem, hslots, hcores, hdies⟩ := execSpanningTreeRebuild_rebuilds hload
      have hdie (c : Die) : t.die c = ((l.foldl (fun s r => s.setRoutes r.die r.core r.entries) s).die c).rebuilt := by
        rw [State.die, hdies]
        exact State.rebuiltTree_die l c
      refine ⟨t, ht, ?_, ?_, hmem, hslots, fun c k => ?_⟩
      · rintro r rfl hr
        rw [hdie, List.foldl_cons, List.foldl_nil, hr]
        exact State.setRoutes_die r.die r.entries
      · rintro r c rfl hr
        rw [State.core, hcores, State.rebuiltTree_cores, List.foldl_cons, List.foldl_nil, hr]
        exact State.setRoutes_core r.die c r.entries
      · rw [State.link, hdie]
        exact DieSt.rebuilt_link _ k
    · exact execGenerationAdvance_advances

end Sys2Proof.Machine
end

section
/-!
SUPPORT. The parts of the machine that fail (15 R406, R407; 16 R419, R422, R423, R428): what a failure that stops accesses and
notifies leaves of them, the repair map, the range that is poisoned, and a thread that is re-run.
-/

namespace Sys2Proof

/-- A fold whose steps each leave the state as it is. -/
theorem foldl_stays {α σ : Type} {f : σ → α → σ} {s : σ} {l : List α} (h : ∀ a ∈ l, f s a = s) : l.foldl f s = s := by
  induction l with
  | nil => rfl
  | cons a l ih =>
    rw [List.foldl_cons, h a List.mem_cons_self]
    exact ih fun b hb => h b (List.mem_cons_of_mem a hb)

end Sys2Proof

namespace Sys2Proof.Machine

variable {s t : State}

/-! What a failure of accesses leaves -/

/-- Whether a core and its slots are in use: RETIRED, a failure, RSLOT. -/
def CoreSt.fitness (x : CoreSt) : Bool × Bool × BitVec 16 := (x.retired, x.failed, x.rslot)

/-- The event that is performed, memory and its poison, the boot registers and waiting re-runs of the dies, and the fitness
of the cores. -/
def State.parts (s : State) :
    EvArg × Tbl Byte × List Nat × (Die → BootSt × List Rerun) × (Die → CoreNo → Bool × Bool × BitVec 16) :=
  (s.ev, s.mem, s.poison, fun d => (s.die d).lasting, fun d c => (s.core d c).fitness)

theorem State.parts_eq_iff : t.parts = s.parts ↔ t.ev = s.ev ∧ t.mem = s.mem ∧ t.poison = s.poison
    ∧ (∀ d, (t.die d).lasting = (s.die d).lasting) ∧ ∀ d c, (t.core d c).fitness = (s.core d c).fitness := by
  simp only [State.parts, Prod.mk.injEq, funext_iff]

theorem State.parts_of_tables (hev : t.ev = s.ev) (hmem : t.mem = s.mem) (hpoison : t.poison = s.poison) (hdies : t.dies = s.dies)
    (hcores : t.cores = s.cores) : t.parts = s.parts :=
  State.parts_eq_iff.2 ⟨hev, hmem, hpoison, fun d => by rw [State.die, hdies, State.die],
    fun d c => by rw [State.core, hcores, State.core]⟩

theorem State.reruns_of_parts (h : t.parts = s.parts) (d : Die) : (t.die d).reruns = (s.die d).reruns :=
  congrArg Prod.snd ((State.parts_eq_iff.1 h).2.2.2.1 d)

theorem State.modSlot_parts (i : SlotId) (f : SlotSt → SlotSt) : (s.modSlot i f).parts = s.parts :=
  State.parts_of_tables (State.modSlot_ev ..) (State.modSlot_mem ..) (State.modSlot_poison ..)
    (State.modSlot_dies ..) (State.modSlot_cores ..)

theorem State.modShed_parts (d : Die) (h : ShedNo) (f : ShedSt → ShedSt) : (s.modShed d h f).parts = s.parts :=
  State.parts_of_tables (State.modShed_ev ..) (State.modShed_mem ..) (State.modShed_poison ..)
    (State.modShed_dies ..) (State.modShed_cores ..)

/-- A part of a core that a change of one core keeps. -/
theorem State.modCore_part {β : Type} (g : CoreSt → β) {f : CoreSt → CoreSt} (hf : ∀ x, g (f x) = g x) (d e : Die)
    (c k : CoreNo) : g ((s.modCore d c f).core e k) = g (s.core e k) := by
  by_cases h : e = d ∧ k = c
  · obtain ⟨rfl, rfl⟩ := h
    rw [State.modCore_self, hf]
  · rw [State.modCore_ne s h]

theorem State.modCore_parts {f : CoreSt → CoreSt} (hf : ∀ x, (f x).fitness = x.fitness) (d : Die) (c : CoreNo) :
    (s.modCore d c f).parts = s.parts :=
  State.parts_eq_iff.2 ⟨State.modCore_ev .., State.modCore_mem .., State.modCore_poison .., fun _ => by rw [State.modCore_die],
    fun e k => State.modCore_part CoreSt.fitness hf d e c k⟩

theorem State.modLog_parts (d : Die) (u : LogUnit) (f : ErrLog → ErrLog) : (s.modLog d u f).parts = s.parts := by
  refine State.parts_eq_iff.2 ⟨?_, State.modLog_mem .., ?_, State.modLog_lasting s d u f, fun e k => ?_⟩
  · cases u <;> simp [State.modLog]
  · cases u <;> simp [State.modLog]
  · cases u with
    | core n => exact State.modCore_part CoreSt.fitness (by intro; rfl) d e n k
    | _ => simp [State.modLog]

theorem State.notify_parts (d : Die) (b : Nat) : (s.notify d b).parts = s.parts := by
  refine State.parts_eq_iff.2 ⟨?_, State.notify_mem .., ?_, State.notify_lasting s d b, fun e k => by rw [State.notify_core]⟩
  · obtain ⟨t, l, h⟩ := s.notify_eq d b
    rw [h]
  · obtain ⟨t, l, h⟩ := s.notify_eq d b
    rw [h]

theorem State.countNotify_parts (d : Die) (u : LogUnit) (n : Byte) : (s.countNotify d u n).parts = s.parts := by
  simp only [State.countNotify]
  split
  · rw [State.notify_parts, State.count, State.modLog_parts]
  · rw [State.count, State.modLog_parts]

theorem State.failureMail_parts (d : Die) (c : CoreNo) (sub : Byte) : (s.failureMail d c sub).parts = s.parts := by
  simp only [State.failureMail]
  split
  · rw [State.notify_parts]
  · exact State.parts_of_tables (State.send_ev ..) (State.send_mem ..) (State.send_poison ..)
      (State.send_dies ..) (State.send_cores ..)

theorem State.failureMail_slots (d : Die) (c : CoreNo) (sub : Byte) : (s.failureMail d c sub).slots = s.slots := by
  simp only [State.failureMail]
  split
  · rw [State.notify_slots]
  · rfl

theorem State.countAnswer_parts (n : Word) (v : Option Word) (lost : Bool) : (s.countAnswer n v lost).parts = s.parts := by
  rw [State.countAnswer, State.modCensus]
  exact State.modCore_parts (by intro; rfl) _ _

theorem State.dropAccess_parts (n : Nat) : (s.dropAccess n).parts = s.parts :=
  State.parts_of_tables (State.dropAccess_ev ..) (State.dropAccess_mem ..) (State.dropAccess_poison ..) (State.dropAccess_dies ..)
    (State.dropAccess_cores ..)

theorem State.failSlot_parts (i : SlotId) (cause sub : Byte) (val aux : Word) :
    (s.failSlot i cause sub val aux).parts = s.parts :=
  State.modSlot_parts ..

theorem State.failAccess_parts (a : Access) (cause sub : Byte) (addr : Word) :
    (s.failAccess a cause sub addr).parts = s.parts := by
  simp only [State.failAccess]
  split
  · split
    · rw [State.dropAccess_parts]
    · split
      · rw [State.failSlot_parts, State.dropAccess_parts]
      · rw [State.failSlot_parts]
        exact State.parts_of_tables rfl rfl rfl rfl rfl
  · rw [State.feederFault, State.countNotify_parts, State.modShed_parts, State.dropAccess_parts]

theorem State.failWait_parts (w : WaitEntry) (cause : Byte) : (s.failWait w cause).parts = s.parts := by
  simp only [State.failWait]
  split
  · rw [State.failAccess_parts]
  · exact State.parts_of_tables rfl rfl rfl rfl rfl

theorem State.orphan_parts (p : TakeEntry → Bool) : (s.orphan p).parts = s.parts :=
  (foldl_keeps State.parts _ (fun _ w => State.failWait_parts w 0x28) _ _).trans (State.parts_of_tables rfl rfl rfl rfl rfl)

/-! The repair map (11 R342) -/

theorem State.noteRepair_mem_repairs (d : Die) (e : RepairEntry) : e ∈ ((s.noteRepair d e).die d).boot.repairs := by
  rw [State.noteRepair, State.writeRepairs_repairs, addRepairs]
  by_cases h : e ∈ (s.die d).boot.repairs <;> simp [h]

section

variable (d : Die) (e : RepairEntry)

theorem State.noteRepair_ev : (s.noteRepair d e).ev = s.ev := State.modDie_ev ..
theorem State.noteRepair_mem : (s.noteRepair d e).mem = s.mem := State.modDie_mem ..
theorem State.noteRepair_slots : (s.noteRepair d e).slots = s.slots := State.modDie_slots ..
theorem State.noteRepair_core (c : CoreNo) : (s.noteRepair d e).core d c = s.core d c := State.modDie_core ..

theorem State.noteRepair_reruns : ((s.noteRepair d e).die d).reruns = (s.die d).reruns := by
  simp only [State.noteRepair, State.writeRepairs, State.modBoot, State.modDie_self]

end

/-! Poisoned ranges (R428) -/

/-- The doubles of a range are poisoned, and nothing else happens to a part but the range's poison. -/
theorem State.poisonRange_parts (lo n : Nat) : (s.poisonRange lo n).parts
    = State.parts { s with poison := setRange lo n ((List.range n).map fun k => lo + 8 * k) s.poison } :=
  (foldl_keeps State.parts _ (fun _ w => State.failWait_parts w 0x29) _ _).trans (State.parts_of_tables rfl rfl rfl rfl rfl)

theorem State.poisonRange_poison (lo n : Nat) :
    (s.poisonRange lo n).poison = setRange lo n ((List.range n).map fun k => lo + 8 * k) s.poison :=
  (State.parts_eq_iff.1 (State.poisonRange_parts lo n)).2.2.1

theorem mem_setRange {lo n x : Nat} {new l : List Nat} :
    x ∈ setRange lo n new l ↔ (x ∈ l ∧ (x < lo ∨ lo + 8 * n ≤ x)) ∨ x ∈ new := by
  simp only [setRange, List.mem_append, List.mem_filter, decide_eq_true_eq]
  tauto

/-- The poison of a core's scratchpad and skein-memory share: two ranges, the second after the first. -/
theorem State.poisonCore_poisoned (d : Die) (c : CoreNo) :
    (∀ k, k < 0x4000 → (s.poisonCore d c).isPoisoned (paOf d 1 (c.toNat * 0x20000) + 8 * k) = true)
      ∧ ∀ k, k < 0x10000 → (s.poisonCore d c).isPoisoned (paOf d 1 (0x40000000 + c.toNat * 0x80000) + 8 * k) = true := by
  have hc := c.isLt
  have haligned (o k : Nat) (ho : o % 8 = 0) : doubleOf (paOf d 1 o + 8 * k) = paOf d 1 o + 8 * k :=
    doubleOf_aligned (by rw [paOf]; omega)
  refine ⟨fun k hk => ?_, fun k hk => ?_⟩
  · rw [State.isPoisoned, haligned _ _ (by omega), List.contains_iff_mem, State.poisonCore, State.poisonRange_poison,
      mem_setRange, State.poisonRange_poison, mem_setRange]
    refine .inl ⟨.inr (List.mem_map.2 ⟨k, List.mem_range.2 hk, rfl⟩), .inl ?_⟩
    simp only [paOf]
    omega
  · rw [State.isPoisoned, haligned _ _ (by omega), List.contains_iff_mem, State.poisonCore, State.poisonRange_poison,
      mem_setRange]
    exact .inr (List.mem_map.2 ⟨k, List.mem_range.2 hk, rfl⟩)

/-- What poisoning a core leaves. -/
theorem State.poisonCore_keeps (d : Die) (c : CoreNo) : (s.poisonCore d c).ev = s.ev ∧ (s.poisonCore d c).mem = s.mem
    ∧ (∀ e, ((s.poisonCore d c).die e).lasting = (s.die e).lasting)
    ∧ ∀ e k, ((s.poisonCore d c).core e k).fitness = (s.core e k).fitness := by
  have hone (s : State) (lo n : Nat) := State.parts_eq_iff.1 (State.poisonRange_parts (s := s) lo n)
  let u := s.poisonRange (paOf d 1 (c.toNat * 0x20000)) 0x4000
  obtain ⟨he, hm, -, hl, hf⟩ := hone s (paOf d 1 (c.toNat * 0x20000)) 0x4000
  obtain ⟨he', hm', -, hl', hf'⟩ := hone u (paOf d 1 (0x40000000 + c.toNat * 0x80000)) 0x10000
  exact ⟨he'.trans he, hm'.trans hm, fun e => (hl' e).trans (hl e), fun e k => (hf' e k).trans (hf e k)⟩

/-! A failed thread (R419, R422) -/

/-- A slot without a thread loses nothing. -/
theorem State.failThread_free {i : SlotId} (h : (s.slot i).state = .free) : s.failThread i = s :=
  if_pos (by rw [h]; rfl)

/-- The event, the slots, and the size of a die's journal. -/
def State.journaling (s : State) (e : Die) : EvArg × Tbl SlotSt × BitVec 32 := (s.ev, s.slots, (s.die e).jnlSize)

theorem State.modDie_journaling {f : DieSt → DieSt} (hf : ∀ x, (f x).jnlSize = x.jnlSize) (d e : Die) :
    (s.modDie d f).journaling e = s.journaling e := by
  rw [State.journaling, State.modDie_ev, State.modDie_slots, State.modDie_part _ DieSt.jnlSize hf, State.journaling]

theorem State.unhold_journaling (d e : Die) (w : HeldWho) : (s.unhold d w).journaling e = s.journaling e := by
  rw [State.unhold]
  exact State.modDie_journaling (by intro; rfl) d e

theorem State.dropAgent_journaling (d e : Die) (k : BitVec 7) (g : Agent) :
    (s.dropAgent d k g).journaling e = s.journaling e := by
  have hskein (u : State) (f : SkeinSt → SkeinSt) : (u.modSkein d k f).journaling e = u.journaling e := by
    rw [State.journaling, State.modSkein_ev, State.modSkein_slots, State.modSkein_die, State.journaling]
  have hdrop (u : State) (n : Nat) : (u.dropAccess n).journaling e = u.journaling e := by
    rw [State.journaling, State.dropAccess_ev, State.dropAccess_slots, State.dropAccess_die, State.journaling]
  rw [State.dropAgent, hskein]
  exact foldl_keeps (State.journaling · e) _ (fun _ _ => (State.unhold_journaling ..).trans (hdrop ..)) _ _

theorem State.dropThread_journaling (i : SlotId) (e : Die) : (s.dropThread i).journaling e = s.journaling e := by
  have hheld : ((((s.dropAgent i.die (skeinOf i.core) (.slot i (s.slot i).inc)).unhold i.die (.operand i)).unhold i.die
      (.fetch i)).unhold i.die (.vector i)).journaling e = s.journaling e := by
    rw [State.unhold_journaling, State.unhold_journaling, State.unhold_journaling, State.dropAgent_journaling]
  have hcore (u : State) (f : CoreSt → CoreSt) : (u.modCore i.die i.core f).journaling e = u.journaling e := by
    rw [State.journaling, State.modCore_ev, State.modCore_slots, State.modCore_die, State.journaling]
  unfold State.dropThread
  extract_lets x a b c r l
  have hc : c.journaling e = s.journaling e := (State.modDie_journaling (by intro; rfl) i.die e).trans hheld
  clear_value c
  have hl : l.journaling e = s.journaling e := by
    simp only [l]
    split
    · exact hc
    · exact hc
  rw [hcore]
  exact hl

theorem State.dropThread_jnlOf (i : SlotId) : ((s.dropDeparture i).dropThread i).jnlOf i = s.jnlOf i := by
  have h : ((s.dropDeparture i).dropThread i).journaling i.die = s.journaling i.die := State.dropThread_journaling i i.die
  simp only [State.journaling, Prod.mk.injEq] at h
  obtain ⟨-, hslots, hsize⟩ := h
  simp only [State.jnlOf, State.slot, hslots, hsize]

theorem State.loseThread_ev (i : SlotId) (x : SlotSt) : (s.loseThread i x).ev = s.ev := by
  have hev {u v : State} (h : v.parts = u.parts) : v.ev = u.ev := (State.parts_eq_iff.1 h).1
  simp only [State.loseThread]
  rw [hev (State.orphan_parts _)]
  split
  · rw [State.stopItem, State.modShed_ev, State.nodeFault, hev (State.countNotify_parts ..), State.modShed_ev]
  · exact hev (State.countAnswer_parts ..)
  · rfl

/-- A failed thread is no event of its own. -/
theorem State.failThread_ev (i : SlotId) : (s.failThread i).ev = s.ev := by
  have hdrop : ((s.dropDeparture i).dropThread i).ev = s.ev := congrArg Prod.fst (State.dropThread_journaling i i.die :)
  simp only [State.failThread]
  split
  · rfl
  · rw [State.modSlot_ev]
    split
    · exact hdrop
    · split
      · rw [State.modDie_ev, hdrop]
      · rw [State.loseThread_ev, hdrop]

/-- A journaled thread that fails leaves its slot FREE and joins the re-runs that wait (R422). -/
theorem State.failThread_journaled {i : SlotId} (hj : s.jnlOf i = true) (hs : (s.slot i).state ≠ .free)
    (hm : s.movedAway i = false) : ((s.failThread i).slot i).state = .free
      ∧ ∃ r ∈ ((s.failThread i).die i.die).reruns, r.old = i ∧ r.inc = (s.slot i).inc := by
  let u := (s.dropDeparture i).dropThread i
  let r : Rerun := { image := u.rerunImage (s.slot i), old := i, inc := (s.slot i).inc, ctx := (u.core i.die i.core).ctx }
  let v := u.modDie i.die fun y => { y with reruns := y.reruns ++ [r] }
  have hfree : ((s.slot i).state == .free) = false := beq_false_of_ne hs
  have hends : s.failThread i = v.modSlot i fun x => emptySlot x (v.coreClock i.die i.core) := by
    simp only [State.failThread, hfree, hm, s.dropThread_jnlOf, hj, Bool.false_eq_true, ↓reduceIte]
    rfl
  rw [hends, State.modSlot_self, State.modSlot_die, State.modDie_self]
  exact ⟨rfl, r, List.mem_append_right _ (List.mem_singleton.2 rfl), rfl, rfl⟩

end Sys2Proof.Machine
end

section
/-!
OBLIGATION O52. Memory errors, suspect cores, failed cores and banks (15 R406, R407; 16 R419, R422, R423, R428).
-/

namespace Sys2Proof.Machine

variable {s : State}

/-! Memory errors (R406, R407) -/

theorem execEccCorrectable_counts {u : LogUnit} (hload : s.ev.load = .logUnit u) (hu : ∀ c, u ≠ .core c) :
    exec .eccCorrectable s = .next (s.count s.ev.die u 0x38) := by
  change execEccCorrectable s = _
  cases u with
  | core c => exact absurd rfl (hu c)
  | _ => simp only [execEccCorrectable, hload]

theorem execEccCorrectable_core {c : CoreNo} {t : State} (hload : s.ev.load = .logUnit (.core c))
    (ht : s.count s.ev.die (.core c) 0x38 = t) : exec .eccCorrectable s
      = .next (t.modCore s.ev.die c fun x => { x with errs := (t.aclk :: x.errs).take 16 }) := by
  subst ht
  change execEccCorrectable s = _
  simp only [execEccCorrectable, hload]
  rfl

/-- The double is poisoned and empty at its home, whose unit notifies. -/
def State.poisonHome (s : State) (pa : Nat) (u : LogUnit) : State :=
  ((s.setEmpty pa).setPoison pa).countNotify (paDie pa) u 0x39

section

variable {pa : Nat} (hpa : s.ev.val.toNat = pa)
include hpa

theorem execEccUncorrectable_nothing (h : paSpace pa = 2 ∨ (s.badPa (paDie pa) pa).isSome) :
    exec .eccUncorrectable s = .next s := by
  subst hpa
  exact congrArg Host.Outcome.next (if_pos (by simpa using h))

variable (hspace : paSpace pa ≠ 2) (hbad : s.badPa (paDie pa) pa = none)
include hspace hbad

/-- Found at no copy, the error is that of the double's home. -/
theorem execEccUncorrectable_home (h : paSpace pa ≠ 0 ∨ s.ev.load = .none) :
    exec .eccUncorrectable s = .next (s.poisonHome pa (errorUnit pa)) := by
  subst hpa
  change execEccUncorrectable s = _
  by_cases hz : paSpace s.ev.val.toNat = 0
  · have hload := h.resolve_left (not_not.2 hz)
    simp [execEccUncorrectable, State.poisonHome, hbad, hz, hload]
  · simp [execEccUncorrectable, State.poisonHome, hbad, hz, hspace]

section

variable (hz : paSpace pa = 0)
include hz

theorem execEccUncorrectable_slice {n : BitVec 10} (hload : s.ev.load = .logUnit (.l2 n)) (hn : n.toNat = sliceOf (paOffset pa)) :
    exec .eccUncorrectable s = .next (s.poisonHome pa (.l2 n)) := by
  subst hpa
  change execEccUncorrectable s = _
  simp [execEccUncorrectable, State.poisonHome, hbad, hz, hload, hn]

theorem execEccUncorrectable_noLine {c : CoreNo} (hload : s.ev.load = .logUnit (.core c))
    (hline : tblGet [] (lineOf pa) (s.core s.ev.die c).l1d = []) :
    exec .eccUncorrectable s = .next (s.poisonHome pa (errorUnit pa)) := by
  subst hpa
  change execEccUncorrectable s = _
  simp [execEccUncorrectable, State.poisonHome, hbad, hz, hload, hline]

theorem execEccUncorrectable_line {c : CoreNo} (hload : s.ev.load = .logUnit (.core c))
    (hline : tblGet [] (lineOf pa) (s.core s.ev.die c).l1d ≠ []) :
    exec .eccUncorrectable s = .next ((s.poisonL1d s.ev.die c pa).countNotify s.ev.die (.core c) 0x39) := by
  subst hpa
  change execEccUncorrectable s = _
  simp [execEccUncorrectable, hbad, hz, hload, hline]

end

end

/-! Suspect cores (R423) -/

theorem CoreSt.errorProne_iff (x : CoreSt) : x.errorProne = true
    ↔ 16 ≤ x.errs.length ∧ (x.errs.headD 0 - x.errs.getLastD 0).toNat ≤ 1100000000 := by
  rw [CoreSt.errorProne, Bool.and_eq_true, decide_eq_true_eq, decide_eq_true_eq, suspectErrors, aclkSecond]

theorem State.coreEmpty_free {d : Die} {c : CoreNo} (h : s.coreEmpty d c = true) {n : SlotNo} (hn : n ≠ 15) :
    (s.slot ⟨d, c, n⟩).state = .free := by
  simp only [State.coreEmpty, Bool.and_eq_true, List.all_eq_true, List.mem_range, beq_iff_eq] at h
  obtain ⟨⟨hfree, -⟩, -⟩ := h
  have hlt : n.toNat < 15 := by
    have hne : n.toNat ≠ 15 := fun e => hn (BitVec.eq_of_toNat_eq e)
    omega
  simpa using hfree n.toNat hlt

theorem execCoreret_stays (h : (s.core s.ev.die s.ev.core).suspect = false ∨ (s.core s.ev.die s.ev.core).retired = true
    ∨ s.coreEmpty s.ev.die s.ev.core = false) : exec .coreret s = .next s := by
  refine congrArg Host.Outcome.next (if_pos ?_)
  simpa [or_assoc] using h

/-- The retired core is counted and noted, and its supervisor slot is empty. -/
theorem execCoreret_retires (hs : (s.core s.ev.die s.ev.core).suspect = true) (hr : (s.core s.ev.die s.ev.core).retired = false)
    (he : s.coreEmpty s.ev.die s.ev.core = true) : ∃ t, exec .coreret s = .next t
      ∧ (t.core s.ev.die s.ev.core).retired = true ∧ (t.slot ⟨s.ev.die, s.ev.core, 15⟩).state = .free ∧ t.mem = s.mem
      ∧ ({ kind := 3, unit := s.ev.core, sub := 0 } : RepairEntry) ∈ (t.die s.ev.die).boot.repairs
      ∧ ∀ i : SlotId, i ≠ ⟨s.ev.die, s.ev.core, 15⟩ → t.slot i = s.slot i := by
  let d := s.ev.die
  let c := s.ev.core
  let u := s.modCore d c fun x => { x with retired := true }
  let v := u.modSlot ⟨d, c, 15⟩ fun x => emptySlot x (u.coreClock d c)
  let w := v.countNotify d (.core c) 0x4d
  have hw : w.parts = u.parts := (State.countNotify_parts ..).trans (State.modSlot_parts ..)
  obtain ⟨-, hmem, -, -, hfit⟩ := State.parts_eq_iff.1 hw
  have hslot (i : SlotId) : (w.noteRepair d { kind := 3, unit := c, sub := 0 }).slot i = v.slot i := by
    rw [State.slot, State.noteRepair_slots, ← State.slot, State.countNotify_slot]
  refine ⟨w.noteRepair d { kind := 3, unit := c, sub := 0 }, ?_, ?_, ?_, ?_, State.noteRepair_mem_repairs .., fun i hi => ?_⟩
  · exact congrArg Host.Outcome.next (if_neg (by simp [hs, hr, he]))
  · have hretired : (w.core d c).retired = (u.core d c).retired := congrArg Prod.fst (hfit d c)
    rw [State.noteRepair_core, hretired, State.modCore_self]
  · rw [hslot, State.modSlot_self]
    rfl
  · rw [State.noteRepair_mem, hmem, State.modCore_mem]
  · rw [hslot, State.modSlot_ne _ hi, State.modCore_slot]

/-! Failed cores (R419, R428) -/

/-- Re-runs are placed as far as they wait. -/
def State.placeWaiting (s : State) (d : Die) : State := s.placeReruns d (s.die d).reruns.length

theorem State.placeWaiting_none {d : Die} (h : (s.die d).reruns = []) : s.placeWaiting d = s := by
  rw [State.placeWaiting, h]
  rfl

theorem State.failCore_retired {d : Die} {c : CoreNo} (h : (s.core d c).retired = true) (sub : Byte) : s.failCore d c sub = s :=
  if_pos h

theorem execBankFail_retired (h : (s.core s.ev.die s.ev.core).retired = true) : exec .bankFail s = .next s :=
  congrArg Host.Outcome.next (if_pos h)

/-- A core without threads takes no slot with it: its pending responders count as lost, what they took is orphaned. -/
def State.lostClaims (s : State) (d : Die) (c : CoreNo) : State :=
  ((s.core d c).pending.foldl (fun s p => s.countAnswer p.census none true) s).orphan fun t => match t.who with
    | .slot i _ => i.die == d && i.core == c && t.record.isNone
    | .node _ _ _ _ => false

theorem State.lostClaims_parts (d : Die) (c : CoreNo) : (s.lostClaims d c).parts = s.parts :=
  (State.orphan_parts _).trans (foldl_keeps State.parts _ (fun _ _ => State.countAnswer_parts ..) _ _)

/-- The core as its failure leaves it, before its memory is poisoned. -/
def State.coreGone (s : State) (d : Die) (c : CoreNo) : State :=
  ((((s.lostClaims d c).modCore d c (·.failed')).countNotify d (.core c) 0x4d).failureMail d c 0).noteRepair d
    { kind := 3, unit := c, sub := 0 }

theorem State.failCore_free {d : Die} {c : CoreNo} (hr : (s.core d c).retired = false)
    (hfree : ∀ n : SlotNo, (s.slot ⟨d, c, n⟩).state = .free) : s.failCore d c 0 = (s.coreGone d c).poisonCore d c := by
  have hslots : (coreSlots d c).foldl (fun s i => s.failThread i) s = s := by
    refine foldl_stays fun i hi => ?_
    obtain ⟨n, -, rfl⟩ := List.mem_map.1 hi
    exact State.failThread_free (hfree _)
  simp only [State.failCore, hr, hslots, Bool.false_eq_true, ↓reduceIte]
  rfl

/-- What a failed core without threads leaves. -/
theorem State.coreGone_parts (d : Die) (c : CoreNo) : ((s.coreGone d c).core d c).retired = true
    ∧ ((s.coreGone d c).core d c).failed = true ∧ (s.coreGone d c).mem = s.mem
    ∧ ((s.coreGone d c).die d).reruns = (s.die d).reruns := by
  let u := (s.lostClaims d c).modCore d c (·.failed')
  have hu : ((u.countNotify d (.core c) 0x4d).failureMail d c 0).parts = u.parts :=
    (State.failureMail_parts ..).trans (State.countNotify_parts ..)
  obtain ⟨-, hmem, -, -, hfit⟩ := State.parts_eq_iff.1 hu
  obtain ⟨-, hmem', -⟩ := State.parts_eq_iff.1 (State.lostClaims_parts (s := s) d c)
  refine ⟨?_, ?_, ?_, ?_⟩
  · rw [State.coreGone, State.noteRepair_core]
    exact (congrArg Prod.fst (hfit d c)).trans (congrArg (·.retired) (State.modCore_self ..))
  · rw [State.coreGone, State.noteRepair_core]
    exact (congrArg (·.2.1) (hfit d c)).trans (congrArg (·.failed) (State.modCore_self ..))
  · rw [State.coreGone, State.noteRepair_mem, hmem, State.modCore_mem, hmem']
  · rw [State.coreGone, State.noteRepair_reruns, State.reruns_of_parts hu, State.modCore_die,
      State.reruns_of_parts (State.lostClaims_parts d c)]

/-- A core's failure is no event of its own. -/
theorem State.failCore_ev (d : Die) (c : CoreNo) (sub : Byte) : (s.failCore d c sub).ev = s.ev := by
  have hev {u v : State} (h : v.parts = u.parts) : v.ev = u.ev := (State.parts_eq_iff.1 h).1
  simp only [State.failCore]
  split
  · rfl
  · rw [(State.poisonCore_keeps ..).1, State.noteRepair_ev, hev (State.failureMail_parts ..), hev (State.countNotify_parts ..),
      State.modCore_ev, hev (State.orphan_parts _)]
    rw [foldl_keeps State.ev _ (fun _ _ => hev (State.countAnswer_parts ..))]
    exact foldl_keeps State.ev _ (fun _ _ => State.failThread_ev _) _ _

/-- A core fails, and what its failure lets be re-run is placed. -/
theorem execCoreFail_places : exec .coreFail s = .next ((s.failCore s.ev.die s.ev.core 0).placeWaiting s.ev.die) := by
  change execCoreFail s = _
  rw [execCoreFail, coreFailEvent, State.placeWaiting, State.failCore_ev]

/-- A core without threads, on a die where no re-run waits, fails. -/
theorem execCoreFail_free (hr : (s.core s.ev.die s.ev.core).retired = false) (hnone : (s.die s.ev.die).reruns = [])
    (hfree : ∀ n : SlotNo, (s.slot ⟨s.ev.die, s.ev.core, n⟩).state = .free) :
    exec .coreFail s = .next ((s.coreGone s.ev.die s.ev.core).poisonCore s.ev.die s.ev.core) := by
  obtain ⟨-, -, -, hreruns⟩ := State.coreGone_parts (s := s) s.ev.die s.ev.core
  have hstays : (((s.coreGone s.ev.die s.ev.core).poisonCore s.ev.die s.ev.core).die s.ev.die).reruns = [] :=
    (congrArg Prod.snd ((State.poisonCore_keeps ..).2.2.1 s.ev.die)).trans (hreruns.trans hnone)
  rw [execCoreFail_places, State.failCore_free hr hfree, State.placeWaiting_none hstays]

/-! Failed banks (R342, R419) -/

section

variable (hr : (s.core s.ev.die s.ev.core).retired = false)
include hr

/-- Bank 7 takes its core. -/
theorem execBankFail_core (hb : s.ev.unit % 8 = 7) :
    exec .bankFail s = .next ((s.failCore s.ev.die s.ev.core 1).placeWaiting s.ev.die) := by
  change execBankFail s = _
  simp only [execBankFail, hr, hb, Bool.false_eq_true, ↓reduceIte]
  rfl

section

variable {b : Nat} (hb : s.ev.unit % 8 = b) (hlt : b < 7)
include hb hlt

/-- A bank whose slots are out of use does not fail again. -/
theorem execBankFail_stays (hlow : (s.core s.ev.die s.ev.core).rslot.getLsbD (2 * b) = true)
    (hhigh : (s.core s.ev.die s.ev.core).rslot.getLsbD (2 * b + 1) = true) :
    exec .bankFail s = .next (s.placeWaiting s.ev.die) := by
  change execBankFail s = _
  simp only [execBankFail, hr, hb, hlt.ne, hlow, hhigh, Bool.and_self, Bool.false_eq_true, ↓reduceIte]
  rfl

/-- The bank's slots are out of use: noted, counted and told of. -/
def State.bankGone (s : State) (d : Die) (c : CoreNo) (b : Nat) : State :=
  (((s.retireUnit d { kind := 2, unit := c, sub := BitVec.ofNat 4 b }).noteRepair d
    { kind := 2, unit := c, sub := BitVec.ofNat 4 b }).countNotify d (.core c) 0x4d).failureMail d c 1

end

end

/-- A failed bank below 7 takes two slots of its core, which stays in use. -/
theorem State.bankGone_parts (d : Die) (c : CoreNo) {b : Nat} (hlt : b < 7) :
    ((s.bankGone d c b).core d c).rslot = ((s.core d c).rslot ||| 3#16 <<< (2 * b))
      ∧ ((s.bankGone d c b).core d c).retired = (s.core d c).retired ∧ (s.bankGone d c b).mem = s.mem
      ∧ (s.bankGone d c b).slots = s.slots ∧ ((s.bankGone d c b).die d).reruns = (s.die d).reruns := by
  let e : RepairEntry := { kind := 2, unit := c, sub := BitVec.ofNat 4 b }
  have hsub : (BitVec.ofNat 4 b).toNat = b := by
    rw [BitVec.toNat_ofNat]
    omega
  have hne : e.sub ≠ 7 := fun h => by
    have h7 : (BitVec.ofNat 4 b).toNat = 7 := congrArg BitVec.toNat h
    omega
  let u := s.retireUnit d e
  have hu : u = s.modCore d c fun x => { x with rslot := x.rslot ||| 3#16 <<< (2 * b) } := by
    rw [show u = _ from State.retireUnit_bank s d rfl hne, hsub, Nat.mod_eq_of_lt (hlt.trans (by decide))]
  have hv : (s.bankGone d c b).parts = (u.noteRepair d e).parts :=
    (State.failureMail_parts ..).trans (State.countNotify_parts ..)
  obtain ⟨-, hmem, -, -, hfit⟩ := State.parts_eq_iff.1 hv
  have hcore : ((s.bankGone d c b).core d c).fitness = (u.core d c).fitness := by rw [hfit d c, State.noteRepair_core]
  rw [hu, State.modCore_self] at hcore
  refine ⟨congrArg (·.2.2) hcore, congrArg Prod.fst hcore, ?_, ?_, ?_⟩
  · rw [hmem, State.noteRepair_mem, hu, State.modCore_mem]
  · rw [State.bankGone, State.failureMail_slots, State.countNotify_slots, State.noteRepair_slots]
    exact (congrArg State.slots hu).trans (State.modCore_slots ..)
  · rw [State.reruns_of_parts hv, State.noteRepair_reruns, hu, State.modCore_die]

/-- A bank whose slots hold no thread fails, on a die where no re-run waits. -/
theorem execBankFail_free (hr : (s.core s.ev.die s.ev.core).retired = false) {b : Nat} (hb : s.ev.unit % 8 = b) (hlt : b < 7)
    (hlow : (s.core s.ev.die s.ev.core).rslot.getLsbD (2 * b) = false) (hnone : (s.die s.ev.die).reruns = [])
    (hfree : (s.slot ⟨s.ev.die, s.ev.core, BitVec.ofNat 4 (2 * b)⟩).state = .free)
    (hfree' : (s.slot ⟨s.ev.die, s.ev.core, BitVec.ofNat 4 (2 * b + 1)⟩).state = .free) :
    exec .bankFail s = .next (s.bankGone s.ev.die s.ev.core b) := by
  obtain ⟨-, -, -, -, hreruns⟩ := State.bankGone_parts (s := s) s.ev.die s.ev.core hlt
  have hstays := State.placeWaiting_none (hreruns.trans hnone)
  change execBankFail s = _
  simp only [execBankFail, hr, hb, hlt.ne, hlow, State.failThread_free hfree, State.failThread_free hfree', Bool.false_and,
    Bool.false_eq_true, ↓reduceIte]
  exact congrArg Host.Outcome.next hstays

/-- Settles O52: memory errors, then suspect cores, then failed cores, threads and banks. -/
theorem partsFail : Obligations.PartsFail := by
  unfold Obligations.PartsFail
  refine ⟨fun s u c => ?_, fun s => ?_, fun s => ?_⟩
  · intro d pa
    refine ⟨execEccCorrectable_counts, fun hload => execEccCorrectable_core hload rfl, execEccUncorrectable_nothing rfl,
      fun hspace hbad => ⟨fun h => ?_, fun n hz hload hn => execEccUncorrectable_slice rfl hspace hbad hz hload hn,
        fun hz hload => ⟨execEccUncorrectable_noLine rfl hspace hbad hz hload,
          execEccUncorrectable_line rfl hspace hbad hz hload⟩⟩, fun hz => if_pos hz⟩
    exact execEccUncorrectable_home rfl hspace hbad (h.imp_left fun h1 => by rw [h1]; decide)
  · intro d c x
    exact ⟨fun h => congrArg Host.Outcome.next (if_pos h), fun h => congrArg Host.Outcome.next (if_neg (by simp [x, d, c, h])),
      x.errorProne_iff, execCoreret_stays, execCoreret_retires, fun h n hn => State.coreEmpty_free h hn⟩
  · intro d c b placed
    refine ⟨⟨execCoreFail_places, execCoreFail_places⟩, fun h => ⟨State.failCore_retired h, execBankFail_retired h⟩,
      fun hr hnone hfree => ?_, fun t i hj hs hm => State.failThread_journaled hj hs hm, execBankFail_core,
      fun hr hlt => ⟨execBankFail_stays hr rfl hlt, fun hlow hnone hfree hfree' => ?_⟩⟩
    · obtain ⟨hretired, hfailed, hmem, -⟩ := State.coreGone_parts (s := s) d c
      obtain ⟨-, hkept, hlasting, hfit⟩ := State.poisonCore_keeps (s := s.coreGone d c) d c
      obtain ⟨hscratch, hskein⟩ := State.poisonCore_poisoned (s := s.coreGone d c) d c
      refine ⟨_, execCoreFail_free hr hnone hfree, ?_, ?_, hscratch, hskein, hkept.trans hmem, ?_⟩
      · exact (congrArg Prod.fst (hfit d c)).trans hretired
      · exact (congrArg (·.2.1) (hfit d c)).trans hfailed
      · have hrepairs : (((s.coreGone d c).poisonCore d c).die d).boot.repairs = ((s.coreGone d c).die d).boot.repairs :=
          congrArg (·.1.repairs) (hlasting d)
        rw [hrepairs]
        exact State.noteRepair_mem_repairs ..
    · obtain ⟨hrslot, hretired, hmem, hslots, -⟩ := State.bankGone_parts (s := s) d c hlt
      exact ⟨_, execBankFail_free hr rfl hlt hlow hnone hfree hfree', hrslot, hretired.trans hr, hmem, hslots⟩

end Sys2Proof.Machine
end
